-- ==== Sys2Proof/Word.lean ====
section
/-!
DEFINITION. The word types of the part and their plainest arithmetic.
-/

namespace Sys2Proof

/-- One byte (00_scope.md R4: multi-byte values are little-endian). -/
abbrev Byte := BitVec 8

/-- A 32-bit register word (03_encoding.md R45). -/
abbrev Word := BitVec 32

/-- One bit per lane; bit l governs lane l, and lanes at or above W read zero (03_encoding.md R48, R52).
The architectural widths reach 128 (01_machine.md R20). -/
abbrev Mask := BitVec 128

/-- A 72-bit virtual byte address (00_scope.md R2). -/
abbrev VAddr := BitVec 72

end Sys2Proof
end

