-- ==== Sys2Proof/Syntax.lean ====
section
/-!
DEFINITION. The instruction set: one constructor for each row of the opcode table.

The first 218 constructors are the encoded words of 03_encoding.md R76; their arguments are the fields of the
word (R74), high field first, under the letters of the table.  The other 81, after them, are the steps of
95_what_each_step_holds.md that have no encoding: things engines, agents, the host and the companion do.
A constructor's docstring names its rule.
-/

namespace Sys2Proof

/-- An instruction word or an event of the part. -/
inductive Instr where
  /-- NOP (R66). Uses one start of the clock and has no effect. -/
  | nop
  /-- HINT_S (R67). Sets stall counts that cover the next eight non-hint words of the issue group. -/
  | hintS (a b c d e f g h : BitVec 3)
  /-- HINT_H (R69). Sets hold codes that place operands of the next four non-hint words in the hold latch. -/
  | hintH (a b c d e f g h j k m n : BitVec 2)
  /-- EXT (R70). Supplies a 24-bit payload that extends the immediate, offset or displacement of the following word. -/
  | ext (i : BitVec 24)
  /-- BRA (R96). Branches the whole issuing group to a target relative to the branch word. -/
  | bra (o : BitVec 24)
  /-- BRZ (R96). Branches the whole group when the S operand is zero. -/
  | brz (s : BitVec 8) (o : BitVec 16)
  /-- BRNZ (R96). Branches the whole group when the S operand is nonzero. -/
  | brnz (s : BitVec 8) (o : BitVec 16)
  /-- BRANY (R97). Decides per slice whether any live lane has the predicate set, and may part the group. -/
  | brany (p : BitVec 8) (o : BitVec 16)
  /-- BRALL (R97). Decides per slice whether every live lane has the predicate set, and may part the group. -/
  | brall (p : BitVec 8) (o : BitVec 16)
  /-- CALL (R98). Writes the return address into s95 and branches to the target. -/
  | call (o : BitVec 24)
  /-- CALLI (R99). Writes s95 and jumps to a code pointer, requiring a PAD.call at the target. -/
  | calli (a : BitVec 8)
  /-- JMPI (R99). Jumps to a code pointer, requiring a PAD.jmp at the target. -/
  | jmpi (a : BitVec 8)
  /-- RET (R99). Jumps to the code pointer in the S operand, requiring a PAD.ret at the target. -/
  | ret (a : BitVec 8)
  /-- PAD (R100). Marks a landing point of a given kind and has no effect when executed. -/
  | pad (k : BitVec 2)
  /-- MARK (R104). Pushes a rejoin entry holding the target address and current mask onto every slice's rejoin stack. -/
  | mark (o : BitVec 24)
  /-- JOIN (R106). Checks and pops each slice's rejoin entry and restores EXEC from it. -/
  | join
  /-- REGANG (R109). Makes the issue group wait until the hoist's slices can merge into one group. -/
  | regang
  /-- EXIT (R110). Delivers a pending FPX or exits the group's slices, re-evaluating REGANG and retiring the hoist when none remains. -/
  | exit
  /-- TRAP (R111). Raises a precise TRAP-class trap carrying the given code. -/
  | trap (i : BitVec 16)
  /-- YIELD (R112). Keeps the issue group from starting for 16 cycles and then ranks it after more recent groups. -/
  | yield
  /-- CHK (R113). Compares every slice's Guidon signature with the expected value, resetting it or raising SIG. -/
  | chk (i : BitVec 16)
  /-- ISYNC (R114). Waits for cnt.w to reach zero and discards prefetched code words. -/
  | isync
  /-- WAITC (R115). Waits until the four outstanding-work counters are at or below their thresholds. -/
  | waitc (g s w x : BitVec 4)
  /-- MSET (R105). Sets EXEC over the group's slices by the selected mode from the rejoin stack top and a predicate. -/
  | mset (m a : BitVec 8)
  /-- MSAVE (R108). Copies EXEC into a P register, one lane per bit. -/
  | msave (d : BitVec 8)
  /-- MREST (R108). Sets EXEC from a P register, with dead lanes cleared. -/
  | mrest (a : BitVec 8)
  /-- MPOP (R107). Pops each slice's rejoin stack top without changing EXEC. -/
  | mpop
  /-- SADD (R117). Scalar add modulo 2^32. -/
  | sadd (d a b : BitVec 8)
  /-- SSUB (R117). Scalar subtract modulo 2^32. -/
  | ssub (d a b : BitVec 8)
  /-- SMUL (R117). Scalar multiply, low 32 bits. -/
  | smul (d a b : BitVec 8)
  /-- SMULH (R117). Scalar signed multiply, high 32 bits. -/
  | smulh (d a b : BitVec 8)
  /-- SMAD (R117). Scalar multiply-add into the destination. -/
  | smad (d a b : BitVec 8)
  /-- SAND (R117). Scalar bitwise AND. -/
  | sand (d a b : BitVec 8)
  /-- SOR (R117). Scalar bitwise OR. -/
  | sor (d a b : BitVec 8)
  /-- SXOR (R117). Scalar bitwise XOR. -/
  | sxor (d a b : BitVec 8)
  /-- SSHL (R117). Scalar shift left. -/
  | sshl (d a b : BitVec 8)
  /-- SSHR (R117). Scalar logical shift right. -/
  | sshr (d a b : BitVec 8)
  /-- SSRA (R117). Scalar arithmetic shift right. -/
  | ssra (d a b : BitVec 8)
  /-- SMIN (R117). Scalar signed minimum. -/
  | smin (d a b : BitVec 8)
  /-- SMAX (R117). Scalar signed maximum. -/
  | smax (d a b : BitVec 8)
  /-- SMINN (R117). Scalar unsigned minimum. -/
  | sminn (d a b : BitVec 8)
  /-- SMAXN (R117). Scalar unsigned maximum. -/
  | smaxn (d a b : BitVec 8)
  /-- SADDI (R118). Scalar add of a sign-extended or EXT-widened immediate. -/
  | saddi (d a i : BitVec 8)
  /-- SMOVI (R118). Moves a sign-extended or EXT-widened immediate into an S register. -/
  | smovi (d : BitVec 8) (i : BitVec 16)
  /-- SMOVHI (R118). Sets the high half of an S register from an immediate. -/
  | smovhi (d : BitVec 8) (i : BitVec 16)
  /-- SCMP (R119). Compares the destination with an operand under a condition and writes 1 or 0. -/
  | scmp (d a : BitVec 8) (c : BitVec 3)
  /-- SSEL (R120). Selects one of two operands by the destination's old value. -/
  | ssel (d a b : BitVec 8)
  /-- SPOP (R121). Counts one bits of a scalar. -/
  | spop (d a : BitVec 8)
  /-- SCLZ (R121). Counts leading zeros of a scalar. -/
  | sclz (d a : BitVec 8)
  /-- SBFE (R122). Extracts a bit field of a scalar, optionally sign-extended. -/
  | sbfe (d a b : BitVec 8)
  /-- SMOV (R121). Copies a scalar operand. -/
  | smov (d a : BitVec 8)
  /-- ASET (R126). Writes one field of an A register from an S operand. -/
  | aset (d a s : BitVec 8)
  /-- AGET (R127). Reads one field of an A register into an S register. -/
  | aget (d a s : BitVec 8)
  /-- ALD (R128). Loads a whole 32-byte A register image from memory. -/
  | ald (d o : BitVec 8) (n m : BitVec 4)
  /-- AST (R128). Stores a whole 32-byte A register image to memory. -/
  | ast (d o : BitVec 8) (n m : BitVec 4)
  /-- AADV (R129). Moves an A register's cursor by STEP or an S value, checking the window. -/
  | aadv (d a m : BitVec 8)
  /-- ARESTR (R130). Narrows a window to the part from its cursor and masks its permissions. -/
  | arestr (d a b : BitVec 8)
  /-- AMOV (R131). Copies a whole A register. -/
  | amov (d a : BitVec 8)
  /-- VADD (R135). Per-lane integer add. -/
  | vadd (d a b : BitVec 8)
  /-- VSUB (R135). Per-lane integer subtract. -/
  | vsub (d a b : BitVec 8)
  /-- VMUL (R135). Per-lane integer multiply, low bits. -/
  | vmul (d a b : BitVec 8)
  /-- VMULH (R135). Per-lane signed multiply, high bits. -/
  | vmulh (d a b : BitVec 8)
  /-- VMULHN (R135). Per-lane unsigned multiply, high bits. -/
  | vmulhn (d a b : BitVec 8)
  /-- VMAD (R135). Per-lane multiply-add into the destination. -/
  | vmad (d a b : BitVec 8)
  /-- VAND (R135). Per-lane bitwise AND. -/
  | vand (d a b : BitVec 8)
  /-- VOR (R135). Per-lane bitwise OR. -/
  | vor (d a b : BitVec 8)
  /-- VXOR (R135). Per-lane bitwise XOR. -/
  | vxor (d a b : BitVec 8)
  /-- VSHL (R135). Per-lane shift left. -/
  | vshl (d a b : BitVec 8)
  /-- VSHR (R135). Per-lane logical shift right. -/
  | vshr (d a b : BitVec 8)
  /-- VSRA (R135). Per-lane arithmetic shift right. -/
  | vsra (d a b : BitVec 8)
  /-- VMIN (R135). Per-lane signed minimum. -/
  | vmin (d a b : BitVec 8)
  /-- VMAX (R135). Per-lane signed maximum. -/
  | vmax (d a b : BitVec 8)
  /-- VMINN (R135). Per-lane unsigned minimum. -/
  | vminn (d a b : BitVec 8)
  /-- VMAXN (R135). Per-lane unsigned maximum. -/
  | vmaxn (d a b : BitVec 8)
  /-- VABS (R135). Per-lane signed absolute value. -/
  | vabs (d a : BitVec 8)
  /-- VPOP (R135). Per-lane population count. -/
  | vpop (d a : BitVec 8)
  /-- VCLZ (R135). Per-lane count of leading zeros. -/
  | vclz (d a : BitVec 8)
  /-- VBFE (R135). Per-lane bit-field extract. -/
  | vbfe (d a b : BitVec 8)
  /-- VBFI (R136). Per-lane bit-field insert into the destination. -/
  | vbfi (d a b : BitVec 8)
  /-- VADDC (R137). Per-lane 64-bit add over register pairs. -/
  | vaddc (d a b : BitVec 8)
  /-- VMOV (R135). Per-lane copy of a V register, keeping its tag on a full write. -/
  | vmov (d a : BitVec 8)
  /-- VMOVI (R138). Moves an immediate into every lane, tagged U on a full write. -/
  | vmovi (d : BitVec 8) (i : BitVec 16)
  /-- VBCAST (R138). Broadcasts an S value into every lane. -/
  | vbcast (d a : BitVec 8)
  /-- VIOTA (R138). Writes base plus lane times stride into each lane, tagged A. -/
  | viota (d a b : BitVec 8)
  /-- VADDI (R138). Per-lane add of an immediate. -/
  | vaddi (d a i : BitVec 8)
  /-- VSHLI (R138). Per-lane shift left by an immediate. -/
  | vshli (d a : BitVec 8) (s : BitVec 5)
  /-- VCMP_EQ (R139). Sets a predicate per lane where the operands are equal. -/
  | vcmpEq (d a b : BitVec 8)
  /-- VCMP_NE (R139). Sets a predicate per lane where the operands differ. -/
  | vcmpNe (d a b : BitVec 8)
  /-- VCMP_LT (R139). Signed less-than compare into a predicate. -/
  | vcmpLt (d a b : BitVec 8)
  /-- VCMP_LE (R139). Signed less-or-equal compare into a predicate. -/
  | vcmpLe (d a b : BitVec 8)
  /-- VCMP_GT (R139). Signed greater-than compare into a predicate. -/
  | vcmpGt (d a b : BitVec 8)
  /-- VCMP_GE (R139). Signed greater-or-equal compare into a predicate. -/
  | vcmpGe (d a b : BitVec 8)
  /-- VCMP_LTN (R139). Unsigned less-than compare into a predicate. -/
  | vcmpLtn (d a b : BitVec 8)
  /-- VCMP_GEN (R139). Unsigned greater-or-equal compare into a predicate. -/
  | vcmpGen (d a b : BitVec 8)
  /-- VFCMP_EQ (R140). FP32 ordered-equal compare into a predicate. -/
  | vfcmpEq (d a b : BitVec 8)
  /-- VFCMP_NE (R140). FP32 unordered-or-not-equal compare into a predicate. -/
  | vfcmpNe (d a b : BitVec 8)
  /-- VFCMP_LT (R140). FP32 ordered less-than compare into a predicate. -/
  | vfcmpLt (d a b : BitVec 8)
  /-- VFCMP_LE (R140). FP32 ordered less-or-equal compare into a predicate. -/
  | vfcmpLe (d a b : BitVec 8)
  /-- VFCMP_GT (R140). FP32 ordered greater-than compare into a predicate. -/
  | vfcmpGt (d a b : BitVec 8)
  /-- VFCMP_GE (R140). FP32 ordered greater-or-equal compare into a predicate. -/
  | vfcmpGe (d a b : BitVec 8)
  /-- VFCMP_ORD (R140). Sets a predicate where neither FP32 operand is a NaN. -/
  | vfcmpOrd (d a b : BitVec 8)
  /-- VFCMP_UNO (R140). Sets a predicate where either FP32 operand is a NaN. -/
  | vfcmpUno (d a b : BitVec 8)
  /-- VCMOV (R141). Conditionally moves a V register per lane under a predicate. -/
  | vcmov (d a b : BitVec 8)
  /-- PAND (R142). Predicate AND over the group's lanes. -/
  | pand (d a b : BitVec 8)
  /-- POR (R142). Predicate OR over the group's lanes. -/
  | por (d a b : BitVec 8)
  /-- PXOR (R142). Predicate XOR over the group's lanes. -/
  | pxor (d a b : BitVec 8)
  /-- PNOT (R142). Predicate NOT over the group's lanes. -/
  | pnot (d a : BitVec 8)
  /-- PFROMS (R143). Sets 32 lanes of a predicate from the bits of an S value. -/
  | pfroms (d a : BitVec 8) (q : BitVec 2)
  /-- PTOS (R143). Packs 32 lanes of a predicate into an S register. -/
  | ptos (d a : BitVec 8) (q : BitVec 2)
  /-- VFADD (R257). FP32 add per lane. -/
  | vfadd (d a b : BitVec 8)
  /-- VFSUB (R257). FP32 subtract per lane. -/
  | vfsub (d a b : BitVec 8)
  /-- VFMUL (R257). FP32 multiply per lane. -/
  | vfmul (d a b : BitVec 8)
  /-- VFMA (R257). FP32 fused multiply-add into the destination. -/
  | vfma (d a b : BitVec 8)
  /-- VFMIN (R258). FP32 minimum per lane. -/
  | vfmin (d a b : BitVec 8)
  /-- VFMAX (R258). FP32 maximum per lane. -/
  | vfmax (d a b : BitVec 8)
  /-- VFABS (R257). Clears the FP32 sign bit per lane. -/
  | vfabs (d a : BitVec 8)
  /-- VFCLASS (R259). Writes a one-hot class mask of an FP32 value per lane. -/
  | vfclass (d a : BitVec 8)
  /-- VHADD (R260). Packed FP16 add. -/
  | vhadd (d a b : BitVec 8)
  /-- VHMUL (R260). Packed FP16 multiply. -/
  | vhmul (d a b : BitVec 8)
  /-- VHFMA (R260). Packed FP16 fused multiply-add. -/
  | vhfma (d a b : BitVec 8)
  /-- VBADD (R260). Packed BF16 add. -/
  | vbadd (d a b : BitVec 8)
  /-- VBMUL (R260). Packed BF16 multiply. -/
  | vbmul (d a b : BitVec 8)
  /-- VBFMA (R260). Packed BF16 fused multiply-add. -/
  | vbfma (d a b : BitVec 8)
  /-- VHDOT (R261). FP16 pair dot product accumulated in FP32. -/
  | vhdot (d a b : BitVec 8)
  /-- VBDOT (R261). BF16 pair dot product accumulated in FP32. -/
  | vbdot (d a b : BitVec 8)
  /-- VDADD (R262). FP64 add on register pairs. -/
  | vdadd (d a b : BitVec 8)
  /-- VDMUL (R262). FP64 multiply on register pairs. -/
  | vdmul (d a b : BitVec 8)
  /-- VDFMA (R262). FP64 fused multiply-add on register pairs. -/
  | vdfma (d a b : BitVec 8)
  /-- VDMIN (R262). FP64 minimum on register pairs. -/
  | vdmin (d a b : BitVec 8)
  /-- VDMAX (R262). FP64 maximum on register pairs. -/
  | vdmax (d a b : BitVec 8)
  /-- VCVT (R263). Converts among FP32, FP16, BF16 and FP64 per lane. -/
  | vcvt (d a : BitVec 8) (s t : BitVec 4)
  /-- VQNT (R267). Scales an FP32 value and converts it into a narrow element of the destination. -/
  | vqnt (d a b : BitVec 8)
  /-- VDQNT (R268). Converts a narrow element to FP32 and applies its block scale. -/
  | vdqnt (d a b : BitVec 8)
  /-- VPACK (R265). Converts an FP32 value into one narrow element of the destination word. -/
  | vpack (d a b : BitVec 8)
  /-- VUNPK (R266). Converts one narrow element of a word to FP32. -/
  | vunpk (d a : BitVec 8) (f : BitVec 4) (k : BitVec 3)
  /-- VCBDEC (R269). Decodes one weight of a CB2 word and scales it to FP32. -/
  | vcbdec (d a b : BitVec 8)
  /-- VF2I (R270). Converts FP32 or FP64 to an integer type with saturation. -/
  | vf2i (d a : BitVec 8) (w : BitVec 1) (t : BitVec 4)
  /-- VI2F (R271). Converts an integer type to a floating-point type. -/
  | vi2f (d a : BitVec 8) (t : BitVec 2) (s : BitVec 4)
  /-- VRND (R272). Rounds to an integral value in the source format under an explicit mode. -/
  | vrnd (d a : BitVec 8) (w : BitVec 1) (m : BitVec 3)
  /-- VRCP (R273). Correctly rounded FP32 reciprocal. -/
  | vrcp (d a : BitVec 8)
  /-- VRSQ (R273). Correctly rounded FP32 reciprocal square root. -/
  | vrsq (d a : BitVec 8)
  /-- VSQRT (R273). Correctly rounded FP32 square root. -/
  | vsqrt (d a : BitVec 8)
  /-- VEXP2 (R273). Correctly rounded FP32 base-2 exponential. -/
  | vexp2 (d a : BitVec 8)
  /-- VLOG2 (R273). Correctly rounded FP32 base-2 logarithm. -/
  | vlog2 (d a : BitVec 8)
  /-- VSIN (R273). Correctly rounded FP32 sine. -/
  | vsin (d a : BitVec 8)
  /-- VCOS (R273). Correctly rounded FP32 cosine. -/
  | vcos (d a : BitVec 8)
  /-- VTANH (R273). Correctly rounded FP32 hyperbolic tangent. -/
  | vtanh (d a : BitVec 8)
  /-- VPERM (R145). Reads each lane's value from a lane named per lane, through the scratchpad crossbar. -/
  | vperm (d a b : BitVec 8)
  /-- VSHFL (R144). Shuffles values between lanes by a fixed or width-relative amount. -/
  | vshfl (d a : BitVec 8) (m : BitVec 3) (r : BitVec 1) (n : BitVec 4)
  /-- VRED (R148). Reduces participating lanes in a fixed tree into an S register. -/
  | vred (d a : BitVec 8) (o : BitVec 4)
  /-- VSCAN (R149). Computes a forward or reverse, inclusive or exclusive prefix across lanes. -/
  | vscan (d a : BitVec 8) (o : BitVec 4) (i r : BitVec 1)
  /-- VOTE (R150). Writes an ANY, ALL or UNI vote of a predicate to every live lane. -/
  | vote (d a m : BitVec 8)
  /-- VBALLOT (R151). Packs a predicate of 32 participating lanes into an S register. -/
  | vballot (d a : BitVec 8) (q : BitVec 2)
  /-- VMATCH (R152). Writes per lane a mask of lanes in a quarter holding an equal value. -/
  | vmatch (d a : BitVec 8) (q : BitVec 2)
  /-- VREGRP (R157). Checks and arrives a hoist at a block-level regrouping of surviving lanes across hoists. -/
  | vregrp (d : BitVec 8) (x : BitVec 1) (c : BitVec 6) (b : BitVec 8)
  /-- VREORD (R155). Packs participating lanes of the group in ascending key order, moving a register range. -/
  | vreord (d a : BitVec 8) (x : BitVec 1) (c : BitVec 6)
  /-- VBROAD (R146). Broadcasts one lane's value, named by an S operand, to every live lane. -/
  | vbroad (d a b : BitVec 8)
  /-- VLD (R177). Loads per lane from memory through a window. -/
  | vld (d o : BitVec 8) (n m : BitVec 4)
  /-- VST (R177). Stores per lane to memory through a window. -/
  | vst (d o : BitVec 8) (n m : BitVec 4)
  /-- VLDS (R177). Loads per lane from the scratchpad segment. -/
  | vlds (d o : BitVec 8) (n m : BitVec 4)
  /-- VSTS (R177). Stores per lane to the scratchpad segment. -/
  | vsts (d o : BitVec 8) (n m : BitVec 4)
  /-- SLD (R177). Loads once for the group into an S register. -/
  | sld (d o : BitVec 8) (n m : BitVec 4)
  /-- SST (R177). Stores an S register once for the group. -/
  | sst (d o : BitVec 8) (n m : BitVec 4)
  /-- PREF (R179). Brings named lines toward L1 or L2, skipping lanes that would fault. -/
  | pref (o : BitVec 8) (n m : BitVec 4)
  /-- PIN (R180). Pins named lines at their home slices and reports per lane whether pinned. -/
  | pin (p o : BitVec 8) (n m : BitVec 4)
  /-- UNPIN (R180). Unpins named lines. -/
  | unpin (o : BitVec 8) (n m : BitVec 4)
  /-- CFLUSH (R181). Writes dirty named lines back and optionally invalidates them. -/
  | cflush (o : BitVec 8) (n m : BitVec 4)
  /-- SPILL (R183). Writes whole V registers of every non-dead lane to a window, register by register. -/
  | spill (f c : BitVec 8) (n : BitVec 4)
  /-- FILL (R183). Loads whole V registers of every non-dead lane from a window, register by register. -/
  | fill (f c : BitVec 8) (n : BitVec 4)
  /-- CPY (R189). Reads a copy descriptor, checks the windows and starts a tensor copy in the background. -/
  | cpy (d s c q : BitVec 4) (b : BitVec 8)
  /-- CPYS (R191). Checks and starts a contiguous byte copy without a descriptor. -/
  | cpys (d s : BitVec 4) (a b : BitVec 8)
  /-- BATCH (R192). Closes the hoist's open set of copies into a numbered batch. -/
  | batch
  /-- WAITB (R193). Waits until the named batches are complete, reporting a copy failure if any. -/
  | waitb (a : BitVec 8)
  /-- BARA (R197). Arrives every counting lane of the group at a block or span barrier after delivering FPX and draining stores. -/
  | bara (d a b : BitVec 8)
  /-- BARW (R198). Waits until the group's last arrival at a barrier lies in a completed phase. -/
  | barw (a : BitVec 8)
  /-- BCARR (R200). Arms a byte-counting barrier with expected bytes and may complete a phase. -/
  | bcarr (d a b : BitVec 8)
  /-- BCWAIT (R202). Waits until a byte-counting barrier passes a given phase. -/
  | bcwait (a b : BitVec 8)
  /-- QPUSH (R207). Pushes one element per live lane into a queue, clearing EXEC of unserved lanes, optionally parking. -/
  | qpush (f : BitVec 8) (m n : BitVec 4) (b : BitVec 8)
  /-- QPOP (R207). Pops one element per live lane from a queue, clearing EXEC of unserved lanes, optionally parking. -/
  | qpop (f : BitVec 8) (m n : BitVec 4) (b : BitVec 8)
  /-- QCFG (R205). Resets a queue's header to empty. -/
  | qcfg (a b : BitVec 8)
  /-- ACQ (R208). Requests the block's full allotment, granting it all at once or saving the block as an ACQWAIT record. -/
  | acq
  /-- ATOM (R230). Performs an atomic read-modify-write per live lane at the named scope and returns the old value. -/
  | atom (s : BitVec 2) (d : BitVec 6) (q x : BitVec 1) (o : BitVec 6) (n m : BitVec 4)
  /-- RED (R230). Performs an atomic read-modify-write per live lane without returning a value. -/
  | red (s : BitVec 2) (d : BitVec 6) (q x : BitVec 1) (o : BitVec 6) (n m : BitVec 4)
  /-- ACAS (R232). Atomic compare-and-swap per live lane returning the old value. -/
  | acas (s : BitVec 2) (d : BitVec 6) (q x : BitVec 1) (o : BitVec 6) (n m : BitVec 4)
  /-- SATOM (R233). Performs one atomic for the issue group on the scalar path. -/
  | satom (s : BitVec 2) (d : BitVec 6) (q x : BitVec 1) (o : BitVec 6) (n m : BitVec 4)
  /-- MWAIT (R238). Evaluates a memory condition per live lane, completing as an acquire or registering monitors and waiting. -/
  | mwait (s : BitVec 2) (d : BitVec 6) (x : BitVec 1) (o : BitVec 6) (n : BitVec 4) (z : BitVec 1) (c : BitVec 3)
  /-- FENCE (R237). Delivers FPX, then acts as a release, acquire or both at its scope. -/
  | fence (k s : BitVec 2)
  /-- STREL (R236). Stores as VST and acts as a release at its scope. -/
  | strel (s : BitVec 2) (d : BitVec 6) (x : BitVec 1) (o : BitVec 6) (n m : BitVec 4)
  /-- LDACQ (R236). Loads as VLD and acts as an acquire at its scope. -/
  | ldacq (s : BitVec 2) (d : BitVec 6) (x : BitVec 1) (o : BitVec 6) (n m : BitVec 4)
  /-- RELA (R209). Waits for copies and passes, then reduces a region of the block's allotment and frees granules. -/
  | rela (r a : BitVec 8)
  /-- TCFG (R290). Sets the block's cube configuration when no slot is claimed. -/
  | tcfg (a : BitVec 8)
  /-- SLCL (R291). Claims a local operand slot and binds it to a free physical slot. -/
  | slcl (d a : BitVec 8)
  /-- SLRL (R292). Releases a slot after every earlier operation on it, scrubbing and freeing it. -/
  | slrl (a : BitVec 8)
  /-- SLLD (R294). Checks and starts a fill of a slot's 32 lines from a window. -/
  | slld (s : BitVec 8) (n : BitVec 4) (b : BitVec 8)
  /-- SLZ (R293). Zeroes every byte of a claimed slot in slot order. -/
  | slz (a : BitVec 8)
  /-- MXC (R295). Checks and posts a cube pass on a tile into the cluster's reservation table. -/
  | mxc (t p f : BitVec 8)
  /-- MXP (R296). Forces a promotion of a tile in tile order unless its pass count is zero. -/
  | mxp (a : BitVec 8)
  /-- MXRD (R297). Reads tile elements into V registers in tile order. -/
  | mxrd (d a b : BitVec 8)
  /-- MXWR (R297). Writes V registers into tile elements in tile order. -/
  | mxwr (d a b : BitVec 8)
  /-- CBLD (R299). Loads the cluster's codebook table from memory and tags it with the context. -/
  | cbld (n : BitVec 4) (b : BitVec 8)
  /-- SLST (R294). Checks and starts a store of a slot's 32 lines to a window. -/
  | slst (s : BitVec 8) (n : BitVec 4) (b : BitVec 8)
  /-- TRACE (R381). Reads ray registers and starts one closest- or any-hit BVH query per live lane. -/
  | trace (d a b : BitVec 8)
  /-- BEAM (R387). Checks windows and a beam descriptor and starts a tile of sample rays, waiting at a closed coverage gate for non-members. -/
  | beam (d a b : BitVec 8)
  /-- HITRD (R384). Fetches a leaf per live lane and writes a selected attribute. -/
  | hitrd (d a b : BitVec 8)
  /-- FINS (R398). Reserves pool nodes and inserts a depth-sorted node per live lane into its pixel list, merging on overflow. -/
  | fins (s : BitVec 8) (t : BitVec 4)
  /-- FRES (R401). Composites each lane's pixel list over a background into an FP16 image and frees the list. -/
  | fres (s : BitVec 8) (o p : BitVec 4)
  /-- FCLR (R402). Frees every node of each lane's pixel and clears its head word. -/
  | fclr (s : BitVec 8) (t : BitVec 4)
  /-- FCFG (R396). Configures a Bunting pool, grows it by a page, or configures a layered target. -/
  | fcfg (m : BitVec 8) (s p : BitVec 4)
  /-- GATE (R391). Queries, closes or opens the core's coverage gate for a context and returns its member count. -/
  | gate (d m : BitVec 8)
  /-- SRD (R308). Reads a privileged control register. -/
  | srd (d : BitVec 8) (r : BitVec 16)
  /-- SWR (R308). Writes a privileged control register subject to its own rules. -/
  | swr (a : BitVec 8) (r : BitVec 16)
  /-- TRET (R339). Reads the trap frame, restores EXEC, pc, %xprog and s93, and lowers the handler depth. -/
  | tret
  /-- CTXSV (R352). Stops a block, waits for its work to drain and writes it into a save frame, freeing its room. -/
  | ctxsv (d : BitVec 8) (n : BitVec 4) (b : BitVec 8)
  /-- CTXRS (R352). Checks a save frame and makes its block resident on the core with every saved value. -/
  | ctxrs (d : BitVec 8) (n : BitVec 4)
  /-- CKPT (R331). Requests a checkpoint generation and quiesces the hoist until it commits. -/
  | ckpt
  /-- TLBI (R345). Stops matched translations, writes back and unpins their pages, ends holds, wakes monitors and waits for in-flight accesses. -/
  | tlbi (x : BitVec 1) (m : BitVec 3) (a b : BitVec 8)
  /-- HOSTSIG (R434). Acts as a .sys release, appends a signal ring record and raises an MSI-X vector. -/
  | hostsig (a b : BitVec 8)
  /-- EMUL (R79). An unimplemented extension-window opcode enters its bound emulation routine as a trap, or raises ILLOP. -/
  | emul (o : BitVec 3) (x : BitVec 24)
  /-- RESERVED_OPCODE (R78). A word with a reserved opcode raises a precise ILLOP with no effect. -/
  | reservedOpcode (op : BitVec 8) (payload : BitVec 24)
  /-- JOIN_DECREMENT (R327). The Ensign decrements a parked record's JOIN on a wake and pushes it onto the ready queue at zero. -/
  | joinDecrement (ctx : Nat) (frame : BitVec 72)
  /-- HOIST_RETIRE (R110). Retires a hoist whose slices are all absent once its counters and copies reach zero, freeing block room after the last hoist. -/
  | hoistRetire (src : Nat)
  /-- REGANG_MERGE (R109). Merges waiting issue groups into one when all non-absent slices wait at one REGANG, or raises ILLOP on disagreement. -/
  | regangMerge (src : Nat)
  /-- VREGRP_COMPLETE (R158). Packs the live lanes of all waiting participants into positions at one instant once every named hoist has arrived or retired. -/
  | vregrpComplete (src : Nat)
  /-- LOAD_DATA_RETURN (R173). Writes a load's returned data into its destination registers and decrements its counter. -/
  | loadDataReturn (flight : Nat)
  /-- WRITE_PERFORMED (R72). A store or atomic's writes are performed in the die order and cnt.w drops. -/
  | writePerformed (flight : Nat)
  /-- COPY_COMPLETE (R190). Every destination byte of a copy has been performed and the copy leaves the in-flight count. -/
  | copyComplete (flight : Nat)
  /-- SLOT_RELEASE (R292). In the engine, a released slot leaves the claim set and is scrubbed once earlier operations on it complete. -/
  | slotRelease (flight : Nat)
  /-- SLOT_FILL_COMPLETE (R294). The engine writes an SLLD's last line and the slot leaves the filling state. -/
  | slotFillComplete (flight : Nat)
  /-- PASS_COMPLETE (R286). A granted pass accumulates into its tile's rows, may promote, ORs its flags and drops cnt.x. -/
  | passComplete (flight : Nat)
  /-- SLOT_STORE_COMPLETE (R294). Every byte of an SLST is performed and cnt.w drops. -/
  | slotStoreComplete (flight : Nat)
  /-- BLOCK_KILL (R302). A fault in SLLD or SLST engine traffic kills the block and its span and relaunches them from their code entry. -/
  | blockKill (flight : Nat)
  /-- TRACE_COMPLETE (R382). The traversal unit writes each lane's status and hit results and cnt.x drops. -/
  | traceComplete (flight : Nat)
  /-- BEAM_COMPLETE (R387). The beam writes its fragment count and status into sD and cnt.x drops. -/
  | beamComplete (flight : Nat)
  /-- HITRD_COMPLETE (R384). The traversal unit writes each lane's attribute registers and cnt.x drops. -/
  | hitrdComplete (flight : Nat)
  /-- TILE_ORDER_OPERATION (R298). The cube engine performs a posted MXP, MXRD or MXWR on its tile once every earlier operation in tile order has completed, promoting or moving elements and, for MXRD, dropping cnt.x. -/
  | tileOrderOperation (flight : Nat)
  /-- TRANSLATION_REQUEST (R347). A forwarded XLATE parks the block or holds the copy and appends a request to the host fault ring. -/
  | translationRequest (token : Nat)
  /-- GRID_READY (R315). A grid entry whose JOIN reaches zero becomes READY, is checked and reads its indirect counts. -/
  | gridReady (ctx entry : Nat)
  /-- GRID_END (R316). A grid enters ENDING, decrements children's JOIN, advances graph nodes and writes its completion record. -/
  | gridEnd (ctx entry : Nat)
  /-- RELEASE_VOTE (R368). When every paired replica reaches a release point the offers are compared and the committer's buffer commits. -/
  | releaseVote (src : Nat)
  /-- ENSIGN_EVALUATION (R324). An Ensign evaluates candidates on room, signal or its 10 µs timer and admits the first that fits. -/
  | ensignEvaluation (core : Nat)
  /-- PREEMPT_SAVE (R329). A compute block on a removed core is saved as a PREEMPT record once its work drains and a frame is available. -/
  | preemptSave (block : Nat)
  /-- QUIESCE (R419). Once every resident block is stopped and home moves end, the context enters COPY. -/
  | quiesce (ctx : Nat)
  /-- COMMIT_MARKER (R421). Once the bank is acknowledged and APPLIED allows, the marker is written, CKMARK sent and held host writes released. -/
  | commitMarker (ctx : Nat)
  /-- BLOCK_PARK (R34). A block whose hoists cannot issue while one waits on a monitor becomes a parked MONITOR record. -/
  | blockPark (block : Nat)
  /-- COPY_FAIL (R194). A non-forwarded translation, permission or tier problem during transfer stops the copy for later report. -/
  | copyFail (flight : Nat)
  /-- PASS_GRANT (R301). The engine grants the first eligible reservation by effective priority, post time and source number. -/
  | passGrant (cluster : Nat)
  /-- FRAGMENT_PUSH (R388). The coverage unit pushes one fragment record for a hit pixel, waiting for queue room. -/
  | fragmentPush (flight : Nat)
  /-- ATOMIC_SERVICE_REQUEST (R235). The cluster's atomic service hoist takes a device-scope request from its queue and replies to the requester. -/
  | atomicServiceRequest (cluster : Nat)
  /-- LINE_MIGRATE (R165). L2 moves a line toward its heaviest user and leaves a forwarding entry at home. -/
  | lineMigrate (line slice : Nat)
  /-- COPY_BYTE_ARRIVAL (R201). A copy's performed bytes add to its byte-counting barrier's ARRB and may complete a phase. -/
  | copyByteArrival (flight element : Nat)
  /-- HOST_LINE_REREAD (R239). The upstream port re-reads a watched host line at least every 2 µs. -/
  | hostLineReread (line : Nat)
  /-- CODEBOOK_RELOAD (R299). Reloads the engine's codebook from the block's copy before its first pass or VCBDEC after resumption. -/
  | codebookReload (block : Nat)
  /-- COREMASK_COMMIT (R329). A write of COREMASK word 5 commits the new mask, starting pre-emption on removed cores. -/
  | coremaskCommit (ctx : Nat) (mask : BitVec 192)
  /-- HOIST_LOST (R361). An uncorrectable error in hoist-wide state kills every lane of the hoist, which retires. -/
  | hoistLost (src : Nat)
  /-- ADMISSION_HOLD (R324). A first candidate that has not fitted for 1 ms makes the core admit nothing else. -/
  | admissionHold (core : Nat)
  /-- LATE_ARRIVAL (R368). A paired hoist that has not arrived within 1 ms of resident time is treated as disagreeing. -/
  | lateArrival (src : Nat)
  /-- PSEUDO_CHANNEL_FAILING (R371). A pseudo-channel with too many uncorrectable sectors or failed retraining is declared failing, stops admission and saves all blocks. -/
  | pseudoChannelFailing (channel : Nat)
  /-- INTERLEAVE_REBUILD (R371). After the saves, the interleave is rebuilt over the remaining channels, the capacity updated and admission resumed. -/
  | interleaveRebuild (channel : Nat)
  /-- PUSH_DMWR (R309). A Deferrable Memory Write to a push-window slot appends one element or gets Request Retry Status when full. -/
  | pushDmwr (slot : Nat) (data : List Byte)
  /-- PUSH_POSTED (R309). A posted write to a push-window slot appends one element or is discarded and counted in LOST. -/
  | pushPosted (slot : Nat) (data : List Byte)
  /-- ACTIVATE (R307). Reads the context table entry and descriptor and starts the context. -/
  | activate (ctx : BitVec 6)
  /-- REFRESH (R307). Re-reads CTL, COREMASK, TVEC and EMTAB of an active context, all or none. -/
  | refresh (ctx : BitVec 6)
  /-- DESTROY (R307). Empties the core mask, discards every record and pin, and clears the context table entry. -/
  | destroy (ctx : BitVec 6)
  /-- RESOLVE_RETRY (R348). The host's retry outcome releases records and copies waiting on a token to translate afresh. -/
  | resolveRetry (ctx : BitVec 6) (token : BitVec 16)
  /-- RESOLVE_REFUSE (R348). The host's refusal marks waiting hoists to raise XLATE with DETAIL 2 and fails waiting copies. -/
  | resolveRefuse (ctx : BitVec 6) (token : BitVec 16)
  /-- EXPANSION_COMMAND (R439). A 64-byte write to the expansion slot queues a Zstandard expansion for the copy engine of cluster 0. -/
  | expansionCommand (data : List Byte) (posted : Bool)
  /-- EXPANSION_DONE (R439). The copy engine writes STATUS and the produced byte count and raises vector 35. -/
  | expansionDone
  /-- ENABLE (R430). A write of ENABLE checks the host fields and enables the part or reports ERR. -/
  | enable (value : BitVec 32)
  /-- REGISTER_WRITE (R428). A host write to a register without a row of its own, such as Burgee host fields or the power cap, applies or is ignored and logged. -/
  | registerWrite (offset : Nat) (data : List Byte)
  /-- HOST_ACCESS (R426). A host access to T0 through BAR2 or CXL.mem is performed at the home slice in the die order. -/
  | hostAccess (pa : Nat) (write : Bool) (data : List Byte)
  /-- HOST_SNOOP (R427). A CXL host snoop of a cached host line ends its lease and writes back modified data. -/
  | hostSnoop (line : Nat)
  /-- CKPT_GO (R417). A write of GO in CR.CKPT requests a checkpoint generation of a mirrored context. -/
  | ckptGo (ctx : Nat)
  /-- PERST_DEASSERT (R441). Cold reset ends; the counter starts from zero and PLL lock, self-test and training begin. -/
  | perstDeassert
  /-- CONFIG_SPACE_READY (R441). By 100 ms after PERST# configuration space answers. -/
  | configSpaceReady
  /-- BAR0_READY (R441). By 400 ms BAR0 answers with a valid Burgee table, CHANGE 1 and ENABLE 0. -/
  | bar0Ready
  /-- FUNCTION_LEVEL_RESET (R441). Destroys every context and clears ENABLE and host fields, keeping memory and the counter. -/
  | functionLevelReset
  /-- HOT_RESET (R441). Destroys every context and clears ENABLE and host fields, keeping memory and the counter. -/
  | hotReset
  /-- UPSTREAM_LINK_DOWN (R441). The upstream link going down destroys every context and clears ENABLE and host fields. -/
  | upstreamLinkDown
  /-- D3HOT_ENTRY (R443). With every context destroyed the part enters D3hot and keeps memory in self-refresh. -/
  | d3hotEntry
  /-- D3COLD_ENTRY (R443). Removing power enters D3cold and loses every state. -/
  | d3coldEntry
  /-- CLUSTER_CLOCK_GATE (R443). A cluster with no resident hoist for 10 µs is clock-gated. -/
  | clusterClockGate (cluster : Nat)
  /-- CLOCK_STEP_DOWN (R442). Under a power cap or above 95 °C the core clock steps down by 100 MHz. -/
  | clockStepDown (causes : BitVec 2)
  /-- THROTTLE_END (R445). After 1 ms back at full rate a throttle ends with a CLASS 11 record. -/
  | throttleEnd
  /-- THERMTRIP (R444). At 115 °C the part asserts THERMTRIP# and the board removes power. -/
  | thermtrip
  /-- HELLO (R405). Announces link up, die identity and the dock table address. -/
  | hello (peer : BitVec 32) (dockTable : Nat)
  /-- TIMESYNC (R412). Exchanges counter values to align the companion's counter to the Tsuord's. -/
  | timesync (value : BitVec 64) (latency : Nat)
  /-- MIGRATE (R414). The Tsuord checks the dock entry, activates the companion's context and replies MIGACK. -/
  | migrate (ctx : Nat)
  /-- MIGACK (R405). The companion receives the Tsuord's OK, BUSY or BADENTRY reply to MIGRATE. -/
  | migack (ctx : Nat) (status : Nat)
  /-- RETURN (R415). The Tsuord drains the context, takes one generation returning its homes, destroys its entry and sends RETDONE. -/
  | returnCtx (ctx : Nat)
  /-- RETDONE (R415). The companion waits for the final generation, restores CMASK and clears the dock entry. -/
  | retdone (ctx : Nat) (generation : BitVec 32)
  /-- HOMEREQ (R411). Requests the home of a page, moving it to the requester or starting a generation. -/
  | homereq (fromCompanion : Bool) (ctx : Nat) (page : BitVec 56)
  /-- HOMEDONE (R411). Reports a completed home move of a page. -/
  | homedone (ctx : Nat) (page : BitVec 56) (state : Nat)
  /-- CKMARK (R421). Announces a written commit marker so the companion applies the generation. -/
  | ckmark (ctx : Nat) (generation : BitVec 32) (bank : Nat)
  /-- APPLIED (R421). Reports that a generation's logs have been applied by the companion. -/
  | applied (ctx : Nat) (generation : BitVec 32)
  /-- HALYARD_RESERVED_MESSAGE (R405). A Halyard message with a reserved code is dropped and logged as CLASS 9. -/
  | halyardReservedMessage (code : Byte) (payload : List Byte)
  /-- CHECKPOINT_PERIOD (R419). PERIOD ms after the last commit a mirrored context enters QUIESCE. -/
  | checkpointPeriod (ctx : Nat)
  /-- FLIT_TIMEOUT (R406). 2 µs without a valid flit declares link loss. -/
  | flitTimeout
  /-- LINK_LOSS (R406). Either die declares Halyard loss, fails outstanding transactions and raises vector 36. -/
  | linkLoss
  /-- CLOCK_STEP_UP (R442). When the power cap and temperature no longer require it, the core and cube clock steps back up toward full rate. -/
  | clockStepUp
  deriving DecidableEq, Repr

end Sys2Proof
end

