-- ==== Sys2Proof/Machine/Forms.lean ====
section
/-!
DEFINITION. The forms of the encoded words: which register file each field names, which values of a field the
encoding admits, which registers a word reads and writes, whether it takes an EXT, whether it is privileged, which
counter it uses, and its fixed latency.  Everything here depends on the word alone.
-/

namespace Sys2Proof

/-- A span of registers that a word names: V or S registers from `first`, `count` of them, or one P register. -/
inductive RegSpan where
  | v (first count : Nat)
  | s (first count : Nat)
  | p (n : Nat)
  deriving DecidableEq, Repr

/-- The outstanding-work counter a word uses (03_encoding.md R72). -/
inductive Counter where
  | g
  | s
  | w
  | x
  deriving DecidableEq, Repr

/-- An S source: s0–s95, or a special register 128–155 (R45, R52). -/
def sSource (x : BitVec 8) : Bool := decide (x.toNat ≤ 95) || (decide (128 ≤ x.toNat) && decide (x.toNat ≤ 155))
/-- An S destination: s0–s95, %fpx, %xprog or %zero (R53). -/
def sDest (x : BitVec 8) : Bool := decide (x.toNat ≤ 95) || x == 151 || x == 152 || x == 155
/-- An S register s0–s95. -/
def sReg (x : BitVec 8) : Bool := decide (x.toNat ≤ 95)
/-- The even register of an S pair, 0–94 (R46). -/
def sPair (x : BitVec 8) : Bool := decide (x.toNat ≤ 94) && x.toNat % 2 == 0
/-- A P register p0–p95 (R45). -/
def pReg (x : BitVec 8) : Bool := decide (x.toNat ≤ 95)
/-- An A register a0–a15 (R45). -/
def aReg (x : BitVec 8) : Bool := decide (x.toNat ≤ 15)
/-- A 64-bit operand names an even register (R46). -/
def evenIf (wide : Bool) (x : BitVec 8) : Bool := !wide || x.toNat % 2 == 0
/-- Registers of a possibly 64-bit operand. -/
def widthIf (wide : Bool) : Nat := if wide then 2 else 1
/-- Displacement-only modifiers of the load and store families and of the line instructions (09_memory.md R174, R178). -/
def dispOnly (m : BitVec 4) : Bool := m == 7 || m == 8 || m == 9
/-- Data registers of a load or store modifier (R174). -/
def groupSize (m : BitVec 4) : Nat := match m.toNat with
  | 1 => 2 | 2 => 4 | 8 => 2 | 9 => 4 | 11 => 2 | _ => 1
/-- The first register of a data group is aligned to the group (R174). -/
def groupOk (d : BitVec 8) (m : BitVec 4) : Bool := d.toNat % groupSize m == 0
/-- Data registers of an ATOM or RED modifier (11_ordering.md R229). -/
def atomSize (m : BitVec 4) : Nat := if 12 ≤ m.toNat then 2 else 1
/-- S registers that SATOM reads (R233). -/
def satomReads (m : BitVec 4) : Nat := match m.toNat with
  | 12 => 2 | 13 => 2 | 14 => 2 | 15 => 4 | _ => 1
/-- S registers that SATOM writes: the old value (R233). -/
def satomWrites (m : BitVec 4) : Nat := match m.toNat with
  | 12 => 2 | 14 => 2 | 15 => 2 | _ => 1
/-- Control registers that SRD reads (17_scheduling.md R308). -/
def crReadable (r : Nat) : Bool :=
  decide (r ≤ 4) || r == 8 || r == 9 || r == 12 || r == 13 || (decide (0x10 ≤ r) && decide (r ≤ 0x15)) ||
  (decide (0x18 ≤ r) && decide (r ≤ 0x1D)) || r == 0x20 || r == 0x22
/-- Control registers that SWR writes: the readable ones except CR.CTX and CR.MASKPEND (R308). -/
def crWritable (r : Nat) : Bool := crReadable r && r != 0 && !(decide (0x18 ≤ r) && decide (r ≤ 0x1D))

/-- The opcodes that the table marks reserved (R76, R78). -/
def reservedOp (op : BitVec 8) : Bool :=
  [0x1B, 0x3B, 0x6F, 0x85, 0x8F, 0xD1, 0xD2, 0xD3, 0xDF].contains op.toNat ||
  (decide (0x98 ≤ op.toNat) && decide (op.toNat ≤ 0x9F)) || (decide (0xAA ≤ op.toNat) && decide (op.toNat ≤ 0xAF)) ||
  (decide (0xE8 ≤ op.toNat) && decide (op.toNat ≤ 0xEF))

/-- The values of the fields that the encoding admits: register selectors, modifiers, modes, alignment of register
groups (R46, R52, R53, R75, and each instruction's description).  A word that fails this raises ILLOP. -/
def Instr.formOk : Instr → Bool
  | .nop => true
  | .hintS _ _ _ _ _ _ _ _ => true
  | .hintH a b c d e f g h j k m n => [a, b, c, d, e, f, g, h, j, k, m, n].all (· != 3)
  | .ext _ => true
  | .bra _ => true
  | .brz s _ => sSource s
  | .brnz s _ => sSource s
  | .brany p _ => pReg p
  | .brall p _ => pReg p
  | .call _ => true
  | .calli a => sSource a
  | .jmpi a => sSource a
  | .ret a => sSource a
  | .pad _ => true
  | .mark _ => true
  | .join => true
  | .regang => true
  | .regangMerge _ => true
  | .exit => true
  | .hoistRetire _ => true
  | .trap _ => true
  | .yield => true
  | .chk _ => true
  | .isync => true
  | .waitc _ _ _ _ => true
  | .mset m a => decide (m.toNat ≤ 5) && (if m = 5 then a == 0 else pReg a)
  | .msave d => pReg d
  | .mrest a => pReg a
  | .mpop => true
  | .reservedOpcode op _ => reservedOp op
  | .sadd d a b => sDest d && sSource a && sSource b
  | .ssub d a b => sDest d && sSource a && sSource b
  | .smul d a b => sDest d && sSource a && sSource b
  | .smulh d a b => sDest d && sSource a && sSource b
  | .smad d a b => sDest d && sSource a && sSource b
  | .sand d a b => sDest d && sSource a && sSource b
  | .sor d a b => sDest d && sSource a && sSource b
  | .sxor d a b => sDest d && sSource a && sSource b
  | .sshl d a b => sDest d && sSource a && sSource b
  | .sshr d a b => sDest d && sSource a && sSource b
  | .ssra d a b => sDest d && sSource a && sSource b
  | .smin d a b => sDest d && sSource a && sSource b
  | .smax d a b => sDest d && sSource a && sSource b
  | .sminn d a b => sDest d && sSource a && sSource b
  | .smaxn d a b => sDest d && sSource a && sSource b
  | .saddi d a _ => sDest d && sSource a
  | .smovi d _ => sDest d
  | .smovhi d _ => sDest d
  | .scmp d a _ => sDest d && sSource a
  | .ssel d a b => sDest d && sSource a && sSource b
  | .spop d a => sDest d && sSource a
  | .sclz d a => sDest d && sSource a
  | .sbfe d a b => sDest d && sSource a && sSource b
  | .smov d a => sDest d && sSource a
  | .aset d a s => aReg d && sSource a && decide (s.toNat ≤ 8)
  | .aget d a s => sDest d && aReg a && decide (s.toNat ≤ 8)
  | .ald d o _ m => aReg d && decide (m.toNat ≤ 1) && (if m = 0 then sSource o else o == 0)
  | .ast d o _ m => aReg d && decide (m.toNat ≤ 1) && (if m = 0 then sSource o else o == 0)
  | .aadv d a m => aReg d && decide (m.toNat ≤ 1) && (if m = 1 then sSource a else a == 0)
  | .arestr d a b => aReg d && aReg a && sSource b
  | .amov d a => aReg d && aReg a
  | .vadd _ _ _ => true
  | .vsub _ _ _ => true
  | .vmul _ _ _ => true
  | .vmulh _ _ _ => true
  | .vmulhn _ _ _ => true
  | .vmad _ _ _ => true
  | .vand _ _ _ => true
  | .vor _ _ _ => true
  | .vxor _ _ _ => true
  | .vshl _ _ _ => true
  | .vshr _ _ _ => true
  | .vsra _ _ _ => true
  | .vmin _ _ _ => true
  | .vmax _ _ _ => true
  | .vminn _ _ _ => true
  | .vmaxn _ _ _ => true
  | .vabs _ _ => true
  | .vpop _ _ => true
  | .vclz _ _ => true
  | .vbfe _ _ _ => true
  | .vbfi _ _ _ => true
  | .vaddc d a b => d.toNat % 2 == 0 && a.toNat % 2 == 0 && b.toNat % 2 == 0
  | .vmov _ _ => true
  | .vmovi _ _ => true
  | .vbcast _ a => sSource a
  | .viota _ a b => sSource a && sSource b
  | .vaddi _ _ _ => true
  | .vshli _ _ _ => true
  | .vcmpEq d _ _ => pReg d
  | .vcmpNe d _ _ => pReg d
  | .vcmpLt d _ _ => pReg d
  | .vcmpLe d _ _ => pReg d
  | .vcmpGt d _ _ => pReg d
  | .vcmpGe d _ _ => pReg d
  | .vcmpLtn d _ _ => pReg d
  | .vcmpGen d _ _ => pReg d
  | .vfcmpEq d _ _ => pReg d
  | .vfcmpNe d _ _ => pReg d
  | .vfcmpLt d _ _ => pReg d
  | .vfcmpLe d _ _ => pReg d
  | .vfcmpGt d _ _ => pReg d
  | .vfcmpGe d _ _ => pReg d
  | .vfcmpOrd d _ _ => pReg d
  | .vfcmpUno d _ _ => pReg d
  | .vcmov _ a _ => pReg a
  | .pand d a b => pReg d && pReg a && pReg b
  | .por d a b => pReg d && pReg a && pReg b
  | .pxor d a b => pReg d && pReg a && pReg b
  | .pnot d a => pReg d && pReg a
  | .pfroms d a _ => pReg d && sSource a
  | .ptos d a _ => sDest d && pReg a
  | .vfadd _ _ _ => true
  | .vfsub _ _ _ => true
  | .vfmul _ _ _ => true
  | .vfma _ _ _ => true
  | .vfmin _ _ _ => true
  | .vfmax _ _ _ => true
  | .vfabs _ _ => true
  | .vfclass _ _ => true
  | .vhadd _ _ _ => true
  | .vhmul _ _ _ => true
  | .vhfma _ _ _ => true
  | .vbadd _ _ _ => true
  | .vbmul _ _ _ => true
  | .vbfma _ _ _ => true
  | .vhdot _ _ _ => true
  | .vbdot _ _ _ => true
  | .vdadd d a b => d.toNat % 2 == 0 && a.toNat % 2 == 0 && b.toNat % 2 == 0
  | .vdmul d a b => d.toNat % 2 == 0 && a.toNat % 2 == 0 && b.toNat % 2 == 0
  | .vdfma d a b => d.toNat % 2 == 0 && a.toNat % 2 == 0 && b.toNat % 2 == 0
  | .vdmin d a b => d.toNat % 2 == 0 && a.toNat % 2 == 0 && b.toNat % 2 == 0
  | .vdmax d a b => d.toNat % 2 == 0 && a.toNat % 2 == 0 && b.toNat % 2 == 0
  | .vcvt d a s t => decide (s.toNat ≤ 3) && decide (t.toNat ≤ 3) && s != t && evenIf (t == 3) d && evenIf (s == 3) a
  | .vqnt _ _ _ => true
  | .vdqnt _ _ _ => true
  | .vpack _ _ b => sSource b
  | .vunpk _ _ f k => decide (f.toNat ≤ 6) && (f == 4 || f == 6 || decide (k.toNat ≤ 3))
  | .vcbdec _ _ _ => true
  | .vf2i d a w t => decide (t.toNat ≤ 7) && evenIf (decide (6 ≤ t.toNat)) d && evenIf (w == 1) a
  | .vi2f d a t s => decide (s.toNat ≤ 7) && evenIf (t == 1) d && evenIf (decide (6 ≤ s.toNat)) a
  | .vrnd d a w m => decide (m.toNat ≤ 4) && evenIf (w == 1) d && evenIf (w == 1) a
  | .vrcp _ _ => true
  | .vrsq _ _ => true
  | .vsqrt _ _ => true
  | .vexp2 _ _ => true
  | .vlog2 _ _ => true
  | .vsin _ _ => true
  | .vcos _ _ => true
  | .vtanh _ _ => true
  | .vperm _ _ _ => true
  | .vshfl _ _ m r n => decide (m.toNat ≤ 4) && (r == 0 || decide (n.toNat ≤ 7))
  | .vred d _ o => sDest d && decide (o.toNat ≤ 10)
  | .vscan _ _ o _ _ => decide (o.toNat ≤ 10)
  | .vote d a m => pReg d && pReg a && decide (m.toNat ≤ 2)
  | .vballot d a _ => sDest d && pReg a
  | .vmatch _ _ _ => true
  | .vregrp _ _ _ b => sReg b
  | .vregrpComplete _ => true
  | .vreord d a x c => (x == 0 || decide (a.toNat ≠ d.toNat + c.toNat + 1))
  | .vbroad _ _ b => sSource b
  | .vld d o _ m => decide (m.toNat ≤ 11) && groupOk d m && (if dispOnly m then o == 0 else true)
  | .vst d o _ m => [0, 1, 2, 3, 4, 7, 8, 9].contains m.toNat && groupOk d m && (if dispOnly m then o == 0 else true)
  | .vlds d o _ m => decide (m.toNat ≤ 9) && groupOk d m && (if dispOnly m then o == 0 else true)
  | .vsts d o _ m => [0, 1, 2, 3, 4, 7, 8, 9].contains m.toNat && groupOk d m && (if dispOnly m then o == 0 else true)
  | .sld d o _ m => decide (m.toNat ≤ 11) && groupOk d m && decide (d.toNat + groupSize m ≤ 96) && (if dispOnly m then o == 0 else sSource o)
  | .sst d o _ m => [0, 1, 2, 3, 4, 7, 8, 9].contains m.toNat && groupOk d m && decide (d.toNat + groupSize m ≤ 96) && (if dispOnly m then o == 0 else sSource o)
  | .loadDataReturn _ => true
  | .writePerformed _ => true
  | .pref o _ m => [0, 1, 7, 8].contains m.toNat && (if dispOnly m then o == 0 else true)
  | .pin p o _ m => pReg p && [0, 7].contains m.toNat && (if dispOnly m then o == 0 else true)
  | .unpin o _ m => [0, 7].contains m.toNat && (if dispOnly m then o == 0 else true)
  | .cflush o _ m => [0, 1, 7, 8].contains m.toNat && (if dispOnly m then o == 0 else true)
  | .lineMigrate _ _ => true
  | .spill _ c _ => decide (1 ≤ c.toNat)
  | .fill _ c _ => decide (1 ≤ c.toNat)
  | .cpy _ _ _ _ b => sSource b
  | .cpys _ _ a b => sSource a && sSource b
  | .copyByteArrival _ _ => true
  | .copyComplete _ => true
  | .copyFail _ => true
  | .batch => true
  | .waitb a => sSource a
  | .bara d a b => sDest d && sSource a && sSource b
  | .barw a => sSource a
  | .bcarr d a b => sDest d && aReg a && sSource b
  | .bcwait a b => aReg a && sSource b
  | .qpush _ m _ b => decide (m.toNat ≤ 1) && sPair b
  | .qpop _ m _ b => decide (m.toNat ≤ 1) && sPair b
  | .qcfg a b => aReg a && sPair b
  | .acq => true
  | .atom s d q x o _ m => (q == 0 || s == 2) && (decide (m.toNat < 12) || d.toNat % 2 == 0) && (x == 0 || o == 0)
  | .red s d q x o _ m => (q == 0 || s == 2) && (decide (m.toNat < 12) || d.toNat % 2 == 0) && (x == 0 || o == 0)
  | .acas s d q x o _ m => decide (m.toNat ≤ 1) && (q == 0 || s == 2) && (if m = 1 then d.toNat % 4 == 0 else decide (d.toNat ≤ 62)) && (x == 0 || o == 0)
  | .satom s d q x o _ m => (q == 0 || s == 2) && (match m with | 12 => d.toNat % 2 == 0 | 13 => decide (d.toNat ≤ 62) | 14 => d.toNat % 2 == 0 | 15 => d.toNat % 4 == 0 | _ => true) && (x == 0 || o == 0)
  | .atomicServiceRequest _ => true
  | .mwait _ d x o _ z c => decide (c.toNat ≤ 5) && (z == 0 || d.toNat % 2 == 0) && (x == 0 || o == 0)
  | .hostLineReread _ => true
  | .fence k _ => k != 0
  | .strel _ d x o _ m => decide (m.toNat ≤ 1) && (m == 0 || d.toNat % 2 == 0) && (x == 0 || o == 0)
  | .ldacq _ d x o _ m => decide (m.toNat ≤ 1) && (m == 0 || d.toNat % 2 == 0) && (x == 0 || o == 0)
  | .rela r a => decide (r.toNat ≤ 2) && sSource a
  | .tcfg a => sSource a
  | .slcl d a => sDest d && sSource a
  | .slrl a => sSource a
  | .slotRelease _ => true
  | .slld s _ b => sSource s && sSource b
  | .slotFillComplete _ => true
  | .slz a => sSource a
  | .mxc t p f => sSource t && sSource p && sSource f
  | .passGrant _ => true
  | .passComplete _ => true
  | .mxp a => sSource a
  | .mxrd _ a b => sSource a && sSource b
  | .mxwr _ a b => sSource a && sSource b
  | .cbld _ b => sSource b
  | .codebookReload _ => true
  | .slst s _ b => sSource s && sSource b
  | .slotStoreComplete _ => true
  | .blockKill _ => true
  | .trace d a b => decide (d.toNat ≤ 250) && decide (a.toNat ≤ 248) && sSource b
  | .traceComplete _ => true
  | .beam d a b => sDest d && sPair a && sSource b
  | .fragmentPush _ => true
  | .beamComplete _ => true
  | .hitrd _ _ b => sSource b
  | .hitrdComplete _ => true
  | .fins _ _ => true
  | .fres _ _ _ => true
  | .fclr _ _ => true
  | .fcfg m s _ => decide (m.toNat ≤ 2) && (if m = 2 then s == 0 else true)
  | .gate d m => sDest d && decide (m.toNat ≤ 2)
  | .srd d r => sDest d && crReadable r.toNat
  | .swr a r => sSource a && crWritable r.toNat
  | .coremaskCommit _ _ => true
  | .tret => true
  | .ctxsv d _ b => sDest d && sSource b
  | .ctxrs d _ => sDest d
  | .ckpt => true
  | .tlbi _ m a b => decide (m.toNat ≤ 4) && (if decide (m.toNat ≤ 1) then sPair a else a == 0) && (if m = 1 ∨ m = 2 then sSource b else b == 0)
  | .hostsig a b => sSource a && sSource b
  | .emul _ _ => true
  | .hoistLost _ => true
  | .ensignEvaluation _ => true
  | .admissionHold _ => true
  | .gridReady _ _ => true
  | .gridEnd _ _ => true
  | .blockPark _ => true
  | .joinDecrement _ _ => true
  | .preemptSave _ => true
  | .translationRequest _ => true
  | .releaseVote _ => true
  | .lateArrival _ => true
  | .pseudoChannelFailing _ => true
  | .interleaveRebuild _ => true
  | .pushDmwr _ _ => true
  | .pushPosted _ _ => true
  | .activate _ => true
  | .refresh _ => true
  | .destroy _ => true
  | .resolveRetry _ _ => true
  | .resolveRefuse _ _ => true
  | .expansionCommand _ _ => true
  | .expansionDone => true
  | .enable _ => true
  | .registerWrite _ _ => true
  | .hostAccess _ _ _ => true
  | .hostSnoop _ => true
  | .ckptGo _ => true
  | .perstDeassert => true
  | .configSpaceReady => true
  | .bar0Ready => true
  | .functionLevelReset => true
  | .hotReset => true
  | .upstreamLinkDown => true
  | .d3hotEntry => true
  | .d3coldEntry => true
  | .clusterClockGate _ => true
  | .clockStepDown _ => true
  | .throttleEnd => true
  | .thermtrip => true
  | .hello _ _ => true
  | .timesync _ _ => true
  | .migrate _ => true
  | .migack _ _ => true
  | .returnCtx _ => true
  | .retdone _ _ => true
  | .homereq _ _ _ => true
  | .homedone _ _ _ => true
  | .ckmark _ _ _ => true
  | .applied _ _ => true
  | .halyardReservedMessage _ _ => true
  | .checkpointPeriod _ => true
  | .quiesce _ => true
  | .commitMarker _ => true
  | .flitTimeout => true
  | .linkLoss => true
  | .tileOrderOperation _ => true
  | .clockStepUp => true

/-- The V, S and P registers a word names as sources (ranges that an operand's value decides are left to the meaning). -/
def Instr.reads : Instr → List RegSpan
  | .nop => []
  | .hintS _ _ _ _ _ _ _ _ => []
  | .hintH _ _ _ _ _ _ _ _ _ _ _ _ => []
  | .ext _ => []
  | .bra _ => []
  | .brz s _ => [.s s.toNat 1]
  | .brnz s _ => [.s s.toNat 1]
  | .brany p _ => [.p p.toNat]
  | .brall p _ => [.p p.toNat]
  | .call _ => []
  | .calli a => [.s a.toNat 1]
  | .jmpi a => [.s a.toNat 1]
  | .ret a => [.s a.toNat 1]
  | .pad _ => []
  | .mark _ => []
  | .join => []
  | .regang => []
  | .regangMerge _ => []
  | .exit => []
  | .hoistRetire _ => []
  | .trap _ => []
  | .yield => []
  | .chk _ => []
  | .isync => []
  | .waitc _ _ _ _ => []
  | .mset m a => if m = 5 then [] else [.p a.toNat]
  | .msave _ => []
  | .mrest a => [.p a.toNat]
  | .mpop => []
  | .reservedOpcode _ _ => []
  | .sadd _ a b => [.s a.toNat 1, .s b.toNat 1]
  | .ssub _ a b => [.s a.toNat 1, .s b.toNat 1]
  | .smul _ a b => [.s a.toNat 1, .s b.toNat 1]
  | .smulh _ a b => [.s a.toNat 1, .s b.toNat 1]
  | .smad d a b => [.s d.toNat 1, .s a.toNat 1, .s b.toNat 1]
  | .sand _ a b => [.s a.toNat 1, .s b.toNat 1]
  | .sor _ a b => [.s a.toNat 1, .s b.toNat 1]
  | .sxor _ a b => [.s a.toNat 1, .s b.toNat 1]
  | .sshl _ a b => [.s a.toNat 1, .s b.toNat 1]
  | .sshr _ a b => [.s a.toNat 1, .s b.toNat 1]
  | .ssra _ a b => [.s a.toNat 1, .s b.toNat 1]
  | .smin _ a b => [.s a.toNat 1, .s b.toNat 1]
  | .smax _ a b => [.s a.toNat 1, .s b.toNat 1]
  | .sminn _ a b => [.s a.toNat 1, .s b.toNat 1]
  | .smaxn _ a b => [.s a.toNat 1, .s b.toNat 1]
  | .saddi _ a _ => [.s a.toNat 1]
  | .smovi _ _ => []
  | .smovhi d _ => [.s d.toNat 1]
  | .scmp d a _ => [.s d.toNat 1, .s a.toNat 1]
  | .ssel d a b => [.s d.toNat 1, .s a.toNat 1, .s b.toNat 1]
  | .spop _ a => [.s a.toNat 1]
  | .sclz _ a => [.s a.toNat 1]
  | .sbfe _ a b => [.s a.toNat 1, .s b.toNat 1]
  | .smov _ a => [.s a.toNat 1]
  | .aset _ a _ => [.s a.toNat 1]
  | .aget _ _ _ => []
  | .ald _ o _ m => if m = 0 then [.s o.toNat 1] else []
  | .ast _ o _ m => if m = 0 then [.s o.toNat 1] else []
  | .aadv _ a m => if m = 1 then [.s a.toNat 1] else []
  | .arestr _ _ b => [.s b.toNat 1]
  | .amov _ _ => []
  | .vadd _ a b => [.v a.toNat 1, .v b.toNat 1]
  | .vsub _ a b => [.v a.toNat 1, .v b.toNat 1]
  | .vmul _ a b => [.v a.toNat 1, .v b.toNat 1]
  | .vmulh _ a b => [.v a.toNat 1, .v b.toNat 1]
  | .vmulhn _ a b => [.v a.toNat 1, .v b.toNat 1]
  | .vmad d a b => [.v d.toNat 1, .v a.toNat 1, .v b.toNat 1]
  | .vand _ a b => [.v a.toNat 1, .v b.toNat 1]
  | .vor _ a b => [.v a.toNat 1, .v b.toNat 1]
  | .vxor _ a b => [.v a.toNat 1, .v b.toNat 1]
  | .vshl _ a b => [.v a.toNat 1, .v b.toNat 1]
  | .vshr _ a b => [.v a.toNat 1, .v b.toNat 1]
  | .vsra _ a b => [.v a.toNat 1, .v b.toNat 1]
  | .vmin _ a b => [.v a.toNat 1, .v b.toNat 1]
  | .vmax _ a b => [.v a.toNat 1, .v b.toNat 1]
  | .vminn _ a b => [.v a.toNat 1, .v b.toNat 1]
  | .vmaxn _ a b => [.v a.toNat 1, .v b.toNat 1]
  | .vabs _ a => [.v a.toNat 1]
  | .vpop _ a => [.v a.toNat 1]
  | .vclz _ a => [.v a.toNat 1]
  | .vbfe _ a b => [.v a.toNat 1, .v b.toNat 1]
  | .vbfi d a b => [.v d.toNat 1, .v a.toNat 1, .v b.toNat 1]
  | .vaddc _ a b => [.v a.toNat 2, .v b.toNat 2]
  | .vmov _ a => [.v a.toNat 1]
  | .vmovi _ _ => []
  | .vbcast _ a => [.s a.toNat 1]
  | .viota _ a b => [.s a.toNat 1, .s b.toNat 1]
  | .vaddi _ a _ => [.v a.toNat 1]
  | .vshli _ a _ => [.v a.toNat 1]
  | .vcmpEq _ a b => [.v a.toNat 1, .v b.toNat 1]
  | .vcmpNe _ a b => [.v a.toNat 1, .v b.toNat 1]
  | .vcmpLt _ a b => [.v a.toNat 1, .v b.toNat 1]
  | .vcmpLe _ a b => [.v a.toNat 1, .v b.toNat 1]
  | .vcmpGt _ a b => [.v a.toNat 1, .v b.toNat 1]
  | .vcmpGe _ a b => [.v a.toNat 1, .v b.toNat 1]
  | .vcmpLtn _ a b => [.v a.toNat 1, .v b.toNat 1]
  | .vcmpGen _ a b => [.v a.toNat 1, .v b.toNat 1]
  | .vfcmpEq _ a b => [.v a.toNat 1, .v b.toNat 1]
  | .vfcmpNe _ a b => [.v a.toNat 1, .v b.toNat 1]
  | .vfcmpLt _ a b => [.v a.toNat 1, .v b.toNat 1]
  | .vfcmpLe _ a b => [.v a.toNat 1, .v b.toNat 1]
  | .vfcmpGt _ a b => [.v a.toNat 1, .v b.toNat 1]
  | .vfcmpGe _ a b => [.v a.toNat 1, .v b.toNat 1]
  | .vfcmpOrd _ a b => [.v a.toNat 1, .v b.toNat 1]
  | .vfcmpUno _ a b => [.v a.toNat 1, .v b.toNat 1]
  | .vcmov d a b => [.v d.toNat 1, .p a.toNat, .v b.toNat 1]
  | .pand _ a b => [.p a.toNat, .p b.toNat]
  | .por _ a b => [.p a.toNat, .p b.toNat]
  | .pxor _ a b => [.p a.toNat, .p b.toNat]
  | .pnot _ a => [.p a.toNat]
  | .pfroms _ a _ => [.s a.toNat 1]
  | .ptos _ a _ => [.p a.toNat]
  | .vfadd _ a b => [.v a.toNat 1, .v b.toNat 1]
  | .vfsub _ a b => [.v a.toNat 1, .v b.toNat 1]
  | .vfmul _ a b => [.v a.toNat 1, .v b.toNat 1]
  | .vfma d a b => [.v d.toNat 1, .v a.toNat 1, .v b.toNat 1]
  | .vfmin _ a b => [.v a.toNat 1, .v b.toNat 1]
  | .vfmax _ a b => [.v a.toNat 1, .v b.toNat 1]
  | .vfabs _ a => [.v a.toNat 1]
  | .vfclass _ a => [.v a.toNat 1]
  | .vhadd _ a b => [.v a.toNat 1, .v b.toNat 1]
  | .vhmul _ a b => [.v a.toNat 1, .v b.toNat 1]
  | .vhfma d a b => [.v d.toNat 1, .v a.toNat 1, .v b.toNat 1]
  | .vbadd _ a b => [.v a.toNat 1, .v b.toNat 1]
  | .vbmul _ a b => [.v a.toNat 1, .v b.toNat 1]
  | .vbfma d a b => [.v d.toNat 1, .v a.toNat 1, .v b.toNat 1]
  | .vhdot d a b => [.v d.toNat 1, .v a.toNat 1, .v b.toNat 1]
  | .vbdot d a b => [.v d.toNat 1, .v a.toNat 1, .v b.toNat 1]
  | .vdadd _ a b => [.v a.toNat 2, .v b.toNat 2]
  | .vdmul _ a b => [.v a.toNat 2, .v b.toNat 2]
  | .vdfma d a b => [.v d.toNat 2, .v a.toNat 2, .v b.toNat 2]
  | .vdmin _ a b => [.v a.toNat 2, .v b.toNat 2]
  | .vdmax _ a b => [.v a.toNat 2, .v b.toNat 2]
  | .vcvt _ a s _ => [.v a.toNat (widthIf (s == 3))]
  | .vqnt d a b => [.v d.toNat 1, .v a.toNat 1, .v b.toNat 1]
  | .vdqnt _ a b => [.v a.toNat 1, .v b.toNat 1]
  | .vpack d a b => [.v d.toNat 1, .v a.toNat 1, .s b.toNat 1]
  | .vunpk _ a _ _ => [.v a.toNat 1]
  | .vcbdec _ a b => [.v a.toNat 1, .v b.toNat 1]
  | .vf2i _ a w _ => [.v a.toNat (widthIf (w == 1))]
  | .vi2f _ a _ s => [.v a.toNat (widthIf (decide (6 ≤ s.toNat)))]
  | .vrnd _ a w _ => [.v a.toNat (widthIf (w == 1))]
  | .vrcp _ a => [.v a.toNat 1]
  | .vrsq _ a => [.v a.toNat 1]
  | .vsqrt _ a => [.v a.toNat 1]
  | .vexp2 _ a => [.v a.toNat 1]
  | .vlog2 _ a => [.v a.toNat 1]
  | .vsin _ a => [.v a.toNat 1]
  | .vcos _ a => [.v a.toNat 1]
  | .vtanh _ a => [.v a.toNat 1]
  | .vperm _ a b => [.v a.toNat 1, .v b.toNat 1]
  | .vshfl _ a _ _ _ => [.v a.toNat 1]
  | .vred _ a _ => [.v a.toNat 1]
  | .vscan _ a _ _ _ => [.v a.toNat 1]
  | .vote _ a _ => [.p a.toNat]
  | .vballot _ a _ => [.p a.toNat]
  | .vmatch _ a _ => [.v a.toNat 1]
  | .vregrp d _ c b => [.s b.toNat 1, .v d.toNat (c.toNat + 1)]
  | .vregrpComplete _ => []
  | .vreord d a _ c => [.v a.toNat 1, .v d.toNat (c.toNat + 1)]
  | .vbroad _ a b => [.v a.toNat 1, .s b.toNat 1]
  | .vld _ o _ m => [.v o.toNat (if dispOnly m then 0 else 1)]
  | .vst d o _ m => [.v d.toNat (groupSize m), .v o.toNat (if dispOnly m then 0 else 1)]
  | .vlds _ o _ m => [.v o.toNat (if dispOnly m then 0 else 1)]
  | .vsts d o _ m => [.v d.toNat (groupSize m), .v o.toNat (if dispOnly m then 0 else 1)]
  | .sld _ o _ m => [.s o.toNat (if dispOnly m then 0 else 1)]
  | .sst d o _ m => [.s d.toNat (groupSize m), .s o.toNat (if dispOnly m then 0 else 1)]
  | .loadDataReturn _ => []
  | .writePerformed _ => []
  | .pref o _ m => [.v o.toNat (if dispOnly m then 0 else 1)]
  | .pin _ o _ m => [.v o.toNat (if dispOnly m then 0 else 1)]
  | .unpin o _ m => [.v o.toNat (if dispOnly m then 0 else 1)]
  | .cflush o _ m => [.v o.toNat (if dispOnly m then 0 else 1)]
  | .lineMigrate _ _ => []
  | .spill f c _ => [.v f.toNat c.toNat]
  | .fill _ _ _ => []
  | .cpy _ _ _ _ b => [.s b.toNat 1]
  | .cpys _ _ a b => [.s a.toNat 1, .s b.toNat 1]
  | .copyByteArrival _ _ => []
  | .copyComplete _ => []
  | .copyFail _ => []
  | .batch => []
  | .waitb a => [.s a.toNat 1]
  | .bara _ a b => [.s a.toNat 1, .s b.toNat 1]
  | .barw a => [.s a.toNat 1]
  | .bcarr _ _ b => [.s b.toNat 1]
  | .bcwait _ b => [.s b.toNat 1]
  | .qpush f _ _ b => [.v f.toNat 1, .s b.toNat 2]
  | .qpop f _ _ b => [.v f.toNat 1, .s b.toNat 2]
  | .qcfg _ b => [.s b.toNat 2]
  | .acq => []
  | .atom _ d _ x o _ m => [.v d.toNat (atomSize m), .v o.toNat (if x = 1 then 0 else 1)]
  | .red _ d _ x o _ m => [.v d.toNat (atomSize m), .v o.toNat (if x = 1 then 0 else 1)]
  | .acas _ d _ x o _ m => [.v d.toNat (if m = 1 then 4 else 2), .v o.toNat (if x = 1 then 0 else 1)]
  | .satom _ d _ x o _ m => [.s d.toNat (satomReads m), .s o.toNat (if x = 1 then 0 else 1)]
  | .atomicServiceRequest _ => []
  | .mwait _ d x o _ z _ => [.v d.toNat (z.toNat + 1), .v o.toNat (if x = 1 then 0 else 1)]
  | .hostLineReread _ => []
  | .fence _ _ => []
  | .strel _ d x o _ m => [.v d.toNat (m.toNat + 1), .v o.toNat (if x = 1 then 0 else 1)]
  | .ldacq _ _ x o _ _ => [.v o.toNat (if x = 1 then 0 else 1)]
  | .rela _ a => [.s a.toNat 1]
  | .tcfg a => [.s a.toNat 1]
  | .slcl _ a => [.s a.toNat 1]
  | .slrl a => [.s a.toNat 1]
  | .slotRelease _ => []
  | .slld s _ b => [.s s.toNat 1, .s b.toNat 1]
  | .slotFillComplete _ => []
  | .slz a => [.s a.toNat 1]
  | .mxc t p f => [.s t.toNat 1, .s p.toNat 1, .s f.toNat 1]
  | .passGrant _ => []
  | .passComplete _ => []
  | .mxp a => [.s a.toNat 1]
  | .mxrd _ a b => [.s a.toNat 1, .s b.toNat 1]
  | .mxwr d a b => [.v d.toNat 1, .s a.toNat 1, .s b.toNat 1]
  | .cbld _ b => [.s b.toNat 1]
  | .codebookReload _ => []
  | .slst s _ b => [.s s.toNat 1, .s b.toNat 1]
  | .slotStoreComplete _ => []
  | .blockKill _ => []
  | .trace _ a b => [.v a.toNat 8, .s b.toNat 1]
  | .traceComplete _ => []
  | .beam _ a b => [.s a.toNat 2, .s b.toNat 1]
  | .fragmentPush _ => []
  | .beamComplete _ => []
  | .hitrd _ a b => [.v a.toNat 1, .s b.toNat 1]
  | .hitrdComplete _ => []
  | .fins s _ => [.v s.toNat 4]
  | .fres s _ _ => [.v s.toNat 3]
  | .fclr s _ => [.v s.toNat 1]
  | .fcfg _ _ _ => []
  | .gate _ _ => []
  | .srd _ _ => []
  | .swr a _ => [.s a.toNat 1]
  | .coremaskCommit _ _ => []
  | .tret => []
  | .ctxsv _ _ b => [.s b.toNat 1]
  | .ctxrs _ _ => []
  | .ckpt => []
  | .tlbi _ m a b => [.s a.toNat (if m.toNat ≤ 1 then 2 else 0), .s b.toNat (if m = 1 ∨ m = 2 then 1 else 0)]
  | .hostsig a b => [.s a.toNat 1, .s b.toNat 1]
  | .emul _ _ => []
  | .hoistLost _ => []
  | .ensignEvaluation _ => []
  | .admissionHold _ => []
  | .gridReady _ _ => []
  | .gridEnd _ _ => []
  | .blockPark _ => []
  | .joinDecrement _ _ => []
  | .preemptSave _ => []
  | .translationRequest _ => []
  | .releaseVote _ => []
  | .lateArrival _ => []
  | .pseudoChannelFailing _ => []
  | .interleaveRebuild _ => []
  | .pushDmwr _ _ => []
  | .pushPosted _ _ => []
  | .activate _ => []
  | .refresh _ => []
  | .destroy _ => []
  | .resolveRetry _ _ => []
  | .resolveRefuse _ _ => []
  | .expansionCommand _ _ => []
  | .expansionDone => []
  | .enable _ => []
  | .registerWrite _ _ => []
  | .hostAccess _ _ _ => []
  | .hostSnoop _ => []
  | .ckptGo _ => []
  | .perstDeassert => []
  | .configSpaceReady => []
  | .bar0Ready => []
  | .functionLevelReset => []
  | .hotReset => []
  | .upstreamLinkDown => []
  | .d3hotEntry => []
  | .d3coldEntry => []
  | .clusterClockGate _ => []
  | .clockStepDown _ => []
  | .throttleEnd => []
  | .thermtrip => []
  | .hello _ _ => []
  | .timesync _ _ => []
  | .migrate _ => []
  | .migack _ _ => []
  | .returnCtx _ => []
  | .retdone _ _ => []
  | .homereq _ _ _ => []
  | .homedone _ _ _ => []
  | .ckmark _ _ _ => []
  | .applied _ _ => []
  | .halyardReservedMessage _ _ => []
  | .checkpointPeriod _ => []
  | .quiesce _ => []
  | .commitMarker _ => []
  | .flitTimeout => []
  | .linkLoss => []
  | .tileOrderOperation _ => []
  | .clockStepUp => []

/-- The V, S and P registers a word names as destinations. -/
def Instr.writes : Instr → List RegSpan
  | .nop => []
  | .hintS _ _ _ _ _ _ _ _ => []
  | .hintH _ _ _ _ _ _ _ _ _ _ _ _ => []
  | .ext _ => []
  | .bra _ => []
  | .brz _ _ => []
  | .brnz _ _ => []
  | .brany _ _ => []
  | .brall _ _ => []
  | .call _ => [.s 95 1]
  | .calli _ => [.s 95 1]
  | .jmpi _ => []
  | .ret _ => []
  | .pad _ => []
  | .mark _ => []
  | .join => []
  | .regang => []
  | .regangMerge _ => []
  | .exit => []
  | .hoistRetire _ => []
  | .trap _ => []
  | .yield => []
  | .chk _ => []
  | .isync => []
  | .waitc _ _ _ _ => []
  | .mset _ _ => []
  | .msave d => [.p d.toNat]
  | .mrest _ => []
  | .mpop => []
  | .reservedOpcode _ _ => []
  | .sadd d _ _ => [.s d.toNat 1]
  | .ssub d _ _ => [.s d.toNat 1]
  | .smul d _ _ => [.s d.toNat 1]
  | .smulh d _ _ => [.s d.toNat 1]
  | .smad d _ _ => [.s d.toNat 1]
  | .sand d _ _ => [.s d.toNat 1]
  | .sor d _ _ => [.s d.toNat 1]
  | .sxor d _ _ => [.s d.toNat 1]
  | .sshl d _ _ => [.s d.toNat 1]
  | .sshr d _ _ => [.s d.toNat 1]
  | .ssra d _ _ => [.s d.toNat 1]
  | .smin d _ _ => [.s d.toNat 1]
  | .smax d _ _ => [.s d.toNat 1]
  | .sminn d _ _ => [.s d.toNat 1]
  | .smaxn d _ _ => [.s d.toNat 1]
  | .saddi d _ _ => [.s d.toNat 1]
  | .smovi d _ => [.s d.toNat 1]
  | .smovhi d _ => [.s d.toNat 1]
  | .scmp d _ _ => [.s d.toNat 1]
  | .ssel d _ _ => [.s d.toNat 1]
  | .spop d _ => [.s d.toNat 1]
  | .sclz d _ => [.s d.toNat 1]
  | .sbfe d _ _ => [.s d.toNat 1]
  | .smov d _ => [.s d.toNat 1]
  | .aset _ _ _ => []
  | .aget d _ _ => [.s d.toNat 1]
  | .ald _ _ _ _ => []
  | .ast _ _ _ _ => []
  | .aadv _ _ _ => []
  | .arestr _ _ _ => []
  | .amov _ _ => []
  | .vadd d _ _ => [.v d.toNat 1]
  | .vsub d _ _ => [.v d.toNat 1]
  | .vmul d _ _ => [.v d.toNat 1]
  | .vmulh d _ _ => [.v d.toNat 1]
  | .vmulhn d _ _ => [.v d.toNat 1]
  | .vmad d _ _ => [.v d.toNat 1]
  | .vand d _ _ => [.v d.toNat 1]
  | .vor d _ _ => [.v d.toNat 1]
  | .vxor d _ _ => [.v d.toNat 1]
  | .vshl d _ _ => [.v d.toNat 1]
  | .vshr d _ _ => [.v d.toNat 1]
  | .vsra d _ _ => [.v d.toNat 1]
  | .vmin d _ _ => [.v d.toNat 1]
  | .vmax d _ _ => [.v d.toNat 1]
  | .vminn d _ _ => [.v d.toNat 1]
  | .vmaxn d _ _ => [.v d.toNat 1]
  | .vabs d _ => [.v d.toNat 1]
  | .vpop d _ => [.v d.toNat 1]
  | .vclz d _ => [.v d.toNat 1]
  | .vbfe d _ _ => [.v d.toNat 1]
  | .vbfi d _ _ => [.v d.toNat 1]
  | .vaddc d _ _ => [.v d.toNat 2]
  | .vmov d _ => [.v d.toNat 1]
  | .vmovi d _ => [.v d.toNat 1]
  | .vbcast d _ => [.v d.toNat 1]
  | .viota d _ _ => [.v d.toNat 1]
  | .vaddi d _ _ => [.v d.toNat 1]
  | .vshli d _ _ => [.v d.toNat 1]
  | .vcmpEq d _ _ => [.p d.toNat]
  | .vcmpNe d _ _ => [.p d.toNat]
  | .vcmpLt d _ _ => [.p d.toNat]
  | .vcmpLe d _ _ => [.p d.toNat]
  | .vcmpGt d _ _ => [.p d.toNat]
  | .vcmpGe d _ _ => [.p d.toNat]
  | .vcmpLtn d _ _ => [.p d.toNat]
  | .vcmpGen d _ _ => [.p d.toNat]
  | .vfcmpEq d _ _ => [.p d.toNat]
  | .vfcmpNe d _ _ => [.p d.toNat]
  | .vfcmpLt d _ _ => [.p d.toNat]
  | .vfcmpLe d _ _ => [.p d.toNat]
  | .vfcmpGt d _ _ => [.p d.toNat]
  | .vfcmpGe d _ _ => [.p d.toNat]
  | .vfcmpOrd d _ _ => [.p d.toNat]
  | .vfcmpUno d _ _ => [.p d.toNat]
  | .vcmov d _ _ => [.v d.toNat 1]
  | .pand d _ _ => [.p d.toNat]
  | .por d _ _ => [.p d.toNat]
  | .pxor d _ _ => [.p d.toNat]
  | .pnot d _ => [.p d.toNat]
  | .pfroms d _ _ => [.p d.toNat]
  | .ptos d _ _ => [.s d.toNat 1]
  | .vfadd d _ _ => [.v d.toNat 1]
  | .vfsub d _ _ => [.v d.toNat 1]
  | .vfmul d _ _ => [.v d.toNat 1]
  | .vfma d _ _ => [.v d.toNat 1]
  | .vfmin d _ _ => [.v d.toNat 1]
  | .vfmax d _ _ => [.v d.toNat 1]
  | .vfabs d _ => [.v d.toNat 1]
  | .vfclass d _ => [.v d.toNat 1]
  | .vhadd d _ _ => [.v d.toNat 1]
  | .vhmul d _ _ => [.v d.toNat 1]
  | .vhfma d _ _ => [.v d.toNat 1]
  | .vbadd d _ _ => [.v d.toNat 1]
  | .vbmul d _ _ => [.v d.toNat 1]
  | .vbfma d _ _ => [.v d.toNat 1]
  | .vhdot d _ _ => [.v d.toNat 1]
  | .vbdot d _ _ => [.v d.toNat 1]
  | .vdadd d _ _ => [.v d.toNat 2]
  | .vdmul d _ _ => [.v d.toNat 2]
  | .vdfma d _ _ => [.v d.toNat 2]
  | .vdmin d _ _ => [.v d.toNat 2]
  | .vdmax d _ _ => [.v d.toNat 2]
  | .vcvt d _ _ t => [.v d.toNat (widthIf (t == 3))]
  | .vqnt d _ _ => [.v d.toNat 1]
  | .vdqnt d _ _ => [.v d.toNat 1]
  | .vpack d _ _ => [.v d.toNat 1]
  | .vunpk d _ _ _ => [.v d.toNat 1]
  | .vcbdec d _ _ => [.v d.toNat 1]
  | .vf2i d _ _ t => [.v d.toNat (widthIf (decide (6 ≤ t.toNat)))]
  | .vi2f d _ t _ => [.v d.toNat (widthIf (t == 1))]
  | .vrnd d _ w _ => [.v d.toNat (widthIf (w == 1))]
  | .vrcp d _ => [.v d.toNat 1]
  | .vrsq d _ => [.v d.toNat 1]
  | .vsqrt d _ => [.v d.toNat 1]
  | .vexp2 d _ => [.v d.toNat 1]
  | .vlog2 d _ => [.v d.toNat 1]
  | .vsin d _ => [.v d.toNat 1]
  | .vcos d _ => [.v d.toNat 1]
  | .vtanh d _ => [.v d.toNat 1]
  | .vperm d _ _ => [.v d.toNat 1]
  | .vshfl d _ _ _ _ => [.v d.toNat 1]
  | .vred d _ _ => [.s d.toNat 1]
  | .vscan d _ _ _ _ => [.v d.toNat 1]
  | .vote d _ _ => [.p d.toNat]
  | .vballot d _ _ => [.s d.toNat 1]
  | .vmatch d _ _ => [.v d.toNat 1]
  | .vregrp d x c b => [.s b.toNat 1, .v d.toNat (c.toNat + 1 + x.toNat)]
  | .vregrpComplete _ => []
  | .vreord d a x c => [.v a.toNat 1, .v d.toNat (c.toNat + 1 + x.toNat)]
  | .vbroad d _ _ => [.v d.toNat 1]
  | .vld d _ _ m => [.v d.toNat (groupSize m)]
  | .vst _ _ _ _ => []
  | .vlds d _ _ m => [.v d.toNat (groupSize m)]
  | .vsts _ _ _ _ => []
  | .sld d _ _ m => [.s d.toNat (groupSize m)]
  | .sst _ _ _ _ => []
  | .loadDataReturn _ => []
  | .writePerformed _ => []
  | .pref _ _ _ => []
  | .pin p _ _ _ => [.p p.toNat]
  | .unpin _ _ _ => []
  | .cflush _ _ _ => []
  | .lineMigrate _ _ => []
  | .spill _ _ _ => []
  | .fill f c _ => [.v f.toNat c.toNat]
  | .cpy _ _ _ _ _ => []
  | .cpys _ _ _ _ => []
  | .copyByteArrival _ _ => []
  | .copyComplete _ => []
  | .copyFail _ => []
  | .batch => []
  | .waitb _ => []
  | .bara d _ _ => [.s d.toNat 1]
  | .barw _ => []
  | .bcarr d _ _ => [.s d.toNat 1]
  | .bcwait _ _ => []
  | .qpush _ _ _ _ => []
  | .qpop f _ _ _ => [.v f.toNat 1]
  | .qcfg _ _ => []
  | .acq => []
  | .atom _ d _ _ _ _ m => [.v d.toNat (atomSize m)]
  | .red _ _ _ _ _ _ _ => []
  | .acas _ d _ _ _ _ m => [.v d.toNat (if m = 1 then 2 else 1)]
  | .satom _ d _ _ _ _ m => [.s d.toNat (satomWrites m)]
  | .atomicServiceRequest _ => []
  | .mwait _ d _ _ _ z _ => [.v d.toNat (z.toNat + 1)]
  | .hostLineReread _ => []
  | .fence _ _ => []
  | .strel _ _ _ _ _ _ => []
  | .ldacq _ d _ _ _ m => [.v d.toNat (m.toNat + 1)]
  | .rela _ _ => []
  | .tcfg _ => []
  | .slcl d _ => [.s d.toNat 1]
  | .slrl _ => []
  | .slotRelease _ => []
  | .slld _ _ _ => []
  | .slotFillComplete _ => []
  | .slz _ => []
  | .mxc _ _ _ => []
  | .passGrant _ => []
  | .passComplete _ => []
  | .mxp _ => []
  | .mxrd d _ _ => [.v d.toNat 1]
  | .mxwr _ _ _ => []
  | .cbld _ _ => []
  | .codebookReload _ => []
  | .slst _ _ _ => []
  | .slotStoreComplete _ => []
  | .blockKill _ => []
  | .trace d _ _ => [.v d.toNat 6]
  | .traceComplete _ => []
  | .beam d _ _ => [.s d.toNat 1]
  | .fragmentPush _ => []
  | .beamComplete _ => []
  | .hitrd d _ _ => [.v d.toNat 1]
  | .hitrdComplete _ => []
  | .fins _ _ => []
  | .fres _ _ _ => []
  | .fclr _ _ => []
  | .fcfg _ _ _ => []
  | .gate d _ => [.s d.toNat 1]
  | .srd d _ => [.s d.toNat 1]
  | .swr _ _ => []
  | .coremaskCommit _ _ => []
  | .tret => []
  | .ctxsv d _ _ => [.s d.toNat 1]
  | .ctxrs d _ => [.s d.toNat 1]
  | .ckpt => []
  | .tlbi _ _ _ _ => []
  | .hostsig _ _ => []
  | .emul _ _ => []
  | .hoistLost _ => []
  | .ensignEvaluation _ => []
  | .admissionHold _ => []
  | .gridReady _ _ => []
  | .gridEnd _ _ => []
  | .blockPark _ => []
  | .joinDecrement _ _ => []
  | .preemptSave _ => []
  | .translationRequest _ => []
  | .releaseVote _ => []
  | .lateArrival _ => []
  | .pseudoChannelFailing _ => []
  | .interleaveRebuild _ => []
  | .pushDmwr _ _ => []
  | .pushPosted _ _ => []
  | .activate _ => []
  | .refresh _ => []
  | .destroy _ => []
  | .resolveRetry _ _ => []
  | .resolveRefuse _ _ => []
  | .expansionCommand _ _ => []
  | .expansionDone => []
  | .enable _ => []
  | .registerWrite _ _ => []
  | .hostAccess _ _ _ => []
  | .hostSnoop _ => []
  | .ckptGo _ => []
  | .perstDeassert => []
  | .configSpaceReady => []
  | .bar0Ready => []
  | .functionLevelReset => []
  | .hotReset => []
  | .upstreamLinkDown => []
  | .d3hotEntry => []
  | .d3coldEntry => []
  | .clusterClockGate _ => []
  | .clockStepDown _ => []
  | .throttleEnd => []
  | .thermtrip => []
  | .hello _ _ => []
  | .timesync _ _ => []
  | .migrate _ => []
  | .migack _ _ => []
  | .returnCtx _ => []
  | .retdone _ _ => []
  | .homereq _ _ _ => []
  | .homedone _ _ _ => []
  | .ckmark _ _ _ => []
  | .applied _ _ => []
  | .halyardReservedMessage _ _ => []
  | .checkpointPeriod _ => []
  | .quiesce _ => []
  | .commitMarker _ => []
  | .flitTimeout => []
  | .linkLoss => []
  | .tileOrderOperation _ => []
  | .clockStepUp => []

/-- Whether a word takes the payload of an EXT in front of it (R70, and each description). -/
def Instr.extOk : Instr → BitVec 24 → Bool
  | .bra _ => fun _ => true
  | .brz _ _ => fun _ => true
  | .brnz _ _ => fun _ => true
  | .brany _ _ => fun _ => true
  | .brall _ _ => fun _ => true
  | .call _ => fun _ => true
  | .mark _ => fun _ => true
  | .trap _ => fun x => x.toNat < 65536
  | .chk _ => fun x => x.toNat < 65536
  | .saddi _ _ _ => fun _ => true
  | .smovi _ _ => fun x => x.toNat < 65536
  | .ald _ _ _ _ => fun _ => true
  | .ast _ _ _ _ => fun _ => true
  | .vmovi _ _ => fun x => x.toNat < 65536
  | .vaddi _ _ _ => fun _ => true
  | .vld _ _ _ _ => fun _ => true
  | .vst _ _ _ _ => fun _ => true
  | .vlds _ _ _ _ => fun _ => true
  | .vsts _ _ _ _ => fun _ => true
  | .sld _ _ _ _ => fun _ => true
  | .sst _ _ _ _ => fun _ => true
  | .pref _ _ _ => fun _ => true
  | .pin _ _ _ _ => fun _ => true
  | .unpin _ _ _ => fun _ => true
  | .cflush _ _ _ => fun _ => true
  | .spill _ _ _ => fun _ => true
  | .fill _ _ _ => fun _ => true
  | .atom _ _ _ _ _ _ _ => fun _ => true
  | .red _ _ _ _ _ _ _ => fun _ => true
  | .acas _ _ _ _ _ _ _ => fun _ => true
  | .satom _ _ _ _ _ _ _ => fun _ => true
  | .mwait _ _ _ _ _ _ _ => fun _ => true
  | .strel _ _ _ _ _ _ => fun _ => true
  | .ldacq _ _ _ _ _ _ => fun _ => true
  | .emul _ _ => fun _ => true
  | _ => fun _ => false

/-- The privileged instructions (R77). -/
def Instr.privileged : Instr → Bool
  | .fcfg _ _ _ => true
  | .gate _ _ => true
  | .srd _ _ => true
  | .swr _ _ => true
  | .tret => true
  | .ctxsv _ _ _ => true
  | .ctxrs _ _ => true
  | .ckpt => true
  | .tlbi _ _ _ _ => true
  | _ => false

/-- The instructions of R446: with no live lane they make only the checks that the word settles. -/
def Instr.laneWise : Instr → Bool
  | .vld _ _ _ _ => true
  | .vst _ _ _ _ => true
  | .vlds _ _ _ _ => true
  | .vsts _ _ _ _ => true
  | .pref _ _ _ => true
  | .pin _ _ _ _ => true
  | .unpin _ _ _ => true
  | .cflush _ _ _ => true
  | .qpush _ _ _ _ => true
  | .qpop _ _ _ _ => true
  | .atom _ _ _ _ _ _ _ => true
  | .red _ _ _ _ _ _ _ => true
  | .acas _ _ _ _ _ _ _ => true
  | .mwait _ _ _ _ _ _ _ => true
  | .strel _ _ _ _ _ _ => true
  | .ldacq _ _ _ _ _ _ => true
  | .mxc _ _ _ => true
  | .mxrd _ _ _ => true
  | .mxwr _ _ _ => true
  | .trace _ _ _ => true
  | .beam _ _ _ => true
  | .hitrd _ _ _ => true
  | .fins _ _ => true
  | .fres _ _ _ => true
  | .fclr _ _ => true
  | _ => false

/-- The counter of a counting instruction (R72). -/
def Instr.counter : Instr → Option Counter
  | .ald _ _ _ _ => some .g
  | .ast _ _ _ _ => some .w
  | .vperm _ _ _ => some .s
  | .vld _ _ _ _ => some .g
  | .vst _ _ _ _ => some .w
  | .vlds _ _ _ _ => some .s
  | .vsts _ _ _ _ => some .w
  | .sld _ _ _ _ => some .g
  | .sst _ _ _ _ => some .w
  | .spill _ _ _ => some .w
  | .fill _ _ _ => some .g
  | .atom _ _ _ _ _ _ _ => some .g
  | .red _ _ _ _ _ _ _ => some .w
  | .acas _ _ _ _ _ _ _ => some .g
  | .satom _ _ _ _ _ _ _ => some .g
  | .strel _ _ _ _ _ _ => some .w
  | .ldacq _ _ _ _ _ _ => some .g
  | .mxc _ _ _ => some .x
  | .mxrd _ _ _ => some .x
  | .slst _ _ _ => some .w
  | .trace _ _ _ => some .x
  | .beam _ _ _ => some .x
  | .hitrd _ _ _ => some .x
  | _ => none

/-- The words that run on the scalar path, or take only a start (01_machine.md R14). -/
def Instr.scalarPath : Instr → Bool
  | .nop => true
  | .hintS _ _ _ _ _ _ _ _ => true
  | .hintH _ _ _ _ _ _ _ _ _ _ _ _ => true
  | .ext _ => true
  | .bra _ => true
  | .brz _ _ => true
  | .brnz _ _ => true
  | .brany _ _ => true
  | .brall _ _ => true
  | .call _ => true
  | .calli _ => true
  | .jmpi _ => true
  | .ret _ => true
  | .pad _ => true
  | .mark _ => true
  | .join => true
  | .regang => true
  | .exit => true
  | .trap _ => true
  | .yield => true
  | .chk _ => true
  | .isync => true
  | .waitc _ _ _ _ => true
  | .mset _ _ => true
  | .msave _ => true
  | .mrest _ => true
  | .mpop => true
  | .sadd _ _ _ => true
  | .ssub _ _ _ => true
  | .smul _ _ _ => true
  | .smulh _ _ _ => true
  | .smad _ _ _ => true
  | .sand _ _ _ => true
  | .sor _ _ _ => true
  | .sxor _ _ _ => true
  | .sshl _ _ _ => true
  | .sshr _ _ _ => true
  | .ssra _ _ _ => true
  | .smin _ _ _ => true
  | .smax _ _ _ => true
  | .sminn _ _ _ => true
  | .smaxn _ _ _ => true
  | .saddi _ _ _ => true
  | .smovi _ _ => true
  | .smovhi _ _ => true
  | .scmp _ _ _ => true
  | .ssel _ _ _ => true
  | .spop _ _ => true
  | .sclz _ _ => true
  | .sbfe _ _ _ => true
  | .smov _ _ => true
  | .aset _ _ _ => true
  | .aget _ _ _ => true
  | .ald _ _ _ _ => true
  | .ast _ _ _ _ => true
  | .aadv _ _ _ => true
  | .arestr _ _ _ => true
  | .amov _ _ => true
  | .pand _ _ _ => true
  | .por _ _ _ => true
  | .pxor _ _ _ => true
  | .pnot _ _ => true
  | .pfroms _ _ _ => true
  | .ptos _ _ _ => true
  | .sld _ _ _ _ => true
  | .sst _ _ _ _ => true
  | .cpy _ _ _ _ _ => true
  | .cpys _ _ _ _ => true
  | .batch => true
  | .waitb _ => true
  | .bcarr _ _ _ => true
  | .bcwait _ _ => true
  | .qcfg _ _ => true
  | .acq => true
  | .satom _ _ _ _ _ _ _ => true
  | .fence _ _ => true
  | .rela _ _ => true
  | .tcfg _ => true
  | .slcl _ _ => true
  | .slrl _ => true
  | .slld _ _ _ => true
  | .slz _ => true
  | .mxp _ => true
  | .cbld _ _ => true
  | .slst _ _ _ => true
  | .fcfg _ _ _ => true
  | .gate _ _ => true
  | .srd _ _ => true
  | .swr _ _ => true
  | .tret => true
  | .ctxsv _ _ _ => true
  | .ctxrs _ _ => true
  | .ckpt => true
  | .tlbi _ _ _ _ => true
  | .hostsig _ _ => true
  | _ => false

/-- The fixed result latency in cycles; 0 where the result is not a fixed-latency write (01_machine.md R44,
07_lanes.md R134, 13_numbers.md R256). -/
def Instr.latency : Instr → Nat
  | .bra _ => 2
  | .brz _ _ => 2
  | .brnz _ _ => 2
  | .brany _ _ => 2
  | .brall _ _ => 2
  | .call _ => 2
  | .calli _ => 2
  | .jmpi _ => 2
  | .ret _ => 2
  | .pad _ => 2
  | .mark _ => 2
  | .join => 2
  | .regang => 2
  | .exit => 2
  | .trap _ => 2
  | .yield => 2
  | .chk _ => 2
  | .isync => 2
  | .waitc _ _ _ _ => 2
  | .mset _ _ => 2
  | .msave _ => 2
  | .mrest _ => 2
  | .mpop => 2
  | .sadd _ _ _ => 2
  | .ssub _ _ _ => 2
  | .smul _ _ _ => 2
  | .smulh _ _ _ => 2
  | .smad _ _ _ => 2
  | .sand _ _ _ => 2
  | .sor _ _ _ => 2
  | .sxor _ _ _ => 2
  | .sshl _ _ _ => 2
  | .sshr _ _ _ => 2
  | .ssra _ _ _ => 2
  | .smin _ _ _ => 2
  | .smax _ _ _ => 2
  | .sminn _ _ _ => 2
  | .smaxn _ _ _ => 2
  | .saddi _ _ _ => 2
  | .smovi _ _ => 2
  | .smovhi _ _ => 2
  | .scmp _ _ _ => 2
  | .ssel _ _ _ => 2
  | .spop _ _ => 2
  | .sclz _ _ => 2
  | .sbfe _ _ _ => 2
  | .smov _ _ => 2
  | .aset _ _ _ => 2
  | .aget _ _ _ => 2
  | .ast _ _ _ _ => 2
  | .aadv _ _ _ => 2
  | .arestr _ _ _ => 2
  | .amov _ _ => 2
  | .vadd _ _ _ => 4
  | .vsub _ _ _ => 4
  | .vmul _ _ _ => 4
  | .vmulh _ _ _ => 4
  | .vmulhn _ _ _ => 4
  | .vmad _ _ _ => 4
  | .vand _ _ _ => 4
  | .vor _ _ _ => 4
  | .vxor _ _ _ => 4
  | .vshl _ _ _ => 4
  | .vshr _ _ _ => 4
  | .vsra _ _ _ => 4
  | .vmin _ _ _ => 4
  | .vmax _ _ _ => 4
  | .vminn _ _ _ => 4
  | .vmaxn _ _ _ => 4
  | .vabs _ _ => 4
  | .vpop _ _ => 4
  | .vclz _ _ => 4
  | .vbfe _ _ _ => 4
  | .vbfi _ _ _ => 4
  | .vaddc _ _ _ => 4
  | .vmov _ _ => 4
  | .vmovi _ _ => 4
  | .vbcast _ _ => 4
  | .viota _ _ _ => 4
  | .vaddi _ _ _ => 4
  | .vshli _ _ _ => 4
  | .vcmpEq _ _ _ => 4
  | .vcmpNe _ _ _ => 4
  | .vcmpLt _ _ _ => 4
  | .vcmpLe _ _ _ => 4
  | .vcmpGt _ _ _ => 4
  | .vcmpGe _ _ _ => 4
  | .vcmpLtn _ _ _ => 4
  | .vcmpGen _ _ _ => 4
  | .vfcmpEq _ _ _ => 4
  | .vfcmpNe _ _ _ => 4
  | .vfcmpLt _ _ _ => 4
  | .vfcmpLe _ _ _ => 4
  | .vfcmpGt _ _ _ => 4
  | .vfcmpGe _ _ _ => 4
  | .vfcmpOrd _ _ _ => 4
  | .vfcmpUno _ _ _ => 4
  | .vcmov _ _ _ => 4
  | .pand _ _ _ => 2
  | .por _ _ _ => 2
  | .pxor _ _ _ => 2
  | .pnot _ _ => 2
  | .pfroms _ _ _ => 2
  | .ptos _ _ _ => 2
  | .vfadd _ _ _ => 4
  | .vfsub _ _ _ => 4
  | .vfmul _ _ _ => 4
  | .vfma _ _ _ => 4
  | .vfmin _ _ _ => 4
  | .vfmax _ _ _ => 4
  | .vfabs _ _ => 4
  | .vfclass _ _ => 4
  | .vhadd _ _ _ => 4
  | .vhmul _ _ _ => 4
  | .vhfma _ _ _ => 4
  | .vbadd _ _ _ => 4
  | .vbmul _ _ _ => 4
  | .vbfma _ _ _ => 4
  | .vhdot _ _ _ => 4
  | .vbdot _ _ _ => 4
  | .vdadd _ _ _ => 20
  | .vdmul _ _ _ => 20
  | .vdfma _ _ _ => 20
  | .vdmin _ _ _ => 20
  | .vdmax _ _ _ => 20
  | .vcvt _ _ s t => (if s = 3 ∨ t = 3 then 20 else 4)
  | .vqnt _ _ _ => 4
  | .vdqnt _ _ _ => 4
  | .vpack _ _ _ => 4
  | .vunpk _ _ _ _ => 4
  | .vcbdec _ _ _ => 4
  | .vf2i _ _ w t => (if w = 1 ∨ 6 ≤ t.toNat then 20 else 4)
  | .vi2f _ _ t s => (if t = 1 ∨ 6 ≤ s.toNat then 20 else 4)
  | .vrnd _ _ w _ => (if w = 1 then 20 else 4)
  | .vrcp _ _ => 8
  | .vrsq _ _ => 8
  | .vsqrt _ _ => 8
  | .vexp2 _ _ => 8
  | .vlog2 _ _ => 8
  | .vsin _ _ => 8
  | .vcos _ _ => 8
  | .vtanh _ _ => 8
  | .vshfl _ _ _ _ _ => 6
  | .vred _ _ _ => 8
  | .vscan _ _ _ _ _ => 8
  | .vote _ _ _ => 6
  | .vballot _ _ _ => 6
  | .vmatch _ _ _ => 8
  | .vbroad _ _ _ => 6
  | .sst _ _ _ _ => 2
  | .cpy _ _ _ _ _ => 2
  | .cpys _ _ _ _ => 2
  | .batch => 2
  | .waitb _ => 2
  | .bcarr _ _ _ => 2
  | .bcwait _ _ => 2
  | .qcfg _ _ => 2
  | .acq => 2
  | .fence _ _ => 2
  | .rela _ _ => 2
  | .tcfg _ => 2
  | .slcl _ _ => 2
  | .slrl _ => 2
  | .slld _ _ _ => 2
  | .slz _ => 2
  | .mxp _ => 2
  | .cbld _ _ => 2
  | .slst _ _ _ => 2
  | .fcfg _ _ _ => 2
  | .gate _ _ => 2
  | .srd _ _ => 2
  | .swr _ _ => 2
  | .tret => 2
  | .ctxsv _ _ _ => 2
  | .ctxrs _ _ => 2
  | .ckpt => 2
  | .tlbi _ _ _ _ => 2
  | .hostsig _ _ => 2
  | _ => 0

/-- The hint words, which HINT coverage does not count (03_encoding.md R65, R67). -/
def Instr.isHint : Instr → Bool
  | .hintS _ _ _ _ _ _ _ _ => true
  | .hintH _ _ _ _ _ _ _ _ _ _ _ _ => true
  | .ext _ => true
  | _ => false

/-- The transfer words of 21_reliability.md R353: they reset %cfs instead of being folded. -/
def Instr.isTransfer : Instr → Bool
  | .bra _ => true
  | .brz _ _ => true
  | .brnz _ _ => true
  | .brany _ _ => true
  | .brall _ _ => true
  | .call _ => true
  | .calli _ => true
  | .jmpi _ => true
  | .ret _ => true
  | .regang => true
  | _ => false

/-- The words whose completion folds the mask-change constant (21_reliability.md R354). -/
def Instr.changesMask : Instr → Bool
  | .join => true
  | .mset _ _ => true
  | .mrest _ => true
  | .vregrp _ _ _ _ => true
  | .vreord _ _ _ _ => true
  | .qpush _ _ _ _ => true
  | .qpop _ _ _ _ => true
  | _ => false

/-- The V registers named in fields [23:16], [15:8] and [7:0], for the hold codes of HINT.H (03_encoding.md R69). -/
def Instr.vFields : Instr → Option (BitVec 8) × Option (BitVec 8) × Option (BitVec 8)
  | .vadd d a b => (some d, some a, some b)
  | .vsub d a b => (some d, some a, some b)
  | .vmul d a b => (some d, some a, some b)
  | .vmulh d a b => (some d, some a, some b)
  | .vmulhn d a b => (some d, some a, some b)
  | .vmad d a b => (some d, some a, some b)
  | .vand d a b => (some d, some a, some b)
  | .vor d a b => (some d, some a, some b)
  | .vxor d a b => (some d, some a, some b)
  | .vshl d a b => (some d, some a, some b)
  | .vshr d a b => (some d, some a, some b)
  | .vsra d a b => (some d, some a, some b)
  | .vmin d a b => (some d, some a, some b)
  | .vmax d a b => (some d, some a, some b)
  | .vminn d a b => (some d, some a, some b)
  | .vmaxn d a b => (some d, some a, some b)
  | .vabs d a => (some d, some a, none)
  | .vpop d a => (some d, some a, none)
  | .vclz d a => (some d, some a, none)
  | .vbfe d a b => (some d, some a, some b)
  | .vbfi d a b => (some d, some a, some b)
  | .vaddc d a b => (some d, some a, some b)
  | .vmov d a => (some d, some a, none)
  | .vmovi d _ => (some d, none, none)
  | .vbcast d _ => (some d, none, none)
  | .viota d _ _ => (some d, none, none)
  | .vaddi d a _ => (some d, some a, none)
  | .vshli d a _ => (some d, some a, none)
  | .vcmpEq _ a b => (none, some a, some b)
  | .vcmpNe _ a b => (none, some a, some b)
  | .vcmpLt _ a b => (none, some a, some b)
  | .vcmpLe _ a b => (none, some a, some b)
  | .vcmpGt _ a b => (none, some a, some b)
  | .vcmpGe _ a b => (none, some a, some b)
  | .vcmpLtn _ a b => (none, some a, some b)
  | .vcmpGen _ a b => (none, some a, some b)
  | .vfcmpEq _ a b => (none, some a, some b)
  | .vfcmpNe _ a b => (none, some a, some b)
  | .vfcmpLt _ a b => (none, some a, some b)
  | .vfcmpLe _ a b => (none, some a, some b)
  | .vfcmpGt _ a b => (none, some a, some b)
  | .vfcmpGe _ a b => (none, some a, some b)
  | .vfcmpOrd _ a b => (none, some a, some b)
  | .vfcmpUno _ a b => (none, some a, some b)
  | .vcmov d _ b => (some d, none, some b)
  | .vfadd d a b => (some d, some a, some b)
  | .vfsub d a b => (some d, some a, some b)
  | .vfmul d a b => (some d, some a, some b)
  | .vfma d a b => (some d, some a, some b)
  | .vfmin d a b => (some d, some a, some b)
  | .vfmax d a b => (some d, some a, some b)
  | .vfabs d a => (some d, some a, none)
  | .vfclass d a => (some d, some a, none)
  | .vhadd d a b => (some d, some a, some b)
  | .vhmul d a b => (some d, some a, some b)
  | .vhfma d a b => (some d, some a, some b)
  | .vbadd d a b => (some d, some a, some b)
  | .vbmul d a b => (some d, some a, some b)
  | .vbfma d a b => (some d, some a, some b)
  | .vhdot d a b => (some d, some a, some b)
  | .vbdot d a b => (some d, some a, some b)
  | .vdadd d a b => (some d, some a, some b)
  | .vdmul d a b => (some d, some a, some b)
  | .vdfma d a b => (some d, some a, some b)
  | .vdmin d a b => (some d, some a, some b)
  | .vdmax d a b => (some d, some a, some b)
  | .vcvt d a _ _ => (some d, some a, none)
  | .vqnt d a b => (some d, some a, some b)
  | .vdqnt d a b => (some d, some a, some b)
  | .vpack d a _ => (some d, some a, none)
  | .vunpk d a _ _ => (some d, some a, none)
  | .vcbdec d a b => (some d, some a, some b)
  | .vf2i d a _ _ => (some d, some a, none)
  | .vi2f d a _ _ => (some d, some a, none)
  | .vrnd d a _ _ => (some d, some a, none)
  | .vrcp d a => (some d, some a, none)
  | .vrsq d a => (some d, some a, none)
  | .vsqrt d a => (some d, some a, none)
  | .vexp2 d a => (some d, some a, none)
  | .vlog2 d a => (some d, some a, none)
  | .vsin d a => (some d, some a, none)
  | .vcos d a => (some d, some a, none)
  | .vtanh d a => (some d, some a, none)
  | .vperm d a b => (some d, some a, some b)
  | .vshfl d a _ _ _ => (some d, some a, none)
  | .vred _ a _ => (none, some a, none)
  | .vscan d a _ _ _ => (some d, some a, none)
  | .vmatch d a _ => (some d, some a, none)
  | .vregrp d _ _ _ => (some d, none, none)
  | .vreord d a _ _ => (some d, some a, none)
  | .vbroad d a _ => (some d, some a, none)
  | .vld d o _ m => (some d, if dispOnly m then none else some o, none)
  | .vst d o _ m => (some d, if dispOnly m then none else some o, none)
  | .vlds d o _ m => (some d, if dispOnly m then none else some o, none)
  | .vsts d o _ m => (some d, if dispOnly m then none else some o, none)
  | .pref o _ m => (none, if dispOnly m then none else some o, none)
  | .pin _ o _ m => (none, if dispOnly m then none else some o, none)
  | .unpin o _ m => (none, if dispOnly m then none else some o, none)
  | .cflush o _ m => (none, if dispOnly m then none else some o, none)
  | .atom _ d _ x o _ _ => (some (d.zeroExtend 8), if x = 1 then none else some (o.zeroExtend 8), none)
  | .red _ d _ x o _ _ => (some (d.zeroExtend 8), if x = 1 then none else some (o.zeroExtend 8), none)
  | .acas _ d _ x o _ _ => (some (d.zeroExtend 8), if x = 1 then none else some (o.zeroExtend 8), none)
  | .mwait _ d x o _ _ _ => (some (d.zeroExtend 8), if x = 1 then none else some (o.zeroExtend 8), none)
  | .strel _ d x o _ _ => (some (d.zeroExtend 8), if x = 1 then none else some (o.zeroExtend 8), none)
  | .ldacq _ d x o _ _ => (some (d.zeroExtend 8), if x = 1 then none else some (o.zeroExtend 8), none)
  | .qpush f _ _ _ => (some f, none, none)
  | .qpop f _ _ _ => (some f, none, none)
  | .mxrd d _ _ => (some d, none, none)
  | .mxwr d _ _ => (some d, none, none)
  | .trace d a _ => (some d, some a, none)
  | .hitrd d a _ => (some d, some a, none)
  | .fins s _ => (some s, none, none)
  | .fres s _ _ => (some s, none, none)
  | .fclr s _ => (some s, none, none)
  | _ => (none, none, none)

/-- The kind of PAD that a word is. -/
def padKind : Instr → Option (BitVec 2)
  | .pad k => some k
  | _ => none

/-- Whether a word is a memory, atomic or copy instruction (11_ordering.md R231, R234): none says that it is not; an .ord
atomic answers true. -/
def Instr.ordered? : Instr → Option Bool
  | .ald _ _ _ _ => some false
  | .ast _ _ _ _ => some false
  | .vld _ _ _ _ => some false
  | .vst _ _ _ _ => some false
  | .vlds _ _ _ _ => some false
  | .vsts _ _ _ _ => some false
  | .sld _ _ _ _ => some false
  | .sst _ _ _ _ => some false
  | .pref _ _ _ => some false
  | .pin _ _ _ _ => some false
  | .unpin _ _ _ => some false
  | .cflush _ _ _ => some false
  | .spill _ _ _ => some false
  | .fill _ _ _ => some false
  | .cpy _ _ _ _ _ => some false
  | .cpys _ _ _ _ => some false
  | .bcarr _ _ _ => some false
  | .bcwait _ _ => some false
  | .qpush _ _ _ _ => some false
  | .qpop _ _ _ _ => some false
  | .qcfg _ _ => some false
  | .mwait _ _ _ _ _ _ _ => some false
  | .strel _ _ _ _ _ _ => some false
  | .ldacq _ _ _ _ _ _ => some false
  | .atom _ _ q _ _ _ _ => some (q == 1)
  | .red _ _ q _ _ _ _ => some (q == 1)
  | .acas _ _ q _ _ _ _ => some (q == 1)
  | .satom _ _ q _ _ _ _ => some (q == 1)
  | .cbld _ _ => some false
  | .tret => some false
  | .fins _ _ => some false
  | .fres _ _ _ => some false
  | .fclr _ _ => some false
  | _ => none

/-- Whether a span lies within the V-register count (03_encoding.md R46). -/
def RegSpan.inCount (n : Nat) : RegSpan → Bool
  | .v f c => decide (f + c ≤ n)
  | _ => true

/-- Words that a replicated hoist refuses (21_reliability.md R370). -/
def unreplicable : Instr → Bool
  | .fins _ _ => true
  | .fres _ _ _ => true
  | .fclr _ _ => true
  | .beam _ _ _ => true
  | _ => false

/-- Whether two spans share a register. -/
def RegSpan.meets : RegSpan → RegSpan → Bool
  | .v a n, .v b m => decide (a < b + m) && decide (b < a + n)
  | .s a n, .s b m => decide (a < b + m) && decide (b < a + n)
  | .p a, .p b => a == b
  | _, _ => false

/-- The registers of a word. -/
def Instr.spans (i : Instr) : List RegSpan := i.reads ++ i.writes

end Sys2Proof
end

