-- ==== Sys2Proof/WellFormed.lean ====
section
/-!
DEFINITION. Which instructions are well-formed: those whose fields name registers that exist and select forms that
the encoding defines (03_encoding.md R75).  A word that is not raises ILLOP (R80), which exec does.
-/

namespace Sys2Proof

/-- The instruction's fields all hold values that the encoding admits. -/
def Instr.wf (i : Instr) : Bool := i.formOk

end Sys2Proof
end

