-- ==== Sys2Proof/Decode.lean ====
section
/-!
DEFINITION. Decoding of a 32-bit instruction word (03_encoding.md R73–R76) and the encoder written from the same
table.  Decoding is total: a word whose reserved bits are not 0 is rejected by name, a reserved opcode decodes to
the instruction RESERVED_OPCODE (R78), and a value that a field does not admit is left to WellFormed.
-/

namespace Sys2Proof

/-- Why a word decodes to no instruction: bits that its format reserves are not 0 (R74). -/
inductive DecodeError where
  | reservedBits (mnemonic : String)
  deriving DecidableEq, Repr

/-- The opcode, bits 31..24 of a word (R73). -/
def wordOpcode (w : BitVec 32) : BitVec 8 := w.extractLsb' 24 8

/-- The payload, bits 23..0 of a word (R74). -/
def wordPayload (w : BitVec 32) : BitVec 24 := w.extractLsb' 0 24

/-- A word from its opcode and payload. -/
def wordOf (op : BitVec 8) (x : BitVec 24) : BitVec 32 := op ++ x

/-- `len` bits of a payload from bit `lo` up. -/
def bits (x : BitVec 24) (lo len : Nat) : BitVec len := x.extractLsb' lo len

/-- Opcodes 0x00 to 0x0F of R76. -/
def decodeGroup0 (op : BitVec 8) (x : BitVec 24) : Except DecodeError Instr :=
  if op = 0x00 then (if x &&& 0xFFFFFF = 0 then .ok (.nop) else .error (.reservedBits "NOP"))
  else if op = 0x01 then .ok (.hintS (bits x 21 3) (bits x 18 3) (bits x 15 3) (bits x 12 3) (bits x 9 3) (bits x 6 3) (bits x 3 3) (bits x 0 3))
  else if op = 0x02 then .ok (.hintH (bits x 22 2) (bits x 20 2) (bits x 18 2) (bits x 16 2) (bits x 14 2) (bits x 12 2) (bits x 10 2) (bits x 8 2) (bits x 6 2) (bits x 4 2) (bits x 2 2) (bits x 0 2))
  else if op = 0x03 then .ok (.ext (bits x 0 24))
  else if op = 0x04 then .ok (.bra (bits x 0 24))
  else if op = 0x05 then .ok (.brz (bits x 16 8) (bits x 0 16))
  else if op = 0x06 then .ok (.brnz (bits x 16 8) (bits x 0 16))
  else if op = 0x07 then .ok (.brany (bits x 16 8) (bits x 0 16))
  else if op = 0x08 then .ok (.brall (bits x 16 8) (bits x 0 16))
  else if op = 0x09 then .ok (.call (bits x 0 24))
  else if op = 0x0A then (if x &&& 0xFF00FF = 0 then .ok (.calli (bits x 8 8)) else .error (.reservedBits "CALLI"))
  else if op = 0x0B then (if x &&& 0xFF00FF = 0 then .ok (.jmpi (bits x 8 8)) else .error (.reservedBits "JMPI"))
  else if op = 0x0C then (if x &&& 0xFF00FF = 0 then .ok (.ret (bits x 8 8)) else .error (.reservedBits "RET"))
  else if op = 0x0D then (if x &&& 0x3FFFFF = 0 then .ok (.pad (bits x 22 2)) else .error (.reservedBits "PAD"))
  else if op = 0x0E then .ok (.mark (bits x 0 24))
  else if op = 0x0F then (if x &&& 0xFFFFFF = 0 then .ok (.join) else .error (.reservedBits "JOIN"))
  else .ok (.reservedOpcode op x)

/-- Opcodes 0x10 to 0x1F of R76. -/
def decodeGroup1 (op : BitVec 8) (x : BitVec 24) : Except DecodeError Instr :=
  if op = 0x10 then (if x &&& 0xFFFFFF = 0 then .ok (.regang) else .error (.reservedBits "REGANG"))
  else if op = 0x11 then (if x &&& 0xFFFFFF = 0 then .ok (.exit) else .error (.reservedBits "EXIT"))
  else if op = 0x12 then (if x &&& 0xFF0000 = 0 then .ok (.trap (bits x 0 16)) else .error (.reservedBits "TRAP"))
  else if op = 0x13 then (if x &&& 0xFFFFFF = 0 then .ok (.yield) else .error (.reservedBits "YIELD"))
  else if op = 0x14 then (if x &&& 0xFF0000 = 0 then .ok (.chk (bits x 0 16)) else .error (.reservedBits "CHK"))
  else if op = 0x15 then (if x &&& 0xFFFFFF = 0 then .ok (.isync) else .error (.reservedBits "ISYNC"))
  else if op = 0x16 then (if x &&& 0xFF0000 = 0 then .ok (.waitc (bits x 12 4) (bits x 8 4) (bits x 4 4) (bits x 0 4)) else .error (.reservedBits "WAITC"))
  else if op = 0x17 then (if x &&& 0x0000FF = 0 then .ok (.mset (bits x 16 8) (bits x 8 8)) else .error (.reservedBits "MSET"))
  else if op = 0x18 then (if x &&& 0x00FFFF = 0 then .ok (.msave (bits x 16 8)) else .error (.reservedBits "MSAVE"))
  else if op = 0x19 then (if x &&& 0xFF00FF = 0 then .ok (.mrest (bits x 8 8)) else .error (.reservedBits "MREST"))
  else if op = 0x1A then (if x &&& 0xFFFFFF = 0 then .ok (.mpop) else .error (.reservedBits "MPOP"))
  else if op = 0x1C then .ok (.sadd (bits x 16 8) (bits x 8 8) (bits x 0 8))
  else if op = 0x1D then .ok (.ssub (bits x 16 8) (bits x 8 8) (bits x 0 8))
  else if op = 0x1E then .ok (.smul (bits x 16 8) (bits x 8 8) (bits x 0 8))
  else if op = 0x1F then .ok (.smulh (bits x 16 8) (bits x 8 8) (bits x 0 8))
  else .ok (.reservedOpcode op x)

/-- Opcodes 0x20 to 0x2F of R76. -/
def decodeGroup2 (op : BitVec 8) (x : BitVec 24) : Except DecodeError Instr :=
  if op = 0x20 then .ok (.smad (bits x 16 8) (bits x 8 8) (bits x 0 8))
  else if op = 0x21 then .ok (.sand (bits x 16 8) (bits x 8 8) (bits x 0 8))
  else if op = 0x22 then .ok (.sor (bits x 16 8) (bits x 8 8) (bits x 0 8))
  else if op = 0x23 then .ok (.sxor (bits x 16 8) (bits x 8 8) (bits x 0 8))
  else if op = 0x24 then .ok (.sshl (bits x 16 8) (bits x 8 8) (bits x 0 8))
  else if op = 0x25 then .ok (.sshr (bits x 16 8) (bits x 8 8) (bits x 0 8))
  else if op = 0x26 then .ok (.ssra (bits x 16 8) (bits x 8 8) (bits x 0 8))
  else if op = 0x27 then .ok (.smin (bits x 16 8) (bits x 8 8) (bits x 0 8))
  else if op = 0x28 then .ok (.smax (bits x 16 8) (bits x 8 8) (bits x 0 8))
  else if op = 0x29 then .ok (.sminn (bits x 16 8) (bits x 8 8) (bits x 0 8))
  else if op = 0x2A then .ok (.smaxn (bits x 16 8) (bits x 8 8) (bits x 0 8))
  else if op = 0x2B then .ok (.saddi (bits x 16 8) (bits x 8 8) (bits x 0 8))
  else if op = 0x2C then .ok (.smovi (bits x 16 8) (bits x 0 16))
  else if op = 0x2D then .ok (.smovhi (bits x 16 8) (bits x 0 16))
  else if op = 0x2E then (if x &&& 0x0000F8 = 0 then .ok (.scmp (bits x 16 8) (bits x 8 8) (bits x 0 3)) else .error (.reservedBits "SCMP"))
  else if op = 0x2F then .ok (.ssel (bits x 16 8) (bits x 8 8) (bits x 0 8))
  else .ok (.reservedOpcode op x)

/-- Opcodes 0x30 to 0x3F of R76. -/
def decodeGroup3 (op : BitVec 8) (x : BitVec 24) : Except DecodeError Instr :=
  if op = 0x30 then (if x &&& 0x0000FF = 0 then .ok (.spop (bits x 16 8) (bits x 8 8)) else .error (.reservedBits "SPOP"))
  else if op = 0x31 then (if x &&& 0x0000FF = 0 then .ok (.sclz (bits x 16 8) (bits x 8 8)) else .error (.reservedBits "SCLZ"))
  else if op = 0x32 then .ok (.sbfe (bits x 16 8) (bits x 8 8) (bits x 0 8))
  else if op = 0x33 then (if x &&& 0x0000FF = 0 then .ok (.smov (bits x 16 8) (bits x 8 8)) else .error (.reservedBits "SMOV"))
  else if op = 0x34 then .ok (.aset (bits x 16 8) (bits x 8 8) (bits x 0 8))
  else if op = 0x35 then .ok (.aget (bits x 16 8) (bits x 8 8) (bits x 0 8))
  else if op = 0x36 then .ok (.ald (bits x 16 8) (bits x 8 8) (bits x 4 4) (bits x 0 4))
  else if op = 0x37 then .ok (.ast (bits x 16 8) (bits x 8 8) (bits x 4 4) (bits x 0 4))
  else if op = 0x38 then .ok (.aadv (bits x 16 8) (bits x 8 8) (bits x 0 8))
  else if op = 0x39 then .ok (.arestr (bits x 16 8) (bits x 8 8) (bits x 0 8))
  else if op = 0x3A then (if x &&& 0x0000FF = 0 then .ok (.amov (bits x 16 8) (bits x 8 8)) else .error (.reservedBits "AMOV"))
  else if op = 0x3C then .ok (.vadd (bits x 16 8) (bits x 8 8) (bits x 0 8))
  else if op = 0x3D then .ok (.vsub (bits x 16 8) (bits x 8 8) (bits x 0 8))
  else if op = 0x3E then .ok (.vmul (bits x 16 8) (bits x 8 8) (bits x 0 8))
  else if op = 0x3F then .ok (.vmulh (bits x 16 8) (bits x 8 8) (bits x 0 8))
  else .ok (.reservedOpcode op x)

/-- Opcodes 0x40 to 0x4F of R76. -/
def decodeGroup4 (op : BitVec 8) (x : BitVec 24) : Except DecodeError Instr :=
  if op = 0x40 then .ok (.vmulhn (bits x 16 8) (bits x 8 8) (bits x 0 8))
  else if op = 0x41 then .ok (.vmad (bits x 16 8) (bits x 8 8) (bits x 0 8))
  else if op = 0x42 then .ok (.vand (bits x 16 8) (bits x 8 8) (bits x 0 8))
  else if op = 0x43 then .ok (.vor (bits x 16 8) (bits x 8 8) (bits x 0 8))
  else if op = 0x44 then .ok (.vxor (bits x 16 8) (bits x 8 8) (bits x 0 8))
  else if op = 0x45 then .ok (.vshl (bits x 16 8) (bits x 8 8) (bits x 0 8))
  else if op = 0x46 then .ok (.vshr (bits x 16 8) (bits x 8 8) (bits x 0 8))
  else if op = 0x47 then .ok (.vsra (bits x 16 8) (bits x 8 8) (bits x 0 8))
  else if op = 0x48 then .ok (.vmin (bits x 16 8) (bits x 8 8) (bits x 0 8))
  else if op = 0x49 then .ok (.vmax (bits x 16 8) (bits x 8 8) (bits x 0 8))
  else if op = 0x4A then .ok (.vminn (bits x 16 8) (bits x 8 8) (bits x 0 8))
  else if op = 0x4B then .ok (.vmaxn (bits x 16 8) (bits x 8 8) (bits x 0 8))
  else if op = 0x4C then (if x &&& 0x0000FF = 0 then .ok (.vabs (bits x 16 8) (bits x 8 8)) else .error (.reservedBits "VABS"))
  else if op = 0x4D then (if x &&& 0x0000FF = 0 then .ok (.vpop (bits x 16 8) (bits x 8 8)) else .error (.reservedBits "VPOP"))
  else if op = 0x4E then (if x &&& 0x0000FF = 0 then .ok (.vclz (bits x 16 8) (bits x 8 8)) else .error (.reservedBits "VCLZ"))
  else if op = 0x4F then .ok (.vbfe (bits x 16 8) (bits x 8 8) (bits x 0 8))
  else .ok (.reservedOpcode op x)

/-- Opcodes 0x50 to 0x5F of R76. -/
def decodeGroup5 (op : BitVec 8) (x : BitVec 24) : Except DecodeError Instr :=
  if op = 0x50 then .ok (.vbfi (bits x 16 8) (bits x 8 8) (bits x 0 8))
  else if op = 0x51 then .ok (.vaddc (bits x 16 8) (bits x 8 8) (bits x 0 8))
  else if op = 0x52 then (if x &&& 0x0000FF = 0 then .ok (.vmov (bits x 16 8) (bits x 8 8)) else .error (.reservedBits "VMOV"))
  else if op = 0x53 then .ok (.vmovi (bits x 16 8) (bits x 0 16))
  else if op = 0x54 then (if x &&& 0x0000FF = 0 then .ok (.vbcast (bits x 16 8) (bits x 8 8)) else .error (.reservedBits "VBCAST"))
  else if op = 0x55 then .ok (.viota (bits x 16 8) (bits x 8 8) (bits x 0 8))
  else if op = 0x56 then .ok (.vaddi (bits x 16 8) (bits x 8 8) (bits x 0 8))
  else if op = 0x57 then (if x &&& 0x0000E0 = 0 then .ok (.vshli (bits x 16 8) (bits x 8 8) (bits x 0 5)) else .error (.reservedBits "VSHLI"))
  else if op = 0x58 then .ok (.vcmpEq (bits x 16 8) (bits x 8 8) (bits x 0 8))
  else if op = 0x59 then .ok (.vcmpNe (bits x 16 8) (bits x 8 8) (bits x 0 8))
  else if op = 0x5A then .ok (.vcmpLt (bits x 16 8) (bits x 8 8) (bits x 0 8))
  else if op = 0x5B then .ok (.vcmpLe (bits x 16 8) (bits x 8 8) (bits x 0 8))
  else if op = 0x5C then .ok (.vcmpGt (bits x 16 8) (bits x 8 8) (bits x 0 8))
  else if op = 0x5D then .ok (.vcmpGe (bits x 16 8) (bits x 8 8) (bits x 0 8))
  else if op = 0x5E then .ok (.vcmpLtn (bits x 16 8) (bits x 8 8) (bits x 0 8))
  else if op = 0x5F then .ok (.vcmpGen (bits x 16 8) (bits x 8 8) (bits x 0 8))
  else .ok (.reservedOpcode op x)

/-- Opcodes 0x60 to 0x6F of R76. -/
def decodeGroup6 (op : BitVec 8) (x : BitVec 24) : Except DecodeError Instr :=
  if op = 0x60 then .ok (.vfcmpEq (bits x 16 8) (bits x 8 8) (bits x 0 8))
  else if op = 0x61 then .ok (.vfcmpNe (bits x 16 8) (bits x 8 8) (bits x 0 8))
  else if op = 0x62 then .ok (.vfcmpLt (bits x 16 8) (bits x 8 8) (bits x 0 8))
  else if op = 0x63 then .ok (.vfcmpLe (bits x 16 8) (bits x 8 8) (bits x 0 8))
  else if op = 0x64 then .ok (.vfcmpGt (bits x 16 8) (bits x 8 8) (bits x 0 8))
  else if op = 0x65 then .ok (.vfcmpGe (bits x 16 8) (bits x 8 8) (bits x 0 8))
  else if op = 0x66 then .ok (.vfcmpOrd (bits x 16 8) (bits x 8 8) (bits x 0 8))
  else if op = 0x67 then .ok (.vfcmpUno (bits x 16 8) (bits x 8 8) (bits x 0 8))
  else if op = 0x68 then .ok (.vcmov (bits x 16 8) (bits x 8 8) (bits x 0 8))
  else if op = 0x69 then .ok (.pand (bits x 16 8) (bits x 8 8) (bits x 0 8))
  else if op = 0x6A then .ok (.por (bits x 16 8) (bits x 8 8) (bits x 0 8))
  else if op = 0x6B then .ok (.pxor (bits x 16 8) (bits x 8 8) (bits x 0 8))
  else if op = 0x6C then (if x &&& 0x0000FF = 0 then .ok (.pnot (bits x 16 8) (bits x 8 8)) else .error (.reservedBits "PNOT"))
  else if op = 0x6D then (if x &&& 0x0000FC = 0 then .ok (.pfroms (bits x 16 8) (bits x 8 8) (bits x 0 2)) else .error (.reservedBits "PFROMS"))
  else if op = 0x6E then (if x &&& 0x0000FC = 0 then .ok (.ptos (bits x 16 8) (bits x 8 8) (bits x 0 2)) else .error (.reservedBits "PTOS"))
  else .ok (.reservedOpcode op x)

/-- Opcodes 0x70 to 0x7F of R76. -/
def decodeGroup7 (op : BitVec 8) (x : BitVec 24) : Except DecodeError Instr :=
  if op = 0x70 then .ok (.vfadd (bits x 16 8) (bits x 8 8) (bits x 0 8))
  else if op = 0x71 then .ok (.vfsub (bits x 16 8) (bits x 8 8) (bits x 0 8))
  else if op = 0x72 then .ok (.vfmul (bits x 16 8) (bits x 8 8) (bits x 0 8))
  else if op = 0x73 then .ok (.vfma (bits x 16 8) (bits x 8 8) (bits x 0 8))
  else if op = 0x74 then .ok (.vfmin (bits x 16 8) (bits x 8 8) (bits x 0 8))
  else if op = 0x75 then .ok (.vfmax (bits x 16 8) (bits x 8 8) (bits x 0 8))
  else if op = 0x76 then (if x &&& 0x0000FF = 0 then .ok (.vfabs (bits x 16 8) (bits x 8 8)) else .error (.reservedBits "VFABS"))
  else if op = 0x77 then (if x &&& 0x0000FF = 0 then .ok (.vfclass (bits x 16 8) (bits x 8 8)) else .error (.reservedBits "VFCLASS"))
  else if op = 0x78 then .ok (.vhadd (bits x 16 8) (bits x 8 8) (bits x 0 8))
  else if op = 0x79 then .ok (.vhmul (bits x 16 8) (bits x 8 8) (bits x 0 8))
  else if op = 0x7A then .ok (.vhfma (bits x 16 8) (bits x 8 8) (bits x 0 8))
  else if op = 0x7B then .ok (.vbadd (bits x 16 8) (bits x 8 8) (bits x 0 8))
  else if op = 0x7C then .ok (.vbmul (bits x 16 8) (bits x 8 8) (bits x 0 8))
  else if op = 0x7D then .ok (.vbfma (bits x 16 8) (bits x 8 8) (bits x 0 8))
  else if op = 0x7E then .ok (.vhdot (bits x 16 8) (bits x 8 8) (bits x 0 8))
  else if op = 0x7F then .ok (.vbdot (bits x 16 8) (bits x 8 8) (bits x 0 8))
  else .ok (.reservedOpcode op x)

/-- Opcodes 0x80 to 0x8F of R76. -/
def decodeGroup8 (op : BitVec 8) (x : BitVec 24) : Except DecodeError Instr :=
  if op = 0x80 then .ok (.vdadd (bits x 16 8) (bits x 8 8) (bits x 0 8))
  else if op = 0x81 then .ok (.vdmul (bits x 16 8) (bits x 8 8) (bits x 0 8))
  else if op = 0x82 then .ok (.vdfma (bits x 16 8) (bits x 8 8) (bits x 0 8))
  else if op = 0x83 then .ok (.vdmin (bits x 16 8) (bits x 8 8) (bits x 0 8))
  else if op = 0x84 then .ok (.vdmax (bits x 16 8) (bits x 8 8) (bits x 0 8))
  else if op = 0x86 then .ok (.vcvt (bits x 16 8) (bits x 8 8) (bits x 4 4) (bits x 0 4))
  else if op = 0x87 then .ok (.vqnt (bits x 16 8) (bits x 8 8) (bits x 0 8))
  else if op = 0x88 then .ok (.vdqnt (bits x 16 8) (bits x 8 8) (bits x 0 8))
  else if op = 0x89 then .ok (.vpack (bits x 16 8) (bits x 8 8) (bits x 0 8))
  else if op = 0x8A then (if x &&& 0x000008 = 0 then .ok (.vunpk (bits x 16 8) (bits x 8 8) (bits x 4 4) (bits x 0 3)) else .error (.reservedBits "VUNPK"))
  else if op = 0x8B then .ok (.vcbdec (bits x 16 8) (bits x 8 8) (bits x 0 8))
  else if op = 0x8C then (if x &&& 0x0000E0 = 0 then .ok (.vf2i (bits x 16 8) (bits x 8 8) (bits x 4 1) (bits x 0 4)) else .error (.reservedBits "VF2I"))
  else if op = 0x8D then (if x &&& 0x0000C0 = 0 then .ok (.vi2f (bits x 16 8) (bits x 8 8) (bits x 4 2) (bits x 0 4)) else .error (.reservedBits "VI2F"))
  else if op = 0x8E then (if x &&& 0x0000F0 = 0 then .ok (.vrnd (bits x 16 8) (bits x 8 8) (bits x 3 1) (bits x 0 3)) else .error (.reservedBits "VRND"))
  else .ok (.reservedOpcode op x)

/-- Opcodes 0x90 to 0x9F of R76. -/
def decodeGroup9 (op : BitVec 8) (x : BitVec 24) : Except DecodeError Instr :=
  if op = 0x90 then (if x &&& 0x0000FF = 0 then .ok (.vrcp (bits x 16 8) (bits x 8 8)) else .error (.reservedBits "VRCP"))
  else if op = 0x91 then (if x &&& 0x0000FF = 0 then .ok (.vrsq (bits x 16 8) (bits x 8 8)) else .error (.reservedBits "VRSQ"))
  else if op = 0x92 then (if x &&& 0x0000FF = 0 then .ok (.vsqrt (bits x 16 8) (bits x 8 8)) else .error (.reservedBits "VSQRT"))
  else if op = 0x93 then (if x &&& 0x0000FF = 0 then .ok (.vexp2 (bits x 16 8) (bits x 8 8)) else .error (.reservedBits "VEXP2"))
  else if op = 0x94 then (if x &&& 0x0000FF = 0 then .ok (.vlog2 (bits x 16 8) (bits x 8 8)) else .error (.reservedBits "VLOG2"))
  else if op = 0x95 then (if x &&& 0x0000FF = 0 then .ok (.vsin (bits x 16 8) (bits x 8 8)) else .error (.reservedBits "VSIN"))
  else if op = 0x96 then (if x &&& 0x0000FF = 0 then .ok (.vcos (bits x 16 8) (bits x 8 8)) else .error (.reservedBits "VCOS"))
  else if op = 0x97 then (if x &&& 0x0000FF = 0 then .ok (.vtanh (bits x 16 8) (bits x 8 8)) else .error (.reservedBits "VTANH"))
  else .ok (.reservedOpcode op x)

/-- Opcodes 0xA0 to 0xAF of R76. -/
def decodeGroupA (op : BitVec 8) (x : BitVec 24) : Except DecodeError Instr :=
  if op = 0xA0 then .ok (.vperm (bits x 16 8) (bits x 8 8) (bits x 0 8))
  else if op = 0xA1 then .ok (.vshfl (bits x 16 8) (bits x 8 8) (bits x 5 3) (bits x 4 1) (bits x 0 4))
  else if op = 0xA2 then (if x &&& 0x00000F = 0 then .ok (.vred (bits x 16 8) (bits x 8 8) (bits x 4 4)) else .error (.reservedBits "VRED"))
  else if op = 0xA3 then (if x &&& 0x000003 = 0 then .ok (.vscan (bits x 16 8) (bits x 8 8) (bits x 4 4) (bits x 3 1) (bits x 2 1)) else .error (.reservedBits "VSCAN"))
  else if op = 0xA4 then .ok (.vote (bits x 16 8) (bits x 8 8) (bits x 0 8))
  else if op = 0xA5 then (if x &&& 0x0000FC = 0 then .ok (.vballot (bits x 16 8) (bits x 8 8) (bits x 0 2)) else .error (.reservedBits "VBALLOT"))
  else if op = 0xA6 then (if x &&& 0x0000FC = 0 then .ok (.vmatch (bits x 16 8) (bits x 8 8) (bits x 0 2)) else .error (.reservedBits "VMATCH"))
  else if op = 0xA7 then (if x &&& 0x008000 = 0 then .ok (.vregrp (bits x 16 8) (bits x 14 1) (bits x 8 6) (bits x 0 8)) else .error (.reservedBits "VREGRP"))
  else if op = 0xA8 then (if x &&& 0x000080 = 0 then .ok (.vreord (bits x 16 8) (bits x 8 8) (bits x 6 1) (bits x 0 6)) else .error (.reservedBits "VREORD"))
  else if op = 0xA9 then .ok (.vbroad (bits x 16 8) (bits x 8 8) (bits x 0 8))
  else .ok (.reservedOpcode op x)

/-- Opcodes 0xB0 to 0xBF of R76. -/
def decodeGroupB (op : BitVec 8) (x : BitVec 24) : Except DecodeError Instr :=
  if op = 0xB0 then .ok (.vld (bits x 16 8) (bits x 8 8) (bits x 4 4) (bits x 0 4))
  else if op = 0xB1 then .ok (.vst (bits x 16 8) (bits x 8 8) (bits x 4 4) (bits x 0 4))
  else if op = 0xB2 then .ok (.vlds (bits x 16 8) (bits x 8 8) (bits x 4 4) (bits x 0 4))
  else if op = 0xB3 then .ok (.vsts (bits x 16 8) (bits x 8 8) (bits x 4 4) (bits x 0 4))
  else if op = 0xB4 then .ok (.sld (bits x 16 8) (bits x 8 8) (bits x 4 4) (bits x 0 4))
  else if op = 0xB5 then .ok (.sst (bits x 16 8) (bits x 8 8) (bits x 4 4) (bits x 0 4))
  else if op = 0xB6 then (if x &&& 0xFF0000 = 0 then .ok (.pref (bits x 8 8) (bits x 4 4) (bits x 0 4)) else .error (.reservedBits "PREF"))
  else if op = 0xB7 then .ok (.pin (bits x 16 8) (bits x 8 8) (bits x 4 4) (bits x 0 4))
  else if op = 0xB8 then (if x &&& 0xFF0000 = 0 then .ok (.unpin (bits x 8 8) (bits x 4 4) (bits x 0 4)) else .error (.reservedBits "UNPIN"))
  else if op = 0xB9 then (if x &&& 0xFF0000 = 0 then .ok (.cflush (bits x 8 8) (bits x 4 4) (bits x 0 4)) else .error (.reservedBits "CFLUSH"))
  else if op = 0xBA then (if x &&& 0x00000F = 0 then .ok (.spill (bits x 16 8) (bits x 8 8) (bits x 4 4)) else .error (.reservedBits "SPILL"))
  else if op = 0xBB then (if x &&& 0x00000F = 0 then .ok (.fill (bits x 16 8) (bits x 8 8) (bits x 4 4)) else .error (.reservedBits "FILL"))
  else if op = 0xBC then .ok (.cpy (bits x 20 4) (bits x 16 4) (bits x 12 4) (bits x 8 4) (bits x 0 8))
  else if op = 0xBD then (if x &&& 0xFFFFFF = 0 then .ok (.batch) else .error (.reservedBits "BATCH"))
  else if op = 0xBE then (if x &&& 0xFF00FF = 0 then .ok (.waitb (bits x 8 8)) else .error (.reservedBits "WAITB"))
  else if op = 0xBF then .ok (.cpys (bits x 20 4) (bits x 16 4) (bits x 8 8) (bits x 0 8))
  else .ok (.reservedOpcode op x)

/-- Opcodes 0xC0 to 0xCF of R76. -/
def decodeGroupC (op : BitVec 8) (x : BitVec 24) : Except DecodeError Instr :=
  if op = 0xC0 then .ok (.bara (bits x 16 8) (bits x 8 8) (bits x 0 8))
  else if op = 0xC1 then (if x &&& 0xFF00FF = 0 then .ok (.barw (bits x 8 8)) else .error (.reservedBits "BARW"))
  else if op = 0xC2 then .ok (.bcarr (bits x 16 8) (bits x 8 8) (bits x 0 8))
  else if op = 0xC3 then (if x &&& 0xFF0000 = 0 then .ok (.bcwait (bits x 8 8) (bits x 0 8)) else .error (.reservedBits "BCWAIT"))
  else if op = 0xC4 then .ok (.qpush (bits x 16 8) (bits x 12 4) (bits x 8 4) (bits x 0 8))
  else if op = 0xC5 then .ok (.qpop (bits x 16 8) (bits x 12 4) (bits x 8 4) (bits x 0 8))
  else if op = 0xC6 then (if x &&& 0xFF0000 = 0 then .ok (.qcfg (bits x 8 8) (bits x 0 8)) else .error (.reservedBits "QCFG"))
  else if op = 0xC7 then (if x &&& 0xFFFFFF = 0 then .ok (.acq) else .error (.reservedBits "ACQ"))
  else if op = 0xC8 then .ok (.atom (bits x 22 2) (bits x 16 6) (bits x 15 1) (bits x 14 1) (bits x 8 6) (bits x 4 4) (bits x 0 4))
  else if op = 0xC9 then .ok (.red (bits x 22 2) (bits x 16 6) (bits x 15 1) (bits x 14 1) (bits x 8 6) (bits x 4 4) (bits x 0 4))
  else if op = 0xCA then .ok (.acas (bits x 22 2) (bits x 16 6) (bits x 15 1) (bits x 14 1) (bits x 8 6) (bits x 4 4) (bits x 0 4))
  else if op = 0xCB then .ok (.satom (bits x 22 2) (bits x 16 6) (bits x 15 1) (bits x 14 1) (bits x 8 6) (bits x 4 4) (bits x 0 4))
  else if op = 0xCC then (if x &&& 0x008000 = 0 then .ok (.mwait (bits x 22 2) (bits x 16 6) (bits x 14 1) (bits x 8 6) (bits x 4 4) (bits x 3 1) (bits x 0 3)) else .error (.reservedBits "MWAIT"))
  else if op = 0xCD then (if x &&& 0xFFFFF0 = 0 then .ok (.fence (bits x 2 2) (bits x 0 2)) else .error (.reservedBits "FENCE"))
  else if op = 0xCE then (if x &&& 0x008000 = 0 then .ok (.strel (bits x 22 2) (bits x 16 6) (bits x 14 1) (bits x 8 6) (bits x 4 4) (bits x 0 4)) else .error (.reservedBits "STREL"))
  else if op = 0xCF then (if x &&& 0x008000 = 0 then .ok (.ldacq (bits x 22 2) (bits x 16 6) (bits x 14 1) (bits x 8 6) (bits x 4 4) (bits x 0 4)) else .error (.reservedBits "LDACQ"))
  else .ok (.reservedOpcode op x)

/-- Opcodes 0xD0 to 0xDF of R76. -/
def decodeGroupD (op : BitVec 8) (x : BitVec 24) : Except DecodeError Instr :=
  if op = 0xD0 then (if x &&& 0x0000FF = 0 then .ok (.rela (bits x 16 8) (bits x 8 8)) else .error (.reservedBits "RELA"))
  else if op = 0xD4 then (if x &&& 0xFF00FF = 0 then .ok (.tcfg (bits x 8 8)) else .error (.reservedBits "TCFG"))
  else if op = 0xD5 then (if x &&& 0x0000FF = 0 then .ok (.slcl (bits x 16 8) (bits x 8 8)) else .error (.reservedBits "SLCL"))
  else if op = 0xD6 then (if x &&& 0xFF00FF = 0 then .ok (.slrl (bits x 8 8)) else .error (.reservedBits "SLRL"))
  else if op = 0xD7 then (if x &&& 0x00F000 = 0 then .ok (.slld (bits x 16 8) (bits x 8 4) (bits x 0 8)) else .error (.reservedBits "SLLD"))
  else if op = 0xD8 then (if x &&& 0xFF00FF = 0 then .ok (.slz (bits x 8 8)) else .error (.reservedBits "SLZ"))
  else if op = 0xD9 then .ok (.mxc (bits x 16 8) (bits x 8 8) (bits x 0 8))
  else if op = 0xDA then (if x &&& 0xFF00FF = 0 then .ok (.mxp (bits x 8 8)) else .error (.reservedBits "MXP"))
  else if op = 0xDB then .ok (.mxrd (bits x 16 8) (bits x 8 8) (bits x 0 8))
  else if op = 0xDC then .ok (.mxwr (bits x 16 8) (bits x 8 8) (bits x 0 8))
  else if op = 0xDD then (if x &&& 0xFFF000 = 0 then .ok (.cbld (bits x 8 4) (bits x 0 8)) else .error (.reservedBits "CBLD"))
  else if op = 0xDE then (if x &&& 0x00F000 = 0 then .ok (.slst (bits x 16 8) (bits x 8 4) (bits x 0 8)) else .error (.reservedBits "SLST"))
  else .ok (.reservedOpcode op x)

/-- Opcodes 0xE0 to 0xEF of R76. -/
def decodeGroupE (op : BitVec 8) (x : BitVec 24) : Except DecodeError Instr :=
  if op = 0xE0 then .ok (.trace (bits x 16 8) (bits x 8 8) (bits x 0 8))
  else if op = 0xE1 then .ok (.beam (bits x 16 8) (bits x 8 8) (bits x 0 8))
  else if op = 0xE2 then .ok (.hitrd (bits x 16 8) (bits x 8 8) (bits x 0 8))
  else if op = 0xE3 then (if x &&& 0x00F0FF = 0 then .ok (.fins (bits x 16 8) (bits x 8 4)) else .error (.reservedBits "FINS"))
  else if op = 0xE4 then (if x &&& 0x0000FF = 0 then .ok (.fres (bits x 16 8) (bits x 12 4) (bits x 8 4)) else .error (.reservedBits "FRES"))
  else if op = 0xE5 then (if x &&& 0x00F0FF = 0 then .ok (.fclr (bits x 16 8) (bits x 8 4)) else .error (.reservedBits "FCLR"))
  else if op = 0xE6 then (if x &&& 0x0000FF = 0 then .ok (.fcfg (bits x 16 8) (bits x 12 4) (bits x 8 4)) else .error (.reservedBits "FCFG"))
  else if op = 0xE7 then (if x &&& 0x0000FF = 0 then .ok (.gate (bits x 16 8) (bits x 8 8)) else .error (.reservedBits "GATE"))
  else .ok (.reservedOpcode op x)

/-- Opcodes 0xF0 to 0xFF of R76, the extension window of R79 among them. -/
def decodeGroupF (op : BitVec 8) (x : BitVec 24) : Except DecodeError Instr :=
  if op = 0xF0 then .ok (.srd (bits x 16 8) (bits x 0 16))
  else if op = 0xF1 then .ok (.swr (bits x 16 8) (bits x 0 16))
  else if op = 0xF2 then (if x &&& 0xFFFFFF = 0 then .ok (.tret) else .error (.reservedBits "TRET"))
  else if op = 0xF3 then (if x &&& 0x00F000 = 0 then .ok (.ctxsv (bits x 16 8) (bits x 8 4) (bits x 0 8)) else .error (.reservedBits "CTXSV"))
  else if op = 0xF4 then (if x &&& 0x00F0FF = 0 then .ok (.ctxrs (bits x 16 8) (bits x 8 4)) else .error (.reservedBits "CTXRS"))
  else if op = 0xF5 then (if x &&& 0xFFFFFF = 0 then .ok (.ckpt) else .error (.reservedBits "CKPT"))
  else if op = 0xF6 then (if x &&& 0xF00000 = 0 then .ok (.tlbi (bits x 19 1) (bits x 16 3) (bits x 8 8) (bits x 0 8)) else .error (.reservedBits "TLBI"))
  else if op = 0xF7 then (if x &&& 0xFF0000 = 0 then .ok (.hostsig (bits x 8 8) (bits x 0 8)) else .error (.reservedBits "HOSTSIG"))
  else if 0xF8 ≤ op then .ok (.emul (op.extractLsb' 0 3) x)
  else .ok (.reservedOpcode op x)

/-- Decodes an opcode and a payload by the opcode's high digit. -/
def decodeParts (op : BitVec 8) (x : BitVec 24) : Except DecodeError Instr :=
  match (op.extractLsb' 4 4).toNat with
  | 0 => decodeGroup0 op x
  | 1 => decodeGroup1 op x
  | 2 => decodeGroup2 op x
  | 3 => decodeGroup3 op x
  | 4 => decodeGroup4 op x
  | 5 => decodeGroup5 op x
  | 6 => decodeGroup6 op x
  | 7 => decodeGroup7 op x
  | 8 => decodeGroup8 op x
  | 9 => decodeGroup9 op x
  | 10 => decodeGroupA op x
  | 11 => decodeGroupB op x
  | 12 => decodeGroupC op x
  | 13 => decodeGroupD op x
  | 14 => decodeGroupE op x
  | _ => decodeGroupF op x

/-- The instruction of a word, or the name of the reserved bits that are set. -/
def decode (w : BitVec 32) : Except DecodeError Instr := decodeParts (wordOpcode w) (wordPayload w)

/-- The word of an instruction (R73–R76); an event has none. -/
def encode : Instr → Option (BitVec 32)
  | .nop => some (wordOf 0x00 (0#24))
  | .hintS a b c d e f g h => some (wordOf 0x01 (a ++ b ++ c ++ d ++ e ++ f ++ g ++ h))
  | .hintH a b c d e f g h j k m n => some (wordOf 0x02 (a ++ b ++ c ++ d ++ e ++ f ++ g ++ h ++ j ++ k ++ m ++ n))
  | .ext i => some (wordOf 0x03 (i))
  | .bra o => some (wordOf 0x04 (o))
  | .brz s o => some (wordOf 0x05 (s ++ o))
  | .brnz s o => some (wordOf 0x06 (s ++ o))
  | .brany p o => some (wordOf 0x07 (p ++ o))
  | .brall p o => some (wordOf 0x08 (p ++ o))
  | .call o => some (wordOf 0x09 (o))
  | .calli a => some (wordOf 0x0A (0#8 ++ a ++ 0#8))
  | .jmpi a => some (wordOf 0x0B (0#8 ++ a ++ 0#8))
  | .ret a => some (wordOf 0x0C (0#8 ++ a ++ 0#8))
  | .pad k => some (wordOf 0x0D (k ++ 0#22))
  | .mark o => some (wordOf 0x0E (o))
  | .join => some (wordOf 0x0F (0#24))
  | .regang => some (wordOf 0x10 (0#24))
  | .regangMerge _ => none
  | .exit => some (wordOf 0x11 (0#24))
  | .hoistRetire _ => none
  | .trap i => some (wordOf 0x12 (0#8 ++ i))
  | .yield => some (wordOf 0x13 (0#24))
  | .chk i => some (wordOf 0x14 (0#8 ++ i))
  | .isync => some (wordOf 0x15 (0#24))
  | .waitc g s w x => some (wordOf 0x16 (0#8 ++ g ++ s ++ w ++ x))
  | .mset m a => some (wordOf 0x17 (m ++ a ++ 0#8))
  | .msave d => some (wordOf 0x18 (d ++ 0#16))
  | .mrest a => some (wordOf 0x19 (0#8 ++ a ++ 0#8))
  | .mpop => some (wordOf 0x1A (0#24))
  | .reservedOpcode op x => some (wordOf op x)
  | .sadd d a b => some (wordOf 0x1C (d ++ a ++ b))
  | .ssub d a b => some (wordOf 0x1D (d ++ a ++ b))
  | .smul d a b => some (wordOf 0x1E (d ++ a ++ b))
  | .smulh d a b => some (wordOf 0x1F (d ++ a ++ b))
  | .smad d a b => some (wordOf 0x20 (d ++ a ++ b))
  | .sand d a b => some (wordOf 0x21 (d ++ a ++ b))
  | .sor d a b => some (wordOf 0x22 (d ++ a ++ b))
  | .sxor d a b => some (wordOf 0x23 (d ++ a ++ b))
  | .sshl d a b => some (wordOf 0x24 (d ++ a ++ b))
  | .sshr d a b => some (wordOf 0x25 (d ++ a ++ b))
  | .ssra d a b => some (wordOf 0x26 (d ++ a ++ b))
  | .smin d a b => some (wordOf 0x27 (d ++ a ++ b))
  | .smax d a b => some (wordOf 0x28 (d ++ a ++ b))
  | .sminn d a b => some (wordOf 0x29 (d ++ a ++ b))
  | .smaxn d a b => some (wordOf 0x2A (d ++ a ++ b))
  | .saddi d a i => some (wordOf 0x2B (d ++ a ++ i))
  | .smovi d i => some (wordOf 0x2C (d ++ i))
  | .smovhi d i => some (wordOf 0x2D (d ++ i))
  | .scmp d a c => some (wordOf 0x2E (d ++ a ++ 0#5 ++ c))
  | .ssel d a b => some (wordOf 0x2F (d ++ a ++ b))
  | .spop d a => some (wordOf 0x30 (d ++ a ++ 0#8))
  | .sclz d a => some (wordOf 0x31 (d ++ a ++ 0#8))
  | .sbfe d a b => some (wordOf 0x32 (d ++ a ++ b))
  | .smov d a => some (wordOf 0x33 (d ++ a ++ 0#8))
  | .aset d a s => some (wordOf 0x34 (d ++ a ++ s))
  | .aget d a s => some (wordOf 0x35 (d ++ a ++ s))
  | .ald d o n m => some (wordOf 0x36 (d ++ o ++ n ++ m))
  | .ast d o n m => some (wordOf 0x37 (d ++ o ++ n ++ m))
  | .aadv d a m => some (wordOf 0x38 (d ++ a ++ m))
  | .arestr d a b => some (wordOf 0x39 (d ++ a ++ b))
  | .amov d a => some (wordOf 0x3A (d ++ a ++ 0#8))
  | .vadd d a b => some (wordOf 0x3C (d ++ a ++ b))
  | .vsub d a b => some (wordOf 0x3D (d ++ a ++ b))
  | .vmul d a b => some (wordOf 0x3E (d ++ a ++ b))
  | .vmulh d a b => some (wordOf 0x3F (d ++ a ++ b))
  | .vmulhn d a b => some (wordOf 0x40 (d ++ a ++ b))
  | .vmad d a b => some (wordOf 0x41 (d ++ a ++ b))
  | .vand d a b => some (wordOf 0x42 (d ++ a ++ b))
  | .vor d a b => some (wordOf 0x43 (d ++ a ++ b))
  | .vxor d a b => some (wordOf 0x44 (d ++ a ++ b))
  | .vshl d a b => some (wordOf 0x45 (d ++ a ++ b))
  | .vshr d a b => some (wordOf 0x46 (d ++ a ++ b))
  | .vsra d a b => some (wordOf 0x47 (d ++ a ++ b))
  | .vmin d a b => some (wordOf 0x48 (d ++ a ++ b))
  | .vmax d a b => some (wordOf 0x49 (d ++ a ++ b))
  | .vminn d a b => some (wordOf 0x4A (d ++ a ++ b))
  | .vmaxn d a b => some (wordOf 0x4B (d ++ a ++ b))
  | .vabs d a => some (wordOf 0x4C (d ++ a ++ 0#8))
  | .vpop d a => some (wordOf 0x4D (d ++ a ++ 0#8))
  | .vclz d a => some (wordOf 0x4E (d ++ a ++ 0#8))
  | .vbfe d a b => some (wordOf 0x4F (d ++ a ++ b))
  | .vbfi d a b => some (wordOf 0x50 (d ++ a ++ b))
  | .vaddc d a b => some (wordOf 0x51 (d ++ a ++ b))
  | .vmov d a => some (wordOf 0x52 (d ++ a ++ 0#8))
  | .vmovi d i => some (wordOf 0x53 (d ++ i))
  | .vbcast d a => some (wordOf 0x54 (d ++ a ++ 0#8))
  | .viota d a b => some (wordOf 0x55 (d ++ a ++ b))
  | .vaddi d a i => some (wordOf 0x56 (d ++ a ++ i))
  | .vshli d a s => some (wordOf 0x57 (d ++ a ++ 0#3 ++ s))
  | .vcmpEq d a b => some (wordOf 0x58 (d ++ a ++ b))
  | .vcmpNe d a b => some (wordOf 0x59 (d ++ a ++ b))
  | .vcmpLt d a b => some (wordOf 0x5A (d ++ a ++ b))
  | .vcmpLe d a b => some (wordOf 0x5B (d ++ a ++ b))
  | .vcmpGt d a b => some (wordOf 0x5C (d ++ a ++ b))
  | .vcmpGe d a b => some (wordOf 0x5D (d ++ a ++ b))
  | .vcmpLtn d a b => some (wordOf 0x5E (d ++ a ++ b))
  | .vcmpGen d a b => some (wordOf 0x5F (d ++ a ++ b))
  | .vfcmpEq d a b => some (wordOf 0x60 (d ++ a ++ b))
  | .vfcmpNe d a b => some (wordOf 0x61 (d ++ a ++ b))
  | .vfcmpLt d a b => some (wordOf 0x62 (d ++ a ++ b))
  | .vfcmpLe d a b => some (wordOf 0x63 (d ++ a ++ b))
  | .vfcmpGt d a b => some (wordOf 0x64 (d ++ a ++ b))
  | .vfcmpGe d a b => some (wordOf 0x65 (d ++ a ++ b))
  | .vfcmpOrd d a b => some (wordOf 0x66 (d ++ a ++ b))
  | .vfcmpUno d a b => some (wordOf 0x67 (d ++ a ++ b))
  | .vcmov d a b => some (wordOf 0x68 (d ++ a ++ b))
  | .pand d a b => some (wordOf 0x69 (d ++ a ++ b))
  | .por d a b => some (wordOf 0x6A (d ++ a ++ b))
  | .pxor d a b => some (wordOf 0x6B (d ++ a ++ b))
  | .pnot d a => some (wordOf 0x6C (d ++ a ++ 0#8))
  | .pfroms d a q => some (wordOf 0x6D (d ++ a ++ 0#6 ++ q))
  | .ptos d a q => some (wordOf 0x6E (d ++ a ++ 0#6 ++ q))
  | .vfadd d a b => some (wordOf 0x70 (d ++ a ++ b))
  | .vfsub d a b => some (wordOf 0x71 (d ++ a ++ b))
  | .vfmul d a b => some (wordOf 0x72 (d ++ a ++ b))
  | .vfma d a b => some (wordOf 0x73 (d ++ a ++ b))
  | .vfmin d a b => some (wordOf 0x74 (d ++ a ++ b))
  | .vfmax d a b => some (wordOf 0x75 (d ++ a ++ b))
  | .vfabs d a => some (wordOf 0x76 (d ++ a ++ 0#8))
  | .vfclass d a => some (wordOf 0x77 (d ++ a ++ 0#8))
  | .vhadd d a b => some (wordOf 0x78 (d ++ a ++ b))
  | .vhmul d a b => some (wordOf 0x79 (d ++ a ++ b))
  | .vhfma d a b => some (wordOf 0x7A (d ++ a ++ b))
  | .vbadd d a b => some (wordOf 0x7B (d ++ a ++ b))
  | .vbmul d a b => some (wordOf 0x7C (d ++ a ++ b))
  | .vbfma d a b => some (wordOf 0x7D (d ++ a ++ b))
  | .vhdot d a b => some (wordOf 0x7E (d ++ a ++ b))
  | .vbdot d a b => some (wordOf 0x7F (d ++ a ++ b))
  | .vdadd d a b => some (wordOf 0x80 (d ++ a ++ b))
  | .vdmul d a b => some (wordOf 0x81 (d ++ a ++ b))
  | .vdfma d a b => some (wordOf 0x82 (d ++ a ++ b))
  | .vdmin d a b => some (wordOf 0x83 (d ++ a ++ b))
  | .vdmax d a b => some (wordOf 0x84 (d ++ a ++ b))
  | .vcvt d a s t => some (wordOf 0x86 (d ++ a ++ s ++ t))
  | .vqnt d a b => some (wordOf 0x87 (d ++ a ++ b))
  | .vdqnt d a b => some (wordOf 0x88 (d ++ a ++ b))
  | .vpack d a b => some (wordOf 0x89 (d ++ a ++ b))
  | .vunpk d a f k => some (wordOf 0x8A (d ++ a ++ f ++ 0#1 ++ k))
  | .vcbdec d a b => some (wordOf 0x8B (d ++ a ++ b))
  | .vf2i d a w t => some (wordOf 0x8C (d ++ a ++ 0#3 ++ w ++ t))
  | .vi2f d a t s => some (wordOf 0x8D (d ++ a ++ 0#2 ++ t ++ s))
  | .vrnd d a w m => some (wordOf 0x8E (d ++ a ++ 0#4 ++ w ++ m))
  | .vrcp d a => some (wordOf 0x90 (d ++ a ++ 0#8))
  | .vrsq d a => some (wordOf 0x91 (d ++ a ++ 0#8))
  | .vsqrt d a => some (wordOf 0x92 (d ++ a ++ 0#8))
  | .vexp2 d a => some (wordOf 0x93 (d ++ a ++ 0#8))
  | .vlog2 d a => some (wordOf 0x94 (d ++ a ++ 0#8))
  | .vsin d a => some (wordOf 0x95 (d ++ a ++ 0#8))
  | .vcos d a => some (wordOf 0x96 (d ++ a ++ 0#8))
  | .vtanh d a => some (wordOf 0x97 (d ++ a ++ 0#8))
  | .vperm d a b => some (wordOf 0xA0 (d ++ a ++ b))
  | .vshfl d a m r n => some (wordOf 0xA1 (d ++ a ++ m ++ r ++ n))
  | .vred d a o => some (wordOf 0xA2 (d ++ a ++ o ++ 0#4))
  | .vscan d a o i r => some (wordOf 0xA3 (d ++ a ++ o ++ i ++ r ++ 0#2))
  | .vote d a m => some (wordOf 0xA4 (d ++ a ++ m))
  | .vballot d a q => some (wordOf 0xA5 (d ++ a ++ 0#6 ++ q))
  | .vmatch d a q => some (wordOf 0xA6 (d ++ a ++ 0#6 ++ q))
  | .vregrp d x c b => some (wordOf 0xA7 (d ++ 0#1 ++ x ++ c ++ b))
  | .vregrpComplete _ => none
  | .vreord d a x c => some (wordOf 0xA8 (d ++ a ++ 0#1 ++ x ++ c))
  | .vbroad d a b => some (wordOf 0xA9 (d ++ a ++ b))
  | .vld d o n m => some (wordOf 0xB0 (d ++ o ++ n ++ m))
  | .vst d o n m => some (wordOf 0xB1 (d ++ o ++ n ++ m))
  | .vlds d o n m => some (wordOf 0xB2 (d ++ o ++ n ++ m))
  | .vsts d o n m => some (wordOf 0xB3 (d ++ o ++ n ++ m))
  | .sld d o n m => some (wordOf 0xB4 (d ++ o ++ n ++ m))
  | .sst d o n m => some (wordOf 0xB5 (d ++ o ++ n ++ m))
  | .loadDataReturn _ => none
  | .writePerformed _ => none
  | .pref o n m => some (wordOf 0xB6 (0#8 ++ o ++ n ++ m))
  | .pin p o n m => some (wordOf 0xB7 (p ++ o ++ n ++ m))
  | .unpin o n m => some (wordOf 0xB8 (0#8 ++ o ++ n ++ m))
  | .cflush o n m => some (wordOf 0xB9 (0#8 ++ o ++ n ++ m))
  | .lineMigrate _ _ => none
  | .spill f c n => some (wordOf 0xBA (f ++ c ++ n ++ 0#4))
  | .fill f c n => some (wordOf 0xBB (f ++ c ++ n ++ 0#4))
  | .cpy d s c q b => some (wordOf 0xBC (d ++ s ++ c ++ q ++ b))
  | .cpys d s a b => some (wordOf 0xBF (d ++ s ++ a ++ b))
  | .copyByteArrival _ _ => none
  | .copyComplete _ => none
  | .copyFail _ => none
  | .batch => some (wordOf 0xBD (0#24))
  | .waitb a => some (wordOf 0xBE (0#8 ++ a ++ 0#8))
  | .bara d a b => some (wordOf 0xC0 (d ++ a ++ b))
  | .barw a => some (wordOf 0xC1 (0#8 ++ a ++ 0#8))
  | .bcarr d a b => some (wordOf 0xC2 (d ++ a ++ b))
  | .bcwait a b => some (wordOf 0xC3 (0#8 ++ a ++ b))
  | .qpush f m n b => some (wordOf 0xC4 (f ++ m ++ n ++ b))
  | .qpop f m n b => some (wordOf 0xC5 (f ++ m ++ n ++ b))
  | .qcfg a b => some (wordOf 0xC6 (0#8 ++ a ++ b))
  | .acq => some (wordOf 0xC7 (0#24))
  | .atom s d q x o n m => some (wordOf 0xC8 (s ++ d ++ q ++ x ++ o ++ n ++ m))
  | .red s d q x o n m => some (wordOf 0xC9 (s ++ d ++ q ++ x ++ o ++ n ++ m))
  | .acas s d q x o n m => some (wordOf 0xCA (s ++ d ++ q ++ x ++ o ++ n ++ m))
  | .satom s d q x o n m => some (wordOf 0xCB (s ++ d ++ q ++ x ++ o ++ n ++ m))
  | .atomicServiceRequest _ => none
  | .mwait s d x o n z c => some (wordOf 0xCC (s ++ d ++ 0#1 ++ x ++ o ++ n ++ z ++ c))
  | .hostLineReread _ => none
  | .fence k s => some (wordOf 0xCD (0#20 ++ k ++ s))
  | .strel s d x o n m => some (wordOf 0xCE (s ++ d ++ 0#1 ++ x ++ o ++ n ++ m))
  | .ldacq s d x o n m => some (wordOf 0xCF (s ++ d ++ 0#1 ++ x ++ o ++ n ++ m))
  | .rela r a => some (wordOf 0xD0 (r ++ a ++ 0#8))
  | .tcfg a => some (wordOf 0xD4 (0#8 ++ a ++ 0#8))
  | .slcl d a => some (wordOf 0xD5 (d ++ a ++ 0#8))
  | .slrl a => some (wordOf 0xD6 (0#8 ++ a ++ 0#8))
  | .slotRelease _ => none
  | .slld s n b => some (wordOf 0xD7 (s ++ 0#4 ++ n ++ b))
  | .slotFillComplete _ => none
  | .slz a => some (wordOf 0xD8 (0#8 ++ a ++ 0#8))
  | .mxc t p f => some (wordOf 0xD9 (t ++ p ++ f))
  | .passGrant _ => none
  | .passComplete _ => none
  | .mxp a => some (wordOf 0xDA (0#8 ++ a ++ 0#8))
  | .mxrd d a b => some (wordOf 0xDB (d ++ a ++ b))
  | .mxwr d a b => some (wordOf 0xDC (d ++ a ++ b))
  | .cbld n b => some (wordOf 0xDD (0#12 ++ n ++ b))
  | .codebookReload _ => none
  | .slst s n b => some (wordOf 0xDE (s ++ 0#4 ++ n ++ b))
  | .slotStoreComplete _ => none
  | .blockKill _ => none
  | .trace d a b => some (wordOf 0xE0 (d ++ a ++ b))
  | .traceComplete _ => none
  | .beam d a b => some (wordOf 0xE1 (d ++ a ++ b))
  | .fragmentPush _ => none
  | .beamComplete _ => none
  | .hitrd d a b => some (wordOf 0xE2 (d ++ a ++ b))
  | .hitrdComplete _ => none
  | .fins s t => some (wordOf 0xE3 (s ++ 0#4 ++ t ++ 0#8))
  | .fres s o p => some (wordOf 0xE4 (s ++ o ++ p ++ 0#8))
  | .fclr s t => some (wordOf 0xE5 (s ++ 0#4 ++ t ++ 0#8))
  | .fcfg m s p => some (wordOf 0xE6 (m ++ s ++ p ++ 0#8))
  | .gate d m => some (wordOf 0xE7 (d ++ m ++ 0#8))
  | .srd d r => some (wordOf 0xF0 (d ++ r))
  | .swr a r => some (wordOf 0xF1 (a ++ r))
  | .coremaskCommit _ _ => none
  | .tret => some (wordOf 0xF2 (0#24))
  | .ctxsv d n b => some (wordOf 0xF3 (d ++ 0#4 ++ n ++ b))
  | .ctxrs d n => some (wordOf 0xF4 (d ++ 0#4 ++ n ++ 0#8))
  | .ckpt => some (wordOf 0xF5 (0#24))
  | .tlbi x m a b => some (wordOf 0xF6 (0#4 ++ x ++ m ++ a ++ b))
  | .hostsig a b => some (wordOf 0xF7 (0#8 ++ a ++ b))
  | .emul o x => some (wordOf (0x1F#5 ++ o) x)
  | .hoistLost _ => none
  | .ensignEvaluation _ => none
  | .admissionHold _ => none
  | .gridReady _ _ => none
  | .gridEnd _ _ => none
  | .blockPark _ => none
  | .joinDecrement _ _ => none
  | .preemptSave _ => none
  | .translationRequest _ => none
  | .releaseVote _ => none
  | .lateArrival _ => none
  | .pseudoChannelFailing _ => none
  | .interleaveRebuild _ => none
  | .pushDmwr _ _ => none
  | .pushPosted _ _ => none
  | .activate _ => none
  | .refresh _ => none
  | .destroy _ => none
  | .resolveRetry _ _ => none
  | .resolveRefuse _ _ => none
  | .expansionCommand _ _ => none
  | .expansionDone => none
  | .enable _ => none
  | .registerWrite _ _ => none
  | .hostAccess _ _ _ => none
  | .hostSnoop _ => none
  | .ckptGo _ => none
  | .perstDeassert => none
  | .configSpaceReady => none
  | .bar0Ready => none
  | .functionLevelReset => none
  | .hotReset => none
  | .upstreamLinkDown => none
  | .d3hotEntry => none
  | .d3coldEntry => none
  | .clusterClockGate _ => none
  | .clockStepDown _ => none
  | .throttleEnd => none
  | .thermtrip => none
  | .hello _ _ => none
  | .timesync _ _ => none
  | .migrate _ => none
  | .migack _ _ => none
  | .returnCtx _ => none
  | .retdone _ _ => none
  | .homereq _ _ _ => none
  | .homedone _ _ _ => none
  | .ckmark _ _ _ => none
  | .applied _ _ => none
  | .halyardReservedMessage _ _ => none
  | .checkpointPeriod _ => none
  | .quiesce _ => none
  | .commitMarker _ => none
  | .flitTimeout => none
  | .linkLoss => none
  | .tileOrderOperation _ => none
  | .clockStepUp => none

/-- The instruction that the decoder reads from a word given as a number whose bit 0 is the word's bit 0. -/
def decodeTableWord (nbits w : Nat) : Option Instr :=
  match decode (BitVec.ofNat 32 (w % 2 ^ nbits)) with
  | .ok i => some i
  | .error _ => none

/-- A word as the four bytes at rising addresses that hold it: little-endian (00_scope.md R4). -/
def wordBytes (w : BitVec 32) : List Byte :=
  [w.extractLsb' 0 8, w.extractLsb' 8 8, w.extractLsb' 16 8, w.extractLsb' 24 8]

end Sys2Proof
end

