-- ==== Sys2Proof/Config.lean ====
section
/-!
DEFINITION. What an implementation fixes (00_scope.md R2, 01_machine.md R9) and the free values: constants with no
body that stand for every value the manual leaves open, so that no statement can lean on one.
-/

namespace Sys2Proof

/-- The two Aruri dies whose constants the manual gives (00_scope.md R2). -/
inductive Die where
  | tsuord
  | companion
  deriving DecidableEq, Repr

/-- Clusters (R9). -/
def Die.clusters : Die → Nat
  | .tsuord => 48
  | .companion => 3

/-- Cores: four per cluster (R9). -/
def Die.cores (d : Die) : Nat := 4 * d.clusters

/-- Mesh columns (R9): cluster c sits in column c mod 8 of the Tsuord, in column c of the companion's one row. -/
def Die.columns : Die → Nat
  | .tsuord => 8
  | .companion => 3

/-- L2 slices: two per cluster (R9). -/
def Die.slices (d : Die) : Nat := 2 * d.clusters

/-- Pinned lines that one slice holds at most (09_memory.md R168). -/
def Die.pinsPerSlice : Die → Nat
  | .tsuord => 4096
  | .companion => 8192

/-- The native width (01_machine.md R20). -/
def Die.nativeWidth : Die → Nat
  | .tsuord => 32
  | .companion => 16

/-- The widths a die implements: 16 and 32 on both (R20). -/
def Die.implementsWidth (_ : Die) (w : Nat) : Bool := w == 16 || w == 32

/-- The device ID of the IDENTITY entry (27_host.md R429). -/
def Die.deviceId : Die → BitVec 16
  | .tsuord => 0xD192
  | .companion => 0x4812

/-- The core clock at full rate, in MHz (R2). -/
def Die.fullClock : Die → Nat
  | .tsuord => 1200
  | .companion => 1000

/-- The largest replica count: three on the Tsuord, two on the companion (27_host.md R431). -/
def Die.replicas : Die → Nat
  | .tsuord => 3
  | .companion => 2

/-- Live memory channels as built (R2): 80 GDDR-7 pseudo-channels on the Tsuord. -/
def Die.channels : Die → Nat
  | .tsuord => 80
  | .companion => 4

/-- T0 capacity as built, in bytes (R2): the smaller module of the Tsuord, 60 GB (log 3); the companion's memory. -/
def Die.capacity : Die → Nat
  | .tsuord => 60 * 1000000000
  | .companion => 32 * 1000000000

/-- A free 32-bit value for each use that the manual leaves open; State.fresh names the uses (log 9). -/
opaque Config.freeWord : Nat → Word

/-- Live channels of the weight tier (27_host.md R429), which the manual counts nowhere. -/
opaque Config.tierChannels : BitVec 16

/-- The companion's peak memory bandwidth in MB/s (R429), which the manual does not give. -/
opaque Config.companionBandwidth : Word

/-- Whether the upstream port trained as CXL 3.1 (27_host.md R425). -/
opaque Config.cxl : Bool

/-- The sectors of a failing pseudo-channel that cannot be read (21_reliability.md R371). -/
opaque Config.unreadable : Nat → List Nat

/-- The serial number of the part (27_host.md R429), which each part has for itself. -/
opaque Config.serialNumber : BitVec 64

/-- Die temperature, die power and board power as the sensors read them at a time (27_host.md R444). -/
opaque Config.sensor : Nat → BitVec 64 → Word

end Sys2Proof
end

