-- ==== Sys2Proof/Machine/State.lean ====
section
/-!
DEFINITION. The state of one die and of what the manual lets reach it: hoists, blocks, contexts, memories, engines'
work in flight, translations, host registers, the link, and the two fields of the model's own that choose the next
step.  State is plain data.
-/

namespace Sys2Proof.Machine

/-- A memory in canonical form: addresses strictly rising, no listed byte zero; an unlisted address reads as zero
(log 1).  Physical memory, scratchpad segments, operand slots and codebook tables are all of this type. -/
abbrev Memory := List Host.Cell

/-- The canonical form of a memory above a bound: rising addresses, no zero byte listed. -/
def Memory.wfFrom : Nat → Memory → Bool
  | _, [] => true
  | lo, (a, b) :: rest => decide (lo ≤ a) && b != 0 && Memory.wfFrom (a + 1) rest

/-- The canonical form of a memory. -/
def Memory.wf (m : Memory) : Bool := m.wfFrom 0

/-- The shape tag of a V register (03_encoding.md R56). -/
inductive Tag where
  | u
  | a
  | g
  deriving DecidableEq, Repr

/-- One V register of a hoist: its tag and one word for each lane (R45, R56). -/
structure VReg where
  tag : Tag
  lanes : List Word
  deriving DecidableEq, Repr

/-- An A register (R50). -/
structure AReg where
  base : VAddr
  extent : BitVec 48
  cursor : BitVec 48
  perm : Byte
  step : BitVec 24
  deriving DecidableEq, Repr

/-- An entry of a rejoin stack (05_control.md R103). -/
structure Rejoin where
  rj : BitVec 30
  mask : BitVec 4
  maskn : BitVec 4
  deriving DecidableEq, Repr

/-- One slice of a hoist: its pc bits [31:0], whether the pc lies in the handler's region, its issue group, whether
it has exited, its rejoin stack (top first) and its Guidon signature (R92, R103, R113, 19_faults.md R350). -/
structure Slice where
  pc : Word
  high : Bool
  group : Nat
  exited : Bool
  stack : List Rejoin
  cfs : Word
  deriving DecidableEq, Repr

/-- Why an issue group starts no word (01_machine.md R17).  `retry` marks a word that could not start and executes
afresh; the others name what ends the wait.  A VREGRP waits with its operands (07_lanes.md R157); `fence` is the `generation` of a
FENCE.ar, which keeps the other groups of its hoist from starting an access (11_ordering.md R237). -/
inductive Wait where
  | running
  | retry
  | monitor
  | regang
  | vregrp (mask : Word) (d cnt : Nat) (idx : Bool) (b : Nat)
  | release
  | token (token : Nat)
  | yielding (until_ : Nat)
  | room
  | generation
  | fence
  deriving DecidableEq, Repr

/-- A beam (23_rendering.md R386, R387). -/
structure BeamJob where
  desc : List Byte
  bvh : AReg
  queue : AReg
  qcw : BitVec 64
  d : Nat
  /-- Fragments still to push, once the tile is resolved, and the number pushed. -/
  pending : Option (List (List Byte))
  pushed : Nat
  status : Nat
  deriving DecidableEq, Repr

/-- One issue group of a hoist (R12): the clock of its last start and of its last non-hint word, the HINT.S counts and
HINT.H codes still to come (03_encoding.md R67, R69), an EXT that waits for its word with the pc still at the EXT (R70), the landing PAD that the
next word must be with the address of the transferring word (05_control.md R101), its wait, whether its next word
is reached through TRET or a restored frame (09_memory.md R184), whether the host refused the translation of its word
(19_faults.md R348), whether it still has to take the ILLOP of a VREGRP that conflicts (07_lanes.md R158), whether its last start was a YIELD
(05_control.md R112), the beam that its BEAM has read and that waits at a closed gate (23_rendering.md R387, R390), and the
outputs that an FRES which waits midway has still to write, whose lines it owns (11_ordering.md R215, 23_rendering.md R401).  `tried` is
the model's own: the clock of the last time that the group looked at a word that could not start. -/
structure Group where
  id : Nat
  last : Nat
  tried : Nat
  lastWord : Nat
  cover : List Nat
  codes : List (Nat × Nat × Nat)
  ext : Option (BitVec 24)
  landing : Option (BitVec 2 × VAddr)
  wait : Wait
  resumed : Bool
  refused : Bool
  owed : Bool
  yielded : Bool
  beam : Option BeamJob
  outs : List VAddr
  deriving DecidableEq, Repr

/-- An entry of the hold latch: the issue group that it serves, the register and the words it still serves (03_encoding.md
R64). -/
structure Hold where
  group : Nat
  reg : Nat
  left : Nat
  deriving DecidableEq, Repr

/-- A register's value before a write whose fixed latency has not passed (R68). -/
inductive Saved where
  | v (n : Nat) (old : VReg)
  | s (n : Nat) (old : Word)
  | p (n : Nat) (old : Mask)
  deriving DecidableEq, Repr

/-- An outstanding fixed-latency write: the group that made it, the clock at which it settles, the old value (R68). -/
structure Busy where
  group : Nat
  settles : Nat
  old : Saved
  deriving DecidableEq, Repr

/-- The precise trap classes (19_faults.md R333). -/
inductive TrapClass where
  | illop
  | emul
  | unif
  | stall
  | bound
  | xlate
  | perm
  | tierw
  | cfi
  | sig
  | scope
  | tilecfg
  | stackov
  | poolx
  | rmis
  | fpx
  | trap
  deriving DecidableEq, Repr

/-- A copy that failed and is still to be reported (09_memory.md R194): its batch (none while in the open set), the
class and detail, the faulting address, and the descriptor's address or the CPYS word. -/
structure CopyFailure where
  batch : Option Nat
  cls : TrapClass
  detail : Nat
  vaddr : VAddr
  key : Nat
  info : BitVec 64
  cpys : Bool
  deriving DecidableEq, Repr

/-- A buffered write of a replicated hoist (21_reliability.md R365): where it goes, its bytes, the place in the buffer of the
first write of its store, and for a BCARR the byte count by which its commit arms the barrier (09_memory.md R200). -/
structure BufferedWrite where
  va : VAddr
  pa : Nat
  data : List Byte
  store : Nat
  arm : Option Nat
  deriving DecidableEq, Repr

/-- A release offer of a replicated hoist (R368): its group, the address of its release word, its store signature, and
what the vote made of it: whether this hoist is the committer, once the offers agree. -/
structure Offer where
  group : Nat
  word : VAddr
  ssig : BitVec 64
  vote : Option Bool
  deriving DecidableEq, Repr

/-- The registers of a hoist that save frames and snapshots hold (R350, R368). -/
structure Regs where
  v : List VReg
  s : List Word
  p : List Mask
  a : List AReg
  exec : Mask
  dead : Mask
  slices : List Slice
  groups : List Group
  fpx : Word
  xprog : Word
  latch : Option Word
  ssig : BitVec 64
  batch : Word
  depth : Nat
  region : BitVec 40
  hregion : BitVec 40
  deriving DecidableEq, Repr

/-- What holds an error that its code cannot correct: a V-register word or a P-register bit, by register and lane, an S register,
or the hoist's other state, which every word meets (21_reliability.md R357, R359, R361). -/
inductive Flaw where
  | v (reg lane : Nat)
  | p (reg lane : Nat)
  | s (reg : Nat)
  | slot
  deriving DecidableEq, Repr

/-- The four outstanding-work counters (03_encoding.md R72). -/
structure Counters where
  g : Nat
  s : Nat
  w : Nat
  x : Nat
  deriving DecidableEq, Repr

/-- What a hoist is (R77): a user hoist, an Ensign agent or an atomic service hoist. -/
inductive Role where
  | user
  | ensign
  | service
  deriving DecidableEq, Repr

/-- A hoist in its slot. -/
structure Hoist where
  /-- Source number: 64 × core + 16 × partition + slot (01_machine.md R41). -/
  src : Nat
  role : Role
  block : Nat
  /-- %hoist (R23). -/
  index : Nat
  width : Nat
  regs : Regs
  counters : Counters
  holds : List Hold
  busy : List Busy
  fails : List CopyFailure
  /-- Its register words and bits that hold an error (21_reliability.md R359). -/
  flaws : List Flaw
  /-- CR.CTXSEL and the COREMASK words 0 to 4 that a write has left waiting (17_scheduling.md R308). -/
  ctxsel : Nat
  maskHeld : BitVec 160
  /-- Membership of the core's coverage gate (23_rendering.md R390). -/
  gate : Bool
  /-- The open generations of the latest posted writes to companion and to host memory that have not been acknowledged,
  0 for none (11_ordering.md R222, 25_docking.md R416). -/
  posted : Nat
  postedHost : Nat
  /-- A replicated hoist's write buffer, snapshot, standing offer, %time since when a pair waits for it, and values
  forwarded to it that it has not used (21_reliability.md R365–R368). -/
  wbuf : List BufferedWrite
  snapshot : Option Regs
  offer : Option Offer
  lateFrom : Option Nat
  forwarded : List (List Word)
  /-- The issue group that holds issue in a replicated hoist (R363). -/
  holder : Option Nat
  /-- The 64-byte code lines that its groups execute, by line number of the virtual address, each in the version that was
  fetched (19_faults.md R341). -/
  lines : List (Nat × List Byte)
  /-- An RMIS that the hoist takes when its group next starts: DETAIL and INFO[31:0] (21_reliability.md R369). -/
  rmis : Option (Nat × Word)
  /-- It has retired and keeps its slot until its block ends (01_machine.md R31). -/
  retired : Bool
  deriving DecidableEq, Repr

/-- A barrier of a block (09_memory.md R196): phase, target fixed by the phase's first arrival, and the lanes that
have arrived, lane l of hoist h at bit h × W + l (19_faults.md R349). -/
structure Bar where
  phase : Word
  target : Word
  arrived : Nat
  deriving DecidableEq, Repr

/-- A claimed operand slot (15_cube.md R276): local number, physical slot, whether an SLLD is filling it, 2 KiB. -/
structure Slot where
  local_ : Nat
  phys : Nat
  filling : Bool
  data : Memory
  deriving DecidableEq, Repr

/-- An accumulator tile (R279): T as bytes, the running plane as 1,024 FP32 patterns that hold F26 values, the count. -/
structure Tile where
  index : Nat
  t : Memory
  plane : List Word
  count : Nat
  deriving DecidableEq, Repr

/-- How a resident block stands (01_machine.md R34): running, or stopped so that it can be saved under a record KIND. -/
inductive Residency where
  | running
  | stopping (kind : Nat)
  | quiesced
  deriving DecidableEq, Repr

/-- A resident block. -/
structure Block where
  id : Nat
  ctx : Nat
  core : Nat
  /-- Grid table index, linear index b, coordinates and extents (R23, 17_scheduling.md R325). -/
  entry : Nat
  linear : Nat
  coords : Word × Word × Word
  grid : Word × Word × Word
  replica : Nat
  replicas : Nat
  spanSize : Nat
  spanRank : Nat
  /-- Names the blocks of one span: equal for them, distinct between spans. -/
  span : Nat
  width : Nat
  hoists : Nat
  pword : Word
  /-- Declared counts and sizes (R27, R28). -/
  vregs : Nat
  prologue : Nat
  scrBytes : Nat
  accBytes : Nat
  /-- Current allotment: whether it is the full one, V-register count, segment and accumulator sizes. -/
  full : Bool
  reserved : Bool
  vcnt : Nat
  segSize : Nat
  accSize : Nat
  scratch : Memory
  /-- Poisoned scratchpad words (21_reliability.md R358). -/
  poison : List Nat
  tiles : List Tile
  slots : List Slot
  cubecfg : Word
  table : Option Memory
  tableLoaded : Bool
  bars : List Bar
  enq : Nat
  residency : Residency
  /-- A core mask has been committed that the block has to leave its core for (17_scheduling.md R329, R330). -/
  leaving : Bool
  /-- One was committed while its span held a pixel block, or it became one before it left: it runs on to EXIT there (R329, R330). -/
  runsOut : Bool
  /-- The save frame the block is to be written to, and the virtual address of its record, when it has one. -/
  frame : Option VAddr
  deriving DecidableEq, Repr

/-- States of a mirrored context (25_docking.md R419). -/
inductive MirrorPhase where
  | idle
  | quiesce
  | copy
  | commit
  deriving DecidableEq, Repr

/-- A write held until its generation commits (R416): bytes for companion memory, bytes for host memory, or a HOSTSIG. -/
inductive HeldWrite where
  | companion (pa : Nat) (data : List Byte)
  | host (pa : Nat) (data : List Byte)
  | signal (src vector : Nat) (payload : Word)
  deriving DecidableEq, Repr

/-- The mirror state of a migrated context (R409, R411, R416–R421): held writes with the generation that each joins;
whether the open generation is the last before the context goes back; pages whose home this die has asked for, and those
that it asks for once the context is in IDLE again; pages that the companion asks for in the next generation, and those that
wait for IDLE. -/
structure Mirror where
  phase : MirrorPhase
  generation : Nat
  applied : Nat
  lastCommit : Nat
  mpa : Nat
  bankSize : Nat
  period : Nat
  policy : Nat
  homeTab : Nat
  homes : Nat
  held : List (Nat × HeldWrite)
  returning : Bool
  final : Bool
  asked : List (BitVec 56)
  later : List (BitVec 56)
  homeReqs : List (BitVec 56)
  waiting : List (BitVec 56)
  deriving DecidableEq, Repr

/-- An active context (17_scheduling.md R304–R308). -/
structure Ctx where
  id : Nat
  dpa : Nat
  prio : Nat
  sbmode : Nat
  scopemode : Nat
  lease : Nat
  tvec : BitVec 72
  emtab : BitVec 72
  coremask : BitVec 192
  maskpend : BitVec 192
  faulted : Bool
  destroying : Bool
  /-- It has run on the other die of the pair: grids of the table that this die has not accepted were launched there
  (01_machine.md R20, 25_docking.md R414, R415). -/
  travelled : Bool
  mirror : Option Mirror
  deriving DecidableEq, Repr

/-- One access of a memory instruction: the lane, scratchpad or memory, virtual and physical address (or segment
offset), and bytes. -/
structure Access where
  lane : Nat
  scr : Bool
  va : VAddr
  pa : Nat
  n : Nat
  deriving DecidableEq, Repr

/-- Where a load's data goes (09_memory.md R174, R177, 05_control.md R128). -/
inductive Target where
  | v (d : Nat) (m : Nat)
  | s (d : Nat) (m : Nat)
  | a (d : Nat) (privileged : Bool)
  deriving DecidableEq, Repr

/-- One operand set of an atomic: compare value and operand as bytes read from registers (11_ordering.md R229–R233). -/
structure AtomLane where
  access : Access
  compare : Nat
  operand : Nat
  deriving DecidableEq, Repr

/-- The resolved descriptor of a copy (09_memory.md R185, R191). -/
structure CopyJob where
  esz : Nat
  zfill : Bool
  srcOff : Int
  dstOff : Int
  /-- Extent, source stride and destination stride of each dimension, dimension 0 first. -/
  dims : List (Nat × Int × Int)
  src : AReg
  dst : AReg
  bar : Option AReg
  batch : Option Nat
  /-- Elements moved so far. -/
  done : List Nat
  /-- A request token on which the copy waits (R194). -/
  token : Option Nat
  info : BitVec 64
  cpys : Bool
  privileged : Bool
  deriving DecidableEq, Repr

/-- The kinds of C-plane gate, the operands and the rows of a posted pass (15_cube.md R282–R287, R295). -/
structure PassJob where
  tile : Nat
  slotA : Nat
  slotB : Nat
  slotC : Nat
  mode : Nat
  fmtA : Nat
  fmtB : Nat
  fmtC : Nat
  kp : Nat
  /-- Scale bytes of A and B, with the block length along k; empty when every scale is 1. -/
  blA : Nat
  blB : Nat
  scalesA : List Byte
  scalesB : List Byte
  rows : BitVec 32
  promoteAt : Nat
  prio : Nat
  post : Nat
  granted : Bool
  deriving DecidableEq, Repr

/-- A ray (23_rendering.md R379): origin, direction, tmin and tmax as FP32 patterns, in the order of R381. -/
abbrev Ray := List Word

/-- Work in flight. -/
inductive Work where
  | load (counter : Counter) (target : Target) (acc : List Access)
  /-- `dev` marks the write of a .dev release, whose promotion is judged when it is performed (11_ordering.md R225). -/
  | store (writes : List (Access × List Byte)) (dev : Bool)
  | atomic (cas : Bool) (m : Nat) (ret : Option Target) (lanes : List AtomLane) (scope : Nat) (ordered : Bool) (home : Nat)
  | perm (d : Nat) (values : List (Nat × Word))
  | copy (job : CopyJob)
  | fill (slot : Nat) (win : AReg) (off : Int) (pitch : Nat) (pc : VAddr)
  | slotStore (slot : Nat) (win : AReg) (off : Int) (pitch : Nat) (pc : VAddr)
  | slotRelease (slot : Nat)
  | pass (job : PassJob)
  | promote (tile : Nat)
  | tileRead (tile d n j0 : Nat) (rows : List (Nat × Nat))
  | tileWrite (tile j0 : Nat) (rows : List (Nat × List Word))
  | trace (d mode : Nat) (cull : Bool) (bvh : AReg) (rays : List (Nat × Ray))
  | hitrd (d attr : Nat) (bvh : AReg) (nodes : List (Nat × Nat))
  | beam (job : BeamJob)
  /-- A fill or slot store that has killed its block, with the address that it could not reach and the word's own: it stands
  until the block's copies are complete (15_cube.md R302). -/
  | killed (va pc : VAddr)
  deriving DecidableEq, Repr

/-- A piece of work in flight with its issuer. -/
structure Flight where
  id : Nat
  src : Nat
  group : Nat
  block : Nat
  ctx : Nat
  work : Work
  /-- The word that started it, as an event record names a word (21_reliability.md R372). -/
  named : List Byte
  deriving DecidableEq, Repr

/-- A translation held by a TLB (19_faults.md R344): context, level of the leaf, virtual page base, leaf, and the
physical address of the leaf's entry. -/
structure TlbEntry where
  ctx : Nat
  level : Nat
  vbase : Nat
  leaf : BitVec 64
  entryPa : Nat
  deriving DecidableEq, Repr

/-- A hold of a line by a block or a span (11_ordering.md R217, R219), with the translation under which it was made, since it
ends with its page (R218). -/
structure ScopeHold where
  line : Nat
  page : TlbEntry
  wide : Bool
  holder : Nat
  cluster : Nat
  core : Nat
  mode : Nat
  deriving DecidableEq, Repr

/-- What a monitor watches for (R238, R240). -/
inductive Condition where
  | cmp (cc : Nat) (value : Nat)
  | phasePast (p : Word)
  | changed
  deriving DecidableEq, Repr

/-- The source number that stands for an agent of another chip: no slot of this die has it. -/
def noSlot : Nat := 65536

/-- A condition monitor (R239), with the parked record its waiter has become, when it has; `foreign` is the pair number of a waiter
on another chip (01_machine.md R42, 11_ordering.md R225). -/
structure Monitor where
  pa : Nat
  va : VAddr
  size : Nat
  cond : Condition
  src : Nat
  group : Nat
  ctx : Nat
  parked : Option VAddr
  foreign : Option Nat
  deriving DecidableEq, Repr

/-- An outstanding translation request (R347) with the copies, each with the address that it met, the hoists in place and the
parked records that wait on it. -/
structure Token where
  id : Nat
  ctx : Nat
  unit : BitVec 56
  requested : Bool
  /-- The host has refused it, and a frame of a record that waits on it is still to be marked (R348). -/
  refused : Bool
  kind : Nat
  va : VAddr
  core : Nat
  hoists : List Nat
  copies : List (Nat × VAddr)
  /-- Parked records by frame, with the indices of their faulting hoists. -/
  records : List (VAddr × List Nat)
  deriving DecidableEq, Repr

/-- An entry of the loaded codebook of a cluster (15_cube.md R299). -/
structure Cube where
  cluster : Nat
  tag : Option Nat
  table : Memory
  deriving DecidableEq, Repr

/-- Host-visible registers and what the part sends the host (27_host.md R428–R434). -/
structure HostRegs where
  enable : Bool
  err : Nat
  ctxtab : BitVec 64
  evring : BitVec 64
  evdepth : Word
  fldepth : Word
  flring : BitVec 64
  sgring : BitVec 64
  sgdepth : Word
  change : Word
  cmd : Nat
  cmdCtx : Nat
  /-- The context of a DESTROY that is not done: BUSY (17_scheduling.md R307). -/
  busy : Option Nat
  lost : List (Nat × Word)
  /-- The MSI-X table without its mask bits, the mask bits and the pending bits. -/
  msixTable : Memory
  msixMask : BitVec 64
  msixPending : BitVec 64
  messages : List Nat
  replies : List (List Byte)
  configReady : Bool
  barReady : Bool
  /-- The size of BAR2 (R425). -/
  aperture : Nat
  expq : List (List Byte)
  deriving DecidableEq, Repr

/-- Clocks, power and telemetry (R442–R445). -/
structure Power where
  clockMHz : Nat
  causes : BitVec 2
  capW : Word
  correctable : BitVec 64
  poisonedCount : BitVec 64
  dstate : Nat
  throttled : Bool
  /-- %time since when the clock has been back at full rate (R445). -/
  fullSince : Nat
  gated : List Nat
  channels : Nat
  dropped : Nat
  failing : List Nat
  /-- The uncorrectable sectors that pseudo-channels have reported within the last second: channel and %time (R371). -/
  reports : List (Nat × Nat)
  capacity : Nat
  built : Nat
  saving : Bool
  powered : Bool
  deriving DecidableEq, Repr

/-- The Halyard link (25_docking.md R404–R415). -/
structure Link where
  up : Bool
  dockTable : Nat
  peer : Word
  /-- The other die's counter minus this die's, as the last TIMESYNC measured it. -/
  difference : Int
  /-- Messages sent: code, then the payload. -/
  sent : List (Nat × List Byte)
  /-- Companion only: contexts that run on the Tsuord, and contexts that have come back with the generation that must
  first be applied (R414, R415). -/
  away : List Nat
  returned : List (Nat × Nat)
  /-- Companion only: homes that it has asked for, by context and page, and contexts that come back after a loss with the bank
  frames that have still to find a frame of the pool (R411, R423). -/
  asked : List (Nat × BitVec 56)
  recovering : List (Nat × List (List Byte))
  /-- Tsuord only: committed host writes and HOSTSIGs of contexts that have left, in order, while the signal ring is full
  (R415, R422). -/
  egress : List (Nat × HeldWrite)
  deriving DecidableEq, Repr

/-- What silicon does by itself (21_reliability.md R357, R359, R371; log 47): an error that is corrected; a sector that the agent of
a source number reports uncorrectable; bytes of a sector that change under its check value; a register word, a P bit, a
scratchpad word, an S register or other state of a hoist that goes bad and that the execution of a word meets. -/
inductive Upset where
  | corrected
  | sector (sector source : Nat)
  | bytes (sector : Nat) (data : List Byte) (source : Nat)
  | vword (src reg lane : Nat)
  | pbit (src reg lane : Nat)
  | sreg (src reg : Nat)
  | slot (src : Nat)
  | pool (block word : Nat)
  deriving DecidableEq, Repr

/-- A choice of what moves next: an event, a push of the host that waits for a page of its queue, a HOMEREQ of the Tsuord or a
HOMEDONE that waits for accesses to its page, a word of an issue group, time that passes, an error of the silicon, bytes that
the host writes in its own memory, a size that it gives BAR2, an agent of another chip that comes to wait on a line of this die,
causes of a throttle that are no longer in force (log 4, log 47, log 49). -/
inductive Turn where
  | event (i : Instr)
  | push (slot : Nat) (data : List Byte) (posted : Bool)
  | homereq (ctx : Nat) (page : BitVec 56)
  | homedone (ctx : Nat) (page : BitVec 56) (state : Nat)
  | word (src group : Nat)
  | tick (n : Nat)
  | upset (u : Upset)
  | hostStore (pa : Nat) (data : List Byte)
  | resizeBar (n : Nat)
  | watch (agent pa size : Nat) (cond : Condition)
  | relieve (causes : BitVec 2)
  deriving DecidableEq, Repr

/-- An Ensign's waiting first candidate (17_scheduling.md R324): core, context, the candidate's key and since when. -/
structure Candidate where
  core : Nat
  ctx : Nat
  key : Nat
  since : Nat
  holding : Bool
  deriving DecidableEq, Repr

/-- What a saved hoist holds that its frame has no place for: copy failures still to be reported, register words in error, the groups whose word
met a fault that the host may refuse, those that still owe the ILLOP of a VREGRP, and of a replica the write buffer, the
snapshot, the forwarded values and the count of its lateness (09_memory.md R194, 19_faults.md R348, 07_lanes.md R158,
21_reliability.md R365–R368; log 16). -/
structure AsideHoist where
  index : Nat
  fails : List CopyFailure
  flaws : List Flaw
  faulting : List Nat
  owed : List Nat
  lateFrom : Option Nat
  wbuf : List BufferedWrite
  snapshot : Option Regs
  forwarded : List (List Word)
  deriving DecidableEq, Repr

/-- What a saved block holds that its frame has no place for: which block of which grid it is; with SOURCE, KIND and CODE of the
record that it was saved with, by which its frame is known again (log 16). -/
structure Aside where
  frame : VAddr
  mark : Option (Nat × Nat × Nat)
  block : Block
  hoists : List AsideHoist
  deriving DecidableEq, Repr

/-- Forwarded values for a hoist of a replica that has not been admitted yet (21_reliability.md R362, R366): the block by
context, entry and index, the replica, the hoist's index, the values. -/
structure Mail where
  block : Nat × Nat × Nat
  replica : Nat
  index : Nat
  values : List (List Word)
  deriving DecidableEq, Repr

/-- A ready record or a free frame that waits to be pushed: while its queue has no room or a page of it is on its way
(17_scheduling.md R326, R327, 15_cube.md R302). -/
structure PendingPush where
  core : Nat
  ctx : Nat
  queue : Nat
  data : List Byte
  deriving DecidableEq, Repr

/-- The width of a grid, which it keeps for its life (01_machine.md R20): context, entry and generation of its place in the
grid table. -/
structure GridWidth where
  ctx : Nat
  entry : Nat
  gen : Nat
  width : Nat
  deriving DecidableEq, Repr

/-- An ending grid: its context and entry, the core of the Ensign that made the final change, and once steps 1 and 2 of
17_scheduling.md R316 are done the generation up to which it waits for posted writes. -/
structure Ending where
  ctx : Nat
  entry : Nat
  core : Nat
  waits : Option Nat
  deriving DecidableEq, Repr

/-- The state of the machine. -/
structure State where
  die : Die
  /-- %time, the 1.2 GHz counter (01_machine.md R39), and the core clock count that orders starts (R17, R68). -/
  time : BitVec 64
  clock : Nat
  /-- The hoists that have started a word in this clock (01_machine.md R13). -/
  issued : List Nat
  mem : Memory
  /-- Poisoned 32-byte sectors (21_reliability.md R357). -/
  poison : List Nat
  coreTlb : List (Nat × List TlbEntry)
  clusterTlb : List (Nat × List TlbEntry)
  /-- Pinned lines with the context that pinned each (09_memory.md R168), and lines served away from home (R165). -/
  pins : List (Nat × Nat)
  migrated : List (Nat × Nat)
  holds : List ScopeHold
  monitors : List Monitor
  /-- Flights waiting in the request queue of a cluster's atomic service hoist (11_ordering.md R235). -/
  svcq : List (Nat × Nat)
  hoists : List Hoist
  blocks : List Block
  /-- Closed coverage gates: core and context (23_rendering.md R390). -/
  gates : List (Nat × Nat)
  ctxs : List Ctx
  cubes : List Cube
  flights : List Flight
  candidates : List Candidate
  /-- Widths of the grids that this die has accepted (R20; log 45). -/
  widths : List GridWidth
  /-- Ready records that wait for room, saved blocks, and retired replicas by context, entry and index (R362). -/
  pushes : List PendingPush
  aside : List Aside
  retiredReplicas : List (Nat × Nat × Nat)
  mail : List Mail
  /-- Ready graph nodes that wait for a grid entry: context, instance, node (R322). -/
  nodes : List (Nat × Nat × Nat)
  /-- Ending grids (R316). -/
  ends : List Ending
  tokens : List Token
  host : HostRegs
  power : Power
  link : Link
  /-- The model's own: what moves next, the issuing group, and counters for fresh names and free values. -/
  agenda : List Turn
  cur : Nat × Nat
  /-- The next core whose Ensign evaluates while nothing else moves (17_scheduling.md R324; log 7). -/
  sweep : Nat
  /-- The model's own: how many choices of what moves next have been made by itself (log 7). -/
  turns : Nat
  fresh : Nat
  nextId : Nat
  deriving DecidableEq, Repr

/-- Why the machine stops. -/
inductive Fault where
  /-- Raised by exec of an instruction word when the state's issuing group (State.cur) names no hoist in a slot that
  has a slice in that group.  Safe: step issues a word only for a group that exists. -/
  | noIssuingGroup
  deriving DecidableEq, Repr

/-- Why a word has no meaning. -/
inductive Refusal where
  /-- Raised by an arm of exec whose instruction has no meaning yet.  Safe. -/
  | notModelled (mnemonic : String)
  deriving DecidableEq, Repr

/-- Host-visible registers after a cold reset (27_host.md R429, R430, R441; log 3). -/
def HostRegs.reset : HostRegs where
  enable := false
  err := 0
  ctxtab := 0
  evring := 0
  evdepth := 0
  fldepth := 0
  flring := 0
  sgring := 0
  sgdepth := 0
  change := 1
  cmd := 0
  cmdCtx := 0
  busy := none
  lost := []
  msixTable := []
  msixMask := BitVec.allOnes 64
  msixPending := 0
  messages := []
  replies := []
  configReady := false
  barReady := false
  aperture := 2 ^ 30
  expq := []

/-- Clocks and power after a cold reset (R442, R444; log 3). -/
def Power.reset (d : Die) : Power where
  clockMHz := d.fullClock
  causes := 0
  capW := 640
  correctable := 0
  poisonedCount := 0
  dstate := 0
  throttled := false
  fullSince := 0
  gated := []
  channels := d.channels
  dropped := 0
  failing := []
  reports := []
  capacity := d.capacity
  built := d.capacity
  saving := false
  powered := true

/-- The link after a cold reset: undocked (25_docking.md R404; log 3). -/
def Link.reset : Link where
  up := false
  dockTable := 0
  peer := 0
  difference := 0
  sent := []
  away := []
  returned := []
  asked := []
  recovering := []
  egress := []

/-- The Tsuord right after a cold reset (27_host.md R441): no context, no block, no hoist; memory with nothing listed. -/
def State.reset : State where
  die := .tsuord
  time := 0
  clock := 0
  issued := []
  mem := []
  poison := []
  coreTlb := []
  clusterTlb := []
  pins := []
  migrated := []
  holds := []
  monitors := []
  svcq := []
  hoists := []
  blocks := []
  gates := []
  ctxs := []
  cubes := []
  flights := []
  candidates := []
  widths := []
  pushes := []
  aside := []
  retiredReplicas := []
  mail := []
  nodes := []
  ends := []
  tokens := []
  host := HostRegs.reset
  power := Power.reset .tsuord
  link := Link.reset
  agenda := []
  cur := (0, 0)
  sweep := 0
  turns := 0
  fresh := 0
  nextId := 0

end Sys2Proof.Machine
end

