-- ==== Sys2Proof/Machine/Bytes.lean ====
section
/-!
DEFINITION. Bytes, little-endian numbers, lists by position, memories byte by byte, and the checksums of
21_reliability.md R353, R357 and R364.
-/

namespace Sys2Proof.Machine

/-- The number that bytes hold, least significant first (00_scope.md R4). -/
def leNat : List Byte → Nat
  | [] => 0
  | b :: bs => b.toNat + 256 * leNat bs

/-- The `n` low bytes of a number, least significant first. -/
def natLe : Nat → Nat → List Byte
  | 0, _ => []
  | n + 1, v => BitVec.ofNat 8 v :: natLe n (v / 256)

/-- Bits [hi:lo] of a number. -/
def bitsOf (v hi lo : Nat) : Nat := v / 2 ^ lo % 2 ^ (hi + 1 - lo)

/-- A number of `w` bits as a signed number. -/
def signedOf (w v : Nat) : Int := if v % 2 ^ w < 2 ^ (w - 1) then (v % 2 ^ w : Nat) else (v % 2 ^ w : Nat) - (2 ^ w : Nat)

/-- The list without its first `n` and at most `k` long. -/
def segment {α : Type} (l : List α) (n k : Nat) : List α := (l.drop n).take k

/-- A field of bytes as a number. -/
def field (b : List Byte) (o n : Nat) : Nat := leNat (segment b o n)

/-- The byte at an address. -/
def Memory.read : Memory → Nat → Byte
  | [], _ => 0
  | (k, b) :: rest, a => if a < k then 0 else if k = a then b else Memory.read rest a

/-- The memory with one byte written, in canonical form. -/
def Memory.write : Memory → Nat → Byte → Memory
  | [], a, b => if b = 0 then [] else [(a, b)]
  | (k, c) :: rest, a, b =>
    if a < k then (if b = 0 then (k, c) :: rest else (a, b) :: (k, c) :: rest)
    else if k = a then (if b = 0 then rest else (a, b) :: rest)
    else (k, c) :: Memory.write rest a b

/-- The memory without what lies below an address. -/
def Memory.from (m : Memory) (a : Nat) : Memory := m.dropWhile fun c => decide (c.1 < a)

/-- `n` bytes from an address up; what has been passed is left behind. -/
def Memory.readBytes : Memory → Nat → Nat → List Byte
  | _, _, 0 => []
  | m, a, n + 1 => m.read a :: Memory.readBytes (m.from (a + 1)) (a + 1) n

/-- The memory with bytes written from an address up. -/
def Memory.writeBytes (m : Memory) : Nat → List Byte → Memory
  | _, [] => m
  | a, b :: bs => (m.write a b).writeBytes (a + 1) bs

/-- The little-endian number in `n` bytes from an address up. -/
def Memory.readNat (m : Memory) (a n : Nat) : Nat := leNat (m.readBytes a n)

/-- The memory with a number written in `n` bytes from an address up. -/
def Memory.writeNat (m : Memory) (a n v : Nat) : Memory := m.writeBytes a (natLe n v)

/-- The memory with every byte of a range zero. -/
def Memory.zero (m : Memory) (a n : Nat) : Memory := m.filter fun c => !(decide (a ≤ c.1) && decide (c.1 < a + n))

/-- The memory cut to addresses below `n`. -/
def Memory.below (m : Memory) (n : Nat) : Memory := m.filter fun c => decide (c.1 < n)

/-- `n` steps of a function. -/
def iter {α : Type} (f : α → α) : Nat → α → α
  | 0, x => x
  | n + 1, x => iter f n (f x)

/-- One bit step of a reflected CRC with a polynomial. -/
def crcBit {w : Nat} (poly : BitVec w) (c : BitVec w) : BitVec w :=
  if c.getLsbD 0 then (c >>> 1) ^^^ poly else c >>> 1

/-- The fold of a word into a Guidon signature: reflected CRC-32C, no inversion (R353). -/
def cfsFold (c w : Word) : Word := iter (crcBit 0x82F63B78#32) 32 (c ^^^ w)

/-- The constant folded after a mask change (R354). -/
def cfsMaskChange : Word := 0x5A17C3E9#32

/-- The constant folded at a REGANG's merge (R354). -/
def cfsReconverge : Word := 0x3D4B8F21#32

/-- The fold of a byte into a replica store signature: reflected CRC-64 (R364). -/
def ssigByte (c : BitVec 64) (b : Byte) : BitVec 64 :=
  iter (crcBit 0xC96C5795D7870F42#64) 8 (c ^^^ b.zeroExtend 64)

/-- The fold of an item of R364: address, kind, modifier, length and data. -/
def ssigItem (c : BitVec 64) (va : VAddr) (kind modifier : Nat) (data : List Byte) : BitVec 64 :=
  (natLe 9 va.toNat ++ [BitVec.ofNat 8 kind, BitVec.ofNat 8 modifier, BitVec.ofNat 8 data.length] ++ data).foldl
    ssigByte c

/-- One bit step of the unreflected CRC-16 of R357. -/
def crc16Bit (c : BitVec 16) : BitVec 16 := if c.getLsbD 15 then (c <<< 1) ^^^ 0x1021#16 else c <<< 1

/-- The check value of a 32-byte sector (R357). -/
def sectorCheck (bytes : List Byte) : BitVec 16 :=
  bytes.foldl (fun c b => iter crc16Bit 8 (c ^^^ BitVec.shiftLeft (b.zeroExtend 16) 8)) 0xFFFF#16

/-- The exclusive or of the ten 5-bit groups of a line number (09_memory.md R164). -/
def xorGroups : Nat → Nat → Nat
  | 0, _ => 0
  | n + 1, l => (l % 32) ^^^ xorGroups n (l / 32)

/-- The exclusive or of the low `n` bits of a number. -/
def parity : Nat → Nat → Nat
  | 0, _ => 0
  | n + 1, l => (l % 2) ^^^ parity n (l / 2)

/-- The home slice of a line (R164): `l` is PA[51:6]. -/
def homeSlice (d : Die) (l : Nat) : Nat :=
  match d with
  | .tsuord => 32 * (l % 3) + xorGroups 10 l
  | .companion => 2 * (l % 3) + parity 46 l

/-- The companion's memory in the pair map starts here (25_docking.md R408). -/
def companionBase : Nat := 0xF000000000000

/-- The Tsuord's memory lies below this address (R408). -/
def tsuordTop : Nat := 0x8000000000000

/-- Whether a physical address is homed on this die (11_ordering.md R213, 25_docking.md R408). -/
def homedHere (d : Die) (pa : Nat) : Bool :=
  match d with
  | .tsuord => decide (pa < tsuordTop)
  | .companion => decide (companionBase ≤ pa)

end Sys2Proof.Machine
end

