-- ==== Sys2Proof/Machine/Find.lean ====
section
/-!
DEFINITION. Finding and replacing the parts of the state: hoists by source number, blocks by id, contexts by number;
issue groups, lanes and the masks of a group.
-/

namespace Sys2Proof.Machine

/-- A mask from a predicate over the lanes below `n`. -/
def maskOf (f : Nat → Bool) : Nat → Mask
  | 0 => 0
  | n + 1 => if f n then maskOf f n ||| BitVec.twoPow 128 n else maskOf f n

/-- The hoist in a slot. -/
def State.hoist? (s : State) (src : Nat) : Option Hoist := s.hoists.find? (·.src == src)

/-- Replaces the hoist in its slot. -/
def State.putHoist (s : State) (h : Hoist) : State :=
  { s with hoists := s.hoists.map fun x => if x.src == h.src then h else x }

/-- Changes the hoist in a slot, when there is one. -/
def State.updHoist (s : State) (src : Nat) (f : Hoist → Hoist) : State :=
  { s with hoists := s.hoists.map fun x => if x.src == src then f x else x }

/-- A resident block. -/
def State.block? (s : State) (id : Nat) : Option Block := s.blocks.find? (·.id == id)

/-- Changes a resident block. -/
def State.updBlock (s : State) (id : Nat) (f : Block → Block) : State :=
  { s with blocks := s.blocks.map fun x => if x.id == id then f x else x }

/-- An active context. -/
def State.ctx? (s : State) (id : Nat) : Option Ctx := s.ctxs.find? (·.id == id)

/-- Changes an active context. -/
def State.updCtx (s : State) (id : Nat) (f : Ctx → Ctx) : State :=
  { s with ctxs := s.ctxs.map fun x => if x.id == id then f x else x }

/-- A piece of work in flight. -/
def State.flight? (s : State) (id : Nat) : Option Flight := s.flights.find? (·.id == id)

/-- Removes a piece of work. -/
def State.dropFlight (s : State) (id : Nat) : State := { s with flights := s.flights.filter fun f => f.id != id }

/-- Changes a piece of work. -/
def State.updFlight (s : State) (id : Nat) (f : Work → Work) : State :=
  { s with flights := s.flights.map fun x => if x.id == id then { x with work := f x.work } else x }

/-- Adds a piece of work at the end of the list. -/
def State.addFlight (s : State) (src group block ctx : Nat) (w : Work) (named : List Byte := []) : State :=
  { s with flights := s.flights ++ [⟨s.nextId, src, group, block, ctx, w, named⟩], nextId := s.nextId + 1 }

/-- A value for a use that the manual leaves open (log 9), and the state with that use counted. -/
def State.free (s : State) : Word × State := (Config.freeWord s.fresh, { s with fresh := s.fresh + 1 })

/-- How much further than its 1.2 GHz the counter of a docked companion goes while `passed` ticks go by after `before` of
them: towards the Tsuord's, one tick in 10,000 at most (25_docking.md R412). -/
def Link.drift (l : Link) (before passed : Nat) : Int :=
  let most : Int := (before + passed) / 10000 - before / 10000
  max (-most) (min most l.difference)

/-- `n` core clocks pass; the counter runs at 1.2 GHz whatever the core clock (01_machine.md R39; log 6), and follows the
Tsuord's on a docked companion.  The Ensigns evaluate again every 10 µs (17_scheduling.md R324). -/
def State.advance (s : State) (n : Nat) : State :=
  let at_ (c : Nat) : Nat := c * 1200 / max 1 s.power.clockMHz
  let passed := at_ (s.clock + n) - at_ s.clock
  let d := s.link.drift (at_ s.clock) passed
  let time := s.time + BitVec.ofNat 64 ((passed : Int) + d).toNat
  { s with
    clock := s.clock + n
    time := time
    link := { s.link with difference := s.link.difference - d }
    issued := if n = 0 then s.issued else []
    sweep := if time.toNat / 12000 = s.time.toNat / 12000 then s.sweep else 0 }

/-- A hoist has used its start of this clock: each hoist starts at most one word a clock (R13). -/
def State.spend (s : State) (src : Nat) : State := { s with issued := src :: s.issued }

/-- The Ensigns of every core are signalled: they evaluate again, one after another (17_scheduling.md R310, R324; log 7). -/
def State.signalEnsigns (s : State) : State := { s with sweep := 0 }

/-- The die-wide core of a hoist slot (R41). -/
def coreOf (src : Nat) : Nat := src / 64
/-- The cluster of a hoist slot. -/
def clusterOf (src : Nat) : Nat := src / 256
/-- The partition of a hoist slot. -/
def partOf (src : Nat) : Nat := src / 16 % 4
/-- Whether a hoist may start a word in this clock: neither it nor a hoist of a higher source number has started one, since what
starts in one clock stands in the order of source numbers (15_cube.md R278, R298), and its partition fewer than four (R13). -/
def State.mayIssue (s : State) (src : Nat) : Bool :=
  s.issued.all (fun n => decide (n < src)) && decide ((s.issued.filter fun x => x / 16 == src / 16).length < 4)
/-- The first clock in which a hoist may start a word. -/
def State.openClock (s : State) (src : Nat) : State := if s.mayIssue src then s else s.advance 1
/-- The slot within its partition. -/
def slotOf (src : Nat) : Nat := src % 16
/-- The Ensign agent's slot of a core: slot 15 of partition 3 (R24). -/
def ensignSrc (core : Nat) : Nat := 64 * core + 63
/-- The atomic service hoist of a cluster: slot 15 of partition 2 of its core 0 (R24). -/
def serviceSrc (cluster : Nat) : Nat := 256 * cluster + 47

/-- A block that stands for none, for agents that run outside every block. -/
def Block.none : Block where
  id := 0
  ctx := 0
  core := 0
  entry := 0
  linear := 0
  coords := (0, 0, 0)
  grid := (0, 0, 0)
  replica := 0
  replicas := 1
  spanSize := 1
  spanRank := 0
  span := 0
  width := 0
  hoists := 0
  pword := 0
  vregs := 0
  prologue := 0
  scrBytes := 0
  accBytes := 0
  full := false
  reserved := false
  vcnt := 0
  segSize := 0
  accSize := 0
  scratch := []
  poison := []
  tiles := []
  slots := []
  cubecfg := 0
  table := Option.none
  tableLoaded := true
  bars := []
  enq := 0
  residency := .running
  leaving := false
  runsOut := false
  frame := Option.none

/-- A context that stands for none: no page mapped, INTERLOCK, PIN. -/
def Ctx.none : Ctx where
  id := 64
  dpa := 0
  prio := 0
  sbmode := 0
  scopemode := 0
  lease := 1
  tvec := 0
  emtab := 0
  coremask := 0
  maskpend := 0
  faulted := false
  destroying := false
  travelled := false
  mirror := Option.none

/-- The block of a hoist, or the block that stands for none. -/
def State.blockOf (s : State) (h : Hoist) : Block := (s.block? h.block).getD Block.none

/-- The context of a hoist, or the context that stands for none. -/
def State.ctxOf (s : State) (h : Hoist) : Ctx :=
  match s.block? h.block with
  | some b => (s.ctx? b.ctx).getD Ctx.none
  | Option.none => (s.ctx? h.ctxsel).getD Ctx.none

/-- Whether every lane of a slice has died (05_control.md R92). -/
def Hoist.sliceDead (h : Hoist) (n : Nat) : Bool :=
  h.regs.dead.getLsbD (4 * n) && h.regs.dead.getLsbD (4 * n + 1) && h.regs.dead.getLsbD (4 * n + 2) &&
    h.regs.dead.getLsbD (4 * n + 3)

/-- A slice is absent when it has exited or all of its lanes are dead (R92). -/
def Hoist.absent (h : Hoist) (n : Nat) : Bool :=
  match h.regs.slices[n]? with
  | some x => x.exited || h.sliceDead n
  | none => true

/-- Whether a slice belongs to an issue group: absent slices belong to none (R92). -/
def Hoist.sliceIn (h : Hoist) (g n : Nat) : Bool :=
  match h.regs.slices[n]? with
  | some x => !x.exited && x.group == g && !h.sliceDead n
  | none => false

/-- The slices of an issue group, ascending. -/
def Hoist.groupSlices (h : Hoist) (g : Nat) : List Nat := (List.range h.regs.slices.length).filter (h.sliceIn g)

/-- Whether a lane lies in a slice of an issue group (01_machine.md R19). -/
def Hoist.laneIn (h : Hoist) (g l : Nat) : Bool := decide (l < h.width) && h.sliceIn g (l / 4)

/-- A live active lane of the group: EXEC set, not dead, in the group's slices (R12, 00_scope.md R8). -/
def Hoist.active (h : Hoist) (g l : Nat) : Bool :=
  h.laneIn g l && h.regs.exec.getLsbD l && !h.regs.dead.getLsbD l

/-- The live active lanes of a group, ascending. -/
def Hoist.activeLanes (h : Hoist) (g : Nat) : List Nat := (List.range h.width).filter (h.active g)

/-- The lanes of the group's slices that are not dead, whatever EXEC holds. -/
def Hoist.groupLanes (h : Hoist) (g : Nat) : List Nat :=
  (List.range h.width).filter fun l => h.laneIn g l && !h.regs.dead.getLsbD l

/-- The lanes of a group's slices as a mask, dead lanes included. -/
def Hoist.groupMask (h : Hoist) (g : Nat) : Mask := maskOf (h.laneIn g) h.width

/-- Whether every lane of the hoist that is not dead is active in the group: a write is then full (03_encoding.md R57). -/
def Hoist.fullWrite (h : Hoist) (g : Nat) : Bool :=
  (List.range h.width).all fun l => h.regs.dead.getLsbD l || h.active g l

/-- The issue group by number. -/
def Hoist.group? (h : Hoist) (g : Nat) : Option Group := h.regs.groups.find? (·.id == g)

/-- Changes an issue group. -/
def Hoist.updGroup (h : Hoist) (g : Nat) (f : Group → Group) : Hoist :=
  { h with regs := { h.regs with groups := h.regs.groups.map fun x => if x.id == g then f x else x } }

/-- Whether a wait is for a translation request. -/
def Wait.isToken : Wait → Bool
  | .token _ => true
  | _ => false

/-- An issue group that begins at a clock, with nothing waiting. -/
def Group.start (id clock : Nat) (resumed : Bool) : Group where
  id := id
  last := clock
  tried := clock
  lastWord := clock
  cover := []
  codes := []
  ext := none
  landing := none
  wait := .running
  resumed := resumed
  refused := false
  owed := false
  yielded := false
  beam := Option.none
  outs := []

/-- Changes the slices of an issue group. -/
def Hoist.updSlices (h : Hoist) (g : Nat) (f : Slice → Slice) : Hoist :=
  { h with regs := { h.regs with slices := h.regs.slices.mapIdx fun n x => if h.sliceIn g n then f x else x } }

/-- Changes the slices in a list of slice numbers. -/
def Hoist.updSliceList (h : Hoist) (ns : List Nat) (f : Nat → Slice → Slice) : Hoist :=
  { h with regs := { h.regs with slices := h.regs.slices.mapIdx fun n x => if ns.contains n then f n x else x } }

/-- The full address of a slice's pc: bits [71:32] from the block's region or the handler's (R91). -/
def Hoist.pcAddr (h : Hoist) (x : Slice) : VAddr := (if x.high then h.regs.hregion else h.regs.region) ++ x.pc

/-- The pc of an issue group: that of its lowest slice, the same in all its slices. -/
def Hoist.groupPc (h : Hoist) (g : Nat) : VAddr :=
  match h.regs.slices[(h.groupSlices g).headD 0]? with
  | some x => h.pcAddr x
  | none => 0

/-- A pc plus a byte offset, within its 4 GiB region (R91). -/
def addPc (pc : VAddr) (n : BitVec 32) : VAddr := pc.extractLsb' 32 40 ++ (pc.extractLsb' 0 32 + n)

/-- Whether a hoist is privileged (03_encoding.md R77). -/
def Hoist.privileged (h : Hoist) : Bool := h.role != .user || decide (0 < h.regs.depth)

/-- Whether the hoist's block is replicated (21_reliability.md R362). -/
def Block.replicated (b : Block) : Bool := decide (1 < b.replicas)

/-- Words written lane by lane: `f` gives the new word of the lanes it covers. -/
def writeLanes (f : Nat → Option Word) (old : List Word) : List Word := old.mapIdx fun l w => (f l).getD w

/-- The hoists of a block that have not retired. -/
def State.hoistsOf (s : State) (block : Nat) : List Hoist :=
  s.hoists.filter fun h => h.role == .user && h.block == block && !h.retired

/-- The number by which a record names an agent: on a docked companion its own number plus 0x8000 (01_machine.md R42). -/
def State.pairNumber (s : State) (src : Nat) : Nat :=
  if s.die = .companion ∧ s.link.up = true then 0x8000 + src else src

/-- A word that issues: the state, the hoist, its group, block and context, the word, and the address of the word (of
its EXT when one precedes it, which `ext` holds).  `felled` are the lanes that die as the word reads an error for them: they
take part until the group's next word, and write nothing (21_reliability.md R359). -/
structure Env where
  s : State
  h : Hoist
  g : Group
  b : Block
  c : Ctx
  w : BitVec 32
  ext : Option (BitVec 24)
  pc : VAddr
  felled : List Nat
  deriving Repr

/-- The address of the word itself: after its EXT when there is one (03_encoding.md R71). -/
def Env.wordPc (e : Env) : VAddr := match e.ext with | some _ => addPc e.pc 4 | none => e.pc

/-- The word's environment with a changed state: the hoist, block and context are read from it again.  A hoist that has
left its slot has no slice. -/
def Env.at (e : Env) (s : State) : Env :=
  let h := (s.hoist? e.h.src).getD { e.h with regs := { e.h.regs with slices := [] } }
  { e with s := s, h := h, g := (h.group? e.g.id).getD e.g, b := s.blockOf h, c := s.ctxOf h }

/-- The environment with a changed hoist. -/
def Env.setHoist (e : Env) (h : Hoist) : Env := { e with s := e.s.putHoist h, h := h }

/-- A precise trap to take (19_faults.md R333, R338). -/
structure Trap where
  cls : TrapClass
  detail : Nat := 0
  lanes : Mask := 0
  va : Option VAddr := none
  key : Nat := 0
  info : BitVec 64 := 0
  copy : Bool := false
  cpys : Bool := false
  resumeNext : Bool := false
  /-- The bound emulation routine that an EMUL enters (03_encoding.md R79). -/
  entry : Option VAddr := none
  deriving DecidableEq, Repr

/-- How the execution of one word ends.  `done`: it completes and the pc moves to the next word.  `jump`: it completes
and has set the pc itself.  `trap`: it raises a precise trap.  `wait`: it stays at its pc and executes afresh when the
wait ends.  `gone`: it has ended with its group's state already settled. -/
inductive Res where
  | done (s : State)
  | jump (s : State)
  | trap (t : Trap) (s : State)
  | wait (w : Wait) (s : State)
  | gone (s : State)
  deriving Repr

end Sys2Proof.Machine
end

