-- ==== Sys2Proof/Machine/Flags.lean ====
section
/-!
DEFINITION. The floating-point flags, their place in %fpx, and when an FPX is pending (13_numbers.md R251–R254).
-/

namespace Sys2Proof.Machine

/-- The flags as bits [5:0] of %fpx: DEADREAD, NX, UF, OF, DZ, IV (R252). -/
abbrev Flags := BitVec 6

/-- Invalid. -/
def flagIV : Flags := 1
/-- Divide by zero. -/
def flagDZ : Flags := 2
/-- Overflow. -/
def flagOF : Flags := 4
/-- Underflow. -/
def flagUF : Flags := 8
/-- Inexact. -/
def flagNX : Flags := 16
/-- A cross-lane read from a dead lane. -/
def flagDeadRead : Flags := 32

/-- A flag raised under a condition. -/
def flagIf (c : Bool) (f : Flags) : Flags := if c then f else 0

/-- The bits of %fpx that are not reserved (R252). -/
def fpxMask : Word := 0x3F3F#32

/-- %fpx with flags ORed in: flags are sticky (R253). -/
def fpxOr (fpx : Word) (f : Flags) : Word := fpx ||| f.zeroExtend 32

/-- Whether an FPX is pending: a flag and its enable are both set (R254). -/
def fpxPending (fpx : Word) : Bool := (fpx.extractLsb' 0 6 &&& fpx.extractLsb' 8 6) != 0#6

/-- A hoist whose instruction raised flags. -/
def Hoist.raise (h : Hoist) (f : Flags) : Hoist := { h with regs := { h.regs with fpx := fpxOr h.regs.fpx f } }

/-- The flags that the lanes of a list raise together. -/
def flagsOver (lanes : List Nat) (f : Nat → Flags) : Flags := lanes.foldl (fun a l => a ||| f l) 0

end Sys2Proof.Machine
end

