-- ==== Sys2Proof/Machine/Float.lean ====
section
/-!
DEFINITION. Number formats, exact values, conversion with its two tie rules, IEEE arithmetic from exact results, and
the codebook words (13_numbers.md R241–R250, R255–R262).
-/

namespace Sys2Proof.Machine

/-- How a format spends its all-ones exponent (R243). -/
inductive TopKind where
  | ieee
  | e4m3
  | finite
  deriving DecidableEq, Repr

/-- A floating-point format (R242): exponent and fraction bits, bias, all-ones exponent, and whether it is narrower
than 16 bits, so that conversions into it round with rna() (R250). -/
structure Format where
  ebits : Nat
  mbits : Nat
  bias : Nat
  top : TopKind
  narrow : Bool
  deriving DecidableEq, Repr

/-- FP64. -/
def fp64 : Format := ⟨11, 52, 1023, .ieee, false⟩
/-- FP32. -/
def fp32 : Format := ⟨8, 23, 127, .ieee, false⟩
/-- F26, the cube's accumulator format, in its own 26 bits (R245). -/
def f26 : Format := ⟨8, 17, 127, .ieee, false⟩
/-- FP16. -/
def fp16 : Format := ⟨5, 10, 15, .ieee, false⟩
/-- BF16. -/
def bf16 : Format := ⟨8, 7, 127, .ieee, false⟩
/-- FP8 E5M2. -/
def e5m2 : Format := ⟨5, 2, 15, .ieee, true⟩
/-- FP8 E4M3. -/
def e4m3 : Format := ⟨4, 3, 7, .e4m3, true⟩
/-- FP6 E3M2. -/
def e3m2 : Format := ⟨3, 2, 3, .finite, true⟩
/-- FP6 E2M3. -/
def e2m3 : Format := ⟨2, 3, 1, .finite, true⟩
/-- FP4 E2M1. -/
def e2m1 : Format := ⟨2, 1, 1, .finite, true⟩

/-- The bits of a format. -/
def Format.width (f : Format) : Nat := 1 + f.ebits + f.mbits

/-- An exact value: a NaN, an infinity, or (−1)^neg × m × 2^e, zero keeping its sign. -/
inductive FVal where
  | nan (signalling : Bool)
  | inf (neg : Bool)
  | num (neg : Bool) (m : Nat) (e : Int)
  deriving DecidableEq, Repr

/-- The value of an encoding (R243, R244). -/
def Format.decode (f : Format) (w : Nat) : FVal :=
  let frac := w % 2 ^ f.mbits
  let e := w / 2 ^ f.mbits % 2 ^ f.ebits
  let neg := w / 2 ^ (f.mbits + f.ebits) % 2 == 1
  let ones := 2 ^ f.ebits - 1
  if e = 0 then .num neg frac (1 - f.bias - f.mbits)
  else if e = ones ∧ f.top = .ieee then
    (if frac = 0 then .inf neg else .nan (decide (frac < 2 ^ (f.mbits - 1))))
  else if e = ones ∧ f.top = .e4m3 ∧ frac = 2 ^ f.mbits - 1 then .nan false
  else .num neg (frac + 2 ^ f.mbits) (e - f.bias - f.mbits)

/-- The canonical NaN of a format that has NaNs (R244). -/
def Format.canonicalNaN (f : Format) : Nat :=
  match f.top with
  | .ieee => (2 ^ f.ebits - 1) * 2 ^ f.mbits + 2 ^ (f.mbits - 1)
  | .e4m3 => 2 ^ (f.ebits + f.mbits) - 1
  | .finite => 0

/-- The sign bit in place. -/
def Format.signBit (f : Format) (neg : Bool) : Nat := if neg then 2 ^ (f.ebits + f.mbits) else 0

/-- The encoding of infinity. -/
def Format.infinity (f : Format) (neg : Bool) : Nat := f.signBit neg + (2 ^ f.ebits - 1) * 2 ^ f.mbits

/-- The encoding of the largest finite value without its sign (R242). -/
def Format.largest (f : Format) : Nat :=
  match f.top with
  | .ieee => (2 ^ f.ebits - 1) * 2 ^ f.mbits - 1
  | .e4m3 => 2 ^ (f.ebits + f.mbits) - 2
  | .finite => 2 ^ (f.ebits + f.mbits) - 1

/-- m / 2^k rounded to an integer: ties to even, or away from zero when `away` (R241). -/
def roundShift (away : Bool) (m k : Nat) : Nat :=
  let q := m / 2 ^ k
  let r := m % 2 ^ k
  if k = 0 then m
  else if 2 * r < 2 ^ k then q
  else if 2 ^ k < 2 * r then q + 1
  else if away ∨ q % 2 = 1 then q + 1 else q

/-- m × 2^e in units of 2^u, rounded, and whether it is exact. -/
def toUnits (away : Bool) (m : Nat) (e u : Int) : Nat × Bool :=
  if u ≤ e then (m * 2 ^ (e - u).toNat, true)
  else
    let k := (u - e).toNat
    (roundShift away m k, m % 2 ^ k == 0)

/-- The exponent of the spacing at m × 2^e, m not 0: max(⌊log2⌋, emin) − mbits (R241). -/
def Format.spacing (f : Format) (m : Nat) (e : Int) : Int :=
  max ((Nat.log2 m : Int) + e) (1 - (f.bias : Int)) - f.mbits

/-- The encoding, without its sign, of k × 2^u where u is a spacing and k < 2^(mbits + 1) or equal to it. -/
def Format.assemble (f : Format) (k : Nat) (u : Int) : Nat :=
  -- the subnormal spacing has exponent 1 − bias − mbits; each step up adds one to the exponent field
  let steps := (u - (1 - (f.bias : Int) - f.mbits)).toNat
  if k < 2 ^ f.mbits then k else steps * 2 ^ f.mbits + k

/-- `convert` of R250 into a floating-point format: the encoding and the flags. -/
def convert (f : Format) (x : FVal) : Nat × Flags :=
  match x with
  | .nan sig =>
    match f.top with
    | .finite => (0, flagIV)
    | _ => (f.canonicalNaN, flagIf sig flagIV)
  | .inf neg =>
    match f.top with
    | .ieee => (f.infinity neg, 0)
    | _ => (f.signBit neg + f.largest, flagOF ||| flagNX)
  | .num neg m e =>
    if m = 0 then (f.signBit neg, 0)
    else
      let u := f.spacing m e
      let (k, exact) := toUnits f.narrow m e u
      let y := f.assemble k u
      if f.largest < y then
        match f.top with
        | .ieee => (f.infinity neg, flagOF ||| flagNX)
        | _ => (f.signBit neg + f.largest, flagOF ||| flagNX)
      else
        -- below the smallest normal: the exact value lies below 2^(1 − bias)
        let tiny := decide ((Nat.log2 m : Int) + e < 1 - (f.bias : Int))
        (f.signBit neg + y, flagIf (!exact) flagNX ||| flagIf (!exact && tiny) flagUF)

/-- An integer format: bits and signedness (R246, R270). -/
structure IntFormat where
  bits : Nat
  signed : Bool
  deriving DecidableEq, Repr

/-- The smallest value of an integer format. -/
def IntFormat.lo (f : IntFormat) : Int := if f.signed then -(2 ^ (f.bits - 1) : Nat) else 0
/-- The largest value of an integer format. -/
def IntFormat.hi (f : IntFormat) : Int := if f.signed then (2 ^ (f.bits - 1) : Nat) - 1 else (2 ^ f.bits : Nat) - 1

/-- `clamp` of R241. -/
def clampInt (x lo hi : Int) : Int := min (max x lo) hi

/-- `convert` of R250 into an integer format. -/
def convertInt (f : IntFormat) (x : FVal) : Int × Flags :=
  match x with
  | .nan _ => (0, flagIV)
  | .inf neg => (if neg then f.lo else f.hi, flagIV)
  | .num neg m e =>
    let (k, exact) := toUnits (decide (f.bits < 16)) m e 0
    let r : Int := if neg then -(k : Int) else k
    if r < f.lo ∨ f.hi < r then (clampInt r f.lo f.hi, flagIV) else (r, flagIf (!exact) flagNX)

/-- Whether a value is a NaN. -/
def FVal.isNaN : FVal → Bool
  | .nan _ => true
  | _ => false

/-- IV of a signalling NaN operand (R251). -/
def FVal.sigFlag : FVal → Flags
  | .nan true => flagIV
  | _ => 0

/-- The value with its sign changed. -/
def FVal.negate : FVal → FVal
  | .nan s => .nan s
  | .inf n => .inf (!n)
  | .num n m e => .num (!n) m e

/-- The value times 2^k, exactly. -/
def FVal.scale (k : Int) : FVal → FVal
  | .num n m e => .num n m (e + k)
  | x => x

/-- The exact product: a NaN with IV for 0 × ∞ (R251, R255). -/
def FVal.mul (x y : FVal) : FVal × Flags :=
  match x, y with
  | .nan _, _ => (.nan false, x.sigFlag ||| y.sigFlag)
  | _, .nan _ => (.nan false, x.sigFlag ||| y.sigFlag)
  | .inf a, .inf b => (.inf (a != b), 0)
  | .inf a, .num b m _ => if m = 0 then (.nan false, flagIV) else (.inf (a != b), 0)
  | .num a m _, .inf b => if m = 0 then (.nan false, flagIV) else (.inf (a != b), 0)
  | .num a m e, .num b n g => (.num (a != b) (m * n) (e + g), 0)

/-- The signed mantissa of a number in units of 2^u, u at most its exponent. -/
def FVal.units (u : Int) : FVal → Int
  | .num n m e => let k : Nat := m * 2 ^ (e - u).toNat; if n then -(k : Int) else k
  | _ => 0

/-- The smallest exponent of the numbers in a list. -/
def minExp : List FVal → Int → Int
  | [], u => u
  | .num _ m e :: r, u => minExp r (if m = 0 then u else min e u)
  | _ :: r, u => minExp r u

/-- The exact sum of terms: NaN for a NaN term or infinities of both signs (IV), −0 only when every term is −0 (R255). -/
def sumExact (ts : List FVal) : FVal × Flags :=
  let sig := ts.foldl (fun f t => f ||| t.sigFlag) 0
  let pos := ts.contains (.inf false)
  let neg := ts.contains (.inf true)
  let iv := sig ||| flagIf (pos && neg) flagIV
  if ts.any FVal.isNaN || (pos && neg) then (.nan false, iv)
  else if pos then (.inf false, iv)
  else if neg then (.inf true, iv)
  else
    let u := minExp ts 0
    let k : Int := ts.foldl (fun a t => a + (match t with | .num _ 0 _ => 0 | x => x.units u)) 0
    if k = 0 then
      (.num (ts.all fun t => match t with | .num n m _ => n && m == 0 | _ => false) 0 0, iv)
    else (.num (decide (k < 0)) k.natAbs u, iv)

/-- A value rounded into a format, with flags raised before it (R255). -/
def deliver (f : Format) (x : FVal × Flags) : Nat × Flags :=
  let (y, g) := convert f x.1
  (y, x.2 ||| g)

/-- a + b in a format. -/
def fAdd (f : Format) (a b : Nat) : Nat × Flags := deliver f (sumExact [f.decode a, f.decode b])

/-- a − b in a format; a NaN operand stays one. -/
def fSub (f : Format) (a b : Nat) : Nat × Flags := deliver f (sumExact [f.decode a, (f.decode b).negate])

/-- a × b in a format. -/
def fMul (f : Format) (a b : Nat) : Nat × Flags := deliver f ((f.decode a).mul (f.decode b))

/-- a × b + c in a format, rounded once (R257). -/
def fFma (f : Format) (a b c : Nat) : Nat × Flags :=
  let (p, g) := (f.decode a).mul (f.decode b)
  let (s, g') := sumExact [p, f.decode c]
  deliver f (s, g ||| g')

/-- The order of numbers and infinities with −0 below +0 (R258). -/
def FVal.lt (x y : FVal) : Bool :=
  match x, y with
  | .inf true, .inf true => false
  | .inf true, _ => true
  | _, .inf true => false
  | .inf false, _ => false
  | _, .inf false => true
  | .num a m e, .num b n g =>
    let u := min e g
    let i := (FVal.num a m e).units u
    let j := (FVal.num b n g).units u
    decide (i < j) || (i == j && m == 0 && a && !b)
  | _, _ => false

/-- Equality of numbers and infinities, −0 equal to +0. -/
def FVal.eqv (x y : FVal) : Bool :=
  match x, y with
  | .inf a, .inf b => a == b
  | .num a m e, .num b n g =>
    let u := min e g
    (FVal.num a m e).units u == (FVal.num b n g).units u
  | _, _ => false

/-- Minimum or maximum under R258. -/
def fMinMax (f : Format) (wantMax : Bool) (a b : Nat) : Nat × Flags :=
  let x := f.decode a
  let y := f.decode b
  let iv := x.sigFlag ||| y.sigFlag
  match x.isNaN, y.isNaN with
  | true, true => (f.canonicalNaN, iv)
  | true, false => (b, iv)
  | false, true => (a, iv)
  | false, false => (if x.lt y == wantMax then b else a, iv)

/-- The class mask of R259. -/
def fClass (f : Format) (a : Nat) : Nat :=
  match f.decode a with
  | .nan true => 2 ^ 8
  | .nan false => 2 ^ 9
  | .inf false => 2 ^ 7
  | .inf true => 2 ^ 0
  | .num neg m _ =>
    if m = 0 then (if neg then 2 ^ 3 else 2 ^ 4)
    else if m < 2 ^ f.mbits then (if neg then 2 ^ 2 else 2 ^ 5)
    else (if neg then 2 ^ 1 else 2 ^ 6)

/-- The explicit rounding modes of VRND (R272) on an exact value: an integral value with the operand's sign. -/
def roundIntegral (mode : Nat) (neg : Bool) (m : Nat) (e : Int) : Nat :=
  if 0 ≤ e then m * 2 ^ e.toNat
  else
    let k := (-e).toNat
    let q := m / 2 ^ k
    let up := if m % 2 ^ k = 0 then q else q + 1
    match mode with
    | 0 => roundShift false m k
    | 1 => roundShift true m k
    | 2 => q
    | 3 => if neg then up else q
    | _ => if neg then q else up

/-- VRND in a format. -/
def fRound (f : Format) (mode a : Nat) : Nat × Flags :=
  match f.decode a with
  | .nan sig => (f.canonicalNaN, flagIf sig flagIV)
  | .inf _ => (a, 0)
  | .num neg m e =>
    let (y, _) := convert f (.num neg (roundIntegral mode neg m e) 0)
    (y, 0)

/-- A narrow element format by its format code (R246): a float or an integer. -/
inductive Elem where
  | float (f : Format)
  | int (f : IntFormat)
  deriving DecidableEq, Repr

/-- The format of a code (R246). -/
def elemOf : Nat → Option Elem
  | 0 => some (.float e4m3)
  | 1 => some (.float e5m2)
  | 2 => some (.float e3m2)
  | 3 => some (.float e2m3)
  | 4 => some (.float e2m1)
  | 5 => some (.int ⟨8, true⟩)
  | 6 => some (.int ⟨4, true⟩)
  | _ => none

/-- Container bits of a format code (R246). -/
def containerBits (fmt : Nat) : Nat := if fmt = 4 ∨ fmt = 6 then 4 else 8

/-- Bits that hold the value within the container: FP6 leaves bits [7:6] out. -/
def valueBits (fmt : Nat) : Nat :=
  match fmt with
  | 2 => 6
  | 3 => 6
  | 4 => 4
  | 6 => 4
  | _ => 8

/-- The elements of a word in a format code. -/
def elemCount (fmt : Nat) : Nat := 32 / containerBits fmt

/-- The value of element k of a word (R246). -/
def elemValue (fmt k w : Nat) : FVal :=
  let x := w / 2 ^ (containerBits fmt * k) % 2 ^ valueBits fmt
  match elemOf fmt with
  | some (.float f) => f.decode x
  | some (.int f) => let i := signedOf f.bits x; .num (decide (i < 0)) i.natAbs 0
  | none => .nan false

/-- `convert` into an element format: the container's bits and the flags (R250). -/
def convertElem (fmt : Nat) (x : FVal) : Nat × Flags :=
  match elemOf fmt with
  | some (.float f) => convert f x
  | some (.int f) => let (i, g) := convertInt f x; ((i % (2 ^ f.bits : Nat)).toNat, g)
  | none => (0, 0)

/-- A word with element k replaced. -/
def putElem (fmt k w y : Nat) : Nat :=
  let lo := containerBits fmt * k
  w % 2 ^ lo + y * 2 ^ lo + w / 2 ^ (lo + containerBits fmt) * 2 ^ (lo + containerBits fmt)

/-- Row m of the default codebook table: magnitude i is 2 + 4 × (bit i of m) (R249). -/
def defaultRow (m : Nat) : Nat :=
  (List.range 8).foldl (fun a i => a + (2 + 4 * (m / 2 ^ i % 2)) * 16 ^ i) 0

/-- A row of a codebook: of a loaded table, or of the default one. -/
def codebookRow (table : Option Memory) (m : Nat) : Nat :=
  match table with
  | some t => t.readNat (4 * m) 4
  | none => defaultRow m

/-- Weight i of a CB2 word (R248): (−1)^s × q / 4. -/
def cb2Weight (table : Option Memory) (w i : Nat) : FVal :=
  let q := codebookRow table (bitsOf w 15 8) / 16 ^ i % 16
  let sgn (j : Nat) : Nat := bitsOf w (j + 1) (j + 1)
  let s := if i = 7 then (bitsOf w 0 0 + sgn 0 + sgn 1 + sgn 2 + sgn 3 + sgn 4 + sgn 5 + sgn 6) % 2 else sgn i
  .num (s == 1) q (-2)

end Sys2Proof.Machine
end

