-- ==== Sys2Proof/Machine/Atomic.lean ====
section
/-!
DEFINITION. The operations of atomics (11_ordering.md R229–R233).
-/

namespace Sys2Proof.Machine

/-- What an atomic does at its address. -/
inductive AtomicOp where
  /-- An operation of R229 by its modifier. -/
  | rmw (m : Nat)
  /-- Compare and swap (R232, R233). -/
  | cas
  deriving DecidableEq, Repr

/-- Bytes of an ATOM or RED modifier (R229). -/
def atomBytes (m : Nat) : Nat := if 12 ≤ m then 8 else 4

/-- new := f(old, x) of R229, in n-byte numbers. -/
def atomResult (m old x : Nat) : Nat :=
  match m with
  | 0 => (old + x) % 2 ^ 32
  | 1 => if signedOf 32 x < signedOf 32 old then x else old
  | 2 => if signedOf 32 old < signedOf 32 x then x else old
  | 3 => min old x
  | 4 => max old x
  | 5 => old &&& x
  | 6 => old ||| x
  | 7 => old ^^^ x
  | 8 => x
  | 9 => (fAdd fp32 old x).1
  | 10 => (fMinMax fp32 false old x).1
  | 11 => (fMinMax fp32 true old x).1
  | 12 => (old + x) % 2 ^ 64
  | 13 => max old x
  | 14 => x
  | _ => min old x

/-- The new value of an atomic: none when a compare-and-swap does not match (R232). -/
def AtomicOp.new (op : AtomicOp) (old compare x : Nat) : Option Nat :=
  match op with
  | .rmw m => some (atomResult m old x)
  | .cas => if old = compare then some x else none

end Sys2Proof.Machine
end

