-- ==== Sys2Proof/Machine/CubeMath.lean ====
section
/-!
DEFINITION. The cube engine's formats, legal combinations, and the two-stage arithmetic of a pass (15_cube.md
R277, R281–R288).
-/

namespace Sys2Proof.Machine

/-- Tk of an operand format (R284); none for a reserved code. -/
def cubeTk : Nat → Option Nat
  | 0 => some 16
  | 1 => some 16
  | 2 => some 32
  | 3 => some 32
  | 4 => some 32
  | 5 => some 32
  | 6 => some 32
  | 7 => some 64
  | 8 => some 64
  | 9 => some 64
  | _ => none

/-- The rows of R284 that an A or B format belongs to: its partners. -/
def cubeClass : Nat → Nat
  | 0 => 0
  | 1 => 0
  | 2 => 1
  | 3 => 1
  | 4 => 1
  | 5 => 1
  | 6 => 2
  | 7 => 3
  | 9 => 3
  | 8 => 4
  | _ => 5

/-- Whether a format takes block scales (R283). -/
def cubeScaled (f : Nat) : Bool := [2, 3, 4, 5, 7, 9].contains f

/-- Bytes of a C element: 2 for BF16, 1 for E4M3 and INT8 (R285). -/
def cubeCBytes (f : Nat) : Nat := if f = 0 then 2 else 1

/-- C formats that a row of R284 allows. -/
def cubeCAllowed (cls f : Nat) : Bool :=
  match cls with
  | 0 => f == 0 || f == 2
  | 1 => f == 0 || f == 2
  | 2 => f == 6
  | 3 => f == 0 || f == 2
  | 4 => f == 6
  | _ => false

/-- C slots under a mode (R284, R285): IK and KJ need 32 × Kp elements, IJ and K fit one slot. -/
def cubeCSlots (mode kp es : Nat) : Nat := if mode = 1 ∨ mode = 2 then max 1 (32 * kp * es / 2048) else 1

/-- Element k of a 64-byte line in a cube format (R277). -/
def cubeElem (table : Option Memory) (fmt : Nat) (line : List Byte) (k : Nat) : FVal :=
  let b (i : Nat) : Nat := (line.getD i 0).toNat
  let half := b (2 * k) + 256 * b (2 * k + 1)
  let nib := b (k / 2) / 16 ^ (k % 2) % 16
  match fmt with
  | 0 => bf16.decode half
  | 1 => fp16.decode half
  | 2 => e4m3.decode (b k)
  | 3 => e5m2.decode (b k)
  | 4 => e3m2.decode (b k % 64)
  | 5 => e2m3.decode (b k % 64)
  | 6 => let i := signedOf 8 (b k); .num (decide (i < 0)) i.natAbs 0
  | 7 => e2m1.decode nib
  | 8 => let i := signedOf 4 nib; .num (decide (i < 0)) i.natAbs 0
  | 9 => cb2Weight table (b (2 * (k / 8)) + 256 * b (2 * (k / 8) + 1)) (k % 8)
  | _ => .nan false

/-- A value times an E8M0 scale (R247, R283). -/
def scaled (x : FVal) (e : Byte) : FVal :=
  if e = 0xFF then (match x with | .nan s => .nan s | _ => .nan false) else x.scale ((e.toNat : Int) - 127)

/-- The elements of line r of an operand with its scales: `scales` is empty when every scale is 1. -/
def cubeLine (table : Option Memory) (fmt kp bl : Nat) (scales : List Byte) (slot : Memory) (r : Nat) : List FVal :=
  let line := slot.readBytes (64 * r) 64
  (List.range kp).map fun k =>
    let x := cubeElem table fmt line k
    if scales = [] then x else scaled x (scales.getD (r * (kp / bl) + k / bl) 0)

/-- The value of one C element at a byte offset of its region (R285). -/
def cubeGate (fmt : Nat) (region : Memory) (off : Nat) : FVal :=
  match fmt with
  | 0 => bf16.decode (region.readNat off 2)
  | 2 => e4m3.decode (region.readNat off 1)
  | _ => let i := signedOf 8 (region.readNat off 1); .num (decide (i < 0)) i.natAbs 0

/-- The gates c(i, j, k) of row i and column j along k; every one 1 under NONE (R285). -/
def cubeGates (mode fmt kp : Nat) (region : Memory) (i j : Nat) : List FVal :=
  let es := cubeCBytes fmt
  (List.range kp).map fun k =>
    match mode with
    | 0 => .num false 1 0
    | 1 => cubeGate fmt region ((i * kp + k) * es)
    | 2 => cubeGate fmt region ((j * kp + k) * es)
    | 3 => cubeGate fmt region ((32 * i + j) * es)
    | _ => cubeGate fmt region (k * es)

/-- The terms a × b × c and the flags of the products.  The manual does not say whether a term whose factors hold a zero, an
infinity and a quiet NaN raises IV: a × b comes first, so it does when A and B hold the zero and the infinity, and only then
(DESIGN CHOICE, log 63). -/
def cubeTerms : List FVal → List FVal → List FVal → List FVal × Flags
  | a :: as, b :: bs, c :: cs =>
    let (p, f) := a.mul b
    let (q, g) := p.mul c
    let (r, h) := cubeTerms as bs cs
    (q :: r, f ||| g ||| h)
  | _, _, _ => ([], 0)

/-- Reads T(i, j). -/
def Tile.word (t : Tile) (i j : Nat) : Nat := t.t.readNat (128 * i + 4 * j) 4

/-- Writes T(i, j). -/
def Tile.setWord (t : Tile) (i j : Nat) (v : Word) : Tile := { t with t := t.t.writeNat (128 * i + 4 * j) 4 v.toNat }

/-- One element's second stage: T := convert(T + R, FP32) (R286). -/
def promoteElem (t r : Nat) : Nat × Flags := deliver fp32 (sumExact [fp32.decode t, fp32.decode r])

/-- The promotion of the elements in a list (R286). -/
def promoteElems : List (Nat × Nat) → Tile → Tile × Flags
  | [], t => (t, 0)
  | (i, j) :: rest, t =>
    let (y, f) := promoteElem (t.word i j) ((t.plane.getD (32 * i + j) 0).toNat)
    let (t, g) := promoteElems rest (t.setWord i j (BitVec.ofNat 32 y))
    (t, f ||| g)

/-- The 1,024 places of a tile. -/
def tilePlaces : List (Nat × Nat) := (List.range 1024).map fun n => (n / 32, n % 32)

/-- promote(t): every row, R to +0, the count to 0 (R286, R287). -/
def Tile.promote (t : Tile) : Tile × Flags :=
  let (t, f) := promoteElems tilePlaces t
  ({ t with plane := List.replicate 1024 0, count := 0 }, f)

/-- The running sum of one element: s := convert(S, F26), R := convert(R + s, F26), as FP32 patterns (R245, R286). -/
def runElem (sum : FVal) (r : Nat) : Nat × Flags :=
  let (s, f) := convert f26 sum
  let (y, g) := deliver f26 (sumExact [fp32.decode r, f26.decode s])
  (64 * y, f ||| g)

/-- The operands of a pass. -/
structure PassOperands where
  a : List (List FVal)
  b : List (List FVal)
  region : Memory

/-- The operands as the slots hold them. -/
def passOperands (job : PassJob) (table : Option Memory) (slotA slotB region : Memory) : PassOperands where
  a := (List.range 32).map (cubeLine table job.fmtA job.kp job.blA job.scalesA slotA)
  b := (List.range 32).map (cubeLine table job.fmtB job.kp job.blB job.scalesB slotB)
  region := region

/-- The exact sum S of an element and its flags (R286). -/
def passSum (job : PassJob) (o : PassOperands) (i j : Nat) : FVal × Flags :=
  let (ts, f) := cubeTerms (o.a.getD i []) (o.b.getD j []) (cubeGates job.mode job.fmtC job.kp o.region i j)
  let (s, g) := sumExact ts
  (s, f ||| g)

/-- Whether a pass multiplies integers (R284). -/
def PassJob.integer (job : PassJob) : Bool := job.fmtA == 6 || job.fmtA == 8

/-- The elements of a pass, one by one. -/
def passElems (job : PassJob) (o : PassOperands) : List (Nat × Nat) → Tile → Tile × Flags
  | [], t => (t, 0)
  | (i, j) :: rest, t =>
    let (sum, f) := passSum job o i j
    if job.integer then
      let v := BitVec.ofInt 32 ((t.word i j : Int) + sum.units 0)
      passElems job o rest (t.setWord i j v)
    else
      let n := 32 * i + j
      let (y, g) := runElem sum ((t.plane.getD n 0).toNat)
      let (t, h) := passElems job o rest { t with plane := t.plane.set n (BitVec.ofNat 32 y) }
      (t, f ||| g ||| h)

/-- A pass on a tile (R286): the updated rows, then the count and the promotion of a float pass. -/
def runPass (job : PassJob) (o : PassOperands) (t : Tile) : Tile × Flags :=
  let (t, f) := passElems job o (tilePlaces.filter fun p => job.rows.getLsbD p.1) t
  if job.integer then (t, 0)
  else
    let t := { t with count := t.count + 1 }
    if job.promoteAt ≤ t.count then
      let (t, g) := t.promote
      (t, f ||| g)
    else (t, f)

/-- A tile that reads as zero (R279). -/
def Tile.zero (n : Nat) : Tile := ⟨n, [], List.replicate 1024 0, 0⟩

end Sys2Proof.Machine
end

