-- ==== Sys2Proof/Machine/Operands.lean ====
section
/-!
DEFINITION. Every operand form: S, V, P and A registers, special registers, immediates with EXT, and the byte
positions of memory operands (03_encoding.md R45–R53, R70, 05_control.md R123).
-/

namespace Sys2Proof.Machine

/-- s0–s95. -/
def Hoist.sreg (h : Hoist) (n : Nat) : Word := h.regs.s[n]?.getD 0
/-- p0–p95, one bit per lane. -/
def Hoist.preg (h : Hoist) (n : Nat) : Mask := h.regs.p[n]?.getD 0
/-- An A register whose every field is zero. -/
def AReg.zero : AReg := ⟨0, 0, 0, 0, 0⟩
/-- a0–a15. -/
def Hoist.areg (h : Hoist) (n : Nat) : AReg := h.regs.a[n]?.getD AReg.zero
/-- v0–v255. -/
def Hoist.vreg (h : Hoist) (n : Nat) : VReg := h.regs.v[n]?.getD ⟨.u, []⟩
/-- A lane's word of a V register. -/
def Hoist.vword (h : Hoist) (n l : Nat) : Word := (h.vreg n).lanes[l]?.getD 0
/-- A lane's 64-bit value of an even-aligned pair of V registers (R46). -/
def Hoist.vpair (h : Hoist) (n l : Nat) : BitVec 64 := h.vword (n + 1) l ++ h.vword n l
/-- The 64-bit value of an even-aligned pair of S registers (R46). -/
def Hoist.spair (h : Hoist) (n : Nat) : BitVec 64 := h.sreg (n + 1) ++ h.sreg n

/-- Writes s0–s95. -/
def Hoist.setS (h : Hoist) (n : Nat) (v : Word) : Hoist := { h with regs := { h.regs with s := h.regs.s.set n v } }
/-- Writes a whole P register. -/
def Hoist.setP (h : Hoist) (n : Nat) (v : Mask) : Hoist := { h with regs := { h.regs with p := h.regs.p.set n v } }
/-- Writes an A register. -/
def Hoist.setA (h : Hoist) (n : Nat) (v : AReg) : Hoist := { h with regs := { h.regs with a := h.regs.a.set n v } }
/-- Writes a V register whole. -/
def Hoist.setV (h : Hoist) (n : Nat) (v : VReg) : Hoist := { h with regs := { h.regs with v := h.regs.v.set n v } }
/-- Writes EXEC; dead lanes and lanes at or above W stay clear (05_control.md R94). -/
def Hoist.setExec (h : Hoist) (m : Mask) : Hoist :=
  { h with regs := { h.regs with exec := maskOf (fun l => m.getLsbD l && !h.regs.dead.getLsbD l) h.width } }

/-- Writes an S destination: s0–s95, %fpx, %xprog or %zero, which discards (03_encoding.md R53, 13_numbers.md R252). -/
def Hoist.writeS (h : Hoist) (d : BitVec 8) (v : Word) : Hoist :=
  if d.toNat ≤ 95 then h.setS d.toNat v
  else if d = 151 then { h with regs := { h.regs with fpx := v &&& fpxMask } }
  else if d = 152 then { h with regs := { h.regs with xprog := v } }
  else h

/-- The tag that a write of a group leaves: `t` on a full write, G on a partial one (R57). -/
def Hoist.tagAfter (h : Hoist) (g : Nat) (t : Tag) : Tag := if h.fullWrite g then t else .g

/-- Writes a V register in the live active lanes of a group, with the tag of R57; nothing with no live lane.  A U or A tag
describes every lane, so a write that leaves one gives the dead lanes its values too (R56). -/
def Hoist.putV (h : Hoist) (g d : Nat) (t : Tag) (f : Nat → Word) : Hoist :=
  if h.activeLanes g = [] then h
  else h.setV d
    { tag := h.tagAfter g t
      lanes := writeLanes (fun l => if h.active g l || h.tagAfter g t != .g then some (f l) else none) (h.vreg d).lanes }

/-- Writes an even-aligned pair of V registers. -/
def Hoist.putVPair (h : Hoist) (g d : Nat) (t : Tag) (f : Nat → BitVec 64) : Hoist :=
  (h.putV g d t fun l => (f l).extractLsb' 0 32).putV g (d + 1) t fun l => (f l).extractLsb' 32 32

/-- Writes bits of a P register in the lanes that `sel` picks; the others keep theirs. -/
def Hoist.putP (h : Hoist) (d : Nat) (sel f : Nat → Bool) : Hoist :=
  h.setP d (maskOf (fun l => if sel l then f l else (h.preg d).getLsbD l) h.width)

/-- 32 lanes of a mask from lane 32 q up, only those of the issuing group's slices (R52). -/
def Env.groupBits (e : Env) (m : Mask) (q : Nat) : Word :=
  (maskOf (fun l => m.getLsbD l && e.h.laneIn e.g.id l) e.h.width).extractLsb' (32 * q) 32

/-- The die bit of %span and %core. -/
def dieBit : Die → Nat
  | .tsuord => 0
  | .companion => 2 ^ 16

/-- %time as the hoist samples it now. -/
def Env.now (e : Env) : BitVec 64 := e.s.time

/-- A special register by selector (R52, 01_machine.md R23, R40).  `latch` is the timestamp latch at the read. -/
def Env.special (e : Env) (latch : Option Word) (sel : Nat) : Word :=
  match sel with
  | 128 => BitVec.ofNat 32 e.h.width
  | 129 => BitVec.ofNat 32 e.h.index
  | 130 => e.b.coords.1
  | 131 => e.b.coords.2.1
  | 132 => e.b.coords.2.2
  | 133 => e.b.grid.1
  | 134 => e.b.grid.2.1
  | 135 => e.b.grid.2.2
  | 136 => BitVec.ofNat 32 (dieBit e.s.die + 256 * clusterOf e.h.src + 4 * (e.b.spanSize - 1) + e.b.spanRank)
  | 137 => BitVec.ofNat 32 (dieBit e.s.die + 1024 * slotOf e.h.src + 256 * partOf e.h.src + coreOf e.h.src)
  | 138 => match latch with | some w => w | none => e.now.extractLsb' 0 32
  | 139 => e.now.extractLsb' 32 32
  | 140 => e.groupBits e.h.regs.exec 0
  | 141 => e.groupBits e.h.regs.exec 1
  | 142 => e.groupBits e.h.regs.exec 2
  | 143 => e.groupBits e.h.regs.exec 3
  | 144 => e.groupBits e.h.regs.dead 0
  | 145 => e.groupBits e.h.regs.dead 1
  | 146 => e.groupBits e.h.regs.dead 2
  | 147 => e.groupBits e.h.regs.dead 3
  | 148 => match e.h.regs.slices[(e.h.groupSlices e.g.id).headD 0]? with | some x => x.cfs | none => 0
  | 149 => e.h.regs.ssig.extractLsb' 0 32
  | 150 => e.h.regs.ssig.extractLsb' 32 32
  | 151 => e.h.regs.fpx
  | 152 => e.h.regs.xprog
  | 153 => BitVec.ofNat 32 (4 * (e.b.replicas - 1) + e.b.replica)
  | 154 => e.h.regs.batch
  | _ => 0

/-- The timestamp latch after a read of a selector (R40): %time.hi fills it, %time.lo empties it. -/
def latchAfter (now : BitVec 64) (latch : Option Word) (sel : Nat) : Option Word :=
  if sel = 139 then some (now.extractLsb' 0 32) else if sel = 138 then none else latch

/-- Selectors whose values a replica's leader forwards: %span, %core and %time (21_reliability.md R366). -/
def forwardedSel (sel : Nat) : Bool := decide (136 ≤ sel) && decide (sel ≤ 139)

/-- Whether the hoist is a replica that takes forwarded values from its leader. -/
def Env.follows (e : Env) : Bool := e.b.replicated && e.b.replica != 0

/-- Whether the hoist is the leader of a replicated block. -/
def Env.leads (e : Env) : Bool := e.b.replicated && e.b.replica == 0

/-- Whether the hoist's offer at this word has passed its vote: whether this hoist is then the committer. -/
def Env.voted (e : Env) : Option Bool :=
  match e.h.offer with
  | some o => if o.group = e.g.id then o.vote else none
  | none => none

/-- Whether a word's forwarded reads come from the hoist's list: in a replica that follows, and in a leader whose release
word has offered them (R366, R368). -/
def Env.takes (e : Env) : Bool :=
  e.follows || (e.b.replicated && e.h.offer.isSome && !e.h.forwarded.isEmpty)

/-- The value of an S source after the selectors in `before` have been read by the same word. -/
def Env.svalAfter (e : Env) (before : List Nat) (sel : BitVec 8) : Word :=
  if sel.toNat ≤ 95 then e.h.sreg sel.toNat
  else if e.takes && forwardedSel sel.toNat then
    ((e.h.forwarded.headD [])[(before.filter forwardedSel).length]?).getD 0
  else e.special (before.foldl (latchAfter e.now) e.h.regs.latch) sel.toNat

/-- The value of a word's only or first S source. -/
def Env.sval (e : Env) (sel : BitVec 8) : Word := e.svalAfter [] sel

/-- The value of a word's second S source `b`, read after the first `a`. -/
def Env.sval2 (e : Env) (a b : BitVec 8) : Word := e.svalAfter [a.toNat] b

/-- An 8-bit immediate sign-extended, or the 32-bit immediate under EXT (R70). -/
def Env.imm8 (e : Env) (i : BitVec 8) : Word :=
  match e.ext with
  | some x => x ++ i
  | none => i.signExtend 32

/-- A 16-bit immediate sign-extended, or the 32-bit immediate under EXT. -/
def Env.imm16s (e : Env) (i : BitVec 16) : Word :=
  match e.ext with
  | some x => x.extractLsb' 0 16 ++ i
  | none => i.signExtend 32

/-- A 16-bit immediate zero-extended, or the 32-bit immediate under EXT. -/
def Env.imm16z (e : Env) (i : BitVec 16) : Word :=
  match e.ext with
  | some x => x.extractLsb' 0 16 ++ i
  | none => i.zeroExtend 32

/-- The branch target of a BR word: its address plus four times the signed offset, within the region (R91, R96). -/
def Env.target24 (e : Env) (o : BitVec 24) : VAddr :=
  match e.ext with
  | some x => addPc e.pc (4#32 * (x ++ o).truncate 32)
  | none => addPc e.pc (4#32 * o.signExtend 32)

/-- The branch target of a CB word. -/
def Env.target16 (e : Env) (o : BitVec 16) : VAddr :=
  match e.ext with
  | some x => addPc e.pc (4#32 * (x ++ o).truncate 32)
  | none => addPc e.pc (4#32 * o.signExtend 32)

/-- The signed 24-bit displacement that an EXT gives, zero without one (R70, R123). -/
def Env.disp (e : Env) : Int := match e.ext with | some x => x.toInt | none => 0

/-- The byte position of an access through a window: CURSOR + offset + disp, exact (R123). -/
def AReg.position (a : AReg) (offset disp : Int) : Int := a.cursor.toNat + offset + disp

/-- The address of a byte position: BASE + e modulo 2^72 (R123). -/
def AReg.address (a : AReg) (e : Int) : VAddr := BitVec.ofInt 72 (a.base.toNat + e)

/-- PERM.R. -/
def permR : Nat := 0
/-- PERM.W. -/
def permW : Nat := 1
/-- PERM.ATOM. -/
def permATOM : Nat := 2
/-- PERM.COPYSRC. -/
def permCOPYSRC : Nat := 3
/-- PERM.COPYDST. -/
def permCOPYDST : Nat := 4
/-- PERM.TIERREAD. -/
def permTIER : Nat := 5
/-- PERM.SCR. -/
def permSCR : Nat := 6
/-- PERM.SYS. -/
def permSYS : Nat := 7

/-- Whether a window has a PERM bit (03_encoding.md R51). -/
def AReg.has (a : AReg) (bit : Nat) : Bool := a.perm.getLsbD bit

/-- Each live active lane's offset from a V register, signed; zero for displacement-only forms. -/
def Env.laneOffsets (e : Env) (dispOnly : Bool) (v : Nat) (a : AReg) : List (Nat × Int) :=
  (e.h.activeLanes e.g.id).map fun l => (l, a.position (if dispOnly then 0 else (e.h.vword v l).toInt) e.disp)

/-- The one position of a scalar access. -/
def Env.scalarOffset (e : Env) (dispOnly : Bool) (off : Word) (a : AReg) : List (Nat × Int) :=
  [(0, a.position (if dispOnly then 0 else off.toInt) e.disp)]

/-- The 32-byte image of an A register, reserved bits zero (R50). -/
def AReg.image (a : AReg) : List Byte := natLe 32 ((0#56 ++ a.step ++ a.perm ++ a.cursor ++ a.extent ++ a.base).toNat)

/-- The A register that a 32-byte image holds. -/
def AReg.ofImage (b : List Byte) : AReg :=
  let v := leNat b
  { base := BitVec.ofNat 72 v
    extent := BitVec.ofNat 48 (v / 2 ^ 72)
    cursor := BitVec.ofNat 48 (v / 2 ^ 120)
    perm := BitVec.ofNat 8 (v / 2 ^ 168)
    step := BitVec.ofNat 24 (v / 2 ^ 176) }

end Sys2Proof.Machine
end

