-- ==== Sys2Proof/Machine/Mem.lean ====
section
/-!
DEFINITION. Physical memory as the agents of the die read and write it, condition monitors and their wakes, the
rings and the MSI-X messages, the event log, and faulted contexts.
-/

namespace Sys2Proof.Machine

/-- Whether a condition holds of a value found at its place (11_ordering.md R238). -/
def compareCond (cc size value found : Nat) : Bool :=
  match cc with
  | 0 => found == value
  | 1 => found != value
  | 2 => decide (signedOf (8 * size) found < signedOf (8 * size) value)
  | 3 => decide (signedOf (8 * size) value ≤ signedOf (8 * size) found)
  | 4 => decide (found < value)
  | _ => decide (value ≤ found)

/-- Whether a byte-counting barrier has passed phase p (09_memory.md R202). -/
def phasePassed (phase p : Nat) : Bool :=
  let d := (phase + 2 ^ 32 - p % 2 ^ 32) % 2 ^ 32
  decide (1 ≤ d) && decide (d < 2 ^ 31)

/-- Whether a monitor's condition holds in a memory; a queue's waiters are woken by its operations only (09_memory.md R205,
R207). -/
def Monitor.holds (m : Monitor) (mem : Memory) : Bool :=
  match m.cond with
  | .cmp cc v => compareCond cc m.size v (mem.readNat m.pa m.size)
  | .phasePast p => phasePassed (mem.readNat (m.pa + 12) 4) p.toNat
  | .changed => false

/-- Ends a wait of one issue group: it executes its word afresh. -/
def Hoist.release (h : Hoist) (g : Nat) (p : Wait → Bool) : Hoist :=
  h.updGroup g fun x => if p x.wait then { x with wait := .running } else x

/-- Wakes a monitor's waiter: the group evaluates again, or its parked record's JOIN is to be decremented
(11_ordering.md R239, 17_scheduling.md R327).  An agent of another chip has the source number of no slot here. -/
def State.wakeMonitor (s : State) (m : Monitor) : State :=
  match m.parked with
  | none => s.updHoist m.src fun h => h.release m.group fun w => w == .monitor
  | some frame => { s with agenda := s.agenda ++ [.event (.joinDecrement m.ctx frame)] }

/-- Wakes and removes the monitors that satisfy `p`. -/
def State.wakeWhere (s : State) (p : Monitor → Bool) : State :=
  let s' := { s with monitors := s.monitors.filter fun m => !p m }
  (s.monitors.filter p).foldl State.wakeMonitor s'

/-- Whether a hold keeps the writes of its line from a monitor: the line's value lives with its holder, and the waiter stands outside
(11_ordering.md R217, R239). -/
def State.keptFrom (s : State) (m : Monitor) : Bool :=
  !s.holds.isEmpty && s.holds.any fun x => x.line == m.pa / 64 &&
    !(m.parked.isNone && match (s.hoist? m.src).bind fun h => s.block? h.block with
      | some b => if x.wide then x.holder == b.span else x.holder == b.id
      | none => false)

/-- Wakes the monitors of the lines that a write of `n` bytes at `pa` touched, where the condition then holds. -/
def State.wakeWritten (s : State) (pa n : Nat) : State :=
  if s.monitors.isEmpty then s
  else s.wakeWhere fun m =>
    decide (pa / 64 ≤ m.pa / 64) && decide (m.pa / 64 ≤ (pa + n - 1) / 64) && m.holds s.mem && !s.keptFrom m

/-- Ends the holds that satisfy `p`: each line's value returns to its home, where waiters whose condition then holds are woken
(R218, R239). -/
def State.dropHolds (s : State) (p : ScopeHold → Bool) : State :=
  let gone := s.holds.filter p
  let s : State := { s with holds := s.holds.filter fun x => !p x }
  if gone.isEmpty || s.monitors.isEmpty then s
  else s.wakeWhere fun m => gone.any (fun x => x.line == m.pa / 64) && m.holds s.mem && !s.keptFrom m

/-- Whether a pair number is that of an agent on another chip (R225): of the other die of a docked pair, or the host side of the
upstream port. -/
def State.foreignAgent (s : State) (n : Nat) : Bool :=
  n == 0x3210 || s.link.up && match s.die with
    | .tsuord => decide (0x8000 ≤ n)
    | .companion => decide (n < 0x8000)

/-- The monitors that agents on another chip have registered. -/
def State.foreignMonitors (s : State) : List Monitor := s.monitors.filter (·.foreign.isSome)

/-- The sectors wholly inside a range. -/
def wholeSector (pa n k : Nat) : Bool := decide (pa ≤ 32 * k) && decide (32 * k + 32 ≤ pa + n)

/-- Whether an address is the other die's while the link is down, or that of an access which was outstanding when the link
was lost, 2^52 above its own (`Access.lost`): its reads are poisoned and its writes fail (25_docking.md R406, R408). -/
def State.unlinked (s : State) (pa : Nat) : Bool :=
  decide (2 ^ 52 ≤ pa) ||
    !s.link.up && (match s.die with | .tsuord => decide (companionBase ≤ pa) | .companion => decide (pa < tsuordTop))

/-- Whether a range touches T0 addresses that a dropped channel has taken (21_reliability.md R371). -/
def State.droppedRange (s : State) (pa n : Nat) : Bool :=
  s.die == .tsuord && decide (s.power.capacity < pa + n) && decide (pa < s.power.built)

/-- A write of the die order at a physical address: memory, poison cleared in sectors written whole
(21_reliability.md R358), monitors of the line. -/
def State.writePhys (s : State) (pa : Nat) (bytes : List Byte) : State :=
  if s.unlinked pa then s
  else State.wakeWritten { s with
    mem := s.mem.writeBytes pa bytes
    poison := s.poison.filter fun k => !wholeSector pa bytes.length k } pa bytes.length

/-- The bytes of a held write for companion or host memory, over a memory (25_docking.md R416). -/
def HeldWrite.over (m : Memory) : HeldWrite → Memory
  | .companion pa d => m.writeBytes pa d
  | .host pa d => m.writeBytes pa d
  | .signal _ _ _ => m

/-- Memory as the die's own agents see it: with every held write over it (R416). -/
def State.view (s : State) : Memory :=
  s.ctxs.foldl (fun m c => match c.mirror with | some x => x.held.foldl (fun m w => w.2.over m) m | none => m)
    (s.link.egress.foldl (fun m w => w.2.over m) s.mem)

/-- Bytes as an agent of the die reads them. -/
def State.readMem (s : State) (pa n : Nat) : List Byte := s.view.readBytes pa n

/-- Whether the writes of a context to an address are held until a generation commits (R416). -/
def State.holdsWrite (s : State) (ctx pa : Nat) : Bool :=
  s.die == .tsuord && !homedHere s.die pa &&
    match s.ctx? ctx with
    | some c => c.mirror.isSome
    | none => false

/-- The generation that a write joins: the open one, and the one after it once the open one's bank is written (R419). -/
def Mirror.openGeneration (m : Mirror) : Nat := m.generation + (if m.phase = .commit then 2 else 1)

/-- Adds a held write to a mirrored context. -/
def State.hold (s : State) (ctx : Nat) (w : HeldWrite) : State :=
  s.updCtx ctx fun c => { c with mirror := c.mirror.map fun m => { m with held := m.held ++ [(m.openGeneration, w)] } }

/-- What a held write takes of the egress hold buffer: the bytes of a host write, 32 for a HOSTSIG's record (R416). -/
def HeldWrite.egress : HeldWrite → Nat
  | .companion _ _ => 0
  | .host _ d => d.length
  | .signal _ _ _ => 32

/-- Bytes in the egress hold buffer (R416). -/
def State.egressBytes (s : State) : Nat :=
  s.ctxs.foldl (fun n c => match c.mirror with
    | some m => m.held.foldl (fun n w => n + w.2.egress) n
    | none => n) (s.link.egress.foldl (fun n w => n + w.2.egress) 0)

/-- Whether a write of n bytes by a context fits the egress hold buffer, when it goes there (R416). -/
def State.egressFits (s : State) (ctx pa n : Nat) : Bool :=
  !s.holdsWrite ctx pa || decide (companionBase ≤ pa) || decide (s.egressBytes + n ≤ 4194304)

/-- A write by an agent acting for a context: performed, or held (R416). -/
def State.agentWrite (s : State) (ctx pa : Nat) (bytes : List Byte) : State :=
  if s.holdsWrite ctx pa then
    s.hold ctx (if companionBase ≤ pa then .companion pa bytes else .host pa bytes)
  else s.writePhys pa bytes

/-- Whether a byte range reads as poisoned. -/
def State.poisoned (s : State) (pa n : Nat) : Bool :=
  s.unlinked pa || s.droppedRange pa n || s.poison.any fun k => decide (pa / 32 ≤ k) && decide (k ≤ (pa + n - 1) / 32)

/-- Raises an MSI-X message, or sets its pending bit while it is masked; none before ENABLE (27_host.md R433, R434, R441). -/
def State.raiseMsi (s : State) (v : Nat) : State :=
  if s.host.enable = false then s
  else if s.host.msixMask.getLsbD v then
    { s with host := { s.host with msixPending := s.host.msixPending ||| BitVec.twoPow 64 v } }
  else { s with host := { s.host with messages := s.host.messages ++ [v] } }

/-- Whether a ring whose control block is at `ring` has room for one record (21_reliability.md R372). -/
def State.ringRoom (s : State) (ring depth : Nat) : Bool :=
  decide (s.mem.readNat ring 8 < s.mem.readNat (ring + 8) 8 + depth)

/-- Appends a 32-byte record to a ring: the record, then WRIDX (R372). -/
def State.ringAppend (s : State) (ring depth : Nat) (rec : List Byte) : State :=
  let i := s.mem.readNat ring 8
  (s.writePhys (ring + 64 + 32 * (i % max 1 depth)) rec).writePhys ring (natLe 8 (i + 1))

/-- Writes an event record (R372): class, source, context when valid, AUX and the 16 bytes of DATA.  Before ENABLE it
is dropped; into a full ring it is counted in LOST.  Vector 32 follows a record written (27_host.md R433). -/
def State.logEvent (s : State) (cls src : Nat) (ctx : Option Nat) (aux : Nat) (data : List Byte) : State :=
  if s.host.enable = false then s
  else
    let ring := s.host.evring.toNat
    let depth := s.host.evdepth.toNat
    let ctxByte := match ctx with | some c => c % 64 + 64 | none => 0
    let rec_ := natLe 8 s.time.toNat ++ natLe 2 (s.pairNumber src) ++ natLe 1 cls ++ natLe 1 ctxByte ++ natLe 4 aux ++
      (data ++ natLe 16 0).take 16
    if s.ringRoom ring depth then (s.ringAppend ring depth rec_).raiseMsi 32
    else s.writePhys (ring + 16) (natLe 4 (s.mem.readNat (ring + 16) 4 + 1))

/-- DATA of a CLASS 2 or CLASS 10 record: the named word's address and the instruction word (R372). -/
def namedWordData (pc : VAddr) (w : BitVec 32) : List Byte := natLe 9 pc.toNat ++ natLe 3 0 ++ natLe 4 w.toNat

/-- The cause codes of a faulted context (R372). -/
inductive FaultCause where
  | malformedRecord
  | frameTooLarge
  | malformedFrame
  | queueState
  | bankTooSmall
  | ninthChannel
  | lossCompanion
  | lossTsuord
  deriving DecidableEq, Repr

/-- AUX of each cause (R372). -/
def FaultCause.code : FaultCause → Nat
  | .malformedRecord => 0x01
  | .frameTooLarge => 0x02
  | .malformedFrame => 0x03
  | .queueState => 0x04
  | .bankTooSmall => 0x05
  | .ninthChannel => 0x06
  | .lossCompanion => 0xD0
  | .lossTsuord => 0xD1

/-- Sets a context faulted, with its record and vector 34 (17_scheduling.md R328, 27_host.md R433). -/
def State.faultCtx (s : State) (ctx : Nat) (cause : FaultCause) (src : Nat) (data : List Byte) : State :=
  ((s.updCtx ctx fun c => { c with faulted := true }).logEvent 8 src (some ctx) cause.code data).raiseMsi 34

/-- Marks a sector poisoned, with its record once (21_reliability.md R358). -/
def State.poisonSector (s : State) (sector src : Nat) : State :=
  if s.poison.contains sector then s
  else
    let s := { s with
      poison := sector :: s.poison
      power := { s.power with poisonedCount := s.power.poisonedCount + 1 } }
    s.logEvent 6 src none 0 (natLe 16 (32 * sector))

/-- The marks of the poisoned sectors of n bytes go with a copy of them, both ends on sector boundaries (21_reliability.md R357,
R358); the link is their source. -/
def State.carryPoison (s : State) (src dst n : Nat) : State :=
  (s.poison.filter fun k => decide (src ≤ 32 * k) && decide (32 * k < src + n)).foldl
    (fun s k => s.poisonSector (k - src / 32 + dst / 32) 0x3220) s

end Sys2Proof.Machine
end

