-- ==== Sys2Proof/Machine/Walk.lean ====
section
/-!
DEFINITION. The page-table walk, the TLBs, and what an address translates to (19_faults.md R342–R344).
-/

namespace Sys2Proof.Machine

/-- The levels below level zero with the low bit of their index (R342). -/
def walkLevels : List (Nat × Nat) := [(1, 55), (2, 42), (3, 29), (4, 16)]

/-- The low bit of the page number of a leaf at a level: 4 TiB, 512 MiB or 64 KiB pages (R342). -/
def pageShift (level : Nat) : Nat := match level with | 2 => 42 | 3 => 29 | _ => 16

/-- The end of a walk: a leaf with its level and the address of its entry, or XLATE with its DETAIL and whether the
range is host-managed and the entry not malformed (R343, R347). -/
inductive Walk where
  | leaf (level entryPa leaf : Nat)
  | xlate (detail : Nat) (forward : Bool)
  deriving DecidableEq, Repr

/-- Whether an entry that does not end the walk breaks its layout (R342). -/
def nodeMalformed (e : Nat) : Bool := bitsOf e 63 52 != 0 || bitsOf e 15 1 != 0

/-- Whether a level-zero entry breaks its layout (R342). -/
def rootMalformed (e : Nat) : Bool := bitsOf e 63 52 != 0 || bitsOf e 15 5 != 0 || bitsOf e 3 1 != 0

/-- The TIER field of a leaf. -/
def leafTier (e : Nat) : Nat := bitsOf e 6 5
/-- The HOME field of a leaf. -/
def leafHome (e : Nat) : Nat := bitsOf e 8 7
/-- The KEY field of a leaf. -/
def leafKey (e : Nat) : Nat := bitsOf e 59 52
/-- The physical address in an entry. -/
def entryPage (e : Nat) : Nat := 65536 * bitsOf e 51 16

/-- Whether a leaf breaks its layout at its level (R342, R343). -/
def leafMalformed (level e : Nat) : Bool :=
  bitsOf e 63 60 != 0 || bitsOf e 15 13 != 0 || decide (level ≤ 1) || entryPage e % 2 ^ pageShift level != 0 ||
    (leafTier e != 0 && leafHome e == 3)

/-- The walk below level zero. -/
def walkFrom (m : Memory) (va : Nat) (hm : Bool) : List (Nat × Nat) → Nat → Walk
  | [], _ => .xlate 1 false
  | (level, lo) :: rest, table =>
    let pa := table + 8 * (va / 2 ^ lo % 8192)
    let e := m.readNat pa 8
    if e % 2 = 0 then .xlate 0 hm
    else if bitsOf e 1 1 = 1 then (if leafMalformed level e then .xlate 1 false else .leaf level pa e)
    else if level = 4 ∨ nodeMalformed e then .xlate 1 false
    else walkFrom m va hm rest (entryPage e)

/-- The walk of a virtual address from the PT0 entries of the context's descriptor (R342, R343). -/
def walk (m : Memory) (c : Ctx) (va : Nat) : Walk :=
  let e := m.readNat (c.dpa + 8 * (va / 2 ^ 68 % 16)) 8
  if e % 2 = 0 then .xlate 0 (bitsOf e 4 4 == 1)
  else if rootMalformed e then .xlate 1 false
  else walkFrom m va (bitsOf e 4 4 == 1) walkLevels (entryPage e)

/-- Whether a TLB entry maps an address of a context. -/
def TlbEntry.maps (t : TlbEntry) (ctx va : Nat) : Bool := t.ctx == ctx && t.vbase == va / 2 ^ pageShift t.level

/-- The entries of a TLB. -/
def tlbOf (l : List (Nat × List TlbEntry)) (n : Nat) : List TlbEntry := ((l.find? (·.1 == n)).map (·.2)).getD []

/-- Adds an entry at the end of a TLB, the oldest leaving when it is full (R344; log 10). -/
def tlbAdd (l : List (Nat × List TlbEntry)) (n size : Nat) (t : TlbEntry) : List (Nat × List TlbEntry) :=
  let old := (tlbOf l n).filter fun x => !(x.ctx == t.ctx && x.level == t.level && x.vbase == t.vbase)
  let new := old ++ [t]
  (n, new.drop (new.length - size)) :: l.filter (·.1 != n)

/-- A translation as an access finds it. -/
inductive Trans where
  | ok (pa leaf level entryPa : Nat)
  | xlate (detail : Nat) (forward : Bool)
  | stall
  deriving DecidableEq, Repr

/-- The result of a leaf: the physical address, or a stall while the page moves (R343, HOME 3). -/
def leafTrans (va level entryPa leaf : Nat) : Trans :=
  if leafHome leaf = 3 ∧ leafTier leaf = 0 then .stall
  else .ok (entryPage leaf + va % 2 ^ pageShift level) leaf level entryPa

/-- A leaf with ACCESSED set. -/
def leafAccessed (e : Nat) : Nat := if bitsOf e 12 12 = 1 then e else e + 4096

/-- The TLB entry that a core's TLB or its cluster's holds for an address. -/
def State.tlbEntry? (s : State) (core ctx va : Nat) : Option TlbEntry :=
  (tlbOf s.coreTlb core ++ tlbOf s.clusterTlb (core / 4)).find? (·.maps ctx va)

/-- What an address translates to now: no access, and nothing changes. -/
def State.lookup (s : State) (core : Nat) (c : Ctx) (va : Nat) : Trans :=
  match s.tlbEntry? core c.id va with
  | some t => leafTrans va t.level t.entryPa t.leaf.toNat
  | none =>
    match walk s.view c va with
    | .xlate d f => .xlate d f
    | .leaf level pa e => leafTrans va level pa (leafAccessed e)

/-- The physical address that an address of a context has now. -/
def State.physical (s : State) (core : Nat) (c : Ctx) (va : VAddr) : Option Nat :=
  match s.lookup core c va.toNat with
  | .ok pa _ _ _ => some pa
  | _ => none

/-- The entries that a walk below level zero reads. -/
def readsFrom (m : Memory) (va : Nat) : List (Nat × Nat) → Nat → List Nat
  | [], _ => []
  | (level, lo) :: rest, table =>
    let pa := table + 8 * (va / 2 ^ lo % 8192)
    let e := m.readNat pa 8
    pa :: if e % 2 = 0 ∨ bitsOf e 1 1 = 1 ∨ level = 4 ∨ nodeMalformed e then [] else readsFrom m va rest (entryPage e)

/-- The entries that a walk reads, each one 8-byte load of the die order (R343). -/
def walkReads (m : Memory) (c : Ctx) (va : Nat) : List Nat :=
  let pa := c.dpa + 8 * (va / 2 ^ 68 % 16)
  let e := m.readNat pa 8
  pa :: if e % 2 = 0 ∨ rootMalformed e then [] else readsFrom m va walkLevels (entryPage e)

end Sys2Proof.Machine
end

