-- ==== Sys2Proof/Machine/Owned.lean ====
section
/-!
DEFINITION. The lines that an engine's writes own from their start: the elements of a copy and the pieces of a slot, where
they lie in physical memory, and which of them are still to be written (09_memory.md R187–R190, 11_ordering.md R215,
15_cube.md R294).
-/

namespace Sys2Proof.Machine

/-- The elements of a copy (R187). -/
def CopyJob.total (j : CopyJob) : Nat := j.dims.foldl (fun a d => a * d.1) 1

/-- The offsets of element k, dimension 0 running fastest: source, destination (R187). -/
def copyOffsets : List (Nat × Int × Int) → Nat → Int × Int
  | [], _ => (0, 0)
  | (ext, ss, ds) :: rest, k =>
    let i : Int := (k % max 1 ext : Nat)
    let (a, b) := copyOffsets rest (k / max 1 ext)
    (i * ss + a, i * ds + b)

/-- The lowest and highest byte offsets of one side of a copy: lo and hi of R189. -/
def copyBox (off : Int) (esz : Nat) (dims : List (Nat × Int)) : Int × Int :=
  let d := dims.filter (·.1 != 0)
  (d.foldl (fun a x => a + min 0 (((x.1 : Int) - 1) * x.2)) off,
   d.foldl (fun a x => a + max 0 (((x.1 : Int) - 1) * x.2)) off + (2 ^ esz : Nat))

/-- The destination box of a copy as byte positions in its window. -/
def CopyJob.dstBox (j : CopyJob) : Int × Int := copyBox j.dstOff j.esz (j.dims.map fun d => (d.1, d.2.2))
/-- The source box of a copy. -/
def CopyJob.srcBox (j : CopyJob) : Int × Int := copyBox j.srcOff j.esz (j.dims.map fun d => (d.1, d.2.1))

/-- The byte position of element k in the source window. -/
def CopyJob.srcPos (j : CopyJob) (k : Nat) : Int := j.src.position (j.srcOff + (copyOffsets j.dims k).1) 0
/-- The byte position of element k in the destination window. -/
def CopyJob.dstPos (j : CopyJob) (k : Nat) : Int := j.dst.position (j.dstOff + (copyOffsets j.dims k).2) 0

/-- The 16-byte pieces of a slot's 32 lines: byte position in the window and offset in the slot (R294). -/
def slotPieces (win : AReg) (off : Int) (pitch : Nat) : List (Int × Nat) :=
  (List.range 128).map fun n => (win.position (off + (n / 4 * pitch + n % 4 * 16 : Nat)) 0, 16 * n)

/-- The context of a piece of work. -/
def State.flightCtx (s : State) (f : Flight) : Ctx := (s.ctx? f.ctx).getD Ctx.none

/-- The bytes of memory that a piece of work has still to write, piece by piece (R190, R215). -/
def State.unwritten (s : State) (f : Flight) : List (Nat × Nat) :=
  let c := s.flightCtx f
  match f.work with
  | .copy j =>
    if j.dst.has permSCR then []
    else ((List.range j.total).filter fun k => !j.done.contains k).filterMap fun k =>
      (s.physical (coreOf f.src) c (j.dst.address (j.dstPos k))).map fun pa => (pa, 2 ^ j.esz)
  | .slotStore _ win off pitch _ =>
    if win.has permSCR then []
    else (slotPieces win off pitch).filterMap fun p =>
      (s.physical (coreOf f.src) c (win.address p.1)).map fun pa => (pa, 16)
  | _ => []

/-- Where the elements of a copy's destination lie now: physical addresses in memory, offsets in the segment; none of an
element that cannot be translated (R187). -/
def State.copyDst (s : State) (f : Flight) (j : CopyJob) : List (Nat × Nat) :=
  (List.range j.total).filterMap fun k =>
    if j.dst.has permSCR then some (((j.dst.base.toNat : Int) + j.dstPos k).toNat, 2 ^ j.esz)
    else (s.physical (coreOf f.src) (s.flightCtx f) (j.dst.address (j.dstPos k))).map fun pa => (pa, 2 ^ j.esz)

/-- Whether two byte ranges share a 64-byte line. -/
def shareLine (x y : Nat × Nat) : Bool :=
  decide (x.1 / 64 ≤ (y.1 + y.2 - 1) / 64) && decide (y.1 / 64 ≤ (x.1 + x.2 - 1) / 64)

/-- Whether a piece of work owns a line of some of the ranges: it has still to write there. -/
def State.ownsOf (s : State) (f : Flight) (rs : List (Nat × Nat)) : Bool :=
  !rs.isEmpty && (s.unwritten f).any fun x => rs.any (shareLine x)

/-- The pieces of work before number n. -/
def State.before (s : State) (n : Nat) : List Flight := s.flights.takeWhile (·.id != n)

/-- Whether a piece of work owns lines that it writes. -/
def Work.owner : Work → Bool
  | .copy _ => true
  | .slotStore _ _ _ _ _ => true
  | _ => false

/-- Who makes an access: the core it translates on; the block and the span inside whose holds it stands; for an engine the
piece of work in flight that it serves; whether a CHECK hold raises SCOPE, as for a hoist's own access, or makes it wait;
whether it is the one that performs the access at all (11_ordering.md R215–R219, 21_reliability.md R365). -/
structure Who where
  core : Nat
  scope : Option (Nat × Nat)
  serves : Option Nat
  traps : Bool
  performs : Bool
  deriving DecidableEq, Repr

/-- The pieces of work whose lines an accessor has to wait for: for an engine that owns lines itself those that started before
it, so that no two wait for each other; for any other accessor all of them (R190, R215). -/
def State.ownersFor (s : State) (w : Who) : List Flight :=
  match w.serves with
  | none => s.flights
  | some n =>
    match s.flight? n with
    | some f => if f.work.owner then s.before n else s.flights.filter (·.id != n)
    | none => s.flights

/-- Whether an FRES that waits midway has still to write on a line of some ranges (R215, 23_rendering.md R401). -/
def State.outsOwn (s : State) (rs : List (Nat × Nat)) : Bool :=
  s.hoists.any fun h => h.regs.groups.any fun g => g.outs.any fun va =>
    match s.physical (coreOf h.src) (s.ctxOf h) va with
    | some pa => rs.any (shareLine (pa, 8))
    | none => false

/-- Whether an accessor serves work that owns lines itself: it started when no FRES owned them. -/
def State.servesOwner (s : State) (w : Who) : Bool :=
  match w.serves with
  | some n => s.flights.any fun f => f.id == n && f.work.owner
  | none => false

/-- Whether an accessor must wait for the write of an engine that owns a line of some ranges (R190, R215). -/
def State.owned (s : State) (w : Who) (rs : List (Nat × Nat)) : Bool :=
  w.performs && (((s.ownersFor w).any fun f => f.work.owner && s.ownsOf f rs) || (!s.servesOwner w && s.outsOwn rs))

/-- Whether the access of a walker to an entry of a page table has to wait: an engine owns its line, or a block or span holds it, to
which a walker is an outside accessor.  DESIGN CHOICE (log 41): at a CHECK hold it waits as under PIN (R215, R219, R343). -/
def State.entryWaits (s : State) (pa : Nat) : Bool :=
  s.holds.any (·.line == pa / 64) || (s.flights.any fun f => f.work.owner && s.ownsOf f [(pa, 8)]) || s.outsOwn [(pa, 8)]

/-- Whether the walk of an address has to wait. -/
def State.walkWaits (s : State) (c : Ctx) (va : Nat) : Bool :=
  !(s.holds.isEmpty && s.flights.isEmpty && s.hoists.all fun h => h.regs.groups.all (·.outs.isEmpty)) &&
    (walkReads s.view c va).any s.entryWaits

end Sys2Proof.Machine
end

