-- ==== Sys2Proof/Machine/Translate.lean ====
section
/-!
DEFINITION. Virtual addresses: translation, and the checks on the leaf found (19_faults.md R342–R344, 05_control.md R124,
09_memory.md R162, 25_docking.md R409–R411).
-/

namespace Sys2Proof.Machine

/-- What an access does to its page. -/
inductive PageUse where
  | load
  | store
  | atomic
  | mwait
  | fetch
  deriving DecidableEq, Repr

/-- Translates an address for an agent of a core: by a TLB, or by a walk, which sets ACCESSED and fills both TLBs
(R343, R344); a walk waits for the lines of its entries. -/
def State.translate (s : State) (core : Nat) (c : Ctx) (va : Nat) : Trans × State :=
  match s.tlbEntry? core c.id va with
  | some t => (leafTrans va t.level t.entryPa t.leaf.toNat, s)
  | none =>
    if s.walkWaits c va then (.stall, s)
    else match walk s.view c va with
    | .xlate d f => (.xlate d f, s)
    | .leaf level pa e =>
      let accessed := leafAccessed e
      let s := if bitsOf e 12 12 = 1 then s else s.writePhys pa (natLe 8 accessed)
      let t : TlbEntry := ⟨c.id, level, va / 2 ^ pageShift level, BitVec.ofNat 64 accessed, pa⟩
      (leafTrans va level pa accessed,
        { s with
          coreTlb := tlbAdd s.coreTlb core 2048 t
          clusterTlb := tlbAdd s.clusterTlb (core / 4) 16384 t })

/-- The translation of an address as a TLB would hold it. -/
def State.entryOf (s : State) (core : Nat) (c : Ctx) (va : VAddr) : TlbEntry :=
  match s.lookup core c va.toNat with
  | .ok _ leaf level entry => ⟨c.id, level, va.toNat / 2 ^ pageShift level, BitVec.ofNat 64 leaf, entry⟩
  | _ => ⟨c.id, 0, va.toNat / 2 ^ pageShift 0, 0, 0⟩

/-- The state with no TLB entry of the leaf at an address. -/
def State.forgetLeaf (s : State) (entryPa : Nat) : State :=
  { s with
    coreTlb := s.coreTlb.map fun x => (x.1, x.2.filter (·.entryPa != entryPa))
    clusterTlb := s.clusterTlb.map fun x => (x.1, x.2.filter (·.entryPa != entryPa)) }

/-- Sets DIRTY at a leaf's home before the first store through it; false when the OR finds V = 0 (R343), none while the entry's
line is owned or held. -/
def State.markDirty (s : State) (leaf entryPa : Nat) : Option Bool × State :=
  if bitsOf leaf 11 11 = 1 then (some true, s)
  else if s.entryWaits entryPa then (none, s)
  else
    let e := leNat (s.readMem entryPa 8)
    if e % 2 = 0 then (some false, s.forgetLeaf entryPa)
    else
      let s := if bitsOf e 11 11 = 1 then s else s.writePhys entryPa (natLe 8 (e + 2048))
      let set (t : TlbEntry) : TlbEntry :=
        if t.entryPa == entryPa then { t with leaf := t.leaf ||| 0x800#64 } else t
      (some true, { s with
        coreTlb := s.coreTlb.map fun x => (x.1, x.2.map set)
        clusterTlb := s.clusterTlb.map fun x => (x.1, x.2.map set) })

/-- What a window grants against its page: PERM.SYS and PERM.TIERREAD (03_encoding.md R51). -/
structure Rights where
  sys : Bool
  tier : Bool
  deriving DecidableEq, Repr

/-- The rights of a window. -/
def AReg.rights (a : AReg) : Rights := ⟨a.perm.getLsbD 7, a.perm.getLsbD 5⟩

/-- The page checks in their order (R124): SYS, W, ATOM, tier reads, then TIERW; class and DETAIL of the first that fails. -/
def pageCheck (leaf : Nat) (use : PageUse) (r : Rights) : Option (TrapClass × Nat) :=
  let tiered := leafTier leaf != 0
  match use with
  | .fetch => none
  | .load =>
    if bitsOf leaf 4 4 = 1 ∧ r.sys = false then some (.perm, 4)
    else if tiered && !r.tier then some (.perm, 3) else none
  | .mwait =>
    if bitsOf leaf 4 4 = 1 ∧ r.sys = false then some (.perm, 4)
    else if bitsOf leaf 3 3 = 0 then some (.perm, 2)
    else if tiered && !r.tier then some (.perm, 3) else none
  | .store =>
    if bitsOf leaf 4 4 = 1 ∧ r.sys = false then some (.perm, 4)
    else if bitsOf leaf 2 2 = 0 then some (.perm, 1)
    else if tiered then some (.tierw, 0) else none
  | .atomic =>
    if bitsOf leaf 4 4 = 1 ∧ r.sys = false then some (.perm, 4)
    else if bitsOf leaf 2 2 = 0 then some (.perm, 1)
    else if bitsOf leaf 3 3 = 0 then some (.perm, 2)
    else if tiered then some (.tierw, 0) else none

/-- Whether a use writes its page. -/
def PageUse.writes : PageUse → Bool
  | .store => true
  | .atomic => true
  | _ => false

/-- One translated and checked access of an agent: the physical address with leaf and entry, a fault, or a stall. -/
inductive Reach where
  | ok (pa leaf entryPa : Nat)
  | fault (cls : TrapClass) (detail key : Nat) (forward : Bool)
  | stall
  deriving DecidableEq, Repr

/-! ### The dock table and homes (25_docking.md R409–R411) -/

/-- A dock entry. -/
structure Dock where
  valid : Bool
  /-- It keeps the rules of R409; reserved bits are ignored (00_scope.md R5). -/
  ok : Bool
  dpa : Nat
  mpa : Nat
  bankSize : Nat
  period : Nat
  policy : Nat
  homes : Nat
  homeTab : Nat
  cmask : Nat
  deriving DecidableEq, Repr

/-- Bytes of memory as the companion sees them: without the Tsuord's held writes (R416). -/
def State.raw (s : State) (pa n : Nat) : List Byte := s.mem.readBytes pa n

/-- Dock entry c. -/
def State.dock (s : State) (c : Nat) : Dock :=
  let b := s.raw (s.link.dockTable + 64 * c) 64
  let d := field b 0 8
  let mpa := 65536 * bitsOf (field b 8 8) 51 16
  { valid := bitsOf d 0 0 == 1
    ok := field b 16 4 != 0 && field b 20 1 != 0 && field b 21 1 % 4 != 3 && decide (companionBase ≤ mpa)
    dpa := 512 * bitsOf d 51 9
    mpa := mpa
    bankSize := 65536 * field b 16 4
    period := field b 20 1
    policy := field b 21 1 % 4
    homes := field b 22 2
    homeTab := 32 * bitsOf (field b 24 8) 51 5
    cmask := field b 32 4 % 4096 }

/-- A field of 32-byte entry i of a home table (R410). -/
def State.homeField (s : State) (tab i off n : Nat) : Nat := leNat (s.mem.readBytes (tab + 32 * i + off) n)

/-- The entry of a page, VA[71:16], in a home table of n entries (R410). -/
def State.homeEntry (s : State) (tab n : Nat) (page : BitVec 56) : Option Nat :=
  (List.range n).find? fun i => s.homeField tab i 24 1 % 4 != 0 && s.homeField tab i 0 7 == page.toNat

/-- Whether a POLICY answers an access of the die that is not the home by asking for the home of a page with an entry (R411). -/
def State.policyAsks (s : State) (policy tab n : Nat) (page : BitVec 56) (use : PageUse) : Bool :=
  policy != 0 && !(policy == 1 && !use.writes) && (s.homeEntry tab n page).isSome

/-- HOMEREQ is sent. -/
def State.sendHomereq (s : State) (ctx : Nat) (page : BitVec 56) : State :=
  { s with link := { s.link with sent := s.link.sent ++ [(7, natLe 1 ctx ++ natLe 7 page.toNat)] } }

/-- Whether a request for a home waits until a context returns to IDLE (R411). -/
def Mirror.defers (m : Mirror) : Bool := m.phase == .quiesce || m.phase == .copy

/-- The Tsuord asks for the home of a page of a mirrored context.  In QUIESCE and COPY the request waits for IDLE (R411). -/
def State.tsuordWants (s : State) (c : Ctx) (m : Mirror) (page : BitVec 56) : State :=
  let waits := m.defers
  let upd (m : Mirror) (s : State) : State :=
    { s with ctxs := s.ctxs.map fun x => if x.id == c.id then { x with mirror := some m } else x }
  if m.asked.contains page || (waits && m.later.contains page) then s
  else if waits then upd { m with later := m.later ++ [page] } s
  else upd { m with asked := m.asked ++ [page], later := m.later.filter (· != page) } (s.sendHomereq c.id page)

/-- The companion asks for the home of a page of a context that runs on the Tsuord. -/
def State.companionWants (s : State) (ctx : Nat) (page : BitVec 56) : State :=
  if s.link.asked.contains (ctx, page) then s
  else { s with link := { s.link with asked := s.link.asked ++ [(ctx, page)] } }.sendHomereq ctx page

/-- An access to a page of a migrated context whose home is the other die, where the context's POLICY asks for the home: the
state with the request made, and whether the access waits for the move.  While the request waits for IDLE the page is not in
transit, and the access is performed at its home (R411; log 48). -/
def State.askHome (s : State) (c : Ctx) (va : VAddr) (pa : Nat) (use : PageUse) : Option (Bool × State) :=
  let page := va.extractLsb' 16 56
  match s.die with
  | .tsuord =>
    match c.mirror with
    | none => none
    | some m =>
      if companionBase ≤ pa ∧ s.policyAsks m.policy m.homeTab m.homes page use = true then some (!m.defers, s.tsuordWants c m page)
      else none
  | .companion =>
    if s.link.away.contains c.id && decide (pa < tsuordTop) then
      let d := s.dock c.id
      if s.policyAsks d.policy d.homeTab d.homes page use then some (true, s.companionWants c.id page) else none
    else none

/-- Whether a reach is a fault of a class. -/
def Reach.meets (x : Reach) (cls : TrapClass) : Bool := match x with | .fault c _ _ _ => c == cls | _ => false

/-- The first class in the order of R124 that some reach of a list meets: XLATE, PERM, TIERW (R334). -/
def firstClass (xs : List Reach) : Option TrapClass :=
  [TrapClass.xlate, .perm, .tierw].find? fun c => xs.any (·.meets c)

/-- Whether an address lies in a host-managed range: HM of its level-zero entry (R347). -/
def State.hostManaged (s : State) (c : Ctx) (va : Nat) : Bool :=
  bitsOf (s.view.readNat (c.dpa + 8 * (va / 2 ^ 68 % 16)) 8) 4 4 == 1

/-- The KEY of the leaf that maps an address (R338). -/
def State.keyAt (s : State) (core : Nat) (c : Ctx) (va : VAddr) : Nat :=
  match s.lookup core c va.toNat with
  | .ok _ leaf _ _ => leafKey leaf
  | _ => 0

/-- Translates an address and makes the page checks; DIRTY is not yet set. -/
def State.reach (s : State) (core : Nat) (c : Ctx) (va : VAddr) (use : PageUse) (r : Rights) : Reach × State :=
  match s.translate core c va.toNat with
  | (.stall, s) => (.stall, s)
  | (.xlate d f, s) => (.fault .xlate d 0 f, s)
  | (.ok pa leaf _ entry, s) =>
    match pageCheck leaf use r with
    | some (cls, d) => (.fault cls d (leafKey leaf) false, s)
    | none =>
      match s.askHome c va pa use with
      | some (true, s) => (.stall, s)
      | some (false, s) => (.ok pa leaf entry, s)
      | none => (.ok pa leaf entry, s)

/-- A reach with DIRTY set for a store or an atomic; XLATE when the OR finds V = 0, forwarded like any other (R343, R347); a stall
while the entry's line is owned or held. -/
def Reach.dirtied (x : Reach) (c : Ctx) (va : VAddr) (use : PageUse) (s : State) : Reach × State :=
  match x with
  | .ok pa leaf entry =>
    if use.writes then
      match s.markDirty leaf entry with
      | (some true, s) => (.ok pa leaf entry, s)
      | (some false, s) => (.fault .xlate 0 0 (s.hostManaged c va.toNat), s)
      | (none, s) => (.stall, s)
    else (.ok pa leaf entry, s)
  | x => (x, s)

end Sys2Proof.Machine
end

