-- ==== Sys2Proof/Machine/Access.lean ====
section
/-!
DEFINITION. The checks of an access through an A register, in the order of R124: the window's PERM, BOUND,
translation, the page, TIERW, then the holds of other scopes (05_control.md R123, R124, 19_faults.md R334,
11_ordering.md R217–R219), and the accesses themselves.
-/

namespace Sys2Proof.Machine

/-- How an access stands after its checks. -/
inductive Check where
  | pass (s : State) (acc : List Access)
  | trap (t : Trap) (s : State)
  /-- The page moves, or a hold refuses the access with retry: the word executes afresh. -/
  | retry (s : State)
  /-- XLATE forwarded to the host (19_faults.md R347). -/
  | forward (va : VAddr) (s : State)
  deriving Repr

/-- The lanes of a list as a mask. -/
def lanesMask (ls : List Nat) : Mask := maskOf (fun l => ls.contains l) 128

/-- Whether n bytes at byte position e lie in a window, and in the block's segment for a scratchpad window (R123,
09_memory.md R170). -/
def AReg.inBounds (a : AReg) (segSize : Nat) (e : Int) (n : Nat) : Bool :=
  decide (0 ≤ e) && decide (e + n ≤ a.extent.toNat) &&
    (!a.has permSCR || decide (a.base.toNat + e + n ≤ segSize))

/-- Whether an access is in bounds and aligned (R123, R170, R175). -/
def AReg.accessOk (a : AReg) (segSize : Nat) (align n : Nat) (e : Int) : Bool :=
  a.inBounds segSize e n && (a.base.toNat + e) % (align : Int) == 0

/-- An Ensign, a service hoist or the queue front end: outside every hold. -/
def Who.agent (core : Nat) : Who := ⟨core, none, none, false, true⟩

/-- The engine that serves a piece of work: inside the holds of its hoist's block and span (R215).  DESIGN CHOICE (log 41): an
engine that is no copy and meets a CHECK hold from outside waits as under PIN, since R219 names no instruction at which SCOPE
would then be raised. -/
def State.engine (s : State) (f : Flight) : Who :=
  ⟨coreOf f.src, (s.block? f.block).map fun b => (b.id, b.span), some f.id, false, true⟩

/-- Whether an accessor stands inside a hold. -/
def ScopeHold.admits (x : ScopeHold) (w : Who) : Bool :=
  match w.scope with
  | some (block, span) => if x.wide then x.holder == span && x.cluster == w.core / 4 else x.holder == block
  | none => false

/-- The hold of a line that refuses an accessor (11_ordering.md R219). -/
def State.outsideHold (s : State) (w : Who) (line : Nat) : Option ScopeHold :=
  if w.performs then s.holds.find? fun x => x.line == line && !x.admits w else none

/-- Whether this hoist makes the access itself: of a replicated hoist's words on memory, an atomic is performed by the
committer alone, an MWAIT by the leader, and a buffered write of another replica never leaves its buffer
(21_reliability.md R365, R366, R368). -/
def Env.performs (e : Env) (use : PageUse) : Bool :=
  !e.b.replicated ||
    match use with
    | .atomic => e.voted == some true
    | .mwait => e.leads
    | .store => e.leads && e.voted != some false
    | _ => true

/-- The issuing hoist as an accessor. -/
def Env.who (e : Env) (use : PageUse) : Who :=
  ⟨coreOf e.h.src, some (e.b.id, e.b.span), none, true, e.performs use⟩

/-- One lane's access after translation and page checks. -/
structure LaneReach where
  lane : Nat
  va : VAddr
  reach : Reach
  deriving Repr

/-- Reaches each lane's address in turn. -/
def reachLanes (core : Nat) (c : Ctx) (use : PageUse) (r : Rights) (a : AReg) :
    List (Nat × Int) → State → List LaneReach × State
  | [], s => ([], s)
  | (l, e) :: rest, s =>
    let va := a.address e
    let (x, s) := s.reach core c va use r
    let (xs, s) := reachLanes core c use r a rest s
    (⟨l, va, x⟩ :: xs, s)

/-- The lanes whose reach is a fault of a class. -/
def faultsOf (cls : TrapClass) (xs : List LaneReach) : List LaneReach := xs.filter (·.reach.meets cls)

/-- The trap of the first class in order that some lane meets: LANES marks the lanes of that class and VADDR is the first
one's (19_faults.md R334, R338).  A host-managed XLATE is forwarded instead. -/
def firstFault (perLane : Bool) (xs : List LaneReach) : Option (Trap × Bool) :=
  (firstClass (xs.map (·.reach))).bind fun cls =>
    match faultsOf cls xs with
    | [] => none
    | f :: fs =>
      match f.reach with
      | .fault c d k fwd =>
        some ({ cls := c, detail := d, key := k, va := some f.va,
                lanes := if perLane then lanesMask ((f :: fs).map (·.lane)) else 0 }, fwd)
      | _ => none

/-- DIRTY set for each lane's page; a lane whose entry has become invalid meets XLATE (R343). -/
def dirtyAll (c : Ctx) (use : PageUse) : List LaneReach → State → List LaneReach × State
  | [], s => ([], s)
  | x :: xs, s =>
    let (r, s) := x.reach.dirtied c x.va use s
    let (rest, s) := dirtyAll c use xs s
    ({ x with reach := r } :: rest, s)

/-- The XLATE of a word whose translation the host refused, in place of its walk: the lanes that cannot be translated, or
every lane when each of them can by now (19_faults.md R348; log 39). -/
def refusedTrap (perLane : Bool) (xs : List LaneReach) : Trap :=
  let bad := faultsOf .xlate xs
  let met := if bad.isEmpty then xs else bad
  { cls := .xlate, detail := 2, va := met.head?.map (·.va), lanes := if perLane then lanesMask (met.map (·.lane)) else 0 }

/-- The checks of an access of `n` bytes at each byte position through a window: `need` are the PERM bits that the
window must have, `scr` what its SCR bit must be when it matters.  `perLane` tells a lane's access from a scalar one. -/
def Env.check (e : Env) (a : AReg) (need : List Nat) (scr : Option Bool) (use : PageUse) (perLane : Bool)
    (align n : Nat) (reqs : List (Nat × Int)) : Check :=
  if !(need.all a.has) || (match scr with | some v => a.has permSCR != v | none => false) then
    .trap { cls := .perm, detail := 0, va := reqs.head?.map fun r => a.address r.2,
            lanes := if perLane then lanesMask (reqs.map (·.1)) else 0 } e.s
  else
    let out := reqs.filter fun r => !a.accessOk e.b.segSize align n r.2
    match out with
    | _ :: _ => .trap { cls := .bound, lanes := if perLane then lanesMask (out.map (·.1)) else 0 } e.s
    | [] =>
      if a.has permSCR then
        .pass e.s (reqs.map fun r => ⟨r.1, true, a.address r.2, ((a.base.toNat : Int) + r.2).toNat, n⟩)
      else if e.g.refused then
        .trap (refusedTrap perLane (reachLanes (coreOf e.h.src) e.c use a.rights a reqs e.s).1) e.s
      else
        let (xs, s) := reachLanes (coreOf e.h.src) e.c use a.rights a reqs e.s
        match firstFault perLane xs with
        | some (t, true) => .forward (t.va.getD 0) s
        | some (t, false) => .trap t s
        | none =>
          if xs.any (fun x => x.reach == .stall) then .retry s
          else
            let acc := xs.map fun x => (⟨x.lane, false, x.va, (match x.reach with | .ok pa _ _ => pa | _ => 0), n⟩ : Access)
            -- 11_ordering.md R219: an outside access waits (PIN) or raises SCOPE (CHECK)
            match acc.find? fun y => (s.outsideHold (e.who use) (y.pa / 64)).isSome with
            | some y =>
              match s.outsideHold (e.who use) (y.pa / 64) with
              | some hold =>
                if hold.mode = 1 then
                  .trap { cls := .scope, va := some y.va, key := s.keyAt (coreOf e.h.src) e.c y.va,
                          lanes := if perLane then
                              lanesMask ((acc.filter fun z => (s.outsideHold (e.who use) (z.pa / 64)).isSome).map (·.lane))
                            else 0 } s
                else .retry s
              | none => .pass s acc
            | none =>
              if use.writes && e.performs use && acc.any fun y => !s.egressFits e.c.id y.pa (n * acc.length) then .retry s
              else if use.writes then
                let (xs, s) := dirtyAll e.c use xs s
                match firstFault perLane xs with
                | some (t, true) => .forward (t.va.getD 0) s
                | some (t, false) => .trap t s
                | none => if xs.any (fun x => x.reach == .stall) then .retry s else .pass s acc
              else .pass s acc

/-- A byte-counting barrier's fields: PHASE, EXPB, ARRB (R199). -/
structure ByteBar where
  phase : Nat
  expb : Nat
  arrb : Nat
  deriving DecidableEq, Repr

/-- The barrier that 16 bytes hold. -/
def byteBarOf (b : List Byte) : ByteBar :=
  let v := leNat b
  ⟨bitsOf v 127 96, bitsOf v 95 48, bitsOf v 47 0⟩

/-- The 16 bytes of a barrier.  DESIGN CHOICE (log 61): the manual gives ARRB no limit; a sum beyond its 48 bits is compared with
EXPB whole and stored modulo 2^48. -/
def ByteBar.bytes (b : ByteBar) : List Byte :=
  natLe 16 (b.phase % 2 ^ 32 * 2 ^ 96 + b.expb % 2 ^ 48 * 2 ^ 48 + b.arrb % 2 ^ 48)

/-- A phase completes when the arrived bytes reach the expected ones (R200). -/
def ByteBar.settle (b : ByteBar) : ByteBar :=
  if b.expb ≤ b.arrb then ⟨(b.phase + 1) % 2 ^ 32, 0, b.arrb - b.expb⟩ else b

/-- The barrier after a BCARR of n bytes (R200). -/
def ByteBar.arm (b : ByteBar) (n : Nat) : ByteBar := ByteBar.settle { b with expb := b.expb + n }

/-- n bytes arrive: an armed phase may complete (R201). -/
def ByteBar.arrive (b : ByteBar) (n : Nat) : ByteBar :=
  let b := { b with arrb := b.arrb + n }
  if b.expb = 0 then b else b.settle

/-- The bytes that a buffered write puts over a memory: a BCARR updates what the barrier then holds (09_memory.md R199). -/
def BufferedWrite.bytes (m : Memory) (w : BufferedWrite) : List Byte :=
  match w.arm with
  | some n => ((byteBarOf (m.readBytes w.pa 16)).arm n).bytes
  | none => w.data

/-- The bytes that a hoist's own buffered writes put over memory (21_reliability.md R365). -/
def overBuffer (m : Memory) (ws : List BufferedWrite) : Memory := ws.foldl (fun m w => m.writeBytes w.pa (w.bytes m)) m

/-- The bytes of an access as a hoist reads them: scratchpad, or memory under its own write buffer. -/
def State.readAccess (s : State) (src block : Nat) (x : Access) : List Byte :=
  if x.scr then
    match s.block? block with
    | some b => b.scratch.readBytes x.pa x.n
    | none => natLe x.n 0
  else
    match s.hoist? src with
    | some h => (overBuffer s.view h.wbuf).readBytes x.pa x.n
    | none => s.readMem x.pa x.n

/-- Writes bytes into a block's segment; poison of words written whole is cleared. -/
def State.writeScratch (s : State) (block off : Nat) (bytes : List Byte) : State :=
  s.updBlock block fun b => { b with
    scratch := b.scratch.writeBytes off bytes
    poison := b.poison.filter fun k => !(decide (off ≤ 4 * k) && decide (4 * k + 4 ≤ off + bytes.length)) }

/-- A hoist that posts a write in its context's open generation. -/
def State.posts (s : State) (ctx : Nat) (companion : Bool) (h : Hoist) : Hoist :=
  match (s.ctx? ctx).bind (·.mirror) with
  | some m => if companion then { h with posted := m.openGeneration } else { h with postedHost := m.openGeneration }
  | none => h

/-- A hoist's memory write takes its place in the die order: posted while its generation is open (11_ordering.md R222,
25_docking.md R416). -/
def State.writeShared (s : State) (src ctx pa : Nat) (bytes : List Byte) : State :=
  let s := if s.holdsWrite ctx pa then s.updHoist src (s.posts ctx (decide (companionBase ≤ pa))) else s
  s.agentWrite ctx pa bytes

/-- Performs a write of an access for a hoist: its segment, its write buffer when it is a replica's memory write, or
memory (21_reliability.md R365). -/
def State.writeAccess (s : State) (src block ctx : Nat) (x : Access) (bytes : List Byte) : State :=
  if x.scr then s.writeScratch block x.pa bytes
  else
    match s.block? block with
    | some b =>
      if b.replicated then s.updHoist src fun h => { h with wbuf := h.wbuf ++ [⟨x.va, x.pa, bytes, h.wbuf.length, none⟩] }
      else s.writeShared src ctx x.pa bytes
    | none => s.writeShared src ctx x.pa bytes

/-- Whether a byte lies in some ranges. -/
def overlaps (rs : List (Nat × Nat)) (at_ : Nat) : Bool := rs.any fun r => decide (r.1 ≤ at_) && decide (at_ < r.1 + r.2)

/-- Sectors all of whose bytes one store has written are no longer poisoned (21_reliability.md R358). -/
def State.unpoison (s : State) (rs : List (Nat × Nat)) : State :=
  if s.poison.isEmpty then s
  else { s with poison := s.poison.filter fun k => !((List.range 32).all fun i => overlaps rs (32 * k + i)) }

/-- Whether an access reads a poisoned sector, or a poisoned word of the segment (R358). -/
def State.accessPoisoned (s : State) (block : Nat) (x : Access) : Bool :=
  if x.scr then
    match s.block? block with
    | some b => b.poison.any fun k => decide (x.pa / 4 ≤ k) && decide (k ≤ (x.pa + x.n - 1) / 4)
    | none => false
  else s.poisoned x.pa x.n

end Sys2Proof.Machine
end

