-- ==== Sys2Proof/Machine/Death.lean ====
section
/-!
DEFINITION. Lanes and hoists that leave: barriers re-evaluated, lane death, a hoist lost (09_memory.md R196,
21_reliability.md R359–R361, 19_faults.md R336), and the groups that remain.
-/

namespace Sys2Proof.Machine

/-- A barrier whose open phase completes (R196). -/
def Bar.complete (b : Bar) : Bar := { phase := b.phase + 1, target := 0, arrived := 0 }

/-- Whether a lane counts at barriers: not dead, its slice not exited (R196). -/
def Hoist.counts (h : Hoist) (l : Nat) : Bool :=
  decide (l < h.width) && !h.regs.dead.getLsbD l &&
    match h.regs.slices[l / 4]? with | some x => !x.exited | none => false

/-- The counting lanes of hoists as bits h × W + l. -/
def countingBits (hs : List Hoist) : Nat :=
  hs.foldl (fun a h => (List.range h.width).foldl
    (fun a l => if h.counts l then a ||| 2 ^ (h.index * h.width + l) else a) a) 0

/-- The number of one bits among the first `n`. -/
def popNat : Nat → Nat → Nat
  | 0, _ => 0
  | n + 1, v => v % 2 + popNat n (v / 2)

/-- Whether an open phase completes: every counting lane, or at least the target of them, has arrived (R196). -/
def phaseDone (target arrived counting : Nat) : Bool :=
  let got := arrived &&& counting
  if target = 0 then counting != 0 && got == counting else decide (target ≤ popNat 1024 got)

/-- Completes the block barriers of a block that are complete now. -/
def State.evalBlockBars (s : State) (id : Nat) : State :=
  let counting := countingBits (s.hoistsOf id)
  s.updBlock id fun b => { b with
    bars := b.bars.mapIdx fun n x =>
      if decide (n < 16) && x.arrived != 0 && phaseDone x.target.toNat x.arrived counting then x.complete else x }

/-- The blocks of one span. -/
def State.spanBlocks (s : State) (span : Nat) : List Block := s.blocks.filter (·.span == span)

/-- The target of an open phase: the one its first arrival fixed. -/
def openTarget : List Bar → Word
  | [] => 0
  | b :: bs => if b.arrived != 0 then b.target else openTarget bs

/-- Completes the span barrier of a span when it is complete now: the counting lanes of all its blocks (R196). -/
def State.evalSpanBar (s : State) (span : Nat) : State :=
  let bs := s.spanBlocks span
  let bars := bs.map fun b => b.bars[16]?.getD ⟨0, 0, 0⟩
  let counting := bs.map fun b => countingBits (s.hoistsOf b.id)
  let target := (openTarget bars).toNat
  let all := counting.any (· != 0) && (List.zip bars counting).all fun p => p.1.arrived &&& p.2 == p.2
  let got := (List.zip bars counting).foldl (fun a p => a + popNat 1024 (p.1.arrived &&& p.2)) 0
  if bars.any (·.arrived != 0) && (if target = 0 then all else decide (target ≤ got)) then
    { s with blocks := s.blocks.map fun b =>
        if b.span == span then { b with bars := b.bars.mapIdx fun n x => if n = 16 then x.complete else x } else b }
  else s

/-- Re-evaluates every barrier of a block and its span's barrier. -/
def State.evalBars (s : State) (id : Nat) : State :=
  let s := s.evalBlockBars id
  match s.block? id with
  | some b => s.evalSpanBar b.span
  | none => s

/-- Drops the groups that no slice belongs to any more. -/
def Hoist.prune (h : Hoist) : Hoist :=
  { h with regs := { h.regs with groups := h.regs.groups.filter fun g => h.groupSlices g.id != [] } }

/-- Whether every slice of a hoist is absent. -/
def Hoist.gone (h : Hoist) : Bool := (List.range h.regs.slices.length).all h.absent

/-- A hoist whose every slice has exited: no group, no stack, depth 0 (05_control.md R110, 19_faults.md R336). -/
def Hoist.exitAll (h : Hoist) : Hoist :=
  { h with
    regs := { h.regs with
      slices := h.regs.slices.map fun x => { x with exited := true, stack := [] }
      groups := []
      depth := 0 }
    holds := []
    offer := none
    rmis := none }

/-- A hoist is lost: it retires as if every slice had exited, with its record (R336, R361).  `aux` is the trap class
or 0xFF. -/
def State.loseHoist (s : State) (src aux : Nat) (named : List Byte) : State :=
  match s.hoist? src with
  | none => s
  | some h =>
    let ctx := (s.block? h.block).map (·.ctx)
    let s := s.putHoist h.exitAll
    let s := { s with monitors := s.monitors.filter fun m => m.src != src || m.parked.isSome }
    (s.logEvent 2 src ctx aux named).evalBars h.block

/-- Lanes of a hoist die: their %dead bits are set and their EXEC bits cleared, each with its record; slices all of
whose lanes are dead become absent, and barriers stop counting them (R359, R92, R196).  A hoist all of whose lanes are
dead is lost.  Each lane comes with the address that it read; `named` is the word whose execution met the error. -/
def State.killLanes (s : State) (src : Nat) (lanes : List (Nat × Nat)) (named : List Byte) : State :=
  match s.hoist? src with
  | none => s
  | some h =>
    let ls := lanes.filter fun l => decide (l.1 < h.width) && !h.regs.dead.getLsbD l.1
    if ls = [] then s
    else
      let m := maskOf (fun l => ls.any (·.1 == l)) h.width
      let h' := { h with regs := { h.regs with dead := h.regs.dead ||| m, exec := h.regs.exec &&& ~~~m } }
      let s := s.putHoist h'.prune
      let ctx := (s.block? h.block).map (·.ctx)
      let s := ls.foldl (fun s l => s.logEvent 1 src ctx l.1 (natLe 16 l.2)) s
      let s := s.evalBars h.block
      if (List.range h.width).all h'.regs.dead.getLsbD then s.loseHoist src 0xFF named else s

end Sys2Proof.Machine
end

