-- ==== Sys2Proof/Machine/Queue.lean ====
section
/-!
DEFINITION. Ranges of virtual memory, queue control words, queues and byte-counting barriers (09_memory.md R199–R207,
17_scheduling.md R306, R309, R310).
-/

namespace Sys2Proof.Machine

/-- A fault of a virtual range: class, DETAIL, KEY, address, and whether it is forwarded to the host. -/
structure RangeFault where
  cls : TrapClass
  detail : Nat
  key : Nat
  va : VAddr
  forward : Bool
  stall : Bool
  deriving DecidableEq, Repr

/-- A virtual range as physical runs, each within one 64 KiB unit: address and length. -/
abbrev Runs := List (Nat × Nat)

/-- One 64 KiB unit's part of a range: its address, its bytes, and how it is reached. -/
structure UnitReach where
  va : VAddr
  n : Nat
  reach : Reach
  deriving DecidableEq, Repr

/-- A unit that TIERW alone refuses is reached when the accessor may write a tier page (R162). -/
def State.reachTier (s : State) (core : Nat) (c : Ctx) (va : VAddr) (ignoreTierW : Bool) (x : Reach) : Reach :=
  if ignoreTierW && x.meets .tierw then
    match s.lookup core c va.toNat with
    | .ok pa leaf _ entry => .ok pa leaf entry
    | _ => x
  else x

/-- Translates and checks a range unit by unit; `fuel` bounds the units. -/
def State.reachUnits (core : Nat) (c : Ctx) (use : PageUse) (r : Rights) (ignoreTierW : Bool) :
    Nat → VAddr → Nat → State → List UnitReach × State
  | 0, _, _, s => ([], s)
  | fuel + 1, va, n, s =>
    if n = 0 then ([], s)
    else
      let k := min n (65536 - va.toNat % 65536)
      let (x, s) := s.reach core c va use r
      let (xs, s') := State.reachUnits core c use r ignoreTierW fuel (va + BitVec.ofNat 72 k) (n - k) s
      (⟨va, k, s.reachTier core c va ignoreTierW x⟩ :: xs, s')

/-- DIRTY set for each unit. -/
def dirtyUnits (c : Ctx) (use : PageUse) : List UnitReach → State → List UnitReach × State
  | [], s => ([], s)
  | x :: xs, s =>
    let (r, s) := x.reach.dirtied c x.va use s
    let (rest, s) := dirtyUnits c use xs s
    ({ x with reach := r } :: rest, s)

/-- The fault of a range: the first class in order that some unit meets, at the first unit that meets it (R124, R334);
then a page that moves. -/
def unitsFault (xs : List UnitReach) : Option RangeFault :=
  match firstClass (xs.map (·.reach)) with
  | some cls => (xs.find? (·.reach.meets cls)).bind fun x => match x.reach with
      | .fault c d k f => some ⟨c, d, k, x.va, f, false⟩
      | _ => none
  | none => (xs.find? (·.reach == .stall)).map fun x => ⟨.xlate, 0, 0, x.va, false, true⟩

/-- The runs of units that are reached. -/
def unitRuns (xs : List UnitReach) : Runs :=
  xs.filterMap fun x => match x.reach with | .ok pa _ _ => some (pa, x.n) | _ => none

/-- The hold that refuses some line of some runs to an accessor (11_ordering.md R219). -/
def State.runsOutside (s : State) (w : Who) (rs : Runs) : Option ScopeHold :=
  if s.holds.isEmpty then none
  else rs.findSome? fun r => (List.range (r.2 / 64 + 2)).findSome? fun k =>
    if 64 * (r.1 / 64 + k) < r.1 + r.2 then s.outsideHold w (r.1 / 64 + k) else none

/-- What follows the translation of units for an accessor: the page checks; then the holds of other scopes, the writes of
engines that own their lines, and the room for held writes, which it waits for; DIRTY is set last (R124, R190, R215, R219,
25_docking.md R416). -/
def State.checkUnits (w : Who) (c : Ctx) (use : PageUse) (va : VAddr) (xs : List UnitReach) (s : State) :
    Except RangeFault Runs × State :=
  let wait : RangeFault := ⟨.xlate, 0, 0, va, false, true⟩
  match unitsFault xs with
  | some f => (.error f, s)
  | none =>
    match s.runsOutside w (unitRuns xs) with
    | some hold =>
      (.error (if hold.mode = 1 ∧ w.traps = true then ⟨.scope, 0, s.keyAt w.core c va, va, false, false⟩ else wait), s)
    | none =>
      if s.owned w (unitRuns xs) || (use.writes && (unitRuns xs).any fun x => !s.egressFits c.id x.1 x.2) then (.error wait, s)
      else
        let (xs, s) := dirtyUnits c use xs s
        match unitsFault xs with
        | some f => (.error f, s)
        | none => (.ok (unitRuns xs), s)

/-- Something done with the work in view alone whose lines an accessor has to wait for: an engine does not wait for itself. -/
def State.seenBy {α : Type} (w : Who) (f : State → α × State) (s : State) : α × State :=
  match w.serves with
  | none => f s
  | some _ =>
    let (x, t) := f { s with flights := s.ownersFor w }
    (x, { t with flights := s.flights })

/-- Translates and checks a range for an accessor: every unit is translated before any page is checked. -/
def State.reachRange (w : Who) (c : Ctx) (use : PageUse) (r : Rights) (ignoreTierW : Bool) (fuel : Nat) (va : VAddr)
    (n : Nat) (s : State) : Except RangeFault Runs × State :=
  s.seenBy w fun s =>
    let (xs, s) := State.reachUnits w.core c use r ignoreTierW fuel va n s
    s.checkUnits w c use va xs

/-- Units that a range of n bytes can touch. -/
def unitsOf (n : Nat) : Nat := n / 65536 + 2

/-- The range at an address. -/
def State.range (s : State) (w : Who) (c : Ctx) (use : PageUse) (r : Rights) (va : VAddr) (n : Nat) :
    Except RangeFault Runs × State := State.reachRange w c use r false (unitsOf n) va n s

/-- The bytes of runs. -/
def State.readRuns (s : State) (rs : Runs) : List Byte := rs.flatMap fun r => s.readMem r.1 r.2

/-- Writes bytes over runs for a context. -/
def State.writeRuns (s : State) (ctx : Nat) : Runs → List Byte → State
  | [], _ => s
  | (pa, n) :: rest, bs => State.writeRuns (s.agentWrite ctx pa (bs.take n)) ctx rest (bs.drop n)

/-- Whether a run touches a poisoned sector. -/
def State.runsPoisoned (s : State) (rs : Runs) : Bool := rs.any fun r => s.poisoned r.1 r.2

/-- The rights of a handler or of an agent: SYS pages and tiers are open to it (R79). -/
def allRights : Rights := ⟨true, true⟩

/-- A queue control word (R203). -/
structure QueueWord where
  kind : Nat
  esz : Nat
  log2d : Nat
  off : Nat
  resOk : Bool
  deriving DecidableEq, Repr

/-- The fields of a control word. -/
def queueWord (w : BitVec 64) : QueueWord :=
  let v := w.toNat
  ⟨bitsOf v 63 62, bitsOf v 60 58, bitsOf v 57 53, bitsOf v 47 0, bitsOf v 61 61 == 0 && bitsOf v 52 48 == 0⟩

/-- Element bytes. -/
def QueueWord.size (q : QueueWord) : Nat := 2 ^ (q.esz + 2)
/-- Depth. -/
def QueueWord.depth (q : QueueWord) : Nat := 2 ^ q.log2d
/-- Bytes from the header to the end of the ring (R203). -/
def QueueWord.area (q : QueueWord) : Nat := 64 + q.depth * q.size

/-- Whether a control word is valid for a window (R203). -/
def QueueWord.valid (q : QueueWord) (scr : Bool) : Bool :=
  q.resOk && decide (q.kind ≤ 1) && (q.kind == 0) == scr && q.esz != 7 && decide (1 ≤ q.log2d) &&
    decide (q.log2d ≤ 16) && q.off % 64 == 0

/-- Elements held, modulo 2^32 (R204). -/
def queueCount (head tail : Nat) : Nat := (tail + 2 ^ 32 - head % 2 ^ 32) % 2 ^ 32

/-- The byte offset of an element from the header (R204). -/
def QueueWord.elemOff (q : QueueWord) (i : Nat) : Nat := 64 + i % q.depth * q.size

/-- A queue reached by an agent: in a block's segment at an offset, or in a context's memory at an address. -/
inductive QueuePlace where
  | scratch (block off : Nat)
  | memory (w : Who) (c : Ctx) (va : VAddr) (r : Rights)
  deriving Repr

/-- What stands in the DETAIL of a range fault that is a poisoned sector and no trap (21_reliability.md R358). -/
def poisonDetail : Nat := 0xFF

/-- Whether a word of a block's segment among n bytes holds an uncorrectable error. -/
def Block.spoiled (b : Block) (off n : Nat) : Bool :=
  b.poison.any fun k => decide (off / 4 ≤ k) && decide (k ≤ (off + n - 1) / 4)

/-- Reads n bytes at an offset from a queue's header.  A header's word in error is met as a poisoned sector is; an element's is
read for its lane alone (21_reliability.md R359). -/
def State.queueRead (s : State) (p : QueuePlace) (off n : Nat) (use : PageUse := .atomic) : Except RangeFault (List Byte) × State :=
  match p with
  | .scratch b base =>
    let x := (s.block? b).getD Block.none
    if decide (off < 64) && x.spoiled (base + off) n then (.error ⟨.xlate, poisonDetail, 0, 0, false, false⟩, s)
    else (.ok (x.scratch.readBytes (base + off) n), s)
  | .memory w c va r =>
    match s.range w c use r (va + BitVec.ofNat 72 off) n with
    | (.ok rs, s) =>
      if s.runsPoisoned rs then (.error ⟨.xlate, poisonDetail, 0, va, false, false⟩, s) else (.ok (s.readRuns rs), s)
    | (.error f, s) => (.error f, s)

/-- Writes bytes at an offset from a queue's header. -/
def State.queueWrite (s : State) (p : QueuePlace) (off : Nat) (bs : List Byte) (use : PageUse := .atomic) : Except RangeFault State :=
  match p with
  | .scratch b base => .ok (s.writeScratch b (base + off) bs)
  | .memory w c va r =>
    match s.range w c use r (va + BitVec.ofNat 72 off) bs.length with
    | (.ok rs, s) => .ok (s.writeRuns c.id rs bs)
    | (.error f, _) => .error f

/-- Wakes the monitors on a queue's header line: its count has changed (R207). -/
def State.wakeQueue (s : State) (p : QueuePlace) : State :=
  match p with
  | .scratch _ _ => s
  | .memory w c va r =>
    match s.range w c .load r va 64 with
    | (.ok ((pa, _) :: _), s) => s.wakeWhere fun m => m.pa / 64 == pa / 64 && m.cond == .changed
    | (_, s) => s

/-- HEAD and TAIL of a queue, once its header is translated: which elements an operation reaches depends on them. -/
def State.queueEnds (s : State) (p : QueuePlace) : Except RangeFault (Nat × Nat) × State :=
  match p with
  | .scratch _ _ =>
    match s.queueRead p 0 8 with
    | (.ok b, s) => (.ok (leNat (b.take 4), leNat (b.drop 4)), s)
    | (.error f, s) => (.error f, s)
  | .memory w c va r =>
    match s.reach w.core c va .load r with
    | (.stall, s) => (.error ⟨.xlate, 0, 0, va, false, true⟩, s)
    | (.fault .xlate d k f, s) => (.error ⟨.xlate, d, k, va, f, false⟩, s)
    | (_, s) =>
      let b := s.readMem ((s.physical w.core c va).getD 0) 8
      (.ok (leNat (b.take 4), leNat (b.drop 4)), s)

/-- The parts of a queue that an operation reaches: its header, and k elements from index i up. -/
def QueueWord.parts (q : QueueWord) (i k : Nat) : List (Nat × Nat) :=
  (0, 8) :: (List.range k).map fun j => (q.elemOff (i + j), q.size)

/-- Translates and checks every part of a queue that an operation reaches before it has any effect: translation faults
come first, whichever part meets them (R207). -/
def State.queueReach (s : State) (p : QueuePlace) (use : PageUse) (parts : List (Nat × Nat)) : Except RangeFault Runs × State :=
  match p with
  | .scratch _ _ => (.ok [], s)
  | .memory w c va r =>
    let (xs, s) := parts.foldl (fun (x : List UnitReach × State) part =>
      let (ys, s) := State.reachUnits w.core c use r false (unitsOf part.2) (va + BitVec.ofNat 72 part.1) part.2 x.2
      (x.1 ++ ys, s)) ([], s)
    s.checkUnits w c use va xs

/-- Writes elements at successive positions. -/
def State.queuePut (p : QueuePlace) (q : QueueWord) (use : PageUse) : Nat → List (List Byte) → State → Except RangeFault State
  | _, [], s => .ok s
  | i, x :: xs, s =>
    match s.queueWrite p (q.elemOff i) x use with
    | .ok s => State.queuePut p q use (i + 1) xs s
    | .error f => .error f

/-- Pushes as many of the elements as fit, in order: the number pushed and the state, or the fault with no effect (R207).  A
header in a poisoned sector is met as it is read (21_reliability.md R358). -/
def State.queuePush (s : State) (p : QueuePlace) (q : QueueWord) (xs : List (List Byte)) (use : PageUse := .atomic) :
    Except RangeFault (Nat × State) :=
  match s.queueEnds p with
  | (.error f, _) => .error f
  | (.ok (head, tail), s) =>
    let k := min xs.length (q.depth - queueCount head tail)
    match s.queueReach p use (q.parts tail k) with
    | (.error f, _) => .error f
    | (.ok _, s) =>
      match s.queueRead p 0 8 use with
      | (.error f, _) => .error f
      | (.ok _, s) =>
        if k = 0 then .ok (0, s)
        else
          match State.queuePut p q use tail (xs.take k) s with
          | .error f => .error f
          | .ok s' =>
            match s'.queueWrite p 4 (natLe 4 (tail + k)) use with
            | .error f => .error f
            | .ok s'' => .ok (k, s''.wakeQueue p)

/-- Reads elements at successive positions. -/
def State.queueGet (p : QueuePlace) (q : QueueWord) : Nat → Nat → State → Except RangeFault (List (List Byte)) × State
  | _, 0, s => (.ok [], s)
  | i, k + 1, s =>
    match s.queueRead p (q.elemOff i) q.size with
    | (.error f, s) => (.error f, s)
    | (.ok x, s) =>
      match State.queueGet p q (i + 1) k s with
      | (.ok xs, s) => (.ok (x :: xs), s)
      | (.error f, s) => (.error f, s)

/-- Pops up to n elements: the elements and the state, or the fault with no effect (R207). -/
def State.queuePop (s : State) (p : QueuePlace) (q : QueueWord) (n : Nat) :
    Except RangeFault (List (List Byte) × State) :=
  match s.queueEnds p with
  | (.error f, _) => .error f
  | (.ok (head, tail), s) =>
    let k := min n (queueCount head tail)
    match s.queueReach p .atomic (q.parts head k) with
    | (.error f, _) => .error f
    | (.ok _, s) =>
      match s.queueRead p 0 8 with
      | (.error f, _) => .error f
      | (.ok _, s) =>
        if k = 0 then .ok ([], s)
        else
          match State.queueGet p q head k s with
          | (.error f, _) => .error f
          | (.ok xs, s) =>
            match s.queueWrite p 0 (natLe 4 (head + k)) with
            | .error f => .error f
            | .ok s => .ok (xs, s.wakeQueue p)

/-- An entry of a context's QTAB: the queue and its header, when present (17_scheduling.md R306).  The descriptor is
read where the context table placed it.  R306 names only an entry of zeros absent; an entry whose control word breaks R203
is taken as absent too, and one whose OFF is not 0 or whose ESZ is not that of its role is used as it stands, with OFF ignored
(DESIGN CHOICE, log 40). -/
def State.ctxQueue (s : State) (core : Nat) (c : Ctx) (q : Nat) : Option (QueuePlace × QueueWord) :=
  let e := c.dpa + 256 + 16 * q
  let w := queueWord (BitVec.ofNat 64 (leNat (s.readMem e 8)))
  let a := leNat (s.readMem (e + 8) 8)
  if leNat (s.readMem e 16) = 0 ∨ w.valid false = false then none
  else some (.memory (.agent core) c (BitVec.ofNat 72 (256 * a)) allRights, w)

end Sys2Proof.Machine
end

