-- ==== Sys2Proof/Machine/RayMath.lean ====
section
/-!
DEFINITION. Exact rays, boxes and triangles (23_rendering.md R376–R380): every FP32 number is an integer multiple of
2^(−149), so that boxes and triangles are decided by integer arithmetic without rounding.
-/

namespace Sys2Proof.Machine

/-- A finite FP32 pattern as an integer count of 2^(−149); none for a NaN or an infinity. -/
def fpUnits (w : Nat) : Option Int :=
  match fp32.decode w with
  | .num n m e => let k : Nat := m * 2 ^ (e + 149).toNat; some (if n then -(k : Int) else k)
  | _ => none

/-- A point or direction in units of 2^(−149). -/
structure V3 where
  x : Int
  y : Int
  z : Int
  deriving DecidableEq, Repr

/-- Difference. -/
def V3.sub (a b : V3) : V3 := ⟨a.x - b.x, a.y - b.y, a.z - b.z⟩
/-- Sum. -/
def V3.add (a b : V3) : V3 := ⟨a.x + b.x, a.y + b.y, a.z + b.z⟩
/-- Multiple. -/
def V3.times (k : Int) (a : V3) : V3 := ⟨k * a.x, k * a.y, k * a.z⟩
/-- Dot product. -/
def V3.dot (a b : V3) : Int := a.x * b.x + a.y * b.y + a.z * b.z
/-- Cross product. -/
def V3.cross (a b : V3) : V3 := ⟨a.y * b.z - a.z * b.y, a.z * b.x - a.x * b.z, a.x * b.y - a.y * b.x⟩

/-- Three FP32 patterns as a point. -/
def v3Of (x y z : Nat) : Option V3 :=
  match fpUnits x, fpUnits y, fpUnits z with
  | some a, some b, some c => some ⟨a, b, c⟩
  | _, _, _ => none

/-- A bound of a range over the extended reals, in units of 2^(−149). -/
inductive Bound where
  | negInf
  | at_ (v : Int)
  | posInf
  deriving DecidableEq, Repr

/-- A bound from an FP32 pattern; none for a NaN. -/
def boundOf (w : Nat) : Option Bound :=
  match fp32.decode w with
  | .nan _ => none
  | .inf n => some (if n then .negInf else .posInf)
  | .num _ _ _ => (fpUnits w).map .at_

/-- A ray whose components are exact and finite (R379). -/
structure ERay where
  o : V3
  d : V3
  tmin : Bound
  tmax : Bound
  deriving DecidableEq, Repr

/-- A ray from eight FP32 patterns; none when it meets nothing for a NaN or an infinite component (R379). -/
def rayOf (w : List Nat) : Option ERay :=
  match v3Of (w.getD 0 0) (w.getD 1 0) (w.getD 2 0), v3Of (w.getD 3 0) (w.getD 4 0) (w.getD 5 0),
      boundOf (w.getD 6 0), boundOf (w.getD 7 0) with
  | some o, some d, some a, some b => some ⟨o, d, a, b⟩
  | _, _, _, _ => none

/-- A rational with a positive denominator. -/
structure Rat2 where
  num : Int
  den : Nat
  deriving DecidableEq, Repr

/-- a ≤ b. -/
def Rat2.le (a b : Rat2) : Bool := decide (a.num * b.den ≤ b.num * a.den)

/-- n / d for a nonzero d. -/
def ratOf (n d : Int) : Rat2 := if d < 0 then ⟨-n, d.natAbs⟩ else ⟨n, d.natAbs⟩

/-- A range bound in units of 2^(−149) as a rational. -/
def unitRat (v : Int) : Rat2 := ⟨v, 2 ^ 149⟩

/-- The lower and upper bounds that one axis puts on t, or none when the axis excludes every t. -/
def slab (o d lo hi : Int) : Option (List Rat2 × List Rat2) :=
  if d = 0 then (if lo ≤ o ∧ o ≤ hi then some ([], []) else none)
  else if 0 < d then some ([ratOf (lo - o) d], [ratOf (hi - o) d])
  else some ([ratOf (hi - o) d], [ratOf (lo - o) d])

/-- The bounds of the ray's own range: none when no finite t lies in it. -/
def rangeBounds (r : ERay) : Option (List Rat2 × List Rat2) :=
  match r.tmin, r.tmax with
  | .posInf, _ => none
  | _, .negInf => none
  | .negInf, .posInf => some ([], [])
  | .negInf, .at_ b => some ([], [unitRat b])
  | .at_ a, .posInf => some ([unitRat a], [])
  | .at_ a, .at_ b => some ([unitRat a], [unitRat b])

/-- Whether every lower bound is at most every upper bound: then some real t satisfies them all. -/
def boundsMeet (lows highs : List Rat2) : Bool := lows.all fun a => highs.all fun b => a.le b

/-- Whether a ray meets a closed box (R379). -/
def ERay.meets (r : ERay) (lo hi : V3) : Bool :=
  match slab r.o.x r.d.x lo.x hi.x, slab r.o.y r.d.y lo.y hi.y, slab r.o.z r.d.z lo.z hi.z, rangeBounds r with
  | some a, some b, some c, some t => boundsMeet (a.1 ++ b.1 ++ c.1 ++ t.1) (a.2 ++ b.2 ++ c.2 ++ t.2)
  | _, _, _, _ => false

/-- A hit: t, u and v as rationals over one denominator, the face, the primitive and the leaf. -/
structure Hit where
  t : Rat2
  u : Rat2
  v : Rat2
  back : Bool
  prim : Nat
  node : Nat
  deriving DecidableEq, Repr

/-- t within the ray's range. -/
def ERay.inRange (r : ERay) (t : Rat2) : Bool :=
  (match r.tmin with | .negInf => true | .posInf => false | .at_ a => (unitRat a).le t) &&
    (match r.tmax with | .posInf => true | .negInf => false | .at_ b => t.le (unitRat b))

/-- The exact hit of a ray and a triangle (R380). -/
def ERay.hits (r : ERay) (v0 v1 v2 : V3) (prim node : Nat) : Option Hit :=
  let e1 := v1.sub v0
  let e2 := v2.sub v0
  let n := e1.cross e2
  let side := r.d.dot n
  if side = 0 then none
  else
    let det := -side
    let w := r.o.sub v0
    let back : V3 := V3.times (-1) r.d
    let t := ratOf (w.dot n) det
    let u := ratOf (back.dot (w.cross e2)) det
    let v := ratOf (back.dot (e1.cross w)) det
    if 0 ≤ u.num ∧ 0 ≤ v.num ∧ u.num + v.num ≤ u.den ∧ r.inRange t = true then
      some ⟨t, u, v, decide (0 < side), prim, node⟩
    else none

/-- Whether a hit comes before another: smaller t, then lower PRIM, then lower node index (R380). -/
def Hit.before (a b : Hit) : Bool :=
  if !b.t.le a.t then true
  else if !a.t.le b.t then false
  else decide (a.prim < b.prim) || (a.prim == b.prim && decide (a.node < b.node))

/-- A rational rounded with rne() to FP32 (R241). -/
def Rat2.toFp32 (q : Rat2) : Nat :=
  let n := q.num.natAbs
  if n = 0 then 0
  else
    let k := 64 + Nat.log2 q.den - Nat.log2 n
    let m := n * 2 ^ k
    let x := if m % q.den = 0 then FVal.num (decide (q.num < 0)) (m / q.den) (-(k : Int))
      else .num (decide (q.num < 0)) (2 * (m / q.den) + 1) (-(k : Int) - 1)
    (convert fp32 x).1

/-- The little-endian word at a byte offset of a node. -/
def nodeWord (node : List Byte) (off : Nat) : Nat := leNat (segment node off 4)

/-- A byte of a node. -/
def nodeByte (node : List Byte) (off : Nat) : Nat := (node.getD off 0).toNat

/-- TYPE of a node (R376, R377). -/
def nodeType (node : List Byte) : Nat := nodeByte node 63 / 64

/-- Whether every byte of a range is zero. -/
def zeroBytes (node : List Byte) (off n : Nat) : Bool := (segment node off n).all (· == 0)

/-- Whether child c exists (R376). -/
def childValid (node : List Byte) (c : Nat) : Bool := nodeByte node 62 / 2 ^ c % 2 == 1

/-- QL or QH of child c on axis a. -/
def boxByte (node : List Byte) (c high a : Nat) : Nat := nodeByte node (20 + 6 * c + 3 * high + a)

/-- Whether a node is malformed (R378). -/
def nodeMalformedBvh (node : List Byte) : Bool :=
  match nodeType node with
  | 0 =>
    nodeByte node 63 % 64 != 0 || !zeroBytes node 15 1 || !zeroBytes node 56 6 || decide (64 ≤ nodeByte node 62) ||
      [12, 13, 14].any (fun k => nodeByte node k == 255) ||
      [0, 4, 8].any (fun k => (fpUnits (nodeWord node k)).isNone) ||
      (List.range 6).any fun c => childValid node c &&
        ([0, 1, 2].any (fun a => decide (boxByte node c 1 a < boxByte node c 0 a)) ||
          decide (2 ^ 32 ≤ nodeWord node 16 + c))
  | 1 => nodeByte node 63 % 64 != 0 || decide (1 < nodeByte node 40) || !zeroBytes node 41 22
  | _ => true

/-- A corner of child c's box in units of 2^(−149): O + Q × 2^(E − 127) (R376). -/
def boxCorner (node : List Byte) (c high : Nat) : V3 :=
  let axis (a : Nat) : Int :=
    ((fpUnits (nodeWord node (4 * a))).getD 0) +
      ((boxByte node c high a + high) * 2 ^ (nodeByte node (12 + a) + 22) : Nat)
  ⟨axis 0, axis 1, axis 2⟩

/-- A vertex of a leaf; none when a component is a NaN or infinite. -/
def leafVertex (node : List Byte) (i : Nat) : Option V3 :=
  v3Of (nodeWord node (12 * i)) (nodeWord node (12 * i + 4)) (nodeWord node (12 * i + 8))

/-- The hit of a ray on a leaf, rejected when back-facing under ONESIDE or CULL (R380). -/
def leafHit (r : ERay) (cull : Bool) (node : List Byte) (index : Nat) : Option Hit :=
  match leafVertex node 0, leafVertex node 1, leafVertex node 2 with
  | some a, some b, some c =>
    match r.hits a b c (nodeWord node 36) index with
    | some h => if h.back && (cull || nodeByte node 40 % 2 == 1) then none else some h
    | none => none
  | _, _, _ => none

/-- The children of an internal node that a ray meets. -/
def metChildren (r : ERay) (node : List Byte) : List Nat :=
  ((List.range 6).filter fun c => childValid node c && r.meets (boxCorner node c 0) (boxCorner node c 1)).map
    fun c => nodeWord node 16 + c

end Sys2Proof.Machine
end

