-- ==== Sys2Proof/Machine/Flights.lean ====
section
/-!
DEFINITION. Work in flight: what each piece does when it completes, which earlier work must complete before it, and
the settling of everything that a word depends on (03_encoding.md R72, 09_memory.md R173, R187–R195, 11_ordering.md
R211, R215, 15_cube.md R278, R298, R300, 23_rendering.md R382–R388).  Completing oldest first is always allowed.
-/

namespace Sys2Proof.Machine

/-- Changes one counter. -/
def Counters.upd (c : Counters) (k : Counter) (f : Nat → Nat) : Counters :=
  match k with
  | .g => { c with g := f c.g }
  | .s => { c with s := f c.s }
  | .w => { c with w := f c.w }
  | .x => { c with x := f c.x }

/-- A counter's value. -/
def Counters.get (c : Counters) : Counter → Nat
  | .g => c.g
  | .s => c.s
  | .w => c.w
  | .x => c.x

/-- A counter drops by one (R72). -/
def State.dropCount (s : State) (src : Nat) (k : Counter) : State :=
  s.updHoist src fun h => { h with counters := h.counters.upd k fun n => n - 1 }

/-- The registers that a load's bytes give, first register first (09_memory.md R174, R177). -/
def loadWords (m : Nat) (b : List Byte) : List Word :=
  let w (i : Nat) : Word := BitVec.ofNat 32 (leNat (segment b (4 * i) 4))
  match m with
  | 1 => [w 0, w 1]
  | 8 => [w 0, w 1]
  | 11 => [w 0, w 1]
  | 2 => [w 0, w 1, w 2, w 3]
  | 9 => [w 0, w 1, w 2, w 3]
  | 3 => [BitVec.ofNat 32 (leNat (b.take 1))]
  | 4 => [BitVec.ofInt 32 (signedOf 8 (leNat (b.take 1)))]
  | 5 => [BitVec.ofNat 32 (leNat (b.take 2))]
  | 6 => [BitVec.ofInt 32 (signedOf 16 (leNat (b.take 2)))]
  | _ => [w 0]

/-- Drops hold-latch entries of registers that are written (03_encoding.md R64). -/
def Hoist.dropHolds (h : Hoist) (first n : Nat) : Hoist :=
  { h with holds := h.holds.filter fun x => !(decide (first ≤ x.reg) && decide (x.reg < first + n)) }

/-- Writes words into registers d up in the lanes of a list, dead lanes excepted, tagged G. -/
def Hoist.fillV (h : Hoist) (d : Nat) (vals : List (Nat × List Word)) : Nat → Hoist
  | 0 => h
  | n + 1 =>
    let h := h.fillV d vals n
    let f (l : Nat) : Option Word :=
      if h.regs.dead.getLsbD l then none else (vals.find? (·.1 == l)).bind fun v => v.2[n]?
    if vals = [] then h
    else
      let h := (h.setV (d + n) { tag := .g, lanes := writeLanes f (h.vreg (d + n)).lanes }).dropHolds (d + n) 1
      { h with flaws := h.flaws.filter fun x => match x with | .v r l => r != d + n || (f l).isNone | _ => true }

/-- The registers that a target names. -/
def Target.count : Target → Nat
  | .v _ m => groupSize (BitVec.ofNat 4 m)
  | .s _ m => groupSize (BitVec.ofNat 4 m)
  | .a _ _ => 1

/-- Delivers the data of a load: each lane's words with the lane (R173, R177, 05_control.md R128). -/
def Hoist.deliver (h : Hoist) (t : Target) (vals : List (Nat × List Byte)) : Hoist :=
  match t with
  | .v d m => h.fillV d (vals.map fun v => (v.1, loadWords m v.2)) t.count
  | .s d m =>
    let ws := loadWords m ((vals.head?.map (·.2)).getD [])
    let h := (List.range t.count).foldl (fun h i => h.setS (d + i) (ws.getD i 0)) h
    { h with flaws := h.flaws.filter fun x => match x with | .s r => decide (r < d) || decide (d + t.count ≤ r) | _ => true }
  | .a d privileged =>
    let a := AReg.ofImage ((vals.head?.map (·.2)).getD [])
    h.setA d (if privileged then a else { a with perm := a.perm &&& 0x7F#8 })

/-- Splits accesses into those that may be performed and those whose sector is poisoned (21_reliability.md R358). -/
def State.splitPoison (s : State) (block : Nat) (acc : List Access) : List Access × List Access :=
  (acc.filter fun x => !s.accessPoisoned block x, acc.filter fun x => s.accessPoisoned block x)

/-- The lanes of accesses with the addresses that they read. -/
def deaths (acc : List Access) : List (Nat × Nat) := acc.map fun x => (x.lane, x.va.toNat)

/-- Whether a target belongs to lanes; the others are read for the whole hoist (R358). -/
def Target.perLane : Target → Bool
  | .v _ _ => true
  | _ => false

/-- Completes a load: poisoned lanes die, or the hoist is lost; the others' data is delivered (R173, R358). -/
def State.completeLoad (s : State) (f : Flight) (k : Counter) (t : Target) (acc : List Access) : State :=
  let (good, bad) := s.splitPoison f.block acc
  let data := good.map fun x => (x.lane, s.readAccess f.src f.block x)
  let s := s.updHoist f.src fun h => h.deliver t data
  let s := s.dropCount f.src k
  if bad = [] then s
  else if t.perLane then s.killLanes f.src (deaths bad) f.named
  else s.loseHoist f.src 0xFF f.named

/-- The buffered writes from place n on belong to one store. -/
def sameStore (n : Nat) (ws : List BufferedWrite) : List BufferedWrite :=
  ws.take n ++ (ws.drop n).map fun w => { w with store := n }

/-- Performs the writes of a store in lane order (R176, R177); together they may cover a poisoned sector
(21_reliability.md R358). -/
def State.performWrites (s : State) (src block ctx : Nat) (ws : List (Access × List Byte)) : State :=
  let t := ws.foldl (fun s w => s.writeAccess src block ctx w.1 w.2) s
  if ((s.block? block).getD Block.none).replicated then
    match s.hoist? src with
    | some h => t.updHoist src fun x => { x with wbuf := sameStore h.wbuf.length x.wbuf }
    | none => t
  else t.unpoison ((ws.filter fun w => !w.1.scr && !s.holdsWrite ctx w.1.pa).map fun w => (w.1.pa, w.2.length))

/-- Performs the lanes of an atomic in order: the old values and the state (R230, R232). -/
def State.performAtomic (src block ctx : Nat) (op : AtomicOp) :
    List AtomLane → State → List (Nat × List Byte) × State
  | [], s => ([], s)
  | x :: xs, s =>
    let bytes := s.readAccess src block x.access
    let s' := match op.new (leNat bytes) x.compare x.operand with
      | some v =>
        if x.access.scr then s.writeScratch block x.access.pa (natLe x.access.n v)
        else s.writeShared src ctx x.access.pa (natLe x.access.n v)
      | none => s
    let (rest, s'') := State.performAtomic src block ctx op xs s'
    ((x.access.lane, bytes) :: rest, s'')

/-- Completes an atomic: old values delivered and cnt.g drops, or cnt.w for RED (R230). -/
def State.completeAtomic (s : State) (f : Flight) (cas : Bool) (m : Nat) (ret : Option Target) (lanes : List AtomLane) :
    State :=
  let good := lanes.filter fun x => !s.accessPoisoned f.block x.access
  let bad := lanes.filter fun x => s.accessPoisoned f.block x.access
  let (olds, s) := State.performAtomic f.src f.block f.ctx (if cas then .cas else .rmw m) good s
  let s := match ret with
    | some t => (s.updHoist f.src fun h => h.deliver t olds).dropCount f.src .g
    | none => s.dropCount f.src .w
  let s := { s with svcq := s.svcq.filter (·.2 != f.id) }
  if bad = [] then s
  else
    match ret with
    | some (.s _ _) => s.loseHoist f.src 0xFF f.named
    | _ => s.killLanes f.src (deaths (bad.map (·.access))) f.named

/-! ### Copies -/

/-- How one element's move ends. -/
inductive Moved where
  | ok (s : State)
  | fail (f : RangeFault) (kind : Nat) (s : State)
  | stall (s : State)
  deriving Repr

/-- Reads n bytes through a window at a byte position for the engine that serves a piece of work: the bytes and whether they
are poisoned. -/
def State.engineRead (s : State) (f : Flight) (c : Ctx) (a : AReg) (e : Int) (n : Nat) :
    Except RangeFault (List Byte × Bool) × State :=
  if a.has permSCR then
    let off := (a.base.toNat + e).toNat
    match s.block? f.block with
    | some b =>
      (.ok (b.scratch.readBytes off n,
        b.poison.any fun k => decide (off / 4 ≤ k) && decide (k ≤ (off + n - 1) / 4)), s)
    | none => (.ok (natLe n 0, false), s)
  else
    match s.range (s.engine f) c .load a.rights (a.address e) n with
    | (.ok rs, s) => (.ok (s.readRuns rs, s.runsPoisoned rs), s)
    | (.error x, s) => (.error x, s)

/-- Poisons the sectors or segment words of a range (R358). -/
def State.poisonRuns (s : State) (src : Nat) (rs : Runs) : State :=
  rs.foldl (fun s r => (List.range (r.2 / 32 + 2)).foldl (fun s i =>
    let k := r.1 / 32 + i
    if 32 * k < r.1 + r.2 then s.poisonSector k src else s) s) s

/-- Poisons the words of a block's segment that n bytes at an offset touch (R358). -/
def State.poisonWords (s : State) (block off n : Nat) : State :=
  s.updBlock block fun b => { b with
    poison := b.poison ++ ((List.range (n / 4 + 2)).map fun i => off / 4 + i).filter fun k =>
      decide (4 * k < off + n) && !b.poison.contains k }

/-- Writes bytes through a window at a byte position for an engine; `src` reports a sector that becomes poisoned. -/
def State.engineWrite (s : State) (f : Flight) (src : Nat) (c : Ctx) (a : AReg) (e : Int) (bs : List Byte)
    (poisoned tierOk : Bool) : Except RangeFault State :=
  if a.has permSCR then
    let off := (a.base.toNat + e).toNat
    let s := s.writeScratch f.block off bs
    .ok (if poisoned then s.poisonWords f.block off bs.length else s)
  else
    match State.reachRange (s.engine f) c .store a.rights tierOk (unitsOf bs.length) (a.address e) bs.length s with
    | (.ok rs, s) =>
      let s := s.writeRuns c.id rs bs
      .ok (if poisoned then s.poisonRuns src rs else s)
    | (.error x, _) => .error x

/-- Adds arrived bytes to a byte-counting barrier (R201).  DESIGN CHOICE (log 60): each replica's copy adds to a barrier in memory at
once, and no addition waits in its write buffer (21_reliability.md R365). -/
def State.arriveBytes (s : State) (f : Flight) (c : Ctx) (a : AReg) (n : Nat) : Except RangeFault State :=
  let e : Int := a.cursor.toNat
  if a.has permSCR then
    let off := (a.base.toNat + e).toNat
    match s.block? f.block with
    | some b => .ok (s.writeScratch f.block off ((byteBarOf (b.scratch.readBytes off 16)).arrive n).bytes)
    | none => .ok s
  else
    match s.range (s.engine f) c .atomic a.rights (a.address e) 16 with
    | (.ok rs, s) => .ok (s.writeRuns c.id rs ((byteBarOf (s.readRuns rs)).arrive n).bytes)
    | (.error x, _) => .error x

/-- The source bytes of element k that the same copy writes, whose destination lies in the ranges `dst`: the manual leaves what
is read there open (R187). -/
def State.selfRead (s : State) (f : Flight) (c : Ctx) (j : CopyJob) (dst : List (Nat × Nat)) (k : Nat) : List Bool :=
  if j.src.has permSCR != j.dst.has permSCR then List.replicate (2 ^ j.esz) false
  else
    (List.range (2 ^ j.esz)).map fun i =>
      if j.src.has permSCR then overlaps dst (((j.src.base.toNat : Int) + j.srcPos k).toNat + i)
      else match s.physical (coreOf f.src) c (j.src.address (j.srcPos k + i)) with
        | some pa => overlaps dst pa
        | none => false

/-- Bytes of which the marked ones are free (log 9). -/
def State.freeWhere (s : State) (marks : List Bool) (bs : List Byte) : List Byte × State :=
  if marks.any id then
    (bs.mapIdx fun i x => if marks[i]?.getD false then (Config.freeWord (s.fresh + i)).setWidth 8 else x,
      { s with fresh := s.fresh + bs.length })
  else (bs, s)

/-- The state once an engine that waits at a place of a window has asked for what it waits for (25_docking.md R411). -/
def State.engineAsks (s : State) (f : Flight) (c : Ctx) (a : AReg) (e : Int) (use : PageUse) : State :=
  (s.seenBy (s.engine f) fun s => s.reach (coreOf f.src) c (a.address e) use a.rights).2

/-- Moves element k of a copy whose destination lies in the ranges `dst` (R187, R194, R201). -/
def State.moveElement (s : State) (f : Flight) (c : Ctx) (j : CopyJob) (dst : List (Nat × Nat)) (k : Nat) : Moved :=
  let n := 2 ^ j.esz
  let se := j.srcPos k
  let de := j.dstPos k
  let segSize := ((s.block? f.block).getD Block.none).segSize
  let outside := j.zfill && !j.src.inBounds segSize se n
  let (data, s) := if outside then (.ok (natLe n 0, false), s) else s.engineRead f c j.src se n
  match data with
  | .error e => if e.stall then .stall s else .fail e 4 s
  | .ok (bs, poisoned) =>
    let (bs, s) := if outside then (bs, s) else s.freeWhere (s.selfRead f c j dst k) bs
    match s.engineWrite f (0x3000 + clusterOf f.src) c j.dst de bs poisoned j.privileged with
    | .error e =>
      if e.stall then .stall (s.engineAsks f c j.dst de .store) else .fail e 5 s
    | .ok t =>
      match j.bar.elim (.ok t) fun a => t.arriveBytes f c a n with
      | .error e =>
        -- the element has not moved: its byte counts once it is performed
        if e.stall then .stall (j.bar.elim s fun a => s.engineAsks f c a a.cursor.toNat .atomic) else .fail e 5 s
      | .ok t => .ok (t.updFlight f.id fun w => match w with | .copy j => .copy { j with done := k :: j.done } | w => w)

/-- The elements that move with element k: those of the same aligned word of the segment, so that a read finds the old
word or the copied one (R171); in memory, whose lines the copy owns, element k alone. -/
def CopyJob.together (j : CopyJob) (k : Nat) : List Nat :=
  if j.dst.has permSCR && decide (j.esz < 2) then
    (List.range j.total).filter fun i =>
      !j.done.contains i && (j.dst.base.toNat + j.dstPos i) / 4 == (j.dst.base.toNat + j.dstPos k) / 4
  else [k]

/-- Moves elements one after another; where one cannot move, the state is that before the first. -/
def State.moveEach (f : Flight) (c : Ctx) (j : CopyJob) (dst : List (Nat × Nat)) (was : State) : List Nat → State → Moved
  | [], s => .ok s
  | k :: ks, s =>
    match s.moveElement f c j dst k with
    | .ok s => State.moveEach f c j dst was ks s
    | .fail e kind _ => .fail e kind was
    | .stall _ => .stall was

/-- How an element cannot move now. -/
def State.moveStopped (s : State) (f : Flight) (c : Ctx) (j : CopyJob) (dst : List (Nat × Nat)) (k : Nat) : Option Moved :=
  match s.moveElement f c j dst k with
  | .ok _ => none
  | x => some x

/-- Moves elements as one, or none of them. -/
def State.moveAll (f : Flight) (c : Ctx) (j : CopyJob) (dst : List (Nat × Nat)) (ks : List Nat) (s : State) : Moved :=
  match ks with
  | [k] => s.moveElement f c j dst k
  | ks => (ks.findSome? (s.moveStopped f c j dst)).getD (State.moveEach f c j dst s ks s)

/-- Free values in the destination bytes of a copy that fails, as far as they can be written now: the manual leaves them
open (R194; log 9). -/
def State.scrambleCopy (f : Flight) (c : Ctx) (j : CopyJob) : List Nat → State → State
  | [], s => s
  | k :: ks, s =>
    let n := 2 ^ j.esz
    let bs := (List.range n).map fun i => (Config.freeWord (s.fresh + i)).setWidth 8
    State.scrambleCopy f c j ks
      (match ({ s with fresh := s.fresh + n } : State).engineWrite f f.src c j.dst (j.dstPos k) bs false j.privileged with
      | .ok s => s
      | .error _ => s)

/-- A copy stops with a failure that its hoist reports later (R194).  A BCWAIT that waits as a monitor at that moment is not
woken: it reports when it executes again (DESIGN CHOICE, log 41). -/
def State.failCopy (s : State) (f : Flight) (j : CopyJob) (e : RangeFault) : State :=
  ((State.scrambleCopy f (s.flightCtx f) j (List.range j.total) s).dropFlight f.id).updHoist f.src fun h =>
    { h with fails := h.fails ++ [⟨j.batch, e.cls, e.detail, e.va, e.key, j.info, j.cpys⟩] }

/-- Joins or makes the translation request of an address, under the smallest token not in use; none while 4,096 tokens are
outstanding and none is for its unit.  The request itself is sent by TRANSLATION_REQUEST (19_faults.md R347). -/
def State.joinToken (s : State) (core ctx : Nat) (va : VAddr) (kind : Nat) (f : Token → Token) : Option (Nat × State) :=
  let unit := va.extractLsb' 16 56
  match s.tokens.find? fun t => t.ctx == ctx && t.unit == unit with
  | some t => some (t.id, { s with tokens := s.tokens.map fun x => if x.id == t.id then f x else x })
  | none =>
    ((List.range 4096).find? fun n => !s.tokens.any (·.id == n)).map fun id =>
      let t : Token := ⟨id, ctx, unit, false, false, kind, va, core, [], [], []⟩
      (id, { s with tokens := s.tokens ++ [f t], agenda := s.agenda ++ [.event (.translationRequest id)] })

/-- How the word of a hoist waits for the host's answer on an address: under a token, or until one is free (R347). -/
def State.tokenWait (s : State) (src ctx : Nat) (va : VAddr) (kind : Nat) : Wait × State :=
  match s.joinToken (coreOf src) ctx va kind fun t => { t with hoists := t.hoists ++ [src] } with
  | some (id, s) => (.token id, s)
  | none => (.retry, s)

/-- A copy meets a fault: it waits when the fault is forwarded, else it fails (R194). -/
def State.copyFault (s : State) (f : Flight) (j : CopyJob) (e : RangeFault) (kind : Nat) : State :=
  if e.forward then
    match s.joinToken (coreOf f.src) f.ctx e.va kind fun t => { t with copies := t.copies ++ [(f.id, e.va)] } with
    | some (id, s) => s.updFlight f.id fun w => match w with | .copy j => .copy { j with token := some id } | w => w
    | none => s
  else s.failCopy f j e

/-- Moves the elements of a list, until one cannot move. -/
def State.moveElements (f : Flight) (dst : List (Nat × Nat)) : List Nat → State → State
  | [], s => s
  | k :: ks, s =>
    match s.flight? f.id with
    | some ⟨_, _, _, _, _, .copy j, _⟩ =>
      if j.token.isSome then s
      else if j.done.contains k then State.moveElements f dst ks s
      else
        match State.moveAll f (s.flightCtx f) j dst (j.together k) s with
        | .ok s => State.moveElements f dst ks s
        | .fail e kind s => s.copyFault f j e kind
        | .stall s => s
    | _ => s

/-- The hoist of a copy has posted its context's held writes (R222). -/
def State.postedCopy (s : State) (f : Flight) : State :=
  match (s.flightCtx f).mirror with
  | none => s
  | some m =>
    let open_ := m.held.filter fun w => w.1 == m.openGeneration
    let comp := open_.any fun w => match w.2 with | .companion _ _ => true | _ => false
    let host := open_.any fun w => match w.2 with | .host _ _ => true | _ => false
    s.updHoist f.src fun h =>
      { h with
        posted := if comp then m.openGeneration else h.posted
        postedHost := if host then m.openGeneration else h.postedHost }

/-- Ends a copy all of whose elements have moved: it leaves the in-flight count (R190). -/
def State.endCopy (s : State) (f : Flight) : State :=
  match s.flight? f.id with
  | some ⟨_, _, _, _, _, .copy j, _⟩ =>
    if j.done.length = j.total then
      -- its writes count as posted writes of its hoist from now on (11_ordering.md R222)
      let s := if j.dst.has permSCR then s else s.postedCopy f
      s.dropFlight f.id
    else s
  | _ => s

/-! ### The cube engine -/

/-- The codebook that CB2 operands of a context read on a cluster: the loaded table when its tag matches, else the
default one (13_numbers.md R249, 15_cube.md R299). -/
def State.codebook (s : State) (cluster ctx : Nat) : Option Memory :=
  match s.cubes.find? (·.cluster == cluster) with
  | some x => if x.tag = some ctx then some x.table else none
  | none => none

/-- Loads a table into a cluster's engine with a context's tag. -/
def State.loadTable (s : State) (cluster ctx : Nat) (t : Memory) : State :=
  { s with cubes := ⟨cluster, some ctx, t⟩ :: s.cubes.filter (·.cluster != cluster) }

/-- Reloads the engine's table from a block's copy after the block resumed (R299). -/
def State.reloadTable (s : State) (block : Nat) : State :=
  match s.block? block with
  | some b =>
    match b.table, b.tableLoaded with
    | some t, false =>
      (s.loadTable (b.core / 4) b.ctx t).updBlock block fun b => { b with tableLoaded := true }
    | _, _ => s
  | none => s

/-- A claimed slot of a block. -/
def Block.slot? (b : Block) (n : Nat) : Option Slot := b.slots.find? (·.local_ == n)
/-- Changes a claimed slot. -/
def Block.updSlot (b : Block) (n : Nat) (f : Slot → Slot) : Block :=
  { b with slots := b.slots.map fun x => if x.local_ == n then f x else x }
/-- The contents of a slot; zero when it is not claimed. -/
def Block.slotData (b : Block) (n : Nat) : Memory := ((b.slot? n).map (·.data)).getD []
/-- A tile of a block; it reads as zero until written (R279). -/
def Block.tile (b : Block) (n : Nat) : Tile := (b.tiles.find? (·.index == n)).getD (Tile.zero n)
/-- Replaces a tile. -/
def Block.putTile (b : Block) (t : Tile) : Block := { b with tiles := t :: b.tiles.filter (·.index != t.index) }

/-- The contiguous bytes of n slots from local slot c up (R285). -/
def Block.slotRegion (b : Block) (c n : Nat) : Memory :=
  (List.range n).flatMap fun i => (b.slotData (c + i)).map fun x => (x.1 + 2048 * i, x.2)

/-- Completes a pass: the tile, the flags, the counter (R286, R288).  A table loaded while it was in flight is read: of the old
and the new rows that R249 allows, the new (DESIGN CHOICE, log 42). -/
def State.completePass (s : State) (f : Flight) (job : PassJob) : State :=
  match s.block? f.block with
  | none => s
  | some b =>
    let region := b.slotRegion job.slotC (cubeCSlots job.mode job.kp (cubeCBytes job.fmtC))
    let o := passOperands job (s.codebook (b.core / 4) f.ctx) (b.slotData job.slotA) (b.slotData job.slotB) region
    let (t, flags) := runPass job o (b.tile job.tile)
    ((s.updBlock f.block fun b => b.putTile t).updHoist f.src fun h => h.raise flags).dropCount f.src .x

/-- Completes an MXP (R296). -/
def State.completePromote (s : State) (f : Flight) (tile : Nat) : State :=
  match s.block? f.block with
  | none => s
  | some b =>
    let t := b.tile tile
    if t.count = 0 then s
    else
      let (t, flags) := t.promote
      (s.updBlock f.block fun b => b.putTile t).updHoist f.src fun h => h.raise flags

/-- Completes an MXRD: lanes with their rows (R297). -/
def State.completeTileRead (s : State) (f : Flight) (tile d n j0 : Nat) (rows : List (Nat × Nat)) : State :=
  match s.block? f.block with
  | none => s
  | some b =>
    let t := b.tile tile
    let vals := rows.map fun r => (r.1, (List.range n).map fun i => BitVec.ofNat 32 (t.word r.2 (j0 + i)))
    (s.updHoist f.src fun h => h.fillV d vals n).dropCount f.src .x

/-- Completes an MXWR: rows with their words (R297). -/
def State.completeTileWrite (s : State) (f : Flight) (tile j0 : Nat) (rows : List (Nat × List Word)) : State :=
  s.updBlock f.block fun b => b.putTile
    (rows.foldl (fun t r => (r.2.mapIdx fun i w => (i, w)).foldl (fun t p => t.setWord r.1 (j0 + p.1) p.2) t) (b.tile tile))

/-- How a piece of slot traffic ends: read or written, to be tried again, or a fault. -/
inductive Pieces (α : Type) where
  | ok (x : α)
  | stall
  | fault
  deriving Repr

/-- Reads a slot's lines from a window, until a piece faults, is poisoned or must wait. -/
def State.readPieces (f : Flight) (c : Ctx) (win : AReg) : List (Int × Nat) → Memory → State → Pieces Memory × State
  | [], m, s => (.ok m, s)
  | (e, o) :: rest, m, s =>
    match s.engineRead f c win e 16 with
    | (.ok (bs, false), s) => State.readPieces f c win rest (m.writeBytes o bs) s
    | (.ok (_, true), s) => (.fault, s)
    | (.error x, s) => (if x.stall then .stall else .fault, s)

/-- Writes a slot's lines to a window. -/
def State.writePieces (f : Flight) (src : Nat) (c : Ctx) (win : AReg) (m : Memory) : List (Int × Nat) → State → Pieces State
  | [], s => .ok s
  | (e, o) :: rest, s =>
    match s.engineWrite f src c win e (m.readBytes o 16) false false with
    | .ok s => State.writePieces f src c win m rest s
    | .error x => if x.stall then .stall else .fault

/-- Asks for the kill of a flight's block, once (R302). -/
def State.askKill (s : State) (f : Flight) : State :=
  if s.agenda.contains (.event (.blockKill f.id)) then s
  else { s with agenda := s.agenda ++ [.event (.blockKill f.id)] }

/-- Completes an SLLD: the slot leaves filling (R294); a fault kills the block.  Its lines are read at its completion, of the
places between start and completion that R294 allows (DESIGN CHOICE, log 42). -/
def State.completeFill (s : State) (f : Flight) (slot : Nat) (win : AReg) (off : Int) (pitch : Nat) : State :=
  match State.readPieces f (s.flightCtx f) win (slotPieces win off pitch) [] s with
  | (.ok m, s) =>
    let more := s.flights.any fun x => x.block == f.block && x.id != f.id && match x.work with
      | .fill n _ _ _ _ => n == slot
      | _ => false
    (s.updBlock f.block fun b => b.updSlot slot fun x => { x with data := m, filling := more }).dropFlight f.id
  | (.stall, s) => s
  | (.fault, s) => s.askKill f

/-- Completes an SLST (R294); its lines together may cover a poisoned sector (21_reliability.md R358). -/
def State.completeSlotStore (s : State) (f : Flight) (slot : Nat) (win : AReg) (off : Int) (pitch : Nat) : State :=
  match s.block? f.block with
  | none => s.dropFlight f.id
  | some b =>
    match State.writePieces f (0x3040 + clusterOf f.src) (s.flightCtx f) win (b.slotData slot)
        (slotPieces win off pitch) s with
    | .ok t =>
      let t := t.unpoison ((s.unwritten f).filter fun r => !s.holdsWrite f.ctx r.1)
      (t.dropCount f.src .w).dropFlight f.id
    | .stall => s
    | .fault => s.askKill f

/-- Completes an SLRL: the slot leaves the claim set (R292). -/
def State.completeSlotRelease (s : State) (f : Flight) (slot : Nat) : State :=
  (s.updBlock f.block fun b => { b with slots := b.slots.filter (·.local_ != slot) }).dropFlight f.id

/-! ### Queries -/

/-- One node fetch: the line, or how it ends the query (R378, R383). -/
inductive Fetched where
  | line (b : List Byte)
  | bvherr
  | fault
  | stall
  deriving DecidableEq, Repr

/-- Fetches node i of a BVH window as the die order has it now (R375). -/
def State.fetchNode (s : State) (f : Flight) (c : Ctx) (bvh : AReg) (i : Nat) : Fetched × State :=
  let e := bvh.position (64 * i : Nat) 0
  if !bvh.inBounds 0 e 64 then (.fault, s)
  else
    match s.range (s.engine f) c .load bvh.rights (bvh.address e) 64 with
    | (.error x, s) => (if x.stall then .stall else .fault, s)
    | (.ok rs, s) => if s.runsPoisoned rs then (.bvherr, s) else (.line (s.readRuns rs), s)

/-- How a query ends: the hit when there is one, BVHERR or FAULT. -/
inductive QueryEnd where
  | found (h : Option Hit)
  | bvherr
  | fault
  | stall
  deriving DecidableEq, Repr

/-- Traverses: `fuel` is the fetches left of the 65,536, the list holds nodes with their depth (R378, R379, R382).
Children are visited depth first, lowest first; the order is the model's (log 14). -/
def traverse (f : Flight) (c : Ctx) (bvh : AReg) (r : Option ERay) (cull any : Bool) :
    Nat → List (Nat × Nat) → Option Hit → State → QueryEnd × State
  | _, [], best, s => (.found best, s)
  | 0, _ :: _, _, s => (.bvherr, s)
  | fuel + 1, (n, depth) :: rest, best, s =>
    if 64 < depth then (.bvherr, s)
    else
      match s.fetchNode f c bvh n with
      | (.bvherr, s) => (.bvherr, s)
      | (.fault, s) => (.fault, s)
      | (.stall, s) => (.stall, s)
      | (.line node, s) =>
        if nodeMalformedBvh node then (.bvherr, s)
        else
          match r with
          | none => (.found none, s)
          | some ray =>
            if nodeType node = 1 then
              match leafHit ray cull node n, best with
              | some h, none =>
                if any then (.found (some h), s) else traverse f c bvh r cull any fuel rest (some h) s
              | some h, some b =>
                traverse f c bvh r cull any fuel rest (some (if h.before b then h else b)) s
              | none, b => traverse f c bvh r cull any fuel rest b s
            else
              traverse f c bvh r cull any fuel ((metChildren ray node).map (fun k => (k, depth + 1)) ++ rest) best s

/-- One query from the root (R381). -/
def State.query (s : State) (f : Flight) (c : Ctx) (bvh : AReg) (r : Option ERay) (cull any : Bool) :
    QueryEnd × State :=
  traverse f c bvh r cull any 65536 [(0, 0)] none s

/-- The result registers of a TRACE lane (R382). -/
def traceWords : QueryEnd → List Word
  | .found (some h) =>
    [1, BitVec.ofNat 32 h.t.toFp32, BitVec.ofNat 32 h.u.toFp32, BitVec.ofNat 32 h.v.toFp32, BitVec.ofNat 32 h.prim,
      BitVec.ofNat 32 h.node]
  | .found none => [0, 0, 0, 0, 0, 0]
  | .bvherr => [2, 0, 0, 0, 0, 0]
  | _ => [3, 0, 0, 0, 0, 0]

/-- The queries of the lanes of a TRACE, in order; none while a fetch must wait. -/
def State.traceLanes (f : Flight) (c : Ctx) (bvh : AReg) (cull any : Bool) :
    List (Nat × Ray) → State → Option (List (Nat × List Word)) × State
  | [], s => (some [], s)
  | (l, ray) :: rest, s =>
    match s.query f c bvh (rayOf (ray.map (·.toNat))) cull any with
    | (.stall, s) => (none, s)
    | (q, s) =>
      let (xs, s) := State.traceLanes f c bvh cull any rest s
      (xs.map ((l, traceWords q) :: ·), s)

/-- Completes a TRACE (R382). -/
def State.completeTrace (s : State) (f : Flight) (d mode : Nat) (cull : Bool) (bvh : AReg) (rays : List (Nat × Ray)) :
    State :=
  match State.traceLanes f (s.flightCtx f) bvh cull (mode == 1) rays s with
  | (some vals, s) => ((s.updHoist f.src fun h => h.fillV d vals 6).dropCount f.src .x).dropFlight f.id
  | (none, s) => s

/-- Registers that a HITRD attribute writes (R384). -/
def attrCount (attr : Nat) : Nat := if attr = 4 then 2 else 3

/-- One component of (V1 − V0) × (V2 − V0) of a leaf from its coordinates i and j, exact, rounded once; a zero is +0, and
coordinates that are not finite follow the arithmetic of R248 (R384). -/
def normalWord (node : List Byte) (i j : Nat) : Word :=
  let v (k n : Nat) : FVal := fp32.decode (nodeWord node (12 * k + 4 * n))
  let edge (k n : Nat) : FVal := (sumExact [v k n, (v 0 n).negate]).1
  match (sumExact [((edge 1 i).mul (edge 2 j)).1, ((edge 1 j).mul (edge 2 i)).1.negate]).1 with
  | .num _ 0 _ => 0
  | x => BitVec.ofNat 32 (convert fp32 x).1

/-- The words of a HITRD attribute of a leaf (R384). -/
def attrWords (attr : Nat) (node : List Byte) : List Word :=
  match attr with
  | 3 => [normalWord node 1 2, normalWord node 2 0, normalWord node 0 1]
  | 4 => [BitVec.ofNat 32 (nodeWord node 36), BitVec.ofNat 32 (nodeByte node 40)]
  | i => (List.range 3).map fun k => BitVec.ofNat 32 (nodeWord node (12 * i + 4 * k))

/-- The words of a lane whose node is no leaf, is malformed or cannot be fetched (R384). -/
def attrBad (attr : Nat) : List Word := if attr = 4 then [0xFFFFFFFF, 0xFFFFFFFF] else List.replicate 3 0x7FC00000

/-- The fetches of the lanes of a HITRD, in order; none while a fetch must wait. -/
def State.hitrdLanes (f : Flight) (c : Ctx) (bvh : AReg) (attr : Nat) :
    List (Nat × Nat) → State → Option (List (Nat × List Word)) × State
  | [], s => (some [], s)
  | (l, n) :: rest, s =>
    match s.fetchNode f c bvh n with
    | (.stall, s) => (none, s)
    | (x, s) =>
      let w := match x with
        | .line node => if nodeMalformedBvh node || nodeType node != 1 then attrBad attr else attrWords attr node
        | _ => attrBad attr
      let (xs, s) := State.hitrdLanes f c bvh attr rest s
      (xs.map ((l, w) :: ·), s)

/-- Completes a HITRD (R384). -/
def State.completeHitrd (s : State) (f : Flight) (d attr : Nat) (bvh : AReg) (nodes : List (Nat × Nat)) : State :=
  match State.hitrdLanes f (s.flightCtx f) bvh attr nodes s with
  | (some vals, s) => ((s.updHoist f.src fun h => h.fillV d vals (attrCount attr)).dropCount f.src .x).dropFlight f.id
  | (none, s) => s

/-- The ray of pixel (x, y) of a beam: the direction is exact (R386). -/
def beamRay (desc : List Byte) (x y : Nat) : Option ERay :=
  let p (o : Nat) : Option V3 := v3Of (nodeWord desc o) (nodeWord desc (o + 4)) (nodeWord desc (o + 8))
  match p 0, p 12, p 24, p 36, boundOf (nodeWord desc 48), boundOf (nodeWord desc 52) with
  | some o, some d, some dx, some dy, some a, some b =>
    some ⟨o, d.add ((V3.times x dx).add (V3.times y dy)), a, b⟩
  | _, _, _, _, _, _ => none

/-- A fragment record (R389). -/
def fragment (desc : List Byte) (x y : Nat) (h : Hit) : List Byte :=
  natLe 2 (leNat (segment desc 58 2) + x) ++ natLe 2 (leNat (segment desc 60 2) + y) ++ natLe 4 h.t.toFp32 ++
    natLe 4 h.u.toFp32 ++ natLe 4 h.v.toFp32 ++ natLe 4 h.prim ++ natLe 4 h.node ++
    natLe 1 (if h.back then 1 else 0) ++ natLe 7 0

/-- Resolves the pixels of a beam in order: the fragments, and the status of the first failing query (R388); none while a
fetch must wait. -/
def State.beamPixels (f : Flight) (c : Ctx) (job : BeamJob) :
    List (Nat × Nat) → State → Option (List (List Byte) × Nat) × State
  | [], s => (some ([], 0), s)
  | (x, y) :: rest, s =>
    let cull := nodeByte job.desc 57 % 2 == 1
    match s.query f c job.bvh (beamRay job.desc x y) cull false with
    | (.bvherr, s) => (some ([], 2), s)
    | (.fault, s) => (some ([], 3), s)
    | (.stall, s) => (none, s)
    | (.found h, s) =>
      let (r, s) := State.beamPixels f c job rest s
      (r.map fun p => (match h with | some h => fragment job.desc x y h :: p.1 | none => p.1, p.2), s)

/-- The pixels of a beam's tile, y before x (R386, R388). -/
def beamTile (desc : List Byte) : List (Nat × Nat) :=
  let w := 2 ^ (nodeByte desc 56 % 16)
  let h := 2 ^ (nodeByte desc 56 / 16)
  (List.range (w * h)).map fun n => (n % w, n / w)

/-- Resolves a beam's tile before any fragment is pushed (R388). -/
def State.resolveBeam (s : State) (f : Flight) (job : BeamJob) : BeamJob × State :=
  match job.pending with
  | some _ => (job, s)
  | none =>
    match State.beamPixels f (s.flightCtx f) job (beamTile job.desc) s with
    | (some (xs, st), s) => ({ job with pending := some (if st = 0 then xs else []), status := st }, s)
    | (none, s) => (job, s)

/-- Pushes a beam's fragments one by one while the queue has room (R388): the job and the state. -/
def State.pushFragments (place : QueuePlace) (q : QueueWord) : Nat → BeamJob → State → BeamJob × State
  | 0, job, s => (job, s)
  | fuel + 1, job, s =>
    match job.pending with
    | some (x :: xs) =>
      match s.queuePush place q [x] with
      | .ok (1, s) => State.pushFragments place q fuel { job with pending := some xs, pushed := job.pushed + 1 } s
      | _ => (job, s)
    | _ => (job, s)

/-- The queue of a beam: in the block's segment (R387). -/
def beamQueue (block : Nat) (job : BeamJob) : QueuePlace × QueueWord :=
  let q := queueWord job.qcw
  (.scratch block (job.queue.base.toNat + job.queue.cursor.toNat + q.off), q)

/-- Advances a beam: it resolves, then pushes at most `n` fragments (R388). -/
def State.advanceBeam (s : State) (f : Flight) (job : BeamJob) (n : Nat) : State :=
  let (job, s) := s.resolveBeam f job
  let (place, q) := beamQueue f.block job
  let (job, s) := State.pushFragments place q n job s
  s.updFlight f.id fun _ => .beam job

/-- Ends a beam all of whose fragments are pushed: sD, then cnt.x (R387). -/
def State.endBeam (s : State) (f : Flight) : State :=
  match s.flight? f.id with
  | some ⟨_, _, _, _, _, .beam job, _⟩ =>
    if job.pending = some [] then
      let v := BitVec.ofNat 32 (job.pushed % 512 + 65536 * job.status)
      ((s.updHoist f.src fun h => h.writeS (BitVec.ofNat 8 job.d) v).dropCount f.src .x).dropFlight f.id
    else s
  | _ => s

/-! ### Completion and settling -/

/-- Completes a piece of work when it can complete now; otherwise it stays. -/
def State.completeFlight (s : State) (f : Flight) : State :=
  match f.work with
  | .load k t acc => (s.completeLoad f k t acc).dropFlight f.id
  | .store ws _ => ((s.performWrites f.src f.block f.ctx ws).dropCount f.src .w).dropFlight f.id
  | .atomic cas m ret lanes _ _ _ => (s.completeAtomic f cas m ret lanes).dropFlight f.id
  | .perm d vals =>
    ((s.updHoist f.src fun h => h.fillV d (vals.map fun v => (v.1, [v.2])) 1).dropCount f.src .s).dropFlight f.id
  | .copy j => (State.moveElements f (s.copyDst f j) (List.range j.total) s).endCopy f
  | .fill slot win off pitch _ => s.completeFill f slot win off pitch
  | .slotStore slot win off pitch _ => s.completeSlotStore f slot win off pitch
  | .slotRelease slot => s.completeSlotRelease f slot
  | .pass job => (s.completePass f job).dropFlight f.id
  | .promote tile => (s.completePromote f tile).dropFlight f.id
  | .tileRead tile d n j0 rows => (s.completeTileRead f tile d n j0 rows).dropFlight f.id
  | .tileWrite tile j0 rows => (s.completeTileWrite f tile j0 rows).dropFlight f.id
  | .trace d mode cull bvh rays => s.completeTrace f d mode cull bvh rays
  | .hitrd d attr bvh nodes => s.completeHitrd f d attr bvh nodes
  | .beam job => (s.advanceBeam f job 1024).endBeam f
  | .killed _ _ => s

/-- The pass of a flight that has not been granted (15_cube.md R301). -/
def Flight.ungranted (f : Flight) : Option PassJob :=
  match f.work with
  | .pass j => if j.granted then none else some j
  | _ => none

/-- The pieces of work up to the last that satisfies `p`. -/
def upToLast (p : Flight → Bool) : List Flight → List Nat
  | [] => []
  | f :: fs => if (f :: fs).any p then f.id :: upToLast p fs else []

/-- The virtual byte range of a copy's or slot store's memory destination. -/
def ownedRange (w : Work) : Option (Int × Int) :=
  match w with
  | .copy j =>
    if j.dst.has permSCR then none
    else
      let (lo, hi) := j.dstBox
      some (j.dst.base.toNat + j.dst.cursor.toNat + lo, j.dst.base.toNat + j.dst.cursor.toNat + hi)
  | .slotStore _ win off pitch _ =>
    if win.has permSCR then none
    else
      let lo : Int := win.base.toNat + win.cursor.toNat + off
      some (lo, lo + (31 * pitch + 64 : Nat))
  | _ => none

/-- Whether a virtual range meets the lines of an owned range: what a word settles before it looks at a range; whether a line
is owned is judged by where it lies, `State.owned` (09_memory.md R190, 11_ordering.md R215). -/
def Flight.owns (f : Flight) (ctx : Nat) (lo hi : Int) : Bool :=
  match ownedRange f.work with
  | some (a, b) => f.ctx == ctx && decide (a / 64 ≤ (hi - 1) / 64) && decide (lo / 64 ≤ (b - 1) / 64)
  | none => false

/-- The accesses to memory that a piece of work has translated; engines look at each line when they reach it. -/
def Work.accesses : Work → List Access
  | .load _ _ acc => acc.filter (!·.scr)
  | .store ws _ => (ws.map (·.1)).filter (!·.scr)
  | .atomic _ _ _ lanes _ _ _ => (lanes.map (·.access)).filter (!·.scr)
  | _ => []

/-- The bytes of accesses to memory. -/
def accessRuns (acc : List Access) : List (Nat × Nat) := (acc.filter (!·.scr)).map fun x => (x.pa, x.n)

/-- Whether a piece of work is a hoist's own memory access, which keeps program order (R211). -/
def Work.access : Work → Bool
  | .load _ _ _ => true
  | .store _ _ => true
  | .atomic _ _ _ _ _ _ _ => true
  | _ => false

/-- The slots that a piece of work names, in slot order (15_cube.md R278). -/
def Work.slots : Work → List Nat
  | .fill n _ _ _ _ => [n]
  | .slotStore n _ _ _ _ => [n]
  | .slotRelease n => [n]
  | .pass j =>
    j.slotA :: j.slotB :: (if j.mode = 0 then [] else
      (List.range (cubeCSlots j.mode j.kp (cubeCBytes j.fmtC))).map (j.slotC + ·))
  | _ => []

/-- The tile that a piece of work names, in tile order (R298). -/
def Work.tile : Work → Option Nat
  | .pass j => some j.tile
  | .promote t => some t
  | .tileRead t _ _ _ _ => some t
  | .tileWrite t _ _ => some t
  | _ => none

/-- Whether an earlier piece of work must complete before a later one. -/
def State.holdsBack (s : State) (x f : Flight) : Bool :=
  (x.src == f.src && x.work.access && f.work.access) ||
  s.ownsOf x (accessRuns f.work.accesses) ||
  (x.block == f.block && x.work.slots.any f.work.slots.contains) ||
  (x.block == f.block && x.work.tile.isSome && x.work.tile == f.work.tile)

/-- Whether a .dev release on a line is promoted (11_ordering.md R225): the line is homed on another chip, or a monitor of an
agent on another chip is registered on it. -/
def State.promotes (s : State) (pa : Nat) : Bool :=
  !homedHere s.die pa || s.foreignMonitors.any fun m => m.pa / 64 == pa / 64

/-- Whether the write of a .dev release has become a promoted one, whose hoist still has posted writes to be acknowledged
(R223, R225). -/
def State.releaseWaits (s : State) (f : Flight) : Bool :=
  let dev := match f.work with
    | .store _ d => d
    | .atomic _ _ _ _ scope _ _ => scope == 2
    | _ => false
  dev && (match s.hoist? f.src with | some h => h.posted != 0 || h.postedHost != 0 | none => false) &&
    f.work.accesses.any fun x => s.promotes x.pa

/-- Whether nothing holds a piece of work back; an access waits for every engine's write that owns its line, one started later
too (09_memory.md R190). -/
def State.enabled (s : State) (f : Flight) : Bool :=
  !((s.before f.id).any fun x => s.holdsBack x f) && !s.releaseWaits f &&
    !(s.flights.any fun x => x.id != f.id && s.ownsOf x (accessRuns f.work.accesses)) && !s.outsOwn (accessRuns f.work.accesses)

/-- Completes the pieces of work in a list of numbers, in order, each that nothing earlier holds back; a pass waits for its
grant (15_cube.md R301). -/
def State.completeList : List Nat → State → State
  | [], s => s
  | n :: ns, s =>
    match s.flight? n with
    | some f => State.completeList ns (if s.enabled f && f.ungranted.isNone then s.completeFlight f else s)
    | none => State.completeList ns s

/-- Settles: completes, oldest first, what can complete up to the last piece of work that satisfies `p` (log 5).  What stays is
for the word to wait for. -/
def State.settle (s : State) (p : Flight → Bool) : State := State.completeList (upToLast p s.flights) s

/-- The pieces of work of a hoist. -/
def State.workOf (s : State) (src : Nat) : List Flight := s.flights.filter (·.src == src)

/-- Settles everything that a hoist has in flight. -/
def State.settleHoist (s : State) (src : Nat) : State := s.settle fun f => f.src == src

/-- Settles a hoist's earlier memory accesses and whatever owns a range it is about to reach. -/
def State.settleAccess (s : State) (src ctx : Nat) (ranges : List (Int × Int)) : State :=
  s.settle fun f => (f.src == src && f.work.access) || ranges.any fun r => f.owns ctx r.1 r.2

/-- Whether a hoist's earlier memory accesses, or work that owns a range, are still in flight. -/
def State.accessBlocked (s : State) (src ctx : Nat) (ranges : List (Int × Int)) : Bool :=
  s.flights.any fun f => (f.src == src && f.work.access) || ranges.any fun r => f.owns ctx r.1 r.2

end Sys2Proof.Machine
end

