-- ==== Sys2Proof/Machine/Ops.lean ====
section
/-!
DEFINITION. The operations that every word shares: who issues, the checks and waits before a word starts
(03_encoding.md R46, R68, R72, R75–R80, 05_control.md R101, 07_lanes.md R446), how it ends, taking a trap, the double
fault, the return from a trap (19_faults.md R333–R339), and the release points of replicated hoists
(21_reliability.md R367, R368).
-/

namespace Sys2Proof.Machine

/-! ### The issuing group -/

/-- The issuing group as a word finds it: the hoist and group that State.cur names. -/
def issuer (w : BitVec 32) (s : State) : Option Env :=
  match s.hoist? s.cur.1 with
  | none => none
  | some h =>
    match h.group? s.cur.2 with
    | none => none
    | some g =>
      if h.groupSlices g.id = [] then none
      else some ⟨s, h, g, s.blockOf h, s.ctxOf h, w, g.ext, h.groupPc g.id, []⟩

/-- The bytes of a word with its EXT. -/
def Env.length (e : Env) : BitVec 32 := match e.ext with | some _ => 8 | none => 4

/-! ### The checks of R80, items 1 and 2 -/

/-- The CFI of a word that is not the PAD its transfer requires (05_control.md R101): the address of the transferring
word in INFO. -/
def Env.stray (e : Env) (i : Instr) : Option Trap :=
  match e.g.landing with
  | none => none
  | some (k, src) => if padKind i = some k then none else some { cls := .cfi, info := (src.extractLsb' 0 32).zeroExtend 64 }

/-- The V registers that a hoist may name: its block's current count (R46). -/
def Env.vLimit (e : Env) : Nat := if e.h.role = .user then e.b.vcnt else 256

/-- What some encodings need of the hoist: a quarter that lies below W (07_lanes.md R143, R151, R152), an Ensign agent
(19_faults.md R345, R352). -/
def Env.fits (e : Env) (i : Instr) : Bool :=
  match i with
  | .pfroms _ _ q => decide (32 * q.toNat < e.h.width)
  | .ptos _ _ q => decide (32 * q.toNat < e.h.width)
  | .vballot _ _ q => decide (32 * q.toNat < e.h.width)
  | .vmatch _ _ q => decide (32 * q.toNat < e.h.width)
  | .gate _ _ => e.h.role == .ensign
  | .ctxsv _ _ _ => e.h.role == .ensign
  | .ctxrs _ _ => e.h.role == .ensign
  | .tlbi _ m _ _ => m != 4 || e.h.role == .ensign
  | _ => true

/-- Whether the word's registers, its EXT and its privilege are what its encoding needs (R46, R70, R75, R77). -/
def Env.legal (e : Env) (i : Instr) : Bool :=
  i.formOk && e.fits i && (!i.privileged || e.h.privileged) && (match e.ext with | some x => i.extOk x | none => true) &&
    (i.reads ++ i.writes).all (·.inCount e.vLimit)

/-- The trap that the word itself settles: CFI, then ILLOP (R80).  No encoding of this manual puts a V register in a
uniform position, so UNIF is never raised. -/
def Env.refusal (e : Env) (i : Instr) : Option Trap :=
  match e.stray i with
  | some t => some t
  | none => if e.legal i && !(e.b.replicated && unreplicable i) then none else some { cls := .illop }

/-! ### Waiting for operands (R68) -/

/-- The registers that a load or an atomic writes. -/
def Target.spans : Target → List RegSpan
  | .v d m => [.v d (Target.v d m).count]
  | .s d m => [.s d (Target.s d m).count]
  | .a _ _ => []

/-- The registers that work in flight still writes. -/
def Work.dests : Work → List RegSpan
  | .load _ t _ => t.spans
  | .atomic _ _ (some t) _ _ _ _ => t.spans
  | .perm d _ => [.v d 1]
  | .tileRead _ d n _ _ => [.v d n]
  | .trace d _ _ _ _ => [.v d 6]
  | .hitrd d attr _ _ => [.v d (attrCount attr)]
  | .beam j => if j.d ≤ 95 then [.s j.d 1] else []
  | _ => []

/-- Whether work writes an A register or a special register: those are always interlocked (R68). -/
def Work.loadsA : Work → Bool
  | .load _ (.a _ _) _ => true
  | .beam j => decide (95 < j.d)
  | _ => false

/-- The registers beyond those of the word that its operands name: read, written (09_memory.md R206, 15_cube.md R297,
23_rendering.md R384). -/
def Env.extra (e : Env) (i : Instr) : List RegSpan × List RegSpan :=
  match i with
  | .qpush f _ _ b => ([.v f.toNat ((queueWord (e.h.spair b.toNat)).size / 4)], [])
  | .qpop f _ _ b => ([], [.v f.toNat ((queueWord (e.h.spair b.toNat)).size / 4)])
  | .mxrd d _ b => ([], [.v d.toNat (bitsOf (e.sval b).toNat 9 8 + 1)])
  | .mxwr d _ b => ([.v d.toNat (bitsOf (e.sval b).toNat 9 8 + 1)], [])
  | .hitrd d _ b => ([], [.v d.toNat (attrCount (bitsOf (e.sval b).toNat 6 4))])
  | _ => ([], [])

/-- The registers that the word's operands name besides its own. -/
def Env.extraSpans (e : Env) (i : Instr) : List RegSpan := (e.extra i).1 ++ (e.extra i).2

/-- Whether work in flight still writes a register of a list. -/
def Flight.holdsUp (f : Flight) (xs : List RegSpan) : Bool := f.work.dests.any fun x => xs.any (x.meets ·)

/-- The register of a saved value. -/
def Saved.span : Saved → RegSpan
  | .v n _ => .v n 1
  | .s n _ => .s n 1
  | .p n _ => .p n

/-- The fixed-latency writes that registers meet and that have not settled at a clock (R68). -/
def Hoist.pendingAt (h : Hoist) (xs : List RegSpan) (clock : Nat) : List Busy :=
  h.busy.filter fun b => decide (clock < b.settles) && xs.any (b.old.span.meets ·)

/-- The latest settling clock of a list, at least `n`. -/
def latest (n : Nat) (bs : List Busy) : Nat := bs.foldl (fun a b => max a b.settles) n

/-- Whether a write of S registers: S writes of other groups are always interlocked (R47). -/
def Saved.scalar : Saved → Bool
  | .s _ _ => true
  | _ => false

/-- How a word stands before it executes. -/
inductive Issue where
  /-- It starts; `old` holds the earlier values of registers that a TRUST word may read either way. -/
  | ready (e : Env) (old : List Saved)
  | trap (t : Trap) (e : Env)
  /-- It cannot start yet. -/
  | wait (e : Env)
  /-- Its group left while earlier work completed. -/
  | gone (s : State)
  deriving Repr

/-- The environment once the clock has come to `n`. -/
def Env.startAt (e : Env) (n : Nat) : Env := { e with s := e.s.advance (n - e.s.clock) }

/-- The environment once every earlier piece of work that satisfies `p` has completed. -/
def Env.settle (e : Env) (p : Flight → Bool) : Env := e.at (e.s.settle p)

/-- Whether the group is still there. -/
def Env.here (e : Env) : Bool := e.h.groupSlices e.g.id != []

/-- Waits until no write of some registers is outstanding (R68). -/
def Env.interlockOn (e : Env) (xs : List RegSpan) : Issue :=
  let mine (f : Flight) : Bool := f.src == e.h.src && (f.work.loadsA || f.holdsUp xs)
  let e := if e.s.flights.any mine then e.settle mine else e
  if !e.here then .gone e.s
  else if e.s.flights.any mine then .wait e
  else .ready (e.startAt (latest e.s.clock (e.h.pendingAt xs e.s.clock))) []

/-- The word waits until no write of its registers is outstanding (R68). -/
def Env.interlock (e : Env) (i : Instr) : Issue :=
  match e.interlockOn i.spans with
  | .ready e old => if e.extraSpans i = [] then .ready e old else e.interlockOn (e.extraSpans i)
  | x => x

/-- The old value of each register in a list of spans, for the flights that still write them. -/
def Hoist.snapshotSpans (h : Hoist) : List RegSpan → List Saved
  | [] => []
  | .v n c :: rest => (List.range c).map (fun k => Saved.v (n + k) (h.vreg (n + k))) ++ h.snapshotSpans rest
  | .s n c :: rest => (List.range c).map (fun k => Saved.s (n + k) (h.sreg (n + k))) ++ h.snapshotSpans rest
  | .p n :: rest => .p n (h.preg n) :: h.snapshotSpans rest

/-- A covered word with count c under TRUST or CHECK (R68): A registers and the S writes of other groups are interlocked
all the same. -/
def Env.trusted (e : Env) (i : Instr) (c : Nat) (check : Bool) : Issue :=
  let xs := i.spans ++ e.extraSpans i
  let other (f : Flight) : Bool := f.src == e.h.src && (f.work.loadsA || (f.group != e.g.id && f.holdsUp xs))
  let e := if e.s.flights.any other then e.settle other else e
  if !e.here then .gone e.s
  else if e.s.flights.any other then .wait e
  else
    let start := max e.s.clock (e.g.lastWord + c)
    let foreign := (e.h.pendingAt xs start).filter fun b => b.group != e.g.id && b.old.scalar
    let e := e.startAt (latest start foreign)
    let own (f : Flight) : Bool := f.src == e.h.src && f.group == e.g.id && f.holdsUp xs
    let busy := (e.h.pendingAt xs e.s.clock).filter (·.group == e.g.id)
    if !e.s.flights.any own && busy.isEmpty then .ready e []
    else if check then .trap { cls := .stall } e
    else
      let spans := ((e.s.flights.filter own).flatMap fun f => f.work.dests).filter fun x => xs.any (x.meets ·)
      let old := busy.map (·.old) ++ e.h.snapshotSpans spans
      let e := e.settle own
      if !e.here then .gone e.s
      else if e.s.flights.any own then .wait e
      else .ready e old

/-- The count that covers the word, when coverage and the scoreboard mode make it count (R67, R68). -/
def Env.cover? (e : Env) (i : Instr) : Option Nat :=
  if i.isHint || e.c.sbmode == 0 then none else e.g.cover.head?

/-- The word with its operands ready, or what holds it. -/
def Env.operands (e : Env) (i : Instr) : Issue :=
  match e.cover? i with
  | some c => e.trusted i c (e.c.sbmode == 2)
  | none => e.interlock i

/-! ### Forwarded values of replicas (21_reliability.md R366) -/

/-- The forwarded selectors that a word reads, in order. -/
def forwardedReads (i : Instr) : List Nat :=
  i.reads.filterMap fun x => match x with | .s n 1 => if forwardedSel n then some n else none | _ => none

/-- Whether two blocks are replicas of one block (R362). -/
def Block.sameRun (a b : Block) : Bool := a.ctx == b.ctx && a.entry == b.entry && a.linear == b.linear && a.id != b.id

/-- The hoists paired with a hoist. -/
def State.pairs (s : State) (h : Hoist) : List Hoist :=
  let b := s.blockOf h
  s.hoists.filter fun x => x.role == .user && !x.retired && x.index == h.index && (s.blockOf x).sameRun b

/-- The place of a block in its grid, by which its replicas are told (R362). -/
def Block.run (b : Block) : Nat × Nat × Nat := (b.ctx, b.entry, b.linear)

/-- Whether a saved block is another replica of a block. -/
def Block.otherReplica (a b : Block) : Bool := a.run == b.run && a.replica != b.replica

/-- The other replicas of a block that are neither resident nor saved: they have not been admitted yet. -/
def State.unadmitted (s : State) (b : Block) : List Nat :=
  (List.range b.replicas).filter fun r =>
    r != b.replica && !(s.blocks.any fun x => x.run == b.run && x.replica == r) &&
      !(s.aside.any fun x => x.block.run == b.run && x.block.replica == r)

/-- The forwarded values that wait for a hoist of a replica not yet admitted. -/
def State.mailFor (s : State) (run : Nat × Nat × Nat) (replica index : Nat) : List (List Word) :=
  (s.mail.filter fun m => m.block == run && m.replica == replica && m.index == index).flatMap (·.values)

/-- How many forwarded values are outstanding for each pair: resident, saved, not yet admitted. -/
def State.outstanding (s : State) (h : Hoist) (b : Block) : List Nat :=
  ((s.pairs h).map fun x => x.forwarded.length) ++
  ((s.aside.filter (·.block.otherReplica b)).flatMap fun a =>
    (a.hoists.filter (·.index == h.index)).map fun x => x.forwarded.length) ++
  (s.unadmitted b).map fun r => (s.mailFor b.run r h.index).length

/-- Whether a producer may forward n more values: up to 256 are outstanding for each pair (R366). -/
def Env.roomFor (e : Env) (n : Nat) : Bool := (e.s.outstanding e.h e.b).all fun k => decide (k + n ≤ 256)

/-- The values of special registers read one after the other by one word (01_machine.md R40). -/
def Env.readInTurn (e : Env) : List Nat → Option Word → List Word
  | [], _ => []
  | n :: ns, latch => e.special latch n :: e.readInTurn ns (latchAfter e.now latch n)

/-- The values of a word's own reads that are forwarded, in order. -/
def Env.readsOf (e : Env) (i : Instr) : List Word := e.readInTurn (forwardedReads i) e.h.regs.latch

/-- Whether a leader sends the values of the word's reads when it ends. -/
def Env.sendsReads (e : Env) (i : Instr) : Bool := e.leads && forwardedReads i != [] && !e.takes

/-- Whether a producer may forward the value of the word's own effect, behind those of its reads. -/
def Env.mayForward (e : Env) : Bool :=
  match decode e.w with
  | .ok i => e.roomFor (if e.sendsReads i then 2 else 1)
  | .error _ => e.roomFor 1

/-- A value put behind the first n of a list. -/
def putAfter (n : Nat) (v : List Word) (xs : List (List Word)) : List (List Word) := xs.take n ++ [v] ++ xs.drop n

/-- Sends forwarded values to every paired hoist, behind what it had in the state `old`: to resident ones, to saved ones,
and, for replicas that have not been admitted yet, to be delivered when they start. -/
def Env.forwardBehind (e : Env) (old : State) (vals : List Word) (s : State) : State :=
  let ps := (s.pairs e.h).map (·.src)
  let sent (src : Nat) : Nat := match old.hoist? src with | some x => x.forwarded.length | none => 0
  let held (frame : VAddr) : Nat :=
    ((old.aside.filter fun a => a.frame == frame && a.block.otherReplica e.b).flatMap fun a =>
      (a.hoists.filter (·.index == e.h.index)).map fun x => x.forwarded.length).headD 0
  { s with
    hoists := s.hoists.map fun x =>
      if ps.contains x.src then { x with forwarded := putAfter (sent x.src) vals x.forwarded } else x
    aside := s.aside.map fun a =>
      if a.block.otherReplica e.b then
        { a with hoists := a.hoists.map fun x =>
            if x.index == e.h.index then { x with forwarded := putAfter (held a.frame) vals x.forwarded } else x }
      else a
    mail := (s.unadmitted e.b).foldl (fun mail r =>
      ⟨e.b.run, r, e.h.index, putAfter (old.mailFor e.b.run r e.h.index).length vals (s.mailFor e.b.run r e.h.index)⟩ ::
        mail.filter fun m => !(m.block == e.b.run && m.replica == r && m.index == e.h.index)) s.mail }

/-- Sends forwarded values to every paired hoist. -/
def Env.forward (e : Env) (vals : List Word) (s : State) : State := e.forwardBehind s vals s

/-- Sends the values of the word's own reads, before any that its body has sent. -/
def Env.forwardReads (e : Env) (vals : List Word) (s : State) : State := e.forwardBehind e.s vals s

/-- The forwarded value that a word's own effect waits for, after that of its reads. -/
def Env.received (e : Env) (i : Instr) : Option (List Word) := e.h.forwarded[if forwardedReads i = [] then 0 else 1]?

/-- The forwarded value of a word's own effect is used up. -/
def Hoist.consume (h : Hoist) (i : Instr) : Hoist :=
  { h with forwarded := h.forwarded.eraseIdx (if forwardedReads i = [] then 0 else 1) }

/-- Whether a word of the group needs a forwarded value that has not come, or may not send one yet. -/
def Env.starved (e : Env) (i : Instr) : Bool :=
  forwardedReads i != [] && ((e.follows && e.h.forwarded.isEmpty) || (e.sendsReads i && !e.roomFor 1))

/-! ### Starting -/

/-- Whether the word acts for live lanes and finds none (07_lanes.md R446). -/
def Env.idle (e : Env) (i : Instr) : Bool := i.laneWise && (e.h.activeLanes e.g.id == [])

/-- Whether the word counts: with a live lane, or on the scalar path (R72); SPILL and FILL count while some lane of the
group is not dead. -/
def Env.counts (e : Env) (i : Instr) : Bool :=
  i.counter.isSome &&
    (match i with
     | .spill _ _ _ => e.h.groupLanes e.g.id != []
     | .fill _ _ _ => e.h.groupLanes e.g.id != []
     | _ => i.scalarPath || e.h.activeLanes e.g.id != [])

/-- Whether the word's counter reads 63 (R72). -/
def Env.counterFull (e : Env) (i : Instr) : Bool :=
  e.counts i && match i.counter with | some k => e.h.counters.get k == 63 | none => false

/-- A counting word whose counter reads 63 waits: here for the hoist's earlier work to complete. -/
def Env.countRoom (e : Env) (i : Instr) : Issue :=
  if e.counterFull i then
    let e := e.settle fun f => f.src == e.h.src
    if !e.here then .gone e.s else if e.counterFull i then .wait e else .ready e []
  else .ready e []

/-- The earlier atomics of the group that hold a word back: those without .ord, and for a word that is no .ord atomic
those with it (R231, R234). -/
def Env.atomicsBefore (e : Env) (i : Instr) (f : Flight) : Bool :=
  f.src == e.h.src && f.group == e.g.id &&
    match i.ordered?, f.work with
    | some own, .atomic _ _ _ _ _ ordered _ => !(own && ordered)
    | _, _ => false

/-- The word waits for the atomics before it. -/
def Env.afterAtomics (e : Env) (i : Instr) : Issue :=
  let e := if e.s.flights.any (e.atomicsBefore i) then e.settle (e.atomicsBefore i) else e
  if !e.here then .gone e.s else if e.s.flights.any (e.atomicsBefore i) then .wait e else .ready e []

/-- Whether a word makes an access of its own: ALD, AST, loads and stores, copies, byte-counting barriers, queues, atomics, slot
moves, queries, layered targets, TRET, CTXSV and CTXRS. -/
def wordAccesses (w : BitVec 32) : Bool :=
  let op := w.toNat / 2 ^ 24
  let from_ (a b : Nat) : Bool := decide (a ≤ op) && decide (op ≤ b)
  from_ 0x36 0x37 || from_ 0xB0 0xBC || op == 0xBF || from_ 0xC2 0xC6 || from_ 0xC8 0xCC || from_ 0xCE 0xCF || op == 0xD7 ||
    op == 0xD9 || from_ 0xDD 0xDE || from_ 0xE0 0xE6 || from_ 0xF2 0xF4

/-- Whether a FENCE.ar of another group of the hoist keeps the word from starting (11_ordering.md R237). -/
def Env.fenced (e : Env) : Bool := e.h.regs.groups.any (fun g => g.id != e.g.id && g.wait == .fence) && wordAccesses e.w

/-- Everything before the word executes: R80 items 1 to 4, then the waits. -/
def Env.issue (e : Env) (i : Instr) : Issue :=
  match e.refusal i with
  | some t => .trap t e
  | none =>
    if e.fenced then .wait e else
    match e.operands i with
    | .ready e old =>
      if e.idle i then .ready e old
      else if e.starved i then .wait e
      else
        match e.afterAtomics i with
        | .ready e _ =>
          match e.countRoom i with
          | .ready e _ => .ready e old
          | x => x
        | x => x
    | x => x

/-! ### TRUST: old or new values (R68) -/

/-- A free bit for a lane of a register read either way; a register takes four words of them. -/
def eitherWay (n l : Nat) : Bool := (Config.freeWord (n + l / 32)).getLsbD (l % 32)

/-- Registers read either way: each lane of a V or P register, and an S register whole, by free bits. -/
def mixRegister (h : Hoist) (n : Nat) : Saved → Hoist
  | .v r old =>
    h.setV r { tag := .g, lanes := (h.vreg r).lanes.mapIdx fun l w => if eitherWay n l then old.lanes[l]?.getD w else w }
  | .s r old => if eitherWay n 0 then h.setS r old else h
  | .p r old => h.setP r (maskOf (fun l => if eitherWay n l then old.getLsbD l else (h.preg r).getLsbD l) h.width)

/-- Mixes a list of registers, each with its own free bits. -/
def mixAll : List Saved → Nat → Hoist → Hoist
  | [], _, h => h
  | x :: xs, n, h => mixAll xs (n + 4) (mixRegister h n x)

/-- The registers of a list that the word reads. -/
def Env.sources (e : Env) (i : Instr) (old : List Saved) : List Saved :=
  old.filter fun x => (i.reads ++ (e.extra i).1).any (x.span.meets ·)

/-- The environment in which a TRUST word reads its sources old or new. -/
def Env.mixed (e : Env) (i : Instr) (old : List Saved) : Env :=
  let xs := e.sources i old
  if xs.isEmpty then e
  else
    let h := mixAll xs e.s.fresh e.h
    { e with h := h, s := { e.s with fresh := e.s.fresh + 4 * xs.length }.putHoist h }

/-- A register after a TRUST word: what the word has not changed from what it found (`was`) holds the earlier write's value
(`real`); a lane that it changed ends with either write's value.  A lane in which the word leaves what it read counts as not
written (DESIGN CHOICE, log 57). -/
def unmixRegister (real was : Hoist) (n : Nat) (h : Hoist) : Saved → Hoist
  | .v r _ =>
    if h.vreg r = was.vreg r ∨ h.vreg r = real.vreg r then h.setV r (real.vreg r)
    else h.setV r { tag := .g, lanes := (h.vreg r).lanes.mapIdx fun l w =>
      if w == (was.vreg r).lanes[l]?.getD w || eitherWay n l then (real.vreg r).lanes[l]?.getD w else w }
  | .s r _ => if h.sreg r == was.sreg r || eitherWay n 0 then h.setS r (real.sreg r) else h
  | .p r _ =>
    h.setP r (maskOf (fun l =>
      if (h.preg r).getLsbD l == (was.preg r).getLsbD l || eitherWay n l then (real.preg r).getLsbD l
      else (h.preg r).getLsbD l) h.width)

/-- Puts a list of registers right after a TRUST word. -/
def unmixAll (real was : Hoist) : List Saved → Nat → Hoist → Hoist
  | [], _, h => h
  | x :: xs, n, h => unmixAll real was xs (n + 4) (unmixRegister real was n h x)

/-- After a TRUST word, however it ends: registers and lanes that it did not write hold the earlier write's value, and a
destination ends, per lane, with either write's value. -/
def Env.unmix (e : Env) (i : Instr) (old : List Saved) (s : State) : State :=
  if old.isEmpty then s
  else ({ s with fresh := s.fresh + 4 * old.length }).updHoist e.h.src (unmixAll e.h (e.mixed i old).h old s.fresh)

/-! ### Ending a word -/

/-- Extra bank-read cycles (R63). -/
def Env.bankCycles (e : Env) (i : Instr) : Nat :=
  if i.scalarPath || e.h.activeLanes e.g.id == [] then 0
  else
    let regs := (i.reads.flatMap fun x => match x with
      | .v f c => (List.range c).map (f + ·)
      | _ => []).eraseDups.filter fun n =>
        (e.h.vreg n).tag == .g && !e.h.holds.any fun x => x.reg == n && x.group == e.g.id
    let bank (b : Nat) : Nat := (regs.filter (· % 4 == b)).length
    max (max (bank 0) (bank 1)) (max (bank 2) (bank 3)) - 1

/-- The fixed-latency writes that a word leaves outstanding (R68). -/
def Env.newBusy (e : Env) (i : Instr) : List Busy :=
  if i.latency = 0 then []
  else
    let settles := e.s.clock + i.latency + e.bankCycles i
    (e.h.snapshotSpans (i.writes.filter fun x => match x with
      | .s n _ => decide (n ≤ 95)
      | _ => true)).map fun x => ⟨e.g.id, settles, x⟩

/-- The entries that a V field and its hold code add for a group: a 64-bit pair takes two (R64, R69). -/
def holdEntries (g : Nat) (i : Instr) (field : Option (BitVec 8)) (code : Nat) : List Hold :=
  match field with
  | none => []
  | some r =>
    if code = 0 then []
    else
      let pair : Bool := i.spans.any fun x => match x with | .v f c => f == r.toNat && c == 2 | _ => false
      if pair then [⟨g, r.toNat, code⟩, ⟨g, r.toNat + 1, code⟩] else [⟨g, r.toNat, code⟩]

/-- Removes the entry with the fewest words left, the oldest on a tie (R64). -/
def evict (hs : List Hold) : List Hold :=
  match hs.map (·.left) with
  | [] => []
  | n :: ns => let m := ns.foldl min n; hs.eraseP (·.left == m)

/-- A hold placed in the latch of three entries. -/
def addHold (hs : List Hold) (x : Hold) : List Hold :=
  let hs := hs.filter fun y => y.reg != x.reg || y.group != x.group
  (if 3 ≤ hs.length then evict hs else hs) ++ [x]

/-- The hold latch after a word of a group: the group's own entries come nearer to their end, and a register that is
written leaves whatever group it serves (R64, R69). -/
def holdsAfter (g : Nat) (i : Instr) (codes : Option (Nat × Nat × Nat)) (hs : List Hold) : List Hold :=
  if i.isHint then hs
  else
    let aged := (hs.map fun x => if x.group = g then { x with left := x.left - 1 } else x).filter (·.left != 0)
    let kept := aged.filter fun x => !i.writes.any fun w => (RegSpan.v x.reg 1).meets w
    match codes with
    | none => kept
    | some (d, a, b) =>
      let (fd, fa, fb) := i.vFields
      (holdEntries g i fd d ++ holdEntries g i fa a ++ holdEntries g i fb b).foldl addHold kept

/-- A slice's signature after a word that completed at handler depth 0 (21_reliability.md R353, R354). -/
def Env.cfsAfter (e : Env) (i : Instr) (c : Word) : Word :=
  if e.h.regs.depth ≠ 0 then c
  else if i.isTransfer then (match i with | .regang => cfsFold 0 cfsReconverge | _ => 0)
  else
    match i with
    | .chk _ => c
    | _ =>
      let c := match e.ext with | some x => cfsFold c (0x03#8 ++ x) | none => c
      let c := cfsFold c e.w
      if i.changesMask then cfsFold c cfsMaskChange else c

/-- The group after one of its words has completed. -/
def Env.groupAfter (e : Env) (i : Instr) (taken : Bool) (x : Group) : Group :=
  { x with
    last := e.s.clock
    lastWord := if i.isHint then x.lastWord else e.s.clock
    cover := if taken then [] else if i.isHint then x.cover else x.cover.tail
    codes := if taken then [] else if i.isHint then x.codes else x.codes.tail
    ext := none
    wait := if x.wait = e.g.wait then .running else x.wait
    resumed := (match i with | .tret => true | _ => false)
    refused := false
    owed := false
    yielded := (match i with | .yield => true | _ => false)
    beam := none
    outs := [] }

/-- Whether a register, word or bit that holds an error is one of a span. -/
def Flaw.within (f : Flaw) (x : RegSpan) : Bool :=
  match x, f with
  | .v a n, .v r _ => decide (a ≤ r) && decide (r < a + n)
  | .p n, .p r _ => n == r
  | .s a n, .s r => decide (a ≤ r) && decide (r < a + n)
  | _, _ => false

/-- The lane of a register word or bit that holds an error. -/
def Flaw.lane : Flaw → Option Nat
  | .v _ l => some l
  | .p _ l => some l
  | .s _ => none
  | .slot => none

/-- The source lane of a VSHFL (07_lanes.md R144). -/
def shflSource (mode w l k : Nat) : Int :=
  match mode with
  | 0 => l + k
  | 1 => (l : Int) - k
  | 2 => (l ^^^ k : Nat)
  | 3 => ((l + k) % w : Nat)
  | _ => ((l : Int) - k) % w

/-- The lane whose word a cross-lane read delivers to lane L from source lane s: s, or L itself; none for a dead lane
(07_lanes.md R133).  A lane that dies in this word still takes part in it. -/
def Env.sourceLane (e : Env) (l : Nat) (src : Int) : Option Nat :=
  if 0 ≤ src ∧ src < e.h.width then
    if e.h.active e.g.id src.toNat || e.felled.contains src.toNat then some src.toNat
    else if e.h.regs.dead.getLsbD src.toNat then none
    else some l
  else some l

/-- Whether the word reads or writes lane l of its registers: predicate logic, the mask instructions, PFROMS, PTOS and the
spills act on lanes whatever EXEC holds (05_control.md R105, R108, 07_lanes.md R142, R143, 09_memory.md R182). -/
def Env.touches (e : Env) (i : Instr) (l : Nat) : Bool :=
  match i with
  | .pand _ _ _ => e.h.laneIn e.g.id l
  | .por _ _ _ => e.h.laneIn e.g.id l
  | .pxor _ _ _ => e.h.laneIn e.g.id l
  | .pnot _ _ => e.h.laneIn e.g.id l
  | .mset _ _ => e.h.laneIn e.g.id l
  | .msave _ => e.h.laneIn e.g.id l
  | .mrest _ => e.h.laneIn e.g.id l
  | .pfroms _ _ q => e.h.laneIn e.g.id l && l / 32 == q.toNat
  | .ptos _ _ q => e.h.laneIn e.g.id l && l / 32 == q.toNat
  | .spill _ _ _ => e.h.laneIn e.g.id l && !e.h.regs.dead.getLsbD l
  | .fill _ _ _ => e.h.laneIn e.g.id l && !e.h.regs.dead.getLsbD l
  | _ => e.h.active e.g.id l

/-- The live active lanes to which a cross-lane read delivers the word of lane s. -/
def Env.receivers (e : Env) (src : Nat → Int) (s : Nat) : List Nat :=
  (e.h.activeLanes e.g.id).filter fun l => e.sourceLane l (src l) == some s

/-- The lanes for which the word reads a register word or bit that holds an error: across lanes, those that it is delivered to
(21_reliability.md R359, 07_lanes.md R133). -/
def Env.readers (e : Env) (i : Instr) (f : Flaw) : List Nat :=
  let own := f.lane.toList.filter (e.touches i)
  match i, f with
  | .vshfl _ _ m r n, .v _ s =>
    e.receivers (fun l => shflSource m.toNat e.h.width l (if r = 1 then e.h.width / 2 ^ n.toNat else n.toNat)) s
  | .vbroad _ _ b, .v _ s => e.receivers (fun _ => (e.sval b).toNat) s
  | .vperm _ a b, .v r s =>
    (if r = a.toNat then e.receivers (fun l => (e.h.vword b.toNat l).toNat) s else []) ++ (if r = b.toNat then own else [])
  | _, _ => own

/-- The lanes for which the word reads an error (21_reliability.md R359). -/
def Env.hurt (e : Env) (i : Instr) : List Nat :=
  (e.h.flaws.flatMap fun f => if (i.reads ++ (e.extra i).1).any f.within then e.readers i f else []).eraseDups

/-- Whether the word writes lane l of its registers: lanes put in order are written in every live place (07_lanes.md R155,
R158), and a lane that dies writes nothing (21_reliability.md R359). -/
def Env.writesLane (e : Env) (i : Instr) (l : Nat) : Bool :=
  !e.felled.contains l &&
    match i with
    | .vreord _ _ _ _ => e.h.laneIn e.g.id l && !e.h.regs.dead.getLsbD l
    | .vregrp _ _ _ _ => e.h.laneIn e.g.id l && !e.h.regs.dead.getLsbD l
    | _ => e.touches i l

/-- Whether the word writes the register word or bit that holds an error. -/
def Env.mends (e : Env) (i : Instr) (f : Flaw) : Bool :=
  (i.writes ++ (e.extra i).2).any f.within && f.lane.elim (!e.idle i) (e.writesLane i)

/-- Whether the word's execution meets an error that every lane of the hoist dies of: in an S register that it reads, or in
the hoist's other state (21_reliability.md R361). -/
def Env.struck (e : Env) (i : Instr) : Bool :=
  e.h.flaws.any fun f => match f with
    | .s _ => !e.idle i && (i.reads ++ (e.extra i).1).any f.within
    | .slot => true
    | _ => false

/-- The timestamp latch after a word's reads (01_machine.md R40). -/
def Env.latchAfterWord (e : Env) (i : Instr) (latch : Option Word) : Option Word :=
  i.reads.foldl (fun l x => match x with | .s n 1 => latchAfter e.now l n | _ => l) latch

/-- The hoist after one of its group's words has completed: program counters, signatures, coverage, the latches and the
outstanding writes. -/
def Env.hoistAfter (e : Env) (i : Instr) (taken : Bool) (h : Hoist) : Hoist :=
  let ns := e.h.groupSlices e.g.id
  let h := h.updSliceList ns fun _ x =>
    { x with pc := if taken then x.pc else x.pc + e.length, cfs := e.cfsAfter i x.cfs }
  let h := h.updGroup e.g.id (e.groupAfter i taken)
  { h with
    busy := h.busy.filter (fun b => decide (e.s.clock + 1 < b.settles)) ++ e.newBusy i
    holds := holdsAfter e.g.id i e.g.codes.head? h.holds
    holder := if e.b.replicated then some e.g.id else none
    flaws := if h.flaws.isEmpty then [] else h.flaws.filter fun f => !e.mends i f
    forwarded := if e.takes && forwardedReads i != [] then h.forwarded.tail else h.forwarded
    regs := { h.regs with latch := e.latchAfterWord i h.regs.latch } }

/-- The forwarded values of the word's reads go to the paired hoists (21_reliability.md R366). -/
def Env.forwardWord (e : Env) (i : Instr) (s : State) : State :=
  if e.sendsReads i then e.forwardReads (e.readsOf i) s else s

/-- What a release word of a replicated hoist did has completed: the snapshot is taken, the offer ends, and the group no
longer holds issue (R363, R368). -/
def Hoist.snapshotAfter (h : Hoist) (g : Nat) : Hoist :=
  match h.offer with
  | some o => if o.group = g ∧ o.vote.isSome then { h with offer := none, snapshot := some h.regs, holder := none } else h
  | none => h

/-- The word that has read some V registers old or new has read them as G (R63, R68). -/
def Env.asRead (e : Env) (old : List Saved) : Env :=
  { e with h := old.foldl (fun h x => match x with
      | .v n _ => h.setV n { h.vreg n with tag := .g }
      | _ => h) e.h }

/-- A word has completed. -/
def Env.complete (e : Env) (i : Instr) (taken : Bool) (s : State) : State :=
  let s := e.forwardWord i s
  (s.updHoist e.h.src fun h => (e.hoistAfter i taken h).snapshotAfter e.g.id).spend e.h.src

/-- The group whose word waits: one that could not start has had a look, any other has started (01_machine.md R17). -/
def Group.waits (x : Group) (w : Wait) (clock : Nat) : Group :=
  if w = .retry then { x with wait := w, ext := none, tried := clock }
  else { x with wait := w, ext := none, last := clock, yielded := false }

/-- A word waits at its place: it executes afresh, its EXT first, when the wait ends (19_faults.md R340). -/
def Env.stay (e : Env) (w : Wait) (s : State) : State :=
  let s := s.updHoist e.h.src fun h => h.updGroup e.g.id (·.waits w e.s.clock)
  if w = .retry then s else s.spend e.h.src

/-! ### Taking a trap (19_faults.md R335–R338) -/

/-- Class codes (R333). -/
def TrapClass.code : TrapClass → Nat
  | .illop => 0
  | .emul => 1
  | .unif => 2
  | .stall => 3
  | .bound => 4
  | .xlate => 5
  | .perm => 6
  | .tierw => 7
  | .cfi => 8
  | .sig => 9
  | .scope => 10
  | .tilecfg => 11
  | .stackov => 12
  | .poolx => 13
  | .rmis => 14
  | .fpx => 15
  | .trap => 16

/-- The word that a frame names: the EXT before the word, except that an EMUL names the emulated word (R71, R333). -/
def Env.named (e : Env) (t : Trap) : VAddr × BitVec 32 :=
  match e.ext with
  | none => (e.pc, e.w)
  | some x => if t.cls = .emul then (e.wordPc, e.w) else (e.pc, 0x03#8 ++ x)

/-- What a record of a lost hoist holds of the word that met the error (21_reliability.md R372). -/
def Env.namedData (e : Env) : List Byte :=
  let (named, word) := e.named { cls := .illop }
  namedWordData named word

/-- A bit at a place. -/
def bitAt (c : Bool) (n : Nat) : Nat := if c then 2 ^ n else 0

/-- The 128 bytes of a trap frame (R338).  EXTW is the EXT before the named word; a frame that names the EXT itself has
none before it. -/
def Env.frame (e : Env) (t : Trap) (time : BitVec 64) : List Byte :=
  let (named, word) := e.named t
  let before := if t.cls = .emul then e.ext else none
  let flags := bitAt t.resumeNext 0 + bitAt before.isSome 1 + bitAt t.va.isSome 2 + bitAt t.copy 3 + bitAt t.cpys 4
  natLe 9 named.toNat ++ natLe 1 t.cls.code ++ natLe 1 flags ++ natLe 1 t.detail ++
    natLe 4 ((e.h.groupSlices e.g.id).foldl (fun a n => a + 2 ^ n) 0) ++ natLe 16 t.lanes.toNat ++
    natLe 16 e.h.regs.exec.toNat ++ natLe 4 word.toNat ++
    natLe 4 (match before with | some x => (0x03#8 ++ x).toNat | none => 0) ++
    natLe 9 (match t.va with | some a => a.toNat | none => 0) ++ natLe 1 t.key ++ natLe 2 0 ++
    natLe 4 e.h.regs.xprog.toNat ++ natLe 8 t.info.toNat ++ natLe 4 (e.h.sreg 93).toNat ++ natLe 4 0 ++
    natLe 8 time.toNat ++ natLe 32 0

/-- How the frame write ends: written, impossible (a double fault), or to be made later. -/
inductive FrameWrite where
  | written (s : State)
  | double
  | wait (w : Wait) (s : State)
  deriving Repr

/-- The bytes in a write buffer (21_reliability.md R365). -/
def bufferBytes (ws : List BufferedWrite) : Nat := ws.foldl (fun n w => n + w.data.length) 0

/-- Writes bytes over runs as a hoist's store: in its write buffer when it is replicated. -/
def State.storeRuns (src block ctx : Nat) (va : VAddr) : Runs → List Byte → State → State
  | [], _, s => s
  | (pa, n) :: rest, bs, s =>
    State.storeRuns src block ctx (va + BitVec.ofNat 72 n) rest (bs.drop n)
      (s.writeAccess src block ctx ⟨0, false, va, pa, n⟩ (bs.take n))

/-- Folds an item into the hoist's store signature when it is replicated (R364). -/
def Hoist.foldItem (h : Hoist) (replicated : Bool) (va : VAddr) (kind modifier : Nat) (data : List Byte) : Hoist :=
  if replicated then { h with regs := { h.regs with ssig := ssigItem h.regs.ssig va kind modifier data } } else h

/-- The forwarded values that the issuing word reads. -/
def Env.wordReads (e : Env) : List Word :=
  match decode e.w with
  | .ok i => e.readsOf i
  | .error _ => []

/-- A release point that a word reaches before its effect, with the items it folds (R367, R368): the offer is made, and
the group waits for the vote.  A leader forwards the values that the word has read, and keeps them for itself. -/
def Env.offerRelease (e : Env) (ssig : BitVec 64) (s : State) : State :=
  if e.h.offer.isSome then s
  else
    let vals := e.wordReads
    let s := s.updHoist e.h.src fun h => { h with
      offer := some ⟨e.g.id, e.wordPc, ssig, none⟩
      lateFrom := none
      forwarded := if e.leads && vals != [] then [vals] else h.forwarded }
    if e.leads && vals != [] then e.forward vals s else s

/-- Whether the end of a piece of work writes registers or flags of its hoist. -/
def Work.delivers : Work → Bool
  | .pass _ => true
  | .promote _ => true
  | w => w.dests != [] || w.loadsA

/-- Whether a piece of work still has a result for the hoist. -/
def Env.resulting (e : Env) (f : Flight) : Bool := f.src == e.h.src && f.work.delivers

/-- The environment once earlier work has delivered what it can to the hoist's registers. -/
def Env.quieted (e : Env) : Env := if e.s.flights.any e.resulting then e.settle e.resulting else e

/-- A release word's offer is made once every result of the hoist's earlier work is in its registers, so that the state which a
vote, a copy of the committer or a snapshot takes holds them (R368, R369; DESIGN CHOICE, log 62). -/
def Env.offerOrWait (e : Env) (ssig : BitVec 64) : Res :=
  let e := e.quieted
  if !e.here then .gone e.s
  else if e.s.flights.any e.resulting then .wait .retry e.s
  else .wait .release (e.offerRelease ssig e.s)

/-- How many values of the hoist's own list a word has read when it traps: its reads' values are one entry. -/
def Env.ownEntries (e : Env) (reads : List Word) : Nat := if reads != [] && e.takes then 1 else 0

/-- The values that a trapping word of the leader has read go to the other replicas. -/
def Env.shareReads (e : Env) (reads : List Word) (s : State) : State :=
  if e.leads && reads != [] && !e.takes then e.forward reads s else s

/-- The values that the trapping word has read, then the TIME of its frame, go from the leader to the other replicas; what a
replica has taken from its list is used up (21_reliability.md R366). -/
def Env.shareTime (e : Env) (reads : List Word) (time : BitVec 64) (s : State) : State :=
  let s := e.shareReads reads s
  let s := if e.leads then e.forward [time.extractLsb' 0 32, time.extractLsb' 32 32] s else s
  s.updHoist e.h.src fun h =>
    { h with forwarded := h.forwarded.drop (e.ownEntries reads + if e.follows then 1 else 0) }

/-- Writes the trap frame through a15 at s93 − 128 (R335).  `reads` are the forwarded values that the trapping word has read. -/
def Env.writeFrame (e : Env) (t : Trap) (reads : List Word := []) : FrameWrite :=
  let a := e.h.areg 15
  let pos := a.position (e.h.sreg 93).toInt (-128)
  let time := if e.follows then
      match (e.h.forwarded[e.ownEntries reads]?).getD [] with
      | lo :: hi :: _ => hi ++ lo
      | _ => 0
    else e.now
  let starved := (e.follows && decide (e.h.forwarded.length ≤ e.ownEntries reads)) ||
    (e.leads && !e.roomFor (if reads != [] && !e.takes then 2 else 1))
  if !a.has permW || !a.inBounds e.b.segSize pos 128 then .double
  else if a.has permSCR then
    if starved then .wait .retry e.s else
    let off := ((a.base.toNat : Int) + pos).toNat
    .written (e.shareTime reads time (e.s.writeScratch e.b.id off (e.frame t time)))
  else if e.b.replicated && decide (65536 < bufferBytes e.h.wbuf + 128) then
    let e := e.quieted
    if e.s.flights.any e.resulting then .wait .retry e.s else .wait .release (e.offerRelease e.h.regs.ssig e.s)
  else
    let s := e.s.settleAccess e.h.src e.c.id [((a.address pos).toNat, (a.address pos).toNat + 128)]
    match s.range (e.who .store) e.c .store a.rights (a.address pos) 128 with
    | (.error f, s) =>
      if f.stall then .wait .retry s
      else if f.forward && !e.g.refused then
        -- the translation request is forwarded and the word executes afresh (R347; log 15)
        let (w, s) := s.tokenWait e.h.src e.c.id f.va 1
        .wait w s
      else .double
    | (.ok rs, s) =>
      if starved then .wait .retry s else
      let s := State.storeRuns e.h.src e.b.id e.c.id (a.address pos) rs (e.frame t time) s
      let s := s.updHoist e.h.src fun h => h.foldItem e.b.replicated (a.address pos) 6 0 (e.frame t time)
      .written (e.shareTime reads time s)

/-- A double fault: the hoist retires as if every slice had executed EXIT, with its record (R336). -/
def Env.doubleFault (e : Env) (t : Trap) : State :=
  let (named, word) := e.named t
  (e.s.loseHoist e.h.src t.cls.code (namedWordData named word)).spend e.h.src

/-- A precise trap in an Ensign agent or an atomic service hoist stops that agent, with its record (R336). -/
def Env.stopAgent (e : Env) (t : Trap) : State :=
  let (named, word) := e.named t
  (((e.s.updHoist e.h.src fun h => h.exitAll).logEvent 10 e.h.src (some e.c.id) t.cls.code
    (namedWordData named word)).raiseMsi 34).spend e.h.src

/-- The vector entry of a trap (R337), or the routine of an EMUL. -/
def Env.vector (e : Env) (t : Trap) : VAddr :=
  match t.entry with
  | some a => a
  | none => e.c.tvec + BitVec.ofNat 72 (64 * t.cls.code)

/-- The group after a trap entry: no coverage, a PAD.trap required, nothing waiting (R67, R101, R335). -/
def Env.groupTrapped (e : Env) (x : Group) : Group :=
  { x with
    last := e.s.clock
    lastWord := e.s.clock
    cover := []
    codes := []
    ext := none
    landing := some (3, e.pc)
    wait := .running
    resumed := false
    refused := false
    owed := false
    yielded := false
    beam := none
    outs := [] }

/-- Steps 2 to 6 of trap entry (R335), with the fold of a TRAP or an emulated word (21_reliability.md R353). -/
def Env.hoistTrapped (e : Env) (t : Trap) (h : Hoist) : Hoist :=
  let ns := e.h.groupSlices e.g.id
  let target := e.vector t
  let fold (c : Word) : Word :=
    if h.regs.depth = 0 ∧ t.resumeNext = true then
      cfsFold (match e.ext with | some x => cfsFold c (0x03#8 ++ x) | none => c) e.w
    else c
  let h := h.setS 93 (h.sreg 93 - 128)
  let h := h.setExec (maskOf (fun l => if e.h.laneIn e.g.id l then true else h.regs.exec.getLsbD l) h.width)
  let h := h.updSliceList ns fun _ x => { x with pc := target.extractLsb' 0 32, high := true, cfs := fold x.cfs }
  let h := h.updGroup e.g.id e.groupTrapped
  { h with
    holds := []
    rmis := none
    regs := { h.regs with depth := h.regs.depth + 1, hregion := target.extractLsb' 32 40 } }

/-- The hoist once its trap entry is complete: a forced release point before it takes its snapshot now, and an offer that
was not voted on ends (21_reliability.md R368). -/
def Hoist.entered (h : Hoist) (g : Nat) : Hoist := { h.snapshotAfter g with offer := none }

/-- Whether a trap cannot be entered whatever its frame (R336): s93 misaligned, depth 15, a CFI at a vector entry. -/
def Env.cannotEnter (e : Env) (t : Trap) : Bool :=
  (e.h.sreg 93).toNat % 16 != 0 || decide (15 ≤ e.h.regs.depth) ||
    (t.cls == .cfi && match e.g.landing with | some (k, _) => k == 3 | none => false)

/-- TAKING AN EXCEPTION: a precise trap is taken by the issuing group (R335, R336).  While the frame cannot be written yet
the word waits, with the reports that it was about to use up still to be made.  An entry that a forced release point came
before is its release word's effect (21_reliability.md R367, R368). -/
def Env.takeTrap (e : Env) (t : Trap) (was : Hoist := e.h) (reads : List Word := []) : State :=
  if e.h.role ≠ .user then e.stopAgent t
  else if e.cannotEnter t then { e with s := e.shareReads reads e.s }.doubleFault t
  else
    match e.writeFrame t reads with
    | .double => { e with s := e.shareReads reads e.s }.doubleFault t
    | .wait w s => e.stay w (s.updHoist e.h.src fun h => { h with fails := was.fails })
    | .written s => (s.updHoist e.h.src fun h => (e.hoistTrapped t h).entered e.g.id).spend e.h.src

/-! ### A word from its checks to its end -/

/-- How a word ends, after its body. -/
def Env.conclude (e : Env) (i : Instr) (old : List Saved) : Res → State
  | .done s => (e.asRead old).complete i false (e.unmix i old s)
  | .jump s => (e.asRead old).complete i true (e.unmix i old s)
  | .trap t s => (e.at (e.unmix i old s)).takeTrap t e.h (e.readsOf i)
  | .wait w s => e.stay w (e.unmix i old s)
  | .gone s => (e.unmix i old s).spend e.h.src

/-- The body of a word where R446 leaves it one. -/
def Env.perform (e : Env) (i : Instr) (body : Env → Res) : Res := if e.idle i then .done e.s else body e

/-- The word whose translation the host refused raises XLATE with DETAIL 2 (19_faults.md R348): at the access that it
makes, or, when it makes none, because its own fetch was refused. -/
def Env.orRefused (e : Env) (r : Res) : Res :=
  if e.g.refused then
    match r with
    | .done _ => .trap { cls := .xlate, detail := 2, va := some e.wordPc } e.s
    | .jump _ => .trap { cls := .xlate, detail := 2, va := some e.wordPc } e.s
    | r => r
  else r

/-- A word that has its operands runs to its end. -/
def Env.finish (e : Env) (i : Instr) (old : List Saved) (body : Env → Res) : State :=
  e.conclude i old ((e.mixed i old).orRefused ((e.mixed i old).perform i body))

/-- A word that has its operands: a lane for which it reads a register word or bit that holds an error dies first, and the word
goes on for the others (21_reliability.md R359); an error of the whole hoist's state takes the hoist (R361). -/
def Env.start (e : Env) (i : Instr) (old : List Saved) (body : Env → Res) : State :=
  if e.struck i then (e.s.loseHoist e.h.src 0xFF e.namedData).spend e.h.src
  else
  match e.hurt i with
  | [] => e.finish i old body
  | ls =>
    let e := { e.at (e.s.killLanes e.h.src (ls.map fun l => (l, 0)) e.namedData) with felled := ls }
    if e.here then e.finish i old body else e.s.spend e.h.src

/-- A word of the issuing group. -/
def Env.run (e : Env) (i : Instr) (body : Env → Res) : State :=
  match e.issue i with
  | .ready e old => e.start i old body
  | .trap t e => e.takeTrap t
  | .wait e => e.stay .retry e.s
  | .gone s => s

/-- The meaning of an instruction word: its body between the checks that every word makes and the ends that every word
has. -/
def runWord (i : Instr) (body : Env → Res) (s : State) : Host.Outcome State Fault Refusal :=
  match issuer ((encode i).getD 0) s with
  | some e => .next (e.run i body)
  | none => .fault .noIssuingGroup

/-- A word that no instruction has: CFI where a PAD was required, else ILLOP (R75, R78, R80).  DESIGN CHOICE (log 50): a PAD word
of the kind that is awaited whose reserved bits are nonzero meets both R100's ILLOP and, as no well-formed PAD, R101's CFI; the
manual does not order them, and CFI comes first. -/
def runIllegal (w : BitVec 32) (s : State) : Host.Outcome State Fault Refusal :=
  match issuer w s with
  | some e => .next (e.takeTrap ((e.stray (.ext 0)).getD { cls := .illop }))
  | none => .fault .noIssuingGroup

/-! ### The return from a trap (R339) -/

/-- The reserved bytes of a frame are zero: FLAGS[7:5], 66–67, 84–87, 96–127 (R338). -/
def frameReserved (f : List Byte) : Bool :=
  let v := leNat f
  bitsOf v 87 85 == 0 && bitsOf v 543 528 == 0 && bitsOf v 703 672 == 0 && bitsOf v 1023 768 == 0

/-- The hoist after a TRET that reads frame `f` (R339). -/
def Env.hoistReturned (e : Env) (f : List Byte) (h : Hoist) : Hoist :=
  let v := leNat f
  let named : VAddr := BitVec.ofNat 72 (bitsOf v 71 0)
  let resume := if bitsOf v 80 80 = 0 then named else addPc named (if bitsOf v 415 408 = 3 then 8 else 4)
  let exec : Mask := BitVec.ofNat 128 (bitsOf v 383 256)
  let depth := h.regs.depth - 1
  let region := resume.extractLsb' 32 40
  let high := decide (depth ≠ 0) || region != h.regs.region
  let h := h.setExec (maskOf (fun l => if e.h.laneIn e.g.id l then exec.getLsbD l else h.regs.exec.getLsbD l) h.width)
  let h := h.updSliceList (e.h.groupSlices e.g.id) fun _ x => { x with pc := resume.extractLsb' 0 32, high := high }
  let h := h.setS 93 (BitVec.ofNat 32 (bitsOf v 671 640))
  { h with regs := { h.regs with
      depth := depth
      xprog := BitVec.ofNat 32 (bitsOf v 575 544)
      hregion := if high then region else 0 } }

end Sys2Proof.Machine
end

