-- ==== Sys2Proof/Machine/Fetch.lean ====
section
/-!
DEFINITION. Fetching a word (19_faults.md R341), which groups may start one (01_machine.md R17, 19_faults.md R335,
21_reliability.md R363), and what waits to be resolved.
-/

namespace Sys2Proof.Machine

/-- A fetch: the word with the state after the walk, or the state in which the fetch has been dealt with. -/
inductive Fetch where
  | word (w : BitVec 32) (s : State)
  | other (s : State)
  deriving Repr

/-- The address that the group fetches next: after a waiting EXT, its word (R71). -/
def Env.fetchAddr (e : Env) : VAddr := e.wordPc

/-- The word at an address as a frame names it; one that cannot be read is open (log 9). -/
def Env.wordAt (e : Env) (va : VAddr) : BitVec 32 × State :=
  match e.s.lookup (coreOf e.h.src) e.c va.toNat with
  | .ok pa _ _ _ => (BitVec.ofNat 32 (leNat (e.s.readMem pa 4)), e.s)
  | _ => e.s.free

/-- An RMIS that a mismatch has left to be taken (21_reliability.md R369). -/
def Env.takeRmis (e : Env) (detail : Nat) (info : Word) : State :=
  let (w, s) := e.wordAt e.fetchAddr
  { e.at s with w := w }.takeTrap { cls := .rmis, detail := detail, info := info.zeroExtend 64 }

/-- The line of code at an address: the version that the hoist holds, or the bytes that the die order has now, held from
then on.  Lines that none of its groups is in are let go (R341; log 13). -/
def Env.codeLine (e : Env) (va : VAddr) (pa : Nat) (s : State) : List Byte × State :=
  let line := va.toNat / 64
  match e.h.lines.find? (·.1 == line) with
  | some x => (x.2, s)
  | none =>
    let bytes := s.readMem (64 * (pa / 64)) 64
    let used (n : Nat) : Bool := e.h.regs.groups.any fun g =>
      (e.h.groupPc g.id).toNat / 64 == n || (addPc (e.h.groupPc g.id) 4).toNat / 64 == n
    (bytes, s.updHoist e.h.src fun h => { h with lines := (line, bytes) :: h.lines.filter fun x => used x.1 })

/-- Whether reading a line of code has to wait: a hold of another scope stands on it, or an engine has still to write it
(11_ordering.md R215, R219). -/
def Env.codeWaits (e : Env) (va : VAddr) (pa : Nat) (s : State) : Bool :=
  !(e.h.lines.any fun x => x.1 == va.toNat / 64) &&
    ((s.outsideHold (e.who .fetch) (pa / 64)).isSome || s.owned (e.who .fetch) [(64 * (pa / 64), 64)])

/-- A word of a line. -/
def wordOfLine (line : List Byte) (va : VAddr) : BitVec 32 := BitVec.ofNat 32 (leNat (segment line (va.toNat % 64) 4))

/-- Fetches the group's next word (R341, R343, 21_reliability.md R358; log 13).  A group that owes the ILLOP of a VREGRP
takes it (07_lanes.md R158). -/
def Env.fetch (e : Env) : Fetch :=
  match e.h.rmis with
  | some (d, i) => .other (e.takeRmis d i)
  | none =>
  let va := e.fetchAddr
  if e.g.owed then
    let (w, s) := e.wordAt va
    .other ({ e.at s with w := w }.takeTrap { cls := .illop })
  else
    match e.s.reach (coreOf e.h.src) e.c va .fetch allRights with
    | (.stall, s) => .other (e.stay .retry s)
    | (.fault _ _ _ forward, s) =>
      if forward && !e.g.refused then
        let (w, s) := s.tokenWait e.h.src e.c.id va 3
        .other (e.stay w s)
      else
        -- the word at the pc could not be read: its value in the frame is open (log 9)
        let (w, s) := s.free
        .other ({ e.at s with w := w }.takeTrap { cls := .xlate, detail := if e.g.refused then 2 else 3, va := some va })
    | (.ok pa _ _, s) =>
      if s.poisoned pa 4 then
        let (w, s) := s.free
        .other ((s.loseHoist e.h.src 0xFF (namedWordData va w)).spend e.h.src)
      else if e.codeWaits va pa s then .other (e.stay .retry s)
      else
        let (line, s) := e.codeLine va pa s
        .word (wordOfLine line va) s

/-- Whether a group waits for something that keeps it from starting. -/
def Group.stopped (g : Group) (clock : Nat) : Bool :=
  match g.wait with
  | .running => false
  | .retry => false
  | .yielding t => decide (clock < t)
  | _ => true

/-- Whether a group's slices lie in a handler. -/
def Hoist.handles (h : Hoist) (g : Nat) : Bool :=
  (h.groupSlices g).any fun n => match h.regs.slices[n]? with | some x => x.high | none => false

/-- Whether a group of a replicated hoist can start (R363): it does not wait at a REGANG or a release point. -/
def Group.startable (g : Group) : Bool := g.wait != .regang && g.wait != .release

/-- The group that holds issue in a replicated hoist (R363): while an offer stands, its group alone, since no later word
starts before the snapshot (R368); else the holder while it can start, else the one with the lowest-numbered slice that
can. -/
def Hoist.issueHolder (h : Hoist) : Option Nat :=
  let can := h.regs.groups.filter fun g => g.startable && h.groupSlices g.id != []
  match h.offer, h.holder with
  | some o, _ => some o.group
  | none, some n => if can.any (·.id == n) then some n else lowest can h
  | none, none => lowest can h
where
  lowest (gs : List Group) (h : Hoist) : Option Nat :=
    (List.range h.regs.slices.length).findSome? fun n => (gs.find? fun g => h.sliceIn g.id n).map (·.id)

/-- Whether a group's release word has passed its vote and has still to complete (21_reliability.md R368). -/
def Hoist.votedFor (h : Hoist) (g : Nat) : Bool :=
  match h.offer with
  | some o => o.group == g && o.vote.isSome
  | none => false

/-- Whether a group may start its next word (R17, R335, R363, R340); none of a block that is being killed does (15_cube.md R302). -/
def State.mayStart (s : State) (h : Hoist) (g : Group) : Bool :=
  let b := s.blockOf h
  h.groupSlices g.id != [] && !g.stopped s.clock &&
    (h.regs.depth == 0 || h.handles g.id) &&
    (h.role != .user || b.residency == .running || (b.residency != .stopping 5 &&
      (g.ext.isSome || g.landing.isSome || g.owed || h.votedFor g.id || h.rmis.isSome))) &&
    (!b.replicated || h.issueHolder == some g.id)

/-- Whether a turn names a group that may start a word. -/
def State.mayTurn (s : State) (src group : Nat) : Bool :=
  match s.hoist? src with
  | none => false
  | some h => match h.group? group with | some g => s.mayStart h g | none => false

/-- The groups that may start, hoist by hoist. -/
def State.startable (s : State) (p : Group → Bool) : List (Hoist × Group) :=
  s.hoists.flatMap fun h => (h.regs.groups.filter fun g => p g && s.mayStart h g).map fun g => (h, g)

/-- The order of the pick (R17): least recent start, then source number, then first slice. -/
def pickBefore (a b : Hoist × Group) : Bool :=
  if a.2.last = b.2.last then
    let la := (a.1.groupSlices a.2.id).headD 0
    let lb := (b.1.groupSlices b.2.id).headD 0
    decide (a.1.src < b.1.src) || (a.1.src == b.1.src && decide (la < lb))
  else decide (a.2.last < b.2.last)

/-- Whether a group that has yielded comes after another of its partition, which has started more recently
(05_control.md R112). -/
def yieldsTo (a b : Hoist × Group) : Bool :=
  a.2.yielded && a.1.src / 16 == b.1.src / 16 && decide (a.2.last < b.2.last)

/-- The first of a list by source number, of one hoist's groups the first in the order of the pick. -/
def pickFirst : List (Hoist × Group) → Option (Hoist × Group)
  | [] => none
  | x :: xs =>
    match pickFirst xs with
    | some y => if x.1.src < y.1.src ∨ x.1.src = y.1.src ∧ pickBefore x y = true then some x else some y
    | none => some x

/-- A group in the middle of an EXT pair: nothing falls between its two words (03_encoding.md R65). -/
def State.midPair (s : State) : Option (Nat × Nat) :=
  s.hoists.findSome? fun h => (h.regs.groups.find? fun g => g.ext.isSome && h.groupSlices g.id != []).map fun g => (h.src, g.id)

/-- The event that completes a piece of work. -/
def Flight.event (f : Flight) : Instr :=
  match f.work with
  | .load _ _ _ => .loadDataReturn f.id
  | .perm _ _ => .loadDataReturn f.id
  | .store _ _ => .writePerformed f.id
  | .atomic _ _ (some _) _ _ _ _ => .loadDataReturn f.id
  | .atomic _ _ none _ _ _ _ => .writePerformed f.id
  | .copy _ => .copyComplete f.id
  | .fill _ _ _ _ _ => .slotFillComplete f.id
  | .slotStore _ _ _ _ _ => .slotStoreComplete f.id
  | .slotRelease _ => .slotRelease f.id
  | .pass _ => .passComplete f.id
  | .promote _ => .tileOrderOperation f.id
  | .tileRead _ _ _ _ _ => .tileOrderOperation f.id
  | .tileWrite _ _ _ => .tileOrderOperation f.id
  | .trace _ _ _ _ _ => .traceComplete f.id
  | .hitrd _ _ _ _ => .hitrdComplete f.id
  | .beam _ => .beamComplete f.id
  | .killed _ _ => .blockKill f.id

/-- Whether completing a piece of work now changes anything. -/
def State.progresses (s : State) (f : Flight) : Bool :=
  let t := s.completeFlight f
  t.flights != s.flights || t.agenda.length != s.agenda.length

/-- Whether a hoist can retire now: its slices have left, its counters read zero and its copies and other work are complete
(05_control.md R110, 09_memory.md R195, 15_cube.md R303). -/
def State.canRetire (s : State) (h : Hoist) : Bool :=
  h.role == .user && h.gone && !h.retired && h.counters == ⟨0, 0, 0, 0⟩ && !s.flights.any (·.src == h.src)

/-- The hoists that wait only to retire. -/
def State.retirable (s : State) : List Nat := (s.hoists.filter s.canRetire).map (·.src)

/-- A hoist all of whose present slices wait at a REGANG (R109). -/
def Hoist.regangReady (h : Hoist) : Bool :=
  let gs := h.regs.groups.filter fun g => h.groupSlices g.id != []
  gs != [] && gs.all (·.wait == .regang)

/-- A hoist whose REGANG can be resolved. -/
def State.nextRegang (s : State) : Option Nat := (s.hoists.find? (·.regangReady)).map (·.src)

end Sys2Proof.Machine
end

