-- ==== Sys2Proof/Machine/Place.lean ====
section
/-!
DEFINITION. A program placed from outside the machine: a word stored where the next step fetches, with a one-block
program around it when no group is there to fetch (log 2).
-/

namespace Sys2Proof.Machine

/-- The state with no event or other group before a group's next word. -/
def State.putTurn (s : State) (src group : Nat) : State := { s with agenda := .word src group :: s.agenda }

/-- The context that a placed program runs in: context 0, with its descriptor at 0x10000. -/
def placedCtx : Ctx := { Ctx.none with id := 0, dpa := 0x10000 }

/-- The block of a placed program: one hoist of 32 lanes with 256 V registers and 64 KiB of scratchpad. -/
def placedBlock (id : Nat) : Block :=
  { Block.none with
    id := id
    grid := (1, 1, 1)
    width := 32
    hoists := 1
    pword := 0x00000101
    vregs := 256
    prologue := 16
    scrBytes := 65536
    full := true
    vcnt := 256
    segSize := 65536
    bars := List.replicate 17 ⟨0, 0, 0⟩ }

/-- The registers of a hoist as a block starts (03_encoding.md R49). -/
def Regs.start (w vcount : Nat) (pc : VAddr) : Regs where
  v := List.replicate vcount ⟨.u, List.replicate w 0⟩
  s := List.replicate 96 0
  p := List.replicate 96 0
  a := List.replicate 16 AReg.zero
  exec := maskOf (fun _ => true) w
  dead := 0
  slices := List.replicate (w / 4) ⟨pc.extractLsb' 0 32, false, 0, false, [], 0⟩
  groups := [Group.start 0 0 false]
  fpx := 0
  xprog := 0
  latch := none
  ssig := 0
  batch := 0
  depth := 0
  region := pc.extractLsb' 32 40
  hregion := 0

/-- A hoist as its block starts. -/
def Hoist.start (src block index w vcount : Nat) (pc : VAddr) : Hoist where
  src := src
  role := .user
  block := block
  index := index
  width := w
  regs := Regs.start w vcount pc
  counters := ⟨0, 0, 0, 0⟩
  holds := []
  busy := []
  fails := []
  flaws := []
  ctxsel := 0
  maskHeld := 0
  gate := false
  posted := 0
  postedHost := 0
  wbuf := []
  snapshot := none
  offer := none
  lateFrom := none
  forwarded := []
  holder := none
  lines := []
  rmis := none
  retired := false

/-- Where a placed program's code lies, virtual and physical. -/
def placedPc : Nat := 0x1000000

/-- The word stored at the group's pc, when the group's next fetch then finds it. -/
def State.placeAt (s : State) (src group : Nat) (w : BitVec 32) : Option State :=
  match issuer 0 { s with cur := (src, group) } with
  | none => none
  | some e =>
    match s.translate (coreOf src) e.c e.fetchAddr.toNat with
    | (.ok pa _ _ _, _) =>
      let t : State := { s with mem := s.mem.writeNat pa 4 w.toNat }.updHoist src fun h => { h with lines := [] }
      match (e.at t).fetch with
      | .word x _ => if x = w then some (t.putTurn src group) else none
      | .other _ => none
    | _ => none

/-- A one-block program whose only word is `w`: a context, its page tables, a block and a hoist in slot 0.  Nothing of
another program comes between: no EXT pair is under way, and no translation, poison or hold is in the way. -/
def State.placeNew (s : State) (w : BitVec 32) : State :=
  let id := s.nextId
  let mem := s.mem.writeNat 0x10000 8 0x20001          -- PT0[0]: level one at 0x20000
  let mem := mem.writeNat 0x20000 8 0x30001            -- level one: level two at 0x30000
  let mem := mem.writeNat 0x30000 8 0x1A0F             -- a 4 TiB leaf: V, LEAF, W, ATOM, PINOK, DIRTY, ACCESSED
  let mem := mem.writeNat placedPc 4 w.toNat
  let others := (s.hoists.filter (·.src != 0)).map fun h =>
    { h with regs := { h.regs with groups := h.regs.groups.map fun g => { g with ext := none } } }
  ({ s with
    mem := mem
    poison := []
    coreTlb := []
    clusterTlb := []
    holds := []
    ctxs := placedCtx :: s.ctxs.filter (·.id != 0)
    blocks := placedBlock id :: s.blocks
    hoists := Hoist.start 0 id 0 32 256 (BitVec.ofNat 72 placedPc) :: others
    nextId := id + 1 }).putTurn 0 0

/-- The group whose word the next step runs, when it runs one. -/
def State.nextWord (s : State) : Option (Nat × Nat) :=
  match s.midPair with
  | some x => some x
  | none =>
    let ready : Option (Nat × Nat) := (pickFirst (s.startable fun _ => true)).map fun x => (x.1.src, x.2.id)
    match s.agenda with
    | .word src g :: _ => if s.mayTurn src g then some (src, g) else ready
    | _ => ready

/-- The state with a word placed where the next step fetches. -/
def State.placeWord (s : State) (w : BitVec 32) : State :=
  match s.nextWord with
  | some (src, g) => (s.placeAt src g w).getD (s.placeNew w)
  | none => s.placeNew w

end Sys2Proof.Machine
end

