-- ==== Sys2Proof/Machine/Control.lean ====
section
/-!
DEFINITION. Hint words and control flow: branches, calls, landing pads, masks, rejoin stacks, reconvergence, exit,
TRAP, YIELD, CHK, ISYNC and WAITC (03_encoding.md R65–R70, 05_control.md R95–R115).
-/

namespace Sys2Proof.Machine

/-- The word completes with its hoist changed. -/
def Env.put (e : Env) (h : Hoist) : Res := .done (e.s.putHoist h)

/-- The word completes and has moved the pc itself. -/
def Env.move (e : Env) (h : Hoist) : Res := .jump (e.s.putHoist h)

/-- A trap that names no address. -/
def Env.raise (e : Env) (c : TrapClass) : Res := .trap { cls := c } e.s

/-- Every slice of the issuing group at an address of its region (R96). -/
def Env.goto (e : Env) (t : VAddr) (h : Hoist) : Hoist :=
  h.updSliceList (e.h.groupSlices e.g.id) fun _ x => { x with pc := t.extractLsb' 0 32 }

/-- The slices of the issuing group. -/
def Env.slices (e : Env) : List Nat := e.h.groupSlices e.g.id

/-- The word of a slice. -/
def Hoist.slice (h : Hoist) (n : Nat) : Slice := h.regs.slices[n]?.getD ⟨0, false, 0, true, [], 0⟩

/-! ### Hint words -/

/-- NOP (R66). -/
def execNop (s : State) : Host.Outcome State Fault Refusal := runWord .nop (fun e => .done e.s) s

/-- The group with the counts of a HINT.S (R67). -/
def coverWith (counts : List Nat) (x : Group) : Group := { x with cover := counts }

/-- HINT.S (R67). -/
def execHintS (a b c d x f g h : BitVec 3) (s : State) : Host.Outcome State Fault Refusal :=
  runWord (.hintS a b c d x f g h)
    (fun e => e.put (e.h.updGroup e.g.id (coverWith ([a, b, c, d, x, f, g, h].map (·.toNat))))) s

/-- The group with the codes of a HINT.H (R69). -/
def codesWith (codes : List (Nat × Nat × Nat)) (x : Group) : Group := { x with codes := codes }

/-- HINT.H (R69). -/
def execHintH (a b c d x f g h j k m n : BitVec 2) (s : State) : Host.Outcome State Fault Refusal :=
  runWord (.hintH a b c d x f g h j k m n)
    (fun e => e.put (e.h.updGroup e.g.id (codesWith
      [(a.toNat, b.toNat, c.toNat), (d.toNat, x.toNat, f.toNat), (g.toNat, h.toNat, j.toNat),
       (k.toNat, m.toNat, n.toNat)]))) s

/-- The group with an EXT that waits for its word. -/
def Env.latchExt (e : Env) (i : BitVec 24) (x : Group) : Group := { x with ext := some i, last := e.s.clock, yielded := false }

/-- EXT (R70, R71): the payload waits for the next word; the pc stays at the EXT, and the fold of the EXT comes with that
of its word. -/
def execExt (i : BitVec 24) (s : State) : Host.Outcome State Fault Refusal :=
  match issuer ((encode (.ext i)).getD 0) s with
  | none => .fault .noIssuingGroup
  | some e =>
    match e.refusal (.ext i) with
    | some t => .next (e.takeTrap t)
    | none => .next ((e.s.updHoist e.h.src fun h => h.updGroup e.g.id (e.latchExt i)).spend e.h.src)

/-! ### Branches and calls -/

/-- BRA (R96). -/
def execBra (o : BitVec 24) (s : State) : Host.Outcome State Fault Refusal :=
  runWord (.bra o) (fun e => e.move (e.goto (e.target24 o) e.h)) s

/-- BRZ (R96). -/
def execBrz (r : BitVec 8) (o : BitVec 16) (s : State) : Host.Outcome State Fault Refusal :=
  runWord (.brz r o) (fun e => if e.sval r = 0 then e.move (e.goto (e.target16 o) e.h) else .done e.s) s

/-- BRNZ (R96). -/
def execBrnz (r : BitVec 8) (o : BitVec 16) (s : State) : Host.Outcome State Fault Refusal :=
  runWord (.brnz r o) (fun e => if e.sval r ≠ 0 then e.move (e.goto (e.target16 o) e.h) else .done e.s) s

/-- The live active lanes of a slice. -/
def Hoist.liveOf (h : Hoist) (n : Nat) : List Nat :=
  ([4 * n, 4 * n + 1, 4 * n + 2, 4 * n + 3]).filter fun l => h.regs.exec.getLsbD l && !h.regs.dead.getLsbD l

/-- The decision of a slice (R97): none when it has no live lane. -/
def Hoist.decides (h : Hoist) (p : Mask) (all : Bool) (n : Nat) : Option Bool :=
  match h.liveOf n with
  | [] => none
  | ls => some (if all then ls.all p.getLsbD else ls.any p.getLsbD)

/-- The slices of the group that take the branch (R97). -/
def Env.takers (e : Env) (p : Mask) (all : Bool) : List Nat :=
  let first := (e.slices.findSome? (e.h.decides p all)).getD all
  e.slices.filter fun n => (e.h.decides p all n).getD first

/-- The smallest issue-group number not in use. -/
def Hoist.newGroup (h : Hoist) : Nat :=
  ((List.range 33).find? fun n => !h.regs.groups.any (·.id == n)).getD 33

/-- The group parts (R97): the side without its lowest slice gets a number of its own; both keep the clock of this start,
coverage ends and the group's holds are dropped (03_encoding.md R64). -/
def Env.part (e : Env) (taken : List Nat) (t : VAddr) : Hoist :=
  let next := addPc e.pc e.length
  let new := e.h.newGroup
  let keep := taken.contains (e.slices.headD 0)
  let h := e.h.updSliceList e.slices fun n x =>
    { x with
      pc := (if taken.contains n then t else next).extractLsb' 0 32
      group := if taken.contains n == keep then e.g.id else new }
  let g := Group.start new e.s.clock false
  { h with holds := h.holds.filter (·.group != e.g.id), regs := { h.regs with groups := h.regs.groups ++ [g] } }

/-- BRANY and BRALL (R97). -/
def Env.branchSlices (e : Env) (p : BitVec 8) (o : BitVec 16) (all : Bool) : Res :=
  let taken := e.takers (e.h.preg p.toNat) all
  if taken = [] then .done e.s
  else if taken = e.slices then e.move (e.goto (e.target16 o) e.h)
  else e.move (e.part taken (e.target16 o))

/-- BRANY (R97). -/
def execBrany (p : BitVec 8) (o : BitVec 16) (s : State) : Host.Outcome State Fault Refusal :=
  runWord (.brany p o) (fun e => e.branchSlices p o false) s

/-- BRALL (R97). -/
def execBrall (p : BitVec 8) (o : BitVec 16) (s : State) : Host.Outcome State Fault Refusal :=
  runWord (.brall p o) (fun e => e.branchSlices p o true) s

/-- The address of the word after, bits [31:0]. -/
def Env.link (e : Env) : Word := (addPc e.pc e.length).extractLsb' 0 32

/-- CALL (R98). -/
def execCall (o : BitVec 24) (s : State) : Host.Outcome State Fault Refusal :=
  runWord (.call o) (fun e => e.move ((e.goto (e.target24 o) e.h).setS 95 e.link)) s

/-- A jump through a code pointer, with the PAD it requires (R91, R99, R101). -/
def Env.jumpVia (e : Env) (a : BitVec 8) (kind : BitVec 2) (link : Bool) : Res :=
  let v := e.sval a
  if v.extractLsb' 0 2 ≠ 0#2 then e.raise .illop
  else
    let h := e.goto (e.pc.extractLsb' 32 40 ++ v) e.h
    let h := if link then h.setS 95 e.link else h
    e.move (h.updGroup e.g.id fun x => { x with landing := some (kind, e.pc) })

/-- CALLI (R99). -/
def execCalli (a : BitVec 8) (s : State) : Host.Outcome State Fault Refusal :=
  runWord (.calli a) (fun e => e.jumpVia a 0 true) s

/-- JMPI (R99). -/
def execJmpi (a : BitVec 8) (s : State) : Host.Outcome State Fault Refusal :=
  runWord (.jmpi a) (fun e => e.jumpVia a 1 false) s

/-- RET (R99). -/
def execRet (a : BitVec 8) (s : State) : Host.Outcome State Fault Refusal :=
  runWord (.ret a) (fun e => e.jumpVia a 2 false) s

/-- PAD (R100): no effect; a landing that required it is made. -/
def execPad (k : BitVec 2) (s : State) : Host.Outcome State Fault Refusal :=
  runWord (.pad k) (fun e => e.put (e.h.updGroup e.g.id fun x => { x with landing := none })) s

/-! ### Rejoin stacks and masks -/

/-- The EXEC bits of a slice. -/
def sliceBits (m : Mask) (n : Nat) : BitVec 4 := m.extractLsb' (4 * n) 4

/-- The top of a slice's rejoin stack. -/
def Hoist.top (h : Hoist) (n : Nat) : Option Rejoin := (h.slice n).stack.head?

/-- Whether some slice of the group has an empty stack. -/
def Env.emptyStack (e : Env) : Bool := e.slices.any fun n => (e.h.top n).isNone

/-- MARK (R104). -/
def execMark (o : BitVec 24) (s : State) : Host.Outcome State Fault Refusal :=
  runWord (.mark o) (fun e =>
    if e.slices.any fun n => decide (32 ≤ (e.h.slice n).stack.length) then e.raise .stackov
    else
      let rj := (e.target24 o).extractLsb' 2 30
      e.put (e.h.updSliceList e.slices fun n x =>
        let m := sliceBits e.h.regs.exec n
        { x with stack := ⟨rj, m, ~~~m⟩ :: x.stack })) s

/-- The bit of the top entry's MASK for a lane. -/
def Hoist.topBit (h : Hoist) (l : Nat) : Bool :=
  match h.top (l / 4) with
  | some r => r.mask.getLsbD (l % 4)
  | none => false

/-- EXEC over the group's slices set lane by lane; it stays clear in a lane that dies in the word (21_reliability.md R359). -/
def Env.execWith (e : Env) (f : Nat → Bool) : Hoist :=
  e.h.setExec (maskOf (fun l => if e.h.laneIn e.g.id l && !e.felled.contains l then f l else e.h.regs.exec.getLsbD l) e.h.width)

/-- The new EXEC bit of a lane under a mode of MSET (R105). -/
def msetBit (m : Nat) (top exec p : Bool) : Bool :=
  match m with
  | 0 => top && p
  | 1 => top && !p
  | 2 => exec && p
  | 3 => exec && !p
  | 4 => exec || (top && p)
  | _ => top

/-- Whether a mode of MSET reads the stacks. -/
def msetNeedsTop (m : Nat) : Bool := m != 2 && m != 3

/-- MSET (R105). -/
def execMset (m a : BitVec 8) (s : State) : Host.Outcome State Fault Refusal :=
  runWord (.mset m a) (fun e =>
    if msetNeedsTop m.toNat && e.emptyStack then e.raise .illop
    else e.put (e.execWith fun l =>
      msetBit m.toNat (e.h.topBit l) (e.h.regs.exec.getLsbD l) ((e.h.preg a.toNat).getLsbD l))) s

/-- The stacks of the group's slices popped. -/
def Env.popStacks (e : Env) (h : Hoist) : Hoist :=
  h.updSliceList e.slices fun _ x => { x with stack := x.stack.tail }

/-- Whether the top of a slice's stack is what a JOIN at this address must find (R106). -/
def Env.joinOk (e : Env) (n : Nat) : Bool :=
  match e.h.top n with
  | some r => r.maskn == ~~~r.mask && r.rj == e.wordPc.extractLsb' 2 30
  | none => false

/-- JOIN (R106). -/
def execJoin (s : State) : Host.Outcome State Fault Refusal :=
  runWord .join (fun e =>
    if e.emptyStack then e.raise .illop
    else if e.slices.all e.joinOk then e.put (e.popStacks (e.execWith e.h.topBit))
    else e.raise .sig) s

/-- MPOP (R107). -/
def execMpop (s : State) : Host.Outcome State Fault Refusal :=
  runWord .mpop (fun e => if e.emptyStack then e.raise .illop else e.put (e.popStacks e.h)) s

/-- MSAVE (R108). -/
def execMsave (d : BitVec 8) (s : State) : Host.Outcome State Fault Refusal :=
  runWord (.msave d) (fun e => e.put (e.h.putP d.toNat (e.h.laneIn e.g.id) e.h.regs.exec.getLsbD)) s

/-- MREST (R108). -/
def execMrest (a : BitVec 8) (s : State) : Host.Outcome State Fault Refusal :=
  runWord (.mrest a) (fun e => e.put (e.execWith (e.h.preg a.toNat).getLsbD)) s

/-! ### Reconvergence and exit -/

/-- Merges issue groups into the one of the lowest slice (R109): coverage ends, their holds are dropped, and the clock
of the last start is the clock of the merge. -/
def Hoist.merge (h : Hoist) (ids : List Nat) (clock : Nat) (f : Slice → Slice) : Hoist :=
  let ns := (List.range h.regs.slices.length).filter fun n => ids.any fun g => h.sliceIn g n
  let dest := (h.slice (ns.headD 0)).group
  let h := h.updSliceList ns fun _ x => f { x with group := dest }
  let groups := (h.regs.groups.filter fun g => !(ids.contains g.id && g.id != dest)).map fun g =>
    if g.id == dest then
      Group.start dest clock false
    else g
  { h with holds := h.holds.filter fun x => !ids.contains x.group, regs := { h.regs with groups := groups } }

/-- REGANG (R109): a group that holds every slice that is not absent completes; any other waits. -/
def execRegang (s : State) : Host.Outcome State Fault Refusal :=
  runWord .regang (fun e =>
    if (List.range e.h.regs.slices.length).all fun n => e.h.absent n || e.h.sliceIn e.g.id n then
      e.move { e.goto (addPc e.pc 4) e.h with holds := e.h.holds.filter (·.group != e.g.id) }
    else .wait .regang e.s) s

/-- Settles the hoist's work, whose flags an FPX decision waits for (13_numbers.md R254). -/
def Env.settleFlags (e : Env) : Env :=
  if e.s.flights.any fun f => f.src == e.h.src then e.settle fun f => f.src == e.h.src else e

/-- Whether work that may still OR its flags is in flight. -/
def Env.flagsOpen (e : Env) : Bool :=
  e.s.flights.any fun f => f.src == e.h.src && match f.work with
    | .pass _ => true
    | .promote _ => true
    | _ => false

/-- An instruction that delivers a pending FPX before anything else (R254). -/
def Env.fpxFirst (e : Env) (k : Env → Res) : Res :=
  let e := e.settleFlags
  if !e.here then .gone e.s
  else if e.flagsOpen then .wait .retry e.s
  else if fpxPending e.h.regs.fpx then e.raise .fpx
  else k e

/-- A copy failure that an instruction reports before anything else, once (09_memory.md R194). -/
def Env.reportCopies (e : Env) (covers : Option Nat → Bool) (k : Env → Res) : Res :=
  match e.h.fails.find? fun x => covers x.batch with
  | some x =>
    .trap { cls := x.cls, detail := x.detail, va := some x.vaddr, key := x.key, info := x.info, copy := true, cpys := x.cpys }
      (e.s.updHoist e.h.src fun h => { h with fails := h.fails.erase x })
  | none => k e

/-- A release point of a replicated hoist before its effect; `committer` tells whether this hoist performs it
(21_reliability.md R367, R368).  In a hoist that is not replicated the effect follows at once. -/
def Env.release (e : Env) (ssig : BitVec 64) (k : Env → Bool → Res) : Res :=
  if !e.b.replicated then k e true
  else
    match e.voted with
    | some leads => k e leads
    | none => e.offerOrWait ssig

/-- Closes the open set of a hoist into a batch (09_memory.md R192, R195). -/
def State.closeBatch (s : State) (src seq : Nat) : State :=
  { (s.updHoist src fun h => { h with fails := h.fails.map fun x => if x.batch.isNone then { x with batch := some seq } else x })
    with flights := s.flights.map fun f => if f.src != src then f else
      { f with work := match f.work with
        | .copy j => if j.batch.isNone then .copy { j with batch := some seq } else .copy j
        | w => w } }

/-- The slices of the group have exited; in a handler, every slice of the hoist (R110). -/
def Env.exited (e : Env) : Hoist :=
  if e.h.regs.depth ≠ 0 then e.h.exitAll
  else
    let h := e.h.updSliceList e.slices fun _ x => { x with exited := true, stack := [] }
    h.prune

/-- EXIT (R110).  DESIGN CHOICE (log 51): R195 closes the open copy set of a hoist that executes EXIT; in a hoist whose groups
are parted the manual does not say by which group's EXIT, and here the set stays open until no slice is left. -/
def execExit (s : State) : Host.Outcome State Fault Refusal :=
  runWord .exit (fun e => e.fpxFirst fun e => e.reportCopies (fun _ => true) fun e => e.release e.h.regs.ssig fun e _ =>
    let h := e.exited
    let s := if h.gone then e.s.closeBatch e.h.src e.h.regs.batch.toNat else e.s
    let h' := if h.gone then { h with fails := [] } else h
    .jump ((s.putHoist h').evalBars e.h.block)) s

/-! ### Traps, signatures and waiting -/

/-- TRAP (R111). -/
def execTrap (i : BitVec 16) (s : State) : Host.Outcome State Fault Refusal :=
  runWord (.trap i) (fun e =>
    .trap { cls := .trap, info := (e.imm16z i).zeroExtend 64, resumeNext := true } e.s) s

/-- YIELD (R112).  DESIGN CHOICE (log 58): its own clock counts as the first of the 16 cycles, so the group may start again 16
clocks after it. -/
def execYield (s : State) : Host.Outcome State Fault Refusal :=
  runWord .yield (fun e => e.put (e.h.updGroup e.g.id fun x => { x with wait := .yielding (e.s.clock + 16) })) s

/-- CHK (R113); in a handler it neither compares nor resets (21_reliability.md R356). -/
def execChk (i : BitVec 16) (s : State) : Host.Outcome State Fault Refusal :=
  runWord (.chk i) (fun e =>
    if e.h.regs.depth ≠ 0 then .done e.s
    else if e.slices.all fun n => (e.h.slice n).cfs == e.imm16z i then
      e.put (e.h.updSliceList e.slices fun _ x => { x with cfs := 0 })
    else e.raise .sig) s

/-- Waits for the hoist's counters to satisfy `ok`, letting its work complete. -/
def Env.waitCounters (e : Env) (ok : Counters → Bool) : Res :=
  if ok e.h.counters then .done e.s
  else
    let e := e.settle fun f => f.src == e.h.src
    if !e.here then .gone e.s
    else if ok e.h.counters then .done e.s
    else .wait .retry e.s

/-- The code lines that a hoist holds are dropped: its later words are fetched afresh (R114, 19_faults.md R341). -/
def Res.refetch (src : Nat) : Res → Res
  | .done s => .done (s.updHoist src fun h => { h with lines := [] })
  | r => r

/-- ISYNC (R114): cnt.w reads zero; later words are fetched afresh. -/
def execIsync (s : State) : Host.Outcome State Fault Refusal :=
  runWord .isync (fun e => (e.waitCounters fun c => c.w == 0).refetch e.h.src) s

/-- WAITC (R115). -/
def execWaitc (g r w x : BitVec 4) (s : State) : Host.Outcome State Fault Refusal :=
  runWord (.waitc g r w x) (fun e => e.waitCounters fun c =>
    decide (c.g ≤ g.toNat) && decide (c.s ≤ r.toNat) && decide (c.w ≤ w.toNat) && decide (c.x ≤ x.toNat)) s

end Sys2Proof.Machine
end

