-- ==== Sys2Proof/Machine/Memio.lean ====
section
/-!
DEFINITION. How a word's accesses start: the checks of R124 as a word's end, loads and stores put in flight, and values
stored at once (05_control.md R123, R124, 03_encoding.md R72, 09_memory.md R173, R176, 21_reliability.md R364, R365).
-/

namespace Sys2Proof.Machine

/-- KIND of a translation request (19_faults.md R347). -/
def PageUse.kind : PageUse → Nat
  | .load => 0
  | .store => 1
  | .atomic => 2
  | .mwait => 2
  | .fetch => 3

/-- A word that waits in place on a translation request (R347, R348). -/
def Env.awaitToken (e : Env) (va : VAddr) (kind : Nat) (s : State) : Res :=
  let (w, s) := s.tokenWait e.h.src e.c.id va kind
  .wait w s

/-- The PERM that a window raises before any access is made: VADDR is the place that the word would reach first through it
(19_faults.md R333, R338; log 59). -/
def Env.windowPerm (e : Env) (a : AReg) (pos : Int) : Res := .trap { cls := .perm, va := some (a.address pos) } e.s

/-- What follows the checks of an access. -/
def Env.checked (e : Env) (use : PageUse) (c : Check) (k : State → List Access → Res) : Res :=
  match c with
  | .pass s acc => k s acc
  | .trap t s => .trap t s
  | .retry s => .wait .retry s
  | .forward va s => e.awaitToken va use.kind s

/-- A fault of a range as a word meets it. -/
def Env.rangeRes (e : Env) (f : RangeFault) (kind : Nat) (s : State) : Res :=
  if f.stall then .wait .retry s
  else if f.forward then e.awaitToken f.va kind s
  else .trap { cls := f.cls, detail := f.detail, key := f.key, va := some f.va } s

/-- Sets %ssig. -/
def Hoist.setSsig (h : Hoist) (c : BitVec 64) : Hoist := { h with regs := { h.regs with ssig := c } }

/-- The bytes of runs as a hoist reads them, under its own write buffer (21_reliability.md R365). -/
def State.loadRuns (s : State) (src block : Nat) (rs : Runs) : List Byte :=
  rs.flatMap fun r => s.readAccess src block ⟨0, false, 0, r.1, r.2⟩

/-- The XLATE of a word whose translation the host refused, for an access of n bytes: at the first unit that cannot be
translated, or at its start when each of them can by now (19_faults.md R348; log 39). -/
def Env.refusedRange (e : Env) (use : PageUse) (r : Rights) (va : VAddr) (n : Nat) : Res :=
  let xs := (State.reachUnits (coreOf e.h.src) e.c use r false (unitsOf n) va n e.s).1
  .trap { cls := .xlate, detail := 2, va := some (((xs.find? (·.reach.meets .xlate)).map (·.va)).getD va) } e.s

/-- The checks of one access of n bytes that may cross a page, in the order of R124: the runs in memory, none in the
segment. -/
def Env.reachSpan (e : Env) (a : AReg) (need : List Nat) (use : PageUse) (align n : Nat) (pos : Int)
    (k : State → Option Runs → Res) : Res :=
  if !need.all a.has then e.windowPerm a pos
  else if !a.accessOk e.b.segSize align n pos then .trap { cls := .bound } e.s
  else if a.has permSCR then k e.s none
  else if e.g.refused then e.refusedRange use a.rights (a.address pos) n
  else
    match e.s.range (e.who use) e.c use a.rights (a.address pos) n with
    | (.error f, s) => e.rangeRes f use.kind s
    | (.ok rs, s) => k s (some rs)

/-- The bytes that a checked span holds; none when a sector is poisoned (21_reliability.md R358). -/
def Env.spanBytes (e : Env) (a : AReg) (n : Nat) (pos : Int) (rs : Option Runs) (s : State) : Option (List Byte) :=
  let off := ((a.base.toNat : Int) + pos).toNat
  match rs with
  | none =>
    if s.accessPoisoned e.b.id ⟨0, true, 0, off, n⟩ then none else some (s.readAccess e.h.src e.b.id ⟨0, true, 0, off, n⟩)
  | some rs => if s.runsPoisoned rs then none else some (s.loadRuns e.h.src e.b.id rs)

/-- Writes a checked span for the hoist, folded as a store when the block is replicated (R364, R365). -/
def Env.writeSpan (e : Env) (a : AReg) (pos : Int) (rs : Option Runs) (bs : List Byte) (s : State) : State :=
  match rs with
  | none => s.writeScratch e.b.id ((a.base.toNat : Int) + pos).toNat bs
  | some rs =>
    (State.storeRuns e.h.src e.b.id e.c.id (a.address pos) rs bs s).updHoist e.h.src fun h =>
      h.foldItem e.b.replicated (a.address pos) 0 0 bs

/-- A word whose own access comes next in program order: the hoist's earlier accesses, and writes that own the range,
are performed first (11_ordering.md R211, R215). -/
def Env.inOrder (e : Env) (ranges : List (Int × Int)) (k : Env → Res) : Res :=
  let e := if e.s.accessBlocked e.h.src e.c.id ranges then
      e.settle fun f => (f.src == e.h.src && f.work.access) || ranges.any fun r => f.owns e.c.id r.1 r.2
    else e
  if !e.here then .gone e.s
  else if e.s.accessBlocked e.h.src e.c.id ranges then .wait .retry e.s
  else k e

/-- The virtual ranges of a list of accesses in memory. -/
def accessRanges (acc : List Access) : List (Int × Int) :=
  (acc.filter (!·.scr)).map fun x => ((x.va.toNat : Int), (x.va.toNat : Int) + x.n)

/-- As `inOrder`, for accesses that are translated: it waits while an engine owns one of their lines. -/
def Env.inOrderAt (e : Env) (acc : List Access) (k : Env → Res) : Res :=
  e.inOrder (accessRanges acc) fun e =>
    if e.s.owned (e.who .load) (accessRuns acc) then .wait .retry e.s else k e

/-- Work that owns lines of memory from its start on starts once no earlier access to one of them is in flight: those are
performed before it (09_memory.md R190, 15_cube.md R294). -/
def Env.ownLines (e : Env) (w : Work) (k : Env → Res) : Res :=
  let rs := e.s.unwritten ⟨e.s.nextId, e.h.src, e.g.id, e.b.id, e.c.id, w, []⟩
  let p (f : Flight) : Bool := (accessRuns f.work.accesses).any fun x => rs.any (shareLine x)
  let e := if e.s.flights.any p then e.settle p else e
  if !e.here then .gone e.s else if e.s.flights.any p || e.s.outsOwn rs then .wait .retry e.s else k e

/-- The virtual range of n bytes at a position of a window in memory. -/
def AReg.ranges (a : AReg) (pos : Int) (n : Nat) : List (Int × Int) :=
  if a.has permSCR then [] else [(a.base.toNat + pos, a.base.toNat + pos + n)]

/-- One more piece of work in flight with its counter raised (R72). -/
def Env.inFlight (e : Env) (k : Counter) (w : Work) (s : State) : State :=
  (s.updHoist e.h.src fun h => { h with counters := h.counters.upd k (· + 1) }).addFlight e.h.src e.g.id e.b.id e.c.id w e.namedData

/-- A load starts (09_memory.md R173).  A lane whose sector is poisoned dies before the group's next word, and a scalar
load from one loses the hoist (21_reliability.md R358, R359). -/
def Env.startLoad (e : Env) (k : Counter) (t : Target) (acc : List Access) (s : State) : Res :=
  if !acc.any (s.accessPoisoned e.b.id) then .done (e.inFlight k (.load k t acc) s)
  else (e.at s).inOrderAt acc fun e =>
    let (good, bad) := e.s.splitPoison e.b.id acc
    let s := if good = [] then e.s else e.inFlight k (.load k t good) e.s
    if bad = [] then .done s
    else if t.perLane then .done (s.killLanes e.h.src (deaths bad) e.namedData)
    else .gone (s.loseHoist e.h.src 0xFF e.namedData)

/-- The words of each lane for a store as its signature items (21_reliability.md R364). -/
def Hoist.foldItems (h : Hoist) (replicated : Bool) (kind modifier : Nat) (ws : List (VAddr × List Byte)) : Hoist :=
  ws.foldl (fun h w => h.foldItem replicated w.1 kind modifier w.2) h

/-- The bytes that memory writes would add to a replicated hoist's buffer, and whether they fit (R365). -/
def Env.bufferFits (e : Env) (n : Nat) : Bool := !e.b.replicated || decide (bufferBytes e.h.wbuf + n ≤ 65536)

/-- Room in the write buffer of a replicated hoist: without it, a forced release point comes first (R365, R367). -/
def Env.withRoom (e : Env) (n : Nat) (k : Env → Res) : Res :=
  if e.bufferFits n then k e else e.voted.elim (e.offerOrWait e.h.regs.ssig) fun _ => k e

/-- A replicated hoist's store: its memory writes enter the write buffer at once, so cnt.w has dropped when the word
ends (R365). -/
def Env.bufferStore (e : Env) (kind modifier : Nat) (ws : List (Access × List Byte)) (s : State) : Res :=
  let mem := ws.filter fun w => !w.1.scr
  e.withRoom (mem.foldl (fun n w => n + w.2.length) 0) fun _ =>
    (e.at s).inOrder [] fun e =>
      let s := e.s.updHoist e.h.src fun h => h.foldItems true kind modifier (mem.map fun w => (w.1.va, w.2))
      .done (s.performWrites e.h.src e.b.id e.c.id ws)

/-- A store starts: cnt.w rises, its data is taken now, and its writes are performed later in the die order
(09_memory.md R176). -/
def Env.startStore (e : Env) (kind modifier : Nat) (ws : List (Access × List Byte)) (s : State) : Res :=
  if e.b.replicated then e.bufferStore kind modifier ws s
  else .done (e.inFlight .w (.store ws false) s)

end Sys2Proof.Machine
end

