-- ==== Sys2Proof/Machine/Scalar.lean ====
section
/-!
DEFINITION. Scalar integer instructions (05_control.md R116–R122).
-/

namespace Sys2Proof.Machine

/-- The word completes with an S destination written (03_encoding.md R53). -/
def Env.scalar (e : Env) (d : BitVec 8) (v : Word) : Res := .done (e.s.putHoist (e.h.writeS d v))

/-- A shift left; 0 from 32 on (R117). -/
def shl32 (a b : Word) : Word := if b.toNat < 32 then a <<< b.toNat else 0
/-- A logical shift right; 0 from 32 on (R117). -/
def shr32 (a b : Word) : Word := if b.toNat < 32 then a >>> b.toNat else 0
/-- An arithmetic shift right; the sign from 32 on (R117). -/
def sra32 (a b : Word) : Word := a.sshiftRight (min b.toNat 32)
/-- Bits [63:32] of the signed product (R117). -/
def mulh32 (a b : Word) : Word := BitVec.ofInt 32 (a.toInt * b.toInt / 2 ^ 32)
/-- Bits [63:32] of the unsigned product. -/
def mulhu32 (a b : Word) : Word := BitVec.ofNat 32 (a.toNat * b.toNat / 2 ^ 32)
/-- The smaller, signed. -/
def min32 (a b : Word) : Word := if b.toInt < a.toInt then b else a
/-- The larger, signed. -/
def max32 (a b : Word) : Word := if a.toInt < b.toInt then b else a
/-- The smaller, unsigned. -/
def minu32 (a b : Word) : Word := if b.toNat < a.toNat then b else a
/-- The larger, unsigned. -/
def maxu32 (a b : Word) : Word := if a.toNat < b.toNat then b else a
/-- The number of one bits. -/
def popWord (a : Word) : Word := BitVec.ofNat 32 (popNat 32 a.toNat)
/-- The zero bits above the highest one bit among the first `n` places. -/
def clzFrom (a : Word) : Nat → Nat
  | 0 => 0
  | n + 1 => if a.getLsbD n then 0 else clzFrom a n + 1
/-- The number of leading zeros; 32 for zero. -/
def clzWord (a : Word) : Word := BitVec.ofNat 32 (clzFrom a 32)
/-- A bit field of a under the control word b (R122). -/
def bfe32 (a b : Word) : Word :=
  let pos := bitsOf b.toNat 4 0
  let len := min (bitsOf b.toNat 13 8) (32 - pos)
  let f := a.toNat / 2 ^ pos % 2 ^ len
  if b.getLsbD 16 && decide (0 < len) && decide (2 ^ (len - 1) ≤ f) then BitVec.ofInt 32 ((f : Int) - 2 ^ len)
  else BitVec.ofNat 32 f
/-- The conditions of SCMP (R119). -/
def compare32 (c : Nat) (x a : Word) : Bool :=
  match c with
  | 0 => x == a
  | 1 => x != a
  | 2 => decide (x.toInt < a.toInt)
  | 3 => decide (x.toInt ≤ a.toInt)
  | 4 => decide (a.toInt < x.toInt)
  | 5 => decide (a.toInt ≤ x.toInt)
  | 6 => decide (x.toNat < a.toNat)
  | _ => decide (a.toNat ≤ x.toNat)
/-- 1 when it holds, else 0. -/
def flagWord (c : Bool) : Word := if c then 1 else 0

/-- A three-register form: d := f a b (R117). -/
def Env.scalar2 (e : Env) (d a b : BitVec 8) (f : Word → Word → Word) : Res := e.scalar d (f (e.sval a) (e.sval2 a b))

/-- SADD (R117). -/
def execSadd (d a b : BitVec 8) (s : State) : Host.Outcome State Fault Refusal :=
  runWord (.sadd d a b) (fun e => e.scalar2 d a b fun x y => x + y) s
/-- SSUB (R117). -/
def execSsub (d a b : BitVec 8) (s : State) : Host.Outcome State Fault Refusal :=
  runWord (.ssub d a b) (fun e => e.scalar2 d a b fun x y => x - y) s
/-- SMUL (R117). -/
def execSmul (d a b : BitVec 8) (s : State) : Host.Outcome State Fault Refusal :=
  runWord (.smul d a b) (fun e => e.scalar2 d a b fun x y => x * y) s
/-- SMULH (R117). -/
def execSmulh (d a b : BitVec 8) (s : State) : Host.Outcome State Fault Refusal :=
  runWord (.smulh d a b) (fun e => e.scalar2 d a b mulh32) s
/-- SMAD (R117): d is read as a source first. -/
def execSmad (d a b : BitVec 8) (s : State) : Host.Outcome State Fault Refusal :=
  runWord (.smad d a b) (fun e =>
    e.scalar d (e.sval d + e.sval2 d a * e.svalAfter [d.toNat, a.toNat] b)) s
/-- SAND (R117). -/
def execSand (d a b : BitVec 8) (s : State) : Host.Outcome State Fault Refusal :=
  runWord (.sand d a b) (fun e => e.scalar2 d a b fun x y => x &&& y) s
/-- SOR (R117). -/
def execSor (d a b : BitVec 8) (s : State) : Host.Outcome State Fault Refusal :=
  runWord (.sor d a b) (fun e => e.scalar2 d a b fun x y => x ||| y) s
/-- SXOR (R117). -/
def execSxor (d a b : BitVec 8) (s : State) : Host.Outcome State Fault Refusal :=
  runWord (.sxor d a b) (fun e => e.scalar2 d a b fun x y => x ^^^ y) s
/-- SSHL (R117). -/
def execSshl (d a b : BitVec 8) (s : State) : Host.Outcome State Fault Refusal :=
  runWord (.sshl d a b) (fun e => e.scalar2 d a b shl32) s
/-- SSHR (R117). -/
def execSshr (d a b : BitVec 8) (s : State) : Host.Outcome State Fault Refusal :=
  runWord (.sshr d a b) (fun e => e.scalar2 d a b shr32) s
/-- SSRA (R117). -/
def execSsra (d a b : BitVec 8) (s : State) : Host.Outcome State Fault Refusal :=
  runWord (.ssra d a b) (fun e => e.scalar2 d a b sra32) s
/-- SMIN (R117). -/
def execSmin (d a b : BitVec 8) (s : State) : Host.Outcome State Fault Refusal :=
  runWord (.smin d a b) (fun e => e.scalar2 d a b min32) s
/-- SMAX (R117). -/
def execSmax (d a b : BitVec 8) (s : State) : Host.Outcome State Fault Refusal :=
  runWord (.smax d a b) (fun e => e.scalar2 d a b max32) s
/-- SMINN (R117). -/
def execSminn (d a b : BitVec 8) (s : State) : Host.Outcome State Fault Refusal :=
  runWord (.sminn d a b) (fun e => e.scalar2 d a b minu32) s
/-- SMAXN (R117). -/
def execSmaxn (d a b : BitVec 8) (s : State) : Host.Outcome State Fault Refusal :=
  runWord (.smaxn d a b) (fun e => e.scalar2 d a b maxu32) s

/-- SADDI (R118). -/
def execSaddi (d a i : BitVec 8) (s : State) : Host.Outcome State Fault Refusal :=
  runWord (.saddi d a i) (fun e => e.scalar d (e.sval a + e.imm8 i)) s
/-- SMOVI (R118). -/
def execSmovi (d : BitVec 8) (i : BitVec 16) (s : State) : Host.Outcome State Fault Refusal :=
  runWord (.smovi d i) (fun e => e.scalar d (e.imm16s i)) s
/-- SMOVHI (R118). -/
def execSmovhi (d : BitVec 8) (i : BitVec 16) (s : State) : Host.Outcome State Fault Refusal :=
  runWord (.smovhi d i) (fun e => e.scalar d (i ++ (e.sval d).extractLsb' 0 16)) s
/-- SCMP (R119): d is the first comparand. -/
def execScmp (d a : BitVec 8) (c : BitVec 3) (s : State) : Host.Outcome State Fault Refusal :=
  runWord (.scmp d a c) (fun e => e.scalar d (flagWord (compare32 c.toNat (e.sval d) (e.sval2 d a)))) s
/-- SSEL (R120): d is the condition. -/
def execSsel (d a b : BitVec 8) (s : State) : Host.Outcome State Fault Refusal :=
  runWord (.ssel d a b) (fun e =>
    e.scalar d (if e.sval d ≠ 0 then e.sval2 d a else e.svalAfter [d.toNat, a.toNat] b)) s
/-- SPOP (R121). -/
def execSpop (d a : BitVec 8) (s : State) : Host.Outcome State Fault Refusal :=
  runWord (.spop d a) (fun e => e.scalar d (popWord (e.sval a))) s
/-- SCLZ (R121). -/
def execSclz (d a : BitVec 8) (s : State) : Host.Outcome State Fault Refusal :=
  runWord (.sclz d a) (fun e => e.scalar d (clzWord (e.sval a))) s
/-- SBFE (R122). -/
def execSbfe (d a b : BitVec 8) (s : State) : Host.Outcome State Fault Refusal :=
  runWord (.sbfe d a b) (fun e => e.scalar2 d a b bfe32) s
/-- SMOV (R121). -/
def execSmov (d a : BitVec 8) (s : State) : Host.Outcome State Fault Refusal :=
  runWord (.smov d a) (fun e => e.scalar d (e.sval a)) s

end Sys2Proof.Machine
end

