-- ==== Sys2Proof/Machine/Address.lean ====
section
/-!
DEFINITION. Address registers: ASET, AGET, ALD, AST, AADV, ARESTR, AMOV (05_control.md R125–R131).
-/

namespace Sys2Proof.Machine

/-- The word completes with an A register written. -/
def Env.address (e : Env) (d : BitVec 8) (a : AReg) : Res := .done (e.s.putHoist (e.h.setA d.toNat a))

/-- Writes the part of an A register that a selector names (R125). -/
def AReg.setPart (a : AReg) (sel : Nat) (v : Word) : AReg :=
  match sel with
  | 0 => { a with base := a.base.extractLsb' 32 40 ++ v }
  | 1 => { a with base := a.base.extractLsb' 64 8 ++ v ++ a.base.extractLsb' 0 32 }
  | 2 => { a with base := v.extractLsb' 0 8 ++ a.base.extractLsb' 0 64 }
  | 3 => { a with extent := a.extent.extractLsb' 32 16 ++ v }
  | 4 => { a with extent := v.extractLsb' 0 16 ++ a.extent.extractLsb' 0 32 }
  | 5 => { a with cursor := a.cursor.extractLsb' 32 16 ++ v }
  | 6 => { a with cursor := v.extractLsb' 0 16 ++ a.cursor.extractLsb' 0 32 }
  | 7 => { a with perm := v.extractLsb' 0 8 }
  | _ => { a with step := v.extractLsb' 0 24 }

/-- The part of an A register that a selector names, zero-extended (R125, R127). -/
def AReg.part (a : AReg) (sel : Nat) : Word :=
  match sel with
  | 0 => a.base.extractLsb' 0 32
  | 1 => a.base.extractLsb' 32 32
  | 2 => (a.base.extractLsb' 64 8).zeroExtend 32
  | 3 => a.extent.extractLsb' 0 32
  | 4 => (a.extent.extractLsb' 32 16).zeroExtend 32
  | 5 => a.cursor.extractLsb' 0 32
  | 6 => (a.cursor.extractLsb' 32 16).zeroExtend 32
  | 7 => a.perm.zeroExtend 32
  | _ => a.step.zeroExtend 32

/-- ASET (R126): only privileged code sets PERM.SYS. -/
def execAset (d a sel : BitVec 8) (s : State) : Host.Outcome State Fault Refusal :=
  runWord (.aset d a sel) (fun e =>
    if sel = 7 ∧ (e.sval a).getLsbD 7 = true ∧ e.h.privileged = false then e.raise .illop
    else e.address d ((e.h.areg d.toNat).setPart sel.toNat (e.sval a))) s

/-- AGET (R127). -/
def execAget (d a sel : BitVec 8) (s : State) : Host.Outcome State Fault Refusal :=
  runWord (.aget d a sel) (fun e => e.scalar d ((e.h.areg a.toNat).part sel.toNat)) s

/-- The position of an A-register image (R123, R128). -/
def Env.imageAt (e : Env) (o : BitVec 8) (n m : BitVec 4) : List (Nat × Int) :=
  e.scalarOffset (m == 1) (e.sval o) (e.h.areg n.toNat)

/-- ALD (R128). -/
def execAld (d o : BitVec 8) (n m : BitVec 4) (s : State) : Host.Outcome State Fault Refusal :=
  runWord (.ald d o n m) (fun e =>
    e.checked .load (e.check (e.h.areg n.toNat) [permR] none .load false 32 32 (e.imageAt o n m)) fun s acc =>
      e.startLoad .g (.a d.toNat e.h.privileged) acc s) s

/-- AST (R128). -/
def execAst (d o : BitVec 8) (n m : BitVec 4) (s : State) : Host.Outcome State Fault Refusal :=
  runWord (.ast d o n m) (fun e =>
    e.checked .store (e.check (e.h.areg n.toNat) [permW] none .store false 32 32 (e.imageAt o n m)) fun s acc =>
      e.startStore 0 m.toNat (acc.map fun x => (x, (e.h.areg d.toNat).image)) s) s

/-- AADV (R129). -/
def execAadv (d a m : BitVec 8) (s : State) : Host.Outcome State Fault Refusal :=
  runWord (.aadv d a m) (fun e =>
    let r := e.h.areg d.toNat
    let c : Int := r.cursor.toNat + (if m = 0 then r.step.toInt else (e.sval a).toInt)
    if c < 0 ∨ c > r.extent.toNat then e.raise .bound
    else e.address d { r with cursor := BitVec.ofInt 48 c }) s

/-- ARESTR (R130). -/
def execArestr (d a b : BitVec 8) (s : State) : Host.Outcome State Fault Refusal :=
  runWord (.arestr d a b) (fun e =>
    let r := e.h.areg a.toNat
    if r.extent.toNat < r.cursor.toNat then e.raise .bound
    else e.address d
      { base := r.base + r.cursor.zeroExtend 72
        extent := r.extent - r.cursor
        cursor := 0
        perm := r.perm &&& (e.sval b).extractLsb' 0 8
        step := r.step }) s

/-- AMOV (R131). -/
def execAmov (d a : BitVec 8) (s : State) : Host.Outcome State Fault Refusal :=
  runWord (.amov d a) (fun e => e.address d (e.h.areg a.toNat)) s

end Sys2Proof.Machine
end

