-- ==== Sys2Proof/Machine/Barriers.lean ====
section
/-!
DEFINITION. Block and span barriers, byte-counting barriers, and the registration of condition monitors (09_memory.md
R196–R202, 11_ordering.md R239, R240).
-/

namespace Sys2Proof.Machine

/-! ### Condition monitors -/

/-- Where a monitor's entry is held: the home slice, the companion's, or the upstream port (R239). -/
def monitorHome (d : Die) (pa : Nat) : Nat :=
  if homedHere d pa then homeSlice d (pa / 64) else if companionBase ≤ pa ∨ pa < tsuordTop then 0x1000 else 0x3210

/-- Registers a monitor: into a full table of 4,096 entries the oldest leaves, and its waiter is woken (R239). -/
def State.register (s : State) (m : Monitor) : State :=
  let place := monitorHome s.die m.pa
  let same := s.monitors.filter fun x => monitorHome s.die x.pa == place
  match same with
  | old :: _ =>
    if 4096 ≤ same.length then
      { s with monitors := s.monitors.erase old ++ [m] }.wakeMonitor old
    else { s with monitors := s.monitors ++ [m] }
  | [] => { s with monitors := s.monitors ++ [m] }

/-- An agent of another chip comes to wait on a line that is homed here: it registers while its condition fails (R225, R227,
R238). -/
def State.watch (s : State) (agent pa size : Nat) (cond : Condition) : State :=
  let m : Monitor := ⟨pa, 0, size, cond, noSlot, 0, Ctx.none.id, none, some agent⟩
  if s.foreignAgent agent && homedHere s.die pa && !m.holds s.mem then s.register m else s

/-- Drops the monitors that a group registered. -/
def State.unregister (s : State) (src group : Nat) : State :=
  { s with monitors := s.monitors.filter fun m => !(m.src == src && m.group == group && m.parked.isNone) }

/-- The group waits on monitors (R239). -/
def Env.monitor (e : Env) (ms : List Monitor) (s : State) : Res :=
  .wait .monitor (ms.foldl State.register (s.unregister e.h.src e.g.id))

/-! ### Block and span barriers -/

/-- The lanes of the group's slices that count, as bits h × W + l of the block (R196, R197). -/
def Env.arrivalBits (e : Env) : Nat :=
  (e.h.groupLanes e.g.id).foldl (fun a l => a ||| 2 ^ (e.h.index * e.h.width + l)) 0

/-- Barrier n of a block. -/
def Block.bar (b : Block) (n : Nat) : Bar := b.bars[n]?.getD ⟨0, 0, 0⟩

/-- The target of barrier n's open phase, when some lane has arrived in it (R197). -/
def State.openPhase (s : State) (b : Block) (n : Nat) : Option Word :=
  if n = 16 then
    let bars := (s.spanBlocks b.span).map fun x => x.bar 16
    if bars.any (·.arrived != 0) then some (openTarget bars) else none
  else if (b.bar n).arrived != 0 then some (b.bar n).target
  else none

/-- The lanes of the group arrive at barrier n (R197). -/
def Env.arrive (e : Env) (n : Nat) (target : Word) (s : State) : State :=
  let s := s.updBlock e.b.id fun b => { b with
    bars := b.bars.mapIdx fun k x => if k = n then { x with target := target, arrived := x.arrived ||| e.arrivalBits } else x }
  s.evalBars e.b.id

/-- BARA (R197). -/
def execBara (d a b : BitVec 8) (s : State) : Host.Outcome State Fault Refusal :=
  runWord (.bara d a b) (fun e =>
    let n := (e.sval a).toNat
    let target := e.sval2 a b
    if 16 < n then e.raise .illop
    else e.fpxFirst fun e => e.reportCopies (fun _ => true) fun e => e.release e.h.regs.ssig fun e _ =>
      e.inOrder [] fun e =>
        if (e.b.bar n).arrived &&& e.arrivalBits ≠ 0 then .wait .retry e.s
        else
          match e.s.openPhase e.b n with
          | some t =>
            if e.arrivalBits ≠ 0 ∧ t ≠ target then e.raise .illop
            else .done (e.arrive n t (e.s.putHoist (e.h.writeS d (e.b.bar n).phase)))
          | none => .done (e.arrive n target (e.s.putHoist (e.h.writeS d (e.b.bar n).phase)))) s

/-- BARW (R198): an arrival lies in the open phase exactly while its bit stands. -/
def execBarw (a : BitVec 8) (s : State) : Host.Outcome State Fault Refusal :=
  runWord (.barw a) (fun e =>
    let n := (e.sval a).toNat
    if 16 < n then e.raise .illop
    else e.fpxFirst fun e => e.reportCopies (fun _ => true) fun e =>
      if (e.b.bar n).arrived &&& e.arrivalBits ≠ 0 then .wait .retry e.s else .done e.s) s

/-! ### Byte-counting barriers -/

/-- The update of a BCARR by n bytes: its new bytes, or for a replicated hoist's barrier in memory an update that its commit makes
(R199, 21_reliability.md R365); as a signature item it is a store of the count (DESIGN CHOICE, log 44). -/
def Env.armBar (e : Env) (r : AReg) (pos : Int) (rs : Option Runs) (n : Nat) (bytes : List Byte) (s : State) : State :=
  match rs, e.b.replicated with
  | some ((pa, _) :: _), true => s.updHoist e.h.src fun (h : Hoist) =>
      ({ h with wbuf := h.wbuf ++ [⟨r.address pos, pa, bytes, h.wbuf.length, some n⟩] } : Hoist).foldItem true (r.address pos) 0 0
        (natLe 4 n)
  | _, _ => e.writeSpan r pos rs bytes s

/-- BCARR (R200). -/
def execBcarr (d a b : BitVec 8) (s : State) : Host.Outcome State Fault Refusal :=
  runWord (.bcarr d a b) (fun e =>
    let r := e.h.areg a.toNat
    let pos := r.position 0 0
    let need := if r.has permATOM then [permATOM] else [permSCR, permW]
    e.inOrder (r.ranges pos 16) fun e => e.reachSpan r need .atomic 16 16 pos fun s rs =>
      match e.spanBytes r 16 pos rs s with
      | none => .gone (s.loseHoist e.h.src 0xFF e.namedData)
      | some bytes =>
        let x := byteBarOf bytes
        let n := (e.sval b).toNat
        if 2 ^ 48 - 1 < x.expb + n then .trap { cls := .illop } s
        else e.withRoom (if r.has permSCR then 0 else 16) fun e =>
          .done ((e.armBar r pos rs n (x.arm n).bytes s).updHoist e.h.src fun h => h.writeS d (BitVec.ofNat 32 x.phase))) s

/-- BCWAIT (R202): a monitor wait on a memory barrier, a wait in place on a scratchpad barrier. -/
def execBcwait (a b : BitVec 8) (s : State) : Host.Outcome State Fault Refusal :=
  runWord (.bcwait a b) (fun e =>
    let r := e.h.areg a.toNat
    let pos := r.position 0 0
    let p := e.sval b
    e.inOrder (r.ranges pos 16) fun e => e.reachSpan r [permR] .load 16 16 pos fun s rs =>
      (e.at s).reportCopies (fun _ => true) fun e =>
        match e.spanBytes r 16 pos rs e.s with
        | none => .gone (e.s.loseHoist e.h.src 0xFF e.namedData)
        | some bytes =>
          if phasePassed (byteBarOf bytes).phase p.toNat then .done (e.s.unregister e.h.src e.g.id)
          else
            match rs with
            | some ((pa, _) :: _) =>
              e.monitor [⟨pa, r.address pos, 16, .phasePast p, e.h.src, e.g.id, e.c.id, none, none⟩] e.s
            | _ => .wait .retry e.s) s

end Sys2Proof.Machine
end

