-- ==== Sys2Proof/Machine/Vector.lean ====
section
/-!
DEFINITION. Vector integer arithmetic, compares, selects and predicate logic (07_lanes.md R135–R143), with the shape
tags of 03_encoding.md R57.
-/

namespace Sys2Proof.Machine

/-- The word completes with a V register written in its live active lanes (R57). -/
def Env.lanes (e : Env) (d : BitVec 8) (t : Tag) (f : Nat → Word) : Res :=
  .done (e.s.putHoist (e.h.putV e.g.id d.toNat t f))

/-- The tag of a V register. -/
def Env.tag (e : Env) (n : BitVec 8) : Tag := (e.h.vreg n.toNat).tag

/-- The tag of a sum: U of two uniform values, A where none is general (R57). -/
def tagSum : Tag → Tag → Tag
  | .u, .u => .u
  | .g, _ => .g
  | _, .g => .g
  | _, _ => .a

/-- The tag of a product (R57). -/
def tagProduct : Tag → Tag → Tag
  | .u, .u => .u
  | .u, .a => .a
  | .a, .u => .a
  | _, _ => .g

/-- The tag of a shift left by a register (R57). -/
def tagShift : Tag → Tag → Tag
  | t, .u => t
  | _, _ => .g

/-- The tag of a multiply-add (R57). -/
def tagMad (d x y : Tag) : Tag :=
  match tagProduct x y, d with
  | .g, _ => .g
  | _, .g => .g
  | .u, .u => .u
  | _, _ => .a

/-- A two-source form. -/
def Env.lanes2 (e : Env) (d a b : BitVec 8) (t : Tag) (f : Word → Word → Word) : Res :=
  e.lanes d t fun l => f (e.h.vword a.toNat l) (e.h.vword b.toNat l)

/-- A one-source form. -/
def Env.lanes1 (e : Env) (d a : BitVec 8) (t : Tag) (f : Word → Word) : Res :=
  e.lanes d t fun l => f (e.h.vword a.toNat l)

/-- |a| modulo 2^32 (R135). -/
def abs32 (a : Word) : Word := if a.toInt < 0 then -a else a

/-- Field insert (R136). -/
def bfi32 (d a b : Word) : Word :=
  let pos := bitsOf b.toNat 4 0
  let len := min (bitsOf b.toNat 13 8) (32 - pos)
  let m := BitVec.ofNat 32 ((2 ^ len - 1) * 2 ^ pos)
  (d &&& ~~~m) ||| ((a <<< pos) &&& m)

/-- VADD (R135). -/
def execVadd (d a b : BitVec 8) (s : State) : Host.Outcome State Fault Refusal :=
  runWord (.vadd d a b) (fun e => e.lanes2 d a b (tagSum (e.tag a) (e.tag b)) fun x y => x + y) s
/-- VSUB (R135). -/
def execVsub (d a b : BitVec 8) (s : State) : Host.Outcome State Fault Refusal :=
  runWord (.vsub d a b) (fun e => e.lanes2 d a b (tagSum (e.tag a) (e.tag b)) fun x y => x - y) s
/-- VMUL (R135). -/
def execVmul (d a b : BitVec 8) (s : State) : Host.Outcome State Fault Refusal :=
  runWord (.vmul d a b) (fun e => e.lanes2 d a b (tagProduct (e.tag a) (e.tag b)) fun x y => x * y) s
/-- VMULH (R135). -/
def execVmulh (d a b : BitVec 8) (s : State) : Host.Outcome State Fault Refusal :=
  runWord (.vmulh d a b) (fun e => e.lanes2 d a b .g mulh32) s
/-- VMULHN (R135). -/
def execVmulhn (d a b : BitVec 8) (s : State) : Host.Outcome State Fault Refusal :=
  runWord (.vmulhn d a b) (fun e => e.lanes2 d a b .g mulhu32) s
/-- VMAD (R135): vD is read first. -/
def execVmad (d a b : BitVec 8) (s : State) : Host.Outcome State Fault Refusal :=
  runWord (.vmad d a b) (fun e => e.lanes d (tagMad (e.tag d) (e.tag a) (e.tag b)) fun l =>
    e.h.vword d.toNat l + e.h.vword a.toNat l * e.h.vword b.toNat l) s
/-- VAND (R135). -/
def execVand (d a b : BitVec 8) (s : State) : Host.Outcome State Fault Refusal :=
  runWord (.vand d a b) (fun e => e.lanes2 d a b .g fun x y => x &&& y) s
/-- VOR (R135). -/
def execVor (d a b : BitVec 8) (s : State) : Host.Outcome State Fault Refusal :=
  runWord (.vor d a b) (fun e => e.lanes2 d a b .g fun x y => x ||| y) s
/-- VXOR (R135). -/
def execVxor (d a b : BitVec 8) (s : State) : Host.Outcome State Fault Refusal :=
  runWord (.vxor d a b) (fun e => e.lanes2 d a b .g fun x y => x ^^^ y) s
/-- VSHL (R135). -/
def execVshl (d a b : BitVec 8) (s : State) : Host.Outcome State Fault Refusal :=
  runWord (.vshl d a b) (fun e => e.lanes2 d a b (tagShift (e.tag a) (e.tag b)) shl32) s
/-- VSHR (R135). -/
def execVshr (d a b : BitVec 8) (s : State) : Host.Outcome State Fault Refusal :=
  runWord (.vshr d a b) (fun e => e.lanes2 d a b .g shr32) s
/-- VSRA (R135). -/
def execVsra (d a b : BitVec 8) (s : State) : Host.Outcome State Fault Refusal :=
  runWord (.vsra d a b) (fun e => e.lanes2 d a b .g sra32) s
/-- VMIN (R135). -/
def execVmin (d a b : BitVec 8) (s : State) : Host.Outcome State Fault Refusal :=
  runWord (.vmin d a b) (fun e => e.lanes2 d a b .g min32) s
/-- VMAX (R135). -/
def execVmax (d a b : BitVec 8) (s : State) : Host.Outcome State Fault Refusal :=
  runWord (.vmax d a b) (fun e => e.lanes2 d a b .g max32) s
/-- VMINN (R135). -/
def execVminn (d a b : BitVec 8) (s : State) : Host.Outcome State Fault Refusal :=
  runWord (.vminn d a b) (fun e => e.lanes2 d a b .g minu32) s
/-- VMAXN (R135). -/
def execVmaxn (d a b : BitVec 8) (s : State) : Host.Outcome State Fault Refusal :=
  runWord (.vmaxn d a b) (fun e => e.lanes2 d a b .g maxu32) s
/-- VABS (R135). -/
def execVabs (d a : BitVec 8) (s : State) : Host.Outcome State Fault Refusal :=
  runWord (.vabs d a) (fun e => e.lanes1 d a .g abs32) s
/-- VPOP (R135). -/
def execVpop (d a : BitVec 8) (s : State) : Host.Outcome State Fault Refusal :=
  runWord (.vpop d a) (fun e => e.lanes1 d a .g popWord) s
/-- VCLZ (R135). -/
def execVclz (d a : BitVec 8) (s : State) : Host.Outcome State Fault Refusal :=
  runWord (.vclz d a) (fun e => e.lanes1 d a .g clzWord) s
/-- VBFE (R135). -/
def execVbfe (d a b : BitVec 8) (s : State) : Host.Outcome State Fault Refusal :=
  runWord (.vbfe d a b) (fun e => e.lanes2 d a b .g bfe32) s
/-- VBFI (R136). -/
def execVbfi (d a b : BitVec 8) (s : State) : Host.Outcome State Fault Refusal :=
  runWord (.vbfi d a b) (fun e => e.lanes d .g fun l =>
    bfi32 (e.h.vword d.toNat l) (e.h.vword a.toNat l) (e.h.vword b.toNat l)) s
/-- VADDC (R137). -/
def execVaddc (d a b : BitVec 8) (s : State) : Host.Outcome State Fault Refusal :=
  runWord (.vaddc d a b) (fun e => .done (e.s.putHoist (e.h.putVPair e.g.id d.toNat .g fun l =>
    e.h.vpair a.toNat l + e.h.vpair b.toNat l))) s
/-- VMOV (R135): the source's tag. -/
def execVmov (d a : BitVec 8) (s : State) : Host.Outcome State Fault Refusal :=
  runWord (.vmov d a) (fun e => e.lanes1 d a (e.tag a) fun x => x) s
/-- VMOVI (R138). -/
def execVmovi (d : BitVec 8) (i : BitVec 16) (s : State) : Host.Outcome State Fault Refusal :=
  runWord (.vmovi d i) (fun e => e.lanes d .u fun _ => e.imm16s i) s
/-- VBCAST (R138). -/
def execVbcast (d a : BitVec 8) (s : State) : Host.Outcome State Fault Refusal :=
  runWord (.vbcast d a) (fun e => e.lanes d .u fun _ => e.sval a) s
/-- VIOTA (R138). -/
def execViota (d a b : BitVec 8) (s : State) : Host.Outcome State Fault Refusal :=
  runWord (.viota d a b) (fun e => e.lanes d .a fun l => e.sval a + BitVec.ofNat 32 l * e.sval2 a b) s
/-- VADDI (R138). -/
def execVaddi (d a i : BitVec 8) (s : State) : Host.Outcome State Fault Refusal :=
  runWord (.vaddi d a i) (fun e => e.lanes1 d a (e.tag a) fun x => x + e.imm8 i) s
/-- VSHLI (R138). -/
def execVshli (d a : BitVec 8) (n : BitVec 5) (s : State) : Host.Outcome State Fault Refusal :=
  runWord (.vshli d a n) (fun e => e.lanes1 d a (e.tag a) fun x => x <<< n.toNat) s

/-! ### Compares and selects -/

/-- A compare: bits of a P register in the live active lanes (R139). -/
def Env.compareLanes (e : Env) (d a b : BitVec 8) (f : Word → Word → Bool) : Res :=
  .done (e.s.putHoist (e.h.putP d.toNat (e.h.active e.g.id) fun l => f (e.h.vword a.toNat l) (e.h.vword b.toNat l)))

/-- VCMP.EQ (R139). -/
def execVcmpEq (d a b : BitVec 8) (s : State) : Host.Outcome State Fault Refusal :=
  runWord (.vcmpEq d a b) (fun e => e.compareLanes d a b (compare32 0)) s
/-- VCMP.NE (R139). -/
def execVcmpNe (d a b : BitVec 8) (s : State) : Host.Outcome State Fault Refusal :=
  runWord (.vcmpNe d a b) (fun e => e.compareLanes d a b (compare32 1)) s
/-- VCMP.LT (R139). -/
def execVcmpLt (d a b : BitVec 8) (s : State) : Host.Outcome State Fault Refusal :=
  runWord (.vcmpLt d a b) (fun e => e.compareLanes d a b (compare32 2)) s
/-- VCMP.LE (R139). -/
def execVcmpLe (d a b : BitVec 8) (s : State) : Host.Outcome State Fault Refusal :=
  runWord (.vcmpLe d a b) (fun e => e.compareLanes d a b (compare32 3)) s
/-- VCMP.GT (R139). -/
def execVcmpGt (d a b : BitVec 8) (s : State) : Host.Outcome State Fault Refusal :=
  runWord (.vcmpGt d a b) (fun e => e.compareLanes d a b (compare32 4)) s
/-- VCMP.GE (R139). -/
def execVcmpGe (d a b : BitVec 8) (s : State) : Host.Outcome State Fault Refusal :=
  runWord (.vcmpGe d a b) (fun e => e.compareLanes d a b (compare32 5)) s
/-- VCMP.LTN (R139). -/
def execVcmpLtn (d a b : BitVec 8) (s : State) : Host.Outcome State Fault Refusal :=
  runWord (.vcmpLtn d a b) (fun e => e.compareLanes d a b (compare32 6)) s
/-- VCMP.GEN (R139). -/
def execVcmpGen (d a b : BitVec 8) (s : State) : Host.Outcome State Fault Refusal :=
  runWord (.vcmpGen d a b) (fun e => e.compareLanes d a b (compare32 7)) s

/-- A floating-point compare of FP32 patterns with its flag (R140). -/
def fcompare (c : Nat) (a b : Word) : Bool × Flags :=
  let x := fp32.decode a.toNat
  let y := fp32.decode b.toNat
  let nan := x.isNaN || y.isNaN
  let quiet := x.sigFlag ||| y.sigFlag
  let loud := flagIf nan flagIV
  let eq := !nan && x.eqv y
  let lt := !nan && x.lt y && !eq
  let gt := !nan && y.lt x && !eq
  match c with
  | 0 => (eq, quiet)
  | 1 => (!eq, quiet)
  | 2 => (lt, loud)
  | 3 => (lt || eq, loud)
  | 4 => (gt, loud)
  | 5 => (gt || eq, loud)
  | 6 => (!nan, quiet)
  | _ => (nan, quiet)

/-- A floating-point compare in the live active lanes (R140). -/
def Env.fcompareLanes (e : Env) (d a b : BitVec 8) (c : Nat) : Res :=
  let f (l : Nat) : Bool × Flags := fcompare c (e.h.vword a.toNat l) (e.h.vword b.toNat l)
  .done (e.s.putHoist ((e.h.putP d.toNat (e.h.active e.g.id) fun l => (f l).1).raise
    (flagsOver (e.h.activeLanes e.g.id) fun l => (f l).2)))

/-- VFCMP.EQ (R140). -/
def execVfcmpEq (d a b : BitVec 8) (s : State) : Host.Outcome State Fault Refusal :=
  runWord (.vfcmpEq d a b) (fun e => e.fcompareLanes d a b 0) s
/-- VFCMP.NE (R140). -/
def execVfcmpNe (d a b : BitVec 8) (s : State) : Host.Outcome State Fault Refusal :=
  runWord (.vfcmpNe d a b) (fun e => e.fcompareLanes d a b 1) s
/-- VFCMP.LT (R140). -/
def execVfcmpLt (d a b : BitVec 8) (s : State) : Host.Outcome State Fault Refusal :=
  runWord (.vfcmpLt d a b) (fun e => e.fcompareLanes d a b 2) s
/-- VFCMP.LE (R140). -/
def execVfcmpLe (d a b : BitVec 8) (s : State) : Host.Outcome State Fault Refusal :=
  runWord (.vfcmpLe d a b) (fun e => e.fcompareLanes d a b 3) s
/-- VFCMP.GT (R140). -/
def execVfcmpGt (d a b : BitVec 8) (s : State) : Host.Outcome State Fault Refusal :=
  runWord (.vfcmpGt d a b) (fun e => e.fcompareLanes d a b 4) s
/-- VFCMP.GE (R140). -/
def execVfcmpGe (d a b : BitVec 8) (s : State) : Host.Outcome State Fault Refusal :=
  runWord (.vfcmpGe d a b) (fun e => e.fcompareLanes d a b 5) s
/-- VFCMP.ORD (R140). -/
def execVfcmpOrd (d a b : BitVec 8) (s : State) : Host.Outcome State Fault Refusal :=
  runWord (.vfcmpOrd d a b) (fun e => e.fcompareLanes d a b 6) s
/-- VFCMP.UNO (R140). -/
def execVfcmpUno (d a b : BitVec 8) (s : State) : Host.Outcome State Fault Refusal :=
  runWord (.vfcmpUno d a b) (fun e => e.fcompareLanes d a b 7) s

/-- VCMOV (R141). -/
def execVcmov (d a b : BitVec 8) (s : State) : Host.Outcome State Fault Refusal :=
  runWord (.vcmov d a b) (fun e => e.lanes d .g fun l =>
    if (e.h.preg a.toNat).getLsbD l then e.h.vword b.toNat l else e.h.vword d.toNat l) s

/-! ### Predicate logic -/

/-- A P register written in every lane of the group's slices that does not die in the word (R142, 21_reliability.md R359). -/
def Env.predicate (e : Env) (d : BitVec 8) (f : Nat → Bool) : Res :=
  .done (e.s.putHoist (e.h.putP d.toNat (fun l => e.h.laneIn e.g.id l && !e.felled.contains l) f))

/-- A lane's bit of a P register. -/
def Env.pbit (e : Env) (n : BitVec 8) (l : Nat) : Bool := (e.h.preg n.toNat).getLsbD l

/-- PAND (R142). -/
def execPand (d a b : BitVec 8) (s : State) : Host.Outcome State Fault Refusal :=
  runWord (.pand d a b) (fun e => e.predicate d fun l => e.pbit a l && e.pbit b l) s
/-- POR (R142). -/
def execPor (d a b : BitVec 8) (s : State) : Host.Outcome State Fault Refusal :=
  runWord (.por d a b) (fun e => e.predicate d fun l => e.pbit a l || e.pbit b l) s
/-- PXOR (R142). -/
def execPxor (d a b : BitVec 8) (s : State) : Host.Outcome State Fault Refusal :=
  runWord (.pxor d a b) (fun e => e.predicate d fun l => e.pbit a l != e.pbit b l) s
/-- PNOT (R142). -/
def execPnot (d a : BitVec 8) (s : State) : Host.Outcome State Fault Refusal :=
  runWord (.pnot d a) (fun e => e.predicate d fun l => !e.pbit a l) s

/-- PFROMS (R143). -/
def execPfroms (d a : BitVec 8) (q : BitVec 2) (s : State) : Host.Outcome State Fault Refusal :=
  runWord (.pfroms d a q) (fun e => .done (e.s.putHoist (e.h.putP d.toNat
    (fun l => e.h.laneIn e.g.id l && l / 32 == q.toNat) fun l => (e.sval a).getLsbD (l % 32)))) s

/-- 32 bits from a predicate over lanes 32q up. -/
def quarter (q : Nat) (f : Nat → Bool) : Word := (maskOf (fun j => f (32 * q + j)) 32).extractLsb' 0 32

/-- The environment with a free word drawn when lanes die in the word. -/
def Env.drawn (e : Env) : Env := if e.felled = [] then e else { e with s := { e.s with fresh := e.s.fresh + 1 } }

/-- PTOS (R143).  The bit of a lane that dies in the word is a free value (log 47). -/
def execPtos (d a : BitVec 8) (q : BitVec 2) (s : State) : Host.Outcome State Fault Refusal :=
  runWord (.ptos d a q) (fun e =>
    e.drawn.scalar d (quarter q.toNat fun l => e.h.laneIn e.g.id l &&
      if e.felled.contains l then (Config.freeWord e.s.fresh).getLsbD (l % 32) else e.pbit a l)) s

end Sys2Proof.Machine
end

