-- ==== Sys2Proof/Machine/Cross.lean ====
section
/-!
DEFINITION. Cross-lane instructions: shuffles, reductions, scans, votes, matches, VREORD and VREGRP (07_lanes.md
R132–R159).
-/

namespace Sys2Proof.Machine

/-- The value delivered to lane L from source lane s, and whether it came from a dead lane (R133). -/
def Env.srcval (e : Env) (l : Nat) (src : Int) (n : Nat) : Word × Bool :=
  match e.sourceLane l src with
  | some x => (e.h.vword n x, false)
  | none => (0, true)

/-- DEADREAD when some live active lane read a dead lane (R133). -/
def Env.deadReads (e : Env) (f : Nat → Word × Bool) : Flags :=
  flagIf ((e.h.activeLanes e.g.id).any fun l => (f l).2) flagDeadRead

/-- A cross-lane read of a V register by each live active lane. -/
def Env.shuffle (e : Env) (d : BitVec 8) (f : Nat → Word × Bool) : Res :=
  .done (e.s.putHoist ((e.h.putV e.g.id d.toNat .g fun l => (f l).1).raise (e.deadReads f)))

/-- VSHFL (R144). -/
def execVshfl (d a : BitVec 8) (m : BitVec 3) (r : BitVec 1) (n : BitVec 4) (s : State) :
    Host.Outcome State Fault Refusal :=
  runWord (.vshfl d a m r n) (fun e =>
    let k := if r = 1 then e.h.width / 2 ^ n.toNat else n.toNat
    e.shuffle d fun l => e.srcval l (shflSource m.toNat e.h.width l k) a.toNat) s

/-- VPERM (R145): its values come through the scratchpad crossbar under cnt.s. -/
def execVperm (d a b : BitVec 8) (s : State) : Host.Outcome State Fault Refusal :=
  runWord (.vperm d a b) (fun e =>
    let f (l : Nat) : Word × Bool := e.srcval l (e.h.vword b.toNat l).toNat a.toNat
    let ls := e.h.activeLanes e.g.id
    if ls = [] then .done e.s
    else .done (e.inFlight .s (.perm d.toNat (ls.map fun l => (l, (f l).1)))
      (e.s.putHoist (e.h.raise (e.deadReads f))))) s

/-- VBROAD (R146). -/
def execVbroad (d a b : BitVec 8) (s : State) : Host.Outcome State Fault Refusal :=
  runWord (.vbroad d a b) (fun e => e.shuffle d fun l => e.srcval l (e.sval b).toNat a.toNat) s

/-! ### Reduce and scan -/

/-- The identity of an operation (R147). -/
def redIdentity (op : Nat) : Word :=
  match op with
  | 1 => 0x7FFFFFFF
  | 2 => 0x80000000
  | 3 => 0xFFFFFFFF
  | 5 => 0xFFFFFFFF
  | 8 => 0x80000000
  | 9 => 0x7F800000
  | 10 => 0xFF800000
  | _ => 0

/-- The floating-point step of an operation. -/
def redFloat (op : Nat) (x y : Word) : Nat × Flags :=
  match op with
  | 8 => fAdd fp32 x.toNat y.toNat
  | 9 => fMinMax fp32 false x.toNat y.toNat
  | _ => fMinMax fp32 true x.toNat y.toNat

/-- x ⊕ y (R147): with the identity on one side and no NaN on the other, the other exactly. -/
def redStep (op : Nat) (x y : Word) : Word × Flags :=
  match op with
  | 0 => (x + y, 0)
  | 1 => (min32 x y, 0)
  | 2 => (max32 x y, 0)
  | 3 => (minu32 x y, 0)
  | 4 => (maxu32 x y, 0)
  | 5 => (x &&& y, 0)
  | 6 => (x ||| y, 0)
  | 7 => (x ^^^ y, 0)
  | _ =>
    if x = redIdentity op ∧ (fp32.decode y.toNat).isNaN = false then (y, 0)
    else if y = redIdentity op ∧ (fp32.decode x.toNat).isNaN = false then (x, 0)
    else let (v, f) := redFloat op x y; (BitVec.ofNat 32 v, f)

/-- The values of the lanes, the identity where a lane does not participate (R148, R149). -/
def Env.participants (e : Env) (op n : Nat) : List Word :=
  (List.range e.h.width).map fun l => if e.h.active e.g.id l then e.h.vword n l else redIdentity op

/-- One level of the tree: neighbours combined (R148). -/
def redLevel (op : Nat) : List Word → List Word × Flags
  | x :: y :: rest =>
    let (v, f) := redStep op x y
    let (vs, g) := redLevel op rest
    (v :: vs, f ||| g)
  | xs => (xs, 0)

/-- The whole tree: `n` levels. -/
def redTree (op : Nat) : Nat → List Word → List Word × Flags
  | 0, xs => (xs, 0)
  | n + 1, xs =>
    let (ys, f) := redLevel op xs
    let (zs, g) := redTree op n ys
    (zs, f ||| g)

/-- VRED (R148). -/
def execVred (d a : BitVec 8) (o : BitVec 4) (s : State) : Host.Outcome State Fault Refusal :=
  runWord (.vred d a o) (fun e =>
    let (xs, f) := redTree o.toNat 7 (e.participants o.toNat a.toNat)
    -- the flags reach %fpx before a destination %fpx is written
    .done (e.s.putHoist ((e.h.raise f).writeS d (xs.headD 0)))) s

/-- One step of a scan: every element with the one k below it (R149). -/
def scanStep (op k : Nat) (rev : Bool) (xs : List Word) : List (Word × Flags) :=
  xs.mapIdx fun i x =>
    if rev then
      match xs[i + k]? with
      | some y => redStep op x y
      | none => (x, 0)
    else if k ≤ i then redStep op (xs[i - k]?.getD 0) x
    else (x, 0)

/-- The steps of a scan, k doubling. -/
def scanSteps (op : Nat) (rev : Bool) : Nat → Nat → List Word → List Word × Flags
  | 0, _, xs => (xs, 0)
  | n + 1, k, xs =>
    if xs.length ≤ k then (xs, 0)
    else
      let ys := scanStep op k rev xs
      let (zs, g) := scanSteps op rev n (2 * k) (ys.map (·.1))
      (zs, ys.foldl (fun f y => f ||| y.2) g)

/-- The shift by one of an exclusive scan (R149). -/
def scanShift (op : Nat) (rev : Bool) (xs : List Word) : List Word :=
  if rev then xs.tail ++ [redIdentity op] else redIdentity op :: xs.dropLast

/-- VSCAN (R149). -/
def execVscan (d a : BitVec 8) (o : BitVec 4) (i r : BitVec 1) (s : State) : Host.Outcome State Fault Refusal :=
  runWord (.vscan d a o i r) (fun e =>
    let rev := r == 1
    let x := e.participants o.toNat a.toNat
    let x := if i = 1 then x else scanShift o.toNat rev x
    let (ys, f) := scanSteps o.toNat rev 7 1 x
    .done (e.s.putHoist ((e.h.putV e.g.id d.toNat .g fun l => ys.getD l 0).raise f))) s

/-! ### Votes, ballots and matches -/

/-- The vote over the participating lanes (R150). -/
def voteOf (m : Nat) (bits : List Bool) : Bool :=
  match m with
  | 0 => bits.any id
  | 1 => bits.all id
  | _ => bits.all id || bits.all not

/-- VOTE (R150). -/
def execVote (d a m : BitVec 8) (s : State) : Host.Outcome State Fault Refusal :=
  runWord (.vote d a m) (fun e =>
    let v := voteOf m.toNat ((e.h.activeLanes e.g.id).map (e.pbit a))
    .done (e.s.putHoist (e.h.putP d.toNat (e.h.active e.g.id) fun _ => v))) s

/-- VBALLOT (R151). -/
def execVballot (d a : BitVec 8) (q : BitVec 2) (s : State) : Host.Outcome State Fault Refusal :=
  runWord (.vballot d a q) (fun e =>
    e.scalar d (quarter q.toNat fun l => e.h.active e.g.id l && e.pbit a l)) s

/-- VMATCH (R152). -/
def execVmatch (d a : BitVec 8) (q : BitVec 2) (s : State) : Host.Outcome State Fault Refusal :=
  runWord (.vmatch d a q) (fun e => e.lanes d .g fun l =>
    quarter q.toNat fun m => e.h.active e.g.id m && e.h.vword a.toNat m == e.h.vword a.toNat l) s

/-! ### Reordering lanes -/

/-- A V register with words written at places, tagged G (R155, R158). -/
def Hoist.place (h : Hoist) (n : Nat) (vals : List (Nat × Word)) : Hoist :=
  h.setV n { tag := .g, lanes := writeLanes (fun l => (vals.find? (·.1 == l)).map (·.2)) (h.vreg n).lanes }

/-- EXEC set in the lanes of one list and cleared in those of another. -/
def Hoist.execAt (h : Hoist) (on off : List Nat) : Hoist :=
  h.setExec (maskOf (fun l => on.contains l || (!off.contains l && h.regs.exec.getLsbD l)) h.width)

/-- A lane inserted in a list ordered by key, then by lane (R155). -/
def insertByKey (key : Nat → Nat) (l : Nat) : List Nat → List Nat
  | [] => [l]
  | x :: xs => if key l < key x then l :: x :: xs else x :: insertByKey key l xs

/-- Lanes sorted by key, ties to the lower lane. -/
def sortByKey (key : Nat → Nat) : List Nat → List Nat
  | ls => ls.foldl (fun acc l => insertByKey key l acc) []

/-- Whether some slice of the hoist has a nonempty rejoin stack, a slice whose lanes have all died included (R157). -/
def Env.anyStacked (e : Env) : Bool := e.h.regs.slices.any fun x => x.stack != []

/-- Whether some slice of the group has a nonempty rejoin stack. -/
def Env.stacked (e : Env) : Bool :=
  (e.h.groupSlices e.g.id).any fun n => match e.h.regs.slices[n]? with | some x => x.stack != [] | none => false

/-- The hoist after a VREORD (R155). -/
def Env.reorder (e : Env) (d a : Nat) (idx : Bool) (cnt : Nat) : Hoist :=
  let pos := e.h.groupLanes e.g.id
  let seq := sortByKey (fun l => (e.h.vword a l).toNat) (e.h.activeLanes e.g.id)
  let moved := (a :: (List.range cnt).map (d + ·)).eraseDups
  let at_ (f : Nat → Word) : List (Nat × Word) :=
    pos.mapIdx fun j p => (p, match seq[j]? with | some l => f l | none => 0)
  let h := moved.foldl (fun h n => h.place n (at_ (e.h.vword n))) e.h
  let h := if idx then h.place (d + cnt) (at_ (BitVec.ofNat 32 ·)) else h
  h.execAt (pos.take seq.length) (pos.drop seq.length)

/-- VREORD (R153–R156). -/
def execVreord (d a : BitVec 8) (x : BitVec 1) (c : BitVec 6) (s : State) : Host.Outcome State Fault Refusal :=
  runWord (.vreord d a x c) (fun e =>
    if e.stacked then .trap { cls := .illop } e.s
    else .done (e.s.putHoist (e.reorder d.toNat a.toNat (x == 1) (c.toNat + 1)))) s

/-! ### Regrouping lanes across hoists -/

/-- A VREGRP's operands: participant mask, first register, count, IDX, and the S register of its mask. -/
structure Regroup where
  mask : Word
  d : Nat
  cnt : Nat
  idx : Bool
  b : Nat
  deriving DecidableEq, Repr

/-- The VREGRP at which a group waits. -/
def Group.regroup (g : Group) : Option Regroup :=
  match g.wait with
  | .vregrp m d c i b => some ⟨m, d, c, i, b⟩
  | _ => none

/-- The VREGRP at which a hoist waits, with its group. -/
def Hoist.regroup (h : Hoist) : Option (Nat × Regroup) := h.regs.groups.findSome? fun g => g.regroup.map fun r => (g.id, r)

/-- Whether two VREGRPs are the same operation (R158). -/
def Regroup.same (a b : Regroup) : Bool := a.mask == b.mask && a.d == b.d && a.cnt == b.cnt && a.idx == b.idx

/-- Whether hoist i with r conflicts with hoist j with q (R158). -/
def regroupConflict (i : Nat) (r : Regroup) (j : Nat) (q : Regroup) : Bool :=
  (r.mask.getLsbD j || q.mask.getLsbD i) && !r.same q

/-- Whether every hoist that a VREGRP names waits in the same one or has retired (R158). -/
def State.regroupComplete (s : State) (block : Nat) (r : Regroup) : Bool :=
  (s.hoistsOf block).all fun h => !r.mask.getLsbD h.index ||
    match h.regroup with | some (_, q) => r.same q | none => false

/-- The lanes of a hoist that take part in a VREGRP's packing: places and live lanes (R158). -/
def Hoist.regroupLanes (h : Hoist) : List Nat × List Nat :=
  let pos := (List.range h.width).filter fun l => !h.regs.dead.getLsbD l && !h.absent (l / 4)
  (pos, pos.filter h.regs.exec.getLsbD)

/-- One participant after the packing (R158): `pos` and `seq` are pairs of hoist index and lane. -/
def regroupHoist (all : List Hoist) (pos seq : List (Nat × Nat)) (r : Regroup) (h : Hoist) : Hoist :=
  let word (n : Nat) (p : Nat × Nat) : Word :=
    match all.find? (·.index == p.1) with
    | some x => x.vword n p.2
    | none => 0
  let mine := (pos.mapIdx fun j p => (j, p)).filter fun x => x.2.1 == h.index
  let at_ (f : Nat × Nat → Word) : List (Nat × Word) :=
    mine.map fun x => (x.2.2, match seq[x.1]? with | some p => f p | none => 0)
  let h' := (List.range r.cnt).foldl (fun h i => h.place (r.d + i) (at_ (word (r.d + i)))) h
  let h' := if r.idx then h'.place (r.d + r.cnt) (at_ fun p => BitVec.ofNat 32 (p.1 * h.width + p.2)) else h'
  let on := (mine.filter (·.1 < seq.length)).map (·.2.2)
  let off := (mine.filter fun x => decide (seq.length ≤ x.1)).map (·.2.2)
  h'.execAt on off

/-- The hoists of a VREGRP in ascending index. -/
def State.regroupers (s : State) (block : Nat) (r : Regroup) : List Hoist :=
  let hs := (s.hoistsOf block).filter fun h => r.mask.getLsbD h.index
  (List.range 32).filterMap fun i => hs.find? (·.index == i)

/-- The word of a waiting VREGRP. -/
def Regroup.instr (r : Regroup) : Instr :=
  .vregrp (BitVec.ofNat 8 r.d) (if r.idx then 1 else 0) (BitVec.ofNat 6 (r.cnt - 1)) (BitVec.ofNat 8 r.b)

/-- The environment of a hoist that waits at a VREGRP. -/
def State.waiterEnv (s : State) (src g : Nat) (r : Regroup) : Option Env :=
  issuer ((encode r.instr).getD 0) { s with cur := (src, g) }

/-- The packing itself: every participant's registers, EXEC and sB at one instant (R158). -/
def State.regroup (s : State) (block : Nat) (r : Regroup) : State :=
  let hs := s.regroupers block r
  let pos := hs.flatMap fun h => h.regroupLanes.1.map fun l => (h.index, l)
  let seq := hs.flatMap fun h => h.regroupLanes.2.map fun l => (h.index, l)
  hs.foldl (fun s h =>
    let n := ((pos.take seq.length).filter fun p => p.1 == h.index).length
    let b := match h.regroup with | some (_, q) => q.b | none => r.b
    s.putHoist ((regroupHoist hs pos seq r h).setS b (BitVec.ofNat 32 n))) s

/-- Each waiting participant completes its word, but for the hoist `except`. -/
def State.regroupFinish (except : Nat) : List Hoist → State → State
  | [], s => s
  | h :: hs, s =>
    let cur := s.cur
    let s := match h.regroup with
      | some (g, r) =>
        if h.src = except then s
        else match s.waiterEnv h.src g r with
          | some e => { e.complete r.instr false s with cur := cur }
          | none => s
      | none => s
    State.regroupFinish except hs s

/-- A group that has to take the ILLOP of its VREGRP, whatever happens before its frame is written (R158). -/
def State.owe (s : State) (src g : Nat) : State := s.updHoist src fun h => h.updGroup g fun x => { x with owed := true }

/-- Waiting hoists take ILLOP at their VREGRP (R158). -/
def State.regroupRefuse : List Hoist → State → State
  | [], s => s
  | h :: hs, s =>
    let cur := s.cur
    let s := match h.regroup with
      | some (g, r) => match s.waiterEnv h.src g r with
        | some e => { (e.at (e.s.owe h.src g)).takeTrap { cls := .illop } with cur := cur }
        | none => s
      | none => s
    State.regroupRefuse hs s

/-- VREGRP (R157, R158): checks, the wait for cnt.g and cnt.s, the arrival, and the completion when this arrival is the
last. -/
def execVregrp (d : BitVec 8) (x : BitVec 1) (c : BitVec 6) (b : BitVec 8) (s : State) :
    Host.Outcome State Fault Refusal :=
  runWord (.vregrp d x c b) (fun e =>
    let r : Regroup := ⟨e.h.sreg b.toNat, d.toNat, c.toNat + 1, x == 1, b.toNat⟩
    if decide (2 ^ e.b.hoists ≤ r.mask.toNat) || !r.mask.getLsbD e.h.index ||
        !((List.range e.h.regs.slices.length).all fun n => e.h.absent n || e.h.sliceIn e.g.id n) || e.anyStacked then
      .trap { cls := .illop } e.s
    else
      let e := if e.h.counters.g = 0 ∧ e.h.counters.s = 0 then e else e.settle fun f => f.src == e.h.src
      if !e.here then .gone e.s
      else if e.h.counters.g ≠ 0 ∨ e.h.counters.s ≠ 0 then .wait .retry e.s
      else
        let foes := (e.s.hoistsOf e.b.id).filter fun h => h.src != e.h.src &&
          match h.regroup with | some (_, q) => regroupConflict e.h.index r h.index q | none => false
        if foes != [] then .trap { cls := .illop } (State.regroupRefuse foes (e.s.owe e.h.src e.g.id))
        else
          let wait : Wait := .vregrp r.mask r.d r.cnt r.idx r.b
          let s := e.s.updHoist e.h.src fun h => h.updGroup e.g.id fun g => { g with wait := wait }
          if s.regroupComplete e.b.id r then
            let hs := s.regroupers e.b.id r
            let s := State.regroupFinish e.h.src hs (s.regroup e.b.id r)
            .done (s.updHoist e.h.src fun h => h.updGroup e.g.id fun g => { g with wait := e.g.wait })
          else .wait wait e.s) s

/-- Whether a hoist waits at a VREGRP that is complete now. -/
def State.regroupReady (s : State) (h : Hoist) : Bool :=
  match h.regroup with
  | some (_, r) => s.regroupComplete h.block r
  | none => false

end Sys2Proof.Machine
end

