-- ==== Sys2Proof/Machine/Room.lean ====
section
/-!
DEFINITION. The room of a core and the allotments of a block: granules, hoist slots, lane places, cube slots, and RELA
(01_machine.md R24–R31, 09_memory.md R208, R209).
-/

namespace Sys2Proof.Machine

/-- ⌈n / k⌉. -/
def ceilDiv (n k : Nat) : Nat := (n + k - 1) / k

/-- n rounded up to a multiple of k. -/
def roundUp (n k : Nat) : Nat := ceilDiv n k * k

/-- Granules of the three regions: registers, scratchpad, accumulators. -/
structure Need where
  reg : Nat
  scr : Nat
  acc : Nat
  deriving DecidableEq, Repr

/-- Granules for V registers of a block, with snapshots and write buffers when it is replicated (R27, 21_reliability.md
R362). -/
def regNeed (hoists width v replicas : Nat) : Nat :=
  let n := ceilDiv (hoists * roundUp v 4 * 4 * width) 65536
  if 1 < replicas then 2 * n + hoists else n

/-- The need of an allotment (R27). -/
def needOf (hoists width v scr acc replicas : Nat) : Need :=
  ⟨regNeed hoists width v replicas, ceilDiv scr 65536, ceilDiv acc 65536⟩

/-- Sum of needs. -/
def Need.add (a b : Need) : Need := ⟨a.reg + b.reg, a.scr + b.scr, a.acc + b.acc⟩
/-- Granules in all. -/
def Need.total (a : Need) : Nat := a.reg + a.scr + a.acc

/-- The full allotment of a block. -/
def Block.fullNeed (b : Block) : Need := needOf b.hoists b.width b.vregs b.scrBytes b.accBytes b.replicas

/-- What a block holds now; a span holds its full allotment from admission (R28, R30). -/
def Block.holds (b : Block) : Need :=
  if b.reserved && !b.full then b.fullNeed else needOf b.hoists b.width b.vcnt b.segSize b.accSize b.replicas

/-- The limits of a partition word (R26). -/
def pwordNeed (w : Word) : Need := ⟨bitsOf w.toNat 6 0, bitsOf w.toNat 14 8, bitsOf w.toNat 22 16⟩

/-- The blocks resident on a core. -/
def State.blocksOn (s : State) (core : Nat) : List Block := s.blocks.filter (·.core == core)

/-- The sum of what blocks hold. -/
def needSum (bs : List Block) : Need := bs.foldl (fun a b => a.add b.holds) ⟨0, 0, 0⟩

/-- Granules that blocks may use on a core: 64, less one for the atomic service hoist (R24, R25). -/
def poolGranules (core : Nat) : Nat := if core % 4 = 0 then 63 else 64
/-- User hoist slots of a core (R24). -/
def userSlots (core : Nat) : Nat := if core % 4 = 0 then 62 else 63
/-- Lane places for user hoists (R24). -/
def lanePlaces (core : Nat) : Nat := if core % 4 = 0 then 2016 else 2048

/-- Whether a need fits a core within its grid's partition word, beside the blocks `bs` on it. -/
def needFits (core ctx entry : Nat) (pword : Word) (bs : List Block) (n : Need) : Bool :=
  let grid := (needSum (bs.filter fun b => b.ctx == ctx && b.entry == entry)).add n
  let p := pwordNeed pword
  decide (((needSum bs).add n).total ≤ poolGranules core) && decide (grid.reg ≤ p.reg) && decide (grid.scr ≤ p.scr) &&
    decide (grid.acc ≤ p.acc)

/-- Whether a block's hoists find slots and lane places on a core (R29). -/
def slotsFit (core hoists width : Nat) (bs : List Block) : Bool :=
  decide (bs.foldl (fun n b => n + b.hoists) hoists ≤ userSlots core) &&
    decide (bs.foldl (fun n b => n + b.hoists * b.width) (hoists * width) ≤ lanePlaces core)

/-- Claimed physical cube slots of a core (15_cube.md R276). -/
def claimedSlots (bs : List Block) : Nat := bs.foldl (fun n b => n + b.slots.length) 0

/-- Whether a context's blocks issue: no checkpoint generation of it is in the making (25_docking.md R419). -/
def State.issues (s : State) (ctx : Nat) : Bool :=
  match (s.ctx? ctx).bind (·.mirror) with
  | some m => m.phase == .idle
  | none => true

/-- How a block stands that goes on. -/
def State.runsOn (s : State) (ctx : Nat) : Residency := if s.issues ctx then .running else .quiesced

/-- Room has freed on a core: an ACQ there that was not granted tries again, in a group that waits for room or a block still
to be saved for it (R326), and the Ensigns evaluate (R324). -/
def State.roomChanged (s : State) (core : Nat) : State :=
  { s with
    sweep := 0
    blocks := s.blocks.map fun b => if b.core == core && b.residency == .stopping 4 then { b with residency := s.runsOn b.ctx } else b
    hoists := s.hoists.map fun h => if coreOf h.src != core then h else
      { h with regs := { h.regs with groups := h.regs.groups.map fun g => if g.wait = .room then { g with wait := .running } else g } } }

/-- The KIND under which a block is stopped for a save by its Ensign. -/
def Block.stoppingKind (b : Block) : Option Nat :=
  match b.residency with
  | .stopping k => if k ≤ 4 then some k else Option.none
  | _ => Option.none

/-- The hoists of a block hold n V registers: new ones read zero with tag U, those beyond go (03_encoding.md R49). -/
def State.resizeV (s : State) (block n : Nat) : State :=
  { s with hoists := s.hoists.map fun h => if h.role == .user && h.block == block then
      { h with
        flaws := h.flaws.filter fun x => match x with | .v r _ => decide (r < min n h.regs.v.length) | _ => true
        regs := { h.regs with v := h.regs.v.take n ++ List.replicate (n - h.regs.v.length) ⟨.u, List.replicate h.width 0⟩ } }
    else h }

/-- A block holds its full allotment (R28, 09_memory.md R169, R208). -/
def State.grantFull (s : State) (id : Nat) : State :=
  match s.block? id with
  | none => s
  | some b =>
    let n := roundUp b.vregs 4
    (s.updBlock id fun b => { b with full := true, vcnt := n, segSize := b.scrBytes, accSize := b.accBytes }).resizeV id n

/-- The cores of a core's cluster. -/
def clusterCores (core : Nat) : List Nat := (List.range 4).map (4 * (core / 4) + ·)

/-- The block after a RELA of a region to a size. -/
def State.shrink (s : State) (b : Block) (region n : Nat) : State :=
  match region with
  | 0 => (s.updBlock b.id fun b => { b with vcnt := n }).resizeV b.id n
  | 1 => s.updBlock b.id fun b => { b with segSize := n, scratch := b.scratch.below n, poison := b.poison.filter fun k => decide (4 * k < n) }
  | _ => s.updBlock b.id fun b => { b with accSize := n, tiles := b.tiles.filter fun t => decide (t.index < n / 4096) }

/-- Whether a RELA waits for a piece of work: copies of the block; for acc, its passes and other tile work (R209). -/
def relaWaits (block region : Nat) (f : Flight) : Bool :=
  f.block == block &&
    match f.work with
    | .copy _ => true
    | w => region == 2 && w.tile.isSome

/-- RELA (R209). -/
def execRela (r a : BitVec 8) (s : State) : Host.Outcome State Fault Refusal :=
  runWord (.rela r a) (fun e =>
    let v := (e.sval a).toNat
    let n := if r = 0 then max 4 (roundUp v 4) else v
    let cur := match r.toNat with | 0 => e.b.vcnt | 1 => e.b.segSize | _ => e.b.accSize
    if !e.b.full || decide (cur < n) then e.raise .illop
    else
      let p := relaWaits e.b.id r.toNat
      let e := if e.s.flights.any p then e.settle p else e
      if !e.here then .gone e.s
      else if e.s.flights.any p then .wait .retry e.s
      else .done ((e.s.shrink e.b r.toNat n).roomChanged e.b.core)) s

end Sys2Proof.Machine
end

