-- ==== Sys2Proof/Machine/Frames.lean ====
section
/-!
DEFINITION. Save frames and continuation records: the bytes of a block's frame, and the block that a frame holds
(01_machine.md R32, 03_encoding.md R50, R58, 05_control.md R103, 19_faults.md R349–R352).
-/

namespace Sys2Proof.Machine

/-- Bytes with zeros up to a multiple of n. -/
def padTo (n : Nat) (b : List Byte) : List Byte := b ++ natLe (roundUp b.length n - b.length) 0

/-- Zero bytes. -/
def zeros (n : Nat) : List Byte := natLe n 0

/-! ### Records (R32) -/

/-- A continuation record. -/
structure Record where
  source : Nat
  enq : Nat
  kind : Nat
  span : Nat
  acls : Nat
  prio : Nat
  ctx : Nat
  join : Nat
  frame : Nat
  code : Nat
  /-- Its reserved bits. -/
  res : Nat
  deriving DecidableEq, Repr

/-- The 32 bytes of a record. -/
def Record.bytes (r : Record) : List Byte :=
  natLe 32 (r.code % 2 ^ 70 + 2 ^ 72 * (r.frame % 2 ^ 64) + 2 ^ 136 * (r.join % 2 ^ 16) + 2 ^ 152 * (r.ctx % 64) +
    2 ^ 158 * (r.prio % 8) + 2 ^ 161 * (r.acls % 8) + 2 ^ 164 * (r.span % 16) + 2 ^ 168 * (r.kind % 16) +
    2 ^ 176 * (r.enq % 2 ^ 48) + 2 ^ 224 * (r.source % 2 ^ 16))

/-- The record that 32 bytes hold. -/
def recordOf (b : List Byte) : Record :=
  let v := leNat b
  { source := bitsOf v 239 224
    enq := bitsOf v 223 176
    kind := bitsOf v 171 168
    span := bitsOf v 167 164
    acls := bitsOf v 163 161
    prio := bitsOf v 160 158
    ctx := bitsOf v 157 152
    join := bitsOf v 151 136
    frame := bitsOf v 135 72
    code := bitsOf v 69 0
    res := bitsOf v 255 240 + bitsOf v 175 172 + bitsOf v 71 70 }

/-- The address that a record's FRAME names. -/
def Record.frameVa (r : Record) : VAddr := BitVec.ofNat 72 (256 * r.frame)

/-! ### Writing a hoist frame (R350) -/

/-- An entry of a rejoin stack in memory (R103). -/
def Rejoin.bytes (r : Rejoin) : List Byte := natLe 8 ((0#24 ++ r.maskn ++ r.mask ++ r.rj ++ 0#2).toNat)

/-- A per-slice field of `n` bytes: zero for slices that the hoist does not have. -/
def Hoist.perSlice (h : Hoist) (n : Nat) (f : Slice → Nat → Nat) : List Byte :=
  (List.range 32).flatMap fun k => natLe n (match h.regs.slices[k]? with | some x => f x k | none => 0)

/-- A V register as a frame holds it: tag code and bytes (R58).  A U or A tag describes every lane, dead ones included
(R56), so lanes 0 and 1 give the base and the stride. -/
def VReg.saved (v : VReg) : Nat × List Byte :=
  let lane (l : Nat) : Word := v.lanes[l]?.getD 0
  match v.tag with
  | .u => (0, natLe 4 (lane 0).toNat)
  | .a => (1, natLe 4 (lane 0).toNat ++ natLe 4 (lane 1 - lane 0).toNat)
  | .g => (2, v.lanes.flatMap fun w => natLe 4 w.toNat)

/-- log2 of a width. -/
def widthLog (w : Nat) : Nat := if w = 16 then 4 else if w = 32 then 5 else if w = 64 then 6 else 7

/-- A number with two bits for each element. -/
def tagNumber : List Nat → Nat
  | [] => 0
  | t :: ts => t + 4 * tagNumber ts

/-- A hoist frame (R350). -/
def Hoist.frameBytes (h : Hoist) : List Byte :=
  let r := h.regs
  let vs := r.v.map VReg.saved
  let hst := r.depth % 16 + bitAt r.latch.isSome 4 + bitAt (r.groups.any (·.refused)) 5
  let header :=
    natLe 1 (widthLog h.width) ++ natLe 1 h.index ++ zeros 1 ++ natLe 1 hst ++ natLe 4 r.batch.toNat ++
      natLe 4 ((List.range r.slices.length).foldl (fun a n => a + bitAt (!(r.slices[n]?.map (·.exited)).getD true) n) 0) ++
      natLe 4 ((List.range r.slices.length).foldl (fun a n => a + bitAt ((r.slices[n]?.map (·.high)).getD false) n) 0) ++
      natLe 16 r.dead.toNat ++ natLe 16 r.exec.toNat ++ natLe 5 r.region.toNat ++
      natLe 5 (if r.depth = 0 then 0 else r.hregion.toNat) ++ zeros 6 ++
      h.perSlice 1 (fun x _ => if x.exited then 0xFF else x.group) ++ h.perSlice 1 (fun x _ => x.stack.length) ++
      h.perSlice 4 fun x _ => x.pc.toNat
  header ++ padTo 64 (r.slices.flatMap fun x => x.stack.reverse.flatMap Rejoin.bytes) ++
    r.s.flatMap (fun w => natLe 4 w.toNat) ++ r.p.flatMap (fun m => natLe (h.width / 8) m.toNat) ++
    r.a.flatMap AReg.image ++
    (zeros 4 ++ natLe 4 r.fpx.toNat ++ natLe 4 r.xprog.toNat ++ natLe 4 ((r.latch.getD 0).toNat) ++ natLe 8 r.ssig.toNat ++
      zeros 8 ++ h.perSlice 4 (fun x _ => x.cfs.toNat) ++ zeros 32) ++
    natLe 64 (tagNumber (vs.map (·.1))) ++ padTo 64 (vs.flatMap (·.2))

/-! ### Writing a block frame (R349) -/

/-- Bits of a list, n bits each, the first lowest. -/
def packBits (n : Nat) : List Nat → Nat
  | [] => 0
  | x :: xs => x % 2 ^ n + 2 ^ n * packBits n xs

/-- A tile record (R349): T, the running plane at 26 bits an element, the count. -/
def Tile.record (t : Tile) : List Byte :=
  t.t.readBytes 0 4096 ++ natLe 3328 (packBits 26 (t.plane.map fun w => w.toNat / 64)) ++ natLe 1 t.count ++ zeros 63

/-- The claimed slots in ascending local number. -/
def Block.claimedInOrder (b : Block) : List Slot := (List.range 128).filterMap b.slot?

/-- A barrier as a frame holds it. -/
def Bar.bytes (x : Bar) : List Byte := natLe 4 x.phase.toNat ++ natLe 4 x.target.toNat ++ zeros 8 ++ natLe 128 x.arrived

/-- The offsets of consecutive sections from a first one. -/
def offsetsFrom : Nat → List Nat → List Nat
  | _, [] => []
  | o, n :: ns => o :: offsetsFrom (o + n) ns

/-- The frame of a block and its hoists in ascending index, with a record in front (R349). -/
def Block.frameBytes (b : Block) (hs : List Hoist) (rec_ : List Byte) : List Byte :=
  let frames := hs.map Hoist.frameBytes
  let hoff := offsetsFrom 2752 (frames.map (·.length))
  let segOff := 2752 + (frames.map (·.length)).foldl (· + ·) 0
  let seg := padTo 64 (b.scratch.readBytes 0 b.segSize)
  let accOff := segOff + seg.length
  let tiles := (List.range (b.accSize / 4096)).flatMap fun n => (b.tile n).record
  let slotOff := accOff + tiles.length
  let slots := b.claimedInOrder.flatMap fun x => x.data.readBytes 0 2048
  let tab := slotOff + slots.length
  let table := match b.table with | some t => t.readBytes 0 1024 | Option.none => []
  let total := roundUp (tab + table.length) 256
  let claim := b.claimedInOrder.foldl (fun a x => a + 2 ^ x.local_) 0
  padTo 256 (rec_ ++ natLe 1 (b.hoists - 1) ++ natLe 1 (bitAt b.full 0 + bitAt b.table.isSome 1) ++ natLe 2 b.vcnt ++
    natLe 4 b.segSize ++ natLe 4 b.accSize ++ natLe 4 b.cubecfg.toNat ++ natLe 16 claim ++ natLe 4 segOff ++ natLe 4 accOff ++
    natLe 4 slotOff ++ natLe 4 (if b.table.isSome then tab else 0) ++ natLe 4 total ++ zeros 44 ++
    natLe 128 (packBits 32 hoff) ++ (b.bars.take 17).flatMap Bar.bytes ++ zeros 48 ++ frames.flatten ++ seg ++ tiles ++ slots ++
    table)

/-! ### Reading a frame (R352) -/

/-- The values of a V register with a tag code at an offset, and the bytes it takes. -/
def loadV (b : List Byte) (w o t : Nat) : VReg × Nat :=
  match t with
  | 0 => (⟨.u, List.replicate w (BitVec.ofNat 32 (field b o 4))⟩, 4)
  | 1 => (⟨.a, (List.range w).map fun l => BitVec.ofNat 32 (field b o 4 + l * field b (o + 4) 4)⟩, 8)
  | _ => (⟨.g, (List.range w).map fun l => BitVec.ofNat 32 (field b (o + 4 * l) 4)⟩, 4 * w)

/-- V registers one after another, by their tags. -/
def loadVs (b : List Byte) (w : Nat) : Nat → List Nat → List VReg × Nat
  | o, [] => ([], o)
  | o, t :: ts =>
    let (v, n) := loadV b w o t
    let (vs, e) := loadVs b w (o + n) ts
    (v :: vs, e)

/-- A rejoin stack of n entries, the bottom one at an offset: top first. -/
def loadStack (b : List Byte) (o n : Nat) : List Rejoin :=
  ((List.range n).map fun i =>
    let v := field b (o + 8 * i) 8
    (⟨BitVec.ofNat 30 (bitsOf v 31 2), BitVec.ofNat 4 (bitsOf v 35 32), BitVec.ofNat 4 (bitsOf v 39 36)⟩ : Rejoin)).reverse

/-- The stack entries whose reserved bits are zero. -/
def stackOk (b : List Byte) (o n : Nat) : Bool :=
  (List.range n).all fun i => bitsOf (field b (o + 8 * i) 8) 63 40 == 0 && bitsOf (field b (o + 8 * i) 8) 1 0 == 0

/-- The slices of a hoist frame, with the offset after their stacks. -/
def loadSlices (b : List Byte) (o st : Nat) : Nat → List Nat → List Slice × Nat
  | at_, [] => ([], at_)
  | at_, n :: ns =>
    let depth := field b (o + 96 + n) 1
    let x : Slice :=
      { pc := BitVec.ofNat 32 (field b (o + 128 + 4 * n) 4)
        high := bitsOf (field b (o + 12) 4) n n == 1
        group := field b (o + 64 + n) 1
        exited := bitsOf (field b (o + 8) 4) n n == 0
        stack := loadStack b at_ depth
        cfs := BitVec.ofNat 32 (field b (st + 32 + 4 * n) 4) }
    let (xs, e) := loadSlices b o st (at_ + 8 * depth) ns
    (x :: xs, e)

/-- Whether the header of a hoist frame of width w and index k is well formed (R350, R352). -/
def hoistHeaderOk (b : List Byte) (o w k : Nat) : Bool :=
  let n := w / 4
  let slv := field b (o + 8) 4
  field b o 1 == widthLog w && field b (o + 1) 1 == k && field b (o + 2) 1 == 0 && bitsOf (field b (o + 3) 1) 7 6 == 0 &&
    decide (slv < 2 ^ n) && decide (field b (o + 12) 4 < 2 ^ n) && decide (field b (o + 16) 16 < 2 ^ w) &&
    decide (field b (o + 32) 16 < 2 ^ w) && field b (o + 58) 6 == 0 &&
    (List.range 32).all fun s =>
      if s < n then
        decide (field b (o + 96 + s) 1 ≤ 32) && ((bitsOf slv s s == 0) == (field b (o + 64 + s) 1 == 0xFF))
      else field b (o + 64 + s) 1 == 0 && field b (o + 96 + s) 1 == 0 && field b (o + 128 + 4 * s) 4 == 0

/-- The hoist of a hoist frame at an offset, with the offset after it; none when it is malformed.  Its groups are those
of its slices; each starts a word afresh (R350, 09_memory.md R184). -/
def loadHoist (b : List Byte) (w vcnt src block k o clock : Nat) : Option (Hoist × Nat) :=
  if !hoistHeaderOk b o w k then none
  else
    let ns := List.range (w / 4)
    let stackBytes := ns.foldl (fun a s => a + 8 * field b (o + 96 + s) 1) 0
    let regs := o + 256 + roundUp stackBytes 64
    let st := regs + 384 + 12 * w + 512
    let (slices, _) := loadSlices b o st (o + 256) ns
    let tags := (List.range vcnt).map fun i => bitsOf (field b (st + 192 + i / 4) 1) (2 * (i % 4) + 1) (2 * (i % 4))
    let (vs, e) := loadVs b w (st + 256) tags
    let tagsAll := field b (st + 192) 64
    let images := (List.range 16).map fun i => segment b (regs + 384 + 12 * w + 32 * i) 32
    let depth := field b (o + 3) 1 % 16
    let groups := (slices.filter (!·.exited)).map (·.group)
    if tags.any (· == 3) || tagsAll / 4 ^ vcnt != 0 || field b st 4 != 0 || field b (st + 24) 8 != 0 ||
        field b (st + 32 + w) (160 - w) != 0 || images.any (fun x => bitsOf (leNat x) 255 200 != 0) ||
        BitVec.ofNat 32 (field b (st + 4) 4) &&& ~~~fpxMask != 0 || !stackOk b (o + 256) (stackBytes / 8) then none
    else
      some ({ src := src
              role := .user
              block := block
              index := k
              width := w
              regs :=
                { v := vs
                  s := (List.range 96).map fun i => BitVec.ofNat 32 (field b (regs + 4 * i) 4)
                  p := (List.range 96).map fun i => BitVec.ofNat 128 (field b (regs + 384 + w / 8 * i) (w / 8))
                  a := images.map AReg.ofImage
                  exec := BitVec.ofNat 128 (field b (o + 32) 16)
                  dead := BitVec.ofNat 128 (field b (o + 16) 16)
                  slices := slices
                  groups := groups.eraseDups.map fun g =>
                    -- REFUSED marks the group of the lowest slice unless this die knows better (log 16)
                    { Group.start g clock true with refused := bitsOf (field b (o + 3) 1) 5 5 == 1 && g == groups.headD 0 }
                  fpx := BitVec.ofNat 32 (field b (st + 4) 4)
                  xprog := BitVec.ofNat 32 (field b (st + 8) 4)
                  latch := if bitsOf (field b (o + 3) 1) 4 4 = 1 then some (BitVec.ofNat 32 (field b (st + 12) 4)) else none
                  ssig := BitVec.ofNat 64 (field b (st + 16) 8)
                  batch := BitVec.ofNat 32 (field b (o + 4) 4)
                  depth := depth
                  region := BitVec.ofNat 40 (field b (o + 48) 5)
                  hregion := BitVec.ofNat 40 (field b (o + 53) 5) }
              counters := ⟨0, 0, 0, 0⟩
              holds := []
              busy := []
              fails := []
              flaws := []
              ctxsel := 0
              maskHeld := 0
              gate := false
              posted := 0
              postedHost := 0
              wbuf := []
              snapshot := none
              offer := none
              lateFrom := none
              forwarded := []
              holder := none
              lines := []
              rmis := none
              retired := groups.isEmpty }, roundUp (e - o) 64 + o)

/-- The hoists of a frame, one after another, with the offset after them. -/
def loadHoists (b : List Byte) (w vcnt block clock : Nat) : Nat → Nat → List Nat → Option (List Hoist × Nat)
  | _, o, [] => some ([], o)
  | k, o, src :: srcs =>
    if field b (128 + 4 * k) 4 ≠ o then none
    else
      match loadHoist b w vcnt src block k o clock with
      | none => none
      | some (h, e) =>
        match loadHoists b w vcnt block clock (k + 1) e srcs with
        | some (hs, e) => some (h :: hs, e)
        | none => none

/-- A tile of a tile record. -/
def loadTile (b : List Byte) (o n : Nat) : Tile :=
  let plane := field b (o + 4096) 3328
  { index := n
    t := Memory.writeBytes [] 0 (segment b o 4096)
    plane := (List.range 1024).map fun i => BitVec.ofNat 32 (64 * bitsOf plane (26 * i + 25) (26 * i))
    count := field b (o + 7424) 1 }

/-- Whether the fixed part of a frame, its record among it, is well formed (R349, R352). -/
def frameHeaderOk (b : List Byte) : Bool :=
  let v := field b 34 2
  (recordOf (b.take 32)).res == 0 && bitsOf (field b 32 1) 7 5 == 0 && bitsOf (field b 33 1) 7 2 == 0 && decide (1 ≤ v) && decide (v ≤ 256) &&
    (bitsOf (field b 33 1) 0 0 == 0 || v % 4 == 0) && field b 84 44 == 0 && field b 2704 48 == 0 &&
    ((List.range 17).all fun i => field b (264 + 144 * i) 8 == 0) && decide (field b 32 1 + 1 ≤ 32) &&
    ((List.range 32).all fun i => decide (i ≤ field b 32 1) || field b (128 + 4 * i) 4 == 0)

/-- A frame's own account of its block: hoists, whether the allotment is full, V count, segment, accumulators, claims. -/
structure FrameHead where
  hoists : Nat
  full : Bool
  table : Bool
  vcnt : Nat
  seg : Nat
  acc : Nat
  claim : Nat
  total : Nat
  deriving DecidableEq, Repr

/-- The head of a frame. -/
def frameHead (b : List Byte) : FrameHead :=
  ⟨field b 32 1 % 32 + 1, bitsOf (field b 33 1) 0 0 == 1, bitsOf (field b 33 1) 1 1 == 1, field b 34 2, field b 36 4,
    field b 40 4, field b 48 16, field b 80 4⟩

/-- The claimed local slots of a frame. -/
def FrameHead.locals (f : FrameHead) : List Nat := (List.range 128).filter fun n => bitsOf f.claim n n == 1

/-- The block and hoists that a frame holds, in the slots `srcs` and physical cube slots `phys` of a core: `b` tells which
block of which grid it is.  None when the frame is malformed (R352). -/
def loadBlock (bs : List Byte) (b : Block) (id core clock : Nat) (srcs phys : List Nat) : Option (Block × List Hoist) :=
  let f := frameHead bs
  match loadHoists bs b.width f.vcnt id clock 0 2752 srcs with
  | none => none
  | some (hs, segOff) =>
    let accOff := segOff + roundUp f.seg 64
    let tiles := f.acc / 4096
    let slotOff := accOff + 7488 * tiles
    let tab := slotOff + 2048 * f.locals.length
    let total := roundUp (tab + if f.table then 1024 else 0) 256
    if field bs 64 4 ≠ segOff ∨ field bs 68 4 ≠ accOff ∨ field bs 72 4 ≠ slotOff ∨
        field bs 76 4 ≠ (if f.table then tab else 0) ∨ f.total ≠ total ∨ bitsOf (field bs 44 4) 31 9 ≠ 0 ∨
        bitsOf (field bs 44 4) 7 6 ≠ 0 ∨
        (List.range tiles).any (fun n => field bs (accOff + 7488 * n + 7425) 63 != 0) = true then none
    else
      some ({ b with
        id := id
        core := core
        full := f.full
        vcnt := f.vcnt
        segSize := f.seg
        accSize := f.acc
        scratch := Memory.writeBytes [] 0 (segment bs segOff f.seg)
        tiles := (List.range tiles).map fun n => loadTile bs (accOff + 7488 * n) n
        slots := (List.range f.locals.length).map fun n =>
          ⟨f.locals[n]?.getD 0, phys[n]?.getD 0, false, Memory.writeBytes [] 0 (segment bs (slotOff + 2048 * n) 2048)⟩
        cubecfg := BitVec.ofNat 32 (field bs 44 4)
        table := if f.table then some (Memory.writeBytes [] 0 (segment bs tab 1024)) else none
        tableLoaded := !f.table
        bars := (List.range 17).map fun i =>
          ⟨BitVec.ofNat 32 (field bs (256 + 144 * i) 4), BitVec.ofNat 32 (field bs (260 + 144 * i) 4),
            field bs (272 + 144 * i) 128⟩
        residency := .running
        leaving := false
        runsOut := false
        frame := none }, hs)

end Sys2Proof.Machine
end

