-- ==== Sys2Proof/Machine/Agents.lean ====
section
/-!
DEFINITION. What Ensign agents and the queue front end do in a context's memory, the leaving of blocks, the saving of
blocks and spans, and the ready queue (01_machine.md R30–R36, 17_scheduling.md R306, R326–R330, 19_faults.md R347–R352).
-/

namespace Sys2Proof.Machine

/-! ### A context's memory as its Ensigns reach it -/

/-- How an act of an agent ends: done, nothing to be done yet, waiting for a page that moves, or at an address that it cannot
reach (R328). -/
inductive Act (α : Type) where
  | ok (a : α)
  | stall
  | ask (va : VAddr) (use : PageUse)
  | fault (va : VAddr)
  deriving Repr

/-- One act after another. -/
def Act.bind {α β : Type} (x : Act α) (f : α → Act β) : Act β :=
  match x with
  | .ok a => f a
  | .stall => .stall
  | .ask va use => .ask va use
  | .fault va => .fault va

/-- An act that changes the state. -/
abbrev Acted := Act State

/-- A fault of a range as an act. -/
def actFault {α : Type} (f : RangeFault) (use : PageUse) : Act α := if f.stall then .ask f.va use else .fault f.va

/-- Reads n bytes of a context's memory (R306, R328). -/
def State.ctxGet {α : Type} (s : State) (core : Nat) (c : Ctx) (va : VAddr) (n : Nat) (k : List Byte → State → Act α) : Act α :=
  match s.range (.agent core) c .load ⟨true, false⟩ va n with
  | (.error f, _) => actFault f .load
  | (.ok rs, s) => if s.runsPoisoned rs then .fault va else k (s.readRuns rs) s

/-- Reads n bytes for a check that goes on without them: what cannot be read is none, a page that moves is waited for. -/
def State.ctxTry {α : Type} (s : State) (core : Nat) (c : Ctx) (va : VAddr) (n : Nat) (k : Option (List Byte) → State → Act α) :
    Act α :=
  match s.ctxGet core c va n fun b s => .ok (b, s) with
  | .ok (b, s) => k (some b) s
  | .fault _ => k none s
  | .ask va use => .ask va use
  | .stall => .stall

/-- Writes bytes of a context's memory. -/
def State.ctxPut (s : State) (core : Nat) (c : Ctx) (va : VAddr) (bs : List Byte) (k : State → Acted) : Acted :=
  match s.range (.agent core) c .store ⟨true, false⟩ va bs.length with
  | (.error f, _) => actFault f .store
  | (.ok rs, s) => k (s.writeRuns c.id rs bs)

/-- An act in the state: where it met a fault the context is set faulted, and nothing else has changed (R328). -/
def State.acted (s : State) (core ctx : Nat) : Acted → State
  | .ok s' => s'
  | .stall => s
  | .ask va use => match s.ctx? ctx with | some c => (s.reach core c va use allRights).2 | none => s
  | .fault va => s.faultCtx ctx .queueState (ensignSrc core) (natLe 16 va.toNat)

/-- The act of an event: while it has to wait, the event stays the first of the agenda, where later ones pass it. -/
def State.actedEvent (s : State) (core ctx : Nat) (i : Instr) (a : Acted) : State :=
  let t := s.acted core ctx a
  match a with
  | .ok _ => t
  | .fault _ => t
  | _ => { t with agenda := .event i :: t.agenda }

/-- The lowest core of a context's mask, whose Ensign acts for the context where no other is named (log 17). -/
def Ctx.firstCore (c : Ctx) : Nat := ((List.range 192).find? c.coremask.getLsbD).getD 0

/-- An event that the Ensign of a core acts on for a context. -/
def State.onEventAt (s : State) (core ctx : Nat) (i : Instr) (act : Ctx → Acted) : State :=
  match s.ctx? ctx with
  | some c => s.actedEvent core ctx i (act c)
  | none => s

/-- An event that the first Ensign of a context acts on (log 17). -/
def State.onEvent (s : State) (ctx : Nat) (i : Instr) (act : Nat → Ctx → Acted) : State :=
  match s.ctx? ctx with
  | some c => s.actedEvent c.firstCore ctx i (act c.firstCore c)
  | none => s

/-- An eight-byte field of a context's descriptor. -/
def State.descField (s : State) (c : Ctx) (off : Nat) : Nat := leNat (s.readMem (c.dpa + off) 8)

/-- The address of entry e of a context's grid table (R305, R314). -/
def State.gridVa (s : State) (c : Ctx) (e : Nat) : VAddr := BitVec.ofNat 72 (256 * s.descField c 176 + 256 * e)

/-- FRAMESZ (R305). -/
def State.frameSize (s : State) (c : Ctx) : Nat := leNat (s.readMem (c.dpa + 192) 4)

/-- An act on a queue of a context. -/
def State.onQueue {α : Type} (s : State) (core : Nat) (c : Ctx) (q : Nat) (k : QueuePlace → QueueWord → Act α) : Act α :=
  match s.ctxQueue core c q with
  | none => .fault (BitVec.ofNat 72 (256 * s.descField c (264 + 16 * q)))
  | some (p, w) => k p w

/-! ### The ready queue and the pool (R306, R326, R327) -/

/-- Pushes an element onto a queue of a context, when it has room. -/
def State.pushNow (s : State) (core : Nat) (c : Ctx) (queue : Nat) (data : List Byte) : Acted :=
  s.onQueue core c queue fun p q =>
    match s.queuePush p q [data] with
    | .error f => actFault f .atomic
    | .ok (0, _) => .stall
    | .ok (_, s) => .ok s.signalEnsigns

/-- Pushes an element onto a queue of a context, or keeps it, behind those that wait already, until it can be pushed. -/
def State.pushOn (s : State) (core : Nat) (c : Ctx) (queue : Nat) (data : List Byte) : State :=
  let wait (s : State) : State := { s with pushes := s.pushes ++ [⟨core, c.id, queue, data⟩] }
  if s.pushes.any fun x => x.core == core && x.ctx == c.id && x.queue == queue then wait s
  else
    let a := s.pushNow core c queue data
    let t := s.acted core c.id a
    match a with
    | .ok _ => t
    | .fault _ => t
    | _ => wait t

/-- Pushes a ready record onto queue 1. -/
def State.pushReady (s : State) (core : Nat) (c : Ctx) (data : List Byte) : State := s.pushOn core c 1 data

/-- Pushes a frame back onto the pool (R326). -/
def State.returnFrame (s : State) (core : Nat) (c : Ctx) (frame : VAddr) : State :=
  s.pushOn core c 2 (natLe 8 (frame.toNat / 256))

/-- Tries again the pushes that wait at a core. -/
def State.retryPushes (s : State) (core : Nat) : State :=
  (s.pushes.filter (·.core == core)).foldl (fun s x => match s.ctx? x.ctx with
    | some c => s.pushOn core c x.queue x.data
    | none => s) { s with pushes := s.pushes.filter (·.core != core) }

/-! ### Blocks that leave -/

/-- The context's MASKPEND: the cores outside the mask on which a block still stands (R329). -/
def State.refreshPend (s : State) (ctx : Nat) : State :=
  let cores := (s.blocks.filter (·.ctx == ctx)).map (·.core)
  s.updCtx ctx fun c => { c with
    maskpend := cores.foldl (fun m k => if c.coremask.getLsbD k then m else m ||| BitVec.twoPow 192 k) 0 }

/-- A context that is being destroyed ends once no block of it is left: records, pins and holds go, and its table entry
is cleared (R307, R168). -/
def State.endDestroy (s : State) (ctx : Nat) : State :=
  match s.ctx? ctx with
  | none => s
  | some c =>
    if !c.destroying || s.blocks.any (·.ctx == ctx) then s
    else
      let s := s.writePhys (s.host.ctxtab.toNat + 8 * ctx) (natLe 8 0)
      { s with
        ctxs := s.ctxs.filter (·.id != ctx)
        pins := s.pins.filter (·.2 != ctx)
        monitors := s.monitors.filter (·.ctx != ctx)
        tokens := s.tokens.filter (·.ctx != ctx)
        aside := s.aside.filter (·.block.ctx != ctx)
        pushes := s.pushes.filter (·.ctx != ctx)
        gates := s.gates.filter (·.2 != ctx)
        candidates := s.candidates.filter (·.ctx != ctx)
        retiredReplicas := s.retiredReplicas.filter (·.1 != ctx)
        mail := s.mail.filter (·.block.1 != ctx)
        nodes := s.nodes.filter (·.1 != ctx)
        coreTlb := s.coreTlb.map fun x => (x.1, x.2.filter (·.ctx != ctx))
        clusterTlb := s.clusterTlb.map fun x => (x.1, x.2.filter (·.ctx != ctx))
        ends := s.ends.filter (·.ctx != ctx)
        widths := s.widths.filter (·.ctx != ctx)
        host := { s.host with busy := if s.host.busy = some ctx then none else s.host.busy } }

/-- A block leaves its core: its hoists, slots, work, waits and holds go, and its room is free (01_machine.md R31,
11_ordering.md R218). -/
def State.removeBlock (s : State) (id : Nat) : State :=
  match s.block? id with
  | none => s
  | some b =>
    let srcs := (s.hoists.filter fun h => h.role == .user && h.block == id).map (·.src)
    let last := !(s.blocks.any fun x => x.id != id && x.span == b.span)
    let s : State := { s with
      blocks := s.blocks.filter (·.id != id)
      hoists := s.hoists.filter fun h => !srcs.contains h.src
      flights := s.flights.filter (·.block != id)
      svcq := s.svcq.filter fun x => !(s.flights.any fun f => f.id == x.2 && f.block == id)
      monitors := s.monitors.filter fun m => m.parked.isSome || !srcs.contains m.src
      tokens := s.tokens.map fun (t : Token) => { t with hoists := t.hoists.filter fun n => !srcs.contains n } }
    let s := s.dropHolds fun x => if x.wide then last && x.holder == b.span else x.holder == id
    (((s.roomChanged b.core).refreshPend b.ctx).endDestroy b.ctx)

/-! ### Saving -/

/-- Whether everything that a save waits for has come about: counters zero, no copy or engine work in flight, no group
between an EXT and its word or before a landing pad (03_encoding.md R65, R73, 09_memory.md R195, 15_cube.md R303). -/
def State.drained (s : State) (b : Block) : Bool :=
  !s.flights.any (·.block == b.id) &&
    (s.hoistsOf b.id).all fun h => h.counters == ⟨0, 0, 0, 0⟩ &&
      (match h.offer with | some o => o.vote.isNone | none => true) && h.rmis.isNone &&
      h.regs.groups.all fun g => h.groupSlices g.id == [] || (g.ext.isNone && g.landing.isNone)

/-- The hoists of a block in ascending index, retired ones among them. -/
def State.allHoists (s : State) (b : Block) : List Hoist :=
  (List.range b.hoists).filterMap fun n => s.hoists.find? fun h => h.role == .user && h.block == b.id && h.index == n

/-- CODE of a saved block's record (01_machine.md R32). -/
def State.recordCode (s : State) (b : Block) : Nat :=
  match (s.allHoists b).find? (!·.gone) with
  | none => 0
  | some h =>
    match h.regs.slices.find? (!·.exited) with
    | some x => (h.pcAddr x).toNat / 4
    | none => 0

/-- Admission class of a block's record (R33). -/
def Block.acls (b : Block) (kind : Nat) : Nat := if 1 < b.spanSize then 2 else if b.full || kind == 4 then 1 else 0

/-- SPAN of a block's record. -/
def Block.spanField (b : Block) : Nat := 4 * (b.spanSize - 1) + b.spanRank

/-- The record of a block that is saved in a frame. -/
def State.savedRecord (s : State) (b : Block) (kind join frame : Nat) : Record :=
  { source := s.pairNumber (ensignSrc b.core)
    enq := s.time.toNat
    kind := kind
    span := b.spanField
    acls := b.acls kind
    prio := match s.ctx? b.ctx with | some c => c.prio | Option.none => 0
    ctx := b.ctx
    join := join
    frame := frame
    code := s.recordCode b
    res := 0 }

/-- SOURCE, KIND and CODE of a record: they stay as they are while the record waits (R327). -/
def Record.mark (r : Record) : Nat × Nat × Nat := (r.source, r.kind, r.code)

/-- What the frame has no place for (log 16). -/
def State.asideOf (s : State) (b : Block) (frame : VAddr) (mark : Option (Nat × Nat × Nat)) : Aside :=
  ⟨frame, mark, { b with scratch := [], tiles := [], slots := [], residency := .running, leaving := false, runsOut := false, frame := some frame },
    (s.allHoists b).map fun h =>
      ⟨h.index, h.fails, h.flaws, (h.regs.groups.filter fun g => g.refused || g.wait.isToken).map (·.id),
        (h.regs.groups.filter (·.owed)).map (·.id), h.lateFrom, h.wbuf, h.snapshot, h.forwarded⟩⟩

/-- The Ensign of a core takes a precise trap and stops (R336, R351); the address of its word is open (log 9). -/
def State.stopEnsign (s : State) (core ctx cls : Nat) : State :=
  let src := ensignSrc core
  let s := s.updHoist src Hoist.exitAll
  (({ s with fresh := s.fresh + 2 }).logEvent 10 src (some ctx) cls
    (namedWordData (BitVec.ofNat 72 (Config.freeWord s.fresh).toNat) (Config.freeWord (s.fresh + 1)))).raiseMsi 34

/-- A block's own waits that its record waits for: its monitors (KIND 1) or its translation requests (KIND 3). -/
def State.joinOf (s : State) (b : Block) (kind : Nat) : Nat :=
  let srcs := (s.hoistsOf b.id).map (·.src)
  match kind with
  | 1 => (s.monitors.filter fun m => m.parked.isNone && srcs.contains m.src).length
  | 3 => (s.tokens.filter fun t => t.hoists.any srcs.contains).length
  | _ => 0

/-- The waits of a saved block become waits of its record (R327, R347). -/
def State.parkWaits (s : State) (b : Block) (kind : Nat) (frame : VAddr) : State :=
  let hs := s.hoistsOf b.id
  let srcs := hs.map (·.src)
  match kind with
  | 1 => { s with monitors := s.monitors.map fun m =>
      if m.parked.isNone && srcs.contains m.src then { m with parked := some frame } else m }
  | 3 => { s with tokens := s.tokens.map fun t =>
      if t.hoists.any srcs.contains then
        { t with records := t.records ++ [(frame, (hs.filter fun h => t.hoists.contains h.src).map (·.index))] }
      else t }
  | _ => s

/-- Saves one block into a frame that has been popped: the frame, then the record, parked or pushed ready (R326, R327). -/
def State.saveInto (s : State) (c : Ctx) (b : Block) (frame : Nat) : Acted :=
  let va : VAddr := BitVec.ofNat 72 (256 * frame)
  let kind := b.stoppingKind.getD 2
  let join := s.joinOf b kind
  let r := s.savedRecord b kind join frame
  let rec_ := r.bytes
  s.ctxPut b.core c va (b.frameBytes (s.allHoists b) rec_) fun s =>
    let a := s.asideOf b va (some r.mark)
    let s := s.parkWaits b kind va
    let s := { s with aside := a :: s.aside.filter (fun x => !(x.frame == va && x.block.ctx == b.ctx)) }.removeBlock b.id
    .ok (if join = 0 then s.pushReady b.core c rec_ else s)

/-- Saves blocks one after another; where one cannot be saved none is. -/
def State.saveAll (c : Ctx) : List (Block × Nat) → State → Acted
  | [], s => .ok s
  | x :: xs, s =>
    match s.saveInto c x.1 x.2 with
    | .ok s => State.saveAll c xs s
    | a => a

/-- Stops every block of a span for a save under a KIND (R35, R329). -/
def State.stopSpan (s : State) (span kind : Nat) : State :=
  { s with blocks := s.blocks.map fun b => if b.span == span then { b with residency := .stopping kind } else b }

/-- Every block of a span runs on. -/
def State.runOn (s : State) (span : Nat) : State :=
  { s with blocks := s.blocks.map fun b =>
      if b.span == span then { b with residency := s.runsOn b.ctx } else b }

/-- Pops n frames from the pool; nothing is done when it has fewer. -/
def State.popFrames (s : State) (core : Nat) (c : Ctx) (n : Nat) (k : List Nat → State → Acted) : Acted :=
  s.onQueue core c 2 fun p q =>
    match s.queuePop p q n with
    | .error f => actFault f .atomic
    | .ok (xs, s) => if xs.length = n then k (xs.map leNat) s else .stall

/-- Whether the Ensign of a core has not stopped (19_faults.md R336). -/
def State.ensignRuns (s : State) (core : Nat) : Bool :=
  match s.hoist? (ensignSrc core) with
  | some h => !h.gone
  | none => false

/-- Whether a block can be saved: it and its span are stopped for that, and drained. -/
def State.saveReady (s : State) (b : Block) : Bool :=
  s.ensignRuns b.core && (s.spanBlocks b.span).all fun x => x.stoppingKind.isSome && s.drained x

/-- Whether a block's frame would be larger than FRAMESZ (R351). -/
def State.frameTooLarge (s : State) (c : Ctx) (b : Block) : Bool :=
  decide (s.frameSize c < (b.frameBytes (s.allHoists b) (zeros 32)).length)

/-- Saves the stopped blocks of a span together, when all are drained.  Without a frame for each of them they run on (R326), and
so do blocks whose pool cannot be reached or of which a frame would be larger than FRAMESZ, with their context faulted (R328,
R329, R330, R351).  The Ensign stops where
it cannot write a frame. -/
def State.saveSpan (s : State) (id : Nat) : State :=
  match s.block? id with
  | none => s
  | some b =>
    match s.ctx? b.ctx with
    | none => s
    | some c =>
      let bs := s.spanBlocks b.span
      if !s.saveReady b then s
      else if bs.any (s.frameTooLarge c) then
        (s.runOn b.span).faultCtx c.id .frameTooLarge (ensignSrc b.core) (natLe 16 0)
      else
        match s.popFrames b.core c bs.length fun frames t =>
          match State.saveAll c (List.zip bs frames) t with
          | .fault _ => .ok (s.stopEnsign b.core c.id 5)
          | a => a with
        | .stall => s.runOn b.span
        | .fault va => (s.runOn b.span).acted b.core c.id (.fault va)
        | a => s.acted b.core c.id a

/-! ### Frames for blocks that are to be saved (R326) -/

/-- The blocks of a context that are stopped for a save: each takes a frame of the pool. -/
def State.framesDue (s : State) (c : Ctx) : Nat := (s.blocks.filter fun b => b.ctx == c.id && b.stoppingKind.isSome).length

/-- Whether a context's pool has frames for some blocks that are to be saved together, beside those that are stopped for a save
(R326).  A frame that would be too large faults the context; in one that is faulted already the block is not stopped for it
(R351; DEDUCED, log 54). -/
def State.poolLook (s : State) (core : Nat) (c : Ctx) (bs : List Block) : Act Bool :=
  if c.faulted && bs.any (s.frameTooLarge c) then .ok false
  else
    let n := bs.length + s.framesDue c
    s.onQueue core c 2 fun p q =>
      match s.queuePop p q n with
      | .error f => actFault f .atomic
      | .ok (xs, _) => .ok (xs.length == n)

/-- Whether the frames are there. -/
def State.poolHas (s : State) (core : Nat) (c : Ctx) (bs : List Block) : Bool :=
  match s.poolLook core c bs with
  | .ok b => b
  | _ => false

/-- Whether a look at the pool tells that frames are there, or does something: it asks for the home of a page, or meets an
address that the Ensign cannot reach. -/
def State.poolMoves (s : State) (core : Nat) (c : Ctx) (bs : List Block) : Bool :=
  match s.poolLook core c bs with
  | .ok b => b
  | .stall => false
  | .ask _ _ => true
  | .fault _ => !c.faulted

/-- What a look at the pool does where it does not tell: the home of a page is asked for, or the context is set faulted, as for
any queue state that an Ensign cannot reach (R328). -/
def State.lookPool (s : State) (core : Nat) (c : Ctx) (bs : List Block) : State :=
  match s.poolLook core c bs with
  | .ok _ => s
  | .stall => s
  | .ask va use => s.acted core c.id (.ask va use)
  | .fault va => if c.faulted then s else s.acted core c.id (.fault va)

/-! ### The core mask (R329, R330) -/

/-- Whether a block stands on one of some cores: for a span, any core of its cluster counts. -/
def Block.amid (b : Block) (cores : BitVec 192) : Bool :=
  if 1 < b.spanSize then (clusterCores b.core).any cores.getLsbD else cores.getLsbD b.core

/-- Whether a block has a hoist that belongs to a coverage gate (R329). -/
def State.isPixel (s : State) (b : Block) : Bool := (s.hoistsOf b.id).any (·.gate)

/-- Whether a block is to leave and none of its span has stopped yet: a commit of the core mask has marked the span, or every block
is to be saved (R329, R330, 21_reliability.md R371). -/
def State.wantsOut (s : State) (b : Block) : Bool :=
  let bs := s.spanBlocks b.span
  bs.all (·.residency == .running) && (s.power.saving || bs.any (·.leaving))

/-- Whether a block must leave now: its context's pool has the frames for its span. -/
def State.mustLeave (s : State) (b : Block) : Bool :=
  s.wantsOut b &&
    match s.ctx? b.ctx with
    | some c => s.poolHas b.core c (s.spanBlocks b.span)
    | none => false

/-- Stops a block that must leave, once the frames for its span are there (R326). -/
def State.stopLeaving (s : State) (id : Nat) : State :=
  match s.block? id with
  | none => s
  | some b =>
    match s.ctx? b.ctx with
    | none => s
    | some c =>
      if !s.wantsOut b then s
      else if s.poolHas b.core c (s.spanBlocks b.span) then s.stopSpan b.span 2
      else s.lookPool b.core c (s.spanBlocks b.span)

/-- Whether an event that saves or stops a block does anything now. -/
def State.leaves (s : State) (b : Block) : Bool :=
  s.saveReady b || (s.wantsOut b && match s.ctx? b.ctx with
    | some c => s.poolMoves b.core c (s.spanBlocks b.span)
    | none => false)

/-- The blocks that can be saved now, or stopped so that they can be. -/
def State.savable (s : State) : List Nat := (s.blocks.filter s.leaves).map (·.id)

/-- Whether a commit marks a block as one that has to leave (R329, R330): it takes away a core on which the span stands, none of
the span is a pixel block at the commit, and no earlier commit has left the span to run to EXIT. -/
def State.marked (s : State) (removed : BitVec 192) (b : Block) : Bool :=
  b.amid removed && !(s.spanBlocks b.span).any s.isPixel && !b.runsOut

/-- Whether a commit finds a pixel block in the block's span on the cores that it takes away: it runs on to EXIT (R329, R330). -/
def State.outlasts (s : State) (removed : BitVec 192) (b : Block) : Bool := b.amid removed && (s.spanBlocks b.span).any s.isPixel

/-- Pre-emption of a context from the cores that a commit has removed: the blocks that have to leave are marked, once and for all,
and the coverage gates of the removed cores close (R329, R330, 23_rendering.md R391). -/
def State.preempt (s : State) (ctx : Nat) (removed mask : BitVec 192) : State :=
  let shut := ((List.range 192).filter removed.getLsbD).map fun k => (k, ctx)
  let s : State := { s with
    gates := shut.filter (fun g => !s.gates.contains g) ++ s.gates
    blocks := s.blocks.map fun (b : Block) =>
      if b.ctx == ctx then { b with
          leaving := s.marked removed b || (b.leaving && b.amid (~~~mask))
          runsOut := s.outlasts removed b || (b.runsOut && b.amid (~~~mask)) }
      else b }
  ((s.blocks.filter fun b => b.ctx == ctx && b.leaving).map (·.id)).foldl State.stopLeaving s

/-- A new core mask of a context (R329): MASKPEND names the removed cores that blocks have still to leave; a core that comes
back opens its gate (23_rendering.md R391). -/
def State.commitMask (s : State) (ctx : Nat) (mask : BitVec 192) : State :=
  let old := match s.ctx? ctx with | some c => c.coremask | none => 0
  let s := s.updCtx ctx fun c => { c with coremask := mask }
  let s := { s with gates := s.gates.filter fun g => !(g.2 == ctx && mask.getLsbD g.1 && !old.getLsbD g.1) }
  ((s.preempt ctx (old &&& ~~~mask) mask).refreshPend ctx)

/-- A checkpoint generation of a mirrored context is requested: in IDLE its blocks stop where they stand (25_docking.md
R419). -/
def State.requestGeneration (s : State) (ctx : Nat) : State :=
  match (s.ctx? ctx).bind (·.mirror) with
  | none => s
  | some m =>
    if m.phase != .idle then s
    else
      let s := s.updCtx ctx fun c => { c with mirror := some { m with phase := .quiesce } }
      { s with blocks := s.blocks.map fun (b : Block) =>
          if b.ctx == ctx && b.residency == .running then { b with residency := .quiesced } else b }

/-! ### ACQ -/

/-- ACQ (09_memory.md R208, R29, R30): granted from a reservation or when the full allotment fits; else the block is saved
as an ACQWAIT record, or tries again when room changes while no frame is free. -/
def execAcq (s : State) : Host.Outcome State Fault Refusal :=
  runWord .acq (fun e =>
    let others := (e.s.blocksOn e.b.core).filter fun b => b.id != e.b.id
    if e.b.full then .done e.s
    else if e.b.reserved || needFits e.b.core e.b.ctx e.b.entry e.b.pword others e.b.fullNeed then
      .done (e.s.grantFull e.b.id)
    else
      if e.s.poolHas e.b.core e.c [e.b] then .wait .retry (e.s.updBlock e.b.id fun b => { b with residency := .stopping 4 })
      else
        let s := e.s.lookPool e.b.core e.c [e.b]
        .wait (if s.poolMoves e.b.core e.c [e.b] then .retry else .room) s) s

end Sys2Proof.Machine
end

