-- ==== Sys2Proof/Machine/Grids.lean ====
section
/-!
DEFINITION. Launch packets, grids, join counters and graphs: acceptance, readiness, ends (17_scheduling.md R311–R322,
01_machine.md R20–R27).
-/

namespace Sys2Proof.Machine

/-! ### Launch packets (R311) -/

/-- A launch packet. -/
structure Packet where
  kind : Nat
  child : Bool
  widthCode : Nat
  hoists : Nat
  replCode : Nat
  span : Nat
  pword : Word
  entry : VAddr
  grid : Nat × Nat × Nat
  /-- INDA or GDESC, bits [71:0]. -/
  addr : VAddr
  vregs : Nat
  prologue : Nat
  acc : Nat
  scr : Nat
  parent : Nat
  argp : VAddr
  donea : VAddr
  donev : Nat
  /-- Its reserved fields are zero. -/
  resOk : Bool
  deriving DecidableEq, Repr

/-- The packet that 64 bytes hold. -/
def packetOf (b : List Byte) : Packet :=
  let kind := field b 0 1 % 4
  let child := bitsOf (field b 0 1) 2 2 == 1
  { kind := kind
    child := child
    widthCode := field b 1 1 % 8
    hoists := field b 2 1 % 32 + 1
    replCode := bitsOf (field b 3 1) 3 2
    span := field b 3 1 % 4 + 1
    pword := BitVec.ofNat 32 (field b 4 4)
    entry := BitVec.ofNat 72 (256 * field b 8 8)
    grid := (field b 16 4, field b 20 4, field b 24 4)
    addr := BitVec.ofNat 72 (field b 16 9)
    vregs := field b 28 1 + 1
    prologue := field b 29 1 % 32
    acc := 4096 * (field b 30 2 % 2048)
    scr := field b 32 4
    parent := field b 36 4
    argp := BitVec.ofNat 72 (256 * field b 40 8)
    donea := BitVec.ofNat 72 (256 * field b 48 8)
    donev := field b 56 8
    resOk :=
      if kind = 2 then field b 0 1 == 2 && field b 1 15 == 0 && field b 25 23 == 0
      else decide (field b 0 1 < 8) && decide (field b 1 1 < 8) && decide (field b 2 1 < 32) && decide (field b 3 1 < 16) &&
        decide (field b 29 1 < 32) && decide (field b 30 2 < 2048) && (child || field b 36 4 == 0) &&
        (kind != 1 || field b 25 3 == 0) }

/-- The width a packet asks for, code 0 standing for a native width; none when its code is reserved (R20, R311). -/
def Packet.width (p : Packet) (native : Nat) : Option Nat :=
  match p.widthCode with
  | 0 => some native
  | 1 => some 16
  | 2 => some 32
  | 3 => some 64
  | 4 => some 128
  | _ => none

/-- Replicas of a packet (R362). -/
def Packet.replicas (p : Packet) : Nat := p.replCode + 1

/-- The number of blocks; a graph has none of its own. -/
def Packet.blocks (p : Packet) : Nat := if p.kind = 2 then 0 else p.grid.1 * p.grid.2.1 * p.grid.2.2

/-- Whether a partition word breaks R26 for a packet of a width. -/
def Packet.pwordBad (p : Packet) (w : Nat) : Bool :=
  let x := p.pword.toNat
  let n := pwordNeed p.pword
  let need := needOf p.hoists w p.vregs p.scr p.acc p.replicas
  bitsOf x 31 23 != 0 || bitsOf x 15 15 != 0 || bitsOf x 7 7 != 0 || n.reg == 0 || decide (64 < n.reg) ||
    decide (64 < n.scr) || decide (64 < n.acc) || decide (64 < n.total) || decide (n.reg < need.reg) ||
    decide (n.scr < need.scr) || decide (n.acc < need.acc)

/-- Whether a packet breaks the limits of R313 under PACKET; `node` for a graph node. -/
def Packet.bad (p : Packet) (d : Die) (w : Nat) (node : Bool) : Bool :=
  !p.resOk || p.kind == 3 || p.replCode == 3 || decide (d.replicas < p.replicas) || decide (1024 < p.hoists * w) ||
    decide (p.vregs < p.prologue) || p.prologue == 0 || decide (16 < p.prologue) || decide (4194304 < p.scr) ||
    decide (4194304 < p.acc) || (node && p.kind == 2) || (p.kind == 1 && p.addr.toNat % 8 != 0) ||
    (p.kind == 2 && p.addr.toNat % 64 != 0)

/-- Whether the dimensions break R22 or R21.  Of an indirect launch that counts a zero and whose GRIDX is no multiple of S both
hold that it has no block and that it breaks R21: the rejection comes first (DESIGN CHOICE, log 55). -/
def Packet.gridBad (p : Packet) : Bool :=
  decide (2 ^ 48 ≤ p.blocks) || p.grid.1 % p.span != 0 ||
    (p.kind == 0 && (p.grid.1 == 0 || p.grid.2.1 == 0 || p.grid.2.2 == 0))

/-! ### Argument blocks (R312) -/

/-- What a launch delivers into registers. -/
structure Args where
  a : List (Nat × AReg)
  s : List Word
  deriving DecidableEq, Repr

/-- The number of A registers that an argument block's header names. -/
def argImages (header : List Byte) : List Nat := (List.range 16).filter fun n => bitsOf (field header 0 2) n n == 1

/-- The bytes of an argument block with such a header. -/
def argLength (header : List Byte) : Nat := 32 + 32 * (argImages header).length + 4 * (field header 2 1 % 16)

/-- Whether an argument block breaks R313 under ARGS. -/
def argsBad (b : List Byte) : Bool :=
  decide (8 < field b 2 1) || field b 3 29 != 0 ||
    (List.range (argImages b).length).any fun i =>
      let v := field b (32 + 32 * i) 32
      bitsOf v 255 200 != 0 || bitsOf v 175 175 == 1

/-- The registers that an argument block loads. -/
def argsOf (b : List Byte) : Args :=
  let ns := argImages b
  { a := ns.mapIdx fun i n => (n, AReg.ofImage (segment b (32 + 32 * i) 32))
    s := (List.range (field b 2 1 % 16)).map fun i => BitVec.ofNat 32 (field b (32 + 32 * ns.length + 4 * i) 4) }

/-- The argument block of a packet: none when it cannot be read, the empty one for ARGP 0. -/
def State.argBlock {α : Type} (s : State) (core : Nat) (c : Ctx) (p : Packet) (k : Option (List Byte) → State → Act α) : Act α :=
  if p.argp = 0 then k (some (zeros 32)) s
  else s.ctxTry core c p.argp 32 fun h s =>
    match h with
    | none => k none s
    | some h => if 8 < field h 2 1 then k (some h) s else s.ctxTry core c p.argp (argLength h) k

/-! ### Grid entries (R314) -/

/-- Reads entry e of the grid table. -/
def State.gridGet {α : Type} (s : State) (core : Nat) (c : Ctx) (e : Nat) (k : List Byte → State → Act α) : Act α :=
  s.ctxGet core c (s.gridVa c e) 256 k

/-- Writes bytes of entry e from an offset up. -/
def State.gridPut (s : State) (core : Nat) (c : Ctx) (e off : Nat) (bs : List Byte) (k : State → Acted) : Acted :=
  s.ctxPut core c (s.gridVa c e + BitVec.ofNat 72 off) bs k

/-- STATE of an entry. -/
def entryState (b : List Byte) : Nat := field b 80 4 % 16
/-- STATUS of an entry. -/
def entryStatus (b : List Byte) : Nat := field b 80 4 / 16 % 16
/-- JOIN of an entry. -/
def entryJoin (b : List Byte) : Nat := bitsOf (field b 80 4) 23 8
/-- SJ from its parts. -/
def entrySj (join status state : Nat) : List Byte := natLe 4 (256 * join + 16 * status + state)
/-- TICKET of an entry. -/
def entryTicket (b : List Byte) : Nat := field b 64 8 % 2 ^ 48
/-- DONEB of an entry. -/
def entryDone (b : List Byte) : Nat := field b 72 8 % 2 ^ 48
/-- GEN of an entry. -/
def entryGen (b : List Byte) : Nat := field b 84 4 % 2 ^ 24

/-- The entries of a list, of a context's grid table, whose STATE satisfies a test. -/
def State.gridsIn {α : Type} (core : Nat) (c : Ctx) (p : Nat → Bool) :
    List Nat → List (Nat × List Byte) → State → (List (Nat × List Byte) → State → Act α) → Act α
  | [], xs, s, k => k xs s
  | e :: es, xs, s, k => s.ctxGet core c (s.gridVa c e + 80) 4 fun w s =>
    if p (leNat w % 16) then s.gridGet core c e fun b s => State.gridsIn core c p es (xs ++ [(e, b)]) s k
    else State.gridsIn core c p es xs s k

/-- Free grid entries and instance blocks, as FREE counts them (R305, R328). -/
def State.freeCounts {α : Type} (s : State) (c : Ctx) (k : Nat → Nat → State → Act α) : Act α :=
  if s.poisoned (c.dpa + 196) 4 then .fault (BitVec.ofNat 72 (c.dpa + 196))
  else
    let w := leNat (s.readMem (c.dpa + 196) 4)
    k (bitsOf w 8 0) (bitsOf w 21 16) s

/-- Adds to the counts in FREE: grid entries, instance blocks; its reserved bits are written as zero (R5, R305). -/
def State.addFree (s : State) (c : Ctx) (entries blocks : Int) (k : State → Acted) : Acted :=
  s.freeCounts c fun n m s =>
    k (s.agentWrite c.id (c.dpa + 196) (natLe 4 (((n : Int) + entries).toNat + 65536 * ((m : Int) + blocks).toNat)))

/-- The first entry of a list in STATE 0. -/
def State.freeEntry (core : Nat) (c : Ctx) : List Nat → State → (Nat → State → Acted) → Acted
  | [], _, _ => .stall
  | e :: es, s, k =>
    s.ctxGet core c (s.gridVa c e + 80) 4 fun b s => if leNat b % 16 = 0 then k e s else State.freeEntry core c es s k

/-- The native width that holds for the grid of entry e at a generation: that of the die that has accepted it (R20; log 45). -/
def State.nativeFor (s : State) (c : Ctx) (e gen : Nat) : Nat :=
  match s.widths.find? fun x => x.ctx == c.id && x.entry == e && x.gen == gen with
  | some x => x.width
  | none =>
    match s.die, c.travelled with
    | .tsuord, true => Die.companion.nativeWidth
    | .companion, true => Die.tsuord.nativeWidth
    | d, false => d.nativeWidth

/-- Fills entry e in STATE 1, its reserved fields zero (R315, 00_scope.md R5). -/
def State.fillEntry (s : State) (core : Nat) (c : Ctx) (e : Nat) (pkt : List Byte) (join parent : Nat) (link : Bool)
    (node inst : Nat) (k : State → Acted) : Acted :=
  s.gridGet core c e fun b s =>
    let gen := (entryGen b + 1) % 2 ^ 24
    let bytes := pkt ++ zeros 16 ++ entrySj join 0 1 ++ natLe 4 gen ++ natLe 1 parent ++ natLe 1 (bitAt link 0) ++ natLe 2 node ++
      natLe 4 inst ++ zeros 160
    s.gridPut core c e 0 bytes fun s =>
      let s : State := { s with widths := ⟨c.id, e, gen, s.die.nativeWidth⟩ :: s.widths.filter fun x => !(x.ctx == c.id && x.entry == e) }
      k (if join = 0 then { s with agenda := s.agenda ++ [.event (.gridReady c.id e)] } else s)

/-- Sets an entry ENDING with a status; its end follows (R315, R316). -/
def State.endEntry (s : State) (core : Nat) (c : Ctx) (e join status : Nat) (k : State → Acted) : Acted :=
  s.gridPut core c e 80 (entrySj join status 4) fun s =>
    k { s with
      ends := ⟨c.id, e, core, none⟩ :: s.ends.filter fun x => !(x.ctx == c.id && x.entry == e)
      agenda := s.agenda ++ [.event (.gridEnd c.id e)] }

/-! ### Graphs (R319–R322) -/

/-- The address of instance block i (R305, R320). -/
def State.instVa (s : State) (c : Ctx) (i : Nat) : VAddr := BitVec.ofNat 72 (256 * s.descField c 184 + 1024 * i)

/-- A completion record: STATUS, then DONEV with a .sys release (R316). -/
def State.complete (s : State) (core : Nat) (c : Ctx) (p : Packet) (status : Nat) (k : State → Acted) : Acted :=
  if p.donea = 0 then k s
  else
    s.ctxPut core c (p.donea + 8) (natLe 8 status) fun s => s.ctxPut core c p.donea (natLe 8 p.donev) k

/-- Node n of a graph descriptor: PKTA, NPRED and its successors; none when it cannot be read (R319). -/
def State.nodeAt (s : State) (core : Nat) (c : Ctx) (gdesc : VAddr) (n : Nat)
    (k : Option (Nat × Nat × List Nat) → State → Acted) : Acted :=
  s.ctxTry core c (gdesc + BitVec.ofNat 72 (16 + 16 * n)) 16 fun e s =>
    match e with
    | none => k none s
    | some e =>
      let m := field e 10 2
      let found (b : List Byte) (s : State) : Acted :=
        k (some (field e 0 8, field e 8 2, (List.range m).map fun j => field b (2 * j) 2)) s
      if m = 0 then found [] s
      else s.ctxTry core c (gdesc + BitVec.ofNat 72 (field e 12 4)) (2 * m) fun b s =>
        match b with
        | none => k none s
        | some b => found b s

/-- The nodes of a list with their NPRED; none when one of them breaks R321 or cannot be read. -/
def State.graphNodes (core : Nat) (c : Ctx) (gdesc : VAddr) (count : Nat) :
    List Nat → List Nat → State → (Option (List Nat) → State → Acted) → Acted
  | [], preds, s, k => k (some preds) s
  | n :: ns, preds, s, k => s.nodeAt core c gdesc n fun x s =>
    match x with
    | none => k none s
    | some (_, pred, succ) =>
      if succ.all fun j => decide (j < count) then State.graphNodes core c gdesc count ns (preds ++ [pred]) s k else k none s

/-- A graph descriptor: NPRED of each node; none when it breaks R321 or cannot be read. -/
def State.graphOf (s : State) (core : Nat) (c : Ctx) (gdesc : VAddr) (k : Option (List Nat) → State → Acted) : Acted :=
  s.ctxTry core c gdesc 16 fun h s =>
    match h with
    | none => k none s
    | some h =>
      let n := field h 0 2
      if n = 0 ∨ 256 < n then k none s else State.graphNodes core c gdesc n (List.range n) [] s k

/-- The first block of a list, of the area of R320, that is free.  The spec gives a block no mark that tells: LEFT 0 is taken for
it (DESIGN CHOICE, log 55). -/
def State.freeInstance (core : Nat) (c : Ctx) : List Nat → State → (Nat → State → Acted) → Acted
  | [], _, _ => .stall
  | i :: is, s, k =>
    s.ctxGet core c (s.instVa c i + 64) 4 fun b s => if leNat b = 0 then k i s else State.freeInstance core c is s k

/-- Creates a graph's block i (R320), and its nodes without predecessors are ready. -/
def State.createInstance (s : State) (core : Nat) (c : Ctx) (i : Nat) (pkt : List Byte) (preds : List Nat) : Acted :=
  let ready := ((List.range preds.length).filter fun n => preds[n]? == some 0).map fun n => (c.id, i, n)
  s.ctxPut core c (s.instVa c i) (pkt ++ natLe 4 preds.length) fun s =>
    s.ctxPut core c (s.instVa c i + 512) (preds.flatMap (natLe 2 ·)) fun s => .ok { s with nodes := s.nodes ++ ready }

/-- A ready node takes a grid entry and reads its packet (R322).  Where its descriptor entry can no longer be read, it ends with
FETCH like one whose packet cannot (DESIGN CHOICE, log 53). -/
def State.startNode (s : State) (core : Nat) (c : Ctx) (i n : Nat) : Acted :=
  s.freeCounts c fun entries _ s =>
    if entries = 0 then .stall
    else State.freeEntry core c (List.range 256) s fun e s =>
      s.ctxGet core c (s.instVa c i) 64 fun gp s => s.addFree c (-1) 0 fun s =>
        let s := { s with nodes := s.nodes.erase (c.id, i, n) }
        let failed (s : State) : Acted :=
          s.fillEntry core c e (zeros 64) 1 0 false (32768 + n) i fun s => s.endEntry core c e 0 7 .ok
        s.nodeAt core c (packetOf gp).addr n fun x s =>
          match x with
          | none => failed s
          | some (pkta, _, _) => s.ctxTry core c (BitVec.ofNat 72 (256 * pkta)) 64 fun b s =>
            match b with
            | none => failed s
            | some b => s.fillEntry core c e b 0 0 false (32768 + n) i .ok

/-! ### Acceptance (R315) -/

/-- Whether a packet's parent still runs at the acceptance: the named entry holds the named GEN in STATE 1, 2 or 3. -/
def parentLives (b : List Byte) (parent : Nat) : Bool :=
  entryGen b == parent / 256 && decide (1 ≤ entryState b) && decide (entryState b ≤ 3)

/-- A packet enters the grid entry e that has been reserved for it, a graph with the block i of the area (R315, R320, R321).  A
graph's entry stands until the last of its nodes has ended (log 30). -/
def State.accept (s : State) (core : Nat) (c : Ctx) (e i : Nat) (pkt : List Byte) : Acted :=
  let p := packetOf pkt
  let reject (status : Nat) (s : State) : Acted := s.addFree c 0 1 fun s =>
    s.fillEntry core c e pkt 1 0 false 0 0 fun s => s.endEntry core c e 0 status .ok
  if p.kind = 2 then
    if !p.resOk || p.addr.toNat % 64 != 0 then reject 5 s
    else s.graphOf core c p.addr fun g s =>
      match g with
      | none => reject 6 s
      | some preds => s.fillEntry core c e pkt 0 0 false 0 i fun s => s.createInstance core c i pkt preds
  else if p.child then
    s.gridGet core c (p.parent % 256) fun b s =>
      let lives := parentLives b p.parent
      s.fillEntry core c e pkt (if lives then 1 else 0) (p.parent % 256) lives 0 0 .ok
  else s.fillEntry core c e pkt 0 0 false 0 0 .ok

/-- Accepts the packet at the head of the launch queue, once its entry, and a graph's block of the area, are reserved by one
decrement of FREE (R315). -/
def State.acceptLaunch (s : State) (core : Nat) (c : Ctx) : Acted :=
  s.onQueue core c 0 fun p q =>
    match s.queueEnds p with
    | (.error f, _) => actFault f .load
    | (.ok (head, tail), s) =>
      if queueCount head tail = 0 then .stall
      else
        match s.queueRead p (q.elemOff head) 64 with
        | (.error f, _) => actFault f .atomic
        | (.ok pkt, s) =>
          let graph := (packetOf pkt).kind == 2
          s.freeCounts c fun entries blocks s =>
            if entries = 0 ∨ (graph && blocks == 0) = true then .stall
            else State.freeEntry core c (List.range 256) s fun e s =>
              let take (i : Nat) (s : State) : Acted :=
                match s.queuePop p q 1 with
                | .error f => actFault f .atomic
                | .ok (_, s) => s.addFree c (-1) (if graph then -1 else 0) fun s => s.accept core c e i pkt
              if graph then State.freeInstance core c (List.range 32) s take else take 0 s

/-! ### Readiness (R313, R315, R318) -/

/-- An indirect packet with the counts of the word at INDA in GRID; none when they cannot be read (R318). -/
def State.withCounts (s : State) (core : Nat) (c : Ctx) (b : List Byte) (p : Packet)
    (k : Option (List Byte) → State → Acted) : Acted :=
  s.ctxTry core c p.addr 8 fun x s => k (x.map fun x =>
    let v := leNat x
    b.take 16 ++ natLe 4 (bitsOf v 31 0) ++ natLe 4 (bitsOf v 47 32) ++ natLe 4 (bitsOf v 63 48) ++ b.drop 28) s

/-- The status of a packet when its entry becomes READY, the lowest of the causes, and the packet with its counts; `native` is
the native width that holds for it. -/
def State.launchStatus (s : State) (core : Nat) (c : Ctx) (b : List Byte) (node : Bool) (native : Nat)
    (k : Nat → List Byte → State → Acted) : Acted :=
  let p := packetOf b
  let judge (pkt : List Byte) (fetchBad : Bool) (s : State) : Acted :=
    let counted : Bool := p.kind == 0 || (p.kind == 1 && p.addr.toNat % 8 == 0 && !fetchBad)
    match p.width native with
    | none => k 1 pkt s
    | some w =>
      if !s.die.implementsWidth w then k 1 pkt s
      else if counted && (packetOf pkt).gridBad then k 2 pkt s
      else if p.pwordBad w then k 3 pkt s
      else s.argBlock core c p fun a s =>
        match a with
        | none => k 4 pkt s
        | some a =>
          if argsBad a then k 4 pkt s
          else if p.bad s.die w node then k 5 pkt s
          else if fetchBad then k 7 pkt s
          else k 0 pkt s
  if node && p.kind == 2 then k 5 b s
  else if p.kind = 1 ∧ p.addr.toNat % 8 = 0 then s.withCounts core c b p fun x s => judge (x.getD b) x.isNone s
  else judge b false s

/-- GRID_READY (R315): a WAITING entry whose JOIN is zero. -/
def State.readyGrid (s : State) (core : Nat) (c : Ctx) (e : Nat) : Acted :=
  s.gridGet core c e fun b s =>
    let node : Bool := bitsOf (field b 90 2) 15 15 == 1
    if entryState b ≠ 1 ∨ entryJoin b ≠ 0 then .ok s
    else s.gridPut core c e 96 (natLe 8 s.time.toNat) fun s =>
      if (packetOf (b.take 64)).kind = 2 ∧ node = false then s.gridPut core c e 80 (entrySj 0 0 3) .ok
      else s.launchStatus core c (b.take 64) node (s.nativeFor c e (entryGen b)) fun status pkt s =>
        if status ≠ 0 then s.endEntry core c e 0 status .ok
        else s.gridPut core c e 0 pkt fun s =>
          if (packetOf pkt).blocks = 0 then s.endEntry core c e 0 0 .ok
          else s.gridPut core c e 80 (entrySj 0 0 2) fun s => .ok s.signalEnsigns

/-- GRID_READY. -/
def execGridReady (ctx entry : Nat) (s : State) : Host.Outcome State Fault Refusal :=
  .next (s.onEvent ctx (.gridReady ctx entry) fun core c => s.readyGrid core c entry)

/-! ### Ends (R316, R322) -/

/-- Step 1 of an end: the children of entry e (R316). -/
def State.freeChildren (core : Nat) (c : Ctx) (e : Nat) : List Nat → State → (State → Acted) → Acted
  | [], s, k => k s
  | n :: ns, s, k =>
    s.gridGet core c n fun b s =>
      if bitsOf (field b 89 1) 0 0 = 1 ∧ field b 88 1 = e then
        let join := entryJoin b - 1
        s.gridPut core c n 80 (entrySj join (entryStatus b) (entryState b)) fun s =>
          s.gridPut core c n 89 (natLe 1 0) fun s =>
            let s := if join = 0 ∧ entryState b = 1 then { s with agenda := s.agenda ++ [.event (.gridReady c.id n)] } else s
            State.freeChildren core c e ns s k
      else State.freeChildren core c e ns s k

/-- Decrements the counts of a node's successors; those that reach zero are ready (R322). -/
def State.advanceNodes (core : Nat) (c : Ctx) (i : Nat) : List Nat → State → (State → Acted) → Acted
  | [], s, k => k s
  | n :: ns, s, k =>
    s.ctxGet core c (s.instVa c i + BitVec.ofNat 72 (512 + 2 * n)) 2 fun b s =>
      let v := leNat b - 1
      s.ctxPut core c (s.instVa c i + BitVec.ofNat 72 (512 + 2 * n)) (natLe 2 v) fun s =>
        State.advanceNodes core c i ns (if v = 0 ∧ leNat b ≠ 0 then { s with nodes := s.nodes ++ [(c.id, i, n)] } else s) k

/-- The entry of a list that stands for the graph of block i of the area. -/
def State.graphEntry (core : Nat) (c : Ctx) (i : Nat) : List Nat → State → (Option (Nat × Nat) → State → Acted) → Acted
  | [], s, k => k none s
  | e :: es, s, k =>
    s.gridGet core c e fun b s =>
      if (packetOf (b.take 64)).kind = 2 ∧ bitsOf (field b 90 2) 15 15 = 0 ∧ field b 92 4 % 32 = i ∧ 1 ≤ entryState b ∧ entryState b ≤ 3 then
        k (some (e, entryJoin b)) s
      else State.graphEntry core c i es s k

/-- A graph whose last node has ended: its block is free, and its entry ends, which writes the completion record (R316, R322). -/
def State.endGraph (s : State) (core : Nat) (c : Ctx) (i : Nat) (pkt : List Byte) (k : State → Acted) : Acted :=
  s.addFree c 0 1 fun s => State.graphEntry core c i (List.range 256) s fun e s =>
    match e with
    | some (e, join) => s.endEntry core c e join 0 k
    | none => s.complete core c (packetOf pkt) 0 k

/-- Step 2 of an end, for a graph node (R316, R322).  Where its descriptor can no longer be read, the Ensign takes it like queue
state that it cannot read (DESIGN CHOICE, log 53). -/
def State.endNode (s : State) (core : Nat) (c : Ctx) (i n : Nat) (k : State → Acted) : Acted :=
  s.ctxGet core c (s.instVa c i) 68 fun b s =>
    let gdesc := (packetOf (b.take 64)).addr
    s.nodeAt core c gdesc n fun x s =>
      match x with
      | none => .fault gdesc
      | some (_, _, succ) =>
        let left := field b 64 4 - 1
        State.advanceNodes core c i succ s fun s =>
          s.ctxPut core c (s.instVa c i + 64) (natLe 4 left) fun s =>
            if left = 0 then s.endGraph core c i (b.take 64) k else k s

/-- The generation that a write of the context would join. -/
def Ctx.openGeneration (c : Ctx) : Nat := match c.mirror with | some m => m.openGeneration | Option.none => 0

/-- Whether a write of the context that joined a generation up to g has not been acknowledged. -/
def Ctx.holdsUpTo (c : Ctx) (g : Nat) : Bool := match c.mirror with | some m => m.held.any fun w => decide (w.1 ≤ g) | Option.none => false

/-- The core whose Ensign ends a grid: it made the final change.  Of a grid that another die left ENDING none is known, and the
first Ensign of the context ends it (R316; log 17). -/
def State.endCore (s : State) (c : Ctx) (e : Nat) : Nat :=
  match s.ends.find? fun x => x.ctx == c.id && x.entry == e with
  | some x => x.core
  | none => c.firstCore

/-- Step 3 of an end (R316): the completion record, then the entry is free. -/
def State.finishGrid (s : State) (core : Nat) (c : Ctx) (e : Nat) (b : List Byte) : Acted :=
  let s : State := { s with ends := s.ends.filter fun x => !(x.ctx == c.id && x.entry == e) }
  s.complete core c (packetOf (b.take 64)) (entryStatus b) fun s =>
    s.gridPut core c e 80 (entrySj 0 (entryStatus b) 0) fun s => s.addFree c 1 0 .ok

/-- GRID_END (R316): steps 1 and 2, then the wait for posted writes (R222; log 21), then step 3. -/
def State.endGrid (s : State) (core : Nat) (c : Ctx) (e : Nat) : Acted :=
  s.gridGet core c e fun b s =>
    if entryState b ≠ 4 then .ok s
    else
      match (s.ends.find? fun x => x.ctx == c.id && x.entry == e).bind (·.waits) with
      | some g => if c.holdsUpTo g then .ok s else s.finishGrid core c e b
      | none =>
        State.freeChildren core c e (List.range 256) s fun s =>
          let node (k : State → Acted) : Acted :=
            if bitsOf (field b 90 2) 15 15 = 1 then s.endNode core c (field b 92 4 % 32) (field b 90 2 % 256) k else k s
          node fun s =>
            let g := c.openGeneration
            if c.holdsUpTo g then
              .ok { s with ends := ⟨c.id, e, core, some g⟩ :: s.ends.filter fun x => !(x.ctx == c.id && x.entry == e) }
            else s.finishGrid core c e b

/-- GRID_END. -/
def execGridEnd (ctx entry : Nat) (s : State) : Host.Outcome State Fault Refusal :=
  .next (match s.ctx? ctx with
    | some c => s.onEventAt (s.endCore c entry) ctx (.gridEnd ctx entry) fun c => s.endGrid (s.endCore c entry) c entry
    | none => s)

end Sys2Proof.Machine
end

