-- ==== Sys2Proof/Machine/Memory.lean ====
section
/-!
DEFINITION. Loads, stores, prefetches, pins, flushes, SPILL and FILL (09_memory.md R173–R184, R446).
-/

namespace Sys2Proof.Machine

/-! ### Loads and stores -/

/-- Bytes of a load modifier (R174). -/
def loadBytes (m : Nat) : Nat :=
  match m with
  | 1 => 8
  | 8 => 8
  | 11 => 8
  | 2 => 16
  | 9 => 16
  | 3 => 1
  | 4 => 1
  | 5 => 2
  | 6 => 2
  | _ => 4

/-- Bytes of a store modifier (R174). -/
def storeBytes (m : Nat) : Nat :=
  match m with
  | 1 => 8
  | 8 => 8
  | 2 => 16
  | 9 => 16
  | 3 => 1
  | 4 => 2
  | _ => 4

/-- The low n bytes of a lane's data registers, first register first (R177). -/
def Hoist.vbytes (h : Hoist) (d k n l : Nat) : List Byte :=
  ((List.range k).flatMap fun i => natLe 4 (h.vword (d + i) l).toNat).take n

/-- The low n bytes of S data registers. -/
def Hoist.sbytes (h : Hoist) (d k n : Nat) : List Byte :=
  ((List.range k).flatMap fun i => natLe 4 (h.sreg (d + i)).toNat).take n

/-- Whether a load modifier is .vol (R174). -/
def volatile (m : Nat) : Bool := m == 10 || m == 11

/-- The words that a load's bytes give, lane by lane, as one list. -/
def flatWords (m : Nat) (vals : List (Nat × List Byte)) : List Word := vals.flatMap fun v => loadWords m v.2

/-- The lanes of a list with their bytes out of one list of words, `n` words a lane. -/
def unflatten (n : Nat) : List Nat → List Word → List (Nat × List Byte)
  | [], _ => []
  | l :: ls, ws => (l, (ws.take n).flatMap fun w => natLe 4 w.toNat) :: unflatten n ls (ws.drop n)

/-- A .vol load of a replicated hoist: made by the leader, forwarded to the others (21_reliability.md R366). -/
def Env.volatileLoad (e : Env) (i : Instr) (t : Target) (m : Nat) (acc : List Access) (s : State) : Res :=
  if e.leads then
    if !e.mayForward then .wait .retry s
    else
      (e.at s).inOrderAt acc fun e =>
        let s := e.s
        let (good, bad) := s.splitPoison e.b.id acc
        let data := acc.map fun x => (x.lane, if bad.contains x then natLe x.n 0 else s.readAccess e.h.src e.b.id x)
        let mine := data.filter fun v => good.any (·.lane == v.1)
        let s := e.forward (flatWords m data) (s.updHoist e.h.src fun h => h.deliver t mine)
        if bad = [] then .done s
        else if t.perLane then .done (s.killLanes e.h.src (deaths bad) e.namedData)
        else .gone (s.loseHoist e.h.src 0xFF e.namedData)
  else
    match e.received i with
    | none => .wait .retry s
    | some ws =>
      let vals := unflatten t.count (acc.map (·.lane)) ws
      .done (s.updHoist e.h.src fun h => (h.deliver t vals).consume i)

/-- A load of one size through a window (R174, R175, R177). -/
def Env.load (e : Env) (i : Instr) (k : Counter) (t : Target) (a : AReg) (scr : Option Bool) (m : BitVec 4)
    (reqs : List (Nat × Int)) : Res :=
  let n := loadBytes m.toNat
  e.checked .load (e.check a [permR] scr .load t.perLane n n reqs) fun s acc =>
    if volatile m.toNat && e.b.replicated then e.volatileLoad i t m.toNat acc s
    else e.startLoad k t acc s

/-- VLD (R177). -/
def execVld (d o : BitVec 8) (n m : BitVec 4) (s : State) : Host.Outcome State Fault Refusal :=
  runWord (.vld d o n m) (fun e =>
    let a := e.h.areg n.toNat
    e.load (.vld d o n m) .g (.v d.toNat m.toNat) a (some false) m (e.laneOffsets (dispOnly m) o.toNat a)) s

/-- VLDS (R177). -/
def execVlds (d o : BitVec 8) (n m : BitVec 4) (s : State) : Host.Outcome State Fault Refusal :=
  runWord (.vlds d o n m) (fun e =>
    let a := e.h.areg n.toNat
    e.load (.vlds d o n m) .s (.v d.toNat m.toNat) a (some true) m (e.laneOffsets (dispOnly m) o.toNat a)) s

/-- SLD (R177). -/
def execSld (d o : BitVec 8) (n m : BitVec 4) (s : State) : Host.Outcome State Fault Refusal :=
  runWord (.sld d o n m) (fun e =>
    let a := e.h.areg n.toNat
    e.load (.sld d o n m) .g (.s d.toNat m.toNat) a none m (e.scalarOffset (dispOnly m) (e.sval o) a)) s

/-- A store of one size through a window: `data` gives the bytes of a lane (R174–R177). -/
def Env.store (e : Env) (a : AReg) (scr : Option Bool) (perLane : Bool) (m : BitVec 4) (reqs : List (Nat × Int))
    (data : Nat → List Byte) : Res :=
  let n := storeBytes m.toNat
  e.checked .store (e.check a [permW] scr .store perLane n n reqs) fun s acc =>
    e.startStore 0 m.toNat (acc.map fun x => (x, data x.lane)) s

/-- VST (R177). -/
def execVst (d o : BitVec 8) (n m : BitVec 4) (s : State) : Host.Outcome State Fault Refusal :=
  runWord (.vst d o n m) (fun e =>
    let a := e.h.areg n.toNat
    e.store a (some false) true m (e.laneOffsets (dispOnly m) o.toNat a)
      (e.h.vbytes d.toNat (groupSize m) (storeBytes m.toNat))) s

/-- VSTS (R177). -/
def execVsts (d o : BitVec 8) (n m : BitVec 4) (s : State) : Host.Outcome State Fault Refusal :=
  runWord (.vsts d o n m) (fun e =>
    let a := e.h.areg n.toNat
    e.store a (some true) true m (e.laneOffsets (dispOnly m) o.toNat a)
      (e.h.vbytes d.toNat (groupSize m) (storeBytes m.toNat))) s

/-- SST (R177). -/
def execSst (d o : BitVec 8) (n m : BitVec 4) (s : State) : Host.Outcome State Fault Refusal :=
  runWord (.sst d o n m) (fun e =>
    let a := e.h.areg n.toNat
    e.store a none false m (e.scalarOffset (dispOnly m) (e.sval o) a)
      fun _ => e.h.sbytes d.toNat (groupSize m) (storeBytes m.toNat)) s

/-! ### Prefetch, pins and flushes -/

/-- PREF (R179): lines move only in time; each lane that would fault is skipped, and the others' pages are walked. -/
def execPref (o : BitVec 8) (n m : BitVec 4) (s : State) : Host.Outcome State Fault Refusal :=
  runWord (.pref o n m) (fun e =>
    let a := e.h.areg n.toNat
    if !a.has permR || a.has permSCR then .done e.s
    else
      let reqs := (e.laneOffsets (dispOnly m) o.toNat a).filter fun r => a.accessOk e.b.segSize 1 1 r.2
      .done (reachLanes (coreOf e.h.src) e.c .load a.rights a reqs e.s).2) s

/-- The checks of PIN, UNPIN and CFLUSH, and the lines that the lanes name (R178). -/
def Env.named1 (e : Env) (o : BitVec 8) (n m : BitVec 4) (k : State → List Access → Res) : Res :=
  let a := e.h.areg n.toNat
  e.checked .load (e.check a [permR] (some false) .load true 1 1 (e.laneOffsets (dispOnly m) o.toNat a)) k

/-- Whether a line is pinned. -/
def State.pinned (s : State) (line : Nat) : Bool := s.pins.any (·.1 == line)

/-- Whether the page of an address has PINOK set (19_faults.md R342). -/
def State.pinOk (s : State) (core : Nat) (c : Ctx) (va : VAddr) : Bool :=
  match s.lookup core c va.toNat with
  | .ok _ leaf _ _ => bitsOf leaf 9 9 == 1
  | _ => false

/-- Pinned lines homed at a slice. -/
def State.pinsAt (s : State) (slice : Nat) : Nat := (s.pins.filter fun p => homeSlice s.die p.1 == slice).length

/-- Pins one lane's line when its page and its home slice allow; a migrated line comes home first (R165, R168, R180). -/
def State.pinLine (s : State) (core : Nat) (c : Ctx) (x : Access) : State :=
  let line := x.pa / 64
  if s.pinned line || !s.pinOk core c x.va || decide (s.die.pinsPerSlice ≤ s.pinsAt (homeSlice s.die line)) then s
  else { s with pins := s.pins ++ [(line, c.id)], migrated := s.migrated.filter (·.1 != line) }

/-- PIN (R180). -/
def execPin (p o : BitVec 8) (n m : BitVec 4) (s : State) : Host.Outcome State Fault Refusal :=
  runWord (.pin p o n m) (fun e => e.named1 o n m fun s acc =>
    let s := acc.foldl (fun s x => s.pinLine (coreOf e.h.src) e.c x) s
    let got (l : Nat) : Bool := acc.any fun x => x.lane == l && s.pinned (x.pa / 64)
    .done (s.updHoist e.h.src fun h => h.putP p.toNat (e.h.active e.g.id) got)) s

/-- UNPIN (R180). -/
def execUnpin (o : BitVec 8) (n m : BitVec 4) (s : State) : Host.Outcome State Fault Refusal :=
  runWord (.unpin o n m) (fun e => e.named1 o n m fun s acc =>
    .done { s with pins := s.pins.filter fun q => !acc.any fun x => x.pa / 64 == q.1 }) s

/-- CFLUSH (R181): memory already holds every write performed; .inv drops the lines and their pins. -/
def execCflush (o : BitVec 8) (n m : BitVec 4) (s : State) : Host.Outcome State Fault Refusal :=
  runWord (.cflush o n m) (fun e => e.named1 o n m fun s acc =>
    (e.at s).inOrderAt acc fun e =>
      if m = 1 ∨ m = 8 then
        .done { e.s with
          pins := e.s.pins.filter fun q => !acc.any fun x => x.pa / 64 == q.1
          migrated := e.s.migrated.filter fun q => !acc.any fun x => x.pa / 64 == q.1 }
      else .done e.s) s

/-! ### SPILL and FILL -/

/-- The window position of register i of a SPILL or FILL (R182). -/
def spillAt (e : Env) (a : AReg) (i : Nat) : Int := a.position 0 e.disp + (4 * e.h.width * i : Nat)

/-- The accesses of register i: the lanes of the group that are not dead (R183). -/
def spillReqs (e : Env) (a : AReg) (i : Nat) : List (Nat × Int) :=
  (e.h.groupLanes e.g.id).map fun l => (l, spillAt e a i + (4 * l : Nat))

/-- Writes %xprog. -/
def Hoist.setXprog (h : Hoist) (v : Word) : Hoist := { h with regs := { h.regs with xprog := v } }

/-- How far a SPILL or FILL came: through, or stopped at register i. -/
inductive SpillEnd where
  | through (s : State)
  | stopped (i : Nat) (c : Check)
  deriving Repr

/-- Stores one register of a SPILL (R183, 21_reliability.md R364, R365). -/
def Env.spillOne (e : Env) (r : Nat) (acc : List Access) (s : State) : State :=
  let ws := acc.map fun x => (x, natLe 4 (e.h.vword r x.lane).toNat)
  let s := s.updHoist e.h.src fun h =>
    h.foldItems e.b.replicated 0 0 ((ws.filter (!·.1.scr)).map fun w => (w.1.va, w.2))
  s.performWrites e.h.src e.b.id e.c.id ws

/-- Loads one register of a FILL (R183, 21_reliability.md R358). -/
def Env.fillOne (e : Env) (r : Nat) (acc : List Access) (s : State) : State :=
  let (good, bad) := s.splitPoison e.b.id acc
  let vals := good.map fun x => (x.lane, [BitVec.ofNat 32 (leNat (s.readAccess e.h.src e.b.id x))])
  let s := s.updHoist e.h.src fun h => h.fillV r vals 1
  if bad = [] then s else s.killLanes e.h.src (deaths bad) e.namedData

/-- The registers from number i on, `fuel` of them. -/
def spillRegs (a : AReg) (f : Nat) (store : Bool) : Nat → Nat → Env → SpillEnd
  | 0, _, e => .through e.s
  | fuel + 1, i, e =>
    let (need, use) := if store then (permW, PageUse.store) else (permR, PageUse.load)
    match e.check a [need] none use true 4 4 (spillReqs e a i) with
    | .pass s acc =>
      if s.owned (e.who use) (accessRuns acc) then .stopped i (.retry s)
      else
      let s := if store then e.spillOne (f + i) acc s else e.fillOne (f + i) acc s
      spillRegs a f store fuel (i + 1) (e.at (s.updHoist e.h.src fun h => h.setXprog (BitVec.ofNat 32 (i + 1))))
    | c => .stopped i c

/-- Free values in the registers from i on that a FILL has not loaded (R184; log 9). -/
def Env.scrambleFill (e : Env) (f : Nat) : Nat → Nat → State → State
  | 0, _, s => s
  | fuel + 1, i, s =>
    let vals := (e.h.groupLanes e.g.id).map fun l => (l, [Config.freeWord (s.fresh + l)])
    e.scrambleFill f fuel (i + 1)
      ({ s with fresh := s.fresh + e.h.width }.updHoist e.h.src fun h => h.fillV (f + i) vals 1)

/-- Free values in the memory words from register i on that a SPILL could reach (R184; log 9). -/
def Env.scrambleSpill (e : Env) (a : AReg) : Nat → Nat → State → State
  | 0, _, s => s
  | fuel + 1, i, s =>
    let words := (spillReqs e a i).filterMap fun r =>
      match s.reach (coreOf e.h.src) e.c (a.address r.2) .store a.rights with
      | (.ok pa _ _, _) => some ((⟨r.1, false, a.address r.2, pa, 4⟩ : Access), natLe 4 (Config.freeWord (s.fresh + r.1)).toNat)
      | _ => none
    e.scrambleSpill a fuel (i + 1)
      ({ s with fresh := s.fresh + e.h.width }.performWrites e.h.src e.b.id e.c.id words)

/-- A SPILL or FILL that stopped at register i (R184): a trap with %xprog = i, or a wait after which it goes on there. -/
def Env.spillStopped (e : Env) (a : AReg) (f c i : Nat) (store : Bool) (x : Check) : Res :=
  let at_ (s : State) : State := s.updHoist e.h.src fun h => h.setXprog (BitVec.ofNat 32 i)
  let again (s : State) : State :=
    (at_ s).updHoist e.h.src fun h => h.updGroup e.g.id fun g => { g with resumed := true }
  match x with
  | .pass s _ => .done s
  | .trap t s =>
    let s := if store then e.scrambleSpill a (c - i) i s else e.scrambleFill f (c - i) i s
    .trap t (at_ s)
  | .retry s => .wait .retry (again s)
  | .forward va s => e.awaitToken va (if store then 1 else 0) (again s)

/-- SPILL and FILL (R182–R184). -/
def Env.spillFill (e : Env) (f c : Nat) (n : BitVec 4) (store : Bool) : Res :=
  let a := e.h.areg n.toNat
  let bytes := 4 * e.h.width * c
  let lo := spillAt e a 0
  let range : Int × Int := (a.base.toNat + lo, a.base.toNat + lo + bytes)
  let ranges := if a.has permSCR then [] else [range]
  if e.h.groupLanes e.g.id = [] then .done e.s
  else if !a.has (if store then permW else permR) then e.windowPerm a lo
  else if !a.inBounds e.b.segSize lo bytes || (a.base.toNat + lo) % 4 != 0 then .trap { cls := .bound } e.s
  else
    let e := e.settle fun x => (x.src == e.h.src && x.work.access) || ranges.any fun r => x.owns e.c.id r.1 r.2
    if !e.here then .gone e.s
    else if e.s.accessBlocked e.h.src e.c.id ranges then .wait .retry e.s
    else
      let start := if e.g.resumed then min c e.h.regs.xprog.toNat else 0
      let go (e : Env) : Res :=
        match spillRegs a f store (c - start) start e with
        | .through s => .done (s.updHoist e.h.src fun h => h.setXprog 0)
        | .stopped i x => e.spillStopped a f c i store x
      if store && e.b.replicated && !a.has permSCR then
        if 65536 < bytes then e.raise .illop else e.withRoom (4 * (e.h.groupLanes e.g.id).length * (c - start)) go
      else go e

/-- SPILL (R183). -/
def execSpill (f c : BitVec 8) (n : BitVec 4) (s : State) : Host.Outcome State Fault Refusal :=
  runWord (.spill f c n) (fun e => e.spillFill f.toNat c.toNat n true) s

/-- FILL (R183). -/
def execFill (f c : BitVec 8) (n : BitVec 4) (s : State) : Host.Outcome State Fault Refusal :=
  runWord (.fill f c n) (fun e => e.spillFill f.toNat c.toNat n false) s

end Sys2Proof.Machine
end

