-- ==== Sys2Proof/Machine/Switch.lean ====
section
/-!
DEFINITION. Blocks that come to a core: the room they need there, blocks that start, blocks restored from a frame; CTXSV
and CTXRS (01_machine.md R24–R33, 17_scheduling.md R312, R325, R328, 19_faults.md R352, 21_reliability.md R362).
-/

namespace Sys2Proof.Machine

/-! ### Room (R29, R30, R33, R303, R362) -/

/-- The free hoist slots of a core, Ensign's and service hoist's slots excepted, lowest first (R24; log 7). -/
def State.freeSrcs (s : State) (core : Nat) : List Nat :=
  ((List.range 64).map (64 * core + ·)).filter fun n =>
    n != ensignSrc core && !(core % 4 == 0 && n == serviceSrc (core / 4)) && !s.hoists.any (·.src == n)

/-- The free physical cube slots of a core. -/
def State.freeSlots (s : State) (core : Nat) : List Nat :=
  let used := ((s.blocksOn core).flatMap (·.slots)).map (·.phys)
  (List.range 128).filter fun n => !used.contains n

/-- The hop distance between clusters (R10). -/
def hops (d : Die) (a b : Nat) : Nat :=
  let dist (x y : Nat) : Nat := (x - y) + (y - x)
  dist (a % d.columns) (b % d.columns) + dist (a / d.columns) (b / d.columns)

/-- Whether a replica's cluster is far enough from those of the other resident replicas of its block (R362). -/
def State.farEnough (s : State) (b : Block) (core : Nat) : Bool :=
  b.replicas ≤ 1 || (s.blocks.filter fun x => x.sameRun b).all fun x => decide (2 ≤ hops s.die (core / 4) (x.core / 4))

/-- The prologue allotment of a block (R28). -/
def Block.prologueNeed (b : Block) : Need := needOf b.hoists b.width b.prologue 0 0 b.replicas

/-- What a block needs to come to a core under its class: a saved block that held its full allotment has it as RELA left it
(R33, 09_memory.md R209). -/
def Block.needUnder (b : Block) (acls : Nat) (frame : Option FrameHead) : Need :=
  if acls = 0 then b.prologueNeed
  else match frame with
    | some f => if f.full then needOf b.hoists b.width f.vcnt f.seg f.acc b.replicas else b.fullNeed
    | Option.none => b.fullNeed

/-- Whether a block fits a core beside what stands there: slots, lane places, what it needs, cube slots. -/
def State.fits (s : State) (b : Block) (core : Nat) (need : Need) (cube : Nat) : Bool :=
  let bs := s.blocksOn core
  slotsFit core b.hoists b.width bs && decide (b.hoists ≤ (s.freeSrcs core).length) &&
    needFits core b.ctx b.entry b.pword bs need && decide (claimedSlots bs + cube ≤ 128) && s.farEnough b core

/-- Distinct cores of a list for the blocks of a span, each with what it needs and its cube slots (R30). -/
def State.placeSpan (s : State) : List (Block × Need × Nat) → List Nat → Option (List Nat)
  | [], _ => some []
  | (b, need, cube) :: rest, cores =>
    (cores.filter fun k => s.fits b k need cube).findSome? fun k =>
      (s.placeSpan rest (cores.filter (· != k))).map (k :: ·)

/-! ### Starting (R49, R312, R325) -/

/-- The block of a packet whose grid has width w (R20, R23, R26–R28, R325). -/
def Packet.block (p : Packet) (w ctx entry linear replica : Nat) : Block :=
  let (gx, gy, gz) := p.grid
  { Block.none with
    ctx := ctx
    entry := entry
    linear := linear
    coords := (BitVec.ofNat 32 (linear % max 1 gx), BitVec.ofNat 32 (linear / max 1 gx % max 1 gy),
      BitVec.ofNat 32 (linear / max 1 (gx * gy)))
    grid := (BitVec.ofNat 32 gx, BitVec.ofNat 32 gy, BitVec.ofNat 32 gz)
    replica := replica
    replicas := p.replicas
    spanSize := p.span
    spanRank := linear % p.span
    width := w
    hoists := p.hoists
    pword := p.pword
    vregs := p.vregs
    prologue := p.prologue
    scrBytes := p.scr
    accBytes := p.acc
    vcnt := p.prologue
    bars := List.replicate 17 ⟨0, 0, 0⟩ }

/-- The width of the grid that an entry of the grid table holds (R20). -/
def State.entryWidth (s : State) (c : Ctx) (e : Nat) (b : List Byte) : Nat :=
  ((packetOf (b.take 64)).width (s.nativeFor c e (entryGen b))).getD 32

/-- A hoist with what its launch delivers (R312). -/
def Hoist.withArgs (h : Hoist) (a : Args) (handle : Word) : Hoist :=
  let h := a.a.foldl (fun h x => h.setA x.1 x.2) h
  let h := (a.s.mapIdx fun i w => (i, w)).foldl (fun h x => h.setS x.1 x.2) h
  h.setS 92 handle

/-- A block starts on a core, in the lowest free slots (R49, R325). -/
def State.startBlock (s : State) (b : Block) (core span : Nat) (entry : VAddr) (a : Args) (handle : Word) : State :=
  let id := s.nextId
  let srcs := (s.freeSrcs core).take b.hoists
  let b := { b with id := id, core := core, span := span, reserved := decide (1 < b.spanSize), enq := s.time.toNat }
  let hs := srcs.mapIdx fun k src => (Hoist.start src id k b.width b.prologue entry).withArgs a handle
  let hs := hs.map fun h => { h with regs := { h.regs with
    groups := h.regs.groups.map fun g => { g with last := s.clock, lastWord := s.clock } } }
  let hs : List Hoist := hs.map fun (h : Hoist) =>
    { h with
      snapshot := if b.replicated then some h.regs else none
      forwarded := if b.replicated && b.replica != 0 then s.mailFor b.run b.replica h.index else [] }
  { s with
    mail := s.mail.filter fun m => !(m.block == b.run && (b.replica == 0 || m.replica == b.replica))
    blocks := s.blocks ++ [b]
    hoists := s.hoists ++ hs
    nextId := id + 1
    power := { s.power with gated := s.power.gated.filter (· != core / 4) } }

/-! ### Restoring (R352) -/

/-- How a restore ends. -/
inductive Restored where
  | ok (s : State)
  | noRoom
  | malformed
  deriving Repr

/-- A restored hoist waits at its next .sys release for every write that its context holds (25_docking.md R416). -/
def Ctx.postsOf (c : Ctx) (companion : Bool) : Nat :=
  match c.mirror with
  | some m =>
    if m.held.any fun w => match w.2 with | .companion _ _ => companion | .host _ _ => !companion | _ => false
    then m.openGeneration else 0
  | Option.none => 0

/-- A restored hoist with what its frame had no place for (log 16), and with the context's posted writes to wait for. -/
def Hoist.fromAside (h : Hoist) (a : Option Aside) (c : Ctx) : Hoist :=
  let h := { h with posted := c.postsOf true, postedHost := c.postsOf false }
  match a.bind fun x => x.hoists.find? (·.index == h.index) with
  | some x =>
    let marked := h.regs.groups.any (·.refused)
    { h with
      wbuf := x.wbuf
      snapshot := x.snapshot
      forwarded := x.forwarded
      fails := x.fails
      flaws := x.flaws
      lateFrom := x.lateFrom
      regs := { h.regs with groups := h.regs.groups.map fun g =>
        { g with
          refused := if x.faulting.isEmpty then g.refused else marked && x.faulting.contains g.id
          owed := x.owed.contains g.id } } }
  | none => h

/-- Makes the block that a frame holds resident on a core; `b` tells which block it is, `acls` its class (R33, R352). -/
def State.restoreBlock (s : State) (core : Nat) (b : Block) (a : Option Aside) (acls span : Nat) (bytes : List Byte) :
    Restored :=
  let f := frameHead bytes
  let dummy := (List.range f.hoists).map fun _ => 0
  if !frameHeaderOk bytes || f.hoists != b.hoists || f.total != bytes.length ||
      (loadBlock bytes b s.nextId core s.clock dummy []).isNone then .malformed
  else if !s.fits b core (b.needUnder acls (some f)) f.locals.length then .noRoom
  else
    match loadBlock bytes b s.nextId core s.clock ((s.freeSrcs core).take f.hoists) (s.freeSlots core) with
    | none => .malformed
    | some (b, hs) =>
      let b := { b with span := span, reserved := decide (1 ≤ acls) }
      let c := (s.ctx? b.ctx).getD Ctx.none
      .ok { s with
        blocks := s.blocks ++ [b]
        hoists := s.hoists ++ hs.map fun h => h.fromAside a c
        nextId := s.nextId + 1
        power := { s.power with gated := s.power.gated.filter (· != core / 4) }
        aside := match a with
          | some x => s.aside.erase x
          | none => s.aside }

/-- The launch handle in s92 of a frame's first hoist. -/
def frameHandle (bytes : List Byte) : Nat :=
  let slices := 2 ^ field bytes 2752 1 / 4
  let stack := ((List.range slices).foldl (fun a k => a + 8 * field bytes (2752 + 96 + k) 1) 0)
  field bytes (2752 + 256 + roundUp stack 64 + 4 * 92) 4

/-- Whether an entry's grid runs, and its blocks have the shape of a frame's: hoists and width. -/
def State.grown (s : State) (c : Ctx) (bytes : List Byte) (g : Nat × List Byte) : Bool :=
  (entryState g.2 == 2 || entryState g.2 == 3) && (packetOf (g.2.take 64)).hoists == (frameHead bytes).hoists &&
    s.entryWidth c g.1 g.2 == 2 ^ field bytes 2752 1

/-- A block of a grid for a frame that another die saved: its rank is that of the record's SPAN; its run of blocks and its replica
are open (log 16). -/
def State.blockIn (s : State) (c : Ctx) (r : Record) (g : Nat × List Byte) : Block × State :=
  let p := packetOf (g.2.take 64)
  let run := (Config.freeWord s.fresh).toNat % max 1 (p.blocks / p.span)
  let rank := if r.span / 4 + 1 = p.span then r.span % 4 % p.span else (Config.freeWord (s.fresh + 1)).toNat % p.span
  (p.block (s.entryWidth c g.1 g.2) c.id g.1 (p.span * run + rank) ((Config.freeWord (s.fresh + 2)).toNat % p.replicas),
    { s with fresh := s.fresh + 3 })

/-- The block that a frame holds when this die did not save it: its launch handle in s92 names the grid; where the program has
changed s92, the grid is one of those that run and have blocks of that shape, which one is open (log 16).  None where no such
grid runs. -/
def State.guessBlock (s : State) (core : Nat) (c : Ctx) (r : Record) (bytes : List Byte) : Act (Option Block × State) :=
  let e := frameHandle bytes % 256
  s.gridGet core c e fun b s =>
    if entryGen b = frameHandle bytes / 256 ∧ s.grown c bytes (e, b) = true then
      let (x, s) := s.blockIn c r (e, b)
      .ok (some x, s)
    else State.gridsIn core c (fun x => x == 2 || x == 3) (List.range 256) [] s fun gs s =>
      let gs := gs.filter (s.grown c bytes)
      match gs[(Config.freeWord s.fresh).toNat % max 1 gs.length]? with
      | none => .ok (none, s)
      | some g =>
        let (x, s) := ({ s with fresh := s.fresh + 1 }).blockIn c r g
        .ok (some x, s)

/-- Which block a frame of a context holds; what this die keeps aside is that of another save, when the record is not the one
that it saved the block with. -/
def State.blockOfFrame (s : State) (core : Nat) (c : Ctx) (frame : VAddr) (r : Record) (bytes : List Byte) :
    Act (Option (Block × Option Aside) × State) :=
  match s.aside.find? fun x => x.frame == frame && x.block.ctx == c.id && (x.mark.isNone || x.mark == some r.mark) with
  | some x => .ok (some (x.block, some x), s)
  | none => (s.guessBlock core c r bytes).bind fun x => .ok (x.1.map fun b => (b, none), x.2)

/-! ### CTXSV and CTXRS (R352) -/

/-- The block whose hoist stands in a slot of the Ensign's core, when it is of the context that the Ensign reaches. -/
def Env.targetBlock (e : Env) (slot : Nat) : Option Block :=
  match e.s.hoist? (64 * coreOf e.h.src + slot) with
  | some h =>
    if h.role = .user ∧ h.retired = false then
      (e.s.block? h.block).bind fun b => if b.ctx = e.c.id then some b else none
    else none
  | none => none

/-- Every hoist of the block runs again. -/
def State.resumeBlock (s : State) (id : Nat) : State := s.updBlock id fun b => { b with residency := s.runsOn b.ctx }

/-- CTXSV (R352). -/
def execCtxsv (d : BitVec 8) (n : BitVec 4) (b : BitVec 8) (s : State) : Host.Outcome State Fault Refusal :=
  runWord (.ctxsv d n b) (fun e =>
    let v := (e.sval b).toNat
    let a := e.h.areg n.toNat
    let pos := a.position 0 0
    if 64 ≤ v then e.raise .illop
    else if !(a.has permW && a.has permSYS) then e.windowPerm a pos
    else if !a.accessOk e.b.segSize 256 2752 pos || a.has permSCR then e.raise .bound
    else
      match e.targetBlock v with
      | none => .done (e.s.updHoist e.h.src fun h => h.writeS d 3)
      | some blk =>
        let e := e.at (e.s.updBlock blk.id fun x => { x with residency := .stopping 6 })
        let e := if e.s.flights.any (·.block == blk.id) then e.settle (·.block == blk.id) else e
        match e.s.block? blk.id with
        | none => .done (e.s.updHoist e.h.src fun h => h.writeS d 3)
        | some blk =>
          if !e.s.drained blk then .wait .retry e.s
          else
            let bytes := (blk.frameBytes (e.s.allHoists blk) (zeros 32)).drop 32
            let total := bytes.length + 32
            if e.s.frameSize e.c < total then
              .done (((e.s.resumeBlock blk.id).faultCtx e.c.id .frameTooLarge e.h.src (natLe 16 (a.address pos).toNat)).updHoist
                e.h.src fun h => h.writeS d 1)
            else if !a.inBounds 0 pos total then .trap { cls := .bound } (e.s.resumeBlock blk.id)
            else
              let va := a.address (pos + 32)
              match e.s.range (e.who .store) e.c .store a.rights va bytes.length with
              | (.error f, s) => e.rangeRes f 1 (if f.stall || f.forward then s else s.resumeBlock blk.id)
              | (.ok rs, s) =>
                let s := s.writeRuns e.c.id rs bytes
                let s : State := { s with aside := s.asideOf blk (a.address pos) none :: s.aside }
                .done ((s.removeBlock blk.id).updHoist e.h.src fun h => h.writeS d 0)) s

/-- The bytes of a whole frame at an address: as many as its TOTAL says. -/
def Env.frameAt (e : Env) (a : AReg) (pos : Int) (k : State → List Byte → Res) : Res :=
  e.reachSpan a [permR, permSYS] .load 256 2752 pos fun s rs =>
    match (e.at s).spanBytes a 2752 pos rs s with
    | none => .gone (s.loseHoist e.h.src 0xFF e.namedData)
    | some head =>
      let total := (frameHead head).total
      if total < 2752 then k s head
      else if !a.inBounds e.b.segSize pos total then .trap { cls := .bound } s
      else (e.at s).reachSpan a [permR, permSYS] .load 256 total pos fun s rs =>
        match (e.at s).spanBytes a total pos rs s with
        | none => .gone (s.loseHoist e.h.src 0xFF e.namedData)
        | some bytes => k s bytes

/-- CTXRS (R352). -/
def execCtxrs (d : BitVec 8) (n : BitVec 4) (s : State) : Host.Outcome State Fault Refusal :=
  runWord (.ctxrs d n) (fun e =>
    let a := e.h.areg n.toNat
    let pos := a.position 0 0
    let status (s : State) (v : Word) : Res := .done (s.updHoist e.h.src fun h => h.writeS d v)
    e.inOrder (a.ranges pos 2752) fun e => e.frameAt a pos fun s bytes =>
      let r := recordOf (bytes.take 32)
      let core := coreOf e.h.src
      match s.ctx? r.ctx with
      | none => status s 2
      | some c =>
        if !s.issues c.id then .wait .retry s else
        let bad (s : State) : Res :=
          status (s.faultCtx c.id .malformedFrame e.h.src (natLe 16 (a.address pos).toNat)) 2
        match s.blockOfFrame core c (a.address pos) r bytes with
        | .ok (none, s) => bad s
        | .ok (some (b, aside), s) =>
          match s.restoreBlock core b aside r.acls b.span bytes with
          | .ok s => status s 0
          | .noRoom => status s 1
          | .malformed => bad s
        | .fault _ => bad s
        | .ask va use => .wait .retry (s.reach core c va use allRights).2
        | .stall => .wait .retry s) s

end Sys2Proof.Machine
end

