-- ==== Sys2Proof/Machine/Ensign.lean ====
section
/-!
DEFINITION. Ensign agents: candidates, admission, holds, retirement, kills, parking, saves, join counters, translation
requests and their resolution (01_machine.md R29–R35, 17_scheduling.md R323–R330, 19_faults.md R347, R348, 15_cube.md R302).
-/

namespace Sys2Proof.Machine

/-! ### Candidates (R323) -/

/-- A record in the ready queue: its ring address and its bytes. -/
abbrev Ready := Nat × List Byte

/-- A candidate of an Ensign: a ready record at the head of a context's ready queue, or a READY grid. -/
inductive Offered where
  | record (r : Ready)
  | grid (entry : Nat) (b : List Byte)
  deriving DecidableEq, Repr

/-- A candidate with its keys. -/
structure Cand where
  ctx : Nat
  prio : Nat
  since : Nat
  what : Offered
  deriving DecidableEq, Repr

/-- Effective priority: one level more for every 100 µs (R323); ages are taken modulo 2^48, the width of ENQ (DESIGN CHOICE,
log 56). -/
def effective (now p since : Nat) : Nat := min 7 (p + (now + 2 ^ 48 - since % 2 ^ 48) % 2 ^ 48 / 120000)

/-- Whether a candidate is a grid. -/
def Cand.isGrid (c : Cand) : Bool := match c.what with | .grid _ _ => true | .record _ => false

/-- What names a candidate from one evaluation to the next. -/
def Cand.key (c : Cand) : Nat :=
  match c.what with
  | .grid e _ => 2 * e + 1
  | .record r => 2 * ((recordOf r.2).frame * 2 ^ 70 + (recordOf r.2).code)

/-- Whether a candidate is a span. -/
def Cand.isSpan (c : Cand) : Bool :=
  match c.what with
  | .grid _ b => (packetOf (b.take 64)).span != 1
  | .record r => (recordOf r.2).acls == 2

/-- The order of candidates (R323): effective priority, age, records first, lower context.  A record's ENQ holds 48 bits of %time
and a grid's READYT 64: the keys are compared as they stand, and only ages are taken modulo 2^48, so that after a wrap of the 48
bits a record counts as older than a grid (DESIGN CHOICE, log 56). -/
def Cand.before (now : Nat) (a b : Cand) : Bool :=
  let pa := effective now a.prio a.since
  let pb := effective now b.prio b.since
  decide (pb < pa) || (pa == pb && (decide (a.since < b.since) || (a.since == b.since &&
    ((!a.isGrid && b.isGrid) || (a.isGrid == b.isGrid && decide (a.ctx < b.ctx))))))

/-- A candidate put in its place in an ordered list. -/
def insertCand (now : Nat) (x : Cand) : List Cand → List Cand
  | [] => [x]
  | y :: ys => if y.before now x then y :: insertCand now x ys else x :: y :: ys

/-- Whether the Ensign of a core may admit work of a context now (R323, R328, 25_docking.md R419, 21_reliability.md R371). -/
def State.admits (s : State) (core : Nat) (c : Ctx) : Bool :=
  c.coremask.getLsbD core && !c.faulted && !c.destroying && !s.power.saving &&
    (match c.mirror with | some m => m.phase == .idle | none => true) &&
    s.ensignRuns core

/-- k elements of a ring from index i up, each with its address (R204). -/
def State.ringGet {α : Type} (core : Nat) (c : Ctx) (header : VAddr) (q : QueueWord) :
    Nat → Nat → List Ready → State → (List Ready → State → Act α) → Act α
  | 0, _, xs, s, k => k xs s
  | n + 1, i, xs, s, k =>
    let va := header + BitVec.ofNat 72 (q.elemOff i)
    s.ctxGet core c va q.size fun b s => State.ringGet core c header q n (i + 1) (xs ++ [(va.toNat, b)]) s k

/-- The first n records of the ready queue, the head first (R306). -/
def State.readyList {α : Type} (s : State) (core : Nat) (c : Ctx) (n : Nat) (k : List Ready → State → Act α) : Act α :=
  s.onQueue core c 1 fun _ q =>
    let header := BitVec.ofNat 72 (256 * leNat (s.readMem (c.dpa + 280) 8))
    s.ctxGet core c header 8 fun b s =>
      let head := leNat (b.take 4)
      State.ringGet core c header q (min n (min q.depth (queueCount head (leNat (b.drop 4))))) head [] s k

/-- Takes records out of the ready queue, the others keeping their order (log 22). -/
def State.takeReady (s : State) (core : Nat) (c : Ctx) (taken : List Ready) (k : State → Acted) : Acted :=
  s.readyList core c taken.length fun first s => s.onQueue core c 1 fun p q =>
    let pop (s : State) (n : Nat) (k : State → Acted) : Acted :=
      match s.queuePop p q n with
      | .error f => actFault f .atomic
      | .ok (_, s) => k s
    if first.all taken.contains then pop s taken.length k
    else s.readyList core c q.depth fun all s => pop s all.length fun s =>
      match s.queuePush p q ((all.filter fun x => !taken.contains x).map (·.2)) with
      | .error f => actFault f .atomic
      | .ok (_, s) => k s

/-- The grid table index that a START or RELAUNCH record names. -/
def State.recordEntry (s : State) (c : Ctx) (r : Record) : Nat := r.frame - s.descField c 176

/-- Whether a record starts a block afresh: START or RELAUNCH (R32). -/
def Record.fresh (r : Record) : Bool := r.kind == 0 || r.kind == 5

/-- Whether the FRAME of a START or RELAUNCH record lies in the context's grid table. -/
def State.inTable (s : State) (c : Ctx) (r : Record) : Bool :=
  decide (s.descField c 176 ≤ r.frame) && decide (s.recordEntry c r < 256)

/-- Whether a record breaks R328 against the grid entry that it names. -/
def Record.entryBad (r : Record) (b : List Byte) : Bool :=
  let p := packetOf (b.take 64)
  !(entryState b == 2 || entryState b == 3) || decide (p.blocks ≤ r.code % 2 ^ 48) || decide (p.replicas ≤ bitsOf r.code 49 48) ||
    r.span / 4 != p.span - 1 || decide (p.span ≤ r.span % 4)

/-- Whether a record is malformed (R32, R328). -/
def State.recordBad {α : Type} (s : State) (core : Nat) (c : Ctx) (r : Record) (k : Bool → State → Act α) : Act α :=
  if decide (5 < r.kind) || decide (2 < r.acls) || r.res != 0 || (r.fresh && !s.inTable c r) then k true s
  else if r.fresh then s.gridGet core c (s.recordEntry c r) fun b s => k (r.entryBad b) s
  else k false s

/-- The first malformed record of a list. -/
def State.firstBad {α : Type} (core : Nat) (c : Ctx) : List Ready → State → (Option Ready → State → Act α) → Act α
  | [], s, k => k none s
  | x :: xs, s, k => s.recordBad core c (recordOf x.2) fun bad s => if bad then k (some x) s else State.firstBad core c xs s k

/-- A malformed record is popped, and the context is faulted (R328). -/
def State.dropRecord (s : State) (core : Nat) (c : Ctx) (x : Ready) : Acted :=
  s.takeReady core c [x] fun s => .ok (s.faultCtx c.id .malformedRecord (ensignSrc core) (natLe 16 x.1))

/-- What a context offers the Ensign of a core (R323): the record at the head of its ready queue, and its READY grids. -/
def State.offers (s : State) (core : Nat) (c : Ctx) : Act (List Cand × State) :=
  s.readyList core c 1 fun rs s => State.gridsIn core c (· == 2) (List.range 256) [] s fun gs s =>
    let open_ := gs.filter fun g => decide (entryTicket g.2 < (packetOf (g.2.take 64)).blocks)
    .ok (rs.map (fun r => ⟨c.id, (recordOf r.2).prio, (recordOf r.2).enq, .record r⟩) ++
      open_.map (fun g => ⟨c.id, c.prio, field g.2 96 8, .grid g.1 g.2⟩), s)

/-- What contexts offer, one after another: one whose queue state cannot be read becomes faulted and offers nothing (R328). -/
def State.look (core : Nat) : List Nat → State → List Cand × State
  | [], s => ([], s)
  | n :: ns, s =>
    match s.ctx? n with
    | none => State.look core ns s
    | some c =>
      match s.offers core c with
      | .ok (xs, s) =>
        let (ys, s) := State.look core ns s
        (xs ++ ys, s)
      | .stall => State.look core ns s
      | .ask va use => State.look core ns (s.acted core n (.ask va use))
      | .fault va => State.look core ns (s.acted core n (.fault va))

/-- The contexts whose work the Ensign of a core may admit. -/
def State.mine (s : State) (core : Nat) : List Nat := (s.ctxs.filter (s.admits core)).map (·.id)

/-- The candidates of a core, in order (R323): spans only for the core 0 of a cluster. -/
def State.candidatesOf (s : State) (core : Nat) : List Cand × State :=
  let (xs, t) := State.look core (s.mine core) s
  ((xs.filter fun x => core % 4 == 0 || !x.isSpan).foldl (fun l x => insertCand t.time.toNat x l) [], t)

/-! ### Admission -/

/-- Starts the blocks of one span, or one block, on cores (R325). -/
def State.startOn (s : State) (core : Nat) (c : Ctx) (p : Packet) (entry handle : Nat) (bs : List (Block × Nat)) : Acted :=
  s.argBlock core c p fun a s =>
    match a with
    | none => .fault p.argp
    | some a =>
      let span := s.nextId
      let s : State := { s with nextId := s.nextId + 1 }
      .ok (bs.foldl (fun s x => s.startBlock x.1 x.2 span p.entry (argsOf a) (BitVec.ofNat 32 (handle % 2 ^ 24 * 256 + entry))) s)

/-- The START record of a block (R325). -/
def State.startRecord (s : State) (core : Nat) (c : Ctx) (b : Block) (kind : Nat) : Record :=
  { source := s.pairNumber (ensignSrc core)
    enq := s.time.toNat
    kind := kind
    span := b.spanField
    acls := if 1 < b.spanSize then 2 else 0
    prio := c.prio
    ctx := c.id
    join := 0
    frame := s.descField c 176 + b.entry
    code := b.linear + 2 ^ 48 * b.replica
    res := 0 }

/-- Where blocks that come together go, when they fit: one onto the core itself, those of a span onto distinct cores of its
cluster that are in the context's core mask (R29, R30, R33). -/
def State.placeClaim (s : State) (core : Nat) (c : Ctx) (bs : List (Block × Need × Nat)) : Option (List Nat) :=
  match bs with
  | [(b, need, cube)] => if s.fits b core need cube then some [core] else none
  | _ => s.placeSpan bs ((clusterCores core).filter c.coremask.getLsbD)

/-- Claims a span's blocks from a READY grid, when they fit (R325, R362). -/
def State.admitGrid (s : State) (core : Nat) (c : Ctx) (e : Nat) (b : List Byte) : Act (Option State) :=
  let p := packetOf (b.take 64)
  let t := entryTicket b
  let blocks (replica : Nat) : List Block :=
    (List.range p.span).map fun r => { p.block (s.entryWidth c e b) c.id e (t + r) replica with id := s.nextId }
  match s.placeClaim core c ((blocks 0).map fun x => (x, x.needUnder (if 1 < p.span then 2 else 0) none, 0)) with
  | none => .ok none
  | some cores =>
    Act.bind (s.gridPut core c e 64 (natLe 8 (t + p.span)) fun s =>
      s.gridPut core c e 80 (entrySj 0 0 (if t + p.span < p.blocks then 2 else 3)) fun s =>
        s.startOn core c p e (entryGen b) (List.zip (blocks 0) cores)) fun s =>
      let others := (List.range (p.replicas - 1)).flatMap fun r => blocks (r + 1)
      .ok (some (others.foldl (fun s x => s.pushReady core c ((s.startRecord core c x 0).bytes)) s))

/-- The block that a record would make resident with its class, the frame bytes of a saved one, and what lies aside. -/
structure Incoming where
  block : Block
  acls : Nat
  frame : Option (List Byte)
  aside : Option Aside
  deriving DecidableEq, Repr

/-- What an incoming block needs on a core: granules, cube slots. -/
def Incoming.needs (x : Incoming) : Block × Need × Nat :=
  (x.block, x.block.needUnder x.acls (x.frame.map frameHead), match x.frame with | some b => (frameHead b).locals.length | none => 0)

/-- The frame at an address, as many bytes as its TOTAL says. -/
def State.readFrame {α : Type} (s : State) (core : Nat) (c : Ctx) (va : VAddr) (k : List Byte → State → Act α) : Act α :=
  s.ctxGet core c va 2752 fun head s =>
    let total := (frameHead head).total
    if total < 2752 ∨ s.frameSize c < total then k head s else s.ctxGet core c va total k

/-- What a well-formed record brings; none when its frame names no block. -/
def State.incoming {α : Type} (s : State) (core : Nat) (c : Ctx) (r : Record) (k : Option Incoming → State → Act α) : Act α :=
  if r.fresh then
    let e := s.recordEntry c r
    s.gridGet core c e fun b s =>
      let x := (packetOf (b.take 64)).block (s.entryWidth c e b) c.id e (r.code % 2 ^ 48) (bitsOf r.code 49 48)
      k (some ⟨{ x with id := s.nextId }, r.acls, none, none⟩) s
  else s.readFrame core c r.frameVa fun bytes s => (s.blockOfFrame core c r.frameVa r bytes).bind fun x =>
    k (x.1.map fun y => ⟨y.1, r.acls, some bytes, y.2⟩) x.2

/-- Puts one incoming block on a core. -/
def State.bring (s : State) (core : Nat) (c : Ctx) (on span : Nat) (x : Incoming) : Act Restored :=
  match x.frame with
  | some bytes => .ok (s.restoreBlock on x.block x.aside x.acls span bytes)
  | none => s.gridGet core c x.block.entry fun b s =>
    let p := packetOf (b.take 64)
    s.argBlock core c p fun a s =>
      match a with
      | none => .fault p.argp
      | some a =>
        .ok (.ok (s.startBlock x.block on span p.entry (argsOf a) (BitVec.ofNat 32 (entryGen b * 256 + x.block.entry))))

/-- How the blocks of some records come: all of them, none for want of room, or not, since the frame of one is malformed. -/
inductive Brought where
  | ok (s : State)
  | noRoom
  | malformed (r : Ready)
  deriving Repr

/-- Brings blocks to cores, one after another. -/
def State.bringAll (core : Nat) (c : Ctx) (span : Nat) : List ((Ready × Incoming) × Nat) → State → Act Brought
  | [], s => .ok (.ok s)
  | x :: xs, s => (s.bring core c x.2 span x.1.2).bind fun r =>
    match r with
    | .ok s => State.bringAll core c span xs s
    | .noRoom => .ok .noRoom
    | .malformed => .ok (.malformed x.1.1)

/-- Whether two incoming blocks belong to one span: replicas apart, the same run of blocks or the same span when saved.  Blocks
that another die saved are told apart by their grid alone (log 16). -/
def Incoming.sameSpan (x y : Incoming) : Bool :=
  x.block.entry == y.block.entry && x.block.spanSize == y.block.spanSize && x.frame.isSome == y.frame.isSome &&
    x.aside.isSome == y.aside.isSome &&
    (if x.frame.isNone then x.block.replica == y.block.replica && x.block.linear / x.block.spanSize == y.block.linear / x.block.spanSize
     else x.aside.isNone || (x.block.replica == y.block.replica && x.block.span == y.block.span))

/-- A block of the same span as another, when another die saved them: of the same run of blocks and the same replica. -/
def Incoming.alongside (x y : Incoming) : Incoming :=
  if y.frame.isNone || y.aside.isSome then y
  else { y with block := { y.block with
    linear := x.block.spanSize * (x.block.linear / x.block.spanSize) + y.block.spanRank
    replica := x.block.replica } }

/-- The records of a list that bring blocks of an incoming block's span. -/
def State.kin {α : Type} (core : Nat) (c : Ctx) (x : Incoming) :
    List Ready → List (Ready × Incoming) → State → (List (Ready × Incoming) → State → Act α) → Act α
  | [], found, s, k => k found s
  | y :: ys, found, s, k =>
    let r := recordOf y.2
    if r.span / 4 ≠ x.block.spanSize - 1 ∨ (r.fresh && !s.inTable c r) = true then State.kin core c x ys found s k
    else s.incoming core c r fun z s =>
      match z with
      | some z => State.kin core c x ys (if x.sameSpan z then found ++ [(y, z)] else found) s k
      | none => State.kin core c x ys found s k

/-- The records that come together with one: itself, or the ready records of its whole span; none while one of them is not
ready (R33, R35). -/
def State.companions {α : Type} (s : State) (core : Nat) (c : Ctx) (b : Ready) (x : Incoming)
    (k : Option (List (Ready × Incoming)) → State → Act α) : Act α :=
  if x.block.spanSize ≤ 1 then k (some [(b, x)]) s
  else s.readyList core c 65536 fun all s => State.kin core c x all [] s fun found s =>
    let ranks := (List.range x.block.spanSize).filterMap fun r => found.find? fun y => (recordOf y.1.2).span % 4 == r
    k (if ranks.length = x.block.spanSize then some (ranks.map fun y => (y.1, x.alongside y.2)) else none) s

/-- A record whose frame is malformed is popped, and the context is faulted, with the frame's address (R352). -/
def State.dropFrame (s : State) (core : Nat) (c : Ctx) (x : Ready) : Acted :=
  s.takeReady core c [x] fun s =>
    .ok (s.faultCtx c.id .malformedFrame (ensignSrc core) (natLe 16 (recordOf x.2).frameVa.toNat))

/-- Brings the blocks of some records, when they fit, pops the records and gives their frames back to the pool (R33, R326). -/
def State.admitAll (s : State) (core : Nat) (c : Ctx) (ys : List (Ready × Incoming)) : Act (Option State) :=
  match s.placeClaim core c (ys.map (·.2.needs)) with
  | none => .ok none
  | some ks => (State.bringAll core c s.nextId (List.zip ys ks) { s with nextId := s.nextId + 1 }).bind fun r =>
    match r with
    | .noRoom => .ok none
    | .malformed x => (s.dropFrame core c x).bind fun s => .ok (some s)
    | .ok t => Act.bind (t.takeReady core c (ys.map (·.1)) .ok) fun t =>
      .ok (some ((ys.filter (·.2.frame.isSome)).foldl (fun t y => t.returnFrame core c (recordOf y.1.2).frameVa) t))

/-- Admits the record at the head of the ready queue with the others of its span, when its class fits (R33, R34); a malformed
record or frame among them is dropped (R328, R352). -/
def State.admitRecord (s : State) (core : Nat) (c : Ctx) (b : Ready) : Act (Option State) :=
  s.incoming core c (recordOf b.2) fun x s =>
    match x with
    | none => (s.dropFrame core c b).bind fun s => .ok (some s)
    | some x => s.companions core c b x fun ys s =>
      match ys with
      | none => .ok none
      | some ys => State.firstBad core c (ys.map (·.1)) s fun bad s =>
        match bad with
        | some y => (s.dropRecord core c y).bind fun s => .ok (some s)
        | none => s.admitAll core c ys

/-- Admits a candidate, when it fits: whether it did, and the state. -/
def State.admitBlock (s : State) (core : Nat) (x : Cand) : Bool × State :=
  match s.ctx? x.ctx with
  | none => (false, s)
  | some c =>
    if !s.admits core c then (false, s)
    else
      match (match x.what with | .grid e b => s.admitGrid core c e b | .record b => s.admitRecord core c b) with
      | .ok (some t) => (true, t)
      | .ok none => (false, s)
      | .stall => (false, s)
      | .ask va use => (false, s.acted core c.id (.ask va use))
      | .fault va => (false, s.acted core c.id (.fault va))

/-- Admits the first of a list that fits. -/
def State.admitAny (core : Nat) : List Cand → State → State
  | [], s => s
  | x :: xs, s =>
    match s.admitBlock core x with
    | (true, s) => s
    | (false, s) => State.admitAny core xs s

/-! ### Evaluation (R324) -/

/-- Accepts launch packets until none can be accepted. -/
def State.acceptAll (core ctx : Nat) : Nat → State → State
  | 0, s => s
  | n + 1, s =>
    match s.ctx? ctx with
    | none => s
    | some c =>
      match s.acceptLaunch core c with
      | .ok s => State.acceptAll core ctx n s
      | a => s.acted core ctx a

/-- Ready graph nodes of a context take grid entries. -/
def State.startNodes (core ctx : Nat) : List (Nat × Nat × Nat) → State → State
  | [], s => s
  | (_, i, n) :: rest, s =>
    match s.ctx? ctx with
    | none => s
    | some c => State.startNodes core ctx rest (s.acted core ctx (s.startNode core c i n))

/-- A malformed record at the head of the ready queue is dropped (R328). -/
def State.dropBadHead (s : State) (core : Nat) (c : Ctx) : Acted :=
  s.readyList core c 1 fun rs s => State.firstBad core c rs s fun bad s =>
    match bad with
    | some x => s.dropRecord core c x
    | none => .ok s

/-- Whether some hoist of a block waits on a condition monitor or at a release point (R34, 21_reliability.md R367). -/
def State.hasMonitorWait (s : State) (b : Block) : Bool :=
  (s.hoistsOf b.id).any fun h => h.regs.groups.any fun g => g.wait == .monitor || g.wait == .release

/-- Whether no hoist of a block can issue. -/
def State.blocked (s : State) (b : Block) : Bool :=
  (s.hoistsOf b.id).all fun h => h.regs.groups.all fun g => g.stopped s.clock || g.wait == .retry || h.groupSlices g.id == []

/-- Whether a block waits so that it may become a parked record (R34, R35). -/
def State.waitsIdle (s : State) (b : Block) : Bool :=
  let bs := s.spanBlocks b.span
  bs.all (fun x => x.residency == .running) && bs.any s.hasMonitorWait && (bs.length ≤ 1 || bs.all s.blocked)

/-- Whether a block may become a parked record (R34, R35), and the pool has frames for it (R326). -/
def State.mayPark (s : State) (b : Block) : Bool :=
  let bs := s.spanBlocks b.span
  s.waitsIdle b &&
    match s.ctx? b.ctx with
    | some c => s.poolHas b.core c bs
    | none => false

/-- Whether another core can admit a candidate now. -/
def State.elsewhere (s : State) (core : Nat) (x : Cand) : Bool :=
  match s.ctx? x.ctx with
  | some c => (List.range s.die.cores).any fun k => k != core && s.admits k c && (k % 4 == 0 || !x.isSpan) && (s.admitBlock k x).1
  | none => false

/-- A block that makes room for a waiting candidate, on a core where the candidate could go: it waits on a monitor and its
priority is no higher, and no other core can take the candidate (R34). -/
def State.parkFor (s : State) (core : Nat) (x : Cand) : State :=
  let p := effective s.time.toNat x.prio x.since
  let cores := if x.isSpan then clusterCores core else [core]
  let idle := s.blocks.filter fun b => cores.contains b.core && s.waitsIdle b && s.blocked b &&
      (match s.ctx? b.ctx with | some c => decide (c.prio ≤ p) | none => false)
  if idle.isEmpty || s.elsewhere core x then s
  else
    match idle.find? s.mayPark with
    | some b => { s with agenda := s.agenda ++ [.event (.blockPark b.id)] }
    | none => idle.foldl (fun s b => match s.ctx? b.ctx with
        | some c => s.lookPool b.core c (s.spanBlocks b.span)
        | none => s) s

/-- Whether a candidate that a core holds admission for cannot be seen now: a generation of its context is in the making
(25_docking.md R419), or a page of its queues or its grid table is on its way.  It is held for all the same (R324). -/
def State.hidden (s : State) (core : Nat) (h : Candidate) : Bool :=
  match s.ctx? h.ctx with
  | none => false
  | some c => h.holding && c.coremask.getLsbD core && !c.faulted && !c.destroying &&
      (!s.issues c.id || match s.offers core c with
        | .stall => true
        | .ask _ _ => true
        | _ => false)

/-- The candidate that a core holds admission for, while it is one (R324). -/
def State.heldFor (s : State) (core : Nat) (xs : List Cand) : Option Cand :=
  match s.candidates.find? (·.core == core) with
  | some h => if h.holding then xs.find? fun y => y.ctx == h.ctx && y.key == h.key else none
  | none => none

/-- Since when a candidate has been the first of a core (R324). -/
def State.firstSince (s : State) (core : Nat) (x : Cand) : Nat :=
  match s.candidates.find? (·.core == core) with
  | some h => if h.ctx = x.ctx ∧ h.key = x.key then h.since else s.time.toNat
  | none => s.time.toNat

/-- A core has no first candidate that waits. -/
def State.noFirst (s : State) (core : Nat) : State := { s with candidates := s.candidates.filter (·.core != core) }

/-- What an Ensign admits of its candidates (R324): the one that it holds admission for, and no other; else the first that
fits. -/
def State.evaluateCands (s : State) (core : Nat) (xs : List Cand) : State :=
  match s.heldFor core xs with
  | some y =>
    match s.admitBlock core y with
    | (true, s) => s.noFirst core
    | (false, s) => s.parkFor core y
  | none =>
    if s.candidates.any fun h => h.core == core && s.hidden core h then s
    else
      match xs with
      | [] => s.noFirst core
      | x :: rest =>
        match s.admitBlock core x with
        | (true, s) => s.noFirst core
        | (false, t) =>
          let t : State := { t with candidates := ⟨core, x.ctx, x.key, s.firstSince core x, false⟩ :: t.candidates.filter (·.core != core) }
          State.admitAny core rest (t.parkFor core x)

/-- The contexts whose ready nodes take grid entries at the Ensign of a core: those that it admits from, and at core 0 those whose
mask holds no core, since an empty mask holds back records and tickets only (R322, R330; log 17). -/
def State.nodesOf (s : State) (core : Nat) : List Nat :=
  (s.ctxs.filter fun c => s.admits core c || (c.coremask == 0 && s.admits core { c with coremask := BitVec.twoPow 192 0 })).map (·.id)

/-- What an Ensign does before it looks for candidates: pushes that wait, graph nodes that are ready, launches, a malformed
record at the head of a ready queue. -/
def State.prepare (s : State) (core : Nat) : State :=
  let s := s.retryPushes core
  let s := (s.nodesOf core).foldl (fun s n => State.startNodes core n (s.nodes.filter (·.1 == n)) s) s
  let s := (s.mine core).foldl (fun s n => State.acceptAll core n 64 s) s
  (s.mine core).foldl (fun s n => match s.ctx? n with | some c => s.acted core n (s.dropBadHead core c) | none => s) s

/-- ENSIGN_EVALUATION (R324). -/
def State.evaluate (s : State) (core : Nat) : State :=
  let (xs, s) := (s.prepare core).candidatesOf core
  s.evaluateCands core xs

/-- ENSIGN_EVALUATION. -/
def execEnsignEvaluation (core : Nat) (s : State) : Host.Outcome State Fault Refusal :=
  let t := s.evaluate core
  .next { t with sweep := if t.nextId = s.nextId then core + 1 else core }

/-- ADMISSION_HOLD (R324): a first candidate that has not fitted for 1 ms. -/
def execAdmissionHold (core : Nat) (s : State) : Host.Outcome State Fault Refusal :=
  .next { s with candidates := s.candidates.map fun x =>
    if x.core == core && decide (x.since + 1200000 ≤ s.time.toNat) then { x with holding := true } else x }

/-! ### Retirement (R31, R110, R325, R362) -/

/-- A block is done: DONEB counts it, once its last replica has retired, and a drained grid ends. -/
def State.countDone (s : State) (b : Block) : Acted :=
  let key := (b.ctx, b.entry, b.linear)
  if 1 < b.replicas ∧ (s.retiredReplicas.filter (· == key)).length + 1 < b.replicas then
    .ok { s with retiredReplicas := key :: s.retiredReplicas }
  else
    let s : State := { s with
      retiredReplicas := s.retiredReplicas.filter (· != key)
      mail := s.mail.filter (·.block != key) }
    match s.ctx? b.ctx with
    | none => .ok s
    | some c => s.gridGet b.core c b.entry fun e s =>
      let n := entryDone e + 1
      s.gridPut b.core c b.entry 72 (natLe 8 n) fun s =>
        if entryState e = 3 ∧ n = (packetOf (e.take 64)).blocks then
          s.endEntry b.core c b.entry (entryJoin e) (entryStatus e) .ok
        else .ok s

/-- The last hoist of a block has retired: the block is counted, and leaves; while its grid's page is on its way the retirement
waits in the state `before`. -/
def State.finish (s before : State) (b : Block) : State :=
  match s.countDone b with
  | .ok t => t.removeBlock b.id
  | .fault va => (s.acted b.core b.ctx (.fault va)).removeBlock b.id
  | a => before.acted b.core b.ctx a

/-- HOIST_RETIRE (R110): the last hoist of a block frees the block's room. -/
def State.retire (s : State) (src : Nat) : State :=
  match s.hoist? src with
  | none => s
  | some h =>
    if !s.canRetire h then s
    else
      let t := s.putHoist { h with retired := true, gate := false, wbuf := [], snapshot := none }
      let t : State := { t with monitors := t.monitors.filter fun m => m.src != src || m.parked.isSome }
      match t.block? h.block with
      | none => t
      | some b => if t.hoistsOf b.id = [] then t.finish s b else t

/-- HOIST_RETIRE. -/
def execHoistRetire (src : Nat) (s : State) : Host.Outcome State Fault Refusal := .next (s.retire src)

/-! ### Kills (15_cube.md R302) -/

/-- The first virtual address of an SLLD or SLST that its engine cannot reach, and the address of its word; none when it
meets no fault now. -/
def State.killAddress (s : State) (f : Flight) : Option (VAddr × VAddr) :=
  let c := s.flightCtx f
  let bad (win : AReg) (use : PageUse) (p : Int × Nat) : Bool :=
    match s.range (s.engine f) c use win.rights (win.address p.1) 16 with
    | (.error x, _) => !x.stall
    | (.ok rs, s) => use == .load && s.runsPoisoned rs
  let segBad (win : AReg) (p : Int × Nat) : Bool :=
    ((s.block? f.block).getD Block.none).poison.any fun k => k / 4 == ((win.base.toNat : Int) + p.1).toNat / 16
  match f.work with
  | .fill _ win off pitch pc =>
    ((slotPieces win off pitch).find? (if win.has permSCR then segBad win else bad win .load)).map fun p => (win.address p.1, pc)
  | .slotStore _ win off pitch pc =>
    if win.has permSCR then none else ((slotPieces win off pitch).find? (bad win .store)).map fun p => (win.address p.1, pc)
  | .killed va pc => some (va, pc)
  | _ => none

/-- Whether a copy of a span's blocks is still in flight. -/
def State.spanCopies (s : State) (bs : List Block) : Bool :=
  s.flights.any fun f => bs.any (·.id == f.block) && match f.work with | .copy _ => true | _ => false

/-- What the cube engine loses when blocks are killed: their entries of the reservation table, fills, slot stores, promotions and
tile moves (R302 item 2). -/
def Work.dropped : Work → Bool
  | .fill _ _ _ _ _ => true
  | .slotStore _ _ _ _ _ => true
  | .slotRelease _ => true
  | .pass _ => true
  | .promote _ => true
  | .tileRead _ _ _ _ _ => true
  | .tileWrite _ _ _ => true
  | _ => false

/-- A kill begins: the blocks of the span stop, and their cube work is dropped, but for the work that names the kill. -/
def State.beginKill (s : State) (f : Flight) (b : Block) (va pc : VAddr) : State :=
  let bs := s.spanBlocks b.span
  let s := (s.stopSpan b.span 5).updFlight f.id fun _ => .killed va pc
  { s with flights := s.flights.filter fun x => !(bs.any (·.id == x.block) && x.work.dropped) }

/-- BLOCK_KILL (R302): an SLLD or SLST that meets a fault kills the blocks of its span; once their copies have completed each
becomes a RELAUNCH record. -/
def State.kill (s : State) (n : Nat) : State :=
  match s.flight? n with
  | none => s
  | some f =>
    match s.killAddress f, s.block? f.block, s.ctx? f.ctx with
    | some (va, pc), some b, some c =>
      if !s.enabled f then s
      else
        let s := s.beginKill f b va pc
        let bs := s.spanBlocks b.span
        let s := s.settle fun x => bs.any (·.id == x.block) && match x.work with | .copy _ => true | _ => false
        if s.spanCopies bs then s
        else
          bs.foldl (fun s x =>
            let s := s.removeBlock x.id
            let s := s.pushReady b.core c (s.startRecord b.core c x 5).bytes
            s.logEvent 3 (0x3040 + b.core / 4) (some c.id) 0 (natLe 8 va.toNat ++ natLe 8 pc.toNat)) s
    | _, _, _ => s

/-- BLOCK_KILL. -/
def execBlockKill (flight : Nat) (s : State) : Host.Outcome State Fault Refusal := .next (s.kill flight)

/-- A kill whose copies have completed. -/
def State.nextKill (s : State) : Option Nat :=
  (s.flights.find? fun (f : Flight) => match f.work, s.block? f.block with
    | .killed _ _, some b => !s.spanCopies (s.spanBlocks b.span)
    | _, _ => false).map (·.id)

/-! ### Parking and saving -/

/-- BLOCK_PARK (R34, R35): the block stops, to be saved as a MONITOR record. -/
def execBlockPark (block : Nat) (s : State) : Host.Outcome State Fault Refusal :=
  .next (match s.block? block with
    | some b => if s.mayPark b then (s.stopSpan b.span 1).saveSpan block else s
    | none => s)

/-- PREEMPT_SAVE (R329, R330): a block that must leave stops; a stopped one is saved once its work has drained and a frame is
there. -/
def execPreemptSave (block : Nat) (s : State) : Host.Outcome State Fault Refusal := .next ((s.stopLeaving block).saveSpan block)

/-- COREMASK_COMMIT (R329). -/
def execCoremaskCommit (ctx : Nat) (mask : BitVec 192) (s : State) : Host.Outcome State Fault Refusal :=
  .next (match s.ctx? ctx with | some c => (s.agentWrite ctx (c.dpa + 136) (natLe 24 mask.toNat)).commitMask ctx mask | none => s)

/-- The core where the block of a parked record parked; of a record that another die parked none is known here, and the first
Ensign of the context acts (R327; log 17). -/
def State.parkCore (s : State) (c : Ctx) (frame : VAddr) : Nat :=
  match s.aside.find? fun x => x.frame == frame && x.block.ctx == c.id with
  | some x => x.block.core
  | none => c.firstCore

/-- One wait of a parked record less: the Ensign of a core reads the record, lowers JOIN, and pushes it when it is ready (R327). -/
def State.lowerJoin (s : State) (core : Nat) (c : Ctx) (frame : VAddr) : Acted :=
  s.ctxGet core c frame 32 fun b s =>
    let r := recordOf b
    if r.join = 0 then .ok s
    else
      let r := { r with join := r.join - 1, enq := if r.join = 1 then s.time.toNat else r.enq }
      s.ctxPut core c frame r.bytes fun s => .ok (if r.join = 0 then s.pushReady core c r.bytes else s)

/-- JOIN_DECREMENT (R327). -/
def execJoinDecrement (ctx : Nat) (frame : BitVec 72) (s : State) : Host.Outcome State Fault Refusal :=
  .next (match s.ctx? ctx with
    | some c => s.onEventAt (s.parkCore c frame) ctx (.joinDecrement ctx frame) fun c => s.lowerJoin (s.parkCore c frame) c frame
    | none => s)

/-! ### Translation requests (R347, R348) -/

/-- The 32 bytes of a translation request (R347). -/
def State.requestBytes (s : State) (t : Token) : List Byte :=
  natLe 9 t.va.toNat ++ natLe 1 t.kind ++ natLe 1 t.ctx ++ zeros 1 ++ natLe 2 t.id ++ zeros 2 ++ natLe 8 s.time.toNat ++ zeros 8

/-- Appends a request to the host fault ring and signals the host; while the ring is full it waits. -/
def State.sendRequest (s : State) (t : Token) : State :=
  let ring := s.host.flring.toNat
  let depth := s.host.fldepth.toNat
  if t.requested || !s.ringRoom ring depth then s
  else
    let s := (s.ringAppend ring depth (s.requestBytes t)).raiseMsi 33
    { s with tokens := s.tokens.map fun x => if x.id == t.id then { x with requested := true } else x }

/-- The running blocks whose hoists wait in place on a request. -/
def State.waitingOn (s : State) (t : Token) : List Block :=
  s.blocks.filter fun b => b.residency == .running && (s.hoistsOf b.id).any fun h => t.hoists.contains h.src

/-- The blocks whose hoists wait in place on a request stop, to be saved as XLATE records, when the pool has frames (R326). -/
def State.parkFaulting (s : State) (t : Token) : State :=
  (s.waitingOn t).foldl (fun s b =>
    match s.ctx? b.ctx with
    | some c =>
      let bs := s.spanBlocks b.span
      if s.poolHas b.core c bs then (s.stopSpan b.span 3).saveSpan b.id else s.lookPool b.core c bs
    | none => s) s

/-- The requests that can move on: they wait for room in the ring, or their hoists wait for a frame that has come back (R326). -/
def State.movable (s : State) : List Nat :=
  (s.tokens.filter fun t => (!t.requested && s.ringRoom s.host.flring.toNat s.host.fldepth.toNat) ||
    (s.waitingOn t).any fun b =>
      match s.ctx? b.ctx with
      | some c => s.poolMoves b.core c (s.spanBlocks b.span)
      | none => false).map (·.id)

/-- Marks one hoist refused in a frame (R348, R350). -/
def State.markOne (s : State) (core : Nat) (c : Ctx) (frame : VAddr) (h : Nat) : Acted :=
  s.ctxGet core c (frame + BitVec.ofNat 72 (128 + 4 * h)) 4 fun o s =>
    let at_ := frame + BitVec.ofNat 72 (leNat o + 3)
    s.ctxGet core c at_ 1 fun b s => s.ctxPut core c at_ (natLe 1 (leNat b - bitAt ((leNat b).testBit 5) 5 + 32)) .ok

/-- Marks hoists refused, each in its frame; a frame that cannot be reached faults the context (R328). -/
def State.markRefused (core : Nat) (c : Ctx) : List (VAddr × Nat) → State → (State → Acted) → Acted
  | [], s, k => k s
  | x :: xs, s, k =>
    match s.markOne core c x.1 x.2 with
    | .ok s => State.markRefused core c xs s k
    | .fault va => State.markRefused core c xs (s.acted core c.id (.fault va)) k
    | a => a

/-- Ends a token: hoists in place are released, copies go on or fail, records' JOINs drop (R348). -/
def State.endToken (s : State) (t : Token) (refuse : Bool) : State :=
  let s : State := { s with tokens := s.tokens.filter (·.id != t.id) }
  let s := t.hoists.foldl (fun s src => s.updHoist src fun h =>
    { h with regs := { h.regs with groups := h.regs.groups.map fun g =>
        if g.wait = (.token t.id) then { g with wait := .running, refused := refuse || g.refused } else g } }) s
  let s : State := { s with blocks := s.blocks.map fun b =>
    if b.residency == .stopping 3 && !(s.hoistsOf b.id).any (fun h => s.tokens.any fun x => x.hoists.contains h.src) then
      { b with residency := s.runsOn b.ctx }
    else b }
  let s := t.copies.foldl (fun s x => match s.flight? x.1 with
    | some f =>
      match f.work with
      | .copy j =>
        if refuse then s.failCopy f j ⟨.xlate, 2, 0, x.2, false, false⟩
        else s.updFlight x.1 fun w => match w with | .copy j => .copy { j with token := none } | w => w
      | _ => s
    | none => s) s
  { s with agenda := s.agenda ++ t.records.map fun r => .event (.joinDecrement t.ctx r.1) }

/-- A refused token ends once the hoists of its parked records are marked, each in its frame (R348). -/
def State.endRefused (s : State) (core : Nat) (c : Ctx) (t : Token) : Acted :=
  State.markRefused core c (t.records.flatMap fun r => r.2.map fun h => (r.1, h)) s fun s => .ok (s.endToken t true)

/-- The host refuses a token: once every frame is marked, it ends. -/
def State.refuse (s : State) (t : Token) : State :=
  let s : State := { s with tokens := s.tokens.map fun x => if x.id == t.id then { x with refused := true } else x }
  s.onEvent t.ctx (.translationRequest t.id) fun core c => s.endRefused core c t

/-- TRANSLATION_REQUEST (R347): the request is sent and its blocks are parked; one that the host has refused already is brought
to its end. -/
def execTranslationRequest (token : Nat) (s : State) : Host.Outcome State Fault Refusal :=
  .next (match s.tokens.find? (·.id == token) with
    | some t => if t.refused then s.refuse t else (s.sendRequest t).parkFaulting t
    | none => s)

/-- A write of the host that is ignored, with its record (R307, R348, R372). -/
def State.ignoreWrite (s : State) (v n : Nat) : State := s.logEvent 9 0x3210 none 0 (natLe n v)

/-- A write of the resolve register (R348). -/
def State.resolveWrite (s : State) (ctx token outcome : Nat) : State :=
  if s.host.enable = false then s
  else
    match s.tokens.find? fun t => t.id == token && t.ctx == ctx with
    | some t => if outcome = 1 then s.refuse t else s.endToken t false
    | none => s.ignoreWrite (outcome * 2 ^ 22 + ctx * 65536 + token) 8

/-- RESOLVE_RETRY. -/
def execResolveRetry (ctx : BitVec 6) (token : BitVec 16) (s : State) : Host.Outcome State Fault Refusal :=
  .next (s.resolveWrite ctx.toNat token.toNat 0)

/-- RESOLVE_REFUSE. -/
def execResolveRefuse (ctx : BitVec 6) (token : BitVec 16) (s : State) : Host.Outcome State Fault Refusal :=
  .next (s.resolveWrite ctx.toNat token.toNat 1)

end Sys2Proof.Machine
end

