-- ==== Sys2Proof/Machine/Events.lean ====
section
/-!
DEFINITION. Events of the units inside the die: work that completes, passes granted, elements and fragments moved, lines
that migrate, merges at REGANG and VREGRP, hoists lost, and the vote of replicas (05_control.md R109, 07_lanes.md R158,
09_memory.md R165, R173, R190, R194, R201, 11_ordering.md R235, R239, 15_cube.md R286–R301, 21_reliability.md R361,
R368, R369, 23_rendering.md R382–R388, 27_host.md R427).
-/

namespace Sys2Proof.Machine

/-! ### Work that completes -/

/-- A piece of work of a kind completes when nothing earlier holds it back. -/
def State.completeWhen (s : State) (n : Nat) (kind : Work → Bool) : State :=
  match s.flight? n with
  | some f => if kind f.work && s.enabled f then s.completeFlight f else s
  | none => s

/-- Whether work's data comes back to a register under cnt.g or cnt.s (R173, 07_lanes.md R145, R230). -/
def Work.returns : Work → Bool
  | .load _ _ _ => true
  | .perm _ _ => true
  | .atomic _ _ (some _) _ _ _ _ => true
  | _ => false

/-- LOAD_DATA_RETURN (R173). -/
def execLoadDataReturn (flight : Nat) (s : State) : Host.Outcome State Fault Refusal :=
  .next (s.completeWhen flight Work.returns)

/-- WRITE_PERFORMED (03_encoding.md R72): a store, or an atomic that returns nothing. -/
def execWritePerformed (flight : Nat) (s : State) : Host.Outcome State Fault Refusal :=
  .next (s.completeWhen flight fun w => match w with
    | .store _ _ => true
    | .atomic _ _ none _ _ _ _ => true
    | _ => false)

/-- COPY_COMPLETE (R190): what is left of the copy moves, and it leaves the in-flight count. -/
def execCopyComplete (flight : Nat) (s : State) : Host.Outcome State Fault Refusal :=
  .next (s.completeWhen flight fun w => match w with | .copy _ => true | _ => false)

/-- SLOT_RELEASE (R292). -/
def execSlotRelease (flight : Nat) (s : State) : Host.Outcome State Fault Refusal :=
  .next (s.completeWhen flight fun w => match w with | .slotRelease _ => true | _ => false)

/-- SLOT_FILL_COMPLETE (R294). -/
def execSlotFillComplete (flight : Nat) (s : State) : Host.Outcome State Fault Refusal :=
  .next (s.completeWhen flight fun w => match w with | .fill _ _ _ _ _ => true | _ => false)

/-- SLOT_STORE_COMPLETE (R294). -/
def execSlotStoreComplete (flight : Nat) (s : State) : Host.Outcome State Fault Refusal :=
  .next (s.completeWhen flight fun w => match w with | .slotStore _ _ _ _ _ => true | _ => false)

/-- PASS_COMPLETE (R286): a pass that has been granted. -/
def execPassComplete (flight : Nat) (s : State) : Host.Outcome State Fault Refusal :=
  .next (s.completeWhen flight fun w => match w with | .pass j => j.granted | _ => false)

/-- TRACE_COMPLETE (R382). -/
def execTraceComplete (flight : Nat) (s : State) : Host.Outcome State Fault Refusal :=
  .next (s.completeWhen flight fun w => match w with | .trace _ _ _ _ _ => true | _ => false)

/-- HITRD_COMPLETE (R384). -/
def execHitrdComplete (flight : Nat) (s : State) : Host.Outcome State Fault Refusal :=
  .next (s.completeWhen flight fun w => match w with | .hitrd _ _ _ _ => true | _ => false)

/-- BEAM_COMPLETE (R387): what is left of its fragments is pushed first. -/
def execBeamComplete (flight : Nat) (s : State) : Host.Outcome State Fault Refusal :=
  .next (s.completeWhen flight fun w => match w with | .beam _ => true | _ => false)

/-- TILE_ORDER_OPERATION (R298): an MXP, MXRD or MXWR. -/
def execTileOrderOperation (flight : Nat) (s : State) : Host.Outcome State Fault Refusal :=
  .next (s.completeWhen flight fun w => match w with
    | .promote _ => true
    | .tileRead _ _ _ _ _ => true
    | .tileWrite _ _ _ => true
    | _ => false)

/-! ### Parts of work -/

/-- COPY_BYTE_ARRIVAL (R201): one element moves, and its bytes reach the barrier. -/
def execCopyByteArrival (flight element : Nat) (s : State) : Host.Outcome State Fault Refusal :=
  .next (match s.flight? flight with
    | some f =>
      match f.work with
      | .copy j => if element < j.total ∧ s.enabled f = true then State.moveElements f (s.copyDst f j) [element] s else s
      | _ => s
    | none => s)

/-- The first fault, not forwarded, that some element of a copy meets now (R194). -/
def State.copyFails (s : State) (f : Flight) (j : CopyJob) : Option RangeFault :=
  if j.token.isSome then none
  else
    let dst := s.copyDst f j
    (List.range j.total).findSome? fun k =>
      if j.done.contains k then none
      else match State.moveAll f (s.flightCtx f) j dst (j.together k) s with
        | .fail e _ _ => if e.forward then none else some e
        | _ => none

/-- COPY_FAIL (R194). -/
def execCopyFail (flight : Nat) (s : State) : Host.Outcome State Fault Refusal :=
  .next (match s.flight? flight with
    | some f =>
      match f.work with
      | .copy j =>
        match s.copyFails f j with
        | some e => if s.enabled f then s.failCopy f j e else s
        | none => s
      | _ => s
    | none => s)

/-- FRAGMENT_PUSH (R388): one fragment, when the queue has room. -/
def execFragmentPush (flight : Nat) (s : State) : Host.Outcome State Fault Refusal :=
  .next (match s.flight? flight with
    | some f =>
      match f.work with
      | .beam job => if s.enabled f then s.advanceBeam f job 1 else s
      | _ => s
    | none => s)

/-! ### The cube's reservation table (R301) -/

/-- Whether a pass comes before another (R301): effective priority, post, source number. -/
def passBefore (now : Nat) (a b : Flight × PassJob) : Bool :=
  let p (x : Flight × PassJob) : Nat := min 7 (x.2.prio + (now - x.2.post) / 512)
  decide (p b < p a) || (p a == p b && (decide (a.2.post < b.2.post) || (a.2.post == b.2.post && decide (a.1.src < b.1.src))))

/-- Whether a pass is eligible (R300): what comes before it in the slot order of its slots has completed, and the passes before
it in its tile's order have been granted. -/
def State.eligible (s : State) (f : Flight) : Bool :=
  (s.before f.id).all fun x => x.block != f.block ||
    (!(x.work.slots.any f.work.slots.contains) && (x.ungranted.isNone || x.work.tile != f.work.tile))

/-- The pass to grant: the first eligible one, while the array has none. -/
def State.nextGrant (s : State) (cluster : Nat) : Option Flight :=
  let mine := s.flights.filter fun f => clusterOf f.src == cluster
  if mine.any fun f => match f.work with | .pass j => j.granted | _ => false then none
  else
    let xs := (mine.filter s.eligible).filterMap fun f => f.ungranted.map fun j => (f, j)
    match xs with
    | [] => none
    | x :: rest => some (rest.foldl (fun b y => if passBefore s.clock y b then y else b) x).1

/-- PASS_GRANT (R301). -/
def execPassGrant (cluster : Nat) (s : State) : Host.Outcome State Fault Refusal :=
  .next (match s.nextGrant cluster with
    | some f => s.updFlight f.id fun w => match w with | .pass j => .pass { j with granted := true } | w => w
    | none => s)

/-- CODEBOOK_RELOAD (R299). -/
def execCodebookReload (block : Nat) (s : State) : Host.Outcome State Fault Refusal := .next (s.reloadTable block)

/-! ### Slices -/

/-- ATOMIC_SERVICE_REQUEST (R235): the service hoist of a cluster takes the request at the head of its queue. -/
def execAtomicServiceRequest (cluster : Nat) (s : State) : Host.Outcome State Fault Refusal :=
  .next (match s.svcq.find? (·.1 == cluster) with
    | none => s
    | some x =>
      match s.flight? x.2 with
      | none => { s with svcq := s.svcq.erase x }
      | some f =>
        if !s.enabled f then s
        else if s.svcq.any fun y => y.2 == x.2 && y.1 != cluster then { s with svcq := s.svcq.erase x }
        else s.completeFlight f)

/-- LINE_MIGRATE (R165): no pinned line and no line with a monitor. -/
def execLineMigrate (line slice : Nat) (s : State) : Host.Outcome State Fault Refusal :=
  .next (if s.pins.any (·.1 == line) || s.monitors.any (fun m => m.pa / 64 == line) || !homedHere s.die (64 * line) ||
      decide (s.die.slices ≤ slice) then s
    else
      let rest := s.migrated.filter (·.1 != line)
      { s with migrated := if slice = homeSlice s.die line then rest else (line, slice) :: rest })

/-- A watched host line is read again: waiters whose condition holds are woken (R239). -/
def State.rereadLine (s : State) (line : Nat) : State := s.wakeWhere fun m => m.pa / 64 == line && m.holds s.mem && !s.keptFrom m

/-- Whether a monitor watches a line of host memory, which is held at the upstream port (R239). -/
def State.watchesHost (s : State) (m : Monitor) : Bool := monitorHome s.die m.pa == 0x3210

/-- A watched host line whose condition holds by now. -/
def State.nextReread (s : State) : Option Nat :=
  (s.monitors.find? fun m => s.watchesHost m && m.holds s.mem && !s.keptFrom m).map (·.pa / 64)

/-- The port re-reads every watched host line, as it does at least every 2 µs (R239). -/
def State.rereadHost (s : State) : State :=
  if s.monitors.isEmpty then s else s.wakeWhere fun m => s.watchesHost m && m.holds s.mem && !s.keptFrom m

/-- HOST_LINE_REREAD (R239). -/
def execHostLineReread (line : Nat) (s : State) : Host.Outcome State Fault Refusal := .next (s.rereadLine line)

/-- HOST_SNOOP (27_host.md R427): the lease ends; memory holds one copy of every line, so the write-back changes nothing. -/
def execHostSnoop (line : Nat) (s : State) : Host.Outcome State Fault Refusal := .next (s.rereadLine line)

/-! ### Groups that merge -/

/-- The groups of a hoist that hold slices, with their addresses. -/
def Hoist.standing (h : Hoist) : List (Nat × VAddr) :=
  (h.regs.groups.filter fun g => h.groupSlices g.id != []).map fun g => (g.id, h.groupPc g.id)

/-- Groups merged into one: what they have outstanding becomes the merged group's. -/
def State.mergeGroups (s : State) (h : Hoist) (ids : List Nat) (f : Slice → Slice) : State :=
  let ns := (List.range h.regs.slices.length).filter fun n => ids.any fun g => h.sliceIn g n
  let dest := (h.slice (ns.headD 0)).group
  let m := h.merge ids s.clock f
  let s := s.putHoist { m with busy := m.busy.map fun b => if ids.contains b.group then { b with group := dest } else b }
  { s with flights := s.flights.map fun x => if x.src == h.src && ids.contains x.group then { x with group := dest } else x }

/-- A merged slice after its REGANG: the next word, and its signature (21_reliability.md R353, R354). -/
def Hoist.reganged (h : Hoist) (x : Slice) : Slice :=
  { x with pc := x.pc + 4, cfs := if h.regs.depth = 0 then cfsFold 0 cfsReconverge else x.cfs }

/-- REGANG_MERGE (R109): the merge, or the disagreement. -/
def execRegangMerge (src : Nat) (s : State) : Host.Outcome State Fault Refusal :=
  .next (match s.hoist? src with
    | none => s
    | some h =>
      if !h.regangReady then s
      else
        let gs := h.standing
        let low := gs.foldl (fun (a : VAddr) g => if g.2.toNat < a.toNat then g.2 else a) ((gs.head?.map (·.2)).getD 0)
        let ids := (gs.filter (·.2 == low)).map (·.1)
        if ids.length = gs.length then s.mergeGroups h ids h.reganged
        else
          let s := s.mergeGroups h ids id
          let dest := match s.hoist? src with
            | some m => ((m.standing.find? (·.2 == low)).map (·.1)).getD 0
            | none => 0
          match issuer ((encode .regang).getD 0) { s with cur := (src, dest) } with
          | some e => { e.takeTrap { cls := .illop } with cur := s.cur }
          | none => s)

/-- VREGRP_COMPLETE (R158): a waiting VREGRP that a retirement has completed. -/
def execVregrpComplete (src : Nat) (s : State) : Host.Outcome State Fault Refusal :=
  .next (match s.hoist? src with
    | none => s
    | some h =>
      match h.regroup with
      | some (_, r) =>
        if s.regroupReady h then State.regroupFinish 0x10000 (s.regroupers h.block r) (s.regroup h.block r) else s
      | none => s)

/-- HOIST_LOST (R361): every lane dies, and the hoist retires as after a double fault.  The event is an error met outside any
word's execution, so its record names none (R372); one that a word meets is found by `Env.struck` (log 47). -/
def execHoistLost (src : Nat) (s : State) : Host.Outcome State Fault Refusal :=
  .next (match s.hoist? src with
    | none => s
    | some h => if h.gone then s else s.loseHoist src 0xFF [])

/-! ### The vote of replicas (R368, R369) -/

/-- The hoist of each resident replica of a hoist's block, its own included, in ascending replica; retired ones too. -/
def State.replicaHoists (s : State) (h : Hoist) : List Hoist :=
  let b := s.blockOf h
  (List.range 4).filterMap fun r => s.hoists.find? fun x =>
    x.role == .user && x.index == h.index && (x.src == h.src || (s.blockOf x).sameRun b) && (s.blockOf x).replica == r

/-- The offer of a hoist that still stands. -/
def Hoist.standingOffer (h : Hoist) : Option Offer :=
  match h.offer with
  | some o => if o.vote.isNone then some o else none
  | none => none

/-- Whether two offers agree (R368). -/
def Offer.agrees (a b : Offer) : Bool := a.word == b.word && a.ssig == b.ssig

/-- Those who agree with a hoist's offer. -/
def agreeing (ms : List Hoist) (h : Hoist) : List Hoist :=
  match h.standingOffer with
  | some o => ms.filter fun x => match x.standingOffer with | some y => o.agrees y | none => false
  | none => []

/-- The majority: two or three that agree, the lowest replica first. -/
def majority (ms : List Hoist) : List Hoist :=
  match ms.find? fun h => decide (2 ≤ (agreeing ms h).length) with
  | some h => agreeing ms h
  | none => []

/-- A hoist's own waits go: its monitors and its translation requests. -/
def State.dropWaits (s : State) (src : Nat) : State :=
  { s with
    monitors := s.monitors.filter fun m => m.src != src || m.parked.isSome
    tokens := s.tokens.map fun (t : Token) => { t with hoists := t.hoists.filter (· != src) } }

/-- A hoist stopped at its instruction boundary: its counted work is complete and its waits are gone. -/
def State.stopHoist (s : State) (src : Nat) : State :=
  let s := (s.settleHoist src).dropWaits src
  let s : State := { s with flights := s.flights.filter fun f => f.src != src || (match f.work with | .copy _ => true | _ => false) }
  s.updHoist src fun h => { h with counters := ⟨0, 0, 0, 0⟩, busy := [], holds := [], lines := [], lateFrom := none }

/-- The group of an offer goes on with its release word. -/
def Hoist.resume (h : Hoist) (o : Offer) (committer : Bool) : Hoist :=
  { h with
    offer := some { o with vote := some committer }
    wbuf := []
    lateFrom := none
    regs := { h.regs with groups := h.regs.groups.map fun g => if g.id == o.group then { g with wait := .running } else g } }

/-- The minority becomes a copy of the committer (R368), with its record. -/
def State.replaceReplica (s : State) (c x : Hoist) (o : Offer) : State :=
  let s := s.stopHoist x.src
  let s := s.updHoist x.src fun h =>
    ({ h with regs := c.regs, flaws := c.flaws, holds := c.holds, holder := c.holder, forwarded := c.forwarded, rmis := none }).resume o false
  s.logEvent 5 x.src (some (s.blockOf x).ctx) (s.blockOf x).replica (natLe 16 o.word.toNat)

/-- A hoist's buffered writes take their places in the die order, store by store (R365, R368). -/
def State.commitBuffer (s : State) (c : Hoist) : State :=
  let ctx := (s.blockOf c).ctx
  let t := c.wbuf.foldl (fun s w => s.writeShared c.src ctx w.pa (w.bytes s.view)) s
  ((c.wbuf.map (·.store)).eraseDups).foldl (fun t n => t.unpoison
    ((c.wbuf.filter fun w => w.store == n && !s.holdsWrite ctx w.pa).map fun w => (w.pa, w.data.length))) t

/-- Whether a hoist's buffer cannot commit yet: a hold of another scope or an engine's write stands on one of its lines
(11_ordering.md R215, R219; log 41). -/
def State.commitWaits (s : State) (c : Hoist) : Bool :=
  let w : Who := ⟨coreOf c.src, some (c.block, (s.blockOf c).span), none, false, true⟩
  c.wbuf.any fun x => (s.outsideHold w (x.pa / 64)).isSome || s.owned w [(x.pa, x.data.length)]

/-- The committer's buffer commits, and every replica goes on (R368). -/
def State.commitVote (s : State) (ms winners : List Hoist) (c : Hoist) (o : Offer) : State :=
  let s := s.commitBuffer c
  let s := winners.foldl (fun s x => s.updHoist x.src fun h => h.resume o (x.src == c.src)) s
  (ms.filter fun x => !x.retired && !x.gone && !winners.any (·.src == x.src)).foldl (fun s x => s.replaceReplica c x o) s

/-- DETAIL of a mismatch between the hoists of n replicas (R369): a late arrival, release words that differ, signatures that
differ. -/
def mismatchDetail (n : Nat) (ms : List Hoist) : Nat :=
  if ms.length < n ∨ ms.any (fun h => h.standingOffer.isNone) = true then 2
  else
    let ws := (ms.filterMap Hoist.standingOffer).map (·.word)
    if ws.all fun w => some w == ws.head? then 0 else 1

/-- A hoist goes back to its last committed release point and is left an RMIS to take (R369). -/
def State.rollBack (s : State) (detail : Nat) (x : Hoist) : State :=
  let info : Word := match x.standingOffer with | some o => o.word.extractLsb' 0 32 | none => 0
  let s := s.stopHoist x.src
  s.updHoist x.src fun h =>
    let r := h.snapshot.getD h.regs
    { h with
      regs := { r with groups := r.groups.map fun g => { g with wait := if g.wait = .regang then .regang else .running } }
      wbuf := []
      offer := none
      flaws := []
      forwarded := []
      holder := none
      rmis := some (detail, info) }

/-- The record of a mismatch: one, with the first release word that was offered (R372). -/
def State.mismatchRecord (s : State) (ms : List Hoist) : State :=
  match ms with
  | [] => s
  | x :: _ =>
    let word := match (ms.filterMap Hoist.standingOffer).head? with | some o => o.word.toNat | none => 0
    s.logEvent 4 x.src (some (s.blockOf x).ctx) (mismatchDetail (s.blockOf x).replicas ms) (natLe 16 word)

/-- Whether the vote of replicas has to wait for its committer's writes. -/
def State.voteWaits (s : State) (ms : List Hoist) : Bool :=
  match majority ms with
  | c :: _ => s.commitWaits c
  | [] => false

/-- The vote over the replicas of a hoist. -/
def State.vote (s : State) (ms : List Hoist) : State :=
  let ws := majority ms
  match ws with
  | c :: _ =>
    match c.standingOffer with
    | some o => if s.commitWaits c then s else s.commitVote ms ws c o
    | none => s
  | [] =>
    let n := match ms with | x :: _ => (s.blockOf x).replicas | [] => 0
    (ms.filter fun x => !x.retired && !x.gone).foldl (fun s x => s.rollBack (mismatchDetail n ms) x) (s.mismatchRecord ms)

/-- Replicas of a block that have retired already: their hoists cannot arrive (DEDUCED, log 24). -/
def State.lostReplicas (s : State) (b : Block) : Nat :=
  (s.retiredReplicas.filter (· == (b.ctx, b.entry, b.linear))).length

/-- Whether every replica of a hoist is resident and satisfies a condition, or has retired. -/
def State.replicasAll (s : State) (h : Hoist) (p : Hoist → Bool) : Bool :=
  let ms := s.replicaHoists h
  ms.length + s.lostReplicas (s.blockOf h) == (s.blockOf h).replicas && ms.all p

/-- RELEASE_VOTE (R368): every replica has made its offer. -/
def execReleaseVote (src : Nat) (s : State) : Host.Outcome State Fault Refusal :=
  .next (match s.hoist? src with
    | none => s
    | some h => if s.replicasAll h fun x => x.standingOffer.isSome then s.vote (s.replicaHoists h) else s)

/-- A hoist whose offer and all its pairs' offers stand, so that the vote can be taken (R368). -/
def State.nextVote (s : State) : Option Nat :=
  (s.hoists.find? fun h => h.standingOffer.isSome && (s.replicasAll h fun x => x.standingOffer.isSome) &&
    !s.voteWaits (s.replicaHoists h)).map (·.src)

/-- Whether a hoist that others wait for is late: 1 ms of %time (R368). -/
def State.late (s : State) (h : Hoist) : Bool :=
  match h.lateFrom with
  | some t => decide (t + 1200000 ≤ s.time.toNat)
  | none => false

/-- Whether a pair of a hoist waits at a release point for it. -/
def State.awaited (s : State) (h : Hoist) : Bool :=
  h.standingOffer.isNone && (s.blockOf h).replicated && (s.replicaHoists h).any fun x => x.standingOffer.isSome

/-- LATE_ARRIVAL (R368): the count of a hoist that others wait for begins, or has run out. -/
def execLateArrival (src : Nat) (s : State) : Host.Outcome State Fault Refusal :=
  .next (match s.hoist? src with
    | none => s
    | some h =>
      if !s.awaited h then s
      else if h.lateFrom.isNone then s.updHoist src fun h => { h with lateFrom := some s.time.toNat }
      else if s.replicasAll h fun x => x.standingOffer.isSome || s.late x then s.vote (s.replicaHoists h)
      else s)

/-- A hoist whose lateness is to be counted, or declared. -/
def State.nextLate (s : State) : Option Nat :=
  (s.hoists.find? fun h => h.role == .user && s.awaited h &&
    (h.lateFrom.isNone || (s.replicasAll h fun x => x.standingOffer.isSome || s.late x) &&
      !s.voteWaits (s.replicaHoists h))).map (·.src)

end Sys2Proof.Machine
end

