-- ==== Sys2Proof/Machine/Burgee.lean ====
section
/-!
DEFINITION. What the host reads in BAR0: the Burgee table, the push window's registers, telemetry, the MSI-X table
(27_host.md R425–R434, R444, 17_scheduling.md R307, R309).
-/

namespace Sys2Proof.Machine

/-- PUSHOFF (R430). -/
def pushOff : Nat := 0x100000
/-- TELOFF. -/
def telOff : Nat := 0x200000
/-- MSIXOFF. -/
def msixOff : Nat := 0x300000
/-- XPOFF. -/
def xpOff : Nat := 0x310000

/-! ### The Burgee table (R428–R431) -/

/-- ISIG of the shipped part (R429). -/
def isigOf (d : Die) : Nat := match d with | .tsuord => 0xD1920101 | .companion => 0x48120101

/-- The IDENTITY entry after its header (R429). -/
def State.identity (s : State) : List Byte :=
  natLe 2 0x1D57 ++ natLe 2 s.die.deviceId.toNat ++ natLe 1 (match s.die with | .tsuord => 0 | .companion => 1) ++ natLe 3 0 ++
    natLe 4 (isigOf s.die) ++ natLe 4 s.host.change.toNat ++ natLe 8 Config.serialNumber.toNat

/-- The feature mask (R431). -/
def featuresOf : Die → Nat
  | .tsuord => 0x7FE7
  | .companion => 0x27E7

/-- The COMPUTE entry (R429). -/
def State.computeEntry (s : State) : List Byte :=
  natLe 1 s.die.clusters ++ natLe 1 4 ++ natLe 1 s.die.columns ++ natLe 1 (s.die.clusters / s.die.columns) ++ natLe 1 3 ++
    natLe 1 (match s.die with | .tsuord => 5 | .companion => 4) ++ natLe 2 0 ++ natLe 24 (2 ^ s.die.cores - 1) ++
    natLe 4 (1000 * s.die.fullClock) ++ natLe 4 0

/-- A MEMORY entry (R429). -/
def memoryEntry (tier tech channels capacity built bandwidth : Nat) : List Byte :=
  natLe 1 tier ++ natLe 1 tech ++ natLe 2 channels ++ natLe 4 0 ++ natLe 8 capacity ++ natLe 8 built ++ natLe 4 bandwidth ++
    natLe 4 0

/-- The MEMORY entries: T0, and the Tsuord's T1 (00_scope.md R2; log 3). -/
def State.memories (s : State) : List (List Byte) :=
  match s.die with
  | .tsuord =>
    [memoryEntry 0 0 s.power.channels s.power.capacity s.power.built 3200000,
     memoryEntry 1 1 Config.tierChannels.toNat 256000000000 256000000000 691000]
  | .companion => [memoryEntry 0 1 s.power.channels s.power.capacity s.power.built Config.companionBandwidth.toNat]

/-- Whether the upstream port runs as CXL 3.1: on an undocked Tsuord that trained so; a companion's port is its Halyard link
(00_scope.md R2, R404, R425). -/
def State.cxlMode (s : State) : Bool := s.die == .tsuord && !s.link.up && Config.cxl

/-- The LINK entry (R404, R425, R429). -/
def State.linkEntry (s : State) : List Byte :=
  let (mode, width, rate) :=
    if s.link.up || s.die == .companion then (2, 8, 128) else if s.cxlMode then (1, 16, 64) else (0, 16, 128)
  natLe 1 mode ++ natLe 1 width ++ natLe 2 rate ++ natLe 4 0

/-- The LIMITS entry (R429). -/
def State.limits (s : State) : List Byte :=
  natLe 1 64 ++ natLe 1 72 ++ natLe 1 52 ++ natLe 1 7 ++ natLe 1 s.die.replicas ++ natLe 3 0

/-- The WINDOWS entry (R430). -/
def State.windows (s : State) : List Byte :=
  natLe 8 pushOff ++ natLe 8 telOff ++ natLe 8 msixOff ++ natLe 8 xpOff ++ natLe 8 s.host.ctxtab.toNat ++
    natLe 8 s.host.evring.toNat ++ natLe 4 s.host.evdepth.toNat ++ natLe 4 s.host.fldepth.toNat ++
    natLe 8 s.host.flring.toNat ++ natLe 8 s.host.sgring.toNat ++ natLe 4 s.host.sgdepth.toNat ++
    natLe 4 ((if s.host.enable then 1 else 0) + 2 * s.host.err)

/-- The entries in chain order: TYPE and contents. -/
def State.entries (s : State) : List (Nat × List Byte) :=
  [(1, s.identity), (2, natLe 64 (featuresOf s.die)), (3, s.computeEntry)] ++ s.memories.map (fun m => (4, m)) ++
    [(5, s.linkEntry), (6, s.limits), (7, s.windows)]

/-- The chain from an offset: each entry follows the one before it, and the last ends the chain (R428). -/
def chain : Nat → List (Nat × List Byte) → List Byte
  | _, [] => []
  | at_, (t, b) :: rest =>
    let next := at_ + 8 + b.length
    natLe 2 t ++ natLe 2 (8 + b.length) ++ natLe 4 (if rest.isEmpty then 0 else next) ++ b ++ chain next rest

/-- The Burgee table. -/
def State.burgee (s : State) : List Byte := chain 0 s.entries

/-- The offset of the WINDOWS entry. -/
def State.windowsOff (s : State) : Nat := s.burgee.length - 88

/-! ### Reads of BAR0 -/

/-- n bytes of ones. -/
def ones (n : Nat) : List Byte := List.replicate n 0xFF

/-- LOST of a slot (R309). -/
def State.lostOf (s : State) (slot : Nat) : Nat := match s.host.lost.find? (·.1 == slot) with | some x => x.2.toNat | none => 0

/-- LOST, HEAD and TAIL of a push slot; all ones elsewhere, and where there is no queue (R309).  The manual does not say what a
read of HEAD or TAIL gives when the queue's header cannot be read, nor what an 8-byte read at 0x80 or 0xC0 gives: all ones
(DESIGN CHOICE, log 64). -/
def State.slotRead (s : State) (slot off n : Nat) : List Byte :=
  match s.ctx? (slot / 16) with
  | none => ones n
  | some c =>
    match s.ctxQueue c.firstCore c (slot % 16) with
    | none => ones n
    | some (p, _) =>
      if n ≠ 4 then ones n
      else if off = 0x80 then natLe 4 (s.lostOf slot)
      else if off = 0xC0 ∨ off = 0xC4 then
        match s.queueEnds p with
        | (.ok (head, tail), _) => natLe 4 (if off = 0xC0 then head else tail)
        | (.error _, _) => ones n
      else ones n

/-- The context command word as it reads (R307). -/
def State.commandWord (s : State) : Nat :=
  (if s.host.busy.isSome then 2 ^ 63 else 0) + 256 * s.host.cmd + s.host.cmdCtx

/-- The telemetry block (R444).  Sensor readings and slice counts are free. -/
def State.telemetry (s : State) (off : Nat) : Nat :=
  match off with
  | 0 => (Config.sensor 0 s.time).toNat
  | 4 => (Config.sensor 1 s.time).toNat
  | 8 => (Config.sensor 2 s.time).toNat
  | 0xC => s.power.clockMHz
  | 0x10 => s.power.causes.toNat
  | 0x14 => s.power.capW.toNat
  | 0x18 => s.power.correctable.toNat % 2 ^ 32
  | 0x1C => s.power.correctable.toNat / 2 ^ 32
  | 0x20 => s.power.poisonedCount.toNat % 2 ^ 32
  | 0x24 => s.power.poisonedCount.toNat / 2 ^ 32
  | k => if 0x400 ≤ k ∧ k < 0x400 + 8 * s.die.slices then (Config.sensor k s.time).toNat else 0xFFFFFFFF

/-- The MSI-X table: its words, with the mask bit of each vector in bit 0 of the last word. -/
def State.msixByte (s : State) (off : Nat) : Byte :=
  if off % 16 = 12 then (if s.host.msixMask.getLsbD (off / 16) then 1 else 0) else s.host.msixTable.read off

/-- CHANGE follows the LINK entry (R429): one more when it is no longer that of an earlier state. -/
def State.noteLink (s old : State) : State :=
  if s.linkEntry = old.linkEntry then s else { s with host := { s.host with change := s.host.change + 1 } }

/-- The size of BAR0 (R425). -/
def bar0Size : Nat := 0x2000000

/-- An aligned read of 4 or 8 bytes of BAR0; every other read gives ones (R425, R428). -/
def State.bar0Read (s : State) (off n : Nat) : List Byte :=
  if !s.host.barReady || decide (bar0Size < off + n) || !(n == 4 || n == 8) || off % n != 0 then ones n
  else if off + n ≤ s.burgee.length then segment s.burgee off n
  else if pushOff ≤ off ∧ off < pushOff + 0x40000 then s.slotRead ((off - pushOff) / 256) (off % 256) n
  else if pushOff + 0x40000 ≤ off ∧ off < pushOff + 0x40008 then segment (natLe 8 s.commandWord) (off % 8) n
  else if pushOff + 0x40008 ≤ off ∧ off < pushOff + 0x40010 then natLe n 0
  else if telOff ≤ off ∧ off < telOff + 0x1000 then
    (natLe 4 (s.telemetry (off - telOff)) ++ natLe 4 (s.telemetry (off - telOff + 4))).take n
  else if msixOff ≤ off ∧ off < msixOff + 1024 then (List.range n).map fun k => s.msixByte (off - msixOff + k)
  else if msixOff + 0x1000 ≤ off ∧ off < msixOff + 0x1008 then segment (natLe 8 s.host.msixPending.toNat) (off % 8) n
  else if off = xpOff + 0x80 ∧ n = 4 then natLe 4 (s.lostOf 1024)
  else ones n

end Sys2Proof.Machine
end

