-- ==== Sys2Proof/Machine/Zstd.lean ====
section
/-!
DEFINITION. The expansion of a compressed section: one Zstandard frame as RFC 8878 defines it, within the limits of 27_host.md
R438 (log 12).  Section numbers below are RFC 8878's.
-/

namespace Sys2Proof.Machine

/-! ### Bits -/

/-- n bits of a number from bit p up, and the bit after them. -/
def bitsUp (v p n : Nat) : Nat × Nat := (v / 2 ^ p % 2 ^ n, p + n)

/-- A bitstream that is read from its end (4.1): the number it holds and how many bits are left. -/
structure Backward where
  v : Nat
  left : Nat

/-- The bitstream of some bytes: the highest set bit of the last byte only marks its end. -/
def Backward.of (bs : List Byte) : Option Backward :=
  let v := leNat bs
  if bs.getLastD 0 = 0 then none else some ⟨v, Nat.log2 v⟩

/-- The next n bits, zeros standing for those that are not there. -/
def Backward.peek (b : Backward) (n : Nat) : Nat :=
  if n ≤ b.left then b.v / 2 ^ (b.left - n) % 2 ^ n else b.v % 2 ^ b.left * 2 ^ (n - b.left)

/-- The next n bits, and the rest; none when there are fewer. -/
def Backward.read (b : Backward) (n : Nat) : Option (Nat × Backward) :=
  if n ≤ b.left then some (b.peek n, { b with left := b.left - n }) else none

/-! ### Finite state entropy tables (4.1.1) -/

/-- A state of a table: its symbol, and the bits read and the number added for the state after it. -/
structure FseState where
  sym : Nat
  bits : Nat
  base : Nat

/-- How many probabilities of zero follow one (two bits at a time, three standing for more to come). -/
def fseZeros (v : Nat) : Nat → Nat → Nat × Nat
  | 0, p => (0, p)
  | fuel + 1, p =>
    let (n, p) := bitsUp v p 2
    if n = 3 then (let (m, q) := fseZeros v fuel p; (n + m, q)) else (n, p)

/-- The probabilities of a table, -1 standing for less than one, from bit p up while some of `remaining` is left. -/
def fseCounts (v : Nat) : Nat → Nat → Nat → List Int → Option (List Int × Nat)
  | 0, _, _, _ => none
  | fuel + 1, p, remaining, xs =>
    if remaining = 0 then some (xs, p)
    else
      let n := Nat.log2 (remaining + 1) + 1
      let low := 2 ^ (n - 1)
      let threshold := 2 ^ n - 1 - (remaining + 1)
      let x := (bitsUp v p n).1
      let (value, p) := if x % low < threshold then (x % low, p + n - 1) else (if low ≤ x then x - threshold else x, p + n)
      let count : Int := (value : Int) - 1
      if remaining < count.natAbs then none
      else
        let (zs, p) := if count = 0 then fseZeros v fuel p else (0, p)
        fseCounts v fuel p (remaining - count.natAbs) (xs ++ count :: List.replicate zs 0)

/-- The place after `pos` that no symbol of low probability has taken. -/
def fseStep (size high : Nat) : Nat → Nat → Nat
  | 0, pos => pos
  | fuel + 1, pos =>
    let q := (pos + size / 2 + size / 8 + 3) % size
    if high ≤ q then fseStep size high fuel q else q

/-- Puts n states of a symbol into a table. -/
def fsePlace (size high s : Nat) : Nat → Nat × List Nat → Nat × List Nat
  | 0, x => x
  | n + 1, (pos, t) => fsePlace size high s n (fseStep size high size pos, t.set pos s)

/-- The states of a list of symbols, whose numbers count up from each symbol's probability. -/
def fseStates (al : Nat) : List Nat → List Nat → List FseState
  | [], _ => []
  | s :: rest, next =>
    let n := next.getD s 1
    let bits := al - Nat.log2 n
    ⟨s, bits, n * 2 ^ bits - 2 ^ al⟩ :: fseStates al rest (next.set s (n + 1))

/-- The table of a list of probabilities for an accuracy of `al` bits. -/
def fseTable (al : Nat) (counts : List Int) : List FseState :=
  let size := 2 ^ al
  let rare := (List.range counts.length).filter fun s => counts.getD s 0 == -1
  let t := (List.replicate (size - rare.length) 0) ++ rare.reverse
  let high := size - rare.length
  let (_, t) := (List.range counts.length).foldl (fun x s => fsePlace size high s (counts.getD s 0).toNat x) (0, t)
  fseStates al t (counts.map fun c => if c = -1 then 1 else c.toNat)

/-- A table of up to `most` bits of accuracy from its description, and the bytes that follow. -/
def fseRead (most : Nat) (bs : List Byte) : Option (List FseState × List Byte) :=
  let v := leNat (bs.take 512)
  let al := v % 16 + 5
  if most < al then none
  else
    match fseCounts v 257 4 (2 ^ al) [] with
    | none => none
    | some (counts, p) =>
      let n := (p + 7) / 8
      if bs.length < n ∨ 256 < counts.length then none else some (fseTable al counts, bs.drop n)

/-- The state of a table at a number. -/
def fseAt (t : List FseState) (n : Nat) : FseState := t.getD n ⟨0, 0, 0⟩

/-- The first state of a table, whose number has as many bits as the table's size. -/
def fseStart (t : List FseState) (b : Backward) : Option (FseState × Backward) :=
  (b.read (Nat.log2 t.length)).map fun x => (fseAt t x.1, x.2)

/-- The state after one. -/
def fseNext (t : List FseState) (x : FseState) (b : Backward) : Option (FseState × Backward) :=
  (b.read x.bits).map fun y => (fseAt t (x.base + y.1), y.2)

/-! ### Huffman codes (4.2.1) -/

/-- A code: for each number of as many bits as its longest word, the symbol and the bits of its word. -/
abbrev Huffman := List (Nat × Nat)

/-- The weights of a bitstream with two states that take turns, until its bits run out (4.2.1.2). -/
def hufTurns (t : List FseState) : Nat → FseState → FseState → Backward → List Nat
  | 0, _, _, _ => []
  | fuel + 1, x, y, b =>
    if b.left < x.bits then [x.sym, y.sym]
    else x.sym :: hufTurns t fuel y (fseAt t (x.base + b.peek x.bits)) { b with left := b.left - x.bits }

/-- The code of a list of weights, the last symbol's being what is left over. -/
def hufCode (ws : List Nat) : Option Huffman :=
  let sum := ws.foldl (fun n w => n + 2 ^ w / 2) 0
  let longest := Nat.log2 sum + 1
  let rest := 2 ^ longest - sum
  let ws := ws ++ [Nat.log2 rest + 1]
  if sum = 0 ∨ 11 < longest ∨ rest ≠ 2 ^ Nat.log2 rest ∨ 256 < ws.length ∨ ws.any (fun w => decide (longest < w)) then none
  else some ((List.range longest).flatMap fun w => (List.range ws.length).flatMap fun s =>
    if ws.getD s 0 = w + 1 then List.replicate (2 ^ w) (s, longest - w) else [])

/-- A code from its description, and the bytes that follow. -/
def hufRead : List Byte → Option (Huffman × List Byte)
  | [] => none
  | h :: bs =>
    let n := h.toNat
    if 128 ≤ n then
      let k := n - 127
      let bytes := bs.take ((k + 1) / 2)
      if bytes.length < (k + 1) / 2 then none
      else (hufCode ((bytes.flatMap fun b => [b.toNat / 16, b.toNat % 16]).take k)).map fun c => (c, bs.drop ((k + 1) / 2))
    else if bs.length < n then none
    else
      (fseRead 6 (bs.take n)).bind fun x =>
        (Backward.of x.2).bind fun b =>
          (fseStart x.1 b).bind fun u =>
            (fseStart x.1 u.2).bind fun w =>
              (hufCode (hufTurns x.1 256 u.1 w.1 w.2)).map fun c => (c, bs.drop n)

/-- n symbols of a bitstream that holds nothing else. -/
def hufSymbols (c : Huffman) : Nat → Backward → Option (List Byte)
  | 0, b => if b.left = 0 then some [] else none
  | n + 1, b =>
    let (s, k) := c.getD (b.peek (Nat.log2 c.length)) (0, 0)
    if b.left < k then none else (hufSymbols c n { b with left := b.left - k }).map (BitVec.ofNat 8 s :: ·)

/-- n symbols of some bytes. -/
def hufStream (c : Huffman) (n : Nat) (bs : List Byte) : Option (List Byte) := (Backward.of bs).bind (hufSymbols c n)

/-- n symbols of four streams after their table of sizes (4.2.2). -/
def hufStreams (c : Huffman) (n : Nat) (bs : List Byte) : Option (List Byte) :=
  let size (k : Nat) : Nat := field bs (2 * k) 2
  let q := (n + 3) / 4
  let d := bs.drop 6
  if bs.length < 6 + size 0 + size 1 + size 2 ∨ n < 3 * q then none
  else
    (hufStream c q (d.take (size 0))).bind fun a =>
      (hufStream c q (segment d (size 0) (size 1))).bind fun b =>
        (hufStream c q (segment d (size 0 + size 1) (size 2))).bind fun e =>
          (hufStream c (n - 3 * q) (d.drop (size 0 + size 1 + size 2))).map fun f => a ++ b ++ e ++ f

/-! ### Blocks (3.1.1.2, 3.1.1.3) -/

/-- What a block leaves to the next: the code, the tables of literal lengths, offsets and match lengths, the repeated offsets,
the bytes before the next one, the last first, and how many of them are of the frame. -/
structure Expander where
  code : Option Huffman
  lengths : Option (List FseState)
  offsets : Option (List FseState)
  matches_ : Option (List FseState)
  repeated : List Nat
  behind : List Byte
  made : Nat

/-- The literals of a block, the code, and the bytes that follow (3.1.1.3.1). -/
def literals (code : Option Huffman) (bs : List Byte) : Option (List Byte × Option Huffman × List Byte) :=
  let h := field bs 0 5
  let kind := h % 4
  let form := h / 4 % 4
  if bs = [] then none
  else if kind < 2 then
    let (n, len) := if form % 2 = 0 then (h % 256 / 8, 1) else if form = 1 then (h % 65536 / 16, 2) else (h % 2 ^ 24 / 16, 3)
    let d := bs.drop len
    let k := if kind = 0 then n else 1
    if bs.length < len + k then none
    else some (if kind = 0 then d.take n else List.replicate n (d.getD 0 0), code, d.drop k)
  else
    let (w, len) := if form ≤ 1 then (10, 3) else if form = 2 then (14, 4) else (18, 5)
    let n := h / 16 % 2 ^ w
    let size := h / 2 ^ (4 + w) % 2 ^ w
    if bs.length < len + size then none
    else
      let d := segment bs len size
      let coded := if kind = 2 then hufRead d else code.map fun c => (c, d)
      coded.bind fun x =>
        ((if form = 0 then hufStream x.1 n x.2 else hufStreams x.1 n x.2)).map fun ls => (ls, some x.1, bs.drop (len + size))

/-- The default probabilities of literal lengths (3.1.1.3.2.2). -/
def lengthCounts : List Int :=
  [4, 3, 2, 2, 2, 2, 2, 2, 2, 2, 2, 2, 2, 1, 1, 1, 2, 2, 2, 2, 2, 2, 2, 2, 2, 3, 2, 1, 1, 1, 1, 1, -1, -1, -1, -1]
/-- Those of match lengths. -/
def matchCounts : List Int :=
  [1, 4, 3, 2, 2, 2, 2, 2, 2] ++ List.replicate 37 1 ++ List.replicate 7 (-1)
/-- Those of offsets. -/
def offsetCounts : List Int :=
  [1, 1, 1, 1, 1, 1, 2, 2, 2] ++ List.replicate 15 1 ++ List.replicate 5 (-1)

/-- The extra bits of the codes of literal lengths from 16 up, and of match lengths from 32 up (3.1.1.3.2.1.1). -/
def lengthBits : List Nat := [1, 1, 1, 1, 2, 2, 3, 3, 4, 6, 7, 8, 9, 10, 11, 12, 13, 14, 15, 16]
/-- Those of match lengths. -/
def matchBits : List Nat := [1, 1, 1, 1, 2, 2, 3, 3, 4, 4, 5, 7, 8, 9, 10, 11, 12, 13, 14, 15, 16]

/-- The least value of a code and its extra bits: the first `plain` codes stand for themselves. -/
def codeOf (plain : Nat) (extra : List Nat) (c : Nat) : Option (Nat × Nat) :=
  if c < plain then some (c, 0)
  else if c - plain < extra.length then
    some (plain + (extra.take (c - plain)).foldl (fun n k => n + 2 ^ k) 0, extra.getD (c - plain) 0)
  else none

/-- A table of a block under its mode: default, one symbol, described, or the last one (3.1.1.3.2.1). -/
def tableFor (mode most al : Nat) (counts : List Int) (last : Option (List FseState)) (bs : List Byte) :
    Option (List FseState × List Byte) :=
  match mode with
  | 0 => some (fseTable al counts, bs)
  | 1 => match bs with
    | b :: rest => some ([⟨b.toNat, 0, 0⟩], rest)
    | [] => none
  | 2 => fseRead most bs
  | _ => last.map fun t => (t, bs)

/-- The offset that an offset value stands for after `ll` literals, and the repeated offsets after it (3.1.1.5). -/
def offsetOf (value ll : Nat) (reps : List Nat) : Option (Nat × List Nat) :=
  let r (k : Nat) : Nat := reps.getD k 0
  let k := value - (if ll = 0 then 0 else 1)
  if 3 < value then some (value - 3, [value - 3, r 0, r 1])
  else if k = 0 then some (r 0, reps)
  else if k = 1 then some (r 1, [r 1, r 0, r 2])
  else if k = 2 then some (r 2, [r 2, r 0, r 1])
  else if r 0 ≤ 1 then none
  else some (r 0 - 1, [r 0 - 1, r 0, r 1])

/-- Copies n bytes from `off` back. -/
def copyBack (off : Nat) : Nat → List Byte → List Byte
  | 0, xs => xs
  | n + 1, xs => copyBack off n (xs.getD (off - 1) 0 :: xs)

/-- One sequence: literals, then a match, which lies in the window or in the dictionary before it (3.1.1.4). -/
def Expander.sequence (x : Expander) (window ll off ml : Nat) (lits : List Byte) : Option (Expander × List Byte) :=
  let behind := (lits.take ll).reverse ++ x.behind
  let made := x.made + ll
  if lits.length < ll ∨ off = 0 ∨ behind.length < off ∨ (window < made ∧ window < off) then none
  else some ({ x with behind := copyBack off ml behind, made := made + ml }, lits.drop ll)

/-- The sequences of a block, and the literals that follow them (3.1.1.3.2.1). -/
def Expander.sequences (window : Nat) (tl tof tm : List FseState) :
    Nat → FseState → FseState → FseState → Backward → Expander → List Byte → Option Expander
  | 0, _, _, _, b, x, lits =>
    if b.left = 0 then some { x with behind := lits.reverse ++ x.behind, made := x.made + lits.length } else none
  | n + 1, l, o, m, b, x, lits =>
    (if o.sym ≤ 31 then b.read o.sym else none).bind fun vo =>
    (codeOf 32 matchBits m.sym).bind fun cm => (vo.2.read cm.2).bind fun vm =>
    (codeOf 16 lengthBits l.sym).bind fun cl => (vm.2.read cl.2).bind fun vl =>
    let ll := cl.1 + vl.1
    (offsetOf (2 ^ o.sym + vo.1) ll x.repeated).bind fun off =>
    (Expander.sequence { x with repeated := off.2 } window ll off.1 (3 + cm.1 + vm.1) lits).bind fun y =>
    if n = 0 then Expander.sequences window tl tof tm 0 l o m vl.2 y.1 y.2
    else
      (fseNext tl l vl.2).bind fun l' => (fseNext tm m l'.2).bind fun m' => (fseNext tof o m'.2).bind fun o' =>
      Expander.sequences window tl tof tm n l'.1 o'.1 m'.1 o'.2 y.1 y.2

/-- The count of sequences, and the bytes that follow (3.1.1.3.2.1). -/
def sequenceCount (bs : List Byte) : Option (Nat × List Byte) :=
  match bs with
  | [] => none
  | a :: rest =>
    if a.toNat < 128 then some (a.toNat, rest)
    else if a.toNat < 255 then (if rest = [] then none else some (256 * (a.toNat - 128) + field rest 0 1, rest.drop 1))
    else (if rest.length < 2 then none else some (field rest 0 2 + 0x7F00, rest.drop 2))

/-- A compressed block (3.1.1.3). -/
def Expander.block (x : Expander) (window : Nat) (bs : List Byte) : Option Expander :=
  (literals x.code bs).bind fun (lits, code, bs) =>
  (sequenceCount bs).bind fun (n, bs) =>
  let x := { x with code := code }
  if n = 0 then
    (if bs = [] then some { x with behind := lits.reverse ++ x.behind, made := x.made + lits.length } else none)
  else
    let modes := field bs 0 1
    if bs = [] ∨ modes % 4 ≠ 0 then none
    else
      (tableFor (modes / 64) 9 6 lengthCounts x.lengths (bs.drop 1)).bind fun (tl, bs) =>
      (tableFor (modes / 16 % 4) 8 5 offsetCounts x.offsets bs).bind fun (tof, bs) =>
      (tableFor (modes / 4 % 4) 9 6 matchCounts x.matches_ bs).bind fun (tm, bs) =>
      let x := { x with lengths := some tl, offsets := some tof, matches_ := some tm }
      (Backward.of bs).bind fun b => (fseStart tl b).bind fun l => (fseStart tof l.2).bind fun o => (fseStart tm o.2).bind fun m =>
      Expander.sequences window tl tof tm n l.1 o.1 m.1 m.2 x lits

/-- The blocks of a frame, each of at most `most` bytes, up to the last, and the bytes that follow (3.1.1.2). -/
def Expander.blocks (window most : Nat) : Nat → Expander → List Byte → Option (Expander × List Byte)
  | 0, _, _ => none
  | fuel + 1, x, bs =>
    let h := field bs 0 3
    let kind := h / 2 % 4
    let n := h / 8
    let k := if kind = 1 then 1 else n
    let d := bs.drop 3
    if bs.length < 3 + k ∨ most < n ∨ kind = 3 then none
    else
      let y : Option Expander := match kind with
        | 0 => some { x with behind := (d.take n).reverse ++ x.behind, made := x.made + n }
        | 1 => some { x with behind := List.replicate n (d.getD 0 0) ++ x.behind, made := x.made + n }
        | _ => x.block window (d.take n)
      y.bind fun y =>
        if x.made + most < y.made then none
        else if h % 2 = 1 then some (y, d.drop k)
        else Expander.blocks window most fuel y (d.drop k)

/-! ### Dictionaries (5) -/

/-- A frame's beginning with a dictionary: the Dictionary_ID that it must have, if any, and what it leaves to the first block;
none when a formatted one is malformed. -/
def dictionary (dict : List Byte) : Option (Option Nat × Expander) :=
  let plain : Expander := ⟨none, none, none, none, [1, 4, 8], dict.reverse, 0⟩
  if dict.length < 8 ∨ field dict 0 4 ≠ 0xEC30A437 then some (none, plain)
  else
    (hufRead (dict.drop 8)).bind fun (c, bs) =>
    (fseRead 8 bs).bind fun (tof, bs) => (fseRead 9 bs).bind fun (tm, bs) => (fseRead 9 bs).bind fun (tl, bs) =>
    let content := bs.drop 12
    let reps := [field bs 0 4, field bs 4 4, field bs 8 4]
    if bs.length < 12 ∨ reps.any (fun r => r == 0 || decide (content.length < r)) then none
    else some (some (field dict 4 4), ⟨some c, some tl, some tof, some tm, reps, content.reverse, 0⟩)

/-! ### Checksums -/

/-- One lane of XXH64. -/
def xxhRound (acc lane : BitVec 64) : BitVec 64 := ((acc + lane * 14029467366897019727).rotateLeft 31) * 11400714785074694791

/-- A number of eight or fewer bytes. -/
def word64 (bs : List Byte) : BitVec 64 := BitVec.ofNat 64 (leNat bs)

/-- The stripes of 32 bytes, and the bytes that follow. -/
def xxhStripes : Nat → List (BitVec 64) → List Byte → List (BitVec 64) × List Byte
  | 0, vs, bs => (vs, bs)
  | n + 1, vs, bs =>
    xxhStripes n (vs.mapIdx fun k v => xxhRound v (word64 (segment bs (8 * k) 8))) (bs.drop 32)

/-- The bytes after the stripes. -/
def xxhTail : Nat → BitVec 64 → List Byte → BitVec 64
  | 0, h, _ => h
  | fuel + 1, h, bs =>
    if 8 ≤ bs.length then
      xxhTail fuel ((h ^^^ xxhRound 0 (word64 (bs.take 8))).rotateLeft 27 * 11400714785074694791 + 9650029242287828579) (bs.drop 8)
    else if 4 ≤ bs.length then
      xxhTail fuel ((h ^^^ (word64 (bs.take 4) * 11400714785074694791)).rotateLeft 23 * 14029467366897019727 + 1609587929392839161)
        (bs.drop 4)
    else match bs with
      | [] => h
      | b :: rest => xxhTail fuel ((h ^^^ (word64 [b] * 2870177450012600261)).rotateLeft 11 * 11400714785074694791) rest

/-- XXH64 with seed zero. -/
def xxh64 (bs : List Byte) : BitVec 64 :=
  let p1 : BitVec 64 := 11400714785074694791
  let p2 : BitVec 64 := 14029467366897019727
  let (vs, rest) := xxhStripes (bs.length / 32) [p1 + p2, p2, 0, 0 - p1] bs
  let v (k : Nat) : BitVec 64 := vs.getD k 0
  let h := if bs.length < 32 then 2870177450012600261
    else vs.foldl (fun h v => (h ^^^ xxhRound 0 v) * p1 + 9650029242287828579)
      ((v 0).rotateLeft 1 + (v 1).rotateLeft 7 + (v 2).rotateLeft 12 + (v 3).rotateLeft 18)
  let h := xxhTail 40 (h + BitVec.ofNat 64 bs.length) rest
  let h := (h ^^^ h >>> 33) * p2
  let h := (h ^^^ h >>> 29) * 1609587929392839161
  h ^^^ h >>> 32

/-! ### Frames (3.1.1) -/

/-- How an expansion ends (R439): the bytes, data that is malformed, a checksum that does not match the bytes made. -/
inductive Expanded where
  | ok (data : List Byte)
  | malformed
  | mismatch (made : Nat)
  deriving DecidableEq, Repr

/-- A frame's header: the size of its window, its Dictionary_ID, its content size, whether a checksum follows, its bytes. -/
structure FrameDesc where
  window : Nat
  dictId : Nat
  content : Option Nat
  checksum : Bool
  bytes : Nat

/-- Reads a frame's header (3.1.1.1). -/
def frameDesc (bs : List Byte) : Option FrameDesc :=
  let d := field bs 4 1
  let single := d / 32 % 2 = 1
  let w := if single then 0 else 1
  let i := [0, 1, 2, 4].getD (d % 4) 0
  let c := [if single then 1 else 0, 2, 4, 8].getD (d / 64) 0
  let content := if c = 0 then none else some (field bs (5 + w + i) c + (if c = 2 then 256 else 0))
  let wd := field bs 5 1
  let base := 2 ^ (10 + wd / 8)
  if bs.length < 5 + w + i + c ∨ field bs 0 4 ≠ 0xFD2FB528 ∨ d / 8 % 2 = 1 then none
  else some
    { window := if single then content.getD 0 else base + base / 8 * (wd % 8)
      dictId := field bs (5 + w) i
      content := content
      checksum := d / 4 % 2 = 1
      bytes := 5 + w + i + c }

/-- The expansion of a section with a dictionary, empty where there is none (R438): one frame and nothing after it, a window of
at most 8 MiB, a dictionary of at most 64 KiB. -/
def zstdExpand (src dict : List Byte) : Expanded :=
  match frameDesc src, dictionary dict with
  | some f, some (id, x) =>
    if 2 ^ 23 < f.window ∨ 2 ^ 16 < dict.length ∨ (f.dictId ≠ 0 ∧ (dict = [] ∨ (id.getD f.dictId) ≠ f.dictId)) then .malformed
    else
      match Expander.blocks f.window (min f.window 131072) (src.length + 1) x (src.drop f.bytes) with
      | none => .malformed
      | some (y, rest) =>
        let data := (y.behind.take y.made).reverse
        if rest.length ≠ (if f.checksum then 4 else 0) ∨ f.content.getD y.made ≠ y.made then .malformed
        else if f.checksum && field rest 0 4 != (xxh64 data).toNat % 2 ^ 32 then .mismatch y.made
        else .ok data
  | _, _ => .malformed

end Sys2Proof.Machine
end

