-- ==== Sys2Proof/Machine/Contexts.lean ====
section
/-!
DEFINITION. Contexts as the host makes and ends them, the push window, ENABLE and the other host registers, host accesses,
expansions, and failing memory channels (17_scheduling.md R304–R310, 21_reliability.md R371, 27_host.md R426–R430,
R438–R441).
-/

namespace Sys2Proof.Machine

/-! ### The context table and the command word (R304, R307) -/

/-- The descriptor that entry n of the context table names, when it is valid (R304). -/
def State.tableEntry (s : State) (n : Nat) : Option Nat :=
  let e := leNat (s.readMem (s.host.ctxtab.toNat + 8 * n) 8)
  if bitsOf e 0 0 = 1 then some (512 * bitsOf e 51 9) else none

/-- What a descriptor holds that ACTIVATE and REFRESH read (R305). -/
structure Descriptor where
  ctl : Nat
  coremask : BitVec 192
  tvec : VAddr
  emtab : VAddr
  deriving DecidableEq, Repr

/-- Reads a descriptor. -/
def State.descriptor (s : State) (dpa : Nat) : Descriptor :=
  { ctl := leNat (s.readMem (dpa + 128) 4)
    coremask := BitVec.ofNat 192 (leNat (s.readMem (dpa + 136) 24))
    tvec := BitVec.ofNat 72 (256 * leNat (s.readMem (dpa + 160) 8))
    emtab := BitVec.ofNat 72 (256 * leNat (s.readMem (dpa + 168) 8)) }

/-- Whether CTL holds a value that is refused: SBMODE 3, LEASE 0, a reserved bit (R307). -/
def ctlBad (v : Nat) : Bool :=
  bitsOf v 5 4 == 3 || bitsOf v 31 16 == 0 || bitsOf v 15 9 != 0 || bitsOf v 7 6 != 0 || bitsOf v 3 3 != 0

/-- A core mask without the cores that the die does not have (R305). -/
def Die.mask (d : Die) (m : BitVec 192) : BitVec 192 := m &&& BitVec.ofNat 192 (2 ^ d.cores - 1)

/-- A context as its descriptor starts it. -/
def Ctx.start (d : Die) (id dpa : Nat) (x : Descriptor) : Ctx :=
  { Ctx.none with
    id := id
    dpa := dpa
    prio := bitsOf x.ctl 2 0
    sbmode := bitsOf x.ctl 5 4
    scopemode := bitsOf x.ctl 8 8
    lease := bitsOf x.ctl 31 16
    tvec := x.tvec
    emtab := x.emtab
    coremask := Die.mask d x.coremask }

/-- Nothing that this die knows of an earlier context of a number holds for a new one. -/
def State.freshCtx (s : State) (n : Nat) : State :=
  { s with
    widths := s.widths.filter (·.ctx != n)
    aside := s.aside.filter (·.block.ctx != n)
    nodes := s.nodes.filter (·.1 != n) }

/-- ACTIVATE of a context that is not active, with the mirror state of a migrated one; none when it is refused (R307).  Its
coverage gates are open (23_rendering.md R390). -/
def State.activate (s : State) (n : Nat) (mirror : Option Mirror) : Option State :=
  match s.tableEntry n with
  | none => none
  | some dpa =>
    let x := s.descriptor dpa
    if ctlBad x.ctl || (s.ctx? n).isSome then none
    else
      let s := if mirror.isSome then s else s.freshCtx n
      some { s with
      ctxs := s.ctxs ++ [{ Ctx.start s.die n dpa x with travelled := mirror.isSome, mirror := mirror }]
      gates := s.gates.filter (·.2 != n) }.signalEnsigns

/-- REFRESH of an active context; none when it is refused (R307). -/
def State.refresh (s : State) (n : Nat) : Option State :=
  match s.tableEntry n, s.ctx? n with
  | some _, some c =>
    let x := s.descriptor c.dpa
    if ctlBad x.ctl then none
    else
      let y := Ctx.start s.die n c.dpa x
      let s := s.updCtx n fun c => { c with
        prio := y.prio, sbmode := y.sbmode, scopemode := y.scopemode, lease := y.lease, tvec := y.tvec, emtab := y.emtab }
      some (s.commitMask n y.coremask).signalEnsigns
  | _, _ => none

/-- DESTROY of a context: the core mask is emptied, and the rest follows when no block is left (R307). -/
def State.destroy (s : State) (n : Nat) : State :=
  ((s.updCtx n fun c => { c with destroying := true }).commitMask n 0).endDestroy n

/-- A write of the command word (R307): before ENABLE it is discarded; an ignored command is logged, and recorded all the
same. -/
def State.command (s : State) (cmd ctx value : Nat) : State :=
  if s.host.enable = false then s
  else
    let t : State := { s with host := { s.host with cmd := cmd, cmdCtx := ctx } }
    if s.host.busy.isSome || (s.tableEntry ctx).isNone then t.ignoreWrite value 8
    else
      match cmd with
      | 0 => (t.activate ctx none).getD (t.ignoreWrite value 8)
      | 1 => (t.refresh ctx).getD (t.ignoreWrite value 8)
      | 2 =>
        if (s.ctx? ctx).isSome then { t with host := { t.host with busy := some ctx } }.destroy ctx
        else t.writePhys (t.host.ctxtab.toNat + 8 * ctx) (natLe 8 0)
      | _ => t.ignoreWrite value 8

/-- ACTIVATE. -/
def execActivate (ctx : BitVec 6) (s : State) : Host.Outcome State Fault Refusal :=
  .next (s.command 0 ctx.toNat ctx.toNat)

/-- REFRESH. -/
def execRefresh (ctx : BitVec 6) (s : State) : Host.Outcome State Fault Refusal :=
  .next (s.command 1 ctx.toNat (256 + ctx.toNat))

/-- DESTROY. -/
def execDestroy (ctx : BitVec 6) (s : State) : Host.Outcome State Fault Refusal :=
  .next (s.command 2 ctx.toNat (512 + ctx.toNat))

/-! ### The push window (R309, R310) -/

/-- How the port answers a write that it completes: 0 Successful, 1 Unsupported Request, 2 Request Retry Status. -/
def State.reply (s : State) (code : Nat) : State := { s with host := { s.host with replies := s.host.replies ++ [natLe 1 code] } }

/-- How a push ends. -/
inductive Pushed where
  | appended (s : State)
  | full (s : State)
  | unsupported (s : State)
  /-- A page of its queue moves between the dies: the push is made once it has come (25_docking.md R411). -/
  | waits (s : State)
  deriving Repr

/-- A push of the queue front end (R309, R310).  A context whose table entry is valid but which is not active is taken as one that
does not exist (DESIGN CHOICE, log 46).  R309 lists translation, W and tier as what a push cannot reach: a header or ring in a
poisoned sector is taken as one more, with Unsupported Request and the context faulted (DESIGN CHOICE, log 64). -/
def State.push (s : State) (slot : Nat) (data : List Byte) : Pushed :=
  if s.host.enable = false then .unsupported s
  else
    match s.ctx? (slot / 16) with
    | none => .unsupported s
    | some c =>
      match s.ctxQueue c.firstCore c (slot % 16) with
      | none => .unsupported s
      | some (p, q) =>
        if data.length ≠ q.size ∨ (q.size ≠ 32 ∧ q.size ≠ 64) then .unsupported s
        else
          match s.queuePush p q [data] .store with
          | .error f =>
            if f.stall then .waits ((s.reach c.firstCore c f.va .store allRights).2)
            else .unsupported (s.faultCtx c.id .queueState 0x3200 (natLe 16 f.va.toNat))
          | .ok (0, s) => .full s
          | .ok (_, s) => .appended (if slot % 16 ≤ 1 then s.signalEnsigns else s)

/-- PUSH_DMWR (R309). -/
def execPushDmwr (slot : Nat) (data : List Byte) (s : State) : Host.Outcome State Fault Refusal :=
  .next (match s.push slot data with
    | .appended s => s.reply 0
    | .full s => s.reply 2
    | .unsupported s => s.reply 1
    | .waits s => { s with agenda := .push slot data false :: s.agenda })

/-- LOST of a slot increases by one. -/
def State.countLost (s : State) (slot : Nat) : State :=
  { s with host := { s.host with
    lost := (slot, BitVec.ofNat 32 (s.lostOf slot + 1)) :: s.host.lost.filter (·.1 != slot) } }

/-- A posted push (R309). -/
def State.pushPosted (s : State) (slot : Nat) (data : List Byte) : State :=
  match s.push slot data with
  | .appended s => s
  | .full s => s.countLost slot
  | .unsupported s => s
  | .waits s => { s with agenda := .push slot data true :: s.agenda }

/-- PUSH_POSTED (R309). -/
def execPushPosted (slot : Nat) (data : List Byte) (s : State) : Host.Outcome State Fault Refusal :=
  .next (s.pushPosted slot data)

/-! ### Expansion (R438, R439) -/

/-- A command written to the expansion slot: eight wait at most (R439). -/
def State.expansion (s : State) (data : List Byte) (posted : Bool) : State :=
  if s.host.enable = false || data.length != 64 then (if posted then s else s.reply 1)
  else if 8 ≤ s.host.expq.length then (if posted then s.countLost 1024 else s.reply 2)
  else
    let s : State := { s with host := { s.host with expq := s.host.expq ++ [data] } }
    if posted then s else s.reply 0

/-- EXPANSION_COMMAND (R439). -/
def execExpansionCommand (data : List Byte) (posted : Bool) (s : State) : Host.Outcome State Fault Refusal :=
  .next (s.expansion data posted)

/-- n free bytes, each from a use of its own (log 9). -/
def freeBytes (fresh n : Nat) : List Byte := (List.range n).map fun k => (Config.freeWord (fresh + k)).setWidth 8

/-- Whether an expansion cannot reach n bytes: they lie outside the physical addresses, on a die that no link reaches, or on a
dropped channel. -/
def State.outOfReach (s : State) (pa n : Nat) : Bool :=
  n != 0 && (decide (2 ^ 52 < pa + n) || s.unlinked pa || s.unlinked (pa + n - 1) || s.droppedRange pa n)

/-- The status of an expansion, the bytes of one that succeeds, and how many it has produced when that is known (R439): an access
error comes first, then malformed data, then BOUND, then the checksum (log 12). -/
def State.expansionOf (s : State) (src n dict m dst bound : Nat) : Nat × List Byte × Option Nat :=
  if s.outOfReach src n || s.outOfReach dict m || s.outOfReach dst bound || (n != 0 && s.poisoned src n) ||
      (m != 0 && s.poisoned dict m) then (4, [], none)
  else
    match zstdExpand (s.readMem src n) (s.readMem dict m) with
    | .ok data => if bound < data.length then (1, [], none) else (0, data, some data.length)
    | .malformed => (2, [], none)
    | .mismatch made => if bound < made then (1, [], none) else (3, [], some made)

/-- One expansion: its bytes are written below BOUND, then STATUS (R439).  After an error the destination below BOUND is open,
but for one that cannot be reached, and so is the count of bytes where the engine stops short of the end (log 9). -/
def State.expand (s : State) (x : List Byte) : State :=
  let f (k : Nat) : Nat := leNat (segment x (8 * k) 8)
  let (status, out, made) := s.expansionOf (f 0) (f 1) (f 2) (f 3) (f 4) (f 5)
  let (produced, s) := match made with
    | some n => (n, s)
    | none => (s.free.1.toNat, s.free.2)
  let s := if status = 0 then s.writePhys (f 4) out
    else if s.outOfReach (f 4) (f 5) then s
    else { s with fresh := s.fresh + f 5 }.writePhys (f 4) (freeBytes s.fresh (f 5))
  let s := if s.outOfReach (f 6) 8 then s else s.writePhys (f 6) (natLe 4 status ++ natLe 4 produced)
  s.raiseMsi 35

/-- EXPANSION_DONE (R439). -/
def execExpansionDone (s : State) : Host.Outcome State Fault Refusal :=
  .next (match s.host.expq with
    | x :: rest => { s with host := { s.host with expq := rest } }.expand x
    | [] => s)

/-! ### Host registers (R430, R444) -/

/-- A change of the host's fields of the Burgee table, with CHANGE when a field has changed (R429). -/
def State.setHost (s : State) (f : HostRegs → HostRegs) : State :=
  let h := f s.host
  { s with host := if h = s.host then h else { h with change := h.change + 1 } }

/-- Whether a depth is a power of two from 16 to 65,536 (R430). -/
def depthOk (d : Word) : Bool := (List.range 13).any fun k => d.toNat == 2 ^ (k + 4)

/-- ERR of the host fields (R430). -/
def HostRegs.check (h : HostRegs) : Nat :=
  if h.ctxtab.toNat % 512 != 0 || h.evring.toNat % 64 != 0 || h.flring.toNat % 64 != 0 || h.sgring.toNat % 64 != 0 then 1
  else if !depthOk h.evdepth || !depthOk h.fldepth || !(h.sgdepth == 0 || depthOk h.sgdepth) then 2
  else 0

/-- An agent's hoist as ENABLE starts it (R441): it runs its own program, which this model does not fetch.  The atomic
service hoist has 32 lanes on either die (01_machine.md R24). -/
def Hoist.agent (d : Die) (role : Role) (src : Nat) : Hoist :=
  let h := Hoist.start src 0 0 (if role = .service then 32 else d.nativeWidth) 0 0
  { h with role := role, regs := { h.regs with groups := [] } }

/-- The agents of a die. -/
def agents (d : Die) : List Hoist :=
  (List.range d.cores).map (fun k => Hoist.agent d .ensign (ensignSrc k)) ++
    (List.range d.clusters).map fun c => Hoist.agent d .service (serviceSrc c)

/-- A write of CTL (R430). -/
def State.writeEnable (s : State) (v : Word) : State :=
  if !s.host.barReady then s
  else if s.host.enable then s.ignoreWrite v.toNat 4
  else if v.getLsbD 0 then
    let err := s.host.check
    if err ≠ 0 then s.setHost fun h => { h with err := err }
    else
      let s := s.setHost fun h => { h with enable := true, err := 0 }
      { s with hoists := s.hoists ++ agents s.die }.signalEnsigns
  else s

/-- ENABLE (R430). -/
def execEnable (value : BitVec 32) (s : State) : Host.Outcome State Fault Refusal := .next (s.writeEnable value)

/-- A host field of 8 or 4 bytes after bytes are written at an offset into it. -/
def overField (old n off : Nat) (data : List Byte) : Nat :=
  leNat (((natLe n old).take off ++ data ++ (natLe n old).drop (off + data.length)).take n)

/-- The host fields after a write at an offset of the WINDOWS entry (R430). -/
def HostRegs.write (h : HostRegs) (off : Nat) (data : List Byte) : HostRegs :=
  let w64 (old : BitVec 64) (base : Nat) : BitVec 64 := BitVec.ofNat 64 (overField old.toNat 8 (off - base) data)
  let w32 (old : Word) (base : Nat) (d : List Byte) : Word := BitVec.ofNat 32 (overField old.toNat 4 (off - base) d)
  if off < 48 then { h with ctxtab := w64 h.ctxtab 40 }
  else if off < 56 then { h with evring := w64 h.evring 48 }
  else if off < 60 then
    let h := { h with evdepth := w32 h.evdepth 56 (data.take 4) }
    if data.length = 8 then { h with fldepth := BitVec.ofNat 32 (leNat (data.drop 4)) } else h
  else if off < 64 then { h with fldepth := w32 h.fldepth 60 data }
  else if off < 72 then { h with flring := w64 h.flring 64 }
  else if off < 80 then { h with sgring := w64 h.sgring 72 }
  else { h with sgdepth := w32 h.sgdepth 80 (data.take 4) }

/-- A write in the WINDOWS entry (R428, R430). -/
def State.writeWindows (s : State) (off : Nat) (data : List Byte) : State :=
  let n := data.length
  if !(n == 4 || n == 8) || off % n != 0 || decide (off < 40) || s.host.enable then s.ignoreWrite (leNat data) n
  else if off = 84 then s.writeEnable (BitVec.ofNat 32 (leNat data))
  else
    let s := s.setHost fun h => h.write off data
    if off = 80 ∧ n = 8 then s.writeEnable (BitVec.ofNat 32 (leNat (data.drop 4))) else s

/-- A message whose pending bit was set is sent once its mask bit is cleared (R433). -/
def State.unmask (s : State) (v : Nat) : State :=
  if s.host.msixPending.getLsbD v then
    { s with host := { s.host with
      msixPending := s.host.msixPending &&& ~~~BitVec.twoPow 64 v
      messages := s.host.messages ++ [v] } }
  else s

/-- A write of a word of the MSI-X table. -/
def State.writeMsixWord (s : State) (off : Nat) (data : List Byte) : State :=
  let v := off / 16
  if off % 16 ≠ 12 then { s with host := { s.host with msixTable := s.host.msixTable.writeBytes off data } }
  else if leNat data % 2 = 1 then { s with host := { s.host with msixMask := s.host.msixMask ||| BitVec.twoPow 64 v } }
  else { s with host := { s.host with msixMask := s.host.msixMask &&& ~~~BitVec.twoPow 64 v } }.unmask v

/-- A write of the MSI-X table, word by word. -/
def State.writeMsix (s : State) (off : Nat) (data : List Byte) : State :=
  let s := s.writeMsixWord off (data.take 4)
  if data.length = 8 then s.writeMsixWord (off + 4) (data.drop 4) else s

/-- A posted write of a register in BAR0, which is 32 MiB long (R307, R309, R348, R425, R428, R430, R439, R444). -/
def State.registerWrite (s : State) (off : Nat) (data : List Byte) : State :=
  let n := data.length
  let v := leNat data
  if !s.host.barReady || decide (bar0Size < off + n) then s
  else if s.windowsOff ≤ off ∧ off + n ≤ s.windowsOff + 88 then s.writeWindows (off - s.windowsOff) data
  else if pushOff ≤ off ∧ off < pushOff + 0x40000 ∧ (off - pushOff) % 256 = 0 then s.pushPosted ((off - pushOff) / 256) data
  else if off = pushOff + 0x40000 ∧ n = 8 then s.command (bitsOf v 9 8) (bitsOf v 5 0) v
  else if off = pushOff + 0x40008 ∧ n = 8 then
    if s.host.enable ∧ 2 ≤ bitsOf v 23 22 then s.ignoreWrite v 8
    else s.resolveWrite (bitsOf v 21 16) (bitsOf v 15 0) (bitsOf v 23 22)
  else if off = telOff + 0x14 ∧ n = 4 ∧ 150 ≤ v ∧ v ≤ 640 then { s with power := { s.power with capW := BitVec.ofNat 32 v } }
  else if msixOff ≤ off ∧ off + n ≤ msixOff + 1024 ∧ (n = 4 ∨ n = 8) ∧ off % n = 0 then s.writeMsix (off - msixOff) data
  else if off = xpOff then s.expansion data true
  else s.ignoreWrite v n

/-- REGISTER_WRITE (R428). -/
def execRegisterWrite (offset : Nat) (data : List Byte) (s : State) : Host.Outcome State Fault Refusal :=
  .next (s.registerWrite offset data)

/-! ### Host accesses (R426) -/

/-- Where T0 of this die begins (25_docking.md R408). -/
def State.t0Base (s : State) : Nat := match s.die with | .tsuord => 0 | .companion => companionBase

/-- Whether a physical range is T0 of this die (R371, 25_docking.md R408). -/
def State.isT0 (s : State) (pa n : Nat) : Bool := decide (s.t0Base ≤ pa) && decide (pa + n ≤ s.t0Base + s.power.capacity)

/-- Whether the host reaches a range of T0: through CXL.mem all of it, through BAR2 what its size takes in (R425, R427). -/
def State.hostReaches (s : State) (pa n : Nat) : Bool :=
  s.isT0 pa n && (decide (pa + n ≤ s.t0Base + s.host.aperture) || s.cxlMode)

/-- The host sets the size of BAR2: 1 GiB up to the capacity of T0 (R425; log 49). -/
def State.resizeBar (s : State) (n : Nat) : State :=
  if !s.host.configReady || decide (n < 2 ^ 30) || decide (s.power.capacity < n) then s
  else { s with host := { s.host with aperture := n } }

/-- A host read's answer: the bytes, then 1 when they carry the poison indication (21_reliability.md R358). -/
def State.answer (s : State) (data : List Byte) (poisoned : Bool) : State :=
  { s with host := { s.host with replies := s.host.replies ++ [data ++ [if poisoned then 1 else 0]] } }

/-- HOST_ACCESS (R426): a read has as many bytes as `data`; an address of 2^52 and up is a read of BAR0. -/
def execHostAccess (pa : Nat) (write : Bool) (data : List Byte) (s : State) : Host.Outcome State Fault Refusal :=
  .next (if !s.host.barReady then s
    else if 2 ^ 52 ≤ pa then (if write then s.registerWrite (pa - 2 ^ 52) data else s.answer (s.bar0Read (pa - 2 ^ 52) data.length) false)
    else if !s.hostReaches pa data.length then (if write then s else s.answer (ones data.length) false)
    else if write then s.writePhys pa data
    else s.answer (s.mem.readBytes pa data.length) (s.poisoned pa data.length))

/-- A host access that waits: a block or span holds one of its lines, or an engine has still to write there
(11_ordering.md R215, R219). -/
def State.hostWaits (s : State) (i : Instr) : Bool :=
  match i with
  | .hostAccess pa _ data =>
    decide (pa < 2 ^ 52) && s.hostReaches pa data.length &&
      (s.owned (.agent 0) [(pa, data.length)] ||
        s.holds.any fun h => decide (pa / 64 ≤ h.line) && decide (h.line ≤ (pa + data.length - 1) / 64))
  | _ => false

/-! ### Failing channels (R371) -/

/-- The sectors of T0 that a failing channel cannot deliver. -/
def State.unreadable (s : State) (channel : Nat) : List Nat := (Config.unreadable channel).filter fun k => s.isT0 (32 * k) 32

/-- Every block of every context is stopped for a save as a PREEMPT record; one that cannot be stopped yet is later. -/
def State.stopAll (s : State) : State := (s.blocks.map (·.id)).foldl State.stopLeaving s

/-- A pseudo-channel is declared failing (R371). -/
def State.channelFails (s : State) (ch : Nat) : State :=
  if s.die != .tsuord || s.power.failing.contains ch || decide (80 ≤ ch) then s
  else if 8 ≤ s.power.dropped + s.power.failing.length then
    s.ctxs.foldl (fun s c => s.faultCtx c.id .ninthChannel (0x3300 + ch) []) s
  else
    let s : State := { s with power := { s.power with failing := s.power.failing ++ [ch], saving := true } }
    let s := (s.logEvent 7 (0x3300 + ch) none ch []).stopAll
    (s.unreadable ch).foldl (fun s k => s.poisonSector k (0x3300 + ch)) s

/-- PSEUDO_CHANNEL_FAILING (R371). -/
def execPseudoChannelFailing (channel : Nat) (s : State) : Host.Outcome State Fault Refusal := .next (s.channelFails channel)

/-! ### Errors of the silicon (R357, R359, R371) -/

/-- A sector becomes poisoned on the report of an agent; a pseudo-channel that has reported more than 16 within one second
fails (R371). -/
def State.uncorrectable (s : State) (sector source : Nat) : State :=
  let s := s.poisonSector sector source
  if source < 0x3300 ∨ 0x3350 ≤ source then s
  else
    let ch := source - 0x3300
    let now := s.time.toNat
    let s : State := { s with power := { s.power with
      reports := (ch, now) :: s.power.reports.filter fun x => decide (now < x.2 + 1200000000) } }
    if 16 < (s.power.reports.filter (·.1 == ch)).length then s.channelFails ch else s

/-- A part of a hoist's state goes bad. -/
def State.addFlaw (s : State) (src : Nat) (f : Flaw) : State := s.updHoist src fun h => { h with flaws := f :: h.flaws }

/-- An error of the silicon (R357): a corrected one is counted; bytes that change under their check value make the sector
poisoned, unless they have the same check value. -/
def State.upset (s : State) : Upset → State
  | .corrected => { s with power := { s.power with correctable := s.power.correctable + 1 } }
  | .sector k src => s.uncorrectable k src
  | .bytes k data src =>
    let old := s.mem.readBytes (32 * k) 32
    let s := { s with mem := s.mem.writeBytes (32 * k) (data.take 32) }
    if sectorCheck (s.mem.readBytes (32 * k) 32) = sectorCheck old then s else s.uncorrectable k src
  | .vword src n l => s.addFlaw src (.v n l)
  | .pbit src n l => s.addFlaw src (.p n l)
  | .sreg src n => s.addFlaw src (.s n)
  | .slot src => s.addFlaw src .slot
  | .pool b k => s.updBlock b fun b => { b with poison := k :: b.poison.filter (· != k) }

/-- The host writes bytes of its own memory (27_host.md R427): no address of either die's memory changes, and waiters on its
lines are not woken before the line is read again (11_ordering.md R239). -/
def State.hostStore (s : State) (pa : Nat) (data : List Byte) : State :=
  if tsuordTop ≤ pa ∧ pa + data.length ≤ companionBase then { s with mem := s.mem.writeBytes pa data } else s

/-- C′ of R371: the capacity over one channel less, in whole 64 KiB. -/
def lessChannel (c n : Nat) : Nat := c * (n - 1) / n / 65536 * 65536

/-- Steps 3 to 5 of R371, once every block is saved. -/
def State.rebuild (s : State) (ch : Nat) : State :=
  if !s.power.failing.contains ch || s.blocks != [] then s
  else
    let c := lessChannel s.power.capacity s.power.channels
    let rest := s.power.failing.filter (· != ch)
    let s : State := { s with
      mem := s.mem.filter fun x => decide (x.1 < c) || decide (s.power.built ≤ x.1)
      poison := s.poison.filter fun k => decide (32 * k < c) || decide (s.power.built ≤ 32 * k)
      power := { s.power with
        failing := rest
        saving := !rest.isEmpty
        dropped := s.power.dropped + 1
        channels := s.power.channels - 1
        capacity := c }
      host := { s.host with change := s.host.change + 1 } }
    (s.logEvent 7 (0x3300 + ch) none ch (natLe 16 c)).signalEnsigns

/-- INTERLEAVE_REBUILD (R371). -/
def execInterleaveRebuild (channel : Nat) (s : State) : Host.Outcome State Fault Refusal := .next (s.rebuild channel)

/-- A dropped channel's rebuild that is due. -/
def State.nextRebuild (s : State) : Option Nat := if s.blocks = [] then s.power.failing.head? else none

end Sys2Proof.Machine
end

