-- ==== Sys2Proof/Machine/Copies.lean ====
section
/-!
DEFINITION. Copies: CPY, CPYS, BATCH, WAITB (09_memory.md R185–R195).
-/

namespace Sys2Proof.Machine

/-- A dimension entry of a copy descriptor (R186). -/
def copyDim (d : List Byte) (k : Nat) : Nat × Int × Int :=
  let x := leNat (segment d (32 + 14 * k) 14)
  (bitsOf x 31 0, signedOf 40 (bitsOf x 71 32), signedOf 40 (bitsOf x 111 72))

/-- Whether the header of a descriptor has a reserved bit set or a reserved ESZ (R185). -/
def copyHeaderBad (d : List Byte) : Bool :=
  let h := leNat (d.take 32)
  bitsOf h 7 4 != 0 || bitsOf h 15 11 != 0 || bitsOf h 23 18 != 0 || bitsOf h 63 24 != 0 || bitsOf h 255 192 != 0 ||
    decide (5 ≤ bitsOf h 10 8)

/-- The copy that a descriptor names (R185–R188). -/
def copyOf (d : List Byte) (src dst bar : AReg) (at_ : VAddr) (privileged : Bool) : CopyJob :=
  let h := leNat (d.take 32)
  { esz := bitsOf h 10 8
    zfill := bitsOf h 17 17 == 1
    srcOff := signedOf 64 (bitsOf h 127 64)
    dstOff := signedOf 64 (bitsOf h 191 128)
    dims := (List.range (bitsOf h 3 0 + 1)).map (copyDim d)
    src := src
    dst := dst
    bar := if bitsOf h 16 16 = 1 then some bar else none
    batch := none
    done := []
    token := none
    info := at_.extractLsb' 8 64
    cpys := false
    privileged := privileged }

/-- The copy of a CPYS (R191). -/
def copyRun (n : Nat) (src dst : AReg) (bar : Option AReg) (word : BitVec 32) (privileged : Bool) : CopyJob where
  esz := 0
  zfill := false
  srcOff := 0
  dstOff := 0
  dims := [(n, 1, 1)]
  src := src
  dst := dst
  bar := bar
  batch := none
  done := []
  token := none
  info := word.zeroExtend 64
  cpys := true
  privileged := privileged

/-- Whether one side of a copy lies in its window, aligned (R189). -/
def sideOk (a : AReg) (segSize esz : Nat) (off : Int) (dims : List (Nat × Int)) : Bool :=
  let (lo, hi) := copyBox off esz dims
  let size : Int := (2 ^ esz : Nat)
  let c : Int := a.cursor.toNat
  decide (0 ≤ c + lo) && decide (c + hi ≤ a.extent.toNat) &&
    (!a.has permSCR || decide (a.base.toNat + c + hi ≤ segSize)) &&
    (a.base.toNat + c + off) % size == 0 && dims.all fun d => decide (d.1 ≤ 1) || d.2 % size == 0

/-- The BOUND checks of a copy: both windows, the source only without ZFILL, and the barrier's 16 bytes (R189, R199). -/
def CopyJob.inBounds (j : CopyJob) (segSize : Nat) : Bool :=
  (j.zfill || sideOk j.src segSize j.esz j.srcOff (j.dims.map fun d => (d.1, d.2.1))) &&
    sideOk j.dst segSize j.esz j.dstOff (j.dims.map fun d => (d.1, d.2.2)) &&
    match j.bar with
    | some a => a.accessOk segSize 16 16 a.cursor.toNat
    | none => true

/-- The line of a window position that a CHECK hold refuses to the hoist (11_ordering.md R219). -/
def Env.checkHeld (e : Env) (a : AReg) (use : PageUse) (pos : Int) (n : Nat) : Bool :=
  if a.has permSCR then false
  else
    match e.s.range { e.who use with performs := false } e.c use a.rights (a.address pos) n with
    | (.ok rs, _) => match e.s.runsOutside (e.who use) rs with | some x => x.mode == 1 | none => false
    | (.error _, _) => false

/-- The first address of a copy that lies under a CHECK hold of another scope. -/
def Env.copyScope (e : Env) (j : CopyJob) : Option VAddr :=
  if e.s.holds.all (·.mode != 1) then none
  else (List.range j.total).findSome? fun k =>
    let se := j.srcPos k
    let de := j.dstPos k
    if e.checkHeld j.src .load se (2 ^ j.esz) then some (j.src.address se)
    else if e.checkHeld j.dst .store de (2 ^ j.esz) then some (j.dst.address de)
    else none

/-- The copies of a hoist that are in flight. -/
def State.copiesOf (s : State) (src : Nat) : List Flight :=
  s.flights.filter fun f => f.src == src && match f.work with | .copy _ => true | _ => false

/-- Whether a piece of work is a copy of a hoist. -/
def copyOfHoist (src : Nat) (f : Flight) : Bool := f.src == src && match f.work with | .copy _ => true | _ => false

/-- A copy starts after its checks (R189 items 4 and 5, R192). -/
def Env.startCopy (e : Env) (j : CopyJob) : Res :=
  if !j.src.has permCOPYSRC then e.windowPerm j.src (j.src.position j.srcOff 0)
  else if !j.dst.has permCOPYDST then e.windowPerm j.dst (j.dst.position j.dstOff 0)
  else if let some a := j.bar.filter fun a => !a.has permATOM && !a.has permSCR then e.windowPerm a a.cursor.toNat
  else if !j.inBounds e.b.segSize then e.raise .bound
  else
    match e.copyScope j with
    | some va => .trap { cls := .scope, va := some va, key := e.s.keyAt (coreOf e.h.src) e.c va } e.s
    | none =>
      let e := if 64 ≤ (e.s.copiesOf e.h.src).length then e.settle (copyOfHoist e.h.src) else e
      if !e.here then .gone e.s
      else if 64 ≤ (e.s.copiesOf e.h.src).length then .wait .retry e.s
      else e.ownLines (.copy j) fun e => .done (e.s.addFlight e.h.src e.g.id e.b.id e.c.id (.copy j))

/-- CPY (R188–R190). -/
def execCpy (d src c q : BitVec 4) (b : BitVec 8) (s : State) : Host.Outcome State Fault Refusal :=
  runWord (.cpy d src c q b) (fun e =>
    let a := e.h.areg q.toNat
    let pos := a.position (e.sval b).toInt 0
    if e.b.replicated && !(e.h.areg d.toNat).has permSCR then e.raise .illop
    else e.inOrder (a.ranges pos 256) fun e =>
      e.reachSpan a [permR] .load 64 256 pos fun s rs =>
        match e.spanBytes a 256 pos rs s with
        | none => .gone (s.loseHoist e.h.src 0xFF e.namedData)
        | some bytes =>
          let e := e.at s
          if copyHeaderBad bytes then e.raise .illop
          else
            let j := copyOf bytes (e.h.areg src.toNat) (e.h.areg d.toNat) (e.h.areg c.toNat) (a.address pos)
              e.h.privileged
            if 2 ^ 36 < j.total * 2 ^ j.esz then e.raise .illop else e.startCopy j) s

/-- CPYS (R191). -/
def execCpys (d src : BitVec 4) (a b : BitVec 8) (s : State) : Host.Outcome State Fault Refusal :=
  runWord (.cpys d src a b) (fun e =>
    let n := (e.sval a).toNat
    let ctl := (e.sval2 a b).toNat
    if bitsOf ctl 31 5 ≠ 0 ∨ (e.b.replicated = true ∧ (e.h.areg d.toNat).has permSCR = false) then e.raise .illop
    else
      let bar := if bitsOf ctl 4 4 = 1 then some (e.h.areg (bitsOf ctl 3 0)) else none
      e.startCopy (copyRun n (e.h.areg src.toNat) (e.h.areg d.toNat) bar e.w e.h.privileged)) s

/-- BATCH (R192). -/
def execBatch (s : State) : Host.Outcome State Fault Refusal :=
  runWord .batch (fun e =>
    let seq := e.h.regs.batch + 1
    .done ((e.s.closeBatch e.h.src seq.toNat).updHoist e.h.src fun h => { h with regs := { h.regs with batch := seq } })) s

/-- Whether a WAITB of n covers a batch (R193). -/
def coversBatch (n : Nat) (batch : Option Nat) : Bool :=
  match batch with
  | some b => decide ((n + 2 ^ 32 - b % 2 ^ 32) % 2 ^ 32 < 2 ^ 31)
  | none => false

/-- Whether a piece of work is a copy that a WAITB of n covers. -/
def coveredCopy (src n : Nat) (f : Flight) : Bool :=
  f.src == src && match f.work with | .copy j => coversBatch n j.batch | _ => false

/-- WAITB (R193, R194). -/
def execWaitb (a : BitVec 8) (s : State) : Host.Outcome State Fault Refusal :=
  runWord (.waitb a) (fun e =>
    let n := (e.sval a).toNat
    e.reportCopies (coversBatch n) fun e =>
      let p := coveredCopy e.h.src n
      let e := if e.s.flights.any p then e.settle p else e
      if !e.here then .gone e.s
      else e.reportCopies (coversBatch n) fun e => if e.s.flights.any p then .wait .retry e.s else .done e.s) s

end Sys2Proof.Machine
end

