-- ==== Sys2Proof/Machine/Cube.lean ====
section
/-!
DEFINITION. The cube instructions: slots, passes, promotions, tile reads and writes, the codebook (15_cube.md
R276–R299).
-/

namespace Sys2Proof.Machine

/-! ### Slots -/

/-- Whether a piece of work is a release of a slot of a block that is still to take effect (R292). -/
def releasing (block slot : Nat) (f : Flight) : Bool :=
  f.block == block && match f.work with | .slotRelease n => n == slot | _ => false

/-- Whether a slot is claimed for the words that start now: in the claim set with no release before them (R276, R292). -/
def Env.claimed (e : Env) (slot : Nat) : Bool := (e.b.slot? slot).isSome && !e.s.flights.any (releasing e.b.id slot)

/-- Whether a piece of work names a slot of the block. -/
def onSlot (block slot : Nat) (f : Flight) : Bool := f.block == block && f.work.slots.contains slot

/-- The slot number of a slot word; none when a reserved bit is set (R289). -/
def slotWord (w : Word) : Option Nat := if bitsOf w.toNat 31 7 = 0 then some (bitsOf w.toNat 6 0) else none

/-- Slot and pitch of an extended slot word; none when it breaks R289. -/
def slotPitch (w : Word) : Option (Nat × Nat) :=
  let p := bitsOf w.toNat 31 8
  if bitsOf w.toNat 7 7 = 0 ∧ p % 16 = 0 then some (bitsOf w.toNat 6 0, if p = 0 then 64 else p) else none

/-- The lowest physical slot of the core that no block has claimed (R276). -/
def State.freeSlot (s : State) (core : Nat) : Option Nat :=
  let used := ((s.blocks.filter (·.core == core)).flatMap (·.slots)).map (·.phys)
  (List.range 128).find? fun n => !used.contains n

/-- TCFG (R280, R290): a slot whose release is still under way is in the claim set (R292). -/
def execTcfg (a : BitVec 8) (s : State) : Host.Outcome State Fault Refusal :=
  runWord (.tcfg a) (fun e =>
    let w := e.sval a
    if bitsOf w.toNat 31 9 ≠ 0 ∨ bitsOf w.toNat 7 6 ≠ 0 then e.raise .illop
    else if e.b.slots ≠ [] then e.raise .tilecfg
    else .done (e.s.updBlock e.b.id fun b => { b with cubecfg := w })) s

/-- SLCL (R291). -/
def execSlcl (d a : BitVec 8) (s : State) : Host.Outcome State Fault Refusal :=
  runWord (.slcl d a) (fun e =>
    match slotWord (e.sval a) with
    | none => e.raise .illop
    | some n =>
      let e := if e.s.flights.any (releasing e.b.id n) then e.settle (releasing e.b.id n) else e
      if !e.here then .gone e.s
      else if e.s.flights.any (releasing e.b.id n) then .wait .retry e.s
      else if (e.b.slot? n).isSome then .done (e.s.putHoist (e.h.writeS d 1))
      else
        match e.s.freeSlot e.b.core with
        | some p =>
          .done ((e.s.putHoist (e.h.writeS d 1)).updBlock e.b.id fun b =>
            { b with slots := b.slots ++ [⟨n, p, false, []⟩] })
        | none => .done (e.s.putHoist (e.h.writeS d 0))) s

/-- SLRL (R292). -/
def execSlrl (a : BitVec 8) (s : State) : Host.Outcome State Fault Refusal :=
  runWord (.slrl a) (fun e =>
    match slotWord (e.sval a) with
    | none => e.raise .illop
    | some n =>
      if !e.claimed n then .done e.s
      else if e.s.flights.any (onSlot e.b.id n) then
        .done (e.s.addFlight e.h.src e.g.id e.b.id e.c.id (.slotRelease n))
      else .done (e.s.updBlock e.b.id fun b => { b with slots := b.slots.filter (·.local_ != n) })) s

/-- SLZ (R293): the earlier operations on the slot come first. -/
def execSlz (a : BitVec 8) (s : State) : Host.Outcome State Fault Refusal :=
  runWord (.slz a) (fun e =>
    match slotWord (e.sval a) with
    | none => e.raise .illop
    | some n =>
      if !e.claimed n then e.raise .illop
      else
        let e := if e.s.flights.any (onSlot e.b.id n) then e.settle (onSlot e.b.id n) else e
        if !e.here then .gone e.s
        else if e.s.flights.any (onSlot e.b.id n) then .wait .retry e.s
        else .done (e.s.updBlock e.b.id fun b => b.updSlot n fun x => { x with data := [] })) s

/-- Whether every line of a slot transfer lies in the window, each address a multiple of 16 (R294). -/
def linesOk (a : AReg) (segSize : Nat) (off : Int) (pitch : Nat) : Bool :=
  (List.range 32).all fun r => a.accessOk segSize 16 64 (a.position (off + (r * pitch : Nat)) 0)

/-- The checks of SLLD and SLST (R294): the slot and its pitch. -/
def Env.slotMove (e : Env) (sl : BitVec 8) (n : BitVec 4) (b : BitVec 8) (need : Nat) (k : Nat → Nat → Int → Res) : Res :=
  let a := e.h.areg n.toNat
  match slotPitch (e.sval sl) with
  | none => e.raise .illop
  | some (slot, pitch) =>
    let off := (e.sval2 sl b).toInt
    if !e.claimed slot then e.raise .illop
    else if !a.has need then e.windowPerm a (a.position off 0)
    else if !linesOk a e.b.segSize off pitch then e.raise .bound
    else k slot pitch off

/-- SLLD (R294). -/
def execSlld (sl : BitVec 8) (n : BitVec 4) (b : BitVec 8) (s : State) : Host.Outcome State Fault Refusal :=
  runWord (.slld sl n b) (fun e => e.slotMove sl n b permR fun slot pitch off =>
    let s := e.s.updBlock e.b.id fun b => b.updSlot slot fun x => { x with filling := true }
    .done (s.addFlight e.h.src e.g.id e.b.id e.c.id (.fill slot (e.h.areg n.toNat) off pitch e.wordPc))) s

/-- SLST (R294, 21_reliability.md R370). -/
def execSlst (sl : BitVec 8) (n : BitVec 4) (b : BitVec 8) (s : State) : Host.Outcome State Fault Refusal :=
  runWord (.slst sl n b) (fun e =>
    if e.b.replicated && !(e.h.areg n.toNat).has permSCR then e.raise .illop
    else e.slotMove sl n b permW fun slot pitch off =>
      let w : Work := .slotStore slot (e.h.areg n.toNat) off pitch e.wordPc
      e.ownLines w fun e => .done (e.inFlight .w w e.s)) s

/-! ### Passes -/

/-- Tiles of a block (R279). -/
def Block.tileCount (b : Block) : Nat := b.accSize / 4096

/-- The fields of a pass word (R295). -/
structure PassWord where
  mode : Nat
  cs : Nat
  bs : Nat
  as : Nat
  resOk : Bool
  deriving DecidableEq, Repr

/-- Reads a pass word; CS is reserved under NONE. -/
def passWord (w : Word) : PassWord :=
  let v := w.toNat
  let mode := bitsOf v 26 24
  ⟨mode, bitsOf v 22 16, bitsOf v 14 8, bitsOf v 6 0,
    bitsOf v 31 27 == 0 && bitsOf v 23 23 == 0 && bitsOf v 15 15 == 0 && bitsOf v 7 7 == 0 && decide (mode ≤ 4) &&
      (mode != 0 || bitsOf v 22 16 == 0)⟩

/-- An operand descriptor of a format block (R282). -/
structure FmtDesc where
  fmt : Nat
  scl : Bool
  bl : Nat
  soff : Nat
  /-- Its own reserved bits are zero, SOFF among them without SCL. -/
  resOk : Bool
  /-- Every bit is zero. -/
  zero : Bool
  deriving DecidableEq, Repr

/-- Descriptor k of a format block. -/
def fmtDesc (block : List Byte) (k : Nat) : FmtDesc :=
  let v := leNat (segment block (16 * k) 16)
  let scl := bitsOf v 9 9 == 1
  ⟨bitsOf v 3 0, scl, if bitsOf v 8 8 = 1 then 32 else 16, bitsOf v 63 32,
    bitsOf v 7 4 == 0 && bitsOf v 15 10 == 0 && bitsOf v 31 16 == 0 && bitsOf v 127 64 == 0 && (scl || bitsOf v 63 32 == 0),
    v == 0⟩

/-- Whether a format block's bits and the combination it names are legal (R282–R285): C fits its slots, all claimed. -/
def formatsLegal (block : List Byte) (p : PassWord) (kp : Nat) (claimed : Nat → Bool) : Bool :=
  let a := fmtDesc block 0
  let b := fmtDesc block 1
  let c := fmtDesc block 2
  let scaleOk (x : FmtDesc) : Bool := !x.scl || (cubeScaled x.fmt && decide (x.bl ≤ kp))
  let n := cubeCSlots p.mode kp (cubeCBytes c.fmt)
  a.resOk && b.resOk && decide (cubeClass a.fmt < 5) &&
    cubeClass a.fmt == cubeClass b.fmt && scaleOk a && scaleOk b &&
    (if p.mode = 0 then c.zero
     else c.resOk && !c.scl && leNat (segment block 33 1) == 0 && cubeCAllowed (cubeClass a.fmt) c.fmt && p.cs % n == 0 &&
      (List.range n).all fun i => claimed (p.cs + i))

/-- Bytes of an operand's scale area (R283). -/
def scaleBytes (x : FmtDesc) (kp : Nat) : Nat := if x.scl then 32 * (kp / x.bl) else 0

/-- The rows that a pass updates (R287). -/
def Env.rowSet (e : Env) : BitVec 32 :=
  (maskOf (fun i => e.h.active e.g.id (if e.h.width ≤ 32 then i % e.h.width else i)) 32).extractLsb' 0 32

/-- Passes posted on a cluster and not complete: the entries of its reservation table (R300). -/
def State.reservations (s : State) (cluster : Nat) : List Flight :=
  s.flights.filter fun f => clusterOf f.src == cluster && match f.work with | .pass _ => true | _ => false

/-- The pass that an MXC posts. -/
def Env.passJob (e : Env) (t : Nat) (p : PassWord) (block : List Byte) (kp : Nat) (s : State) : PassJob :=
  let a := fmtDesc block 0
  let b := fmtDesc block 1
  let scales (x : FmtDesc) : List Byte :=
    if x.scl then s.readAccess e.h.src e.b.id ⟨0, true, 0, x.soff, scaleBytes x kp⟩ else []
  { tile := t
    slotA := p.as
    slotB := p.bs
    slotC := p.cs
    mode := p.mode
    fmtA := a.fmt
    fmtB := b.fmt
    fmtC := (fmtDesc block 2).fmt
    kp := kp
    blA := a.bl
    blB := b.bl
    scalesA := scales a
    scalesB := scales b
    rows := e.rowSet
    promoteAt := bitsOf e.b.cubecfg.toNat 5 0 + 1
    prio := e.c.prio
    post := e.s.clock
    granted := false }

/-- MXC (R295). -/
def execMxc (t p f : BitVec 8) (s : State) : Host.Outcome State Fault Refusal :=
  runWord (.mxc t p f) (fun e =>
    let tile := (e.sval t).toNat
    let w := passWord (e.sval2 t p)
    let off := (e.svalAfter [t.toNat, p.toNat] f).toNat
    if !w.resOk || !e.claimed w.as || !e.claimed w.bs || !(w.mode == 0 || e.claimed w.cs) then e.raise .illop
    else if decide (e.b.tileCount ≤ tile) || off % 64 != 0 || decide (e.b.segSize < off + 64) then e.raise .bound
    else e.inOrder [] fun e =>
      if e.s.accessPoisoned e.b.id ⟨0, true, 0, off, 64⟩ then .gone (e.s.loseHoist e.h.src 0xFF e.namedData)
      else
        let block := e.s.readAccess e.h.src e.b.id ⟨0, true, 0, off, 64⟩
        let half := bitsOf e.b.cubecfg.toNat 8 8 = 1
        let kp := (if half then 1 else 2) * (cubeTk (fmtDesc block 0).fmt).getD 0
        let fits (x : FmtDesc) : Bool := !x.scl || decide (x.soff + scaleBytes x kp ≤ e.b.segSize)
        if !formatsLegal block w kp e.claimed then e.raise .illop
        else if !fits (fmtDesc block 0) || !fits (fmtDesc block 1) then e.raise .bound
        else
          let cluster := clusterOf e.h.src
          if 64 ≤ (e.s.reservations cluster).length then .wait .retry e.s
          else
            -- a table of the block's own is back in the engine before its first pass (R299)
            let s := e.s.reloadTable e.b.id
            .done (e.inFlight .x (.pass (e.passJob tile w block kp s)) s)) s

/-- MXP (R296). -/
def execMxp (a : BitVec 8) (s : State) : Host.Outcome State Fault Refusal :=
  runWord (.mxp a) (fun e =>
    let t := (e.sval a).toNat
    if e.b.tileCount ≤ t then e.raise .bound
    else .done (e.s.addFlight e.h.src e.g.id e.b.id e.c.id (.promote t))) s

/-! ### Tile elements and registers -/

/-- The checks of MXRD and MXWR (R297): tile, registers, first column, and the row of each lane. -/
def Env.tileMove (e : Env) (d a b : BitVec 8) (k : Nat → Nat → Nat → List (Nat × Nat) → Res) : Res :=
  let t := (e.sval a).toNat
  let c := (e.sval2 a b).toNat
  let n := bitsOf c 9 8 + 1
  let j0 := bitsOf c 4 0
  let half := bitsOf c 5 5
  if bitsOf c 31 10 ≠ 0 ∨ bitsOf c 7 6 ≠ 0 ∨ 32 < j0 + n ∨ (half = 1 ∧ e.h.width ≠ 16) ∨ e.vLimit < d.toNat + n then
    e.raise .illop
  else if e.b.tileCount ≤ t then e.raise .bound
  else k t n j0 (((e.h.activeLanes e.g.id).filter (· < 32)).map fun l => (l, l + 16 * half))

/-- MXRD (R297). -/
def execMxrd (d a b : BitVec 8) (s : State) : Host.Outcome State Fault Refusal :=
  runWord (.mxrd d a b) (fun e => e.tileMove d a b fun t n j0 rows =>
    .done (e.inFlight .x (.tileRead t d.toNat n j0 rows) e.s)) s

/-- MXWR (R297). -/
def execMxwr (d a b : BitVec 8) (s : State) : Host.Outcome State Fault Refusal :=
  runWord (.mxwr d a b) (fun e => e.tileMove d a b fun t n j0 rows =>
    let words := rows.map fun r => (r.2, (List.range n).map fun i => e.h.vword (d.toNat + i) r.1)
    .done (e.s.addFlight e.h.src e.g.id e.b.id e.c.id (.tileWrite t j0 words))) s

/-- CBLD (R299). -/
def execCbld (n : BitVec 4) (b : BitVec 8) (s : State) : Host.Outcome State Fault Refusal :=
  runWord (.cbld n b) (fun e =>
    let a := e.h.areg n.toNat
    let pos := a.position (e.sval b).toInt 0
    e.inOrder (a.ranges pos 1024) fun e => e.reachSpan a [permR] .load 64 1024 pos fun s rs =>
      match e.spanBytes a 1024 pos rs s with
      | none => .gone (s.loseHoist e.h.src 0xFF e.namedData)
      | some bytes =>
        let table := Memory.writeBytes [] 0 bytes
        .done ((s.loadTable (clusterOf e.h.src) e.c.id table).updBlock e.b.id fun b =>
          { b with table := some table, tableLoaded := true })) s

end Sys2Proof.Machine
end

