-- ==== Sys2Proof/Machine/Power.lean ====
section
/-!
DEFINITION. Resets, power states, clocks and throttles (27_host.md R441–R445).
-/

namespace Sys2Proof.Machine

/-! ### Resets (R441) -/

/-- What a Function Level Reset, a hot reset and a link-down do alike: every context goes, with ENABLE and the host
fields; memory and the counter stay. -/
def State.functionReset (s : State) : State :=
  { State.reset with
    die := s.die
    time := s.time
    clock := s.clock
    mem := s.mem
    poison := s.poison
    migrated := s.migrated
    host := { HostRegs.reset with configReady := s.host.configReady, barReady := s.host.barReady,
                                  messages := s.host.messages, replies := s.host.replies,
                                  aperture := s.host.aperture }
    power := { s.power with capW := 640, dstate := 0 }
    link := s.link
    agenda := s.agenda
    fresh := s.fresh
    nextId := s.nextId }

/-- FUNCTION_LEVEL_RESET (R441). -/
def execFunctionLevelReset (s : State) : Host.Outcome State Fault Refusal := .next s.functionReset

/-- HOT_RESET (R441). -/
def execHotReset (s : State) : Host.Outcome State Fault Refusal := .next s.functionReset

/-- UPSTREAM_LINK_DOWN (R441). -/
def execUpstreamLinkDown (s : State) : Host.Outcome State Fault Refusal := .next s.functionReset

/-- The state after power has gone or a cold reset: only memory that is not the part's own stays. -/
def State.cold (s : State) (powered : Bool) : State :=
  { State.reset with
    die := s.die
    mem := s.mem.filter fun c => !homedHere s.die c.1
    host := { HostRegs.reset with messages := s.host.messages, replies := s.host.replies }
    power := { Power.reset s.die with powered := powered, dstate := if powered then 0 else 4 }
    agenda := s.agenda
    fresh := s.fresh
    nextId := s.nextId }

/-- PERST_DEASSERT (R441): the counter starts from zero. -/
def execPerstDeassert (s : State) : Host.Outcome State Fault Refusal := .next (s.cold true)

/-- CONFIG_SPACE_READY (R441). -/
def execConfigSpaceReady (s : State) : Host.Outcome State Fault Refusal :=
  .next (if s.power.powered then { s with host := { s.host with configReady := true } } else s)

/-- BAR0_READY (R441). -/
def execBar0Ready (s : State) : Host.Outcome State Fault Refusal :=
  .next (if s.host.configReady then { s with host := { s.host with barReady := true } } else s)

/-! ### Power states (R443, R444) -/

/-- D3HOT_ENTRY (R443): every context must have been destroyed. -/
def execD3hotEntry (s : State) : Host.Outcome State Fault Refusal :=
  .next (if s.ctxs = [] then { s with power := { s.power with dstate := 3 } } else s)

/-- D3COLD_ENTRY (R443): every state is lost. -/
def execD3coldEntry (s : State) : Host.Outcome State Fault Refusal := .next (s.cold false)

/-- THERMTRIP (R444): the board removes power, as in D3cold. -/
def execThermtrip (s : State) : Host.Outcome State Fault Refusal := .next (s.cold false)

/-- CLUSTER_CLOCK_GATE (R443): a cluster with no resident hoist. -/
def execClusterClockGate (cluster : Nat) (s : State) : Host.Outcome State Fault Refusal :=
  .next (if s.hoists.any (fun h => h.role == .user && clusterOf h.src == cluster) || s.power.gated.contains cluster ||
      decide (s.die.clusters ≤ cluster) then s
    else { s with power := { s.power with gated := s.power.gated ++ [cluster] } })

/-! ### Clocks and throttles (R442, R445) -/

/-- A CLASS 11 record: the causes in force and the core clock (R445).  The manual names no agent for it: SOURCE is open
(log 9). -/
def State.throttleRecord (s : State) : State :=
  let (src, s) := s.free
  s.logEvent 11 (src.toNat % 0x8000) none s.power.causes.toNat (natLe 16 s.power.clockMHz)

/-- CLOCK_STEP_DOWN (R442, R445): 100 MHz down, to no less than 400 MHz, for the causes given. -/
def execClockStepDown (causes : BitVec 2) (s : State) : Host.Outcome State Fault Refusal :=
  .next (if causes = 0 then s
    else
      let begins := s.power.clockMHz == s.die.fullClock || (causes &&& ~~~s.power.causes) != 0
      let s : State := { s with power := { s.power with
        clockMHz := max 400 (s.power.clockMHz - 100)
        causes := causes
        throttled := true } }
      if begins then s.throttleRecord.raiseMsi 37 else s)

/-- Causes of a throttle that end while the clock is still below its full rate; one that comes back makes a new beginning
(R445). -/
def State.relieve (s : State) (causes : BitVec 2) : State :=
  { s with power := { s.power with causes := s.power.causes &&& ~~~causes } }

/-- CLOCK_STEP_UP (R442): 100 MHz up; at full rate no cause is in force. -/
def execClockStepUp (s : State) : Host.Outcome State Fault Refusal :=
  .next (if s.power.clockMHz = s.die.fullClock then s
    else
      let mhz := min s.die.fullClock (s.power.clockMHz + 100)
      { s with power := { s.power with
        clockMHz := mhz
        causes := if mhz = s.die.fullClock then 0 else s.power.causes
        fullSince := s.time.toNat } })

/-- Whether a throttle has ended: 1 ms back at full rate (R445). -/
def State.throttleOver (s : State) : Bool :=
  s.power.throttled && s.power.clockMHz == s.die.fullClock && decide (s.power.fullSince + 1200000 ≤ s.time.toNat)

/-- THROTTLE_END (R445). -/
def execThrottleEnd (s : State) : Host.Outcome State Fault Refusal :=
  .next (if s.throttleOver then { s with power := { s.power with throttled := false } }.throttleRecord else s)

end Sys2Proof.Machine
end

