-- ==== Sys2Proof/Machine/Ordering.lean ====
section
/-!
DEFINITION. Scopes and holds, releases and acquires, atomics, STREL, LDACQ, FENCE and MWAIT (11_ordering.md R216–R240,
21_reliability.md R364–R367).
-/

namespace Sys2Proof.Machine

/-! ### Scopes, holds, releases -/

/-- Ends the holds of a block and its span that are narrower than a scope (R218). -/
def State.endHolds (s : State) (b : Block) (scope : Nat) : State :=
  s.dropHolds fun x =>
    (!x.wide && x.holder == b.id && decide (1 ≤ scope)) || (x.wide && x.holder == b.span && decide (2 ≤ scope))

/-- The scope at which a release on lines acts, by where the lines are homed (R225).  A monitor of another chip is looked for
when the write is performed. -/
def State.releaseScope (s : State) (scope : Nat) (acc : List Access) : Nat :=
  if scope = 2 ∧ acc.any (fun x => !x.scr && !homedHere s.die x.pa) then 3 else scope

/-- What a release at a scope does before its own write (R218, R223): at .sys the hoist's earlier stores and atomics are
performed and its posted writes acknowledged; then narrower holds end. -/
def Env.releaseAt (e : Env) (scope : Nat) (k : Env → Res) (w : Wait := .generation) : Res :=
  if scope = 3 then
    e.inOrder [] fun e =>
      if e.h.posted ≠ 0 ∨ e.h.postedHost ≠ 0 then .wait w e.s else k (e.at (e.s.endHolds e.b scope))
  else k (e.at (e.s.endHolds e.b scope))

/-- What a .dev release does before its write is performed at once: promoted when a monitor of another chip stands on one of its
lines now (R225). -/
def Env.performRelease (e : Env) (scope : Nat) (acc : List Access) (k : Env → Res) : Res :=
  if scope = 2 ∧ acc.any (fun x => !x.scr && e.s.promotes x.pa) then e.releaseAt 3 k else k e

/-- Whether a piece of work accesses a line of memory. -/
def Work.onLine (line : Nat) : Work → Bool
  | .load _ _ acc => acc.any fun x => !x.scr && x.pa / 64 == line
  | .store ws _ => ws.any fun w => !w.1.scr && w.1.pa / 64 == line
  | .atomic _ _ _ lanes _ _ _ => lanes.any fun x => !x.access.scr && x.access.pa / 64 == line
  | _ => false

/-- Whether a hold may be created on a line (R217, R219). -/
def Env.mayHold (e : Env) (wide : Bool) (x : Access) : Bool :=
  let line := x.pa / 64
  !x.scr && e.s.pinOk (coreOf e.h.src) e.c x.va && !e.s.holds.any (·.line == line) &&
    (if wide then decide ((e.s.holds.filter fun h => h.wide && h.cluster == clusterOf e.h.src).length < 256)
     else decide ((e.s.holds.filter fun h => !h.wide && h.core == coreOf e.h.src).length < 64)) &&
    (e.c.scopemode != 1 || decide ((e.s.holds.filter fun h =>
      h.mode == 1 && homeSlice e.s.die h.line == homeSlice e.s.die line).length < 4096))

/-- Whether a hold on a line has to wait for a piece of work (R215, R217): an engine that owns the line, or an access from outside
that is in flight on it. -/
def Env.holdWaits (e : Env) (line : Nat) (f : Flight) : Bool :=
  (f.block != e.b.id && f.work.onLine line) || (f.work.owner && e.s.ownsOf f [(64 * line, 64)])

/-- An operation of a scope on one line (R217, R218): .dev and .sys end a hold from inside; .blk and .span create one. -/
def Env.scopeLine (e : Env) (scope : Nat) (x : Access) : Env :=
  let line := x.pa / 64
  if x.scr then e
  else if 2 ≤ scope then e.at (e.s.dropHolds (·.line == line))
  else if e.mayHold (scope == 1) x then
    e.at { e.s with holds := e.s.holds ++
      [⟨line, e.s.entryOf (coreOf e.h.src) e.c x.va, scope == 1, if scope = 1 then e.b.span else e.b.id, clusterOf e.h.src, coreOf e.h.src, e.c.scopemode⟩] }
  else e

/-- An operation of a scope on its lines, lane by lane, once nothing that a new hold would shut out is under way on them. -/
def Env.scopeLines (e : Env) (scope : Nat) (acc : List Access) (k : Env → Res) : Res :=
  let new := if 2 ≤ scope then [] else ((acc.filter (e.mayHold (scope == 1))).map fun x => x.pa / 64).eraseDups
  let p (f : Flight) : Bool := new.any fun line => e.holdWaits line f
  let e := if e.s.flights.any p then e.settle p else e
  if !e.here then .gone e.s
  else if e.s.flights.any fun f => new.any fun line => e.holdWaits line f then .wait .retry e.s
  else k (acc.foldl (fun e x => e.scopeLine scope x) e)

/-! ### Atomics -/

/-- The words of ATOM, RED, ACAS and SATOM as one description (R229–R234). -/
structure AtomUse where
  kind : Nat
  cas : Bool
  m : Nat
  n : Nat
  scope : Nat
  ordered : Bool
  ret : Option Target
  deriving DecidableEq, Repr

/-- The bytes that an atomic's item holds: the operand, or compare value and new value (21_reliability.md R364). -/
def AtomUse.item (u : AtomUse) (x : AtomLane) : List Byte :=
  if u.cas then natLe u.n x.compare ++ natLe u.n x.operand else natLe u.n x.operand

/-- The sequencing slice of an .ord operation (R234). -/
def Env.sequencing (e : Env) (a : AReg) : Nat :=
  match e.s.lookup (coreOf e.h.src) e.c a.base.toNat with
  | .ok pa _ _ _ => homeSlice e.s.die (pa / 64)
  | _ => homeSlice e.s.die (a.base.toNat % 2 ^ 52 / 64)

/-- The clusters whose service hoists a device-scope or span-scope request goes to (R216, R235). -/
def Env.serviceClusters (e : Env) (scope : Nat) (lanes : List AtomLane) : List Nat :=
  let mem := lanes.filter (!·.access.scr)
  match scope with
  | 1 => if mem = [] then [] else [clusterOf e.h.src]
  | 2 => ((mem.filter fun x => homedHere e.s.die x.access.pa).map fun x => homeSlice e.s.die (x.access.pa / 64) / 2).eraseDups
  | _ => []

/-- Whether a service hoist's queue of 256 requests is full (R235). -/
def State.serviceFull (s : State) (clusters : List Nat) : Bool :=
  clusters.any fun c => decide (256 ≤ (s.svcq.filter (·.1 == c)).length)

/-- Earlier .ord operations of the group at another sequencing slice (R234). -/
def Env.otherSequence (e : Env) (home : Nat) (f : Flight) : Bool :=
  f.src == e.h.src && f.group == e.g.id && match f.work with | .atomic _ _ _ _ _ true h => h != home | _ => false

/-- An atomic that is put in flight (R230–R235). -/
def Env.startAtomic (e : Env) (u : AtomUse) (home : Nat) (lanes : List AtomLane) : Res :=
  let e := if u.ordered && e.s.flights.any (e.otherSequence home) then e.settle (e.otherSequence home) else e
  let cs := e.serviceClusters u.scope lanes
  let e := if e.s.serviceFull cs then e.settle fun f => e.s.svcq.any (·.2 == f.id) else e
  if !e.here then .gone e.s
  else if (u.ordered && e.s.flights.any (e.otherSequence home)) || e.s.serviceFull cs then .wait .retry e.s
  else
    let bad := lanes.filter fun x => e.s.accessPoisoned e.b.id x.access
    let go (e : Env) (lanes : List AtomLane) : State :=
      if lanes = [] then e.s
      else
        let id := e.s.nextId
        let s := e.inFlight (if u.ret.isSome then .g else .w) (.atomic u.cas u.m u.ret lanes u.scope u.ordered home) e.s
        { s with svcq := s.svcq ++ cs.map fun c => (c, id) }
    if bad = [] then .done (go e lanes)
    else e.inOrderAt (bad.map (·.access)) fun e =>
      -- a poisoned sector (21_reliability.md R358, R359)
      let bad := lanes.filter fun x => e.s.accessPoisoned e.b.id x.access
      let s := go e (lanes.filter fun x => !e.s.accessPoisoned e.b.id x.access)
      if bad = [] then .done s
      else if u.kind = 4 then .gone (s.loseHoist e.h.src 0xFF e.namedData)
      else .done (s.killLanes e.h.src (deaths (bad.map (·.access))) e.namedData)

/-- An atomic on memory in the replica that performs it, once for all of them (21_reliability.md R366–R368). -/
def Env.commitAtomic (e : Env) (u : AtomUse) (lanes : List AtomLane) (ssig : BitVec 64) : Res :=
  if !e.mayForward then .wait .retry e.s
  else
    let good := lanes.filter fun x => !e.s.accessPoisoned e.b.id x.access
    let bad := lanes.filter fun x => e.s.accessPoisoned e.b.id x.access
    let (olds, s) := State.performAtomic e.h.src e.b.id e.c.id (if u.cas then .cas else .rmw u.m) good e.s
    let old (x : AtomLane) : Nat × List Byte :=
      (x.access.lane, ((olds.find? (·.1 == x.access.lane)).map (·.2)).getD (natLe u.n 0))
    let s := s.updHoist e.h.src fun h => h.setSsig ssig
    let s := match u.ret with
      | some t => e.forward (flatWords (if u.n = 8 then 1 else 0) (lanes.map old)) (s.updHoist e.h.src fun h => h.deliver t olds)
      | none => s
    if bad = [] then .done s
    else if u.kind = 4 then .gone (s.loseHoist e.h.src 0xFF e.namedData)
    else .done (s.killLanes e.h.src (deaths (bad.map (·.access))) e.namedData)

/-- An atomic on memory in a replica that takes the committer's result. -/
def Env.takeAtomic (e : Env) (i : Instr) (u : AtomUse) (lanes : List AtomLane) (ssig : BitVec 64) : Res :=
  match u.ret with
  | none => .done (e.s.updHoist e.h.src fun h => h.setSsig ssig)
  | some t =>
    match e.received i with
    | none => .wait .retry e.s
    | some ws =>
      let vals := unflatten (if u.n = 8 then 2 else 1) (lanes.map (·.access.lane)) ws
      .done (e.s.updHoist e.h.src fun h => ((h.deliver t vals).setSsig ssig).consume i)

/-- ATOM, RED, ACAS and SATOM after their form: the checks, the release, and the operation (R230–R234). -/
def Env.atomic (e : Env) (i : Instr) (u : AtomUse) (a : AReg) (perLane : Bool) (reqs : List (Nat × Int))
    (compare operand : Nat → Nat) : Res :=
  if u.ordered && a.has permSCR then e.raise .illop
  else e.checked .atomic (e.check a [permATOM] none .atomic perLane u.n u.n reqs) fun s acc =>
    let e := e.at s
    let lanes : List AtomLane := acc.map fun x => ⟨x, compare x.lane, operand x.lane⟩
    let go (e : Env) (k : Env → Res) : Res :=
      e.releaseAt (e.s.releaseScope u.scope acc) fun e => e.scopeLines u.scope acc k
    if e.b.replicated && !a.has permSCR then
      let ssig := lanes.foldl (fun c x => ssigItem c x.access.va u.kind u.m (u.item x)) e.h.regs.ssig
      e.release ssig fun e leads =>
        if leads then go e fun e => e.inOrderAt acc fun e => e.performRelease u.scope acc fun e => e.commitAtomic u lanes ssig
        else e.takeAtomic i u lanes ssig
    else go e fun e => e.startAtomic u (if u.ordered then e.sequencing a else 0) lanes

/-- A lane's operand of n bytes from V register d up. -/
def Hoist.voperand (h : Hoist) (d n l : Nat) : Nat := if n = 8 then (h.vpair d l).toNat else (h.vword d l).toNat

/-- An operand of n bytes from S register d up. -/
def Hoist.soperand (h : Hoist) (d n : Nat) : Nat := if n = 8 then (h.spair d).toNat else (h.sreg d).toNat

/-- Positions of the lanes of an atomic word (R228). -/
def Env.atomOffsets (e : Env) (x : BitVec 1) (o : BitVec 6) (a : AReg) : List (Nat × Int) :=
  e.laneOffsets (x == 1) o.toNat a

/-- ATOM (R230). -/
def execAtom (sc : BitVec 2) (d : BitVec 6) (q x : BitVec 1) (o : BitVec 6) (n m : BitVec 4) (s : State) :
    Host.Outcome State Fault Refusal :=
  runWord (.atom sc d q x o n m) (fun e =>
    let a := e.h.areg n.toNat
    let b := atomBytes m.toNat
    let u : AtomUse := ⟨1, false, m.toNat, b, sc.toNat, q == 1, some (.v d.toNat (if b = 8 then 1 else 0))⟩
    e.atomic (.atom sc d q x o n m) u a true (e.atomOffsets x o a) (fun _ => 0) (e.h.voperand d.toNat b)) s

/-- RED (R230). -/
def execRed (sc : BitVec 2) (d : BitVec 6) (q x : BitVec 1) (o : BitVec 6) (n m : BitVec 4) (s : State) :
    Host.Outcome State Fault Refusal :=
  runWord (.red sc d q x o n m) (fun e =>
    let a := e.h.areg n.toNat
    let b := atomBytes m.toNat
    let u : AtomUse := ⟨2, false, m.toNat, b, sc.toNat, q == 1, none⟩
    e.atomic (.red sc d q x o n m) u a true (e.atomOffsets x o a) (fun _ => 0) (e.h.voperand d.toNat b)) s

/-- ACAS (R232). -/
def execAcas (sc : BitVec 2) (d : BitVec 6) (q x : BitVec 1) (o : BitVec 6) (n m : BitVec 4) (s : State) :
    Host.Outcome State Fault Refusal :=
  runWord (.acas sc d q x o n m) (fun e =>
    let a := e.h.areg n.toNat
    let b := if m = 1 then 8 else 4
    let u : AtomUse := ⟨3, true, m.toNat, b, sc.toNat, q == 1, some (.v d.toNat (if b = 8 then 1 else 0))⟩
    e.atomic (.acas sc d q x o n m) u a true (e.atomOffsets x o a) (e.h.voperand d.toNat b)
      (e.h.voperand (d.toNat + b / 4) b)) s

/-- Bytes of a SATOM modifier (R229, R233). -/
def satomBytes (m : Nat) : Nat := if m = 13 then 4 else atomBytes m

/-- SATOM (R233). -/
def execSatom (sc : BitVec 2) (d : BitVec 6) (q x : BitVec 1) (o : BitVec 6) (n m : BitVec 4) (s : State) :
    Host.Outcome State Fault Refusal :=
  runWord (.satom sc d q x o n m) (fun e =>
    let a := e.h.areg n.toNat
    let b := satomBytes m.toNat
    let cas : Bool := m == 13 || m == 15
    let u : AtomUse := ⟨4, cas, m.toNat, b, sc.toNat, q == 1, some (.s d.toNat (if b = 8 then 1 else 0))⟩
    let x2 := if cas then d.toNat + b / 4 else d.toNat
    e.atomic (.satom sc d q x o n m) u a false (e.scalarOffset (x == 1) (e.h.sreg o.toNat) a)
      (fun _ => e.h.soperand d.toNat b) (fun _ => e.h.soperand x2 b)) s

/-! ### STREL, LDACQ, FENCE -/

/-- STREL (R236). -/
def execStrel (sc : BitVec 2) (d : BitVec 6) (x : BitVec 1) (o : BitVec 6) (n m : BitVec 4) (s : State) :
    Host.Outcome State Fault Refusal :=
  runWord (.strel sc d x o n m) (fun e =>
    let a := e.h.areg n.toNat
    let k := if m = 1 then 8 else 4
    let data := e.h.vbytes d.toNat (k / 4) k
    e.checked .store (e.check a [permW] none .store true k k (e.atomOffsets x o a)) fun s acc =>
      let e := e.at s
      let ws := acc.map fun y => (y, data y.lane)
      let go (e : Env) (then_ : Env → Res) : Res :=
        e.releaseAt (e.s.releaseScope sc.toNat acc) fun e => e.scopeLines sc.toNat acc then_
      if e.b.replicated then
        let mem := ws.filter (!·.1.scr)
        let ssig := mem.foldl (fun c w => ssigItem c w.1.va 0 m.toNat w.2) e.h.regs.ssig
        e.release ssig fun e leads =>
          (if leads then go e else fun k => k e) fun e => e.inOrderAt acc fun e =>
            (if leads then e.performRelease sc.toNat acc else fun k => k e) fun e =>
            let s := (ws.filter (·.1.scr)).foldl (fun s w => s.writeScratch e.b.id w.1.pa w.2) e.s
            let s := if leads then
                (mem.foldl (fun s w => s.writeShared e.h.src e.c.id w.1.pa w.2) s).unpoison
                  ((mem.filter fun w => !s.holdsWrite e.c.id w.1.pa).map fun w => (w.1.pa, w.2.length))
              else s
            .done (s.updHoist e.h.src fun h => h.setSsig ssig)
      else go e fun e => .done (e.inFlight .w (.store ws (sc == 2)) e.s)) s

/-- LDACQ (R236). -/
def execLdacq (sc : BitVec 2) (d : BitVec 6) (x : BitVec 1) (o : BitVec 6) (n m : BitVec 4) (s : State) :
    Host.Outcome State Fault Refusal :=
  runWord (.ldacq sc d x o n m) (fun e =>
    let a := e.h.areg n.toNat
    let k := if m = 1 then 8 else 4
    e.checked .load (e.check a [permR] none .load true k k (e.atomOffsets x o a)) fun s acc =>
      (e.at s).scopeLines sc.toNat acc fun e => e.startLoad .g (.v d.toNat (if m = 1 then 1 else 0)) acc e.s) s

/-- FENCE (R237): KIND 1 is .acq, 2 .rel, 3 .ar; while a .ar waits for acknowledgements no group of the hoist starts an access. -/
def execFence (k sc : BitVec 2) (s : State) : Host.Outcome State Fault Refusal :=
  runWord (.fence k sc) (fun e => e.fpxFirst fun e =>
    if k = 1 then .done e.s
    else e.release e.h.regs.ssig fun e _ => e.inOrder [] fun e =>
      e.releaseAt sc.toNat (fun e => .done e.s) (if k = 3 then .fence else .generation)) s

/-! ### MWAIT -/

/-- The hoist after an MWAIT whose condition holds: the words read, in their lanes (R238). -/
def Env.mwaitDone (e : Env) (t : Target) (vals : List (Nat × List Byte)) (s : State) : State :=
  (s.unregister e.h.src e.g.id).updHoist e.h.src fun h => h.deliver t vals

/-- MWAIT's evaluation: complete, or monitors and a wait (R238). -/
def Env.mwaitEval (e : Env) (t : Target) (cc n : Nat) (share : Bool) (acc : List Access) : Res :=
  let (good, bad) := e.s.splitPoison e.b.id acc
  let s := if bad = [] then e.s else e.s.killLanes e.h.src (deaths bad) e.namedData
  let e := if bad = [] then e else e.at s
  if !e.here then .gone e.s
  else
    let d := match t with | .v d _ => d | _ => 0
    let want (x : Access) : Nat := e.h.voperand d n x.lane
    let got (x : Access) : List Byte := e.s.readAccess e.h.src e.b.id x
    let fails := good.filter fun x => !compareCond cc n (want x) (leNat (got x))
    if fails = [] then
      let vals := good.map fun x => (x.lane, got x)
      if share && !e.mayForward then .wait .retry e.s
      else
        let s := if share then e.forward (flatWords (if n = 8 then 1 else 0) vals) e.s else e.s
        .done (e.mwaitDone t vals s)
    else if acc.any (·.scr) then .wait .retry e.s
    else e.monitor (fails.map fun x => ⟨x.pa, x.va, n, .cmp cc (want x), e.h.src, e.g.id, e.c.id, none, none⟩) e.s

/-- MWAIT (R238); in a replicated hoist the leader's values reach the others (21_reliability.md R366). -/
def execMwait (sc : BitVec 2) (d : BitVec 6) (x : BitVec 1) (o : BitVec 6) (n : BitVec 4) (z : BitVec 1) (c : BitVec 3)
    (s : State) : Host.Outcome State Fault Refusal :=
  runWord (.mwait sc d x o n z c) (fun e =>
    let a := e.h.areg n.toNat
    let k := if z = 1 then 8 else 4
    let t : Target := .v d.toNat z.toNat
    e.checked .mwait (e.check a [permATOM] none .mwait true k k (e.atomOffsets x o a)) fun s acc =>
      (e.at s).inOrderAt acc fun e =>
        (if e.follows then fun k => k e else e.scopeLines sc.toNat acc) fun e =>
        if e.follows && !a.has permSCR then
          match e.received (.mwait sc d x o n z c) with
          | none => .wait .retry e.s
          | some ws =>
            let vals := unflatten t.count (acc.map (·.lane)) ws
            .done ((e.s.updHoist e.h.src fun h => h.deliver t vals).updHoist e.h.src fun h => h.consume (.mwait sc d x o n z c))
        else e.mwaitEval t c.toNat k (e.leads && !a.has permSCR) acc) s

end Sys2Proof.Machine
end

