-- ==== Sys2Proof/Machine/System.lean ====
section
/-!
DEFINITION. Control registers, TRET, CKPT, TLBI, HOSTSIG, emulated and reserved opcodes (03_encoding.md R77–R79,
17_scheduling.md R308, R331, 19_faults.md R337, R339, R345, R346, 27_host.md R434).
-/

namespace Sys2Proof.Machine

/-! ### Control registers (R308) -/

/-- Whether the context that a hoist reaches is active. -/
def Env.reaches (e : Env) : Bool := (e.s.ctx? e.c.id).isSome

/-- The number of the context that a hoist reaches. -/
def Env.ctxNumber (e : Env) : Nat := if e.h.role = .user then e.c.id else e.h.ctxsel

/-- STATE of CR.CKPT (25_docking.md R417). -/
def MirrorPhase.code : MirrorPhase → Nat
  | .idle => 0
  | .quiesce => 1
  | .copy => 2
  | .commit => 3

/-- The value of a control register; `free` stands for a field of a context that is not active (log 19). -/
def Env.crValue (e : Env) (n : Nat) (free : Word) : Word :=
  let word (m : BitVec 192) (k : Nat) : Word := m.extractLsb' (32 * k) 32
  if n = 0x20 then BitVec.ofNat 32 e.ctxNumber
  else if n = 0 then
    BitVec.ofNat 32 (bitAt (e.h.role == .service) 14 + bitAt (e.h.role == .ensign) 13 + bitAt (e.h.regs.depth != 0) 12 +
      256 * ((if e.reaches then e.c.prio else free.toNat) % 8) + e.ctxNumber % 64)
  else if !e.reaches then free
  else if n = 1 then BitVec.ofNat 32 e.c.sbmode
  else if n = 2 then BitVec.ofNat 32 e.c.scopemode
  else if n = 3 then BitVec.ofNat 32 e.c.lease
  else if n = 4 then BitVec.ofNat 32 e.c.prio
  else if n = 8 then e.c.tvec.extractLsb' 0 32
  else if n = 9 then (e.c.tvec.extractLsb' 32 8).zeroExtend 32
  else if n = 0xC then e.c.emtab.extractLsb' 8 32
  else if n = 0xD then e.c.emtab.extractLsb' 40 32
  else if n = 0x22 then
    match e.c.mirror with
    | some m => BitVec.ofNat 32 (65536 * m.phase.code + m.period)
    | none => 0
  else if n < 0x16 then word e.c.coremask (n - 0x10)
  else word e.c.maskpend (n - 0x18)

/-- SRD (R308). -/
def execSrd (d : BitVec 8) (r : BitVec 16) (s : State) : Host.Outcome State Fault Refusal :=
  runWord (.srd d r) (fun e =>
    let (free, s) := if e.reaches || r == 0x20 then (0, e.s) else e.s.free
    .done (s.updHoist e.h.src fun h => h.writeS d (e.crValue r.toNat free))) s

/-- The values that a write of a control register refuses with ILLOP (R55, R219, R221, R308, R417). -/
def Env.crRefuses (e : Env) (n : Nat) (v : Word) : Bool :=
  match n with
  | 1 => decide (3 ≤ v.toNat)
  | 2 => decide (2 ≤ v.toNat)
  | 3 => v == 0 || decide (65536 ≤ v.toNat)
  | 4 => decide (8 ≤ v.toNat)
  | 0x20 => decide (64 ≤ v.toNat) || e.h.role == .user
  | 0x22 => bitsOf v.toNat 31 18 != 0 || bitsOf v.toNat 15 9 != 0
  | _ => decide (0x11 ≤ n) && decide (n ≤ 0x15) && e.s.die == .companion && v != 0

/-- Writes a field of a context's descriptor, as an access of the die order (R308). -/
def State.putDesc (s : State) (c : Ctx) (off : Nat) (bs : List Byte) : State := s.agentWrite c.id (c.dpa + off) bs

/-- CTL with a field of it replaced. -/
def State.putCtl (s : State) (c : Ctx) (lo n v : Nat) : State :=
  let w := leNat (s.readMem (c.dpa + 128) 4)
  s.putDesc c 128 (natLe 4 (w - w / 2 ^ lo % 2 ^ n * 2 ^ lo + v * 2 ^ lo))

/-- A new TVEC or EMTAB, whose descriptor fields hold bits [71:8]. -/
def State.putTable (s : State) (c : Ctx) (off : Nat) (a : VAddr) : State := s.putDesc c off (natLe 8 (a.toNat / 256))

/-- A core mask written to the descriptor and committed (R308, R329).  Bits of word 0 beyond the companion's cores are kept as
written (DESIGN CHOICE, log 65). -/
def State.writeMask (s : State) (c : Ctx) (m : BitVec 192) : State := (s.putDesc c 136 (natLe 24 m.toNat)).commitMask c.id m

/-- A write of a control register, which its own rules allow (R308).  The words of a core mask that have been written and not yet
committed outlive a commit and a change of CTXSEL (DESIGN CHOICE, log 65). -/
def Env.crWrite (e : Env) (n : Nat) (v : Word) : State :=
  let s := e.s
  if n = 0x20 then s.updHoist e.h.src fun h => { h with ctxsel := v.toNat }
  else if 0x10 ≤ n ∧ n ≤ 0x14 then
    let k := 32 * (n - 0x10)
    s.updHoist e.h.src fun h => { h with
      maskHeld := BitVec.ofNat 160 (h.maskHeld.toNat - h.maskHeld.toNat / 2 ^ k % 2 ^ 32 * 2 ^ k + v.toNat * 2 ^ k) }
  else if !e.reaches then s
  else
    let c := e.c
    match n with
    | 1 => (s.putCtl c 4 2 v.toNat).updCtx c.id fun c => { c with sbmode := v.toNat }
    | 2 => (s.putCtl c 8 1 v.toNat).updCtx c.id fun c => { c with scopemode := v.toNat }
    | 3 => (s.putCtl c 16 16 v.toNat).updCtx c.id fun c => { c with lease := v.toNat }
    | 4 => (s.putCtl c 0 3 v.toNat).updCtx c.id fun c => { c with prio := v.toNat }
    | 8 =>
      let a : VAddr := c.tvec.extractLsb' 32 40 ++ (v &&& 0xFFFFFF00#32)
      (s.putTable c 160 a).updCtx c.id fun c => { c with tvec := a }
    | 9 =>
      let a : VAddr := c.tvec.extractLsb' 40 32 ++ v.extractLsb' 0 8 ++ c.tvec.extractLsb' 0 32
      (s.putTable c 160 a).updCtx c.id fun c => { c with tvec := a }
    | 0xC =>
      let a : VAddr := c.emtab.extractLsb' 40 32 ++ v ++ 0#8
      (s.putTable c 168 a).updCtx c.id fun c => { c with emtab := a }
    | 0xD =>
      let a : VAddr := v ++ c.emtab.extractLsb' 0 40
      (s.putTable c 168 a).updCtx c.id fun c => { c with emtab := a }
    | 0x15 => s.writeMask c (v ++ e.h.maskHeld)
    | 0x22 => if v.getLsbD 8 then s.requestGeneration c.id else s
    | _ => s

/-- SWR (R308). -/
def execSwr (a : BitVec 8) (r : BitVec 16) (s : State) : Host.Outcome State Fault Refusal :=
  runWord (.swr a r) (fun e =>
    if e.crRefuses r.toNat (e.sval a) then e.raise .illop else .done (e.crWrite r.toNat (e.sval a))) s

/-! ### TRET, CKPT -/

/-- Whether a frame may be returned through by the issuing group (R339). -/
def Env.returnable (e : Env) (f : List Byte) : Bool :=
  let v := leNat f
  bitsOf v 1 0 == 0 && bitsOf v 127 96 == (e.h.groupSlices e.g.id).foldl (fun a n => a + 2 ^ n) 0 && frameReserved f

/-- TRET (R339). -/
def execTret (s : State) : Host.Outcome State Fault Refusal :=
  runWord .tret (fun e =>
    let a := e.h.areg 15
    let pos := a.position (e.h.sreg 93).toInt 0
    e.inOrder (a.ranges pos 128) fun e => e.reachSpan a [permR] .load 1 128 pos fun s rs =>
      match e.spanBytes a 128 pos rs s with
      | none => .gone (s.loseHoist e.h.src 0xFF e.namedData)
      | some f =>
        if e.returnable f then .jump (s.updHoist e.h.src (e.hoistReturned f)) else .trap { cls := .illop } s) s

/-- CKPT (R331): the hoist stops with its context, after this word. -/
def execCkpt (s : State) : Host.Outcome State Fault Refusal :=
  runWord .ckpt (fun e => e.release e.h.regs.ssig fun e leads =>
    if !leads then .done e.s else
    match e.c.mirror with
    | none => .done e.s
    | some m => if m.phase = .idle then .done (e.s.requestGeneration e.c.id) else .wait .generation e.s) s

/-! ### TLBI (R345, R346) -/

/-- What a TLBI matches: its mode, the context, the virtual page number of 64 KiB units, their count, the key. -/
structure TlbiUse where
  mode : Nat
  ctx : Nat
  va : Nat
  count : Nat
  key : Nat
  deriving DecidableEq, Repr

/-- Whether a TLBI matches a translation (R345). -/
def TlbiUse.hits (u : TlbiUse) (t : TlbEntry) : Bool :=
  let lo := t.vbase * 2 ^ pageShift t.level
  let hi := lo + 2 ^ pageShift t.level
  match u.mode with
  | 0 => t.ctx == u.ctx && decide (lo ≤ u.va) && decide (u.va < hi)
  | 1 => t.ctx == u.ctx && decide (lo < u.va / 65536 * 65536 + 65536 * u.count) && decide (u.va / 65536 * 65536 < hi)
  | 2 => t.ctx == u.ctx && leafKey t.leaf.toNat == u.key
  | 3 => t.ctx == u.ctx
  | _ => true

/-- Whether a line lies in the page of a translation. -/
def TlbEntry.hasLine (t : TlbEntry) (line : Nat) : Bool :=
  let lo := entryPage t.leaf.toNat
  decide (lo ≤ 64 * line) && decide (64 * line < lo + 2 ^ pageShift t.level)

/-- Whether n bytes at an address were translated through an entry. -/
def TlbEntry.translated (t : TlbEntry) (va n : Nat) : Bool :=
  decide (va / 2 ^ pageShift t.level ≤ t.vbase) && decide (t.vbase ≤ (va + n - 1) / 2 ^ pageShift t.level)

/-- A virtual range of n bytes at a position of a window; none in the segment. -/
def AReg.reaches (a : AReg) (pos : Int) (n : Nat) : List (Nat × Nat) := if a.has permSCR then [] else [((a.address pos).toNat, n)]

/-- The virtual ranges that a piece of work has still to access: of a copy its elements that have not moved, of a slot's fill or store
its lines. -/
def Work.virtualRanges : Work → List (Nat × Nat)
  | .copy j => ((List.range j.total).filter fun k => !j.done.contains k).flatMap fun k =>
      j.src.reaches (j.srcPos k) (2 ^ j.esz) ++ j.dst.reaches (j.dstPos k) (2 ^ j.esz)
  | .fill _ win off pitch _ => (slotPieces win off pitch).flatMap fun p => win.reaches p.1 16
  | .slotStore _ win off pitch _ => (slotPieces win off pitch).flatMap fun p => win.reaches p.1 16
  | w => w.accesses.map fun x => (x.va.toNat, x.n)

/-- The work in flight that has still to access the page of one of the dropped entries, through which it translates (R346 item 3): the
addresses of loads, stores and atomics are translated when they start, and a copy keeps the page to its last element on it. -/
def throughDropped (dropped : List TlbEntry) (f : Flight) : Bool :=
  let ts := dropped.filter (·.ctx == f.ctx)
  !ts.isEmpty && f.work.virtualRanges.any fun x => ts.any fun t => t.translated x.1 x.2

/-- Whether some hoist's write buffer holds a write that translated through a dropped entry and has still to commit (R346 item
3, 21_reliability.md R365): of the hoist that executes the TLBI too, for which the TLBI is no release point (R367; log 43). -/
def State.bufferedThrough (s : State) (dropped : List TlbEntry) : Bool :=
  s.hoists.any fun h => h.wbuf != [] &&
    dropped.any fun t => t.ctx == (s.blockOf h).ctx && h.wbuf.any fun w => t.translated w.va.toNat w.data.length

/-- The translations that a TLBI drops. -/
def State.tlbiDrops (s : State) (u : TlbiUse) : List TlbEntry :=
  ((s.coreTlb.flatMap (·.2)) ++ s.clusterTlb.flatMap (·.2)).filter u.hits

/-- The effect of a TLBI on this die once what is in flight has been performed (R346): the entries go, and on the lines of
the pages of the dropped ones pins drop, holds end and waiters are woken.  A hold ends with its page whether or not a TLB still
has the entry (11_ordering.md R218). -/
def State.invalidateAll (s : State) (u : TlbiUse) (dropped : List TlbEntry) : State :=
  let on (line : Nat) : Bool := dropped.any (·.hasLine line)
  let keep (x : Nat × List TlbEntry) : Nat × List TlbEntry := (x.1, x.2.filter fun t => !u.hits t)
  let s : State := { s with
    coreTlb := s.coreTlb.map keep
    clusterTlb := s.clusterTlb.map keep
    pins := s.pins.filter fun p => !on p.1 }
  let s := s.dropHolds fun h => on h.line || u.hits h.page
  s.wakeWhere fun m => on (m.pa / 64)

/-- The effect of a TLBI on this die. -/
def State.invalidate (s : State) (u : TlbiUse) : State := s.invalidateAll u (s.tlbiDrops u)

/-- TLBI (R345): the docked companion's own translations lie outside this die's state (log 20). -/
def execTlbi (x : BitVec 1) (m : BitVec 3) (a b : BitVec 8) (s : State) : Host.Outcome State Fault Refusal :=
  runWord (.tlbi x m a b) (fun e =>
    let n := if m = 1 ∨ m = 2 then (e.sval b).toNat else 0
    let u : TlbiUse := ⟨m.toNat, e.ctxNumber, if m.toNat ≤ 1 then 256 * (e.h.spair a.toNat).toNat else 0, n, n⟩
    if (m = 1 ∧ n = 0) ∨ (m = 2 ∧ 256 ≤ n) then e.raise .illop
    else
      let p := throughDropped (e.s.tlbiDrops u)
      let e := if e.s.flights.any p then e.settle p else e
      if !e.here then .gone e.s
      else if e.s.flights.any p || e.s.bufferedThrough (e.s.tlbiDrops u) then .wait .retry e.s
      else .done (e.s.invalidate u)) s

/-! ### HOSTSIG (27_host.md R434) -/

/-- The signal of a hoist reaches the host: its record when there is a signal ring, then its vector. -/
def State.signal (s : State) (src ctx vector : Nat) (payload : Word) : State :=
  let ring := s.host.sgring.toNat
  let depth := s.host.sgdepth.toNat
  let rec_ := natLe 8 s.time.toNat ++ natLe 2 (s.pairNumber src) ++ natLe 1 vector ++ natLe 1 (ctx % 64 + 64) ++
    natLe 4 payload.toNat ++ zeros 16
  (if depth = 0 then s else s.ringAppend ring depth rec_).raiseMsi vector

/-- Whether the signal ring has room, or there is none. -/
def State.signalRoom (s : State) : Bool := s.host.sgdepth == 0 || s.ringRoom s.host.sgring.toNat s.host.sgdepth.toNat

/-- HOSTSIG (R434): in a mirrored context it is held until its generation commits (25_docking.md R416). -/
def execHostsig (a b : BitVec 8) (s : State) : Host.Outcome State Fault Refusal :=
  runWord (.hostsig a b) (fun e =>
    let v := (e.sval a).toNat
    let payload := e.sval2 a b
    if 32 ≤ v then e.raise .illop
    else e.release e.h.regs.ssig fun e leads => e.releaseAt 3 fun e =>
      if !leads then .done e.s
      else if e.c.mirror.isSome && e.s.die == .tsuord then
        (if e.s.egressBytes + 32 ≤ 4194304 then .done (e.s.hold e.c.id (.signal e.h.src v payload)) else .wait .generation e.s)
      else if e.s.signalRoom then .done (e.s.signal e.h.src e.c.id v payload)
      else .wait .retry e.s) s

/-! ### Emulated and reserved opcodes (R78, R79) -/

/-- The entry of the emulation table for opcode 0xF8 + o is read: the routine's trap, ILLOP without one, or the fault of
the read (R79). -/
def Env.emulate (e : Env) (o : Nat) : Res :=
  let va := e.c.emtab + BitVec.ofNat 72 (8 * o)
  if e.g.refused then e.refusedRange .load allRights va 8
  else
    match e.s.range (e.who .load) e.c .load allRights va 8 with
    | (.error f, s) => e.rangeRes f 0 s
    | (.ok rs, s) =>
      if s.runsPoisoned rs then .gone (s.loseHoist e.h.src 0xFF e.namedData)
      else
        let entry := leNat (s.loadRuns e.h.src e.b.id rs)
        if entry = 0 then .trap { cls := .illop } s
        else .trap { cls := .emul, resumeNext := true, entry := some (BitVec.ofNat 72 (256 * entry)) } s

/-- EMUL: the Tsuord and the companion implement no opcode of the extension window (R79). -/
def execEmul (o : BitVec 3) (x : BitVec 24) (s : State) : Host.Outcome State Fault Refusal :=
  runWord (.emul o x) (fun e => e.inOrder [] fun e => e.emulate o.toNat) s

/-- RESERVED_OPCODE: ILLOP with no effect (R78). -/
def execReservedOpcode (op : BitVec 8) (payload : BitVec 24) (s : State) : Host.Outcome State Fault Refusal :=
  runIllegal (op ++ payload) s

end Sys2Proof.Machine
end

