-- ==== Sys2Proof/Machine/Mirror.lean ====
section
/-!
DEFINITION. Mirrored contexts: dock entries, homes that move, checkpoint generations, their banks, commit and application
(25_docking.md R409–R411, R416–R421).
-/

namespace Sys2Proof.Machine

/-! ### The mirror header (R418) -/

/-- The header of a mirror area: GEN, VALID, BANK, APPLIED. -/
structure MirrorHead where
  gen : Nat
  valid : Bool
  bank : Nat
  applied : Nat
  deriving DecidableEq, Repr

/-- The header of the mirror area at an address. -/
def State.mirrorHead (s : State) (mpa : Nat) : MirrorHead :=
  let b := s.raw mpa 256
  let x := field b 4 1
  ⟨field b 0 4, bitsOf x 7 7 == 1, x % 2, field b 8 4⟩

/-- The context that a dock entry describes, for a walk of its tables. -/
def Dock.ctx (d : Dock) (c : Nat) : Ctx := { Ctx.none with id := c, dpa := d.dpa }

/-! ### Homes (R410, R411) -/

/-- The address of a page, VA[71:16]. -/
def pageVa (page : BitVec 56) : VAddr := page ++ 0#16

/-- The leaf of a page as the companion's tables have it: the address of its entry, and the leaf. -/
def State.pageLeaf (s : State) (c : Ctx) (page : BitVec 56) : Option (Nat × Nat) :=
  match walk s.mem c (pageVa page).toNat with
  | .leaf _ pa leaf => some (pa, leaf)
  | .xlate _ _ => none

/-- A leaf with another frame and HOME. -/
def reHome (leaf frame home : Nat) : Nat :=
  leaf - bitsOf leaf 51 16 * 65536 - bitsOf leaf 8 7 * 128 + frame * 65536 + home * 128

/-- STATE of entry i of a home table; its reserved bits are written as zero (00_scope.md R5). -/
def State.setHomeState (s : State) (tab i st : Nat) : State := s.writePhys (tab + 32 * i + 24) (natLe 1 st)

/-- The translation of a page as a TLB would hold it (R410: 64 KiB pages). -/
def State.pageEntry (s : State) (c : Ctx) (page : BitVec 56) : Option TlbEntry :=
  (s.pageLeaf c page).map fun x => ⟨c.id, 4, page.toNat, BitVec.ofNat 64 x.2, x.1⟩

/-- Whether an access that translated through an entry has still to be performed (19_faults.md R346 item 3). -/
def State.reachesThrough (s : State) (t : TlbEntry) : Bool :=
  s.flights.any (throughDropped [t]) || s.bufferedThrough [t]

/-- Does what needs TLBI.page of a page once every access through its translation has been performed; the turn waits till then
(R346). -/
def State.whenClear (s : State) (c : Ctx) (page : BitVec 56) (t : Turn) (k : State → State) : State :=
  match s.pageEntry c page with
  | none => k s
  | some x =>
    let s := if s.reachesThrough x then s.settle (throughDropped [x]) else s
    if s.reachesThrough x then { s with agenda := t :: s.agenda } else k s

/-- The effect of TLBI.page.sys on this die (R346), for a page that a TLB entry has mapped. -/
def State.tlbiPage (s : State) (c : Ctx) (page : BitVec 56) (old : Option TlbEntry) : State :=
  let u : TlbiUse := ⟨0, c.id, (pageVa page).toNat, 0, 0⟩
  s.invalidateAll u (old.toList ++ s.tlbiDrops u)

/-- Copies a 64 KiB frame with the poison of its sectors (R411, 21_reliability.md R358). -/
def State.copyFrame (s : State) (src dst : Nat) : State :=
  (s.writePhys dst (s.raw src 65536)).carryPoison src dst 65536

/-- A page's home moves to the Tsuord, or back to the companion: leaf, entry, translations (R411). -/
def State.moveHome (s : State) (d : Dock) (c : Nat) (page : BitVec 56) (toTsuord : Bool) : State :=
  match s.homeEntry d.homeTab d.homes page with
  | none => s
  | some i =>
    let tpa := s.homeField d.homeTab i 8 8 % 2 ^ 36
    let mpa := s.homeField d.homeTab i 16 8 % 2 ^ 36
    let old := s.pageEntry (d.ctx c) page
    let s := if toTsuord then s.copyFrame (65536 * mpa) (65536 * tpa) else s
    let s := match s.pageLeaf (d.ctx c) page with
      | some (pa, leaf) => s.writePhys pa (natLe 8 (reHome leaf (if toTsuord then tpa else mpa) (if toTsuord then 1 else 0)))
      | none => s
    (s.setHomeState d.homeTab i (if toTsuord then 2 else 1)).tlbiPage (d.ctx c) page old

/-- STATE of a page with an entry. -/
def State.homeState (s : State) (d : Dock) (page : BitVec 56) : Nat :=
  match s.homeEntry d.homeTab d.homes page with
  | some i => s.homeField d.homeTab i 24 1 % 4
  | none => 0

/-! ### A generation's bank (R418, R419) -/

/-- The writes of a log: at most 64 bytes each (R418). -/
def logPieces (pa : Nat) (data : List Byte) : List (Nat × List Byte) :=
  (List.range (ceilDiv data.length 64)).map fun k => (pa + 64 * k, segment data (64 * k) 64)

/-- A record of the write log. -/
def logRecord (x : Nat × List Byte) : List Byte :=
  natLe 8 x.1 ++ natLe 1 x.2.length ++ zeros 7 ++ x.2 ++ zeros (64 - x.2.length)

/-- The held writes to companion memory of one generation, in order. -/
def Mirror.companionWrites (m : Mirror) (g : Nat) : List (Nat × List Byte) :=
  (m.held.filter (·.1 == g)).flatMap fun w => match w.2 with
    | .companion pa d => logPieces pa d
    | _ => []

/-- The pages that a generation logs: entry, VA[71:16], frames: Tsuord-homed and dirty, or asked for (R411, R419). -/
def State.loggedPages (s : State) (c : Ctx) (m : Mirror) : List (Nat × BitVec 56) :=
  (List.range m.homes).filterMap fun i =>
    let page : BitVec 56 := BitVec.ofNat 56 (s.homeField m.homeTab i 0 7)
    let dirty := match s.pageLeaf c page with | some (_, leaf) => bitsOf leaf 11 11 == 1 | none => false
    if s.homeField m.homeTab i 24 1 % 4 = 2 ∧ (dirty || m.final || m.homeReqs.contains page) = true then some (i, page)
    else none

/-- A record of the page log. -/
def State.pageRecord (s : State) (m : Mirror) (x : Nat × BitVec 56) : List Byte :=
  natLe 8 x.2.toNat ++ natLe 8 (s.homeField m.homeTab x.1 16 8 % 2 ^ 36) ++ zeros 48 ++
    s.view.readBytes (65536 * (s.homeField m.homeTab x.1 8 8 % 2 ^ 36)) 65536

/-- Writes a record of the page log, with the poison of the page's sectors. -/
def State.writePage (s : State) (m : Mirror) (at_ : Nat) (x : Nat × BitVec 56) : State :=
  (s.writePhys at_ (s.pageRecord m x)).carryPoison (65536 * (s.homeField m.homeTab x.1 8 8 % 2 ^ 36)) (at_ + 64) 65536

/-- A resident block's frame in a bank: a PREEMPT record with FRAME 0 (R419). -/
def State.bankFrame (s : State) (b : Block) : List Byte := b.frameBytes (s.allHoists b) ((s.savedRecord b 2 0 0).bytes)

/-- The address of a generation's bank (R418). -/
def bankAt (mpa bankSize g : Nat) : Nat := mpa + 65536 + g % 2 * bankSize

/-- Drops every TLB entry of a page (R419). -/
def State.dropPage (s : State) (ctx : Nat) (page : BitVec 56) : State :=
  let keep (x : Nat × List TlbEntry) : Nat × List TlbEntry := (x.1, x.2.filter fun t => !t.maps ctx (pageVa page).toNat)
  { s with coreTlb := s.coreTlb.map keep, clusterTlb := s.clusterTlb.map keep }

/-- A page that has been logged: its leaf is clean, and one that is asked for is in transit (R411, R419). -/
def State.pageLogged (s : State) (c : Ctx) (m : Mirror) (x : Nat × BitVec 56) : State :=
  let moves := m.final || m.homeReqs.contains x.2
  let s := match s.pageLeaf c x.2 with
    | some (pa, leaf) =>
      let clean := leaf - bitsOf leaf 11 11 * 2048
      s.writePhys pa (natLe 8 (if moves then reHome clean (bitsOf clean 51 16) 3 else clean))
    | none => s
  (if moves then s.setHomeState m.homeTab x.1 3 else s).dropPage c.id x.2

/-- The blocks of a context issue again, and its waits for a generation end (R419). -/
def State.issueAgain (s : State) (ctx : Nat) : State :=
  let ids := (s.blocks.filter (·.ctx == ctx)).map (·.id)
  { s with
    blocks := s.blocks.map fun (b : Block) => if b.ctx == ctx && b.residency == .quiesced then { b with residency := .running } else b
    hoists := s.hoists.map fun (h : Hoist) => if ids.contains h.block then
        { h with regs := { h.regs with groups := h.regs.groups.map fun (g : Group) => if g.wait = .generation ∨ g.wait = .fence then { g with wait := .running } else g } }
      else h }

/-- Changes a context's mirror state. -/
def State.updMirror (s : State) (ctx : Nat) (f : Mirror → Mirror) : State :=
  s.updCtx ctx fun c => { c with mirror := c.mirror.map f }

/-- IDLE again: the requests of the Tsuord that waited are sent, and those of the companion start the next generation (R411). -/
def State.nextRequests (s : State) (ctx : Nat) : State :=
  match (s.ctx? ctx).bind (·.mirror) with
  | some m =>
    let s := m.later.foldl (fun s p => s.sendHomereq ctx p) (s.updMirror ctx fun m =>
      { m with homeReqs := m.homeReqs ++ m.waiting, waiting := [], asked := m.asked ++ m.later, later := [] })
    if m.waiting.isEmpty then s else s.requestGeneration ctx
  | none => s

/-- COPY: the bank is written, or does not fit (R419, R420).  After one that does not fit PERIOD counts anew (DESIGN CHOICE,
log 48), and `final` stays set when it was the last one of a context that returns. -/
def State.writeBank (s : State) (c : Ctx) (m : Mirror) : State :=
  let g := m.generation + 1
  let bs := s.blocks.filter (·.ctx == c.id)
  let frames := bs.flatMap s.bankFrame
  let pages := s.loggedPages c m
  let writes := m.companionWrites g
  let poff := roundUp (256 + frames.length) 65536
  let woff := poff + 65600 * pages.length
  if m.bankSize < woff + 80 * writes.length then
    (((s.faultCtx c.id .bankTooSmall (ensignSrc c.firstCore) (natLe 16 g)).updMirror c.id fun m =>
      { m with phase := .idle, lastCommit := s.time.toNat }).issueAgain c.id).nextRequests c.id
  else
    let at_ := bankAt m.mpa m.bankSize g
    let s := s.writePhys (at_ + 256) frames
    let s := (pages.mapIdx fun k x => (k, x)).foldl (fun s x => s.writePage m (at_ + poff + 65600 * x.1) x.2) s
    let s := s.writePhys (at_ + woff) (writes.flatMap logRecord)
    let s := s.writePhys at_ (natLe 4 g ++ natLe 4 bs.length ++ natLe 4 pages.length ++ natLe 4 writes.length ++ natLe 8 256 ++
      natLe 8 poff ++ natLe 8 woff ++ zeros 24)
    let s := pages.foldl (fun s x => s.pageLogged c m x) s
    s.updMirror c.id fun m => { m with phase := .commit }

/-! ### Commit and application (R421) -/

/-- Whether a context still holds a companion write, or a host write, that joined a generation up to g. -/
def Mirror.holdsKind (m : Mirror) (companion : Bool) (g : Nat) : Bool :=
  m.held.any fun w => decide (w.1 ≤ g) && match w.2 with | .companion _ _ => companion | .host _ _ => !companion | _ => false

/-- Posted writes that are no longer held are acknowledged, and releases that wait look again (R416). -/
def State.acknowledge (s : State) (ctx : Nat) : State :=
  match (s.ctx? ctx).bind (·.mirror) with
  | none => s
  | some m =>
    let ids := (s.blocks.filter (·.ctx == ctx)).map (·.id)
    { s with hoists := s.hoists.map fun (h : Hoist) => if ids.contains h.block then
        { h with
          posted := if m.holdsKind true h.posted then h.posted else 0
          postedHost := if m.holdsKind false h.postedHost then h.postedHost else 0
          regs := { h.regs with groups := h.regs.groups.map fun (g : Group) => if g.wait = .generation ∨ g.wait = .fence then { g with wait := .running } else g } }
      else h }

/-- Performs a held host write, or signals a HOSTSIG unless the signal ring is full (27_host.md R434). -/
def State.releaseOne (s : State) (ctx : Nat) : HeldWrite → Option State
  | .companion _ _ => some s
  | .host pa d => some (s.writePhys pa d)
  | .signal src v p => if s.signalRoom then some (s.signal src ctx v p) else none

/-- Releases held host writes and HOSTSIGs of committed generations, in order, until a full signal ring makes the rest
wait (R416, R419). -/
def State.releaseHeld (ctx committed : Nat) : List (Nat × HeldWrite) → List (Nat × HeldWrite) → State → List (Nat × HeldWrite) × State
  | kept, [], s => (kept, s)
  | kept, w :: ws, s =>
    if committed < w.1 then (kept ++ w :: ws, s)
    else
      match w.2 with
      | .companion _ _ => State.releaseHeld ctx committed (kept ++ [w]) ws s
      | x =>
        match s.releaseOne ctx x with
        | some s => State.releaseHeld ctx committed kept ws s
        | none => (kept ++ w :: ws, s)

/-- Releases what contexts that have left have still to release, in order. -/
def State.releaseEgress : List (Nat × HeldWrite) → State → State
  | [], s => { s with link := { s.link with egress := [] } }
  | x :: xs, s =>
    match s.releaseOne x.1 x.2 with
    | some s => State.releaseEgress xs s
    | none => { s with link := { s.link with egress := x :: xs } }

/-- Releases what a context's last commit allows, after what contexts that have left have still to release. -/
def State.releaseCtx (s : State) (ctx : Nat) : State :=
  let s := State.releaseEgress s.link.egress s
  match (s.ctx? ctx).bind (·.mirror) with
  | none => s
  | some m =>
    let (kept, s) := State.releaseHeld ctx m.generation [] m.held s
    (s.updMirror ctx fun m => { m with held := kept }).acknowledge ctx

/-- The held writes of a context that a full signal ring keeps from being released (R422). -/
def Mirror.unreleased (m : Mirror) (ctx : Nat) : List (Nat × HeldWrite) :=
  (m.held.filter fun w => decide (w.1 ≤ m.generation) && match w.2 with | .companion _ _ => false | _ => true).map fun w => (ctx, w.2)

/-- A context's table entry is cleared on this die, no record discarded; its committed host writes and HOSTSIGs are released
yet (R415, R422).  What this die knows of the context's grids, saved blocks and ready nodes stays for the next time that it comes
here (01_machine.md R20; log 16). -/
def State.clearAway (s : State) (ctx : Nat) : State :=
  let rest := match (s.ctx? ctx).bind (·.mirror) with | some m => m.unreleased ctx | none => []
  let t := (s.updCtx ctx fun c => { c with destroying := true, mirror := none }).endDestroy ctx
  { t with
    widths := s.widths
    aside := s.aside
    nodes := s.nodes
    link := { t.link with egress := t.link.egress ++ rest } }

/-- A context leaves the Tsuord, and RETDONE is sent (R415). -/
def State.leave (s : State) (ctx g : Nat) : State :=
  let s := s.clearAway ctx
  { s with link := { s.link with sent := s.link.sent ++ [(6, natLe 1 ctx ++ natLe 4 g)] } }

/-- The commit marker, CKMARK, and what follows the commit (R419, R421).  A context that returns leaves with its last
generation, unless an agent has written for it since its bank was written. -/
def State.commit (s : State) (c : Ctx) (m : Mirror) : State :=
  let g := m.generation + 1
  let s := s.writePhys m.mpa (natLe 4 g ++ natLe 1 (128 + g % 2) ++ zeros 3)
  let s : State := { s with link := { s.link with sent := s.link.sent ++ [(9, natLe 1 c.id ++ natLe 4 g ++ natLe 1 (g % 2))] } }
  let s := s.updMirror c.id fun m =>
    { m with phase := .idle, generation := g, lastCommit := s.time.toNat, homeReqs := [], final := false }
  let s := (s.releaseCtx c.id).issueAgain c.id
  if m.final && m.held.all (fun w => decide (w.1 ≤ g)) then s.leave c.id g else (s.nextRequests c.id).signalEnsigns

/-- COMMIT_MARKER (R419–R421): in COPY the bank is written once APPLIED allows; in COMMIT the marker. -/
def execCommitMarker (ctx : Nat) (s : State) : Host.Outcome State Fault Refusal :=
  .next (match s.ctx? ctx with
    | none => s
    | some c =>
      match c.mirror with
      | none => s
      | some m =>
        match m.phase with
        | .copy => if m.generation + 1 ≤ m.applied + 2 then s.writeBank c m else s
        | .commit => s.commit c m
        | _ => s)

/-- Whether a page of a mirrored context is in transit, to either die (R410, R411). -/
def State.inTransit (s : State) (m : Mirror) : Bool :=
  !m.asked.isEmpty || (List.range m.homes).any fun i => s.homeField m.homeTab i 24 1 % 4 == 3

/-- Whether every resident block of a context is stopped, for the generation or for a save of its own, and has nothing in
flight, and no home moves: those that the last generation took home are there (R419). -/
def State.stopped (s : State) (c : Ctx) (m : Mirror) : Bool :=
  !s.inTransit m && (s.blocks.filter (·.ctx == c.id)).all fun b => b.residency != .running && s.drained b

/-- Whether a turn is work of an Ensign for a context that is under way: a wake, a grid that becomes ready or ends. -/
def Turn.concerns (n : Nat) : Turn → Bool
  | .event (.joinDecrement c _) => c == n
  | .event (.gridReady c _) => c == n
  | .event (.gridEnd c _) => c == n
  | _ => false

/-- Whether a ready graph node of a context can still take a grid entry (17_scheduling.md R322). -/
def State.nodesGo (s : State) (c : Ctx) : Bool :=
  s.nodes.any (·.1 == c.id) && !c.faulted && bitsOf (leNat (s.readMem (c.dpa + 196) 4)) 8 0 != 0

/-- Whether a context that returns may take its last generation: no block of it is left, no record of it waits for room, no ready
node for an entry, and no grid for acknowledged writes (R415; log 48). -/
def State.mayLeave (s : State) (c : Ctx) (m : Mirror) : Bool :=
  m.returning && !s.blocks.any (·.ctx == c.id) && !s.pushes.any (·.ctx == c.id) &&
    !s.ends.any (fun x => x.ctx == c.id && x.waits.isSome) && !s.nodesGo c && !s.agenda.any (Turn.concerns c.id)

/-- Whether a generation is due in IDLE: PERIOD ms have passed, or the context may leave (R415, R419), but not again at once when
its last generation did not fit. -/
def State.due (s : State) (c : Ctx) (m : Mirror) : Bool :=
  m.phase == .idle && ((s.mayLeave c m && !m.final) || decide (m.lastCommit + 1200000 * m.period ≤ s.time.toNat))

/-- Whether waits of parked records must end before a returning context's last generation. -/
def State.parkedWaits (s : State) (ctx : Nat) : Bool :=
  s.monitors.any (fun m => m.ctx == ctx && m.parked.isSome) || s.tokens.any (·.ctx == ctx)

/-- QUIESCE (R419): a generation that is due begins; one whose blocks have all stopped goes on to COPY.  Before the last
generation of a context that returns, the waits that its records keep on this die end with a wake (11_ordering.md R239). -/
def execQuiesce (ctx : Nat) (s : State) : Host.Outcome State Fault Refusal :=
  .next (match s.ctx? ctx with
    | none => s
    | some c =>
      match c.mirror with
      | none => s
      | some m =>
        if s.due c m then
          if s.mayLeave c m && s.parkedWaits ctx then
            (s.tokens.filter (·.ctx == ctx)).foldl (fun s t => s.endToken t false)
              (s.wakeWhere fun x => x.ctx == ctx && x.parked.isSome)
          else (s.updMirror ctx fun m => { m with final := s.mayLeave c m }).requestGeneration ctx
        else if m.phase == .quiesce && s.stopped c m then s.updMirror ctx fun m => { m with phase := .copy }
        else s)

/-- Performs the bytes of a list at its addresses. -/
def State.performLog (xs : List (Nat × List Byte)) (s : State) : State := xs.foldl (fun s x => s.writePhys x.1 x.2) s

/-- The pages of generation g's bank: VA[71:16], MPA, the address of the data (R418). -/
def State.bankPages (s : State) (d : Dock) (g : Nat) : List (BitVec 56 × Nat × Nat) :=
  let at_ := bankAt d.mpa d.bankSize g
  let b := s.raw at_ 64
  (List.range (field b 8 4)).map fun k =>
    let r := at_ + field b 24 8 + 65600 * k
    (BitVec.ofNat 56 (leNat (s.raw r 8)), 65536 * leNat (s.raw (r + 8) 8), r + 64)

/-- The writes of generation g's bank. -/
def State.bankWrites (s : State) (d : Dock) (g : Nat) : List (Nat × List Byte) :=
  let at_ := bankAt d.mpa d.bankSize g
  let b := s.raw at_ 64
  (List.range (field b 12 4)).map fun k =>
    let r := at_ + field b 32 8 + 80 * k
    (leNat (s.raw r 8), s.raw (r + 16) (leNat (s.raw (r + 8) 1)))

/-- The logs of generation g are performed: pages, then writes (R421 steps 1 and 2). -/
def State.applyLogs (s : State) (d : Dock) (g : Nat) : State :=
  State.performLog (s.bankWrites d g) ((s.bankPages d g).foldl (fun s x => s.copyFrame x.2.2 x.2.1) s)

/-- The pages of generation g's bank that go home to the companion with it (R411). -/
def State.homesServed (s : State) (d : Dock) (g : Nat) : List (BitVec 56) :=
  ((s.bankPages d g).map (·.1)).filter fun p => s.homeState d p == 3

/-- The companion applies generation g: pages, writes, homes, APPLIED (R421). -/
def State.applyBank (s : State) (c g : Nat) : State :=
  let d := s.dock c
  let homes := s.homesServed d g
  (homes.foldl (fun s p => s.moveHome d c p false) (s.applyLogs d g)).writePhys (d.mpa + 8) (natLe 4 g)

/-- A context's next generation event: QUIESCE. -/
def State.nextQuiesce (s : State) : Option Nat :=
  (s.ctxs.find? fun c => match c.mirror with
    | some m => s.due c m || (m.phase == .quiesce && s.stopped c m)
    | none => false).map (·.id)

/-- A context's next generation event: COMMIT_MARKER. -/
def State.nextCommit (s : State) : Option Nat :=
  (s.ctxs.find? fun c => match c.mirror with
    | some m => (m.phase == .copy && decide (m.generation + 1 ≤ m.applied + 2)) || m.phase == .commit
    | none => false).map (·.id)

/-- A context with a committed HOSTSIG that waits for room in the signal ring. -/
def State.nextRelease (s : State) : Option Nat :=
  if !s.signalRoom then none
  else if s.link.egress != [] then s.link.egress.head?.map (·.1)
  else (s.ctxs.find? fun c => match c.mirror with
    | some m => m.held.any fun w => decide (w.1 ≤ m.generation) && match w.2 with | .companion _ _ => false | _ => true
    | none => false).map (·.id)

/-- An ending grid whose posted writes have been acknowledged (17_scheduling.md R316). -/
def State.nextEnd (s : State) : Option (Nat × Nat) :=
  (s.ends.find? fun x => match s.ctx? x.ctx, x.waits with
    | some c, some g => !c.holdsUpTo g
    | _, _ => false).map fun x => (x.ctx, x.entry)

end Sys2Proof.Machine
end

