-- ==== Sys2Proof/Machine/Docking.lean ====
section
/-!
DEFINITION. The Halyard link: its messages as this die receives them, and the loss of the link (25_docking.md R404–R407,
R411–R415, R421–R423).  Both dies' memory is one memory (R408): what the other die does to it is done when its message
arrives.
-/

namespace Sys2Proof.Machine

/-- Sends a message: code and payload (R405). -/
def State.send (s : State) (code : Nat) (payload : List Byte) : State :=
  { s with link := { s.link with sent := s.link.sent ++ [(code, payload)] } }

/-- The counter's value as TIMESYNC carries it. -/
def State.sendTime (s : State) : State := s.send 2 (natLe 8 s.time.toNat)

/-- HELLO (R405, R412): the link is up, and each die sends its HELLO and its counter.  On the companion `dockTable` names
its own table. -/
def execHello (peer : BitVec 32) (dockTable : Nat) (s : State) : Host.Outcome State Fault Refusal :=
  .next (let was := s.link.up
    let old := s
    let s : State := { s with link := { s.link with up := true, peer := peer, dockTable := dockTable } }
    let mine := natLe 4 s.die.deviceId.toNat ++ (match s.die with | .companion => natLe 8 dockTable | .tsuord => [])
    if was then s else (s.send 1 mine).sendTime.noteLink old)

/-- TIMESYNC (R412): the Tsuord never lags the companion; the companion takes the Tsuord's value and the latency, never stepping
back, and makes up for what remains of the difference slowly (`Link.drift`). -/
def execTimesync (value : BitVec 64) (latency : Nat) (s : State) : Host.Outcome State Fault Refusal :=
  .next (if !s.link.up then s
    else
      match s.die with
      | .tsuord => if s.time.toNat < value.toNat then { s with time := value }.sendTime else s
      | .companion =>
        let v := value + BitVec.ofNat 64 latency
        if s.time.toNat < v.toNat then { s with time := v, link := { s.link with difference := 0 } }
        else { s with link := { s.link with difference := (v.toNat : Int) - s.time.toNat } })

/-- The mirror state that a dock entry starts (R414). -/
def Dock.mirror (d : Dock) (now : Nat) : Mirror where
  phase := .idle
  generation := 0
  applied := 0
  lastCommit := now
  mpa := d.mpa
  bankSize := d.bankSize
  period := d.period
  policy := d.policy
  homeTab := d.homeTab
  homes := d.homes
  held := []
  returning := false
  final := false
  asked := []
  later := []
  homeReqs := []
  waiting := []

/-- MIGRATE's answer and effect (R414): 0 OK, 1 BUSY, 2 BADENTRY. -/
def State.migrate (s : State) (c : Nat) : Nat × State :=
  let d := s.dock c
  let m := s.mirrorHead d.mpa
  if s.host.enable && (s.tableEntry c).isSome then (1, s)
  else if !s.host.enable || decide (64 ≤ c) || !d.valid || !d.ok || !m.valid || m.gen != 0 ||
      ctlBad (s.descriptor d.dpa).ctl then (2, s)
  else
    let t := s.writePhys (s.host.ctxtab.toNat + 8 * c) (natLe 8 (d.dpa + 1))
    match t.activate c (some (d.mirror s.time.toNat)) with
    | some t => (0, t)
    | none => (2, s)

/-- MIGRATE (R414). -/
def execMigrate (ctx : Nat) (s : State) : Host.Outcome State Fault Refusal :=
  .next (if !s.link.up || s.die != .tsuord then s
    else
      let (status, s) := s.migrate ctx
      s.send 4 (natLe 1 ctx ++ natLe 1 status))

/-- MIGACK (R405): the companion's runtime learns the answer. -/
def execMigack (ctx : Nat) (status : Nat) (s : State) : Host.Outcome State Fault Refusal :=
  .next (if s.link.up ∧ s.die = .companion ∧ status = 0 then { s with link := { s.link with away := s.link.away ++ [ctx] } } else s)

/-- RETURN (R415): the core mask is emptied; the last generation follows once no block is left. -/
def execReturnCtx (ctx : Nat) (s : State) : Host.Outcome State Fault Refusal :=
  .next (if !s.link.up || s.die != .tsuord || ((s.ctx? ctx).bind (·.mirror)).isNone then s
    else (s.updMirror ctx fun m => { m with returning := true }).commitMask ctx 0)

/-- The grids of a context that stand ENDING: what is left of each is its completion record (17_scheduling.md R316; log 48). -/
def State.endingGrids (s : State) (c : Ctx) : List Nat :=
  (List.range 256).filter fun e =>
    match walk s.mem c (s.gridVa c e).toNat with
    | .leaf level _ leaf => entryState (s.raw (entryPage leaf + (s.gridVa c e).toNat % 2 ^ pageShift level) 256) == 4
    | .xlate _ _ => false

/-- CMASK becomes the core mask of a context of the companion again, and its dock entry is cleared (R415, R423). -/
def State.takeBack (s : State) (c : Nat) : State :=
  let d := s.dock c
  let mask := BitVec.ofNat 192 d.cmask
  let s := ((s.writePhys (d.dpa + 136) (natLe 24 mask.toNat)).commitMask c mask).updCtx c fun x => { x with travelled := true }
  let s := s.writePhys (s.link.dockTable + 64 * c) (natLe 8 d.dpa)
  let core := ((s.ctx? c).getD Ctx.none).firstCore
  let ending : List Ending := ((s.endingGrids (d.ctx c)).map fun e => ⟨c, e, core, some 0⟩)
  { s with
    ends := s.ends ++ ending.filter fun (x : Ending) => !s.ends.any fun y => y.ctx == x.ctx && y.entry == x.entry
    link := { s.link with
      away := s.link.away.filter (· != c)
      returned := s.link.returned.filter (·.1 != c)
      asked := s.link.asked.filter (·.1 != c) } }.signalEnsigns

/-- HOMEDONE is sent. -/
def State.sendHomedone (s : State) (ctx : Nat) (page : BitVec 56) (st : Nat) : State :=
  s.send 8 (natLe 1 ctx ++ natLe 7 page.toNat ++ natLe 1 st)

/-- The companion applies a generation and answers (R421); a context that has come back with it resumes (R415).  One that has
been applied already is answered only. -/
def State.apply (s : State) (c g : Nat) : State :=
  let d := s.dock c
  let done := decide (g ≤ (s.mirrorHead d.mpa).applied)
  let homes := if done then [] else s.homesServed d g
  let s := homes.foldl (fun s p => s.sendHomedone c p 1) (if done then s else s.applyBank c g)
  let s := { s with link := { s.link with asked := s.link.asked.filter fun x => !(x.1 == c && homes.contains x.2) } }.send 10
    (natLe 1 c ++ natLe 4 g)
  if s.link.returned.any fun x => x.1 == c && decide (x.2 ≤ g) then s.takeBack c else s

/-- A context whose mirror area holds a committed generation that the companion has not applied (R421). -/
def State.nextApply (s : State) : Option Nat :=
  if !s.link.up || s.die != .companion then none
  else s.link.away.find? fun c =>
    let h := s.mirrorHead (s.dock c).mpa
    (s.dock c).valid && h.valid && decide (h.applied < h.gen)

/-- The companion applies the generation that it finds committed. -/
def State.applyFound (s : State) (c : Nat) : State := s.apply c (s.mirrorHead (s.dock c).mpa).gen

/-- RETDONE (R415). -/
def execRetdone (ctx : Nat) (generation : BitVec 32) (s : State) : Host.Outcome State Fault Refusal :=
  .next (if !s.link.up || s.die != .companion then s
    else if generation.toNat ≤ (s.mirrorHead (s.dock ctx).mpa).applied then s.takeBack ctx
    else { s with link := { s.link with returned := s.link.returned ++ [(ctx, generation.toNat)] } })

/-- A request from the companion for a Tsuord-homed page (R411): it starts a generation, or waits for IDLE. -/
def State.companionAsks (s : State) (ctx : Nat) (page : BitVec 56) : State :=
  match (s.ctx? ctx).bind (·.mirror) with
  | none => s
  | some m =>
    if s.homeState (s.dock ctx) page ≠ 2 then s
    else if m.phase = .idle then (s.updMirror ctx fun m => { m with homeReqs := m.homeReqs ++ [page] }).requestGeneration ctx
    else s.updMirror ctx fun m => { m with waiting := m.waiting ++ [page] }

/-- A request from the Tsuord for a companion-homed page, which the companion serves once what has translated through the page
is performed (R411). -/
def State.tsuordAsks (s : State) (ctx : Nat) (page : BitVec 56) : State :=
  let d := s.dock ctx
  if s.homeState d page ≠ 1 then s.sendHomedone ctx page (s.homeState d page)
  else s.whenClear (d.ctx ctx) page (.homereq ctx page) fun s => (s.moveHome d ctx page true).sendHomedone ctx page 2

/-- HOMEREQ (R411). -/
def execHomereq (fromCompanion : Bool) (ctx : Nat) (page : BitVec 56) (s : State) : Host.Outcome State Fault Refusal :=
  .next (if !s.link.up then s
    else
      match s.die, fromCompanion with
      | .tsuord, true => s.companionAsks ctx page
      | .companion, false => s.tsuordAsks ctx page
      | _, _ => s)

/-- A home that the Tsuord has asked for has moved, or stays as it is. -/
def State.homeMoved (s : State) (ctx : Nat) (page : BitVec 56) : State :=
  s.updMirror ctx fun m => { m with asked := m.asked.filter (· != page) }

/-- The companion performs the logs of the last committed generation, unless it is known to have applied it (R421).  A page in
transit keeps a later generation from COPY (R419), so that this is the generation which logged the page. -/
def State.performOnce (s : State) (d : Dock) (ctx : Nat) : State :=
  let g := (s.mirrorHead d.mpa).gen
  match (s.ctx? ctx).bind (·.mirror) with
  | some m => if g ≤ m.applied then s else s.applyLogs d g
  | none => s.applyLogs d g

/-- HOMEDONE (R411): the Tsuord learns that the companion has moved a page; its accessors go on.  A page that has gone back has
been copied with its generation, whose logs are performed before it moves (R421). -/
def execHomedone (ctx : Nat) (page : BitVec 56) (state : Nat) (s : State) : Host.Outcome State Fault Refusal :=
  .next (if !s.link.up || s.die != .tsuord then s
    else
      let d := s.dock ctx
      let st := s.homeState d page
      if state = 2 ∧ st = 1 then
        s.whenClear (d.ctx ctx) page (.homedone ctx page state) fun s => (s.moveHome d ctx page true).homeMoved ctx page
      else if state = 1 ∧ st = 3 then
        ((s.performOnce d ctx).moveHome d ctx page false).homeMoved ctx page
      else s.homeMoved ctx page)

/-- CKMARK (R421): the companion applies the generation. -/
def execCkmark (ctx : Nat) (generation : BitVec 32) (bank : Nat) (s : State) : Host.Outcome State Fault Refusal :=
  .next (if s.link.up ∧ s.die = .companion ∧ bank = generation.toNat % 2 then s.apply ctx generation.toNat else s)

/-- APPLIED (R421): the companion has applied a generation; its held writes are acknowledged (R416). -/
def execApplied (ctx : Nat) (generation : BitVec 32) (s : State) : Host.Outcome State Fault Refusal :=
  .next (if !s.link.up || s.die != .tsuord then s
    else
      let g := generation.toNat
      let s := s.applyBank ctx g
      (s.updMirror ctx fun m => { m with
        applied := max m.applied g
        held := m.held.filter fun w => !(decide (w.1 ≤ g) && match w.2 with | .companion _ _ => true | _ => false) }).acknowledge ctx)

/-- HALYARD_RESERVED_MESSAGE (R405, R372). -/
def execHalyardReservedMessage (code : Byte) (payload : List Byte) (s : State) : Host.Outcome State Fault Refusal :=
  .next (if s.link.up ∧ (code = 0 ∨ 10 < code.toNat) then s.logEvent 9 0x3220 none 0 (code :: payload) else s)

/-- CHECKPOINT_PERIOD (R419): PERIOD ms after the last commit. -/
def execCheckpointPeriod (ctx : Nat) (s : State) : Host.Outcome State Fault Refusal :=
  .next (match s.ctx? ctx with
    | none => s
    | some c =>
      match c.mirror with
      | none => s
      | some m =>
        if decide (m.lastCommit + 1200000 * m.period ≤ s.time.toNat) then s.requestGeneration ctx else s)

/-- CKPT_GO (R417). -/
def execCkptGo (ctx : Nat) (s : State) : Host.Outcome State Fault Refusal := .next (s.requestGeneration ctx)

/-! ### Loss (R406, R422, R423) -/

/-- A mirrored context ends on the Tsuord: its blocks stop without being saved, and its uncommitted writes go (R422). -/
def State.loseCtx (s : State) (c : Ctx) (m : Mirror) : State :=
  let s := s.logEvent 8 0x3220 (some c.id) FaultCause.lossTsuord.code (natLe 16 m.generation)
  let s := (s.blocks.filter (·.ctx == c.id)).foldl (fun s b => s.removeBlock b.id) s
  let s := s.clearAway c.id
  { s with aside := s.aside.filter (·.block.ctx != c.id), nodes := s.nodes.filter (·.1 != c.id) }

/-- The Tsuord after the loss (R422): committed host writes and HOSTSIGs are released, and every mirrored context ends. -/
def State.lossOnTsuord (s : State) : State :=
  s.ctxs.foldl (fun s c => match c.mirror with | some m => (s.releaseCtx c.id).loseCtx c m | none => s) s

/-- One bank frame becomes a ready record: a frame of the pool takes it (R423). -/
def State.recoverFrame (s : State) (c : Ctx) (bytes : List Byte) : Acted :=
  s.popFrames c.firstCore c 1 fun frames s =>
    let at_ := frames.headD 0
    let r : List Byte := ({ recordOf (bytes.take 32) with frame := at_ } : Record).bytes
    s.ctxPut c.firstCore c (BitVec.ofNat 72 (256 * at_)) (r ++ bytes.drop 32) fun s => .ok (s.pushReady c.firstCore c r)

/-- Bank frames become ready records, one after another, until one has to wait: what is left of them, and the state. -/
def State.recoverFrames (n : Nat) : List (List Byte) → State → List (List Byte) × State
  | [], s => ([], s)
  | f :: fs, s =>
    match s.ctx? n with
    | none => ([], s)
    | some c =>
      let a := s.recoverFrame c f
      let t := s.acted c.firstCore n a
      match a with
      | .ok _ => State.recoverFrames n fs t
      | .fault _ => State.recoverFrames n fs t
      | _ => (f :: fs, t)

/-- n frames of a bank, one after another, each on a 256-byte boundary. -/
def State.bankFrames (s : State) (at_ : Nat) : Nat → List (List Byte)
  | 0 => []
  | n + 1 =>
    let total := (frameHead (s.raw at_ 2752)).total
    s.raw at_ total :: s.bankFrames (at_ + roundUp (max total 256) 256) n

/-- Steps 4 and 5 of R423 as far as they come: the frames that find no frame of the pool, or whose pages move, are tried again. -/
def State.recoverStep (s : State) (n : Nat) : State :=
  match s.link.recovering.find? (·.1 == n) with
  | none => s
  | some x =>
    let (rest, s) := State.recoverFrames n x.2 s
    let others := s.link.recovering.filter (·.1 != n)
    if rest = [] then
      let gen := (s.mirrorHead (s.dock n).mpa).gen
      ({ s with link := { s.link with recovering := others } }.takeBack n).logEvent 8 0x3220 (some n) FaultCause.lossCompanion.code
        (natLe 16 gen)
    else { s with link := { s.link with recovering := others ++ [(n, rest)] } }

/-- A context that still comes back after a loss. -/
def State.nextRecovery (s : State) : Option Nat := s.link.recovering.head?.map (·.1)

/-- A context comes back to the companion by the loss (R423). -/
def State.recoverCtx (s : State) (n : Nat) : State :=
  let d := s.dock n
  let h := s.mirrorHead d.mpa
  if !d.valid || !h.valid || s.link.recovering.any (·.1 == n) then s
  else
    let s := if h.applied < h.gen then s.applyBank n h.gen else s
    let pages := (List.range d.homes).filterMap fun i =>
      if 2 ≤ s.homeField d.homeTab i 24 1 % 4 then some (BitVec.ofNat 56 (s.homeField d.homeTab i 0 7)) else none
    let s := pages.foldl (fun s p => s.moveHome d n p false) s
    let s := s.invalidate ⟨3, n, 0, 0, 0⟩
    let bank := bankAt d.mpa d.bankSize h.bank
    let frames := s.bankFrames (bank + field (s.raw bank 64) 16 8) (field (s.raw bank 64) 4 4)
    { s with link := { s.link with recovering := s.link.recovering ++ [(n, frames)] } }.recoverStep n

/-- An access that was outstanding on the link when it was lost: nothing answers it any more (R406). -/
def Access.lost (s : State) (x : Access) : Access := if !x.scr && s.unlinked x.pa then { x with pa := 2 ^ 52 + x.pa } else x

/-- The accesses of a piece of work that were outstanding on the link fail, whatever comes up again later (R406). -/
def Work.lost (s : State) : Work → Work
  | .load k t acc => .load k t (acc.map (Access.lost s))
  | .store ws dev => .store (ws.map fun w => (Access.lost s w.1, w.2)) dev
  | .atomic cas m ret lanes scope ordered home =>
    .atomic cas m ret (lanes.map fun l => { l with access := Access.lost s l.access }) scope ordered home
  | w => w

/-- The link is down: what is outstanding on it has failed, and nothing of it is resumed (R406, R412). -/
def State.unlink (s : State) : State :=
  let s : State := { s with link := { s.link with up := false, difference := 0, away := [], returned := [], asked := [] } }
  { s with
    flights := s.flights.map fun f => { f with work := Work.lost s f.work }
    monitors := s.monitors.filter fun m => match m.foreign with | some n => s.foreignAgent n | none => true }

/-- The loss of the link (R406): what follows on this die, vector 36, and the LINK entry's change (27_host.md R429). -/
def State.lose (s : State) : State :=
  if !s.link.up then s
  else
    let old := s
    let s := match s.die with
      | .tsuord => s.unlink.lossOnTsuord
      | .companion => (List.range 64).foldl (fun s n => s.recoverCtx n) s.unlink
    (s.raiseMsi 36).noteLink old

/-- LINK_LOSS (R406). -/
def execLinkLoss (s : State) : Host.Outcome State Fault Refusal := .next s.lose

/-- FLIT_TIMEOUT (R406): 2 µs without a valid flit declare the loss. -/
def execFlitTimeout (s : State) : Host.Outcome State Fault Refusal := .next s.lose

end Sys2Proof.Machine
end

