-- ==== Sys2Proof/Machine/Special.lean ====
section
/-!
DEFINITION. The special functions (13_numbers.md R273, R274).  Reciprocals and roots are exact with a sticky bit;
the others are computed in fixed point with several hundred bits, then rounded once by `convert` (log 11).
-/

namespace Sys2Proof.Machine

/-- Fraction bits of the fixed-point numbers. -/
def fxBits : Nat := 512

/-- ⌊√n⌋ from its bits, highest first: `b` bits still to decide, root `r` so far. -/
def isqrtBits (n : Nat) : Nat → Nat → Nat
  | 0, r => r
  | b + 1, r =>
    let t := r + 2 ^ b
    isqrtBits n b (if t * t ≤ n then t else r)

/-- ⌊√n⌋. -/
def isqrt (n : Nat) : Nat := isqrtBits n (Nat.log2 n / 2 + 1) 0

/-- A magnitude in units of 2^e whose exact value may lie strictly above q: a sticky half unit stands for the rest. -/
def sticky (neg : Bool) (q : Nat) (e : Int) (exact : Bool) : FVal :=
  if exact then .num neg q e else .num neg (2 * q + 1) (e - 1)

/-- Σ of x^k / k! for k from 0, in fixed point: `t` is the current term. -/
def expTerms (x : Nat) : Nat → Nat → Nat → Nat
  | 0, _, _ => 0
  | n + 1, k, t => t + expTerms x n (k + 1) (t * x / 2 ^ fxBits / k)

/-- e^x in fixed point for 0 ≤ x < 1. -/
def expFx (x : Nat) : Nat := expTerms x 110 1 (2 ^ fxBits)

/-- ln 2 in fixed point: Σ 1 / (k 2^k). -/
def ln2Terms : Nat → Nat → Nat
  | 0, _ => 0
  | n + 1, k => 2 ^ (fxBits + 16) / (k * 2 ^ k) + ln2Terms n (k + 1)

/-- ln 2 in fixed point. -/
def ln2Fx : Nat := ln2Terms 530 1 / 2 ^ 16

/-- arctan(1/d) in fixed point with 16 guard bits: `p` is 2^(bits) / d^k, `k` odd. -/
def atanTerms (d : Nat) : Nat → Nat → Nat → Bool → Int
  | 0, _, _, _ => 0
  | n + 1, k, p, minus =>
    (if minus then -((p / k : Nat) : Int) else ((p / k : Nat) : Int)) + atanTerms d n (k + 2) (p / (d * d)) (!minus)

/-- π in fixed point by 16 arctan(1/5) − 4 arctan(1/239). -/
def piFx : Nat :=
  let one := 2 ^ (fxBits + 16)
  ((16 * atanTerms 5 120 1 (one / 5) false - 4 * atanTerms 239 40 1 (one / 239) false) / 2 ^ 16).toNat

/-- Bits of log2 of y in [1, 2): `n` bits, most significant first, appended to `acc`. -/
def log2Bits : Nat → Nat → Nat → Nat
  | 0, _, acc => acc
  | n + 1, y, acc =>
    let y2 := y * y / 2 ^ fxBits
    if 2 ^ (fxBits + 1) ≤ y2 then log2Bits n (y2 / 2) (2 * acc + 1) else log2Bits n y2 (2 * acc)

/-- The number m × 2^e in fixed point, rounded toward −∞. -/
def toFx (neg : Bool) (m : Nat) (e : Int) : Int :=
  let s : Int := e + fxBits
  let k : Nat := if 0 ≤ s then m * 2 ^ s.toNat else m / 2 ^ (-s).toNat
  if neg then -(k : Int) else k

/-- 2^x for x in fixed point: a magnitude and its exponent. -/
def exp2Fx (x : Int) : Nat × Int :=
  let n := x / (2 ^ fxBits : Nat)
  let f := (x % (2 ^ fxBits : Nat)).toNat
  (expFx (f * ln2Fx / 2 ^ fxBits), n - fxBits)

/-- Σ of the alternating series of sine (k = 2) or cosine (k = 1): `t` is the current term, `x2` is x². -/
def trigTerms (x2 : Nat) : Nat → Nat → Nat → Bool → Int
  | 0, _, _, _ => 0
  | n + 1, k, t, minus =>
    (if minus then -(t : Int) else t) + trigTerms x2 n (k + 2) (t * x2 / 2 ^ fxBits / (k * (k + 1))) (!minus)

/-- Sine in fixed point of 0 ≤ x ≤ 1. -/
def sinFx (x : Nat) : Int := trigTerms (x * x / 2 ^ fxBits) 60 2 x false
/-- Cosine in fixed point of 0 ≤ x ≤ 1. -/
def cosFx (x : Nat) : Int := trigTerms (x * x / 2 ^ fxBits) 60 1 (2 ^ fxBits) false

/-- A fixed-point value that is not exact, as a value to round. -/
def fxVal (v : Int) : FVal := sticky (decide (v < 0)) v.natAbs (-(fxBits : Int)) false

/-- Sine (quadrant shift 0) or cosine (1) of a nonzero finite number, by reduction modulo π/2. -/
def sinCos (shift : Nat) (neg : Bool) (m : Nat) (e : Int) : FVal :=
  let x := toFx neg m e
  let half := (piFx / 2 : Nat)
  let k := (2 * x + half) / (2 * (half : Int))
  let r := x - k * half
  let q := ((k + shift) % 4).toNat
  let a := r.natAbs
  let sn : Int := if r < 0 then -(sinFx a) else sinFx a
  match q with
  | 0 => fxVal sn
  | 1 => fxVal (cosFx a)
  | 2 => fxVal (-sn)
  | _ => fxVal (-(cosFx a))

/-- A value just below the magnitude of m × 2^e: it rounds as the exact value does. -/
def justBelow (neg : Bool) (m : Nat) (e : Int) : FVal := .num neg (m * 2 ^ 64 - 1) (e - 64)

/-- The special functions (R273). -/
inductive SpecialFn where
  | rcp
  | rsq
  | sqrt
  | exp2
  | log2
  | sin
  | cos
  | tanh
  deriving DecidableEq, Repr

/-- log2 of m × 2^e, m not 0: exact at powers of two. -/
def log2Val (m : Nat) (e : Int) : FVal :=
  let l := Nat.log2 m
  let whole : Int := l + e
  if m = 2 ^ l then .num (decide (whole < 0)) whole.natAbs 0
  else
    -- log2 = whole + fraction, with 220 fraction bits
    let frac := log2Bits 220 (m * 2 ^ fxBits / 2 ^ l) 0
    let v : Int := whole * (2 ^ 220 : Nat) + frac
    -- v is the floor; for a negative value the exact magnitude lies just below |v|
    if v < 0 then .num true (2 * v.natAbs - 1) (-221) else sticky false v.natAbs (-220) false

/-- 2^x of a nonzero number: exact at integers; the largest exponents are cut where the result is settled. -/
def exp2Val (neg : Bool) (m : Nat) (e : Int) : FVal :=
  if 9 < (Nat.log2 m : Int) + e then (if neg then .num false 1 (-400) else .num false 1 200)
  else if (Nat.log2 m : Int) + e < -60 then (if neg then justBelow false 1 0 else .num false (2 ^ 64 + 1) (-64))
  else if 0 ≤ e then
    let k : Nat := m * 2 ^ e.toNat
    .num false 1 (if neg then -(k : Int) else k)
  else if m % 2 ^ (-e).toNat = 0 then
    let k : Nat := m / 2 ^ (-e).toNat
    .num false 1 (if neg then -(k : Int) else k)
  else
    let (q, g) := exp2Fx (toFx neg m e)
    sticky false q g false

/-- tanh of a nonzero number: (E − 1) / (E + 1) with E = e^(2|x|). -/
def tanhVal (neg : Bool) (m : Nat) (e : Int) : FVal :=
  if 6 < (Nat.log2 m : Int) + e then justBelow neg 1 0
  else if (Nat.log2 m : Int) + e < -60 then justBelow neg m e
  else
    let x := (toFx false m e).toNat
    let (q, g) := exp2Fx ((2 * x * 2 ^ fxBits / ln2Fx : Nat) : Int)
    -- E = q 2^g; bring it to fixed point
    let s := g + fxBits
    let big := if 0 ≤ s then q * 2 ^ s.toNat else q / 2 ^ (-s).toNat
    sticky neg ((big - 2 ^ fxBits) * 2 ^ fxBits / (big + 2 ^ fxBits)) (-(fxBits : Int)) false

/-- A special function of an FP32 pattern: the result pattern and the flags (R273). -/
def specialFn (f : SpecialFn) (a : Nat) : Nat × Flags :=
  match f, fp32.decode a with
  | _, .nan sig => (fp32.canonicalNaN, flagIf sig flagIV)
  | .rcp, .inf n => (fp32.signBit n, 0)
  | .rcp, .num n m e =>
    if m = 0 then (fp32.infinity n, flagDZ)
    else convert fp32 (sticky n (2 ^ 200 / m) (-200 - e) (2 ^ 200 % m == 0))
  | .rsq, .inf n => if n then (fp32.canonicalNaN, flagIV) else (0, 0)
  | .rsq, .num n m e =>
    if m = 0 then (fp32.infinity n, flagDZ)
    else if n then (fp32.canonicalNaN, flagIV)
    else
      -- 1/√(m 2^e) = √(2^(400 − e') / m) with e even
      let m' := if e % 2 = 0 then m else 2 * m
      let e' := if e % 2 = 0 then e else e - 1
      let q := isqrt (2 ^ 400 / m')
      convert fp32 (sticky false q (-200 - e' / 2) (q * q * m' == 2 ^ 400))
  | .sqrt, .inf n => if n then (fp32.canonicalNaN, flagIV) else (fp32.infinity false, 0)
  | .sqrt, .num n m e =>
    if m = 0 then (fp32.signBit n, 0)
    else if n then (fp32.canonicalNaN, flagIV)
    else
      let m' := (if e % 2 = 0 then m else 2 * m) * 2 ^ 200
      let e' := if e % 2 = 0 then e else e - 1
      let q := isqrt m'
      convert fp32 (sticky false q (e' / 2 - 100) (q * q == m'))
  | .exp2, .inf n => if n then (0, 0) else (fp32.infinity false, 0)
  | .exp2, .num n m e => if m = 0 then (0x3F800000, 0) else convert fp32 (exp2Val n m e)
  | .log2, .inf n => if n then (fp32.canonicalNaN, flagIV) else (fp32.infinity false, 0)
  | .log2, .num n m e =>
    if m = 0 then (fp32.infinity true, flagDZ)
    else if n then (fp32.canonicalNaN, flagIV)
    else convert fp32 (log2Val m e)
  | .sin, .inf _ => (fp32.canonicalNaN, flagIV)
  | .sin, .num n m e =>
    if m = 0 then (fp32.signBit n, 0)
    else if (Nat.log2 m : Int) + e < -60 then convert fp32 (justBelow n m e)
    else convert fp32 (sinCos 0 n m e)
  | .cos, .inf _ => (fp32.canonicalNaN, flagIV)
  | .cos, .num n m e =>
    if m = 0 then (0x3F800000, 0)
    else if (Nat.log2 m : Int) + e < -60 then convert fp32 (justBelow false 1 0)
    else convert fp32 (sinCos 1 n m e)
  | .tanh, .inf n => (fp32.signBit n + 0x3F800000, 0)
  | .tanh, .num n m e => if m = 0 then (fp32.signBit n, 0) else convert fp32 (tanhVal n m e)

end Sys2Proof.Machine
end

