-- ==== Sys2Proof/Machine/FloatVec.lean ====
section
/-!
DEFINITION. Vector floating-point arithmetic, conversions, narrow elements and special functions (13_numbers.md
R255–R274).
-/

namespace Sys2Proof.Machine

/-- A lane-wise result with flags: a V register tagged G (R253, R255). -/
def Env.floats (e : Env) (d : BitVec 8) (f : Nat → Nat × Flags) : Res :=
  .done (e.s.putHoist ((e.h.putV e.g.id d.toNat .g fun l => BitVec.ofNat 32 (f l).1).raise
    (flagsOver (e.h.activeLanes e.g.id) fun l => (f l).2)))

/-- A lane-wise 64-bit result with flags: a pair of V registers. -/
def Env.floatPairs (e : Env) (d : BitVec 8) (f : Nat → Nat × Flags) : Res :=
  .done (e.s.putHoist ((e.h.putVPair e.g.id d.toNat .g fun l => BitVec.ofNat 64 (f l).1).raise
    (flagsOver (e.h.activeLanes e.g.id) fun l => (f l).2)))

/-- A lane's word as a number. -/
def Env.vnat (e : Env) (n : BitVec 8) (l : Nat) : Nat := (e.h.vword n.toNat l).toNat

/-- A lane's pair as a number. -/
def Env.vnat64 (e : Env) (n : BitVec 8) (l : Nat) : Nat := (e.h.vpair n.toNat l).toNat

/-- VFADD (R257). -/
def execVfadd (d a b : BitVec 8) (s : State) : Host.Outcome State Fault Refusal :=
  runWord (.vfadd d a b) (fun e => e.floats d fun l => fAdd fp32 (e.vnat a l) (e.vnat b l)) s
/-- VFSUB (R257). -/
def execVfsub (d a b : BitVec 8) (s : State) : Host.Outcome State Fault Refusal :=
  runWord (.vfsub d a b) (fun e => e.floats d fun l => fSub fp32 (e.vnat a l) (e.vnat b l)) s
/-- VFMUL (R257). -/
def execVfmul (d a b : BitVec 8) (s : State) : Host.Outcome State Fault Refusal :=
  runWord (.vfmul d a b) (fun e => e.floats d fun l => fMul fp32 (e.vnat a l) (e.vnat b l)) s
/-- VFMA (R257): vD is the addend, read first. -/
def execVfma (d a b : BitVec 8) (s : State) : Host.Outcome State Fault Refusal :=
  runWord (.vfma d a b) (fun e => e.floats d fun l => fFma fp32 (e.vnat a l) (e.vnat b l) (e.vnat d l)) s
/-- VFMIN (R257, R258). -/
def execVfmin (d a b : BitVec 8) (s : State) : Host.Outcome State Fault Refusal :=
  runWord (.vfmin d a b) (fun e => e.floats d fun l => fMinMax fp32 false (e.vnat a l) (e.vnat b l)) s
/-- VFMAX (R257, R258). -/
def execVfmax (d a b : BitVec 8) (s : State) : Host.Outcome State Fault Refusal :=
  runWord (.vfmax d a b) (fun e => e.floats d fun l => fMinMax fp32 true (e.vnat a l) (e.vnat b l)) s
/-- VFABS (R257). -/
def execVfabs (d a : BitVec 8) (s : State) : Host.Outcome State Fault Refusal :=
  runWord (.vfabs d a) (fun e => e.lanes1 d a .g fun x => x &&& 0x7FFFFFFF#32) s
/-- VFCLASS (R257, R259). -/
def execVfclass (d a : BitVec 8) (s : State) : Host.Outcome State Fault Refusal :=
  runWord (.vfclass d a) (fun e => e.lanes1 d a .g fun x => BitVec.ofNat 32 (fClass fp32 x.toNat)) s

/-- A packed operation on the two 16-bit elements of a word, the flags of both ORed (R260). -/
def packed (f : Nat → Nat → Nat → Nat × Flags) (a b d : Nat) : Nat × Flags :=
  let (lo, g) := f (a % 65536) (b % 65536) (d % 65536)
  let (hi, g') := f (a / 65536) (b / 65536) (d / 65536)
  (hi * 65536 + lo, g ||| g')

/-- VHADD (R260). -/
def execVhadd (d a b : BitVec 8) (s : State) : Host.Outcome State Fault Refusal :=
  runWord (.vhadd d a b) (fun e => e.floats d fun l => packed (fun x y _ => fAdd fp16 x y) (e.vnat a l) (e.vnat b l) 0) s
/-- VHMUL (R260). -/
def execVhmul (d a b : BitVec 8) (s : State) : Host.Outcome State Fault Refusal :=
  runWord (.vhmul d a b) (fun e => e.floats d fun l => packed (fun x y _ => fMul fp16 x y) (e.vnat a l) (e.vnat b l) 0) s
/-- VHFMA (R260). -/
def execVhfma (d a b : BitVec 8) (s : State) : Host.Outcome State Fault Refusal :=
  runWord (.vhfma d a b) (fun e => e.floats d fun l => packed (fFma fp16) (e.vnat a l) (e.vnat b l) (e.vnat d l)) s
/-- VBADD (R260). -/
def execVbadd (d a b : BitVec 8) (s : State) : Host.Outcome State Fault Refusal :=
  runWord (.vbadd d a b) (fun e => e.floats d fun l => packed (fun x y _ => fAdd bf16 x y) (e.vnat a l) (e.vnat b l) 0) s
/-- VBMUL (R260). -/
def execVbmul (d a b : BitVec 8) (s : State) : Host.Outcome State Fault Refusal :=
  runWord (.vbmul d a b) (fun e => e.floats d fun l => packed (fun x y _ => fMul bf16 x y) (e.vnat a l) (e.vnat b l) 0) s
/-- VBFMA (R260). -/
def execVbfma (d a b : BitVec 8) (s : State) : Host.Outcome State Fault Refusal :=
  runWord (.vbfma d a b) (fun e => e.floats d fun l => packed (fFma bf16) (e.vnat a l) (e.vnat b l) (e.vnat d l)) s

/-- A two-element dot product accumulated in FP32, rounded once (R261). -/
def dot2 (f : Format) (a b d : Nat) : Nat × Flags :=
  let (p, g) := (f.decode (a % 65536)).mul (f.decode (b % 65536))
  let (q, g') := (f.decode (a / 65536)).mul (f.decode (b / 65536))
  let (t, g'') := sumExact [p, q, fp32.decode d]
  deliver fp32 (t, g ||| g' ||| g'')

/-- VHDOT (R261). -/
def execVhdot (d a b : BitVec 8) (s : State) : Host.Outcome State Fault Refusal :=
  runWord (.vhdot d a b) (fun e => e.floats d fun l => dot2 fp16 (e.vnat a l) (e.vnat b l) (e.vnat d l)) s
/-- VBDOT (R261). -/
def execVbdot (d a b : BitVec 8) (s : State) : Host.Outcome State Fault Refusal :=
  runWord (.vbdot d a b) (fun e => e.floats d fun l => dot2 bf16 (e.vnat a l) (e.vnat b l) (e.vnat d l)) s

/-- VDADD (R262). -/
def execVdadd (d a b : BitVec 8) (s : State) : Host.Outcome State Fault Refusal :=
  runWord (.vdadd d a b) (fun e => e.floatPairs d fun l => fAdd fp64 (e.vnat64 a l) (e.vnat64 b l)) s
/-- VDMUL (R262). -/
def execVdmul (d a b : BitVec 8) (s : State) : Host.Outcome State Fault Refusal :=
  runWord (.vdmul d a b) (fun e => e.floatPairs d fun l => fMul fp64 (e.vnat64 a l) (e.vnat64 b l)) s
/-- VDFMA (R262): the vD pair is the addend, read first. -/
def execVdfma (d a b : BitVec 8) (s : State) : Host.Outcome State Fault Refusal :=
  runWord (.vdfma d a b) (fun e =>
    e.floatPairs d fun l => fFma fp64 (e.vnat64 a l) (e.vnat64 b l) (e.vnat64 d l)) s
/-- VDMIN (R262). -/
def execVdmin (d a b : BitVec 8) (s : State) : Host.Outcome State Fault Refusal :=
  runWord (.vdmin d a b) (fun e => e.floatPairs d fun l => fMinMax fp64 false (e.vnat64 a l) (e.vnat64 b l)) s
/-- VDMAX (R262). -/
def execVdmax (d a b : BitVec 8) (s : State) : Host.Outcome State Fault Refusal :=
  runWord (.vdmax d a b) (fun e => e.floatPairs d fun l => fMinMax fp64 true (e.vnat64 a l) (e.vnat64 b l)) s

/-! ### Conversions -/

/-- The formats of VCVT (R263). -/
def cvtFormat : Nat → Format
  | 0 => fp32
  | 1 => fp16
  | 2 => bf16
  | _ => fp64

/-- A lane's scalar operand of a wide format: a pair, a word, or its low half (R255). -/
def Env.wideOperand (e : Env) (f : Format) (a : BitVec 8) (l : Nat) : Nat :=
  if f.width = 64 then e.vnat64 a l else e.vnat a l % 2 ^ f.width

/-- A lane-wise result in a wide format. -/
def Env.wideResult (e : Env) (f : Format) (d : BitVec 8) (g : Nat → Nat × Flags) : Res :=
  if f.width = 64 then e.floatPairs d g else e.floats d g

/-- VCVT (R263). -/
def execVcvt (d a : BitVec 8) (x t : BitVec 4) (s : State) : Host.Outcome State Fault Refusal :=
  runWord (.vcvt d a x t) (fun e =>
    let src := cvtFormat x.toNat
    let dst := cvtFormat t.toNat
    e.wideResult dst d fun l => convert dst (src.decode (e.wideOperand src a l))) s

/-- The fields of an element control word (R264): K, FMT, SCALE. -/
def elemControl (c : Word) : Nat × Nat × Nat := (bitsOf c.toNat 14 12, bitsOf c.toNat 11 8, bitsOf c.toNat 7 0)

/-- Whether an element control word is legal (R264); SCALE is reserved for VPACK. -/
def elemLegal (pack : Bool) (c : Word) : Bool :=
  let (k, fmt, scale) := elemControl c
  bitsOf c.toNat 31 15 == 0 && decide (fmt ≤ 6) && decide (k < elemCount fmt) && (!pack || scale == 0)

/-- VPACK (R265). -/
def execVpack (d a b : BitVec 8) (s : State) : Host.Outcome State Fault Refusal :=
  runWord (.vpack d a b) (fun e =>
    let c := e.sval b
    let (k, fmt, _) := elemControl c
    if elemLegal true c = false then .trap { cls := .illop } e.s
    else e.floats d fun l =>
      let (y, g) := convertElem fmt (fp32.decode (e.vnat a l))
      (putElem fmt k (e.vnat d l) y, g)) s

/-- VUNPK (R266). -/
def execVunpk (d a : BitVec 8) (f : BitVec 4) (k : BitVec 3) (s : State) : Host.Outcome State Fault Refusal :=
  runWord (.vunpk d a f k) (fun e => e.floats d fun l => convert fp32 (elemValue f.toNat k.toNat (e.vnat a l))) s

/-- Whether every live active lane's control word satisfies `p`. -/
def Env.controlsOk (e : Env) (b : BitVec 8) (p : Word → Bool) : Bool :=
  (e.h.activeLanes e.g.id).all fun l => p (e.h.vword b.toNat l)

/-- One lane of VQNT (R267): the value and the flags.  DESIGN CHOICE (log 52): under SCALE = 0xFF the NaN that stands for x is
quiet whatever vA holds, so a signalling vA raises no IV; R251 does not say whether vA is then an operand. -/
def quantize (c : Word) (a d : Nat) : Nat × Flags :=
  let (k, fmt, scale) := elemControl c
  let x := if scale = 255 then .nan false else (fp32.decode a).scale (127 - (scale : Int))
  let (y, g) := convertElem fmt x
  (putElem fmt k d y, g)

/-- VQNT (R267). -/
def execVqnt (d a b : BitVec 8) (s : State) : Host.Outcome State Fault Refusal :=
  runWord (.vqnt d a b) (fun e =>
    if e.controlsOk b (elemLegal false) = false then .trap { cls := .illop } e.s
    else e.floats d fun l => quantize (e.h.vword b.toNat l) (e.vnat a l) (e.vnat d l)) s

/-- One lane of VDQNT (R268). -/
def dequantize (c : Word) (a : Nat) : Nat × Flags :=
  let (k, fmt, scale) := elemControl c
  let w := elemValue fmt k a
  if scale = 255 ∨ w.isNaN = true then (fp32.canonicalNaN, w.sigFlag)
  else convert fp32 (w.scale ((scale : Int) - 127))

/-- VDQNT (R268). -/
def execVdqnt (d a b : BitVec 8) (s : State) : Host.Outcome State Fault Refusal :=
  runWord (.vdqnt d a b) (fun e =>
    if e.controlsOk b (elemLegal false) = false then .trap { cls := .illop } e.s
    else e.floats d fun l => dequantize (e.h.vword b.toNat l) (e.vnat a l)) s

/-- Whether a control word of VCBDEC is legal (R269). -/
def cbLegal (c : Word) : Bool := bitsOf c.toNat 31 16 == 0 && bitsOf c.toNat 7 4 == 0

/-- One lane of VCBDEC (R269). -/
def cbDecode (table : Option Memory) (c : Word) (a : Nat) : Nat × Flags :=
  let scale := bitsOf c.toNat 15 8
  let w := if c.getLsbD 3 then a / 65536 else a % 65536
  if scale = 255 then (fp32.canonicalNaN, 0)
  else convert fp32 ((cb2Weight table w (bitsOf c.toNat 2 0)).scale ((scale : Int) - 127))

/-- VCBDEC (R269): the table of the cluster's engine when it carries the hoist's context (R249), reloaded first for a
block that resumed (15_cube.md R299). -/
def execVcbdec (d a b : BitVec 8) (s : State) : Host.Outcome State Fault Refusal :=
  runWord (.vcbdec d a b) (fun e =>
    if e.controlsOk b cbLegal = false then .trap { cls := .illop } e.s
    else
      let s' := e.s.reloadTable e.b.id
      let table := s'.codebook (clusterOf e.h.src) e.c.id
      { e with s := s' }.floats d fun l => cbDecode table (e.h.vword b.toNat l) (e.vnat a l)) s

/-- The integer formats of VF2I and VI2F (R270). -/
def intFormat : Nat → IntFormat
  | 0 => ⟨32, true⟩
  | 1 => ⟨32, false⟩
  | 2 => ⟨16, true⟩
  | 3 => ⟨16, false⟩
  | 4 => ⟨8, true⟩
  | 5 => ⟨8, false⟩
  | 6 => ⟨64, true⟩
  | _ => ⟨64, false⟩

/-- VF2I (R270). -/
def execVf2i (d a : BitVec 8) (w : BitVec 1) (t : BitVec 4) (s : State) : Host.Outcome State Fault Refusal :=
  runWord (.vf2i d a w t) (fun e =>
    let src := if w = 1 then fp64 else fp32
    let dst := intFormat t.toNat
    let f (bits l : Nat) : Nat × Flags :=
      let (i, g) := convertInt dst (src.decode (e.wideOperand src a l))
      ((i % (2 ^ bits : Nat)).toNat, g)
    if dst.bits = 64 then e.floatPairs d (f 64) else e.floats d (f 32)) s

/-- VI2F (R271). -/
def execVi2f (d a : BitVec 8) (t : BitVec 2) (x : BitVec 4) (s : State) : Host.Outcome State Fault Refusal :=
  runWord (.vi2f d a t x) (fun e =>
    let src := intFormat x.toNat
    let dst := match t.toNat with | 0 => fp32 | 1 => fp64 | 2 => fp16 | _ => bf16
    e.wideResult dst d fun l =>
      let v := (if src.bits = 64 then e.vnat64 a l else e.vnat a l) % 2 ^ src.bits
      let i : Int := if src.signed then signedOf src.bits v else v
      convert dst (.num (decide (i < 0)) i.natAbs 0)) s

/-- VRND (R272). -/
def execVrnd (d a : BitVec 8) (w : BitVec 1) (m : BitVec 3) (s : State) : Host.Outcome State Fault Refusal :=
  runWord (.vrnd d a w m) (fun e =>
    let f := if w = 1 then fp64 else fp32
    e.wideResult f d fun l => fRound f m.toNat (e.wideOperand f a l)) s

/-! ### Special functions (R273) -/

/-- A special function in each live active lane. -/
def Env.special1 (e : Env) (f : SpecialFn) (d a : BitVec 8) : Res := e.floats d fun l => specialFn f (e.vnat a l)

/-- VRCP (R273). -/
def execVrcp (d a : BitVec 8) (s : State) : Host.Outcome State Fault Refusal :=
  runWord (.vrcp d a) (fun e => e.special1 .rcp d a) s
/-- VRSQ (R273). -/
def execVrsq (d a : BitVec 8) (s : State) : Host.Outcome State Fault Refusal :=
  runWord (.vrsq d a) (fun e => e.special1 .rsq d a) s
/-- VSQRT (R273). -/
def execVsqrt (d a : BitVec 8) (s : State) : Host.Outcome State Fault Refusal :=
  runWord (.vsqrt d a) (fun e => e.special1 .sqrt d a) s
/-- VEXP2 (R273). -/
def execVexp2 (d a : BitVec 8) (s : State) : Host.Outcome State Fault Refusal :=
  runWord (.vexp2 d a) (fun e => e.special1 .exp2 d a) s
/-- VLOG2 (R273). -/
def execVlog2 (d a : BitVec 8) (s : State) : Host.Outcome State Fault Refusal :=
  runWord (.vlog2 d a) (fun e => e.special1 .log2 d a) s
/-- VSIN (R273). -/
def execVsin (d a : BitVec 8) (s : State) : Host.Outcome State Fault Refusal :=
  runWord (.vsin d a) (fun e => e.special1 .sin d a) s
/-- VCOS (R273). -/
def execVcos (d a : BitVec 8) (s : State) : Host.Outcome State Fault Refusal :=
  runWord (.vcos d a) (fun e => e.special1 .cos d a) s
/-- VTANH (R273). -/
def execVtanh (d a : BitVec 8) (s : State) : Host.Outcome State Fault Refusal :=
  runWord (.vtanh d a) (fun e => e.special1 .tanh d a) s

end Sys2Proof.Machine
end

