-- ==== Sys2Proof/Machine/Layers.lean ====
section
/-!
DEFINITION. Layered targets and the Bunting pool: FCFG, FINS, FRES, FCLR (23_rendering.md R392–R403).
-/

namespace Sys2Proof.Machine

/-! ### Reading and writing structures in virtual memory -/

/-- Reads n bytes at a virtual address for the word; a poisoned sector fails with `poisonDetail`. -/
def Env.vget (e : Env) (use : PageUse) (r : Rights) (va : VAddr) (n : Nat) (s : State) :
    Except RangeFault (List Byte × State) :=
  match s.range (e.who use) e.c use r va n with
  | (.ok rs, s) =>
    if s.runsPoisoned rs then .error ⟨.xlate, poisonDetail, 0, va, false, false⟩
    else .ok (s.loadRuns e.h.src e.b.id rs, s)
  | (.error f, _) => .error f

/-- Writes bytes at a virtual address for the word. -/
def Env.vput (e : Env) (use : PageUse) (r : Rights) (va : VAddr) (bs : List Byte) (s : State) : Except RangeFault State :=
  match s.range (e.who use) e.c use r va bs.length with
  | (.ok rs, s) => .ok (State.storeRuns e.h.src e.b.id e.c.id va rs bs s)
  | (.error f, _) => .error f

/-- The state once a word that waits at an address has asked for what it waits for (25_docking.md R411). -/
def Env.asks (e : Env) (va : VAddr) (s : State) : State :=
  match s.reach (coreOf e.h.src) e.c va .load allRights with
  | (.stall, s) => s
  | (_, s) => (s.reach (coreOf e.h.src) e.c va .store allRights).2

/-- A fault of such an access as the word meets it (R403, 19_faults.md R348, 21_reliability.md R358). -/
def Env.structFault (e : Env) (f : RangeFault) (lanes : Mask) (s : State) : Res :=
  if f.detail = poisonDetail then .gone (s.loseHoist e.h.src 0xFF e.namedData)
  else if f.stall then .wait .retry (e.asks f.va s)
  else if f.forward && !e.g.refused then e.awaitToken f.va 2 s
  else if f.forward then .trap { cls := .xlate, detail := 2, va := some f.va, lanes := lanes } s
  else .trap { cls := f.cls, detail := f.detail, key := f.key, va := some f.va, lanes := lanes } s

/-! ### Descriptors -/

/-- The address in bits [71:8] of an 8-byte field. -/
def field8 (b : List Byte) (off : Nat) : VAddr := BitVec.ofNat 72 (256 * leNat (segment b off 8))

/-- Whether byte 63 of a descriptor has VALID set (R392, R394). -/
def descValid (b : List Byte) : Bool := decide (128 ≤ nodeByte b 63)

/-- A target (R394) with its pool, as a step reaches them. -/
structure Target3 where
  heads : VAddr
  width : Nat
  height : Nat
  rule : Nat
  k : Nat
  pool : VAddr
  map : VAddr
  rights : Rights
  deriving DecidableEq, Repr

/-- A target descriptor's fields. -/
def targetOf (b : List Byte) (map : VAddr) (r : Rights) : Target3 :=
  ⟨field8 b 0, leNat (segment b 8 2), leNat (segment b 10 2), nodeByte b 12 / 16 % 4, nodeByte b 12 % 16, field8 b 16, map, r⟩

/-- The address of a pixel's head word (R395). -/
def Target3.head (t : Target3) (x y : Nat) : VAddr := t.heads + BitVec.ofNat 72 (4 * (y * t.width + x))

/-! ### Nodes and the free list -/

/-- The address of node n: by its page map entry (R392). -/
def Env.nodeAddr (e : Env) (t : Target3) (n : Nat) (s : State) : Except RangeFault (VAddr × State) :=
  match e.vget .load t.rights (t.map + BitVec.ofNat 72 (8 * (n / 256))) 8 s with
  | .ok (b, s) => .ok (BitVec.ofNat 72 (4096 * bitsOf (leNat b) 59 0 + 16 * (n % 256)), s)
  | .error f => .error f

/-- Reads node n: `use` is `.load` for a node that is only read, `.atomic` for one that is to be written. -/
def Env.getNode (e : Env) (use : PageUse) (t : Target3) (n : Nat) (s : State) : Except RangeFault (List Byte × State) :=
  match e.nodeAddr t n s with
  | .ok (va, s) => e.vget use t.rights va 16 s
  | .error f => .error f

/-- NEXT of a node (R393). -/
def nodeNext (b : List Byte) : Nat := leNat (segment b 13 3)
/-- A node with its NEXT changed; its reserved bits are written as zero (00_scope.md R5). -/
def setNext (b : List Byte) (n : Nat) : List Byte := b.take 12 ++ natLe 1 (nodeByte b 12 % 2) ++ natLe 3 n
/-- FREEH and FREEC of a pool descriptor. -/
def poolFree (b : List Byte) : Nat × Nat := (leNat (segment b 16 3), leNat (segment b 20 4))

/-- Reads the pool descriptor. -/
def Env.getPool (e : Env) (t : Target3) (s : State) : Except RangeFault (List Byte × State) :=
  e.vget .atomic t.rights t.pool 64 s

/-- One write of a step: where, with which use and rights, and the bytes. -/
structure StepWrite where
  va : VAddr
  use : PageUse
  rights : Rights
  bytes : List Byte
  deriving DecidableEq, Repr

/-- The writes of nodes, each at its address. -/
def Env.nodeWrites (e : Env) (t : Target3) : List (Nat × List Byte) → State → Except RangeFault (List StepWrite × State)
  | [], s => .ok ([], s)
  | (n, b) :: rest, s =>
    match e.nodeAddr t n s with
    | .error f => .error f
    | .ok (va, s) =>
      match e.nodeWrites t rest s with
      | .error f => .error f
      | .ok (ws, s) => .ok (⟨va, .atomic, t.rights, b⟩ :: ws, s)

/-- The write of FREEH and FREEC. -/
def freeWrite (t : Target3) (h c : Nat) : StepWrite := ⟨t.pool + 16, .atomic, t.rights, natLe 4 h ++ natLe 4 c⟩

/-- The write of a pixel's head word. -/
def headWrite (t : Target3) (x y : Nat) (b : List Byte) : StepWrite := ⟨t.head x y, .atomic, t.rights, b⟩

/-- Translates the pages of the writes; the first fault (R403). -/
def Env.reachWrites (e : Env) : List StepWrite → State → Except RangeFault State
  | [], s => .ok s
  | w :: ws, s =>
    match s.range (e.who w.use) e.c w.use w.rights w.va w.bytes.length with
    | (.ok _, s) => e.reachWrites ws s
    | (.error f, _) => .error f

/-- Writes, after every page has been translated. -/
def Env.doWrites (e : Env) : List StepWrite → State → Except RangeFault State
  | [], s => .ok s
  | w :: ws, s =>
    match e.vput w.use w.rights w.va w.bytes s with
    | .ok s => e.doWrites ws s
    | .error f => .error f

/-- A step's writes: it translates every page it will write before it writes anything (R403). -/
def Env.commitStep (e : Env) (ws : List StepWrite) (s : State) : Except RangeFault State :=
  match e.reachWrites ws s with
  | .ok s => e.doWrites ws s
  | .error f => .error f

/-- Nodes as they stand once pushed onto the free list one by one, whose first node is h (R398, R402). -/
def pushed : Nat → List (Nat × List Byte) → List (Nat × List Byte)
  | _, [] => []
  | h, (n, b) :: ns => (n, setNext b h) :: pushed n ns

/-- The writes that push nodes onto the free list: none where there are no nodes. -/
def Env.freeWrites (e : Env) (t : Target3) (ns : List (Nat × List Byte)) (s : State) :
    Except RangeFault (List StepWrite × State) :=
  if ns = [] then .ok ([], s)
  else
    match e.getPool t s with
    | .error f => .error f
    | .ok (p, s) =>
      let (h, c) := poolFree p
      match e.nodeWrites t (pushed h ns) s with
      | .error f => .error f
      | .ok (ws, s) => .ok (ws ++ [freeWrite t ((ns.getLast?.map (·.1)).getD h) (c + ns.length)], s)

/-- Reads nodes by their numbers. -/
def Env.getNodes (e : Env) (t : Target3) : List Nat → State → Except RangeFault (List (Nat × List Byte) × State)
  | [], s => .ok ([], s)
  | n :: ns, s =>
    match e.getNode .atomic t n s with
    | .error f => .error f
    | .ok (b, s) =>
      match e.getNodes t ns s with
      | .error f => .error f
      | .ok (xs, s) => .ok ((n, b) :: xs, s)

/-- Returns nodes of a reservation to the free list (R403). -/
def Env.returnNodes (e : Env) (t : Target3) (ns : List Nat) (s : State) : State :=
  match e.getNodes t ns s with
  | .error _ => s
  | .ok (xs, s1) =>
    match e.freeWrites t xs s1 with
    | .error _ => s
    | .ok (ws, s2) => match e.commitStep ws s2 with | .ok s3 => s3 | .error _ => s

/-- The first m nodes of the free list and what follows them. -/
def Env.freeList (e : Env) (t : Target3) : Nat → Nat → State → Except RangeFault (List Nat × Nat × State)
  | 0, h, s => .ok ([], h, s)
  | m + 1, h, s =>
    match e.getNode .atomic t h s with
    | .error f => .error f
    | .ok (b, s) =>
      match e.freeList t m (nodeNext b) s with
      | .error f => .error f
      | .ok (ns, rest, s) => .ok (h :: ns, rest, s)

/-! ### Depths and colours -/

/-- The gap of two adjacent depths in units of 2^(−149); none for +∞ (R398). -/
def depthGap (a b : Nat) : Option Int :=
  if (fp32.decode a).eqv (fp32.decode b) then some 0
  else match fpUnits a, fpUnits b with
    | some x, some y => some (y - x)
    | _, _ => none

/-- Whether one gap is smaller than another. -/
def gapLess : Option Int → Option Int → Bool
  | some a, some b => decide (a < b)
  | some _, none => true
  | none, _ => false

/-- The place of the smallest of a list of gaps, the nearer on a tie: `best` is the one so far. -/
def bestGap : List (Option Int) → Nat → Option Int × Nat → Nat
  | [], _, best => best.2
  | g :: gs, i, best => bestGap gs (i + 1) (if gapLess g best.1 then (g, i) else best)

/-- The index of the pair that merges (R398). -/
def mergeAt (depths : List Nat) : Nat :=
  match List.zipWith depthGap depths depths.tail with
  | [] => 0
  | g :: gs => bestGap gs 1 (g, 0)

/-- Channel c of an FP16 colour. -/
def channel (colour : List Byte) (c : Nat) : Nat := leNat (segment colour (2 * c) 2)

/-- a + (1 − w) × b exactly. -/
def blend (a w b : FVal) : FVal :=
  let q := (sumExact [.num false 1 0, w.negate]).1
  (sumExact [a, (q.mul b).1]).1

/-- merge(f, b, RULE) (R399). -/
def mergeColour (rule : Nat) (f b : List Byte) : List Byte :=
  let v (x : List Byte) (c : Nat) : FVal := fp16.decode (channel x c)
  (List.range 4).flatMap fun c => natLe 2 <|
    match rule with
    | 0 => (convert fp16 (blend (v f c) (v f 3) (v b c))).1
    | 1 => (convert fp16 (sumExact [v f c, v b c]).1).1
    | 2 => if (v f c).isNaN then 0x7E00 else channel f c
    | _ => (fMinMax fp16 true (channel f c) (channel b c)).1

/-- One step of FRES on an FP32 accumulator (R401). -/
def resolveStep (rule : Nat) (acc : List Nat) (colour : List Byte) : List Nat :=
  let a (c : Nat) : FVal := fp32.decode (acc.getD c 0)
  let v (c : Nat) : FVal := fp16.decode (channel colour c)
  (List.range 4).map fun c =>
    match rule with
    | 1 => (convert fp32 (sumExact [a c, v c]).1).1
    | 3 => (fMinMax fp32 true (acc.getD c 0) (convert fp32 (v c)).1).1
    | _ => (convert fp32 (blend (a c) (a 3) (v c))).1

/-! ### Pixels -/

/-- A pixel's list: its nodes with their bytes, nearest first. -/
def Env.pixelList (e : Env) (t : Target3) : Nat → Nat → State → Except RangeFault (List (Nat × List Byte) × State)
  | 0, _, s => .ok ([], s)
  | fuel + 1, n, s =>
    if n = 0 then .ok ([], s)
    else
      match e.getNode .load t n s with
      | .error f => .error f
      | .ok (b, s) =>
        match e.pixelList t fuel (nodeNext b) s with
        | .error f => .error f
        | .ok (xs, s) => .ok ((n, b) :: xs, s)

/-- A list of nodes, each linked to the next. -/
def linked : List (Nat × List Byte) → List (Nat × List Byte)
  | [] => []
  | (n, b) :: rest => (n, setNext b ((rest.head?.map (·.1)).getD 0)) :: linked rest

/-- The head word (R395). -/
def headWord (xs : List (Nat × List Byte)) (ovf : Bool) : List Byte :=
  natLe 4 (256 * (xs.head?.map (·.1)).getD 0 + 16 * xs.length + if ovf then 1 else 0)

/-- A pixel's head word and list. -/
def Env.getPixel (e : Env) (t : Target3) (x y : Nat) (s : State) :
    Except RangeFault (Bool × List (Nat × List Byte) × State) :=
  match e.vget .atomic t.rights (t.head x y) 4 s with
  | .error f => .error f
  | .ok (b, s) =>
    let w := leNat b
    match e.pixelList t (bitsOf w 7 4) (bitsOf w 31 8) s with
    | .error f => .error f
    | .ok (xs, s) => .ok (bitsOf w 0 0 == 1, xs, s)

/-- DEPTH of a node. -/
def nodeDepth (b : List Byte) : Nat := leNat (b.take 4)

/-- A list with one node merged into its nearer neighbour: the list, the merged node and the node that is freed (R398). -/
def mergePair (rule : Nat) (xs : List (Nat × List Byte)) : List (Nat × List Byte) × Option Nat × List (Nat × List Byte) :=
  let i := mergeAt (xs.map fun x => nodeDepth x.2)
  match xs[i]?, xs[i + 1]? with
  | some f, some b =>
    let m := f.2.take 4 ++ mergeColour rule (segment f.2 4 8) (segment b.2 4 8) ++ [1] ++ segment f.2 13 3
    (xs.take i ++ [(f.1, m)] ++ xs.drop (i + 2), some f.1, [b])
  | _, _ => (xs, none, [])

/-- A node linked before the first deeper one (R398). -/
def insertNode (n : Nat × List Byte) : List (Nat × List Byte) → List (Nat × List Byte)
  | [] => [n]
  | x :: xs =>
    let a := fp32.decode (nodeDepth n.2)
    let b := fp32.decode (nodeDepth x.2)
    if a.lt b && !a.eqv b then n :: x :: xs else x :: insertNode n xs

/-- One FINS step with a reserved node (R398): it writes the new node, the merged one and each node whose link changes; a
node that is only read needs no W. -/
def Env.finsStep (e : Env) (t : Target3) (x y : Nat) (new : Nat × List Byte) (s : State) : Except RangeFault State :=
  match e.getPixel t x y s with
  | .error f => .error f
  | .ok (ovf, xs, s) =>
    let full := decide (t.k ≤ xs.length)
    let (ys, merged, freed) := if full then mergePair t.rule xs else (xs, none, [])
    let zs := linked (insertNode new ys)
    let same (z : Nat × List Byte) : Bool := xs.any fun x => x.1 == z.1 && nodeNext x.2 == nodeNext z.2
    let touched := zs.filter fun z => !same z || z.1 == new.1 || some z.1 == merged
    match e.nodeWrites t touched s with
    | .error f => .error f
    | .ok (ws, s) =>
      match e.freeWrites t freed s with
      | .error f => .error f
      | .ok (fs, s) => e.commitStep (ws ++ fs ++ [headWrite t x y (headWord zs (ovf || full))]) s

/-- The nodes of a pixel freed and its head word zero, after another write (R401, R402). -/
def Env.clearPixel (e : Env) (t : Target3) (x y : Nat) (xs : List (Nat × List Byte)) (first : List StepWrite) (s : State) :
    Except RangeFault State :=
  match e.freeWrites t xs s with
  | .error f => .error f
  | .ok (fs, s) => e.commitStep (first ++ fs ++ [headWrite t x y (natLe 4 0)]) s

/-- One FCLR step (R402). -/
def Env.fclrStep (e : Env) (t : Target3) (x y : Nat) (s : State) : Except RangeFault State :=
  match e.getPixel t x y s with
  | .error f => .error f
  | .ok (_, xs, s) => e.clearPixel t x y xs [] s

/-- One FRES step (R401): `out` is the address of the pixel's output. -/
def Env.fresStep (e : Env) (t : Target3) (out : VAddr) (r : Rights) (x y : Nat) (background : List Byte) (s : State) :
    Except RangeFault State :=
  match e.getPixel t x y s with
  | .error f => .error f
  | .ok (_, xs, s) =>
    let acc := xs.foldl (fun acc n => resolveStep t.rule acc (segment n.2 4 8)) [0, 0, 0, 0]
    let acc := resolveStep t.rule acc background
    e.clearPixel t x y xs [⟨out, .store, r, acc.flatMap fun c => natLe 2 (convert fp16 (fp32.decode c)).1⟩] s

/-! ### The instructions -/

/-- The steps of a lane list from number i on: done, or stopped at a step with the state before it (R398, R403). -/
def runSteps (f : Nat → State → Except RangeFault State) : List Nat → Nat → State → (Option (Nat × RangeFault)) × State
  | [], _, s => (none, s)
  | l :: ls, i, s =>
    match f l s with
    | .ok s => runSteps f ls (i + 1) s
    | .error x => (some (i, x), s)

/-- A lane's pixel (R397). -/
def Env.pixel (e : Env) (v l : Nat) : Nat × Nat :=
  let w := (e.h.vword v l).toNat
  (bitsOf w 15 0, bitsOf w 31 16)

/-- The BOUND of step 4 (R397): the lanes whose pixel or output lies outside. -/
def Env.pixelsOutside (e : Env) (v : Nat) (t : Target3) (out : Option AReg) : List Nat :=
  (e.h.activeLanes e.g.id).filter fun l =>
    let (x, y) := e.pixel v l
    decide (t.width ≤ x) || decide (t.height ≤ y) ||
      match out with
      | some o => !o.accessOk 0 8 8 (o.position (8 * (y * t.width + x) : Nat) 0)
      | none => false

/-- How the head words of the lanes are reached, then the pool descriptor (R397, step 5). -/
def Env.headReaches (e : Env) (v : Nat) (t : Target3) (s : State) : List LaneReach :=
  let lanes := e.h.activeLanes e.g.id
  let at_ (va : VAddr) (l : Nat) : LaneReach := ⟨l, va, (s.reach (coreOf e.h.src) e.c va .atomic t.rights).1⟩
  (lanes.map fun l => at_ (t.head (e.pixel v l).1 (e.pixel v l).2) l) ++ lanes.map (at_ t.pool)

/-- The read of the target descriptor: a translation that the host refused raises its XLATE there only when it fails there (19_faults.md
R348; log 39). -/
def Env.readTarget (e : Env) (aT : AReg) (pos : Int) (k : State → Option Runs → Res) : Res :=
  match e.g.refused, (e.s.range (e.who .load) e.c .load aT.rights (aT.address pos) 64).1 with
  | true, .error f =>
    if f.cls == .xlate && !f.stall then e.refusedRange .load aT.rights (aT.address pos) 64
    else { e with g := { e.g with refused := false } }.reachSpan aT [permR] .load 256 64 pos k
  | _, _ => { e with g := { e.g with refused := false } }.reachSpan aT [permR] .load 256 64 pos k

/-- The checks of R397 up to step 5, then the steps.  The pool descriptor is read as a load, and what its own page refuses is found
with the head words. -/
def Env.layered (e : Env) (v : Nat) (aT : AReg) (out : Option AReg) (k : Env → Target3 → List Byte → Res) : Res :=
  let pos := aT.position 0 0
  let barred : Option AReg := if !aT.has permR || aT.has permSCR then some aT else out.filter fun o => !o.has permW || o.has permSCR
  if let some w := barred then e.windowPerm w (w.position 0 0)
  else if !aT.accessOk e.b.segSize 256 64 pos then e.raise .bound
  else e.inOrder (aT.ranges pos 64) fun e => e.readTarget aT pos fun s rs =>
    match e.spanBytes aT 64 pos rs s with
    | none => .gone (s.loseHoist e.h.src 0xFF e.namedData)
    | some desc =>
      let e := e.at s
      let pool := e.vget .load aT.rights (field8 desc 16) 64 s
      let poolBytes := match pool with | .ok (b, _) => some b | .error _ => none
      let t := targetOf desc (match poolBytes with | some b => field8 b 0 | none => 0) aT.rights
      let outside := e.pixelsOutside v t out
      let xs := e.headReaches v t s
      if !descValid desc || (match poolBytes with | some b => !descValid b | none => false) then e.raise .illop
      else if outside ≠ [] then .trap { cls := .bound, lanes := lanesMask outside } e.s
      else if e.g.refused && xs.any (·.reach.meets .xlate) then .trap (refusedTrap true xs) s
      else
        match firstFault true xs with
        | some (x, true) => e.awaitToken (x.va.getD 0) 2 s
        | some (x, false) => .trap x s
        | none =>
          match xs.find? (·.reach == .stall), pool with
          | some x, _ => .wait .retry (e.asks x.va s)
          | none, .error f => e.structFault f 0 s
          | none, .ok (b, s) =>
            match e.g.refused, k (e.at s) t b with
            | true, .done _ => .trap (refusedTrap true xs) s
            | _, r => r

/-- The first step (R398). -/
def Env.firstStep (e : Env) : Nat := if e.g.resumed then e.h.regs.xprog.toNat else 0

/-- Writes %xprog in the state. -/
def Env.progress (e : Env) (i : Nat) (s : State) : State :=
  s.updHoist e.h.src fun h => { h with regs := { h.regs with xprog := BitVec.ofNat 32 i } }

/-- Ends the steps: complete with %xprog zero, or stopped at step i (R398, R403).  `outs` are the outputs of the steps: an FRES that
waits owns the lines of those still to be written (11_ordering.md R215). -/
def Env.endSteps (e : Env) (lanes : List Nat) (r : Option (Nat × RangeFault)) (s : State) (outs : List VAddr := []) : Res :=
  match r with
  | none => .done (e.progress 0 s)
  | some (i, f) =>
    let again (s : State) : State :=
      (e.progress i s).updHoist e.h.src fun h => h.updGroup e.g.id fun g => { g with resumed := true, outs := outs.drop i }
    if f.stall ∨ (f.forward ∧ e.g.refused = false) then e.structFault f 0 (again s)
    else e.structFault f (lanesMask (lanes.drop i |>.take 1)) (e.progress i s)

/-- A FINS lane's node bytes: depth and colour, NEXT and flags zero. -/
def Env.newNode (e : Env) (v l : Nat) : List Byte :=
  natLe 4 (e.h.vword (v + 1) l).toNat ++ natLe 4 (e.h.vword (v + 2) l).toNat ++ natLe 4 (e.h.vword (v + 3) l).toNat ++ natLe 4 0

/-- The FINS steps: each lane with a depth takes the next reserved node. -/
def Env.finsSteps (e : Env) (v : Nat) (t : Target3) :
    List Nat → Nat → List Nat → State → Option (Nat × RangeFault) × List Nat × State
  | [], _, ns, s => (none, ns, s)
  | l :: ls, i, ns, s =>
    if (fp32.decode (e.h.vword (v + 1) l).toNat).isNaN then e.finsSteps v t ls (i + 1) ns s
    else
      let (x, y) := e.pixel v l
      match e.finsStep t x y (ns.headD 0, e.newNode v l) s with
      | .ok s => e.finsSteps v t ls (i + 1) ns.tail s
      | .error f => (some (i, f), ns, s)

/-- FINS (R398, R400, R403). -/
def execFins (v : BitVec 8) (n : BitVec 4) (s : State) : Host.Outcome State Fault Refusal :=
  runWord (.fins v n) (fun e => e.layered v.toNat (e.h.areg n.toNat) none fun e t pool =>
    let lanes := e.h.activeLanes e.g.id
    let k := min lanes.length e.firstStep
    let left := lanes.drop k
    let m := (left.filter fun l => !(fp32.decode (e.h.vword (v.toNat + 1) l).toNat).isNaN).length
    let (h, c) := poolFree pool
    if c < m then
      .trap { cls := .poolx, va := some t.pool, info := BitVec.ofNat 64 (m + 2 ^ 32 * c), lanes := lanesMask left }
        (e.progress k e.s)
    else
      let reserve : Except RangeFault (List Nat × State) :=
        match e.freeList t m h e.s with
        | .error f => .error f
        | .ok (ns, rest, s) => match e.commitStep [freeWrite t rest (c - m)] s with | .error f => .error f | .ok s => .ok (ns, s)
      match reserve with
      | .error f => e.endSteps lanes (some (k, f)) e.s
      | .ok (ns, s) =>
        match e.finsSteps v.toNat t left k ns s with
        | (none, _, s) => e.endSteps lanes none s
        | (r, unused, s) =>
          -- the nodes not used go back before the trap (R403)
          e.endSteps lanes r (e.returnNodes t unused.reverse s)) s

/-- The group no longer owns lines for an FRES that waited. -/
def Env.disown (e : Env) : Env :=
  if e.g.outs = [] then e else e.at (e.s.updHoist e.h.src fun h => h.updGroup e.g.id fun g => { g with outs := [] })

/-- FRES (R401): it starts once no engine owns a line of its outputs, and owns them from then on. -/
def execFres (v : BitVec 8) (o n : BitVec 4) (s : State) : Host.Outcome State Fault Refusal :=
  runWord (.fres v o n) (fun e =>
    let aO := e.h.areg o.toNat
    let e := e.disown
    e.layered v.toNat (e.h.areg n.toNat) (some aO) fun e t _ =>
      let lanes := e.h.activeLanes e.g.id
      let out (l : Nat) : VAddr :=
        let (x, y) := e.pixel v.toNat l
        aO.address (aO.position (8 * (y * t.width + x) : Nat) 0)
      let outs := lanes.map out
      e.inOrder (outs.map fun a => ((a.toNat : Int), (a.toNat : Int) + 8)) fun e =>
        let k := min lanes.length e.firstStep
        let runs := (outs.drop k).filterMap fun a => (e.s.physical (coreOf e.h.src) e.c a).map fun pa => (pa, 8)
        if e.s.owned (e.who .store) runs then .wait .retry e.s
        else
          let (r, s) := runSteps (fun l s =>
            let (x, y) := e.pixel v.toNat l
            e.fresStep t (out l) aO.rights x y
              (natLe 4 (e.h.vword (v.toNat + 1) l).toNat ++ natLe 4 (e.h.vword (v.toNat + 2) l).toNat) s) (lanes.drop k) k e.s
          e.endSteps lanes r s outs) s

/-- FCLR (R402). -/
def execFclr (v : BitVec 8) (n : BitVec 4) (s : State) : Host.Outcome State Fault Refusal :=
  runWord (.fclr v n) (fun e => e.layered v.toNat (e.h.areg n.toNat) none fun e t _ =>
    let lanes := e.h.activeLanes e.g.id
    let k := min lanes.length e.firstStep
    let (r, s) := runSteps (fun l s =>
      let (x, y) := e.pixel v.toNat l
      e.fclrStep t x y s) (lanes.drop k) k e.s
    e.endSteps lanes r s) s

/-! ### FCFG -/

/-- Writes at virtual addresses, each with its window's rights: every range is translated before any is written (R396). -/
def Env.vputAll (e : Env) (ws : List (Rights × VAddr × List Byte)) (s : State) : Res :=
  match ws.findSome? fun w => match e.vput .store w.1 w.2.1 w.2.2 s with | .error f => some f | .ok _ => none with
  | some f => e.structFault f 0 s
  | none =>
    .done (ws.foldl (fun s w =>
      match e.vput .store w.1 w.2.1 w.2.2 s with
      | .ok s => s.updHoist e.h.src fun h => h.foldItem e.b.replicated w.2.1 0 0 w.2.2
      | .error _ => s) s)

/-- Writes within the write buffer of a replicated hoist (21_reliability.md R365). -/
def Env.configure (e : Env) (ws : List (Rights × VAddr × List Byte)) : Res :=
  let n := ws.foldl (fun n w => n + w.2.2.length) 0
  if e.b.replicated && decide (65536 < n) then e.raise .illop
  else e.withRoom n fun e => e.vputAll ws e.s

/-- A descriptor's 64 bytes as FCFG reads them: only its translation is checked yet (R396); the load waits for a hold and for an engine
that owns the line, or meets SCOPE (11_ordering.md R215, R219). -/
def Env.descriptor (e : Env) (va : VAddr) (k : Env → List Byte → Res) : Res :=
  match e.s.translate (coreOf e.h.src) e.c va.toNat with
  | (.stall, s) => .wait .retry s
  | (.xlate d f, s) =>
    if e.g.refused then .trap { cls := .xlate, detail := 2, va := some va } s
    else e.structFault ⟨.xlate, d, 0, va, f, false⟩ 0 s
  | (.ok pa leaf _ _, s) =>
    match s.outsideHold (e.who .load) (pa / 64) with
    | some hold => if hold.mode = 1 then .trap { cls := .scope, va := some va, key := leafKey leaf } s else .wait .retry s
    | none =>
      if s.owned (e.who .load) [(pa, 64)] then .wait .retry s
      else if s.poisoned pa 64 then .gone (s.loseHoist e.h.src 0xFF e.namedData)
      else k (e.at s) (s.loadRuns e.h.src e.b.id [(pa, 64)])

/-- The units of the ranges that a mode of FCFG reaches, translated in the order of the list. -/
def Env.rangeUnits (e : Env) (xs : List (PageUse × Rights × VAddr × Nat)) : List UnitReach × State :=
  xs.foldl (fun (y : List UnitReach × State) x =>
    let (us, s) := State.reachUnits (coreOf e.h.src) e.c x.1 x.2.1 false (unitsOf x.2.2.2) x.2.2.1 x.2.2.2 y.2
    (y.1 ++ us, s)) ([], e.s)

/-- The fault of the ranges that a mode of FCFG reaches: every translation, in the order of the list, before any page check
(R396); then what the mode does.  A translation that the host refused raises its XLATE at the first unit that cannot be translated,
or at the first of all (19_faults.md R348; log 39). -/
def Env.ranges (e : Env) (xs : List (PageUse × Rights × VAddr × Nat)) (k : Env → Res) : Res :=
  let (us, s) := e.rangeUnits xs
  if e.g.refused then
    .trap { cls := .xlate, detail := 2, va := ((us.find? (·.reach.meets .xlate)).orElse fun _ => us.head?).map (·.va) } s
  else match unitsFault us with
  | some f => e.structFault f 0 s
  | none => k (e.at s)

/-- The free-list links of page p's nodes, ahead of the old head (R396). -/
def pageLinks (p old : Nat) : List Byte :=
  let first := if p = 0 then 1 else 0
  (List.range 256).flatMap fun i =>
    natLe 12 0 ++ natLe 1 0 ++ natLe 3 (if i < first then 0 else if i = 255 then old else 256 * p + i + 1)

/-- FCFG (R396); .pool writes its whole descriptor, reserved bytes as zero (00_scope.md R5), and reads nothing. -/
def execFcfg (m : BitVec 8) (second first : BitVec 4) (s : State) : Host.Outcome State Fault Refusal :=
  runWord (.fcfg m second first) (fun e =>
    let a := e.h.areg first.toNat
    let b := e.h.areg second.toNat
    let plain (x : AReg) : Bool := x.has permR && x.has permW && !x.has permSCR
    let here (x : AReg) : VAddr := x.address (x.position 0 0)
    let room := b.extent.toNat - b.cursor.toNat
    let r := a.rights
    let own : PageUse × Rights × VAddr × Nat := (.store, r, here a, 64)
    if !plain a then e.windowPerm a (a.position 0 0)
    else if m != 2 && !plain b then e.windowPerm b (b.position 0 0)
    else if !a.accessOk e.b.segSize 256 64 (a.position 0 0) ||
        (m == 0 && (here b).toNat % 256 != 0) ||
        (m == 1 && ((here b).toNat % 4096 != 0 || decide (room < 4096))) then e.raise .bound
    else e.inOrder [] fun e => (if m = 0 then fun k => k e [] else e.descriptor (here a)) fun e desc =>
      match m.toNat with
      | 0 =>
        let maxp := min 65536 (room / 8)
        e.ranges [own, (.store, b.rights, here b, 8 * maxp)] fun e =>
          e.configure [(r, here a, natLe 8 ((here b).toNat / 256) ++ natLe 4 0 ++ natLe 4 maxp ++ natLe 4 0 ++ natLe 4 0 ++
            natLe 39 0 ++ [0x80#8])]
      | 1 =>
        let npages := leNat (segment desc 8 4)
        let entry := field8 desc 0 + BitVec.ofNat 72 (8 * npages)
        e.ranges [own, (.store, r, entry, 8), (.store, b.rights, here b, 4096)] fun e =>
          if !descValid desc || decide (leNat (segment desc 12 4) ≤ npages) then e.raise .illop
          else
            let (h, c) := poolFree desc
            let first := if npages = 0 then 1 else 0
            e.configure [(r, entry, natLe 8 ((here b).toNat / 4096)), (b.rights, here b, pageLinks npages h),
              (r, here a + 8, natLe 4 (npages + 1)),
              (r, here a + 16, natLe 4 (256 * npages + first) ++ natLe 4 (c + 256 - first))]
      | _ =>
        let w := leNat (segment desc 8 2)
        let hgt := leNat (segment desc 10 2)
        let pool := field8 desc 16
        e.ranges [own, (.store, r, field8 desc 0, 4 * w * hgt), (.load, r, pool, 64)] fun e => e.descriptor pool fun e pool =>
          if descValid desc || decide (nodeByte desc 12 % 16 < 2) || decide (w = 0) || decide (16384 < w) ||
              decide (hgt = 0) || decide (16384 < hgt) || decide (64 ≤ nodeByte desc 12) || !zeroBytes desc 13 3 ||
              !zeroBytes desc 24 39 || nodeByte desc 63 % 128 != 0 || !descValid pool then e.raise .illop
          else e.configure [(r, field8 desc 0, natLe (4 * w * hgt) 0), (r, here a + 63, [0x80#8])]) s

end Sys2Proof.Machine
end

