-- ==== Sys2Proof/Machine/Queues.lean ====
section
/-!
DEFINITION. QPUSH, QPOP and QCFG (09_memory.md R203–R207).
-/

namespace Sys2Proof.Machine

/-- What QPUSH and QPOP have checked: the queue, where it lies, and the address of its header in memory. -/
structure QueueUse where
  q : QueueWord
  place : QueuePlace
  header : VAddr
  pa : Option Nat
  deriving Repr

/-- A trap of a queue's ring or header, or what a poisoned sector does (R207, 21_reliability.md R358). -/
def Env.queueFault (e : Env) (f : RangeFault) (kind : Nat) (s : State) : Res :=
  if f.detail = poisonDetail then .gone (s.loseHoist e.h.src 0xFF e.namedData) else e.rangeRes f kind s

/-- The parts of a queue that an instruction reaches: `wants` gives it HEAD and TAIL. -/
def State.queueParts (s : State) (p : QueuePlace) (wants : Nat → Nat → List (Nat × Nat)) :
    Except RangeFault (List (Nat × Nat)) × State :=
  match s.queueEnds p with
  | (.ok (head, tail), s) => (.ok (wants head tail), s)
  | (.error f, s) => (.error f, s)

/-- Every part of a queue in memory that an instruction reaches, translated and checked (R207). -/
def Env.queueReached (e : Env) (place : QueuePlace) (use : PageUse) (wants : Nat → Nat → List (Nat × Nat)) :
    Except RangeFault Runs × State :=
  match e.s.queueParts place wants with
  | (.error f, s) => (.error f, s)
  | (.ok parts, s) => s.queueReach place use parts

/-- The checks of a queue instruction (R203, R205–R207): `wants` tells the parts that it reaches. -/
def Env.queueChecks (e : Env) (a : AReg) (w : BitVec 64) (regs : QueueWord → Bool) (need : Bool → List Nat)
    (use : PageUse) (wants : QueueWord → Nat → Nat → List (Nat × Nat)) (k : Env → QueueUse → Res) : Res :=
  let q := queueWord w
  let pos := a.position q.off 0
  if !q.valid (a.has permSCR) || !regs q then e.raise .illop
  else if !(need (a.has permSCR)).all a.has then e.windowPerm a pos
  else if !a.accessOk e.b.segSize 64 q.area pos then e.raise .bound
  else e.inOrder (a.ranges pos q.area) fun e =>
    if a.has permSCR then k e ⟨q, .scratch e.b.id ((a.base.toNat : Int) + pos).toNat, a.address pos, none⟩
    else
      let place : QueuePlace := .memory (e.who use) e.c (a.address pos) a.rights
      match e.queueReached place use (wants q) with
      | (.error f, s) =>
        if e.g.refused then .trap { cls := .xlate, detail := 2, va := some f.va } e.s else e.queueFault f use.kind s
      | (.ok _, s) =>
        if e.g.refused then .trap { cls := .xlate, detail := 2, va := some (a.address pos) } e.s
        else k (e.at s) ⟨q, place, a.address pos, s.physical (coreOf e.h.src) e.c (a.address pos)⟩

/-- The lanes that a queue operation does not serve leave EXEC (R207). -/
def Hoist.unserve (h : Hoist) (lanes : List Nat) : Hoist :=
  h.setExec (maskOf (fun l => h.regs.exec.getLsbD l && !lanes.contains l) h.width)

/-- The words of an element in register order. -/
def elemWords (n : Nat) (x : List Byte) : List Word := (List.range n).map fun j => BitVec.ofNat 32 (leNat (segment x (4 * j) 4))

/-- The hoist after a QPUSH or QPOP that served the first k lanes, with the elements popped; a lane of `bad` takes none. -/
def Hoist.served (h : Hoist) (f : Nat) (lanes : List Nat) (k n : Nat) (elems : List (List Word)) (bad : List Nat := []) : Hoist :=
  (h.fillV f ((List.zip (lanes.take k) elems).filter fun x => !bad.contains x.1) n).unserve (lanes.drop k)

/-- A parking form that serves no lane waits: on a monitor of the header's line in memory, in place in the segment (R207). -/
def Env.queueWait (e : Env) (u : QueueUse) (s : State) : Res :=
  match u.pa with
  | some pa => e.monitor [⟨pa, u.header, 8, .changed, e.h.src, e.g.id, e.c.id, none, none⟩] s
  | none => .wait .retry s

/-- The lanes whose element in the segment holds an error: of the first k that are served (21_reliability.md R359). -/
def State.spoiledLanes (s : State) (p : QueuePlace) (q : QueueWord) (lanes : List Nat) (k : Nat) : List Nat :=
  match p, s.queueEnds p with
  | .scratch b base, (.ok (head, _), _) =>
    ((List.range k).filter fun j =>
      ((s.block? b).getD Block.none).spoiled (base + q.elemOff (head + j)) q.size).filterMap (lanes[·]?)
  | _, _ => []

/-- The operation of the hoist that performs it; `share` sends its result to the other replicas. -/
def Env.queueDo (e : Env) (u : QueueUse) (park : Bool) (push : Option (List (List Byte))) (lanes : List Nat) (f : Nat)
    (share : Bool) (ssig : BitVec 64) : Res :=
  let n := u.q.size / 4
  let finish (k : Nat) (elems : List (List Word)) (s : State) : Res :=
    if park && k == 0 then e.queueWait u s
    else
      let s := s.unregister e.h.src e.g.id
      let s := if share then e.forward (BitVec.ofNat 32 k :: elems.flatten) s else s
      let bad := if elems = [] then [] else e.s.spoiledLanes u.place u.q lanes k
      let s := s.updHoist e.h.src fun h => (h.served f lanes k n elems bad).setSsig ssig
      if bad = [] then .done s
      else
        let s := s.killLanes e.h.src (bad.map fun l => (l, u.header.toNat)) e.namedData
        if (e.at s).here then .done s else .gone s
  match push with
  | some xs =>
    match e.s.queuePush u.place u.q xs with
    | .ok (k, s) => finish k [] s
    | .error x => e.queueFault x 2 e.s
  | none =>
    match e.s.queuePop u.place u.q lanes.length with
    | .ok (xs, s) => finish xs.length (xs.map (elemWords n)) s
    | .error x => e.queueFault x 2 e.s

/-- The lists of n words out of one list. -/
def chunks (n : Nat) : Nat → List Word → List (List Word)
  | 0, _ => []
  | k + 1, ws => ws.take n :: chunks n k (ws.drop n)

/-- The operation in a replica that takes its result from the committer (21_reliability.md R366). -/
def Env.queueTake (e : Env) (u : QueueUse) (i : Instr) (lanes : List Nat) (f : Nat) (ssig : BitVec 64) : Res :=
  match e.received i with
  | none => .wait .retry e.s
  | some ws =>
    let k := (ws.headD 0).toNat
    let n := u.q.size / 4
    .done (e.s.updHoist e.h.src fun h =>
      ((h.served f lanes k n (chunks n (if ws.length ≤ 1 then 0 else k) ws.tail)).setSsig ssig).consume i)

/-- QPUSH and QPOP (R207, 21_reliability.md R364, R367). -/
def Env.queueOp (e : Env) (i : Instr) (f : Nat) (park : Bool) (a : AReg) (w : BitVec 64) (isPush : Bool) : Res :=
  e.queueChecks a w (fun q => decide (f + q.size / 4 ≤ e.vLimit))
    (fun scr => if scr then [permW, permR] else [permW, permR, permATOM]) .atomic
    (fun q head tail =>
      let n := (e.h.activeLanes e.g.id).length
      if isPush then q.parts tail (min n (q.depth - queueCount head tail)) else q.parts head (min n (queueCount head tail)))
    fun e u =>
    let lanes := e.h.activeLanes e.g.id
    let elems := lanes.map (e.h.vbytes f (u.q.size / 4) u.q.size)
    let push := if isPush then some elems else none
    if !e.b.replicated || u.pa.isNone then e.queueDo u park push lanes f false e.h.regs.ssig
    else
      let ssig := if isPush then elems.foldl (fun c x => ssigItem c u.header 5 0 x) e.h.regs.ssig else e.h.regs.ssig
      e.release ssig fun e leads =>
        if leads then (if e.mayForward then e.queueDo u park push lanes f true ssig else .wait .retry e.s)
        else e.queueTake u i lanes f ssig

/-- QPUSH (R207). -/
def execQpush (f : BitVec 8) (m n : BitVec 4) (b : BitVec 8) (s : State) : Host.Outcome State Fault Refusal :=
  runWord (.qpush f m n b) (fun e =>
    e.queueOp (.qpush f m n b) f.toNat (m == 1) (e.h.areg n.toNat) (e.h.spair b.toNat) true) s

/-- QPOP (R207). -/
def execQpop (f : BitVec 8) (m n : BitVec 4) (b : BitVec 8) (s : State) : Host.Outcome State Fault Refusal :=
  runWord (.qpop f m n b) (fun e =>
    e.queueOp (.qpop f m n b) f.toNat (m == 1) (e.h.areg n.toNat) (e.h.spair b.toNat) false) s

/-- QCFG (R205). -/
def execQcfg (a b : BitVec 8) (s : State) : Host.Outcome State Fault Refusal :=
  runWord (.qcfg a b) (fun e =>
    let r := e.h.areg a.toNat
    e.queueChecks r (e.h.spair b.toNat) (fun _ => true) (fun _ => [permW]) .store (fun _ _ _ => [(0, 64)]) fun e u =>
      e.withRoom (if u.pa.isNone then 0 else 64) fun e =>
        e.reachSpan r [permW] .store 64 64 (r.position u.q.off 0) fun s rs =>
          .done (e.writeSpan r (r.position u.q.off 0) rs (natLe 64 0) s)) s

end Sys2Proof.Machine
end

