-- ==== Sys2Proof/Machine/Trace.lean ====
section
/-!
DEFINITION. TRACE, HITRD, BEAM and GATE (23_rendering.md R374–R391).
-/

namespace Sys2Proof.Machine

/-- Whether a window is no BVH window: it lacks R or has SCR set (R375, R381). -/
def notBvh (a : AReg) : Bool := !a.has permR || a.has permSCR

/-- TRACE (R381). -/
def execTrace (d a b : BitVec 8) (s : State) : Host.Outcome State Fault Refusal :=
  runWord (.trace d a b) (fun e =>
    let c := (e.sval b).toNat
    let mode := bitsOf c 5 4
    let bvh := e.h.areg (bitsOf c 3 0)
    if bitsOf c 31 7 ≠ 0 ∨ 2 ≤ mode then e.raise .illop
    else if notBvh bvh then e.windowPerm bvh (bvh.position 0 0)
    else
      let rays := (e.h.activeLanes e.g.id).map fun l => (l, (List.range 8).map fun i => e.h.vword (a.toNat + i) l)
      .done (e.inFlight .x (.trace d.toNat mode (bitsOf c 6 6 == 1) bvh rays) e.s)) s

/-- HITRD (R384). -/
def execHitrd (d a b : BitVec 8) (s : State) : Host.Outcome State Fault Refusal :=
  runWord (.hitrd d a b) (fun e =>
    let c := (e.sval b).toNat
    let attr := bitsOf c 6 4
    let bvh := e.h.areg (bitsOf c 3 0)
    if bitsOf c 31 7 ≠ 0 ∨ 5 ≤ attr ∨ e.vLimit < d.toNat + attrCount attr then e.raise .illop
    else if notBvh bvh then e.windowPerm bvh (bvh.position 0 0)
    else
      let nodes := (e.h.activeLanes e.g.id).map fun l => (l, (e.h.vword a.toNat l).toNat)
      .done (e.inFlight .x (.hitrd d.toNat attr bvh nodes) e.s)) s

/-- Whether a beam descriptor's fields are legal (R386, R387). -/
def beamLegal (desc : List Byte) : Bool :=
  let lw := nodeByte desc 56 % 16
  let lh := nodeByte desc 56 / 16
  decide (nodeByte desc 57 ≤ 1) && zeroBytes desc 62 2 && decide (lw ≤ 4) && decide (lh ≤ 4) &&
    decide (leNat (segment desc 58 2) + 2 ^ lw ≤ 65536) && decide (leNat (segment desc 60 2) + 2 ^ lh ≤ 65536)

/-- Whether the coverage gate of a core for a context is closed (R390). -/
def State.gateClosed (s : State) (core ctx : Nat) : Bool := s.gates.contains (core, ctx)

/-- A hoist becomes a member of its core's gate (R390); its span, one of whose blocks is a pixel block now, is no longer to be saved
by a pre-emption (17_scheduling.md R329, R330). -/
def Env.joinGate (e : Env) : State :=
  let s := e.s.updHoist e.h.src fun h => { h with gate := true }
  { s with blocks := s.blocks.map fun b => if b.span == e.b.span then { b with leaving := false, runsOut := b.runsOut || b.leaving } else b }

/-- A BEAM whose descriptor has been read starts, or waits while its core's gate is closed to it (R387, R390). -/
def Env.startBeam (e : Env) (job : BeamJob) : Res :=
  if e.s.gateClosed (coreOf e.h.src) e.c.id && !e.h.gate then
    .wait .retry (e.s.updHoist e.h.src fun h => h.updGroup e.g.id fun g => { g with beam := some job })
  else .done (e.inFlight .x (.beam job) (if e.h.gate then e.s else e.joinGate))

/-- BEAM (R387): the descriptor is read once. -/
def execBeam (d a b : BitVec 8) (s : State) : Host.Outcome State Fault Refusal :=
  runWord (.beam d a b) (fun e => match e.g.beam with
  | some job => e.startBeam job
  | none =>
    let c := (e.sval b).toNat
    let bvh := e.h.areg (bitsOf c 3 0)
    let dw := e.h.areg (bitsOf c 7 4)
    let qw := e.h.areg (bitsOf c 11 8)
    let w := e.h.spair a.toNat
    let q := queueWord w
    let dpos := dw.position 0 0
    if bitsOf c 31 12 ≠ 0 then e.raise .illop
    else if notBvh bvh then e.windowPerm bvh (bvh.position 0 0)
    else if !dw.has permR || !dw.has permSCR then e.windowPerm dw dpos
    else if !qw.has permR || !qw.has permW || !qw.has permSCR then e.windowPerm qw (qw.position q.off 0)
    else if !q.valid true || q.esz != 3 then e.raise .illop
    else if !dw.accessOk e.b.segSize 64 64 dpos || !qw.accessOk e.b.segSize 64 q.area (qw.position q.off 0) then
      e.raise .bound
    else e.inOrder [] fun e =>
      match e.spanBytes dw 64 dpos none e.s with
      | none => .gone (e.s.loseHoist e.h.src 0xFF e.namedData)
      | some desc =>
        if !beamLegal desc then e.raise .illop else e.startBeam ⟨desc, bvh, qw, w, d.toNat, none, 0, 0⟩) s

/-- The member hoists of a core's gate for a context (R390). -/
def State.members (s : State) (core ctx : Nat) : Nat :=
  (s.hoists.filter fun h => h.gate && coreOf h.src == core && (s.blockOf h).ctx == ctx).length

/-- Opens or closes a gate. -/
def State.setGate (s : State) (core ctx : Nat) (closed : Bool) : State :=
  { s with gates := (if closed then [(core, ctx)] else []) ++ s.gates.filter (· != (core, ctx)) }

/-- GATE (R391). -/
def execGate (d m : BitVec 8) (s : State) : Host.Outcome State Fault Refusal :=
  runWord (.gate d m) (fun e =>
    let core := coreOf e.h.src
    let s := match m.toNat with
      | 0 => e.s
      | 1 => e.s.setGate core e.h.ctxsel true
      | _ => e.s.setGate core e.h.ctxsel false
    .done (s.updHoist e.h.src fun h => h.writeS d (BitVec.ofNat 32 (s.members core e.h.ctxsel)))) s

end Sys2Proof.Machine
end

