-- ==== Sys2Proof/Machine/Dispatch.lean ====
section
/-!
DEFINITION. One arm per instruction: which meaning runs it.
-/

namespace Sys2Proof.Machine

def exec (i : Instr) (s : State) : Host.Outcome State Fault Refusal :=
  match i with
  | .nop => Sys2Proof.Machine.execNop s
  | .hintS a b c d e f g h => Sys2Proof.Machine.execHintS a b c d e f g h s
  | .hintH a b c d e f g h j k m n => Sys2Proof.Machine.execHintH a b c d e f g h j k m n s
  | .ext x => Sys2Proof.Machine.execExt x s
  | .bra o => Sys2Proof.Machine.execBra o s
  | .brz st o => Sys2Proof.Machine.execBrz st o s
  | .brnz st o => Sys2Proof.Machine.execBrnz st o s
  | .brany p o => Sys2Proof.Machine.execBrany p o s
  | .brall p o => Sys2Proof.Machine.execBrall p o s
  | .call o => Sys2Proof.Machine.execCall o s
  | .calli a => Sys2Proof.Machine.execCalli a s
  | .jmpi a => Sys2Proof.Machine.execJmpi a s
  | .ret a => Sys2Proof.Machine.execRet a s
  | .pad k => Sys2Proof.Machine.execPad k s
  | .mark o => Sys2Proof.Machine.execMark o s
  | .join => Sys2Proof.Machine.execJoin s
  | .regang => Sys2Proof.Machine.execRegang s
  | .exit => Sys2Proof.Machine.execExit s
  | .trap k => Sys2Proof.Machine.execTrap k s
  | .yield => Sys2Proof.Machine.execYield s
  | .chk k => Sys2Proof.Machine.execChk k s
  | .isync => Sys2Proof.Machine.execIsync s
  | .waitc g st w x => Sys2Proof.Machine.execWaitc g st w x s
  | .mset m a => Sys2Proof.Machine.execMset m a s
  | .msave d => Sys2Proof.Machine.execMsave d s
  | .mrest a => Sys2Proof.Machine.execMrest a s
  | .mpop => Sys2Proof.Machine.execMpop s
  | .sadd d a b => Sys2Proof.Machine.execSadd d a b s
  | .ssub d a b => Sys2Proof.Machine.execSsub d a b s
  | .smul d a b => Sys2Proof.Machine.execSmul d a b s
  | .smulh d a b => Sys2Proof.Machine.execSmulh d a b s
  | .smad d a b => Sys2Proof.Machine.execSmad d a b s
  | .sand d a b => Sys2Proof.Machine.execSand d a b s
  | .sor d a b => Sys2Proof.Machine.execSor d a b s
  | .sxor d a b => Sys2Proof.Machine.execSxor d a b s
  | .sshl d a b => Sys2Proof.Machine.execSshl d a b s
  | .sshr d a b => Sys2Proof.Machine.execSshr d a b s
  | .ssra d a b => Sys2Proof.Machine.execSsra d a b s
  | .smin d a b => Sys2Proof.Machine.execSmin d a b s
  | .smax d a b => Sys2Proof.Machine.execSmax d a b s
  | .sminn d a b => Sys2Proof.Machine.execSminn d a b s
  | .smaxn d a b => Sys2Proof.Machine.execSmaxn d a b s
  | .saddi d a k => Sys2Proof.Machine.execSaddi d a k s
  | .smovi d k => Sys2Proof.Machine.execSmovi d k s
  | .smovhi d k => Sys2Proof.Machine.execSmovhi d k s
  | .scmp d a c => Sys2Proof.Machine.execScmp d a c s
  | .ssel d a b => Sys2Proof.Machine.execSsel d a b s
  | .spop d a => Sys2Proof.Machine.execSpop d a s
  | .sclz d a => Sys2Proof.Machine.execSclz d a s
  | .sbfe d a b => Sys2Proof.Machine.execSbfe d a b s
  | .smov d a => Sys2Proof.Machine.execSmov d a s
  | .aset d a st => Sys2Proof.Machine.execAset d a st s
  | .aget d a st => Sys2Proof.Machine.execAget d a st s
  | .ald d o n m => Sys2Proof.Machine.execAld d o n m s
  | .ast d o n m => Sys2Proof.Machine.execAst d o n m s
  | .aadv d a m => Sys2Proof.Machine.execAadv d a m s
  | .arestr d a b => Sys2Proof.Machine.execArestr d a b s
  | .amov d a => Sys2Proof.Machine.execAmov d a s
  | .vadd d a b => Sys2Proof.Machine.execVadd d a b s
  | .vsub d a b => Sys2Proof.Machine.execVsub d a b s
  | .vmul d a b => Sys2Proof.Machine.execVmul d a b s
  | .vmulh d a b => Sys2Proof.Machine.execVmulh d a b s
  | .vmulhn d a b => Sys2Proof.Machine.execVmulhn d a b s
  | .vmad d a b => Sys2Proof.Machine.execVmad d a b s
  | .vand d a b => Sys2Proof.Machine.execVand d a b s
  | .vor d a b => Sys2Proof.Machine.execVor d a b s
  | .vxor d a b => Sys2Proof.Machine.execVxor d a b s
  | .vshl d a b => Sys2Proof.Machine.execVshl d a b s
  | .vshr d a b => Sys2Proof.Machine.execVshr d a b s
  | .vsra d a b => Sys2Proof.Machine.execVsra d a b s
  | .vmin d a b => Sys2Proof.Machine.execVmin d a b s
  | .vmax d a b => Sys2Proof.Machine.execVmax d a b s
  | .vminn d a b => Sys2Proof.Machine.execVminn d a b s
  | .vmaxn d a b => Sys2Proof.Machine.execVmaxn d a b s
  | .vabs d a => Sys2Proof.Machine.execVabs d a s
  | .vpop d a => Sys2Proof.Machine.execVpop d a s
  | .vclz d a => Sys2Proof.Machine.execVclz d a s
  | .vbfe d a b => Sys2Proof.Machine.execVbfe d a b s
  | .vbfi d a b => Sys2Proof.Machine.execVbfi d a b s
  | .vaddc d a b => Sys2Proof.Machine.execVaddc d a b s
  | .vmov d a => Sys2Proof.Machine.execVmov d a s
  | .vmovi d k => Sys2Proof.Machine.execVmovi d k s
  | .vbcast d a => Sys2Proof.Machine.execVbcast d a s
  | .viota d a b => Sys2Proof.Machine.execViota d a b s
  | .vaddi d a k => Sys2Proof.Machine.execVaddi d a k s
  | .vshli d a st => Sys2Proof.Machine.execVshli d a st s
  | .vcmpEq d a b => Sys2Proof.Machine.execVcmpEq d a b s
  | .vcmpNe d a b => Sys2Proof.Machine.execVcmpNe d a b s
  | .vcmpLt d a b => Sys2Proof.Machine.execVcmpLt d a b s
  | .vcmpLe d a b => Sys2Proof.Machine.execVcmpLe d a b s
  | .vcmpGt d a b => Sys2Proof.Machine.execVcmpGt d a b s
  | .vcmpGe d a b => Sys2Proof.Machine.execVcmpGe d a b s
  | .vcmpLtn d a b => Sys2Proof.Machine.execVcmpLtn d a b s
  | .vcmpGen d a b => Sys2Proof.Machine.execVcmpGen d a b s
  | .vfcmpEq d a b => Sys2Proof.Machine.execVfcmpEq d a b s
  | .vfcmpNe d a b => Sys2Proof.Machine.execVfcmpNe d a b s
  | .vfcmpLt d a b => Sys2Proof.Machine.execVfcmpLt d a b s
  | .vfcmpLe d a b => Sys2Proof.Machine.execVfcmpLe d a b s
  | .vfcmpGt d a b => Sys2Proof.Machine.execVfcmpGt d a b s
  | .vfcmpGe d a b => Sys2Proof.Machine.execVfcmpGe d a b s
  | .vfcmpOrd d a b => Sys2Proof.Machine.execVfcmpOrd d a b s
  | .vfcmpUno d a b => Sys2Proof.Machine.execVfcmpUno d a b s
  | .vcmov d a b => Sys2Proof.Machine.execVcmov d a b s
  | .pand d a b => Sys2Proof.Machine.execPand d a b s
  | .por d a b => Sys2Proof.Machine.execPor d a b s
  | .pxor d a b => Sys2Proof.Machine.execPxor d a b s
  | .pnot d a => Sys2Proof.Machine.execPnot d a s
  | .pfroms d a q => Sys2Proof.Machine.execPfroms d a q s
  | .ptos d a q => Sys2Proof.Machine.execPtos d a q s
  | .vfadd d a b => Sys2Proof.Machine.execVfadd d a b s
  | .vfsub d a b => Sys2Proof.Machine.execVfsub d a b s
  | .vfmul d a b => Sys2Proof.Machine.execVfmul d a b s
  | .vfma d a b => Sys2Proof.Machine.execVfma d a b s
  | .vfmin d a b => Sys2Proof.Machine.execVfmin d a b s
  | .vfmax d a b => Sys2Proof.Machine.execVfmax d a b s
  | .vfabs d a => Sys2Proof.Machine.execVfabs d a s
  | .vfclass d a => Sys2Proof.Machine.execVfclass d a s
  | .vhadd d a b => Sys2Proof.Machine.execVhadd d a b s
  | .vhmul d a b => Sys2Proof.Machine.execVhmul d a b s
  | .vhfma d a b => Sys2Proof.Machine.execVhfma d a b s
  | .vbadd d a b => Sys2Proof.Machine.execVbadd d a b s
  | .vbmul d a b => Sys2Proof.Machine.execVbmul d a b s
  | .vbfma d a b => Sys2Proof.Machine.execVbfma d a b s
  | .vhdot d a b => Sys2Proof.Machine.execVhdot d a b s
  | .vbdot d a b => Sys2Proof.Machine.execVbdot d a b s
  | .vdadd d a b => Sys2Proof.Machine.execVdadd d a b s
  | .vdmul d a b => Sys2Proof.Machine.execVdmul d a b s
  | .vdfma d a b => Sys2Proof.Machine.execVdfma d a b s
  | .vdmin d a b => Sys2Proof.Machine.execVdmin d a b s
  | .vdmax d a b => Sys2Proof.Machine.execVdmax d a b s
  | .vcvt d a st t => Sys2Proof.Machine.execVcvt d a st t s
  | .vqnt d a b => Sys2Proof.Machine.execVqnt d a b s
  | .vdqnt d a b => Sys2Proof.Machine.execVdqnt d a b s
  | .vpack d a b => Sys2Proof.Machine.execVpack d a b s
  | .vunpk d a f k => Sys2Proof.Machine.execVunpk d a f k s
  | .vcbdec d a b => Sys2Proof.Machine.execVcbdec d a b s
  | .vf2i d a w t => Sys2Proof.Machine.execVf2i d a w t s
  | .vi2f d a t st => Sys2Proof.Machine.execVi2f d a t st s
  | .vrnd d a w m => Sys2Proof.Machine.execVrnd d a w m s
  | .vrcp d a => Sys2Proof.Machine.execVrcp d a s
  | .vrsq d a => Sys2Proof.Machine.execVrsq d a s
  | .vsqrt d a => Sys2Proof.Machine.execVsqrt d a s
  | .vexp2 d a => Sys2Proof.Machine.execVexp2 d a s
  | .vlog2 d a => Sys2Proof.Machine.execVlog2 d a s
  | .vsin d a => Sys2Proof.Machine.execVsin d a s
  | .vcos d a => Sys2Proof.Machine.execVcos d a s
  | .vtanh d a => Sys2Proof.Machine.execVtanh d a s
  | .vperm d a b => Sys2Proof.Machine.execVperm d a b s
  | .vshfl d a m r n => Sys2Proof.Machine.execVshfl d a m r n s
  | .vred d a o => Sys2Proof.Machine.execVred d a o s
  | .vscan d a o k r => Sys2Proof.Machine.execVscan d a o k r s
  | .vote d a m => Sys2Proof.Machine.execVote d a m s
  | .vballot d a q => Sys2Proof.Machine.execVballot d a q s
  | .vmatch d a q => Sys2Proof.Machine.execVmatch d a q s
  | .vregrp d x c b => Sys2Proof.Machine.execVregrp d x c b s
  | .vreord d a x c => Sys2Proof.Machine.execVreord d a x c s
  | .vbroad d a b => Sys2Proof.Machine.execVbroad d a b s
  | .vld d o n m => Sys2Proof.Machine.execVld d o n m s
  | .vst d o n m => Sys2Proof.Machine.execVst d o n m s
  | .vlds d o n m => Sys2Proof.Machine.execVlds d o n m s
  | .vsts d o n m => Sys2Proof.Machine.execVsts d o n m s
  | .sld d o n m => Sys2Proof.Machine.execSld d o n m s
  | .sst d o n m => Sys2Proof.Machine.execSst d o n m s
  | .pref o n m => Sys2Proof.Machine.execPref o n m s
  | .pin p o n m => Sys2Proof.Machine.execPin p o n m s
  | .unpin o n m => Sys2Proof.Machine.execUnpin o n m s
  | .cflush o n m => Sys2Proof.Machine.execCflush o n m s
  | .spill f c n => Sys2Proof.Machine.execSpill f c n s
  | .fill f c n => Sys2Proof.Machine.execFill f c n s
  | .cpy d st c q b => Sys2Proof.Machine.execCpy d st c q b s
  | .cpys d st a b => Sys2Proof.Machine.execCpys d st a b s
  | .batch => Sys2Proof.Machine.execBatch s
  | .waitb a => Sys2Proof.Machine.execWaitb a s
  | .bara d a b => Sys2Proof.Machine.execBara d a b s
  | .barw a => Sys2Proof.Machine.execBarw a s
  | .bcarr d a b => Sys2Proof.Machine.execBcarr d a b s
  | .bcwait a b => Sys2Proof.Machine.execBcwait a b s
  | .qpush f m n b => Sys2Proof.Machine.execQpush f m n b s
  | .qpop f m n b => Sys2Proof.Machine.execQpop f m n b s
  | .qcfg a b => Sys2Proof.Machine.execQcfg a b s
  | .acq => Sys2Proof.Machine.execAcq s
  | .atom st d q x o n m => Sys2Proof.Machine.execAtom st d q x o n m s
  | .red st d q x o n m => Sys2Proof.Machine.execRed st d q x o n m s
  | .acas st d q x o n m => Sys2Proof.Machine.execAcas st d q x o n m s
  | .satom st d q x o n m => Sys2Proof.Machine.execSatom st d q x o n m s
  | .mwait st d x o n z c => Sys2Proof.Machine.execMwait st d x o n z c s
  | .fence k st => Sys2Proof.Machine.execFence k st s
  | .strel st d x o n m => Sys2Proof.Machine.execStrel st d x o n m s
  | .ldacq st d x o n m => Sys2Proof.Machine.execLdacq st d x o n m s
  | .rela r a => Sys2Proof.Machine.execRela r a s
  | .tcfg a => Sys2Proof.Machine.execTcfg a s
  | .slcl d a => Sys2Proof.Machine.execSlcl d a s
  | .slrl a => Sys2Proof.Machine.execSlrl a s
  | .slld st n b => Sys2Proof.Machine.execSlld st n b s
  | .slz a => Sys2Proof.Machine.execSlz a s
  | .mxc t p f => Sys2Proof.Machine.execMxc t p f s
  | .mxp a => Sys2Proof.Machine.execMxp a s
  | .mxrd d a b => Sys2Proof.Machine.execMxrd d a b s
  | .mxwr d a b => Sys2Proof.Machine.execMxwr d a b s
  | .cbld n b => Sys2Proof.Machine.execCbld n b s
  | .slst st n b => Sys2Proof.Machine.execSlst st n b s
  | .trace d a b => Sys2Proof.Machine.execTrace d a b s
  | .beam d a b => Sys2Proof.Machine.execBeam d a b s
  | .hitrd d a b => Sys2Proof.Machine.execHitrd d a b s
  | .fins st t => Sys2Proof.Machine.execFins st t s
  | .fres st o p => Sys2Proof.Machine.execFres st o p s
  | .fclr st t => Sys2Proof.Machine.execFclr st t s
  | .fcfg m st p => Sys2Proof.Machine.execFcfg m st p s
  | .gate d m => Sys2Proof.Machine.execGate d m s
  | .srd d r => Sys2Proof.Machine.execSrd d r s
  | .swr a r => Sys2Proof.Machine.execSwr a r s
  | .tret => Sys2Proof.Machine.execTret s
  | .ctxsv d n b => Sys2Proof.Machine.execCtxsv d n b s
  | .ctxrs d n => Sys2Proof.Machine.execCtxrs d n s
  | .ckpt => Sys2Proof.Machine.execCkpt s
  | .tlbi x m a b => Sys2Proof.Machine.execTlbi x m a b s
  | .hostsig a b => Sys2Proof.Machine.execHostsig a b s
  | .emul o x => Sys2Proof.Machine.execEmul o x s
  | .reservedOpcode op payload => Sys2Proof.Machine.execReservedOpcode op payload s
  | .joinDecrement ctx frame => Sys2Proof.Machine.execJoinDecrement ctx frame s
  | .hoistRetire src => Sys2Proof.Machine.execHoistRetire src s
  | .regangMerge src => Sys2Proof.Machine.execRegangMerge src s
  | .vregrpComplete src => Sys2Proof.Machine.execVregrpComplete src s
  | .loadDataReturn flight => Sys2Proof.Machine.execLoadDataReturn flight s
  | .writePerformed flight => Sys2Proof.Machine.execWritePerformed flight s
  | .copyComplete flight => Sys2Proof.Machine.execCopyComplete flight s
  | .slotRelease flight => Sys2Proof.Machine.execSlotRelease flight s
  | .slotFillComplete flight => Sys2Proof.Machine.execSlotFillComplete flight s
  | .passComplete flight => Sys2Proof.Machine.execPassComplete flight s
  | .slotStoreComplete flight => Sys2Proof.Machine.execSlotStoreComplete flight s
  | .blockKill flight => Sys2Proof.Machine.execBlockKill flight s
  | .traceComplete flight => Sys2Proof.Machine.execTraceComplete flight s
  | .beamComplete flight => Sys2Proof.Machine.execBeamComplete flight s
  | .hitrdComplete flight => Sys2Proof.Machine.execHitrdComplete flight s
  | .tileOrderOperation flight => Sys2Proof.Machine.execTileOrderOperation flight s
  | .translationRequest token => Sys2Proof.Machine.execTranslationRequest token s
  | .gridReady ctx entry => Sys2Proof.Machine.execGridReady ctx entry s
  | .gridEnd ctx entry => Sys2Proof.Machine.execGridEnd ctx entry s
  | .releaseVote src => Sys2Proof.Machine.execReleaseVote src s
  | .ensignEvaluation core => Sys2Proof.Machine.execEnsignEvaluation core s
  | .preemptSave block => Sys2Proof.Machine.execPreemptSave block s
  | .quiesce ctx => Sys2Proof.Machine.execQuiesce ctx s
  | .commitMarker ctx => Sys2Proof.Machine.execCommitMarker ctx s
  | .blockPark block => Sys2Proof.Machine.execBlockPark block s
  | .copyFail flight => Sys2Proof.Machine.execCopyFail flight s
  | .passGrant cluster => Sys2Proof.Machine.execPassGrant cluster s
  | .fragmentPush flight => Sys2Proof.Machine.execFragmentPush flight s
  | .atomicServiceRequest cluster => Sys2Proof.Machine.execAtomicServiceRequest cluster s
  | .lineMigrate line slice => Sys2Proof.Machine.execLineMigrate line slice s
  | .copyByteArrival flight element => Sys2Proof.Machine.execCopyByteArrival flight element s
  | .hostLineReread line => Sys2Proof.Machine.execHostLineReread line s
  | .codebookReload block => Sys2Proof.Machine.execCodebookReload block s
  | .coremaskCommit ctx mask => Sys2Proof.Machine.execCoremaskCommit ctx mask s
  | .hoistLost src => Sys2Proof.Machine.execHoistLost src s
  | .admissionHold core => Sys2Proof.Machine.execAdmissionHold core s
  | .lateArrival src => Sys2Proof.Machine.execLateArrival src s
  | .pseudoChannelFailing channel => Sys2Proof.Machine.execPseudoChannelFailing channel s
  | .interleaveRebuild channel => Sys2Proof.Machine.execInterleaveRebuild channel s
  | .pushDmwr slot data => Sys2Proof.Machine.execPushDmwr slot data s
  | .pushPosted slot data => Sys2Proof.Machine.execPushPosted slot data s
  | .activate ctx => Sys2Proof.Machine.execActivate ctx s
  | .refresh ctx => Sys2Proof.Machine.execRefresh ctx s
  | .destroy ctx => Sys2Proof.Machine.execDestroy ctx s
  | .resolveRetry ctx token => Sys2Proof.Machine.execResolveRetry ctx token s
  | .resolveRefuse ctx token => Sys2Proof.Machine.execResolveRefuse ctx token s
  | .expansionCommand data posted => Sys2Proof.Machine.execExpansionCommand data posted s
  | .expansionDone => Sys2Proof.Machine.execExpansionDone s
  | .enable value => Sys2Proof.Machine.execEnable value s
  | .registerWrite offset data => Sys2Proof.Machine.execRegisterWrite offset data s
  | .hostAccess pa write data => Sys2Proof.Machine.execHostAccess pa write data s
  | .hostSnoop line => Sys2Proof.Machine.execHostSnoop line s
  | .ckptGo ctx => Sys2Proof.Machine.execCkptGo ctx s
  | .perstDeassert => Sys2Proof.Machine.execPerstDeassert s
  | .configSpaceReady => Sys2Proof.Machine.execConfigSpaceReady s
  | .bar0Ready => Sys2Proof.Machine.execBar0Ready s
  | .functionLevelReset => Sys2Proof.Machine.execFunctionLevelReset s
  | .hotReset => Sys2Proof.Machine.execHotReset s
  | .upstreamLinkDown => Sys2Proof.Machine.execUpstreamLinkDown s
  | .d3hotEntry => Sys2Proof.Machine.execD3hotEntry s
  | .d3coldEntry => Sys2Proof.Machine.execD3coldEntry s
  | .clusterClockGate cluster => Sys2Proof.Machine.execClusterClockGate cluster s
  | .clockStepDown causes => Sys2Proof.Machine.execClockStepDown causes s
  | .throttleEnd => Sys2Proof.Machine.execThrottleEnd s
  | .thermtrip => Sys2Proof.Machine.execThermtrip s
  | .hello peer dockTable => Sys2Proof.Machine.execHello peer dockTable s
  | .timesync value latency => Sys2Proof.Machine.execTimesync value latency s
  | .migrate ctx => Sys2Proof.Machine.execMigrate ctx s
  | .migack ctx status => Sys2Proof.Machine.execMigack ctx status s
  | .returnCtx ctx => Sys2Proof.Machine.execReturnCtx ctx s
  | .retdone ctx generation => Sys2Proof.Machine.execRetdone ctx generation s
  | .homereq fromCompanion ctx page => Sys2Proof.Machine.execHomereq fromCompanion ctx page s
  | .homedone ctx page state => Sys2Proof.Machine.execHomedone ctx page state s
  | .ckmark ctx generation bank => Sys2Proof.Machine.execCkmark ctx generation bank s
  | .applied ctx generation => Sys2Proof.Machine.execApplied ctx generation s
  | .halyardReservedMessage code payload => Sys2Proof.Machine.execHalyardReservedMessage code payload s
  | .checkpointPeriod ctx => Sys2Proof.Machine.execCheckpointPeriod ctx s
  | .flitTimeout => Sys2Proof.Machine.execFlitTimeout s
  | .linkLoss => Sys2Proof.Machine.execLinkLoss s
  | .clockStepUp => Sys2Proof.Machine.execClockStepUp s

end Sys2Proof.Machine
end

