-- ==== Sys2Proof/Machine/Turns.lean ====
section
/-!
DEFINITION. What moves next (01_machine.md R17, 17_scheduling.md R324; log 4, log 7): the agenda's turns, and when it
names none, the groups that may start and everything that the manual lets happen by itself.
-/

namespace Sys2Proof.Machine

/-! ### One turn -/

/-- One word of a group, in the first clock that has a start for it (01_machine.md R13): fetched, decoded, executed; a word
that no instruction has raises ILLOP. -/
def stepWord (src group : Nat) (s : State) : Host.Outcome State Fault Refusal :=
  match issuer 0 { s.openClock src with cur := (src, group) } with
  | none => .next s
  | some e =>
    match e.fetch with
    | .other s => .next s
    | .word w s =>
      match decode w with
      | .ok i => exec i s
      | .error _ => runIllegal w s

/-- An event of the agenda; an instruction word is no event. -/
def stepEvent (i : Instr) (s : State) : Host.Outcome State Fault Refusal :=
  match encode i with
  | none => exec i s
  | some _ => .next s

/-- One turn. -/
def stepTurn (t : Turn) (s : State) : Host.Outcome State Fault Refusal :=
  match t with
  | .event i => stepEvent i s
  | .push slot data posted => if posted then execPushPosted slot data s else execPushDmwr slot data s
  | .homereq ctx page => execHomereq false ctx page s
  | .homedone ctx page state => execHomedone ctx page state s
  | .word src g => if s.mayTurn src g then stepWord src g s else .next s
  | .tick n => .next (s.rereadHost.advance n)
  | .upset u => .next (s.upset u)
  | .hostStore pa data => .next (s.hostStore pa data)
  | .resizeBar n => .next (s.resizeBar n)
  | .watch agent pa size cond => .next (s.watch agent pa size cond)
  | .relieve causes => .next (s.relieve causes)

/-! ### The agenda -/

/-- Whether a turn is the host's: a later one does not pass an earlier one that waits. -/
def Turn.fromHost : Turn → Bool
  | .event (.hostAccess _ _ _) => true
  | .event (.pushDmwr _ _) => true
  | .event (.pushPosted _ _) => true
  | .event (.registerWrite _ _) => true
  | .event (.enable _) => true
  | .event (.activate _) => true
  | .event (.refresh _) => true
  | .event (.destroy _) => true
  | .event (.resolveRetry _ _) => true
  | .event (.resolveRefuse _ _) => true
  | .event (.expansionCommand _ _) => true
  | .push _ _ _ => true
  | _ => false

/-- Whether a turn would leave nothing but itself on the agenda: it waits for a page that it has asked for. -/
def State.stalls (s : State) (t : Turn) : Bool :=
  match stepTurn t { s with agenda := [] } with
  | .next s' => decide (s'.agenda = [t]) && decide (s' = { s with agenda := [t] })
  | _ => false

/-- Whether a turn waits: for a line that a block or span holds, or for a page (11_ordering.md R219, 25_docking.md R411). -/
def State.turnWaits (s : State) : Turn → Bool
  | .event i => s.hostWaits i || s.stalls (.event i)
  | .push slot data posted => s.stalls (.push slot data posted)
  | .homereq ctx page => s.stalls (.homereq ctx page)
  | .homedone ctx page state => s.stalls (.homedone ctx page state)
  | _ => false

/-- The first turn of an agenda that does not wait, and the others; `behind` once a turn of the host waits. -/
def State.takeTurn (s : State) : Bool → List Turn → Option (Turn × List Turn)
  | _, [] => none
  | behind, t :: ts =>
    if s.turnWaits t || (behind && t.fromHost) then (s.takeTurn (behind || t.fromHost) ts).map fun x => (x.1, t :: x.2)
    else some (t, ts)

/-! ### What happens by itself -/

/-- What may happen by itself. -/
inductive Due where
  | turn (t : Turn)
  | passGrant (cluster : Nat)
  | reread (line : Nat)
  | lateArrival (src : Nat)
  | admissionHold (core : Nat)
  | rebuild (channel : Nat)
  | release (ctx : Nat)
  | apply (ctx : Nat)
  | recover (ctx : Nat)
  | expansionDone
  | throttleEnd
  deriving DecidableEq, Repr

/-- What is due, done. -/
def stepDue (d : Due) (s : State) : Host.Outcome State Fault Refusal :=
  match d with
  | .turn t => stepTurn t s
  | .passGrant c => execPassGrant c s
  | .reread n => execHostLineReread n s
  | .lateArrival n => execLateArrival n s
  | .admissionHold c => execAdmissionHold c s
  | .rebuild c => execInterleaveRebuild c s
  | .release c => .next (s.releaseCtx c)
  | .apply c => .next (s.applyFound c)
  | .recover c => .next (s.recoverStep c)
  | .expansionDone => execExpansionDone s
  | .throttleEnd => execThrottleEnd s

/-- How a group stands before its next word: it starts in this clock, once clocks have passed, or not yet. -/
inductive Readiness where
  | now
  | later
  | held
  deriving DecidableEq, Repr

/-- Whether a group is ready (R17): what its next word would do tells. -/
def State.readiness (s : State) (x : Hoist × Group) : Readiness :=
  match stepWord x.1.src x.2.id s with
  | .next t =>
    match (t.hoist? x.1.src).bind (·.group? x.2.id) with
    | some g => if g.wait = .retry then .held else if t.clock = s.clock then .now else .later
    | none => if t.clock = s.clock then .now else .later
  | _ => .now

/-- A group put in its place by source number; the groups of one hoist stand in the order of the pick. -/
def insertSource (x : Hoist × Group) : List (Hoist × Group) → List (Hoist × Group)
  | [] => [x]
  | y :: ys => if x.1.src < y.1.src ∨ x.1.src = y.1.src ∧ pickBefore x y = true then x :: y :: ys else y :: insertSource x ys

/-- The groups that may start, by source number: those that start in one clock do so in this order (15_cube.md R278, R298). -/
def State.bySource (s : State) : List (Hoist × Group) := (s.startable fun _ => true).foldr insertSource []

/-- Whether a group of the same partition comes before another in the pick (R17, 05_control.md R112). -/
def pickedFirst (y x : Hoist × Group) : Bool :=
  y.1.src / 16 == x.1.src / 16 && (yieldsTo x y || (!yieldsTo y x && pickBefore y x))

/-- How many hoists have a group in a list. -/
def hoistsIn (xs : List (Hoist × Group)) : Nat := (xs.map (·.1.src)).eraseDups.length

/-- Whether a ready group is picked in this clock: no ready group of its hoist comes before it, and its partition has a start left
after the ready groups that do (R13, R17). -/
def State.picks (s : State) (xs : List (Hoist × Group)) (x : Hoist × Group) : Bool :=
  let before := xs.filter fun y => pickedFirst y x
  let left := 4 - (s.issued.filter fun n => n / 16 == x.1.src / 16).length
  s.readiness x == .now &&
    (before.isEmpty ||
      ((before.filter (·.1.src == x.1.src)).all (s.readiness · != .now) &&
        (decide (hoistsIn before < left) || decide (hoistsIn (before.filter (s.readiness · == .now)) < left))))

/-- The group that starts next: the one of lowest source number among those picked in this clock. -/
def State.nextReady (s : State) (xs : List (Hoist × Group)) : Option (Hoist × Group) := xs.find? (s.picks xs)

/-- A group's next word as something due. -/
def wordOf (x : Hoist × Group) : Due := .turn (.word x.1.src x.2.id)

/-- The held group that has waited longest for another look, unless every one has looked in this clock. -/
def State.nextLook (s : State) (xs : List (Hoist × Group)) : Option Due :=
  match xs.filter fun x => decide (x.2.tried < s.clock) || x.2.wait != .retry with
  | [] => none
  | y :: ys => some (wordOf (ys.foldl (fun a b => if b.2.tried < a.2.tried then b else a) y))

/-- A turn that is due, when something is. -/
def dueFor {α : Type} (x : Option α) (f : α → Due) : List Due :=
  match x with
  | some a => [f a]
  | none => []

/-- The next core whose Ensign evaluates: it lies in some context's core mask, or keeps elements to push (R324, R327). -/
def State.nextEvaluation (s : State) : Option Nat :=
  (List.range s.die.cores).find? fun k => decide (s.sweep ≤ k) && (s.ctxs.any (s.admits k) || s.pushes.any (·.core == k) ||
    (!s.nodes.isEmpty && (s.nodesOf k).any fun n => s.nodes.any (·.1 == n)))

/-- A core whose first candidate has waited for 1 ms (R324). -/
def State.nextHold (s : State) : Option Nat :=
  (s.candidates.find? fun x => !x.holding && decide (x.since + 1200000 ≤ s.time.toNat)).map (·.core)

/-- A cluster that can grant a pass (15_cube.md R301). -/
def State.grantable (s : State) : Option Nat :=
  (((s.flights.filter fun f => f.ungranted.isSome).map fun f => clusterOf f.src).eraseDups).find? fun c => (s.nextGrant c).isSome

/-- A piece of work that can complete now; a pass once it is granted. -/
def State.ripe (s : State) : Option Flight :=
  s.flights.find? fun f => f.ungranted.isNone && s.enabled f && s.progresses f

/-- Everything but words that is due, in the order in which it is looked at. -/
def State.dues (s : State) : List Due :=
  dueFor s.grantable .passGrant ++
  dueFor s.ripe (fun f => .turn (.event f.event)) ++
  dueFor s.nextReread .reread ++
  dueFor s.nextRegang (fun n => .turn (.event (.regangMerge n))) ++
  dueFor (s.hoists.find? s.regroupReady) (fun h => .turn (.event (.vregrpComplete h.src))) ++
  dueFor s.nextVote (fun n => .turn (.event (.releaseVote n))) ++
  dueFor s.nextLate .lateArrival ++
  s.retirable.map (fun n => .turn (.event (.hoistRetire n))) ++
  s.savable.map (fun n => .turn (.event (.preemptSave n))) ++
  dueFor s.nextKill (fun n => .turn (.event (.blockKill n))) ++
  s.movable.map (fun n => .turn (.event (.translationRequest n))) ++
  dueFor s.nextQuiesce (fun n => .turn (.event (.quiesce n))) ++
  dueFor s.nextCommit (fun n => .turn (.event (.commitMarker n))) ++
  dueFor s.nextRelease .release ++
  dueFor s.nextApply .apply ++
  dueFor s.nextRecovery .recover ++
  dueFor s.nextEnd (fun x => .turn (.event (.gridEnd x.1 x.2))) ++
  dueFor s.nextRebuild .rebuild ++
  dueFor s.nextHold .admissionHold ++
  dueFor s.host.expq.head? (fun _ => .expansionDone) ++
  (if s.throttleOver then [.throttleEnd] else []) ++
  dueFor s.nextEvaluation (fun n => .turn (.event (.ensignEvaluation n)))

/-- Whether doing what is due changes the state. -/
def State.changes (s : State) (d : Due) : Bool :=
  match stepDue d s with
  | .next t => decide (t ≠ s)
  | _ => true

/-- Time that passes while nothing can move: one clock while a group yields, else 10 µs. -/
def State.pause (s : State) : Nat :=
  if s.hoists.any fun h => h.regs.groups.any fun g => match g.wait with | .yielding _ => true | _ => false then 1
  else 10 * max 1 s.power.clockMHz

/-- A list from its k-th place on, then what stands before it. -/
def turned {α : Type} (k : Nat) (xs : List α) : List α := xs.drop (k % xs.length) ++ xs.take (k % xs.length)

/-- What moves when the agenda names nothing (log 7): the ready group that is picked in this clock (R17); else what else is
due; else a clock, while a group needs nothing but time; else a held group that looks again; else time.  In one choice of
sixteen what else is due comes before words, looked at from another place of the list each time, and in one of sixteen a
held group comes first, so that none waits for ever. -/
def State.nextDue (s : State) : Due :=
  let groups := s.bySource
  let look := s.nextLook (groups.filter fun x => s.readiness x == .held)
  let first := match s.turns % 16 with
    | 0 => (turned (s.turns / 16) s.dues).find? s.changes
    | 8 => look
    | _ => none
  match first.orElse fun _ => (s.nextReady groups).map wordOf with
  | some d => d
  | none =>
    match s.dues.find? s.changes with
    | some d => d
    | none =>
      if groups.any fun x => s.readiness x == .later then .turn (.tick 1) else look.getD (.turn (.tick s.pause))

end Sys2Proof.Machine
end

