-- ==== Sys2Proof/Machine/Step.lean ====
section
/-!
DEFINITION. One step: what moves next (log 4), a word fetched, decoded and executed, an event, or time; and the word that
the next step fetches.
-/

namespace Sys2Proof.Machine

/-- One step: the second word of an EXT pair (03_encoding.md R65), else the agenda's turn, else what moves by itself. -/
def step (s : State) : Host.Outcome State Fault Refusal :=
  match s.midPair with
  | some (src, g) => stepWord src g s
  | none =>
    match s.takeTurn false s.agenda with
    | some (t, rest) => stepTurn t { s with agenda := rest }
    | none => stepDue s.nextDue { s with turns := s.turns + 1 }

/-- The state with an instruction of the opcode table stored where the next step fetches its next instruction. -/
def State.withFetchWord (s : State) (_nbits w : Nat) : State := s.placeWord (BitVec.ofNat 32 w)

end Sys2Proof.Machine
end

