-- ==== Sys2Proof/Safety.lean ====
section
/-!
DEFINITION. The words in which claims are made: a word that starts, how it ends, what a state keeps, and what counts as
a sound state.
-/

namespace Sys2Proof.Claims

open Sys2Proof.Machine

/-! ### How an instruction ends -/

/-- The instruction answers the next state `t`. -/
def Answers (i : Instr) (s t : State) : Prop := exec i s = .next t

/-- The issuing group finds the word `i` in `e0`: the hoist, group, block and context that State.cur names. -/
def Issues (i : Instr) (s : State) (e0 : Env) : Prop := issuer ((encode i).getD 0) s = some e0

/-- The word `i` of the issuing group has made its checks and its waits (03_encoding.md R68, R72, R80) and executes in
`e`; `old` lists the registers that a TRUST word may read either way, none under INTERLOCK and CHECK. -/
def Starts (i : Instr) (s : State) (e : Env) (old : List Saved) : Prop :=
  ∃ e0, Issues i s e0 ∧ e0.issue i = .ready e old

/-- Nothing that the word `i` reads holds an error, for one of its lanes or for the whole hoist, and the host has refused no translation of it
(21_reliability.md R359, 19_faults.md R348). -/
def Unhurt (i : Instr) (e : Env) : Prop := e.struck i = false ∧ e.hurt i = [] ∧ e.g.refused = false

/-- The word `i` starts in `e` and its sources are read in `r`, unhurt, and R446 does not leave it without an effect. -/
structure Begins (i : Instr) (s : State) (e r : Env) (old : List Saved) : Prop where
  starts : Starts i s e old
  reads : r = e.mixed i old
  live : r.idle i = false
  unhurt : Unhurt i e

/-- The word completes with the effect `u` and its group goes on at the next word. -/
def Completes (i : Instr) (s : State) (e : Env) (old : List Saved) (u : State) : Prop :=
  Answers i s ((e.asRead old).complete i false (e.unmix i old u))

/-- The word completes with the effect `u`, which has set the program counters itself. -/
def Jumps (i : Instr) (s : State) (e : Env) (old : List Saved) (u : State) : Prop :=
  Answers i s ((e.asRead old).complete i true (e.unmix i old u))

/-- The word raises the precise trap `x` with the state `u`. -/
def Raises (i : Instr) (s : State) (e : Env) (old : List Saved) (x : Trap) (u : State) : Prop :=
  Answers i s ((e.at (e.unmix i old u)).takeTrap x e.h (e.readsOf i))

/-- The word stays at its place and executes afresh when the wait `w` ends. -/
def Stays (i : Instr) (s : State) (e : Env) (old : List Saved) (w : Wait) (u : State) : Prop :=
  Answers i s (e.stay w (e.unmix i old u))

/-- A group that nothing holds back at this word: the word is legal, no coverage counts, no work of the hoist is in
flight, no fixed-latency write is outstanding, no counter is full, no FENCE.ar of another group of the hoist keeps it from an access
(11_ordering.md R237), and the block is not replicated. -/
structure Quiet (i : Instr) (e : Env) : Prop where
  legal : e.refusal i = none
  uncovered : e.cover? i = none
  noFlight : ∀ f ∈ e.s.flights, f.src ≠ e.h.src
  settled : ∀ b ∈ e.h.busy, b.settles ≤ e.s.clock
  counters : e.h.counters.g < 63 ∧ e.h.counters.s < 63 ∧ e.h.counters.w < 63 ∧ e.h.counters.x < 63
  unfenced : ∀ x ∈ e.h.regs.groups, x.id ≠ e.g.id → x.wait = .fence → wordAccesses e.w = false
  single : e.b.replicated = false

/-! ### What a state keeps -/

/-- Every byte of memory reads as before, and the same sectors are poisoned. -/
def SameMemory (s t : State) : Prop := (∀ a, t.mem.read a = s.mem.read a) ∧ t.poison = s.poison

/-- Memory reads as before outside `n` bytes from `a` up. -/
def SameOutside (s t : State) (a n : Nat) : Prop := ∀ x, x < a ∨ a + n ≤ x → t.mem.read x = s.mem.read x

/-- Everything but hoists, time and the model's own counters is the same: memory, blocks with their scratchpads, tiles,
slots and barriers, contexts, translations, pins, holds, monitors, work in flight, host registers, power, link. -/
structure SameMachine (s t : State) : Prop where
  die : t.die = s.die
  mem : t.mem = s.mem
  poison : t.poison = s.poison
  coreTlb : t.coreTlb = s.coreTlb
  clusterTlb : t.clusterTlb = s.clusterTlb
  pins : t.pins = s.pins
  migrated : t.migrated = s.migrated
  holds : t.holds = s.holds
  monitors : t.monitors = s.monitors
  blocks : t.blocks = s.blocks
  gates : t.gates = s.gates
  ctxs : t.ctxs = s.ctxs
  cubes : t.cubes = s.cubes
  flights : t.flights = s.flights
  tokens : t.tokens = s.tokens
  host : t.host = s.host
  power : t.power = s.power
  link : t.link = s.link

/-- Every other hoist is the same. -/
def SameOthers (src : Nat) (s t : State) : Prop := ∀ n, n ≠ src → t.hoist? n = s.hoist? n

/-- What an instruction may change of its hoist: S, V, P and A registers by number, and whether EXEC, %fpx, %xprog, the
rejoin stacks and groups of its slices, and the outstanding-work counters. -/
structure Touched where
  v : Nat → Prop := fun _ => False
  s : Nat → Prop := fun _ => False
  p : Nat → Prop := fun _ => False
  a : Nat → Prop := fun _ => False
  exec : Prop := False
  fpx : Prop := False
  xprog : Prop := False
  slices : Prop := False
  counters : Prop := False

/-- A slice without its pc and signature, which every word moves. -/
def shapeOf (x : Slice) : Nat × Bool × List Rejoin := (x.group, x.exited, x.stack)

/-- Every register of a hoist that an instruction does not name is the same after it: `h` before, `k` after. -/
structure SameRegs (h k : Hoist) (x : Touched) : Prop where
  v : ∀ n, ¬ x.v n → k.vreg n = h.vreg n
  s : ∀ n, ¬ x.s n → k.sreg n = h.sreg n
  p : ∀ n, ¬ x.p n → k.preg n = h.preg n
  a : ∀ n, ¬ x.a n → k.areg n = h.areg n
  exec : ¬ x.exec → k.regs.exec = h.regs.exec
  fpx : ¬ x.fpx → k.regs.fpx = h.regs.fpx
  xprog : ¬ x.xprog → k.regs.xprog = h.regs.xprog
  slices : ¬ x.slices → k.regs.slices.map shapeOf = h.regs.slices.map shapeOf
  counters : ¬ x.counters → k.counters = h.counters
  dead : k.regs.dead = h.regs.dead
  ssig : k.regs.ssig = h.regs.ssig
  batch : k.regs.batch = h.regs.batch
  depth : k.regs.depth = h.regs.depth
  region : k.regs.region = h.regs.region
  hregion : k.regs.hregion = h.regs.hregion

/-- The frame of a word that acts on its own hoist alone: the rest of the machine is as it was when the word started, and
of its hoist only what `x` names changes. -/
def Frame (e : Env) (t : State) (x : Touched) : Prop :=
  SameMachine e.s t ∧ SameMemory e.s t ∧ SameOthers e.h.src e.s t ∧
    ∃ k, t.hoist? e.h.src = some k ∧ SameRegs e.h k x

/-! ### Sound states -/

/-- Memory is in canonical form. -/
abbrev Canonical (s : State) : Prop := s.mem.wf = true

end Sys2Proof.Claims
end

