-- ==== Sys2Proof/Claims/Integer.lean ====
section
/-!
DEFINITION. What the manual gives integer, predicate and select instructions as results, in arithmetic of its own
(05_control.md R117–R122, 07_lanes.md R135–R143, 03_encoding.md R57).
-/

namespace Sys2Proof.Claims

open Sys2Proof.Machine

/-! ### Arithmetic -/

/-- a × 2^b modulo 2^32: zero from 32 on. -/
def shiftLeft (a b : Word) : Word := BitVec.ofNat 32 (a.toNat * 2 ^ b.toNat)
/-- ⌊a / 2^b⌋, unsigned: zero from 32 on. -/
def shiftRight (a b : Word) : Word := BitVec.ofNat 32 (a.toNat / 2 ^ b.toNat)
/-- ⌊a / 2^b⌋, signed: 0 or −1 from 32 on. -/
def shiftSigned (a b : Word) : Word := BitVec.ofInt 32 (a.toInt / (2 ^ b.toNat : Nat))
/-- Bits [63:32] of the signed 64-bit product. -/
def highSigned (a b : Word) : Word := (a.signExtend 64 * b.signExtend 64).extractLsb' 32 32
/-- Bits [63:32] of the unsigned 64-bit product. -/
def highUnsigned (a b : Word) : Word := (a.zeroExtend 64 * b.zeroExtend 64).extractLsb' 32 32
/-- The smaller and the larger, signed and unsigned. -/
def smallerSigned (a b : Word) : Word := BitVec.ofInt 32 (min a.toInt b.toInt)
/-- The larger, signed. -/
def largerSigned (a b : Word) : Word := BitVec.ofInt 32 (max a.toInt b.toInt)
/-- The smaller, unsigned. -/
def smallerUnsigned (a b : Word) : Word := BitVec.ofNat 32 (min a.toNat b.toNat)
/-- The larger, unsigned. -/
def largerUnsigned (a b : Word) : Word := BitVec.ofNat 32 (max a.toNat b.toNat)
/-- The number of one bits. -/
def onesIn (a : Word) : Word := BitVec.ofNat 32 ((List.range 32).countP a.getLsbD)
/-- The zero bits above the highest one bit; 32 for zero. -/
def zerosAbove (a : Word) : Word := if a = 0 then 32 else BitVec.ofNat 32 (31 - a.toNat.log2)
/-- The field of `a` that `b` selects, in the steps of R122. -/
def fieldOf (a b : Word) : Word :=
  let pos := (b.extractLsb' 0 5).toNat
  let len := min (b.extractLsb' 8 6).toNat (32 - pos)
  let f := (a >>> pos) &&& BitVec.ofNat 32 (2 ^ len - 1)
  if b.getLsbD 16 ∧ 0 < len ∧ f.getLsbD (len - 1) then f ||| (0xFFFFFFFF#32 <<< len) else f
/-- The low bits of `a` inserted in `d`, in the steps of R136. -/
def insertOf (d a b : Word) : Word :=
  let pos := (b.extractLsb' 0 5).toNat
  let len := min (b.extractLsb' 8 6).toNat (32 - pos)
  let m := BitVec.ofNat 32 (2 ^ len - 1) <<< pos
  (d &&& ~~~m) ||| ((a <<< pos) &&& m)
/-- |a| modulo 2^32. -/
def magnitude (a : Word) : Word := BitVec.ofNat 32 a.toInt.natAbs
/-- The conditions of SCMP and VCMP (R119, R139). -/
def holds (cc : Nat) (a b : Word) : Bool :=
  match cc with
  | 0 => a == b
  | 1 => a != b
  | 2 => a.slt b
  | 3 => a.sle b
  | 4 => b.slt a
  | 5 => b.sle a
  | 6 => a.ult b
  | _ => b.ule a

/-- The operation of a three-register form (R117, R135). -/
def binary : Instr → Option (BitVec 8 × BitVec 8 × BitVec 8 × (Word → Word → Word))
  | .sadd d a b => some (d, a, b, fun x y => x + y)
  | .ssub d a b => some (d, a, b, fun x y => x - y)
  | .smul d a b => some (d, a, b, fun x y => x * y)
  | .smulh d a b => some (d, a, b, highSigned)
  | .sand d a b => some (d, a, b, fun x y => x &&& y)
  | .sor d a b => some (d, a, b, fun x y => x ||| y)
  | .sxor d a b => some (d, a, b, fun x y => x ^^^ y)
  | .sshl d a b => some (d, a, b, shiftLeft)
  | .sshr d a b => some (d, a, b, shiftRight)
  | .ssra d a b => some (d, a, b, shiftSigned)
  | .smin d a b => some (d, a, b, smallerSigned)
  | .smax d a b => some (d, a, b, largerSigned)
  | .sminn d a b => some (d, a, b, smallerUnsigned)
  | .smaxn d a b => some (d, a, b, largerUnsigned)
  | .sbfe d a b => some (d, a, b, fieldOf)
  | _ => none

/-- The S destination and result of a scalar instruction, its sources read in `r` (R117–R122).  The first source is read
before the second. -/
def scalarResult (r : Env) (i : Instr) : Option (BitVec 8 × Word) :=
  match i with
  | .smad d a b => some (d, r.sval d + r.sval2 d a * r.svalAfter [d.toNat, a.toNat] b)
  | .saddi d a k => some (d, r.sval a + r.imm8 k)
  | .smovi d k => some (d, r.imm16s k)
  | .smovhi d k => some (d, k ++ (r.sval d).extractLsb' 0 16)
  | .scmp d a cc => some (d, if holds cc.toNat (r.sval d) (r.sval2 d a) then 1 else 0)
  | .ssel d a b => some (d, if r.sval d ≠ 0 then r.sval2 d a else r.svalAfter [d.toNat, a.toNat] b)
  | .spop d a => some (d, onesIn (r.sval a))
  | .sclz d a => some (d, zerosAbove (r.sval a))
  | .smov d a => some (d, r.sval a)
  | i => (binary i).map fun x => (x.1, x.2.2.2 (r.sval x.2.1) (r.sval2 x.2.1 x.2.2.1))

/-! ### Vectors -/

/-- The tags of R57: `uniform` and `affine` tell which combinations give U and A; every other gives G. -/
def tagOr (uniform affine : Bool) : Tag := if uniform then .u else if affine then .a else .g

/-- No general operand. -/
def Tag.simple (t : Tag) : Bool := t != .g

/-- The V destination, the tag of a full write and the value of each lane, for the integer instructions with V sources and
a V destination (R135, R136, R138, R141), the lanes read in `r`. -/
def vectorResult (r : Env) (i : Instr) : Option (BitVec 8 × Tag × (Nat → Word)) :=
  let v (n : BitVec 8) (l : Nat) : Word := r.h.vword n.toNat l
  let t (n : BitVec 8) : Tag := (r.h.vreg n.toNat).tag
  let two (d a b : BitVec 8) (f : Word → Word → Word) : Option (BitVec 8 × Tag × (Nat → Word)) :=
    some (d, .g, fun l => f (v a l) (v b l))
  match i with
  | .vadd d a b => some (d, tagOr (t a == .u && t b == .u) (Tag.simple (t a) && Tag.simple (t b)), fun l => v a l + v b l)
  | .vsub d a b => some (d, tagOr (t a == .u && t b == .u) (Tag.simple (t a) && Tag.simple (t b)), fun l => v a l - v b l)
  | .vmul d a b =>
    some (d, tagOr (t a == .u && t b == .u) ((t a == .u && t b == .a) || (t a == .a && t b == .u)), fun l => v a l * v b l)
  | .vmad d a b =>
    some (d, tagOr (t a == .u && t b == .u && t d == .u)
      (((t a == .u && Tag.simple (t b)) || (t b == .u && Tag.simple (t a))) && Tag.simple (t d)),
      fun l => v d l + v a l * v b l)
  | .vshl d a b => some (d, tagOr (t b == .u && t a == .u) (t b == .u && t a == .a), fun l => shiftLeft (v a l) (v b l))
  | .vmulh d a b => two d a b highSigned
  | .vmulhn d a b => two d a b highUnsigned
  | .vand d a b => two d a b fun x y => x &&& y
  | .vor d a b => two d a b fun x y => x ||| y
  | .vxor d a b => two d a b fun x y => x ^^^ y
  | .vshr d a b => two d a b shiftRight
  | .vsra d a b => two d a b shiftSigned
  | .vmin d a b => two d a b smallerSigned
  | .vmax d a b => two d a b largerSigned
  | .vminn d a b => two d a b smallerUnsigned
  | .vmaxn d a b => two d a b largerUnsigned
  | .vabs d a => some (d, .g, fun l => magnitude (v a l))
  | .vpop d a => some (d, .g, fun l => onesIn (v a l))
  | .vclz d a => some (d, .g, fun l => zerosAbove (v a l))
  | .vbfe d a b => two d a b fieldOf
  | .vbfi d a b => some (d, .g, fun l => insertOf (v d l) (v a l) (v b l))
  | .vmov d a => some (d, t a, v a)
  | .vmovi d k => some (d, .u, fun _ => r.imm16s k)
  | .vbcast d a => some (d, .u, fun _ => r.sval a)
  | .viota d a b => some (d, .a, fun l => r.sval a + BitVec.ofNat 32 l * r.sval2 a b)
  | .vaddi d a k => some (d, t a, fun l => v a l + r.imm8 k)
  | .vshli d a k => some (d, t a, fun l => BitVec.ofNat 32 ((v a l).toNat * 2 ^ k.toNat))
  | .vcmov d a b => some (d, .g, fun l => if (r.h.preg a.toNat).getLsbD l then v b l else v d l)
  | _ => none

/-- The P destination, the lanes written and their bits, for compares and predicate logic (R139, R142, R143). -/
def predicateResult (r : Env) (i : Instr) : Option (BitVec 8 × (Nat → Bool) × (Nat → Bool)) :=
  let cmp (d a b : BitVec 8) (cc : Nat) : Option (BitVec 8 × (Nat → Bool) × (Nat → Bool)) :=
    some (d, r.h.active r.g.id, fun l => holds cc (r.h.vword a.toNat l) (r.h.vword b.toNat l))
  let bit (n : BitVec 8) (l : Nat) : Bool := (r.h.preg n.toNat).getLsbD l
  match i with
  | .vcmpEq d a b => cmp d a b 0
  | .vcmpNe d a b => cmp d a b 1
  | .vcmpLt d a b => cmp d a b 2
  | .vcmpLe d a b => cmp d a b 3
  | .vcmpGt d a b => cmp d a b 4
  | .vcmpGe d a b => cmp d a b 5
  | .vcmpLtn d a b => cmp d a b 6
  | .vcmpGen d a b => cmp d a b 7
  | .pand d a b => some (d, r.h.laneIn r.g.id, fun l => bit a l && bit b l)
  | .por d a b => some (d, r.h.laneIn r.g.id, fun l => bit a l || bit b l)
  | .pxor d a b => some (d, r.h.laneIn r.g.id, fun l => (bit a l).xor (bit b l))
  | .pnot d a => some (d, r.h.laneIn r.g.id, fun l => !bit a l)
  | .pfroms d a q =>
    some (d, fun l => r.h.laneIn r.g.id l && decide (32 * q.toNat ≤ l) && decide (l < 32 * q.toNat + 32),
      fun l => (r.sval a).getLsbD (l - 32 * q.toNat))
  | _ => none

end Sys2Proof.Claims
end

