-- ==== Sys2Proof/Claims/Float.lean ====
section
/-!
DEFINITION. What the manual gives floating-point and cross-lane instructions as results (13_numbers.md R255–R273,
07_lanes.md R140, R144–R152), over the model's exact arithmetic (13_numbers.md R250).
-/

namespace Sys2Proof.Claims

open Sys2Proof.Machine

/-! ### Formats -/

/-- The exact value that a pattern of a wide format holds in a lane: a pair for FP64, a word for FP32, its low half for a
16-bit format (R255). -/
def operand (r : Env) (f : Format) (n : BitVec 8) (l : Nat) : Nat :=
  if f.width = 64 then (r.h.vpair n.toNat l).toNat else (r.h.vword n.toNat l).toNat % 2 ^ f.width

/-- The two halves of a word under an operation of a 16-bit format, the flags of both ORed (R260). -/
def halves (f : Nat → Nat → Nat → Nat × Flags) (a b c : Nat) : Nat × Flags :=
  ((f (a / 65536) (b / 65536) (c / 65536)).1 * 65536 + (f (a % 65536) (b % 65536) (c % 65536)).1,
    (f (a % 65536) (b % 65536) (c % 65536)).2 ||| (f (a / 65536) (b / 65536) (c / 65536)).2)

/-- The formats of VCVT, VF2I and VI2F by code (R263, R270, R271). -/
def wideFormat (code : Nat) : Format :=
  if code = 0 then fp32 else if code = 1 then fp16 else if code = 2 then bf16 else fp64

/-- The destination formats of VI2F by code (R271). -/
def viFormat (code : Nat) : Format :=
  if code = 0 then fp32 else if code = 1 then fp64 else if code = 2 then fp16 else bf16

/-- The width and sign of an integer format by code (R270). -/
def intCode (code : Nat) : IntFormat :=
  if 7 ≤ code then ⟨64, false⟩ else ⟨if code = 6 then 64 else 32 / 2 ^ (code / 2), code % 2 == 0⟩

/-- The integer that a pattern of an integer format holds. -/
def integerOf (f : IntFormat) (v : Nat) : Int :=
  if f.signed = true ∧ 2 ^ (f.bits - 1) ≤ v % 2 ^ f.bits then ((v % 2 ^ f.bits : Nat) : Int) - (2 ^ f.bits : Nat)
  else (v % 2 ^ f.bits : Nat)

/-- A lane-wise floating-point result: the V destination, whether it is a pair, and the pattern and flags of each lane. -/
structure FloatResult where
  d : BitVec 8
  pair : Bool
  lane : Nat → Nat × Flags

/-- The hoist after a floating-point result: the live active lanes written with tag G, and their flags ORed into %fpx
(R253, R255). -/
def FloatResult.hoist (x : FloatResult) (r : Env) : Hoist :=
  let h := if x.pair then r.h.putVPair r.g.id x.d.toNat .g fun l => BitVec.ofNat 64 (x.lane l).1
    else r.h.putV r.g.id x.d.toNat .g fun l => BitVec.ofNat 32 (x.lane l).1
  h.raise (flagsOver (r.h.activeLanes r.g.id) fun l => (x.lane l).2)

/-! ### Exact results (R250, R251, R255) -/

/-- The number that an exact value stands for, in units of 2^u with u at most its exponent; zero for what is no number. -/
def scaled (u : Int) : FVal → Int
  | .num n m e => (if n then -1 else 1) * ((m * 2 ^ (e - u).toNat : Nat) : Int)
  | _ => 0

/-- The exponent in which an exact value is written. -/
def writtenAt : FVal → Int
  | .num _ _ e => e
  | _ => 0

/-- The exact sum of terms with its flags: a NaN for a NaN term or for infinities of both signs, with IV for a signalling term or
for those; an infinity; else the number that is their sum, where a zero is negative only as a sum of negative zeros. -/
inductive ExactSum (xs : List FVal) : FVal → Flags → Prop
  | nan : ((∃ x ∈ xs, x.isNaN = true) ∨ (.inf true ∈ xs ∧ .inf false ∈ xs)) →
      ExactSum xs (.nan false) (if .nan true ∈ xs ∨ (.inf true ∈ xs ∧ .inf false ∈ xs) then flagIV else 0)
  | inf (n) : (∀ x ∈ xs, x.isNaN = false) → .inf n ∈ xs → .inf (!n) ∉ xs → ExactSum xs (.inf n) 0
  | num (n m e) : (∀ x ∈ xs, ∃ a b c, x = .num a b c) →
      (∀ u, u ≤ e → (∀ x ∈ xs, u ≤ writtenAt x) → scaled u (.num n m e) = (xs.map (scaled u)).sum) →
      (m = 0 → (n = true ↔ ∀ x ∈ xs, ∃ c, x = .num true 0 c)) → ExactSum xs (.num n m e) 0

/-- The exact product of two values with its flags: a NaN for a NaN factor, with IV for a signalling one, and for zero times
infinity, with IV; its sign is the exclusive or of the factors' signs. -/
inductive ExactProduct : FVal → FVal → FVal → Flags → Prop
  | nan (x y) : (x.isNaN = true ∨ y.isNaN = true) →
      ExactProduct x y (.nan false) (if x = .nan true ∨ y = .nan true then flagIV else 0)
  | zeroInf (x y n k c) : (x = .inf n ∧ y = .num k 0 c ∨ x = .num k 0 c ∧ y = .inf n) → ExactProduct x y (.nan false) flagIV
  | infs (n k) : ExactProduct (.inf n) (.inf k) (.inf (n != k)) 0
  | inf (x y n k m c) : (x = .inf n ∧ y = .num k m c ∨ x = .num k m c ∧ y = .inf n) → m ≠ 0 → ExactProduct x y (.inf (n != k)) 0
  | num (n m e k l c o j d) : o = (n != k) →
      (∀ u v, u ≤ e → v ≤ c → u + v ≤ d → scaled (u + v) (.num o j d) = scaled u (.num n m e) * scaled v (.num k l c)) →
      (j = 0 ↔ m = 0 ∨ l = 0) → ExactProduct (.num n m e) (.num k l c) (.num o j d) 0

/-- An exact value, with the flags raised so far, delivered in a format: one conversion (R250, R255). -/
def Delivered (f : Format) (z : FVal) (g : Flags) (y : Nat × Flags) : Prop := y = ((convert f z).1, g ||| (convert f z).2)

/-- The operation of an FP32, packed or FP64 instruction on three patterns: a, b and the destination read first
(R257, R260, R261, R262, R273). -/
def floatOp : Instr → Option (BitVec 8 × BitVec 8 × BitVec 8 × Bool × (Nat → Nat → Nat → Nat × Flags))
  | .vfadd d a b => some (d, a, b, false, fun x y _ => fAdd fp32 x y)
  | .vfsub d a b => some (d, a, b, false, fun x y _ => fSub fp32 x y)
  | .vfmul d a b => some (d, a, b, false, fun x y _ => fMul fp32 x y)
  | .vfma d a b => some (d, a, b, false, fun x y z => fFma fp32 x y z)
  | .vfmin d a b => some (d, a, b, false, fun x y _ => fMinMax fp32 false x y)
  | .vfmax d a b => some (d, a, b, false, fun x y _ => fMinMax fp32 true x y)
  | .vhadd d a b => some (d, a, b, false, fun x y _ => halves (fun p q _ => fAdd fp16 p q) x y 0)
  | .vhmul d a b => some (d, a, b, false, fun x y _ => halves (fun p q _ => fMul fp16 p q) x y 0)
  | .vhfma d a b => some (d, a, b, false, halves (fFma fp16))
  | .vbadd d a b => some (d, a, b, false, fun x y _ => halves (fun p q _ => fAdd bf16 p q) x y 0)
  | .vbmul d a b => some (d, a, b, false, fun x y _ => halves (fun p q _ => fMul bf16 p q) x y 0)
  | .vbfma d a b => some (d, a, b, false, halves (fFma bf16))
  | .vhdot d a b => some (d, a, b, false, dot2 fp16)
  | .vbdot d a b => some (d, a, b, false, dot2 bf16)
  | .vdadd d a b => some (d, a, b, true, fun x y _ => fAdd fp64 x y)
  | .vdmul d a b => some (d, a, b, true, fun x y _ => fMul fp64 x y)
  | .vdfma d a b => some (d, a, b, true, fun x y z => fFma fp64 x y z)
  | .vdmin d a b => some (d, a, b, true, fun x y _ => fMinMax fp64 false x y)
  | .vdmax d a b => some (d, a, b, true, fun x y _ => fMinMax fp64 true x y)
  | .vrcp d a => some (d, a, a, false, fun x _ _ => specialFn .rcp x)
  | .vrsq d a => some (d, a, a, false, fun x _ _ => specialFn .rsq x)
  | .vsqrt d a => some (d, a, a, false, fun x _ _ => specialFn .sqrt x)
  | .vexp2 d a => some (d, a, a, false, fun x _ _ => specialFn .exp2 x)
  | .vlog2 d a => some (d, a, a, false, fun x _ _ => specialFn .log2 x)
  | .vsin d a => some (d, a, a, false, fun x _ _ => specialFn .sin x)
  | .vcos d a => some (d, a, a, false, fun x _ _ => specialFn .cos x)
  | .vtanh d a => some (d, a, a, false, fun x _ _ => specialFn .tanh x)
  | _ => none

/-- The result of an arithmetic instruction. -/
def floatResult (r : Env) (i : Instr) : Option FloatResult :=
  (floatOp i).map fun x =>
    let v (n : BitVec 8) (l : Nat) : Nat := if x.2.2.2.1 then (r.h.vpair n.toNat l).toNat else (r.h.vword n.toNat l).toNat
    ⟨x.1, x.2.2.2.1, fun l => x.2.2.2.2 (v x.2.1 l) (v x.2.2.1 l) (v x.1 l)⟩

/-- The result of a conversion (R263, R266, R270–R272). -/
def convertResult (r : Env) (i : Instr) : Option FloatResult :=
  match i with
  | .vcvt d a src dst =>
    let f := wideFormat src.toNat
    let g := wideFormat dst.toNat
    some ⟨d, g.width == 64, fun l => convert g (f.decode (operand r f a l))⟩
  | .vunpk d a fmt k => some ⟨d, false, fun l => convert fp32 (elemValue fmt.toNat k.toNat (r.h.vword a.toNat l).toNat)⟩
  | .vf2i d a w t =>
    let f := if w = 1 then fp64 else fp32
    let g := intCode t.toNat
    some ⟨d, g.bits == 64, fun l =>
      let (n, flags) := convertInt g (f.decode (operand r f a l))
      ((n % (2 ^ (if g.bits = 64 then 64 else 32) : Nat)).toNat, flags)⟩
  | .vi2f d a t src =>
    let f := intCode src.toNat
    let g := viFormat t.toNat
    some ⟨d, g.width == 64, fun l =>
      let n := integerOf f (if f.bits = 64 then (r.h.vpair a.toNat l).toNat else (r.h.vword a.toNat l).toNat)
      convert g (.num (decide (n < 0)) n.natAbs 0)⟩
  | .vrnd d a w m =>
    let f := if w = 1 then fp64 else fp32
    some ⟨d, f.width == 64, fun l => fRound f m.toNat (operand r f a l)⟩
  | _ => none

/-- The fields of an element control word (R264): K, FMT and SCALE. -/
def controlK (c : Word) : Nat := (c.extractLsb' 12 3).toNat
/-- FMT. -/
def controlFmt (c : Word) : Nat := (c.extractLsb' 8 4).toNat
/-- SCALE. -/
def controlScale (c : Word) : Nat := (c.extractLsb' 0 8).toNat

/-- A legal element control word: a format that exists, an element that a word of it holds, reserved bits zero (R264). -/
def controlLegal (c : Word) : Bool :=
  c.extractLsb' 15 17 == 0 && decide (controlFmt c ≤ 6) && decide (controlK c < elemCount (controlFmt c))

/-- The result of an instruction with control words, and whether they are legal (R265, R267–R269). -/
def controlResult (r : Env) (i : Instr) : Option (Bool × FloatResult) :=
  let v (n : BitVec 8) (l : Nat) : Word := r.h.vword n.toNat l
  let all (b : BitVec 8) (p : Word → Bool) : Bool := (r.h.activeLanes r.g.id).all fun l => p (v b l)
  match i with
  | .vpack d a b =>
    let c := r.sval b
    some (controlLegal c && controlScale c == 0, ⟨d, false, fun l =>
      let (y, flags) := convertElem (controlFmt c) (fp32.decode (v a l).toNat)
      (putElem (controlFmt c) (controlK c) (v d l).toNat y, flags)⟩)
  | .vqnt d a b =>
    some (all b controlLegal, ⟨d, false, fun l =>
      let c := v b l
      let x := if controlScale c = 255 then .nan false else (fp32.decode (v a l).toNat).scale (127 - (controlScale c : Int))
      let (y, flags) := convertElem (controlFmt c) x
      (putElem (controlFmt c) (controlK c) (v d l).toNat y, flags)⟩)
  | .vdqnt d a b =>
    some (all b controlLegal, ⟨d, false, fun l =>
      let c := v b l
      let x := elemValue (controlFmt c) (controlK c) (v a l).toNat
      if controlScale c = 255 ∨ x.isNaN = true then (fp32.canonicalNaN, x.sigFlag)
      else convert fp32 (x.scale ((controlScale c : Int) - 127))⟩)
  | _ => none

/-! ### FP32 patterns by their bits -/

/-- Bits [30:0] of an FP32 pattern. -/
def magnitude32 (a : Word) : Nat := (a.extractLsb' 0 31).toNat
/-- A NaN pattern. -/
def nan32 (a : Word) : Bool := decide (0x7F800000 < magnitude32 a)
/-- A signalling NaN pattern: its most significant fraction bit is clear (R244). -/
def signalling32 (a : Word) : Bool := nan32 a && !a.getLsbD 22
/-- A number that orders patterns other than NaNs by value, the two zeros equal. -/
def value32 (a : Word) : Int := if a.getLsbD 31 then -(magnitude32 a : Int) else magnitude32 a
/-- The same order with −0 below +0 (R258). -/
def rank32 (a : Word) : Int := if a.getLsbD 31 then -1 - (magnitude32 a : Int) else magnitude32 a

/-- IV where a condition holds. -/
def invalidIf (c : Bool) : Flags := if c then 1#6 else 0#6

/-- The conditions of VFCMP and when each raises IV (R140). -/
def floatHolds (cc : Nat) (a b : Word) : Bool × Flags :=
  let nan := nan32 a || nan32 b
  let quiet := invalidIf (signalling32 a || signalling32 b)
  match cc with
  | 0 => (!nan && value32 a == value32 b, quiet)
  | 1 => (nan || value32 a != value32 b, quiet)
  | 2 => (!nan && decide (value32 a < value32 b), invalidIf nan)
  | 3 => (!nan && decide (value32 a ≤ value32 b), invalidIf nan)
  | 4 => (!nan && decide (value32 b < value32 a), invalidIf nan)
  | 5 => (!nan && decide (value32 b ≤ value32 a), invalidIf nan)
  | 6 => (!nan, quiet)
  | _ => (nan, quiet)

/-- The condition of a floating-point compare. -/
def floatCompare : Instr → Option (BitVec 8 × BitVec 8 × BitVec 8 × Nat)
  | .vfcmpEq d a b => some (d, a, b, 0)
  | .vfcmpNe d a b => some (d, a, b, 1)
  | .vfcmpLt d a b => some (d, a, b, 2)
  | .vfcmpLe d a b => some (d, a, b, 3)
  | .vfcmpGt d a b => some (d, a, b, 4)
  | .vfcmpGe d a b => some (d, a, b, 5)
  | .vfcmpOrd d a b => some (d, a, b, 6)
  | .vfcmpUno d a b => some (d, a, b, 7)
  | _ => none

/-- The smaller or the larger of two FP32 patterns and its flag (R258). -/
def minMax32 (larger : Bool) (a b : Word) : Word × Flags :=
  let flag := invalidIf (signalling32 a || signalling32 b)
  if nan32 a && nan32 b then (0x7FC00000, flag)
  else if nan32 a then (b, flag)
  else if nan32 b then (a, flag)
  else if larger then (if rank32 a ≤ rank32 b then b else a, flag)
  else (if rank32 a ≤ rank32 b then a else b, flag)

/-- The bit of VFCLASS for a pattern (R259). -/
def classBit32 (a : Word) : Nat :=
  let neg := a.getLsbD 31
  let m := magnitude32 a
  if 0x7F800000 < m then (if a.getLsbD 22 then 9 else 8)
  else if m = 0x7F800000 then (if neg then 0 else 7)
  else if 0x00800000 ≤ m then (if neg then 1 else 6)
  else if m = 0 then (if neg then 3 else 4)
  else (if neg then 2 else 5)

/-! ### Cross-lane instructions -/

/-- The value that lane `l` receives from lane `src`, and whether it met a dead lane (R133). -/
def received (r : Env) (n : BitVec 8) (l : Nat) (src : Int) : Word × Bool :=
  if 0 ≤ src ∧ src < r.h.width ∧ r.h.active r.g.id src.toNat then (r.h.vword n.toNat src.toNat, false)
  else if 0 ≤ src ∧ src < r.h.width ∧ r.h.regs.dead.getLsbD src.toNat then (0, true)
  else (r.h.vword n.toNat l, false)

/-- The source lane of a VSHFL (R144): up, down, exclusive or, rotations. -/
def shuffleSource (mode w l k : Nat) : Int :=
  if mode = 0 then (l : Int) + k
  else if mode = 1 then (l : Int) - k
  else if mode = 2 then ((l ^^^ k : Nat) : Int)
  else if mode = 3 then ((l : Int) + k) % w
  else ((l : Int) - k) % w

/-- The V destination of a shuffle or broadcast and what each lane receives (R144, R146). -/
def crossResult (r : Env) (i : Instr) : Option (BitVec 8 × (Nat → Word × Bool)) :=
  match i with
  | .vshfl d a m rel n =>
    some (d, fun l => received r a l
      (shuffleSource m.toNat r.h.width l (if rel = 1 then r.h.width / 2 ^ n.toNat else n.toNat)))
  | .vbroad d a b => some (d, fun l => received r a l (r.sval b).toNat)
  | _ => none

/-- The operations of VRED and VSCAN on integers with their identities (R147). -/
def combine (op : Nat) (x y : Word) : Word :=
  match op with
  | 0 => x + y
  | 1 => smallerSigned x y
  | 2 => largerSigned x y
  | 3 => smallerUnsigned x y
  | 4 => largerUnsigned x y
  | 5 => x &&& y
  | 6 => x ||| y
  | _ => x ^^^ y

/-- The identity of an integer operation (R147). -/
def identityOf (op : Nat) : Word :=
  match op with
  | 1 => 0x7FFFFFFF
  | 2 => 0x80000000
  | 3 => 0xFFFFFFFF
  | 5 => 0xFFFFFFFF
  | _ => 0

/-- A lane's contribution to a reduction or scan: its word when it participates, else the identity (R148, R149). -/
def contribution (r : Env) (op : Nat) (n : BitVec 8) (l : Nat) : Word :=
  if r.h.active r.g.id l then r.h.vword n.toNat l else identityOf op

/-- The combination of the contributions of `n` lanes from lane `l` up. -/
def gathered (r : Env) (op : Nat) (v : BitVec 8) : Nat → Nat → Word
  | _, 0 => identityOf op
  | l, n + 1 => combine op (contribution r op v l) (gathered r op v (l + 1) n)

/-- The lanes that a scan gathers for lane `l`: the first and how many (R149). -/
def scanRange (w l : Nat) (incl rev : Bool) : Nat × Nat :=
  match rev, incl with
  | false, true => (0, l + 1)
  | false, false => (0, l)
  | true, true => (l, w - l)
  | true, false => (l + 1, w - l - 1)

/-- The vote over the participating lanes (R150). -/
def voteIs (r : Env) (p : Mask) (mode : Nat) (v : Bool) : Prop :=
  (v = true ↔
    if mode = 0 then ∃ l, r.h.active r.g.id l = true ∧ p.getLsbD l = true
    else if mode = 1 then ∀ l, r.h.active r.g.id l = true → p.getLsbD l = true
    else ∀ l m, r.h.active r.g.id l = true → r.h.active r.g.id m = true → p.getLsbD l = p.getLsbD m)

end Sys2Proof.Claims
end

