-- ==== Sys2Proof/Claims/Control.lean ====
section
/-!
DEFINITION. What the manual gives hint, control-flow and mask instructions as effects (03_encoding.md R66–R71,
05_control.md R96–R115) and address-register instructions (R125–R131).
-/

namespace Sys2Proof.Claims

open Sys2Proof.Machine

/-! ### Control flow -/

/-- Bits [31:0] of the address of the word after, past the EXT when there is one. -/
def nextWord (r : Env) : Word := r.pc.extractLsb' 0 32 + (if r.ext.isSome then 8 else 4)

/-- The target of a direct branch within the region: the word's address plus four times the offset, which an EXT widens
(R91, R96). -/
def target (r : Env) (near : Word) (low : Nat) (off : BitVec low) : Word :=
  match r.ext with
  | some x => r.pc.extractLsb' 0 32 + 4 * ((x ++ off).truncate 32 : Word)
  | none => r.pc.extractLsb' 0 32 + 4 * near

/-- The target of a BR word. -/
def target24 (r : Env) (off : BitVec 24) : Word := target r (off.signExtend 32) 24 off
/-- The target of a CB word. -/
def target16 (r : Env) (off : BitVec 16) : Word := target r (off.signExtend 32) 16 off

/-- Every slice of the issuing group at a place of its region. -/
def movedTo (r : Env) (t : Word) (h : Hoist) : Hoist :=
  h.updSliceList (r.h.groupSlices r.g.id) fun _ x => { x with pc := t }

/-- The lanes of a slice that are live and active. -/
abbrev liveIn (h : Hoist) (n l : Nat) : Prop := 4 * n ≤ l ∧ l < 4 * n + 4 ∧ h.regs.exec.getLsbD l = true ∧ h.regs.dead.getLsbD l = false

/-- What a slice decides about a branch on P (R97): something when it has a live lane. -/
def decidesTo (h : Hoist) (p : Mask) (all : Bool) (n : Nat) (b : Bool) : Prop :=
  (∃ l, liveIn h n l) ∧ (b = true ↔ if all then ∀ l, liveIn h n l → p.getLsbD l = true else ∃ l, liveIn h n l ∧ p.getLsbD l = true)

/-- A slice of the group takes the branch (R97): it decides so; with no live lane it follows the lowest slice of the group
that has one; with none at all BRALL is taken and BRANY falls through. -/
def takesBranch (r : Env) (p : Mask) (all : Bool) (n : Nat) : Prop :=
  decidesTo r.h p all n true ∨
  ((¬ ∃ l, liveIn r.h n l) ∧
    ((∃ m ∈ r.h.groupSlices r.g.id, decidesTo r.h p all m true ∧
        ∀ k ∈ r.h.groupSlices r.g.id, k < m → ¬ ∃ l, liveIn r.h k l) ∨
     (all = true ∧ ∀ k ∈ r.h.groupSlices r.g.id, ¬ ∃ l, liveIn r.h k l)))

/-- The instruction is BRANY or BRALL with its P operand, offset and kind. -/
def sliceBranch : Instr → Option (BitVec 8 × BitVec 16 × Bool)
  | .brany p o => some (p, o, false)
  | .brall p o => some (p, o, true)
  | _ => none

/-- The kinds of a jump through a code pointer: the PAD that it requires and whether it links (R99). -/
def codeJump : Instr → Option (BitVec 8 × BitVec 2 × Bool)
  | .calli a => some (a, 0, true)
  | .jmpi a => some (a, 1, false)
  | .ret a => some (a, 2, false)
  | _ => none

/-- EXEC changed in the lanes of the group's slices; dead lanes stay clear (05_control.md R94). -/
abbrev execSet (r : Env) (f : Nat → Bool) (m : Mask) : Prop :=
  ∀ l, l < 128 → m.getLsbD l =
    (decide (l < r.h.width) && !r.h.regs.dead.getLsbD l && if r.h.laneIn r.g.id l then f l else r.h.regs.exec.getLsbD l)

/-- The top entry of a slice's rejoin stack. -/
abbrev topOf (h : Hoist) (n : Nat) : Option Rejoin := (h.regs.slices[n]?).bind (·.stack.head?)

/-- The MASK bit of a lane in the top entry of its slice. -/
def topBit (h : Hoist) (l : Nat) : Bool := (topOf h (l / 4)).any fun x => x.mask.getLsbD (l % 4)

/-- Every slice of the group has a nonempty stack. -/
abbrev Stacked (r : Env) : Prop := ∀ n ∈ r.h.groupSlices r.g.id, (topOf r.h n).isSome = true

/-- The bit that MSET gives a lane (R105). -/
def maskBit (mode : Nat) (top exec p : Bool) : Bool :=
  if mode = 0 then top && p else if mode = 1 then top && !p else if mode = 2 then exec && p
  else if mode = 3 then exec && !p else if mode = 4 then exec || (top && p) else top

/-- The hoist with the stacks of the group's slices changed. -/
def restacked (r : Env) (f : Nat → List Rejoin → List Rejoin) (h : Hoist) : Hoist :=
  h.updSliceList (r.h.groupSlices r.g.id) fun n x => { x with stack := f n x.stack }

/-- The hoist with its issuing group changed. -/
def regrouped (r : Env) (f : Group → Group) : Hoist := r.h.updGroup r.g.id f

/-- Words whose effect stands in the issuing hoist alone, and whether they set the program counters themselves: the
instruction, whether it jumps, and its hoist afterwards. -/
inductive ControlEffect (r : Env) : Instr → Bool → Hoist → Prop
  /-- R66. -/
  | nop : ControlEffect r .nop false r.h
  /-- R67: eight counts for the words that follow. -/
  | hintS (a b c d e f g h) : ControlEffect r (.hintS a b c d e f g h) false
      (regrouped r fun x => { x with
        cover := [a.toNat, b.toNat, c.toNat, d.toNat, e.toNat, f.toNat, g.toNat, h.toNat] })
  /-- R69: four words' hold codes. -/
  | hintH (a b c d e f g h j k m n) : ControlEffect r (.hintH a b c d e f g h j k m n) false
      (regrouped r fun x => { x with
        codes := [(a.toNat, b.toNat, c.toNat), (d.toNat, e.toNat, f.toNat), (g.toNat, h.toNat, j.toNat),
          (k.toNat, m.toNat, n.toNat)] })
  /-- R96. -/
  | bra (o) : ControlEffect r (.bra o) true (movedTo r (target24 r o) r.h)
  | brzTaken (a o) : r.sval a = 0 → ControlEffect r (.brz a o) true (movedTo r (target16 r o) r.h)
  | brzNot (a o) : r.sval a ≠ 0 → ControlEffect r (.brz a o) false r.h
  | brnzTaken (a o) : r.sval a ≠ 0 → ControlEffect r (.brnz a o) true (movedTo r (target16 r o) r.h)
  | brnzNot (a o) : r.sval a = 0 → ControlEffect r (.brnz a o) false r.h
  /-- R97: the group stays whole. -/
  | sliceAll (i p o all) : sliceBranch i = some (p, o, all) → r.h.groupSlices r.g.id ≠ [] →
      (∀ n ∈ r.h.groupSlices r.g.id, takesBranch r (r.h.preg p.toNat) all n) →
      ControlEffect r i true (movedTo r (target16 r o) r.h)
  | sliceNone (i p o all) : sliceBranch i = some (p, o, all) →
      (∀ n ∈ r.h.groupSlices r.g.id, ¬ takesBranch r (r.h.preg p.toNat) all n) → ControlEffect r i false r.h
  /-- R98. -/
  | call (o) : ControlEffect r (.call o) true ((movedTo r (target24 r o) r.h).setS 95 (nextWord r))
  /-- R99. -/
  | codeJump (i a kind link) : codeJump i = some (a, kind, link) → (r.sval a).toNat % 4 = 0 →
      ControlEffect r i true
        ((if link then (movedTo r (r.sval a) r.h).setS 95 (nextWord r) else movedTo r (r.sval a) r.h).updGroup r.g.id
          fun x => { x with landing := some (kind, r.pc) })
  /-- R100. -/
  | pad (k) : ControlEffect r (.pad k) false (regrouped r fun x => { x with landing := none })
  /-- R104. -/
  | mark (o) : (∀ n ∈ r.h.groupSlices r.g.id, ∀ x, r.h.regs.slices[n]? = some x → x.stack.length < 32) →
      ControlEffect r (.mark o) false (restacked r (fun n st =>
        ⟨(target24 r o).extractLsb' 2 30, r.h.regs.exec.extractLsb' (4 * n) 4, ~~~(r.h.regs.exec.extractLsb' (4 * n) 4)⟩ :: st)
        r.h)
  /-- R105. -/
  | mset (m a x) : (m.toNat = 2 ∨ m.toNat = 3 ∨ Stacked r) →
      execSet r (fun l => maskBit m.toNat (topBit r.h l) (r.h.regs.exec.getLsbD l) ((r.h.preg a.toNat).getLsbD l)) x →
      ControlEffect r (.mset m a) false { r.h with regs := { r.h.regs with exec := x } }
  /-- R106. -/
  | join (x) : (∀ n ∈ r.h.groupSlices r.g.id, ∃ t, topOf r.h n = some t ∧ t.maskn = ~~~t.mask ∧
        t.rj = r.pc.extractLsb' 2 30) → r.ext = none → execSet r (topBit r.h) x →
      ControlEffect r .join false (restacked r (fun _ st => st.tail) { r.h with regs := { r.h.regs with exec := x } })
  /-- R107. -/
  | mpop : Stacked r → ControlEffect r .mpop false (restacked r (fun _ st => st.tail) r.h)
  /-- R108. -/
  | msave (d) : ControlEffect r (.msave d) false (r.h.putP d.toNat (r.h.laneIn r.g.id) r.h.regs.exec.getLsbD)
  | mrest (a x) : execSet r (fun l => (r.h.preg a.toNat).getLsbD l) x →
      ControlEffect r (.mrest a) false { r.h with regs := { r.h.regs with exec := x } }
  /-- R109: a group that holds every slice that is not absent. -/
  | regang : (∀ n, n < r.h.regs.slices.length → r.h.absent n = true ∨ r.h.sliceIn r.g.id n = true) → r.ext = none →
      ControlEffect r .regang true { movedTo r (nextWord r) r.h with holds := r.h.holds.filter (·.group != r.g.id) }
  /-- R112. -/
  | yield : ControlEffect r .yield false (regrouped r fun x => { x with wait := .yielding (r.s.clock + 16) })
  /-- R113. -/
  | chk (k) : r.h.regs.depth = 0 →
      (∀ n ∈ r.h.groupSlices r.g.id, (r.h.regs.slices[n]?).map (·.cfs) = some (r.imm16z k)) →
      ControlEffect r (.chk k) false (r.h.updSliceList (r.h.groupSlices r.g.id) fun _ x => { x with cfs := 0 })
  | chkHandler (k) : r.h.regs.depth ≠ 0 → ControlEffect r (.chk k) false r.h
  /-- R114, R115: the counters let it through; after ISYNC later words are fetched afresh. -/
  | isync : r.h.counters.w = 0 → ControlEffect r .isync false { r.h with lines := [] }
  | waitc (g s w x) : r.h.counters.g ≤ g.toNat → r.h.counters.s ≤ s.toNat → r.h.counters.w ≤ w.toNat →
      r.h.counters.x ≤ x.toNat → ControlEffect r (.waitc g s w x) false r.h

/-- Words that raise a precise trap by what their operands hold: the instruction and the trap. -/
inductive ControlTrap (r : Env) : Instr → Trap → Prop
  /-- R99: a misaligned code pointer. -/
  | codeJump (i a kind link) : codeJump i = some (a, kind, link) → (r.sval a).toNat % 4 ≠ 0 →
      ControlTrap r i { cls := .illop }
  /-- R104: a full stack. -/
  | mark (o n x) : n ∈ r.h.groupSlices r.g.id → r.h.regs.slices[n]? = some x → 32 ≤ x.stack.length →
      ControlTrap r (.mark o) { cls := .stackov }
  /-- R105: a mode that reads an empty stack. -/
  | mset (m a n) : m.toNat ≠ 2 → m.toNat ≠ 3 → n ∈ r.h.groupSlices r.g.id → topOf r.h n = none →
      ControlTrap r (.mset m a) { cls := .illop }
  /-- R106: an empty stack; an entry that is not this JOIN's. -/
  | joinEmpty (n) : n ∈ r.h.groupSlices r.g.id → topOf r.h n = none → ControlTrap r .join { cls := .illop }
  | joinBad (n t) : Stacked r → n ∈ r.h.groupSlices r.g.id → topOf r.h n = some t →
      (t.maskn ≠ ~~~t.mask ∨ t.rj ≠ r.pc.extractLsb' 2 30) → r.ext = none → ControlTrap r .join { cls := .sig }
  /-- R107: an empty stack. -/
  | mpop (n) : n ∈ r.h.groupSlices r.g.id → topOf r.h n = none → ControlTrap r .mpop { cls := .illop }
  /-- R111. -/
  | trap (k) : ControlTrap r (.trap k) { cls := .trap, info := (r.imm16z k).zeroExtend 64, resumeNext := true }
  /-- R113. -/
  | chk (k n x) : r.h.regs.depth = 0 → n ∈ r.h.groupSlices r.g.id → r.h.regs.slices[n]? = some x → x.cfs ≠ r.imm16z k →
      ControlTrap r (.chk k) { cls := .sig }
  /-- R126: a user hoist that would set PERM.SYS. -/
  | aset (d a sel) : sel = 7 → (r.sval a).getLsbD 7 = true → r.h.privileged = false →
      ControlTrap r (.aset d a sel) { cls := .illop }
  /-- R129: a cursor that leaves the window. -/
  | aadv (d a m) : (let x := r.h.areg d.toNat
      let c : Int := x.cursor.toNat + (if m = 0 then x.step.toInt else (r.sval a).toInt)
      c < 0 ∨ c > x.extent.toNat) → ControlTrap r (.aadv d a m) { cls := .bound }
  /-- R130. -/
  | arestr (d a b) : (r.h.areg a.toNat).extent.toNat < (r.h.areg a.toNat).cursor.toNat →
      ControlTrap r (.arestr d a b) { cls := .bound }
  /-- R265, R267, R268: an illegal control word. -/
  | control (i x) : controlResult r i = some (false, x) → ControlTrap r i { cls := .illop }

/-! ### Address registers -/

/-- The 200 bits of an A register above one another: BASE, EXTENT, CURSOR, PERM, STEP (03_encoding.md R50). -/
def bitsOfA (x : AReg) : BitVec 200 := x.step ++ x.perm ++ x.cursor ++ x.extent ++ x.base

/-- The first bit and the width of the part that a selector names (R125). -/
def partOfA (sel : Nat) : Nat × Nat :=
  match sel with
  | 0 => (0, 32)
  | 1 => (32, 32)
  | 2 => (64, 8)
  | 3 => (72, 32)
  | 4 => (104, 16)
  | 5 => (120, 32)
  | 6 => (152, 16)
  | 7 => (168, 8)
  | _ => (176, 24)

/-- An A register with one part written (R125, R126). -/
abbrev withPart (x y : AReg) (sel : Nat) (v : Word) : Prop :=
  ∀ k, k < 200 → (bitsOfA y).getLsbD k =
    if (partOfA sel).1 ≤ k ∧ k < (partOfA sel).1 + (partOfA sel).2 then v.getLsbD (k - (partOfA sel).1)
    else (bitsOfA x).getLsbD k

/-- The A destination and its value (R126, R129–R131). -/
inductive AddressEffect (r : Env) : Instr → BitVec 8 → AReg → Prop
  | aset (d a sel y) : sel.toNat ≤ 8 → (sel = 7 → (r.sval a).getLsbD 7 = true → r.h.privileged = true) →
      withPart (r.h.areg d.toNat) y sel.toNat (r.sval a) → AddressEffect r (.aset d a sel) d y
  | aadv (d a m c) : (c : Int) = (r.h.areg d.toNat).cursor.toNat +
        (if m = 0 then (r.h.areg d.toNat).step.toInt else (r.sval a).toInt) →
      0 ≤ c → c ≤ (r.h.areg d.toNat).extent.toNat →
      AddressEffect r (.aadv d a m) d { r.h.areg d.toNat with cursor := BitVec.ofInt 48 c }
  | arestr (d a b) : (r.h.areg a.toNat).cursor.toNat ≤ (r.h.areg a.toNat).extent.toNat →
      AddressEffect r (.arestr d a b) d
        { base := (r.h.areg a.toNat).base + (r.h.areg a.toNat).cursor.zeroExtend 72
          extent := (r.h.areg a.toNat).extent - (r.h.areg a.toNat).cursor
          cursor := 0
          perm := (r.h.areg a.toNat).perm &&& (r.sval b).extractLsb' 0 8
          step := (r.h.areg a.toNat).step }
  | amov (d a) : AddressEffect r (.amov d a) d (r.h.areg a.toNat)

/-- The word that AGET reads: the named part, zero-extended (R127). -/
abbrev partRead (x : AReg) (sel : Nat) (v : Word) : Prop :=
  ∀ k, k < 32 → v.getLsbD k = (decide (k < (partOfA sel).2) && (bitsOfA x).getLsbD ((partOfA sel).1 + k))

end Sys2Proof.Claims
end

