-- ==== Sys2Proof/Claims/Memory.lean ====
section
/-!
DEFINITION. What the manual gives loads, stores, copies, barriers, queues, allotments and atomics as effects, once their
checks have passed (05_control.md R123, R124, 09_memory.md R173–R209, 11_ordering.md R216–R240).
-/

namespace Sys2Proof.Claims

open Sys2Proof.Machine

/-! ### Loads and stores -/

/-- Bytes of a load by modifier (R174). -/
def loadSize (m : BitVec 4) : Nat :=
  if m = 1 ∨ m = 8 ∨ m = 11 then 8 else if m = 2 ∨ m = 9 then 16 else if m = 3 ∨ m = 4 then 1
  else if m = 5 ∨ m = 6 then 2 else 4

/-- Bytes of a store by modifier (R174). -/
def storeSize (m : BitVec 4) : Nat :=
  if m = 1 ∨ m = 8 then 8 else if m = 2 ∨ m = 9 then 16 else if m = 3 then 1 else if m = 4 then 2 else 4

/-- The registers that a modifier of a load or store moves (R174, R177). -/
def moves (m : BitVec 4) : Nat :=
  if m = 1 ∨ m = 8 ∨ m = 11 then 2 else if m = 2 ∨ m = 9 then 4 else 1

/-- The displacement-only modifiers of a load or store (R174). -/
def noOffset (m : BitVec 4) : Bool := dispOnly m

/-- Each live active lane with its byte position: CURSOR + offset + displacement (R123). -/
def lanePositions (r : Env) (a : AReg) (without : Bool) (o : Nat) : List (Nat × Int) :=
  (r.h.activeLanes r.g.id).map fun l =>
    (l, (a.cursor.toNat : Int) + (if without then 0 else (r.h.vword o l).toInt) + r.disp)

/-- The one position of a scalar access. -/
def scalarPosition (r : Env) (a : AReg) (without : Bool) (v : Word) : List (Nat × Int) :=
  [(0, (a.cursor.toNat : Int) + (if without then 0 else v.toInt) + r.disp)]

/-- How an access goes through a window: the window, the PERM bits it needs, what SCR must be, whether it is made lane by
lane, alignment and bytes, and positions. -/
structure Access' where
  window : AReg
  need : List Nat
  scr : Option Bool
  perLane : Bool
  align : Nat
  bytes : Nat
  positions : List (Nat × Int)

/-- The checks of R124 pass: the state after the walks and the accesses. -/
def Passes (r : Env) (use : PageUse) (x : Access') (u : State) (acc : List Access) : Prop :=
  r.check x.window x.need x.scr use x.perLane x.align x.bytes x.positions = .pass u acc

/-- The counter, the registers and the access of a load (R128, R173, R177). -/
def loadOf (r : Env) (i : Instr) : Option (Counter × Target × Access' × Bool) :=
  match i with
  | .vld d o n m =>
    let a := r.h.areg n.toNat
    some (.g, .v d.toNat m.toNat, ⟨a, [permR], some false, true, loadSize m, loadSize m, lanePositions r a (noOffset m) o.toNat⟩,
      m == 10 || m == 11)
  | .vlds d o n m =>
    let a := r.h.areg n.toNat
    some (.s, .v d.toNat m.toNat, ⟨a, [permR], some true, true, loadSize m, loadSize m, lanePositions r a (noOffset m) o.toNat⟩,
      m == 10 || m == 11)
  | .sld d o n m =>
    let a := r.h.areg n.toNat
    some (.g, .s d.toNat m.toNat, ⟨a, [permR], none, false, loadSize m, loadSize m, scalarPosition r a (noOffset m) (r.sval o)⟩,
      m == 10 || m == 11)
  | .ald d o n m =>
    let a := r.h.areg n.toNat
    some (.g, .a d.toNat r.h.privileged, ⟨a, [permR], none, false, 32, 32, scalarPosition r a (m == 1) (r.sval o)⟩, false)
  | _ => none

/-- The access of a store and the bytes of a lane (R128, R176, R177). -/
def storeOf (r : Env) (i : Instr) : Option (Access' × (Nat → List Byte)) :=
  match i with
  | .vst d o n m =>
    let a := r.h.areg n.toNat
    some (⟨a, [permW], some false, true, storeSize m, storeSize m, lanePositions r a (noOffset m) o.toNat⟩,
      fun l => ((List.range (moves m)).flatMap fun k => natLe 4 (r.h.vword (d.toNat + k) l).toNat).take (storeSize m))
  | .vsts d o n m =>
    let a := r.h.areg n.toNat
    some (⟨a, [permW], some true, true, storeSize m, storeSize m, lanePositions r a (noOffset m) o.toNat⟩,
      fun l => ((List.range (moves m)).flatMap fun k => natLe 4 (r.h.vword (d.toNat + k) l).toNat).take (storeSize m))
  | .sst d o n m =>
    let a := r.h.areg n.toNat
    some (⟨a, [permW], none, false, storeSize m, storeSize m, scalarPosition r a (noOffset m) (r.sval o)⟩,
      fun _ => ((List.range (moves m)).flatMap fun k => natLe 4 (r.h.sreg (d.toNat + k)).toNat).take (storeSize m))
  | .ast d o n m =>
    let a := r.h.areg n.toNat
    some (⟨a, [permW], none, false, 32, 32, scalarPosition r a (m == 1) (r.sval o)⟩, fun _ => (r.h.areg d.toNat).image)
  | _ => none

/-- One more piece of work of the issuing group is in flight, last of all, and the counter that counts it is one higher
(03_encoding.md R72). -/
def launched (r : Env) (k : Counter) (w : Work) (u : State) : State :=
  { u with
    hoists := u.hoists.map fun h => if h.src == r.h.src then { h with counters := h.counters.upd k (· + 1) } else h
    flights := u.flights ++ [⟨u.nextId, r.h.src, r.g.id, r.b.id, r.c.id, w, r.namedData⟩]
    nextId := u.nextId + 1 }

/-- Nothing that the accesses read is poisoned (21_reliability.md R358). -/
abbrev Clean (r : Env) (u : State) (acc : List Access) : Prop := ∀ x ∈ acc, u.accessPoisoned r.b.id x = false

/-- No earlier access of the hoist is in flight, and no copy owns the range (11_ordering.md R211, R215). -/
abbrev Clear (r : Env) (ranges : List (Int × Int)) : Prop := r.s.accessBlocked r.h.src r.c.id ranges = false

/-- A span of bytes through a window passes its checks (R124): none in the block's segment, runs in memory. -/
inductive Spans (r : Env) (a : AReg) (need : List Nat) (use : PageUse) (align n : Nat) (pos : Int) :
    State → Option Runs → Prop
  | segment : need.all a.has = true → a.accessOk r.b.segSize align n pos = true → a.has permSCR = true →
      Spans r a need use align n pos r.s none
  | memory (u rs) : need.all a.has = true → a.accessOk r.b.segSize align n pos = true → a.has permSCR = false →
      r.g.refused = false → r.s.range (r.who use) r.c use a.rights (a.address pos) n = (.ok rs, u) →
      Spans r a need use align n pos u (some rs)

/-- The work of a hoist that is in flight. -/
abbrev NoWork (r : Env) : Prop := ∀ f ∈ r.s.flights, f.src ≠ r.h.src

/-- What a load, store or line word does once its checks have passed. -/
inductive AccessEffect (r : Env) : Instr → State → Prop
  /-- R173: a load goes in flight; a volatile load of a replica is another matter. -/
  | load (i k t x v u acc) : loadOf r i = some (k, t, x, v) → Passes r .load x u acc → Clean r u acc →
      (v = true → r.b.replicated = false) → AccessEffect r i (launched r k (.load k t acc) u)
  /-- R176: a store goes in flight with the data that its registers hold now. -/
  | store (i x data u acc) : storeOf r i = some (x, data) → Passes r .store x u acc → r.b.replicated = false →
      AccessEffect r i (launched r .w (.store (acc.map fun y => (y, data y.lane)) false) u)
  /-- R180: PIN sets P in the lanes whose line is pinned when all lanes have been tried in order. -/
  | pin (p o n m u acc t) :
      Passes r .load ⟨r.h.areg n.toNat, [permR], some false, true, 1, 1, lanePositions r (r.h.areg n.toNat) (noOffset m) o.toNat⟩
        u acc →
      t = acc.foldl (fun s x => s.pinLine (coreOf r.h.src) r.c x) u →
      AccessEffect r (.pin p o n m) (t.updHoist r.h.src fun h => h.putP p.toNat (r.h.active r.g.id) fun l =>
        acc.any fun x => x.lane == l && t.pinned (x.pa / 64))
  | unpin (o n m u acc) :
      Passes r .load ⟨r.h.areg n.toNat, [permR], some false, true, 1, 1, lanePositions r (r.h.areg n.toNat) (noOffset m) o.toNat⟩
        u acc →
      AccessEffect r (.unpin o n m) { u with pins := u.pins.filter fun q => !acc.any fun x => x.pa / 64 == q.1 }
  /-- R181, with no access of the hoist in flight and no engine still writing on the lines: .inv drops pins and foreign copies
  of the lines. -/
  | cflush (o n m u acc) :
      Passes r .load ⟨r.h.areg n.toNat, [permR], some false, true, 1, 1, lanePositions r (r.h.areg n.toNat) (noOffset m) o.toNat⟩
        u acc →
      Clear (r.at u) (accessRanges acc) → (r.at u).here = true → u.owned ((r.at u).who .load) (accessRuns acc) = false →
      AccessEffect r (.cflush o n m) (if m = 1 ∨ m = 8 then
        { u with
          pins := u.pins.filter fun q => !acc.any fun x => x.pa / 64 == q.1
          migrated := u.migrated.filter fun q => !acc.any fun x => x.pa / 64 == q.1 } else u)
  /-- R183: registers f to f + c − 1, in order, from %xprog on where the group resumes; %xprog then reads zero. -/
  | spillFill (i f c n store a u) :
      (i = .spill f c n ∧ store = true ∨ i = .fill f c n ∧ store = false) → a = r.h.areg n.toNat →
      r.h.groupLanes r.g.id ≠ [] → a.has (if store then permW else permR) = true →
      a.inBounds r.b.segSize (spillAt r a 0) (4 * r.h.width * c.toNat) = true → (a.base.toNat + spillAt r a 0) % 4 = 0 →
      r.s.accessBlocked r.h.src r.c.id (if a.has permSCR then [] else
        [(a.base.toNat + spillAt r a 0, a.base.toNat + spillAt r a 0 + (4 * r.h.width * c.toNat : Nat))]) = false →
      r.b.replicated = false →
      spillRegs a f.toNat store (c.toNat - if r.g.resumed then min c.toNat r.h.regs.xprog.toNat else 0)
        (if r.g.resumed then min c.toNat r.h.regs.xprog.toNat else 0) (r.at r.s) = .through u →
      AccessEffect r i (u.updHoist r.h.src fun h => h.setXprog 0)

/-! ### Copies, barriers and queues -/

/-- No earlier access to a line that a piece of work will write is in flight, and no FRES owns one (R190, 11_ordering.md R215). -/
abbrev OwnsLines (r : Env) (w : Work) : Prop :=
  let rs := r.s.unwritten ⟨r.s.nextId, r.h.src, r.g.id, r.b.id, r.c.id, w, []⟩
  (∀ f ∈ r.s.flights, ∀ x ∈ accessRuns f.work.accesses, ∀ y ∈ rs, shareLine x y = false) ∧ r.s.outsOwn rs = false

/-- A copy may start (R189): its windows' permissions, bounds, holds of other scopes, and fewer than 64 in flight; accesses to its
destination lines have been performed. -/
def CopyMay (r : Env) (j : CopyJob) : Prop :=
  j.src.has permCOPYSRC = true ∧ j.dst.has permCOPYDST = true ∧
    (∀ a, j.bar = some a → a.has permATOM = true ∨ a.has permSCR = true) ∧ j.inBounds r.b.segSize = true ∧
    r.copyScope j = none ∧ (r.s.copiesOf r.h.src).length < 64 ∧ OwnsLines r (.copy j)

/-- A copy of the hoist in flight. -/
def copying (r : Env) (j : CopyJob) : State := r.s.addFlight r.h.src r.g.id r.b.id r.c.id (.copy j)

/-- The words that a queue instruction moves per lane. -/
def elementWords (q : QueueWord) : Nat := q.size / 4

/-- The checks of a queue instruction pass (R203, R205–R207): how the word goes on, and where the queue lies.  `wants` tells the
parts of the queue that the word reaches, from HEAD and TAIL. -/
inductive QueueAt (r : Env) (a : AReg) (q : QueueWord) (need : Bool → List Nat) (use : PageUse)
    (wants : Nat → Nat → List (Nat × Nat)) : Env → QueuePlace → Prop
  | segment (pos : Int) : pos = (a.cursor.toNat : Int) + q.off → q.valid true = true → a.has permSCR = true →
      (need true).all a.has = true → a.accessOk r.b.segSize 64 q.area pos = true → Clear r [] →
      QueueAt r a q need use wants r (.scratch r.b.id ((a.base.toNat : Int) + pos).toNat)
  | memory (pos : Int) (p rs u) : pos = (a.cursor.toNat : Int) + q.off → q.valid false = true → a.has permSCR = false →
      (need false).all a.has = true → a.accessOk r.b.segSize 64 q.area pos = true → Clear r (a.ranges pos q.area) →
      p = .memory (r.who use) r.c (a.address pos) a.rights → r.queueReached p use wants = (.ok rs, u) →
      r.g.refused = false → QueueAt r a q need use wants (r.at u) p

/-- The permissions that QPUSH and QPOP need (R206). -/
def queueNeeds (scr : Bool) : List Nat := if scr then [permW, permR] else [permW, permR, permATOM]

/-- What copies, barriers, queues and allotments do once their checks have passed, in a hoist that is not replicated. -/
inductive UnitEffect (r : Env) : Instr → State → Prop
  /-- R185–R192: the descriptor's 256 bytes give the copy. -/
  | cpy (d src c q b a pos u rs bytes j) : a = r.h.areg q.toNat → pos = (a.cursor.toNat : Int) + (r.sval b).toInt →
      Clear r (a.ranges pos 256) → Spans r a [permR] .load 64 256 pos u rs → r.spanBytes a 256 pos rs u = some bytes →
      copyHeaderBad bytes = false →
      j = copyOf bytes ((r.at u).h.areg src.toNat) ((r.at u).h.areg d.toNat) ((r.at u).h.areg c.toNat) (a.address pos)
        (r.at u).h.privileged →
      j.total * 2 ^ j.esz ≤ 2 ^ 36 → CopyMay (r.at u) j → (r.at u).here = true → r.b.replicated = false →
      UnitEffect r (.cpy d src c q b) (copying (r.at u) j)
  /-- R191. -/
  | cpys (d src a b j) : (r.sval2 a b).toNat < 32 →
      j = copyRun (r.sval a).toNat (r.h.areg src.toNat) (r.h.areg d.toNat)
        (if 16 ≤ (r.sval2 a b).toNat then some (r.h.areg ((r.sval2 a b).toNat % 16)) else none) r.w r.h.privileged →
      CopyMay r j → r.b.replicated = false → UnitEffect r (.cpys d src a b) (copying r j)
  /-- R192: the open set becomes the batch numbered %batch + 1. -/
  | batch : UnitEffect r .batch ((r.s.closeBatch r.h.src (r.h.regs.batch + 1).toNat).updHoist r.h.src fun h =>
      { h with regs := { h.regs with batch := r.h.regs.batch + 1 } })
  /-- R193: no copy of a covered batch is in flight or has failed. -/
  | waitb (a) : (∀ x ∈ r.h.fails, coversBatch (r.sval a).toNat x.batch = false) →
      (∀ f ∈ r.s.flights, coveredCopy r.h.src (r.sval a).toNat f = false) → UnitEffect r (.waitb a) r.s
  /-- R197: the phase is read, and the group's lanes arrive. -/
  | bara (d a b t) : (r.sval a).toNat ≤ 16 → fpxPending r.h.regs.fpx = false → r.h.fails = [] → NoWork r →
      Clear r [] → r.b.replicated = false → (r.b.bar (r.sval a).toNat).arrived &&& r.arrivalBits = 0 →
      (r.s.openPhase r.b (r.sval a).toNat = some t ∧ (r.arrivalBits = 0 ∨ t = r.sval2 a b) ∨
        r.s.openPhase r.b (r.sval a).toNat = none ∧ t = r.sval2 a b) →
      UnitEffect r (.bara d a b)
        (r.arrive (r.sval a).toNat t (r.s.putHoist (r.h.writeS d (r.b.bar (r.sval a).toNat).phase)))
  /-- R198: the group's lanes have not arrived in an open phase. -/
  | barw (a) : (r.sval a).toNat ≤ 16 → fpxPending r.h.regs.fpx = false → r.h.fails = [] → NoWork r →
      (r.b.bar (r.sval a).toNat).arrived &&& r.arrivalBits = 0 → UnitEffect r (.barw a) r.s
  /-- R200. -/
  | bcarr (d a b x u rs bytes) : x = r.h.areg a.toNat → Clear r (x.ranges x.cursor.toNat 16) →
      Spans r x (if x.has permATOM then [permATOM] else [permSCR, permW]) .atomic 16 16 x.cursor.toNat u rs →
      r.spanBytes x 16 x.cursor.toNat rs u = some bytes → (byteBarOf bytes).expb + (r.sval b).toNat < 2 ^ 48 →
      r.b.replicated = false →
      UnitEffect r (.bcarr d a b)
        ((r.writeSpan x x.cursor.toNat rs
            ((byteBarOf bytes).arm (r.sval b).toNat).bytes u).updHoist
          r.h.src fun h => h.writeS d (BitVec.ofNat 32 (byteBarOf bytes).phase))
  /-- R202: the phase has passed. -/
  | bcwait (a b x u rs bytes) : x = r.h.areg a.toNat → Clear r (x.ranges x.cursor.toNat 16) →
      Spans r x [permR] .load 16 16 x.cursor.toNat u rs → (r.at u).h.fails = [] →
      (r.at u).spanBytes x 16 x.cursor.toNat rs (r.at u).s = some bytes →
      phasePassed (byteBarOf bytes).phase (r.sval b).toNat = true →
      UnitEffect r (.bcwait a b) (u.unregister r.h.src r.g.id)
  /-- R206, R207: QPUSH appends the lanes' elements in lane order, as many as the ring has room for. -/
  | qpush (f m n b q e p k t) : q = queueWord (r.h.spair b.toNat) → f.toNat + elementWords q ≤ r.vLimit →
      QueueAt r (r.h.areg n.toNat) q queueNeeds .atomic (fun head tail =>
        q.parts tail (min (r.h.activeLanes r.g.id).length (q.depth - queueCount head tail))) e p →
      e.b.replicated = false →
      e.s.queuePush p q ((e.h.activeLanes e.g.id).map (e.h.vbytes f.toNat (elementWords q) q.size)) = .ok (k, t) →
      (m = 1 → k ≠ 0) →
      UnitEffect r (.qpush f m n b) ((t.unregister e.h.src e.g.id).updHoist e.h.src fun h =>
        (h.served f.toNat (e.h.activeLanes e.g.id) k (elementWords q) []).setSsig e.h.regs.ssig)
  /-- QPOP takes elements for the lanes in lane order, as many as the ring holds. -/
  | qpop (f m n b q e p xs t) : q = queueWord (r.h.spair b.toNat) → f.toNat + elementWords q ≤ r.vLimit →
      QueueAt r (r.h.areg n.toNat) q queueNeeds .atomic (fun head tail =>
        q.parts head (min (r.h.activeLanes r.g.id).length (queueCount head tail))) e p →
      e.b.replicated = false → e.s.queuePop p q (e.h.activeLanes e.g.id).length = .ok (xs, t) → (m = 1 → xs ≠ []) →
      e.s.spoiledLanes p q (e.h.activeLanes e.g.id) xs.length = [] →
      UnitEffect r (.qpop f m n b) ((t.unregister e.h.src e.g.id).updHoist e.h.src fun h =>
        (h.served f.toNat (e.h.activeLanes e.g.id) xs.length (elementWords q)
          (xs.map (elemWords (elementWords q)))).setSsig e.h.regs.ssig)
  /-- R205: the 64 header bytes become zero. -/
  | qcfg (a b x q e p t ts) : x = r.h.areg a.toNat → q = queueWord (r.h.spair b.toNat) →
      QueueAt r x q (fun _ => [permW]) .store (fun _ _ => [(0, 64)]) e p →
      Spans e x [permW] .store 64 64 ((x.cursor.toNat : Int) + q.off) t ts → e.b.replicated = false →
      UnitEffect r (.qcfg a b) (e.writeSpan x ((x.cursor.toNat : Int) + q.off) ts (List.replicate 64 0) t)
  /-- R208: the block has its full allotment, or takes it. -/
  | acqFull : r.b.full = true → UnitEffect r .acq r.s
  | acqTakes : r.b.full = false →
      (r.b.reserved = true ∨ needFits r.b.core r.b.ctx r.b.entry r.b.pword
        ((r.s.blocksOn r.b.core).filter fun b => b.id != r.b.id) r.b.fullNeed = true) →
      UnitEffect r .acq (r.s.grantFull r.b.id)
  /-- R209: the allotment of a region shrinks, and its room is free. -/
  | rela (x a n) : r.b.full = true → n = (if x = 0 then max 4 ((((r.sval a).toNat + 3) / 4) * 4) else (r.sval a).toNat) →
      n ≤ (match x.toNat with | 0 => r.b.vcnt | 1 => r.b.segSize | _ => r.b.accSize) →
      (∀ f ∈ r.s.flights, relaWaits r.b.id x.toNat f = false) →
      UnitEffect r (.rela x a) ((r.s.shrink r.b x.toNat n).roomChanged r.b.core)

/-! ### Atomics, releases and waits on memory -/

/-- The description and the access of an atomic word, with its compare value and operand by lane (R229–R234). -/
def atomicOf (r : Env) (i : Instr) : Option (AtomUse × Access' × (Nat → Nat) × (Nat → Nat)) :=
  match i with
  | .atom sc d q x o n m =>
    let a := r.h.areg n.toNat
    let k := atomBytes m.toNat
    some (⟨1, false, m.toNat, k, sc.toNat, q == 1, some (.v d.toNat (if k = 8 then 1 else 0))⟩,
      ⟨a, [permATOM], none, true, k, k, lanePositions r a (x == 1) o.toNat⟩, fun _ => 0,
      fun l => if k = 8 then (r.h.vpair d.toNat l).toNat else (r.h.vword d.toNat l).toNat)
  | .red sc d q x o n m =>
    let a := r.h.areg n.toNat
    let k := atomBytes m.toNat
    some (⟨2, false, m.toNat, k, sc.toNat, q == 1, none⟩,
      ⟨a, [permATOM], none, true, k, k, lanePositions r a (x == 1) o.toNat⟩, fun _ => 0,
      fun l => if k = 8 then (r.h.vpair d.toNat l).toNat else (r.h.vword d.toNat l).toNat)
  | .acas sc d q x o n m =>
    let a := r.h.areg n.toNat
    let k := if m = 1 then 8 else 4
    some (⟨3, true, m.toNat, k, sc.toNat, q == 1, some (.v d.toNat (if k = 8 then 1 else 0))⟩,
      ⟨a, [permATOM], none, true, k, k, lanePositions r a (x == 1) o.toNat⟩,
      fun l => if m = 1 then (r.h.vpair d.toNat l).toNat else (r.h.vword d.toNat l).toNat,
      fun l => if m = 1 then (r.h.vpair (d.toNat + 2) l).toNat else (r.h.vword (d.toNat + 1) l).toNat)
  | .satom sc d q x o n m =>
    let a := r.h.areg n.toNat
    let k := if m = 13 then 4 else atomBytes m.toNat
    let v (n : Nat) : Nat := if k = 8 then (r.h.spair n).toNat else (r.h.sreg n).toNat
    some (⟨4, m == 13 || m == 15, m.toNat, k, sc.toNat, q == 1, some (.s d.toNat (if k = 8 then 1 else 0))⟩,
      ⟨a, [permATOM], none, false, k, k, scalarPosition r a (x == 1) (r.h.sreg o.toNat)⟩, fun _ => v d.toNat,
      fun _ => v (if m = 13 ∨ m = 15 then d.toNat + k / 4 else d.toNat))
  | _ => none

/-- The word in which a release at a scope has ended narrower holds (R218, R223). -/
def released (r : Env) (u : State) (scope : Nat) (acc : List Access) : Env :=
  let e := r.at u
  e.at (e.s.endHolds e.b (e.s.releaseScope scope acc))

/-- The word whose lines have been taken by its scope, lane by lane (R217, R218). -/
def taken (e : Env) (scope : Nat) (acc : List Access) : Env := acc.foldl (fun e x => e.scopeLine scope x) e

/-- A new hold of a block or span shuts out nothing that is in flight on its line (R215, R217). -/
abbrev Unshut (e : Env) (scope : Nat) (acc : List Access) : Prop :=
  e.here = true ∧
    (scope < 2 → ∀ x ∈ acc, e.mayHold (scope == 1) x = true → ∀ f ∈ e.s.flights, e.holdWaits (x.pa / 64) f = false)

/-- A piece of work stands in the request queues of clusters' service hoists (R235). -/
def queued (cs : List Nat) (t : State) (id : Nat) : State := { t with svcq := t.svcq ++ cs.map fun c => (c, id) }

/-- A release at `.sys` finds the hoist's writes performed and acknowledged (R223). -/
abbrev Released (e : Env) (scope : Nat) : Prop :=
  scope = 3 → Clear e [] ∧ e.here = true ∧ e.h.posted = 0 ∧ e.h.postedHost = 0

/-- What atomics, releases, acquires and waits on memory do once their checks have passed, in a hoist that is not
replicated. -/
inductive OrderEffect (r : Env) : Instr → State → Prop
  /-- R230–R234: the operation goes in flight; requests of span and device scope queue at the service hoists (R235). -/
  | atomic (i u x cmp op v acc e home cs) : atomicOf r i = some (u, x, cmp, op) →
      (u.ordered = true → x.window.has permSCR = false) → Passes r .atomic x v acc → acc ≠ [] → r.b.replicated = false →
      (r.at v).b.replicated = false → Released (r.at v) ((r.at v).s.releaseScope u.scope acc) →
      Unshut (released r v u.scope acc) u.scope acc → e = taken (released r v u.scope acc) u.scope acc → home = (if u.ordered then e.sequencing x.window else 0) →
      (∀ f ∈ e.s.flights, e.otherSequence home f = true → u.ordered = false) →
      cs = e.serviceClusters u.scope (acc.map fun y => ⟨y, cmp y.lane, op y.lane⟩) → e.s.serviceFull cs = false →
      e.here = true → (∀ y ∈ acc, e.s.accessPoisoned e.b.id y = false) →
      OrderEffect r i (queued cs (launched e (if u.ret.isSome then .g else .w)
        (.atomic u.cas u.m u.ret (acc.map fun y => ⟨y, cmp y.lane, op y.lane⟩) u.scope u.ordered home) e.s) e.s.nextId)
  /-- R236: a store that releases. -/
  | strel (sc d x o n m k a v acc e) : k = (if m = 1 then 8 else 4) → a = r.h.areg n.toNat →
      Passes r .store ⟨a, [permW], none, true, k, k, lanePositions r a (x == 1) o.toNat⟩ v acc →
      (r.at v).b.replicated = false → Released (r.at v) ((r.at v).s.releaseScope sc.toNat acc) → (r.at v).here = true →
      Unshut (released r v sc.toNat acc) sc.toNat acc → e = taken (released r v sc.toNat acc) sc.toNat acc →
      OrderEffect r (.strel sc d x o n m)
        (launched e .w (.store (acc.map fun y => (y, r.h.vbytes d.toNat (k / 4) k y.lane)) (sc == 2)) e.s)
  /-- R236: a load that acquires. -/
  | ldacq (sc d x o n m k a v acc e) : k = (if m = 1 then 8 else 4) → a = r.h.areg n.toNat →
      Passes r .load ⟨a, [permR], none, true, k, k, lanePositions r a (x == 1) o.toNat⟩ v acc →
      Unshut (r.at v) sc.toNat acc → e = taken (r.at v) sc.toNat acc → (∀ y ∈ acc, e.s.accessPoisoned e.b.id y = false) →
      OrderEffect r (.ldacq sc d x o n m)
        (launched e .g (.load .g (.v d.toNat (if m = 1 then 1 else 0)) acc) e.s)
  /-- R237: an acquire fence; a releasing fence with the hoist's writes performed. -/
  | fenceAcq (sc) : fpxPending r.h.regs.fpx = false → NoWork r → OrderEffect r (.fence 1 sc) r.s
  | fenceRel (k sc) : k ≠ 1 → fpxPending r.h.regs.fpx = false → NoWork r → r.b.replicated = false → Clear r [] →
      Released r sc.toNat → OrderEffect r (.fence k sc) (r.s.endHolds r.b sc.toNat)
  /-- R238: every lane's condition holds: the words read come to the registers. -/
  | mwait (sc d x o n z c k a v acc e) : k = (if z = 1 then 8 else 4) → a = r.h.areg n.toNat →
      Passes r .mwait ⟨a, [permATOM], none, true, k, k, lanePositions r a (x == 1) o.toNat⟩ v acc →
      (r.at v).b.replicated = false → Clear (r.at v) (accessRanges acc) → (r.at v).here = true →
      v.owned ((r.at v).who .load) (accessRuns acc) = false →
      Unshut (r.at v) sc.toNat acc → e = taken (r.at v) sc.toNat acc → e.here = true → e.b.replicated = false →
      (∀ y ∈ acc, e.s.accessPoisoned e.b.id y = false) →
      (∀ y ∈ acc, compareCond c.toNat k (e.h.voperand d.toNat k y.lane) (leNat (e.s.readAccess e.h.src e.b.id y)) = true) →
      OrderEffect r (.mwait sc d x o n z c)
        ((e.s.unregister e.h.src e.g.id).updHoist e.h.src fun h => h.deliver (.v d.toNat z.toNat)
          (acc.map fun y => (y.lane, e.s.readAccess e.h.src e.b.id y)))

end Sys2Proof.Claims
end

