-- ==== Sys2Proof/Claims/Engines.lean ====
section
/-!
DEFINITION. What the manual gives cube, query, layer and system words as effects, once their checks have passed
(15_cube.md R276–R299, 23_rendering.md R374–R403, 17_scheduling.md R308, R331, 19_faults.md R337–R352, 27_host.md R434).
-/

namespace Sys2Proof.Claims

open Sys2Proof.Machine

/-! ### The cube -/

/-- The effect of a cube word in a block. -/
inductive CubeEffect (r : Env) : Instr → State → Prop
  /-- R280, R290: CUBECFG is written while the block holds no slot. -/
  | tcfg (a) : (r.sval a).toNat / 2 ^ 9 = 0 → (r.sval a).toNat / 2 ^ 6 % 4 = 0 → r.b.slots = [] →
      CubeEffect r (.tcfg a) (r.s.updBlock r.b.id fun b => { b with cubecfg := r.sval a })
  /-- R291: a slot held already; a free slot of the core; none. -/
  | slclHeld (d a n) : (r.sval a).toNat = n → n < 128 → (∀ f ∈ r.s.flights, releasing r.b.id n f = false) →
      (r.b.slot? n).isSome = true → CubeEffect r (.slcl d a) (r.s.putHoist (r.h.writeS d 1))
  | slclTakes (d a n p) : (r.sval a).toNat = n → n < 128 → (∀ f ∈ r.s.flights, releasing r.b.id n f = false) →
      r.b.slot? n = none → r.s.freeSlot r.b.core = some p →
      CubeEffect r (.slcl d a) ((r.s.putHoist (r.h.writeS d 1)).updBlock r.b.id fun b =>
        { b with slots := b.slots ++ [⟨n, p, false, []⟩] })
  | slclNone (d a n) : (r.sval a).toNat = n → n < 128 → (∀ f ∈ r.s.flights, releasing r.b.id n f = false) →
      r.b.slot? n = none → r.s.freeSlot r.b.core = none → CubeEffect r (.slcl d a) (r.s.putHoist (r.h.writeS d 0))
  /-- R292: nothing to release; released at once; released after the operations that name the slot. -/
  | slrlNone (a n) : (r.sval a).toNat = n → n < 128 → r.claimed n = false → CubeEffect r (.slrl a) r.s
  | slrlNow (a n) : (r.sval a).toNat = n → n < 128 → r.claimed n = true → (∀ f ∈ r.s.flights, onSlot r.b.id n f = false) →
      CubeEffect r (.slrl a) (r.s.updBlock r.b.id fun b => { b with slots := b.slots.filter (·.local_ != n) })
  | slrlLater (a n f) : (r.sval a).toNat = n → n < 128 → r.claimed n = true → f ∈ r.s.flights → onSlot r.b.id n f = true →
      CubeEffect r (.slrl a) (r.s.addFlight r.h.src r.g.id r.b.id r.c.id (.slotRelease n))
  /-- R293: 2 KiB of zeros. -/
  | slz (a n) : (r.sval a).toNat = n → n < 128 → r.claimed n = true → (∀ f ∈ r.s.flights, onSlot r.b.id n f = false) →
      CubeEffect r (.slz a) (r.s.updBlock r.b.id fun b => b.updSlot n fun x => { x with data := [] })
  /-- R294: the fill and the store of a claimed slot go in flight. -/
  | slld (sl n b slot pitch) : slotPitch (r.sval sl) = some (slot, pitch) → r.claimed slot = true →
      (r.h.areg n.toNat).has permR = true → linesOk (r.h.areg n.toNat) r.b.segSize (r.sval2 sl b).toInt pitch = true →
      CubeEffect r (.slld sl n b)
        ((r.s.updBlock r.b.id fun b => b.updSlot slot fun x => { x with filling := true }).addFlight r.h.src r.g.id r.b.id
          r.c.id (.fill slot (r.h.areg n.toNat) (r.sval2 sl b).toInt pitch r.wordPc))
  | slst (sl n b slot pitch) : slotPitch (r.sval sl) = some (slot, pitch) → r.claimed slot = true →
      (r.b.replicated = true → (r.h.areg n.toNat).has permSCR = true) →
      (r.h.areg n.toNat).has permW = true → linesOk (r.h.areg n.toNat) r.b.segSize (r.sval2 sl b).toInt pitch = true →
      OwnsLines r (.slotStore slot (r.h.areg n.toNat) (r.sval2 sl b).toInt pitch r.wordPc) →
      CubeEffect r (.slst sl n b)
        (launched r .w (.slotStore slot (r.h.areg n.toNat) (r.sval2 sl b).toInt pitch r.wordPc) r.s)
  /-- R282–R287, R295, R299, R300: a legal pass is posted, with the block's own table back in the engine. -/
  | mxc (t p f w off block kp u) : w = passWord (r.sval2 t p) → off = (r.svalAfter [t.toNat, p.toNat] f).toNat →
      w.resOk = true → r.claimed w.as = true → r.claimed w.bs = true → (w.mode = 0 ∨ r.claimed w.cs = true) →
      (r.sval t).toNat < r.b.tileCount → off % 64 = 0 → off + 64 ≤ r.b.segSize → Clear r [] →
      r.s.accessPoisoned r.b.id ⟨0, true, 0, off, 64⟩ = false →
      block = r.s.readAccess r.h.src r.b.id ⟨0, true, 0, off, 64⟩ →
      kp = (if r.b.cubecfg.getLsbD 8 then 1 else 2) * (cubeTk (fmtDesc block 0).fmt).getD 0 →
      formatsLegal block w kp r.claimed = true →
      (∀ k, k < 2 → (fmtDesc block k).scl = true → (fmtDesc block k).soff + scaleBytes (fmtDesc block k) kp ≤ r.b.segSize) →
      (r.s.reservations (clusterOf r.h.src)).length < 64 →
      u = r.s.reloadTable r.b.id →
      CubeEffect r (.mxc t p f) (launched r .x (.pass (r.passJob (r.sval t).toNat w block kp u)) u)
  /-- R296. -/
  | mxp (a) : (r.sval a).toNat < r.b.tileCount →
      CubeEffect r (.mxp a) (r.s.addFlight r.h.src r.g.id r.b.id r.c.id (.promote (r.sval a).toNat))
  /-- R297: lane l moves row l, or row l + 16 where HALF is set at width 16. -/
  | mxrd (d a b c n j0 half) : c = (r.sval2 a b).toNat → n = c / 2 ^ 8 % 4 + 1 → j0 = c % 32 → half = c / 2 ^ 5 % 2 →
      c < 2 ^ 10 → c / 2 ^ 6 % 4 = 0 → j0 + n ≤ 32 → (half = 1 → r.h.width = 16) → d.toNat + n ≤ r.vLimit →
      (r.sval a).toNat < r.b.tileCount →
      CubeEffect r (.mxrd d a b) (launched r .x (.tileRead (r.sval a).toNat d.toNat n j0
        (((r.h.activeLanes r.g.id).filter (· < 32)).map fun l => (l, l + 16 * half))) r.s)
  | mxwr (d a b c n j0 half) : c = (r.sval2 a b).toNat → n = c / 2 ^ 8 % 4 + 1 → j0 = c % 32 → half = c / 2 ^ 5 % 2 →
      c < 2 ^ 10 → c / 2 ^ 6 % 4 = 0 → j0 + n ≤ 32 → (half = 1 → r.h.width = 16) → d.toNat + n ≤ r.vLimit →
      (r.sval a).toNat < r.b.tileCount →
      CubeEffect r (.mxwr d a b) (r.s.addFlight r.h.src r.g.id r.b.id r.c.id (.tileWrite (r.sval a).toNat j0
        (((r.h.activeLanes r.g.id).filter (· < 32)).map fun l =>
          (l + 16 * half, (List.range n).map fun i => r.h.vword (d.toNat + i) l))))
  /-- R299: the table of the cluster's engine carries the context's tag, and the block keeps its copy. -/
  | cbld (n b a pos u rs bytes) : a = r.h.areg n.toNat → pos = (a.cursor.toNat : Int) + (r.sval b).toInt →
      Clear r (a.ranges pos 1024) → Spans r a [permR] .load 64 1024 pos u rs → r.spanBytes a 1024 pos rs u = some bytes →
      CubeEffect r (.cbld n b) ((u.loadTable (clusterOf r.h.src) r.c.id (Memory.writeBytes [] 0 bytes)).updBlock r.b.id
        fun b => { b with table := some (Memory.writeBytes [] 0 bytes), tableLoaded := true })

/-! ### Queries and layers -/

/-- A window that a query may read (R375, R381): R without SCR. -/
abbrev bvhWindow (a : AReg) : Prop := a.has permR = true ∧ a.has permSCR = false

/-- The checks of R397 pass: the word goes on in `e` with the target and the pool descriptor. -/
inductive Layers (r : Env) (v : Nat) (a : AReg) (out : Option AReg) : Env → Target3 → List Byte → Prop
  | mk (u rs desc pool v' t) : a.has permR = true → a.has permSCR = false →
      (∀ o, out = some o → o.has permW = true ∧ o.has permSCR = false) →
      a.accessOk r.b.segSize 256 64 a.cursor.toNat = true → Clear r (a.ranges a.cursor.toNat 64) →
      Spans r a [permR] .load 256 64 a.cursor.toNat u rs → r.spanBytes a 64 a.cursor.toNat rs u = some desc →
      (r.at u).vget .load a.rights (field8 desc 16) 64 u = .ok (pool, v') →
      t = targetOf desc (field8 pool 0) a.rights → descValid desc = true → descValid pool = true →
      (r.at u).pixelsOutside v t out = [] → firstFault true ((r.at u).headReaches v t u) = none →
      (∀ x ∈ (r.at u).headReaches v t u, x.reach ≠ .stall) → (r.at u).g.refused = false →
      Layers r v a out ((r.at u).at v') t pool

/-- A window that FCFG may use (R396): R and W without SCR. -/
abbrev layerWindow (a : AReg) : Prop := a.has permR = true ∧ a.has permW = true ∧ a.has permSCR = false

/-- FCFG reads the 64 bytes of a descriptor, which no hold of another scope and no engine keeps from it (R396, 11_ordering.md R215,
R219): the word goes on in an environment, with the bytes. -/
inductive Described (r : Env) (va : VAddr) : Env → List Byte → Prop
  | mk (pa leaf k entry u) : r.s.translate (coreOf r.h.src) r.c va.toNat = (.ok pa leaf k entry, u) →
      u.outsideHold (r.who .load) (pa / 64) = none → u.owned (r.who .load) [(pa, 64)] = false → u.poisoned pa 64 = false → Described r va (r.at u) (u.loadRuns r.h.src r.b.id [(pa, 64)])

/-- Every range that FCFG reaches is translated and its pages allow it (R396). -/
inductive Reached (r : Env) (xs : List (PageUse × Rights × VAddr × Nat)) : Env → Prop
  | mk (us u) : r.rangeUnits xs = (us, u) → unitsFault us = none → r.g.refused = false → Reached r xs (r.at u)

/-- The hoist is a member of its core's gate; its span is no longer to be saved by a pre-emption (R390, 17_scheduling.md R329). -/
def gated (r : Env) : State :=
  if r.h.gate = true then r.s
  else { r.s.updHoist r.h.src fun h => { h with gate := true } with
    blocks := r.s.blocks.map fun b => if b.span == r.b.span then { b with leaving := false, runsOut := b.runsOut || b.leaving } else b }

/-- The address of a lane's output of FRES (R401). -/
def outputAt (e : Env) (v : Nat) (o : AReg) (t : Target3) (l : Nat) : VAddr :=
  o.address (o.position (8 * ((e.pixel v l).2 * t.width + (e.pixel v l).1) : Nat) 0)

/-- The effect of a query or layer word. -/
inductive QueryEffect (r : Env) : Instr → State → Prop
  /-- R381: each live active lane's ray, eight registers from vA up. -/
  | trace (d a b c) : c = (r.sval b).toNat → c < 2 ^ 7 → c / 2 ^ 4 % 4 < 2 → bvhWindow (r.h.areg (c % 16)) →
      QueryEffect r (.trace d a b) (launched r .x (.trace d.toNat (c / 2 ^ 4 % 4) (c / 2 ^ 6 % 2 == 1) (r.h.areg (c % 16))
        ((r.h.activeLanes r.g.id).map fun l => (l, (List.range 8).map fun i => r.h.vword (a.toNat + i) l))) r.s)
  /-- R384. -/
  | hitrd (d a b c) : c = (r.sval b).toNat → c < 2 ^ 7 → c / 2 ^ 4 % 8 < 5 →
      d.toNat + attrCount (c / 2 ^ 4 % 8) ≤ r.vLimit → bvhWindow (r.h.areg (c % 16)) →
      QueryEffect r (.hitrd d a b) (launched r .x (.hitrd d.toNat (c / 2 ^ 4 % 8) (r.h.areg (c % 16))
        ((r.h.activeLanes r.g.id).map fun l => (l, (r.h.vword a.toNat l).toNat))) r.s)
  /-- R387, R390: the beam goes in flight and its hoist joins the gate. -/
  | beam (d a b c bvh dw qw q desc) : r.g.beam = none → c = (r.sval b).toNat → c < 2 ^ 12 → bvh = r.h.areg (c % 16) →
      dw = r.h.areg (c / 2 ^ 4 % 16) → qw = r.h.areg (c / 2 ^ 8 % 16) → q = queueWord (r.h.spair a.toNat) →
      bvhWindow bvh → dw.has permR = true → dw.has permSCR = true → qw.has permR = true → qw.has permW = true →
      qw.has permSCR = true → q.valid true = true → q.esz = 3 →
      dw.accessOk r.b.segSize 64 64 dw.cursor.toNat = true →
      qw.accessOk r.b.segSize 64 q.area ((qw.cursor.toNat : Int) + q.off) = true → Clear r [] →
      r.spanBytes dw 64 dw.cursor.toNat none r.s = some desc → beamLegal desc = true →
      (r.s.gateClosed (coreOf r.h.src) r.c.id = true → r.h.gate = true) →
      QueryEffect r (.beam d a b) (launched r .x (.beam ⟨desc, bvh, qw, r.h.spair a.toNat, d.toNat, none, 0, 0⟩) (gated r))
  /-- A beam whose descriptor was read before its gate closed, when the gate lets it through. -/
  | beamWaited (d a b job) : r.g.beam = some job → (r.s.gateClosed (coreOf r.h.src) r.c.id = true → r.h.gate = true) →
      QueryEffect r (.beam d a b) (launched r .x (.beam job) (gated r))
  /-- R398–R403: every step of the lanes from %xprog on is made; %xprog then reads zero. -/
  | fins (v n e t pool k m ns rest s1 s2 u w) : Layers r v.toNat (r.h.areg n.toNat) none e t pool →
      k = min (e.h.activeLanes e.g.id).length e.firstStep →
      m = (((e.h.activeLanes e.g.id).drop k).filter fun l => !nan32 (e.h.vword (v.toNat + 1) l)).length →
      m ≤ (poolFree pool).2 → e.freeList t m (poolFree pool).1 e.s = .ok (ns, rest, s1) →
      e.commitStep [freeWrite t rest ((poolFree pool).2 - m)] s1 = .ok s2 →
      e.finsSteps v.toNat t ((e.h.activeLanes e.g.id).drop k) k ns s2 = (none, w, u) →
      QueryEffect r (.fins v n) (e.progress 0 u)
  /-- FRES owns the lines of its outputs that it has still to write from its start on (11_ordering.md R215). -/
  | fres (v o n e t pool k u) : Layers r.disown v.toNat (r.h.areg n.toNat) (some (r.h.areg o.toNat)) e t pool → e.here = true →
      Clear e ((e.h.activeLanes e.g.id).map fun l =>
        (((outputAt e v.toNat (r.h.areg o.toNat) t l).toNat : Int), ((outputAt e v.toNat (r.h.areg o.toNat) t l).toNat : Int) + 8)) →
      k = min (e.h.activeLanes e.g.id).length e.firstStep →
      e.s.owned (e.who .store) ((((e.h.activeLanes e.g.id).map (outputAt e v.toNat (r.h.areg o.toNat) t)).drop k).filterMap fun a =>
        (e.s.physical (coreOf e.h.src) e.c a).map fun pa => (pa, 8)) = false →
      runSteps (fun l s => e.fresStep t (outputAt e v.toNat (r.h.areg o.toNat) t l) (r.h.areg o.toNat).rights
          (e.pixel v.toNat l).1 (e.pixel v.toNat l).2
          (natLe 4 (e.h.vword (v.toNat + 1) l).toNat ++ natLe 4 (e.h.vword (v.toNat + 2) l).toNat) s)
        ((e.h.activeLanes e.g.id).drop k) k e.s = (none, u) →
      QueryEffect r (.fres v o n) (e.progress 0 u)
  | fclr (v n e t pool k u) : Layers r v.toNat (r.h.areg n.toNat) none e t pool →
      k = min (e.h.activeLanes e.g.id).length e.firstStep →
      runSteps (fun l s => e.fclrStep t (e.pixel v.toNat l).1 (e.pixel v.toNat l).2 s)
        ((e.h.activeLanes e.g.id).drop k) k e.s = (none, u) →
      QueryEffect r (.fclr v n) (e.progress 0 u)
  /-- R396 .pool: an empty pool whose page map is the second window; the reserved bytes of its descriptor become zero. -/
  | fcfgPool (m second first a b ra rb maxp e' t) : m.toNat = 0 → a = r.h.areg first.toNat →
      b = r.h.areg second.toNat → layerWindow a → layerWindow b →
      a.accessOk r.b.segSize 256 64 a.cursor.toNat = true → ra = a.address a.cursor.toNat → rb = b.address b.cursor.toNat →
      rb.toNat % 256 = 0 → Clear r [] → r.here = true → maxp = min 65536 ((b.extent.toNat - b.cursor.toNat) / 8) →
      Reached r [(.store, a.rights, ra, 64), (.store, b.rights, rb, 8 * maxp)] e' → e'.b.replicated = false →
      e'.vputAll [(a.rights, ra, natLe 8 (rb.toNat / 256) ++ natLe 4 0 ++ natLe 4 maxp ++ List.replicate 47 0 ++ [0x80#8])]
        e'.s = .done t →
      QueryEffect r (.fcfg m second first) t
  /-- R396 .grow: one more page of nodes, all of them free but node 0. -/
  | fcfgGrow (m second first a b ra rb e desc e' np one t) : m.toNat = 1 → a = r.h.areg first.toNat →
      b = r.h.areg second.toNat → layerWindow a → layerWindow b →
      a.accessOk r.b.segSize 256 64 a.cursor.toNat = true → ra = a.address a.cursor.toNat → rb = b.address b.cursor.toNat →
      rb.toNat % 4096 = 0 → 4096 ≤ b.extent.toNat - b.cursor.toNat → Clear r [] → Described r ra e desc →
      np = leNat (segment desc 8 4) → one = (if np = 0 then 1 else 0) →
      Reached e [(.store, a.rights, ra, 64), (.store, a.rights, field8 desc 0 + BitVec.ofNat 72 (8 * np), 8),
        (.store, b.rights, rb, 4096)] e' →
      descValid desc = true → np < leNat (segment desc 12 4) → e'.b.replicated = false →
      e'.vputAll [(a.rights, field8 desc 0 + BitVec.ofNat 72 (8 * np), natLe 8 (rb.toNat / 4096)),
        (b.rights, rb, pageLinks np (poolFree desc).1), (a.rights, ra + 8, natLe 4 (np + 1)),
        (a.rights, ra + 16, natLe 4 (256 * np + one) ++ natLe 4 ((poolFree desc).2 + 256 - one))] e'.s = .done t →
      QueryEffect r (.fcfg m second first) t
  /-- R396 .target: the head words become zero and the descriptor valid. -/
  | fcfgTarget (m second first a ra e desc e' e'' pool w h t) : m.toNat = 2 → a = r.h.areg first.toNat → layerWindow a →
      a.accessOk r.b.segSize 256 64 a.cursor.toNat = true → ra = a.address a.cursor.toNat → Clear r [] →
      Described r ra e desc → w = leNat (segment desc 8 2) → h = leNat (segment desc 10 2) →
      Reached e [(.store, a.rights, ra, 64), (.store, a.rights, field8 desc 0, 4 * w * h),
        (.load, a.rights, field8 desc 16, 64)] e' →
      Described e' (field8 desc 16) e'' pool → descValid desc = false →
      2 ≤ nodeByte desc 12 % 16 → nodeByte desc 12 < 64 → 1 ≤ w → w ≤ 16384 → 1 ≤ h → h ≤ 16384 →
      zeroBytes desc 13 3 = true → zeroBytes desc 24 39 = true → nodeByte desc 63 % 128 = 0 → descValid pool = true →
      e''.b.replicated = false →
      e''.vputAll [(a.rights, field8 desc 0, natLe (4 * w * h) 0), (a.rights, ra + 63, [0x80#8])] e''.s = .done t →
      QueryEffect r (.fcfg m second first) t

/-! ### System words -/

/-- A named range of a context's control registers that can be written while it is active: number, bit position and width of
the descriptor field, and the register after the write (R308). -/
def ctxAfter (n : Nat) (v : Word) (c : Ctx) : Ctx :=
  if n = 1 then { c with sbmode := v.toNat }
  else if n = 2 then { c with scopemode := v.toNat }
  else if n = 3 then { c with lease := v.toNat }
  else if n = 4 then { c with prio := v.toNat }
  else if n = 8 then { c with tvec := c.tvec.extractLsb' 32 40 ++ (v &&& 0xFFFFFF00#32) }
  else if n = 9 then { c with tvec := c.tvec.extractLsb' 40 32 ++ v.extractLsb' 0 8 ++ c.tvec.extractLsb' 0 32 }
  else if n = 0xC then { c with emtab := c.emtab.extractLsb' 40 32 ++ v ++ 0#8 }
  else { c with emtab := v ++ c.emtab.extractLsb' 0 40 }

/-- The effect of a system word. -/
inductive SystemEffect (r : Env) : Instr → State → Prop
  /-- R391: the gate is left, closed or opened; sD takes the number of member hoists. -/
  | gate (d m u) : u = (if m = 0 then r.s else r.s.setGate (coreOf r.h.src) r.h.ctxsel (m == 1)) →
      SystemEffect r (.gate d m)
        (u.updHoist r.h.src fun h => h.writeS d (BitVec.ofNat 32 (u.members (coreOf r.h.src) r.h.ctxsel)))
  /-- R308: a read of a control register of an active context. -/
  | srd (d n) : r.reaches = true ∨ n = 0x20 →
      SystemEffect r (.srd d n) (r.s.updHoist r.h.src fun h => h.writeS d (r.crValue n.toNat 0))
  /-- Of a context that is not active: the value is open (log 19). -/
  | srdOpen (d n) : r.reaches = false → n ≠ 0x20 →
      SystemEffect r (.srd d n) ({ r.s with fresh := r.s.fresh + 1 }.updHoist r.h.src fun h =>
        h.writeS d (r.crValue n.toNat (Config.freeWord r.s.fresh)))
  /-- R308: a write that its register allows. -/
  | swr (a n) : r.crRefuses n.toNat (r.sval a) = false → SystemEffect r (.swr a n) (r.crWrite n.toNat (r.sval a))
  /-- R331: a checkpoint is asked for; without a mirror there is nothing to do. -/
  | ckptNone : r.b.replicated = false → r.c.mirror = none → SystemEffect r .ckpt r.s
  | ckpt (m) : r.b.replicated = false → r.c.mirror = some m → m.phase = .idle →
      SystemEffect r .ckpt (r.s.requestGeneration r.c.id)
  /-- R345, R346: with nothing in flight through the entries that go. -/
  | tlbi (x m a b n u) : n = (if m = 1 ∨ m = 2 then (r.sval b).toNat else 0) →
      u = ⟨m.toNat, r.ctxNumber, if m.toNat ≤ 1 then 256 * (r.h.spair a.toNat).toNat else 0, n, n⟩ →
      (m = 1 → n ≠ 0) → (m = 2 → n < 256) → (∀ f ∈ r.s.flights, throughDropped (r.s.tlbiDrops u) f = false) →
      r.s.bufferedThrough (r.s.tlbiDrops u) = false →
      SystemEffect r (.tlbi x m a b) (r.s.invalidate u)
  /-- R434: the signal is a release at .sys, then reaches the host, or is held with its generation (25_docking.md R416). -/
  | hostsig (a b e) : (r.sval a).toNat < 32 → r.b.replicated = false → Released r 3 → e = r.at (r.s.endHolds r.b 3) →
      (e.c.mirror = none ∨ e.s.die = .companion) → e.s.signalRoom = true →
      SystemEffect r (.hostsig a b) (e.s.signal e.h.src e.c.id (r.sval a).toNat (r.sval2 a b))
  | hostsigHeld (a b e) : (r.sval a).toNat < 32 → r.b.replicated = false → Released r 3 → e = r.at (r.s.endHolds r.b 3) →
      e.c.mirror.isSome = true → e.s.die = .tsuord → e.s.egressBytes + 32 ≤ 4194304 →
      SystemEffect r (.hostsig a b) (e.s.hold e.c.id (.signal e.h.src (r.sval a).toNat (r.sval2 a b)))
  /-- R352: no hoist of the context in the slot; a frame that does not hold the block; the block saved and gone. -/
  | ctxsvNone (d n b) : (r.sval b).toNat < 64 → (r.h.areg n.toNat).has permW = true → (r.h.areg n.toNat).has permSYS = true →
      (r.h.areg n.toNat).has permSCR = false →
      (r.h.areg n.toNat).accessOk r.b.segSize 256 2752 (r.h.areg n.toNat).cursor.toNat = true →
      r.targetBlock (r.sval b).toNat = none →
      SystemEffect r (.ctxsv d n b) (r.s.updHoist r.h.src fun h => h.writeS d 3)
  | ctxsv (d n b a blk e x bytes rs u) : (r.sval b).toNat < 64 → a = r.h.areg n.toNat → a.has permW = true →
      a.has permSYS = true → a.has permSCR = false → a.accessOk r.b.segSize 256 2752 a.cursor.toNat = true →
      r.targetBlock (r.sval b).toNat = some blk →
      e = r.at (r.s.updBlock blk.id fun x => { x with residency := .stopping 6 }) →
      (∀ f ∈ e.s.flights, f.block ≠ blk.id) → e.s.block? blk.id = some x → e.s.drained x = true →
      bytes = (x.frameBytes (e.s.allHoists x) (zeros 32)).drop 32 → bytes.length + 32 ≤ e.s.frameSize e.c →
      a.inBounds 0 a.cursor.toNat (bytes.length + 32) = true →
      e.s.range (e.who .store) e.c .store a.rights (a.address (a.cursor.toNat + 32)) bytes.length = (.ok rs, u) →
      SystemEffect r (.ctxsv d n b)
        ((State.removeBlock { u.writeRuns e.c.id rs bytes with
            aside := (u.writeRuns e.c.id rs bytes).asideOf x (a.address a.cursor.toNat) none ::
              (u.writeRuns e.c.id rs bytes).aside } x.id).updHoist e.h.src fun h => h.writeS d 0)
  /-- R352: a frame whose block can be restored here. -/
  | ctxrs (d n a u rs head) : a = r.h.areg n.toNat → Clear r (a.ranges a.cursor.toNat 2752) →
      Spans r a [permR, permSYS] .load 256 2752 a.cursor.toNat u rs →
      (r.at u).spanBytes a 2752 a.cursor.toNat rs u = some head → (frameHead head).total < 2752 →
      u.ctx? (recordOf (head.take 32)).ctx = none →
      SystemEffect r (.ctxrs d n) (u.updHoist r.h.src fun h => h.writeS d 2)
  | ctxrsBlock (d n a u rs head t ts bytes c b aside v' v) : a = r.h.areg n.toNat → Clear r (a.ranges a.cursor.toNat 2752) →
      Spans r a [permR, permSYS] .load 256 2752 a.cursor.toNat u rs →
      (r.at u).spanBytes a 2752 a.cursor.toNat rs u = some head → 2752 ≤ (frameHead head).total →
      a.inBounds r.b.segSize a.cursor.toNat (frameHead head).total = true →
      Spans (r.at u) a [permR, permSYS] .load 256 (frameHead head).total a.cursor.toNat t ts →
      ((r.at u).at t).spanBytes a (frameHead head).total a.cursor.toNat ts t = some bytes →
      t.ctx? (recordOf (bytes.take 32)).ctx = some c → t.issues c.id = true →
      t.blockOfFrame (coreOf r.h.src) c (a.address a.cursor.toNat) (recordOf (bytes.take 32)) bytes =
        .ok (some (b, aside), v') →
      v'.restoreBlock (coreOf r.h.src) b aside (recordOf (bytes.take 32)).acls b.span bytes = .ok v →
      SystemEffect r (.ctxrs d n) (v.updHoist r.h.src fun h => h.writeS d 0)

/-- TRET reads its frame and returns (R339). -/
inductive ReturnEffect (r : Env) : State → Prop
  | mk (u rs f) : Clear r ((r.h.areg 15).ranges (((r.h.areg 15).cursor.toNat : Int) + (r.h.sreg 93).toInt) 128) →
      Spans r (r.h.areg 15) [permR] .load 1 128 (((r.h.areg 15).cursor.toNat : Int) + (r.h.sreg 93).toInt) u rs →
      r.spanBytes (r.h.areg 15) 128 (((r.h.areg 15).cursor.toNat : Int) + (r.h.sreg 93).toInt) rs u = some f →
      r.returnable f = true → ReturnEffect r (u.updHoist r.h.src (r.hoistReturned f))

end Sys2Proof.Claims
end

