-- ==== Sys2Proof/Claims/Ends.lean ====
section
/-!
DEFINITION. Words that end in ways of their own: EXIT, VREGRP, EXT, EMUL, unassigned opcodes, PREF (03_encoding.md R70, R78,
R79, 05_control.md R110, 07_lanes.md R157, R158, 09_memory.md R179), and the pending FPX of 13_numbers.md R254.
-/

namespace Sys2Proof.Claims

open Sys2Proof.Machine

/-! ### EXIT (05_control.md R110) -/

/-- The hoist after an EXIT: the slices of the group have exited with empty rejoin stacks, in a handler every slice of the
hoist; groups that no slice belongs to are gone. -/
structure Exited (r : Env) (k : Hoist) : Prop where
  slices : ∀ n : Nat, k.regs.slices[n]? = (r.h.regs.slices[n]?).map fun x =>
    if r.h.regs.depth ≠ 0 ∨ n ∈ r.h.groupSlices r.g.id then { x with exited := true, stack := [] } else x
  standing : ∀ g ∈ k.regs.groups, k.groupSlices g.id ≠ []
  registers : k.regs.v = r.h.regs.v ∧ k.regs.s = r.h.regs.s ∧ k.regs.p = r.h.regs.p ∧ k.regs.a = r.h.regs.a ∧
    k.regs.exec = r.h.regs.exec ∧ k.regs.dead = r.h.regs.dead
  depth : k.regs.depth = 0

/-- Nothing holds back an EXIT: no work of the hoist in flight, no FPX pending, no copy that failed, no replica. -/
structure MayExit (r : Env) : Prop where
  settled : ∀ f ∈ r.s.flights, f.src ≠ r.h.src
  calm : fpxPending r.h.regs.fpx = false
  reported : r.h.fails = []
  single : r.b.replicated = false

/-- The instructions that take a pending FPX before anything else (13_numbers.md R254), where their operands are legal. -/
def takesFpx (r : Env) : Instr → Prop
  | .exit => True
  | .fence _ _ => True
  | .bara _ a _ => (r.sval a).toNat ≤ 16
  | .barw a => (r.sval a).toNat ≤ 16
  | _ => False

/-! ### VREGRP (07_lanes.md R157, R158) -/

/-- A VREGRP of the issuing hoist: its mask, a legal place, counters that read zero, and no other VREGRP that conflicts. -/
structure Regroups (r : Env) (d : BitVec 8) (cnt : Nat) (idx : Bool) (b : BitVec 8) (mask : Word) : Prop where
  operand : mask = r.h.sreg b.toNat
  hoists : mask.toNat < 2 ^ r.b.hoists
  own : mask.getLsbD r.h.index = true
  whole : ∀ n, n < r.h.regs.slices.length → r.h.absent n = true ∨ r.h.sliceIn r.g.id n = true
  flat : r.anyStacked = false
  loads : r.h.counters.g = 0
  lanes : r.h.counters.s = 0
  first : r.h.regroup = none
  friends : ∀ h ∈ r.s.hoistsOf r.b.id, h.src ≠ r.h.src → ∀ g q, h.regroup = some (g, q) →
    (mask.getLsbD h.index = true ∨ q.mask.getLsbD r.h.index = true) → q.mask = mask ∧ q.d = d.toNat ∧ q.cnt = cnt ∧ q.idx = idx

/-- The lanes of a hoist that take part: not dead, in a slice that is not absent. -/
def places (h : Hoist) : List Nat := (List.range h.width).filter fun l => !h.regs.dead.getLsbD l && !h.absent (l / 4)

/-- A hoist regrouped alone: its live lanes stand at its first places in order, the others read zero; IDX, EXEC and sB
follow. -/
structure RegroupedAlone (r : Env) (d cnt : Nat) (idx : Bool) (b : Nat) (k : Hoist) : Prop where
  words : ∀ n, d ≤ n → n < d + cnt → n < r.h.regs.v.length → ∀ j p : Nat, (places r.h)[j]? = some p → p < (r.h.vreg n).lanes.length →
    k.vword n p = (match ((places r.h).filter r.h.regs.exec.getLsbD)[j]? with | some l => r.h.vword n l | none => 0)
  index : idx = true → d + cnt < r.h.regs.v.length → ∀ j p : Nat, (places r.h)[j]? = some p →
    p < (r.h.vreg (d + cnt)).lanes.length → k.vword (d + cnt) p =
      (match ((places r.h).filter r.h.regs.exec.getLsbD)[j]? with
        | some l => BitVec.ofNat 32 (r.h.index * r.h.width + l)
        | none => 0)
  exec : ∀ j p : Nat, (places r.h)[j]? = some p → p < 128 →
    k.regs.exec.getLsbD p = decide (j < ((places r.h).filter r.h.regs.exec.getLsbD).length)
  count : b < r.h.regs.s.length → k.sreg b = BitVec.ofNat 32 ((places r.h).filter r.h.regs.exec.getLsbD).length

/-- Why a VREGRP raises ILLOP at once: a mask that names no hoist of the block or not its own, a group that is not the whole
hoist, a rejoin stack in use. -/
def regroupIllegal (r : Env) (b : BitVec 8) : Prop :=
  2 ^ r.b.hoists ≤ (r.h.sreg b.toNat).toNat ∨ (r.h.sreg b.toNat).getLsbD r.h.index = false ∨
    (∃ n, n < r.h.regs.slices.length ∧ r.h.absent n = false ∧ r.h.sliceIn r.g.id n = false) ∨ r.anyStacked = true

/-! ### EMUL (03_encoding.md R79) -/

/-- The entry of the emulation table for opcode 0xF8 + o is read as a load of eight bytes. -/
inductive EmulEntry (r : Env) (o : BitVec 3) : Nat → State → Prop
  | mk (u rs) : Clear r [] → r.s.range (r.who .load) r.c .load allRights (r.c.emtab + BitVec.ofNat 72 (8 * o.toNat)) 8 = (.ok rs, u) →
      u.runsPoisoned rs = false → EmulEntry r o (leNat (u.loadRuns r.h.src r.b.id rs)) u

/-! ### PREF (09_memory.md R179) -/

/-- The page-table entries that TLBs know stand at addresses of eight bytes (19_faults.md R342). -/
def EntriesAligned (s : State) : Prop := ∀ x ∈ s.coreTlb ++ s.clusterTlb, ∀ t ∈ x.2, t.entryPa % 8 = 0

/-- Every byte of memory that differs lies in an eight-byte page-table entry which the die's agents read as `e`, and which has got
ACCESSED, or DIRTY where the access writes, and no other bit (19_faults.md R343). -/
def OnlyMarked (writes : Bool) (s u : State) : Prop :=
  Canonical s → EntriesAligned s → ∀ a, u.mem.read a ≠ s.mem.read a → ∃ p e dirty accessed : Nat,
    p % 8 = 0 ∧ p ≤ a ∧ a < p + 8 ∧ e = s.view.readNat p 8 ∧ u.mem.readNat p 8 = e + 2 ^ 11 * dirty + 2 ^ 12 * accessed ∧
    dirty + e / 2 ^ 11 % 2 ≤ 1 ∧ accessed + e / 2 ^ 12 % 2 ≤ 1 ∧ (writes = false → dirty = 0)

/-- What a prefetch leaves as it was: every hoist's registers and work, blocks, pins, work in flight, requests, and memory but for
ACCESSED bits. -/
structure OnlyFetched (s u : State) : Prop where
  hoists : ∀ n h, s.hoist? n = some h → ∃ k, u.hoist? n = some k ∧ SameRegs h k {}
  blocks : u.blocks = s.blocks
  pins : u.pins = s.pins
  flights : u.flights = s.flights
  tokens : u.tokens = s.tokens
  holds : u.holds = s.holds
  memory : OnlyMarked false s u

end Sys2Proof.Claims
end

