-- ==== Sys2Proof/Claims/Work.lean ====
section
/-!
DEFINITION. What the manual gives the die's own events as effects: work that completes, passes granted, elements and
fragments moved, lines that migrate or are read again, merges, hoists lost, votes (05_control.md R109, 07_lanes.md R145,
09_memory.md R165, R173–R177, R187–R201, 11_ordering.md R230–R239, 15_cube.md R286–R301, 21_reliability.md R358–R369,
23_rendering.md R382–R388).
-/

namespace Sys2Proof.Claims

open Sys2Proof.Machine

/-! ### Work -/

/-- A piece of work that nothing earlier holds back. -/
structure Ripe (s : State) (n : Nat) (f : Flight) : Prop where
  found : s.flight? n = some f
  enabled : s.enabled f = true

/-- A flag register's count of work drops and the piece of work is gone. -/
def finished (s : State) (f : Flight) (k : Counter) : State := (s.dropCount f.src k).dropFlight f.id

/-- The first of an array's passes: it comes before every other that waits (15_cube.md R301). -/
def FirstPass (s : State) (cluster : Nat) (f : Flight) (j : PassJob) : Prop :=
  f ∈ s.flights ∧ clusterOf f.src = cluster ∧ s.eligible f = true ∧ f.work = .pass j ∧ j.granted = false ∧
  (∀ x ∈ s.flights, clusterOf x.src = cluster → ∀ y, x.work = .pass y → y.granted = false) ∧
  ∀ x ∈ s.flights, clusterOf x.src = cluster → s.eligible x = true → x ≠ f → ∀ y, x.work = .pass y →
    let p (q : PassJob) : Nat := min 7 (q.prio + (s.clock - q.post) / 512)
    p y < p j ∨ p y = p j ∧ (j.post < y.post ∨ j.post = y.post ∧ f.src < x.src)

/-- One element of a copy and where it moves: position in the source window and in the destination window. -/
def elementAt (j : CopyJob) (k : Nat) : Int × Int :=
  (j.src.cursor.toNat + j.srcOff + (copyOffsets j.dims k).1, j.dst.cursor.toNat + j.dstOff + (copyOffsets j.dims k).2)

/-- The piece of work with element k of its copy done. -/
def elementDone (s : State) (n k : Nat) : State :=
  s.updFlight n fun w => match w with | .copy j => .copy { j with done := k :: j.done } | w => w

/-- Elements of a copy within a block's segment, one after another. -/
def movedWithin (f : Flight) (n : Nat) (j : CopyJob) : List Nat → State → State
  | [], s => s
  | k :: ks, s =>
    let b := (s.block? f.block).getD Block.none
    movedWithin f n j ks (elementDone (s.writeScratch f.block (j.dst.base.toNat + (elementAt j k).2).toNat
      (b.scratch.readBytes (j.src.base.toNat + (elementAt j k).1).toNat (2 ^ j.esz))) n k)

/-- The effect of a completion event. -/
inductive WorkEvent (s : State) : Instr → State → Prop
  /-- R173, R174, R177, 05_control.md R128: the data of every lane is delivered. -/
  | load (n f k t acc) : Ripe s n f → f.work = .load k t acc → (∀ x ∈ acc, s.accessPoisoned f.block x = false) →
      WorkEvent s (.loadDataReturn n)
        (finished (s.updHoist f.src fun h => h.deliver t (acc.map fun x => (x.lane, s.readAccess f.src f.block x))) f k)
  /-- 21_reliability.md R358, R359: a lane that reads poison dies; a scalar load that does loses its hoist. -/
  | loadDies (n f k d m acc bad) : Ripe s n f → f.work = .load k (.v d m) acc →
      bad = acc.filter (fun x => s.accessPoisoned f.block x) → bad ≠ [] →
      WorkEvent s (.loadDataReturn n)
        ((((s.updHoist f.src fun h => h.deliver (.v d m) ((acc.filter fun x => !s.accessPoisoned f.block x).map
          fun x => (x.lane, s.readAccess f.src f.block x))).dropCount f.src k).killLanes f.src
            (bad.map fun x => (x.lane, x.va.toNat)) f.named).dropFlight f.id)
  /-- 07_lanes.md R145: VPERM's words arrive. -/
  | perm (n f d vals) : Ripe s n f → f.work = .perm d vals →
      WorkEvent s (.loadDataReturn n) (finished (s.updHoist f.src fun h => h.fillV d (vals.map fun v => (v.1, [v.2])) 1) f .s)
  /-- 11_ordering.md R230–R233: the lanes' operations in order; what was there is delivered. -/
  | atomic (n f cas m t lanes scope ord home olds u) : Ripe s n f → f.work = .atomic cas m (some t) lanes scope ord home →
      (∀ x ∈ lanes, s.accessPoisoned f.block x.access = false) →
      State.performAtomic f.src f.block f.ctx (if cas then .cas else .rmw m) lanes s = (olds, u) →
      WorkEvent s (.loadDataReturn n)
        ({ (u.updHoist f.src fun h => h.deliver t olds).dropCount f.src .g with
          svcq := u.svcq.filter (·.2 != f.id) }.dropFlight f.id)
  /-- R176: the writes of a store in lane order; a sector that they cover together is poisoned no more (21_reliability.md
  R358). -/
  | store (n f ws dev b) : Ripe s n f → f.work = .store ws dev → s.block? f.block = some b → b.replicated = false →
      WorkEvent s (.writePerformed n)
        (finished ((ws.foldl (fun s w => s.writeAccess f.src f.block f.ctx w.1 w.2) s).unpoison
          ((ws.filter fun w => !w.1.scr && !s.holdsWrite f.ctx w.1.pa).map fun w => (w.1.pa, w.2.length))) f .w)
  | reduce (n f cas m lanes scope ord home olds u) : Ripe s n f → f.work = .atomic cas m none lanes scope ord home →
      (∀ x ∈ lanes, s.accessPoisoned f.block x.access = false) →
      State.performAtomic f.src f.block f.ctx (if cas then .cas else .rmw m) lanes s = (olds, u) →
      WorkEvent s (.writePerformed n)
        ({ u.dropCount f.src .w with svcq := u.svcq.filter (·.2 != f.id) }.dropFlight f.id)
  /-- 09_memory.md R190: a copy all of whose elements have moved leaves the in-flight count; its writes to memory are posted
  writes of its hoist. -/
  | copy (n f j) : Ripe s n f → f.work = .copy j → (∀ k, k < j.total → k ∈ j.done) → j.done.length = j.total →
      WorkEvent s (.copyComplete n) ((if j.dst.has permSCR then s else s.postedCopy f).dropFlight f.id)
  /-- R171, R187, R201: an element moves within the block's segment, with the others of its aligned word when elements are
  narrower; none reads a byte that the copy writes. -/
  | element (n f j k b) : Ripe s n f → f.work = .copy j → k < j.total → k ∉ j.done → j.token = none → j.bar = none →
      j.zfill = false → j.src.has permSCR = true → j.dst.has permSCR = true → s.block? f.block = some b → b.poison = [] →
      (∀ i ∈ j.together k, (s.selfRead f (s.flightCtx f) j (s.copyDst f j) i).any id = false) →
      WorkEvent s (.copyByteArrival n k) (movedWithin f n j (j.together k) s)
  /-- From memory to memory: the lines are owned by no earlier engine and held by no other scope. -/
  | elementMemory (n f j k c rs u ws v) : Ripe s n f → f.work = .copy j → k < j.total → k ∉ j.done → j.token = none →
      j.bar = none → j.zfill = false → j.src.has permSCR = false → j.dst.has permSCR = false → c = s.flightCtx f →
      s.range (s.engine f) c .load j.src.rights (j.src.address (elementAt j k).1) (2 ^ j.esz) = (.ok rs, u) →
      u.runsPoisoned rs = false → (u.selfRead f c j (s.copyDst f j) k).any id = false →
      State.reachRange (u.engine f) c .store j.dst.rights j.privileged (unitsOf (u.readRuns rs).length)
        (j.dst.address (elementAt j k).2) (u.readRuns rs).length u = (.ok ws, v) →
      WorkEvent s (.copyByteArrival n k) (elementDone (v.writeRuns c.id ws (u.readRuns rs)) n k)
  /-- R194: an element that faults fails its copy; the destination's bytes are open, and the hoist is to report it. -/
  | copyFail (n f j k e u) : Ripe s n f → f.work = .copy j → j.token = none → k < j.total → k ∉ j.done →
      (∀ i, i < k → i ∈ j.done) → j.zfill = false → j.src.has permSCR = false →
      s.range (s.engine f) (s.flightCtx f) .load j.src.rights (j.src.address (elementAt j k).1) (2 ^ j.esz) = (.error e, u) →
      e.stall = false → e.forward = false →
      WorkEvent s (.copyFail n)
        (((State.scrambleCopy f (s.flightCtx f) j (List.range j.total) s).dropFlight f.id).updHoist f.src fun h =>
          { h with fails := h.fails ++ [⟨j.batch, e.cls, e.detail, e.va, e.key, j.info, j.cpys⟩] })
  /-- 15_cube.md R292. -/
  | release (n f k) : Ripe s n f → f.work = .slotRelease k →
      WorkEvent s (.slotRelease n)
        ((s.updBlock f.block fun b => { b with slots := b.slots.filter (·.local_ != k) }).dropFlight f.id)
  /-- R294: the lines are in the slot, which no other fill names; every line of the slot is written. -/
  | fill (n f k win off pitch pc m u) : Ripe s n f → f.work = .fill k win off pitch pc →
      State.readPieces f (s.flightCtx f) win (slotPieces win off pitch) [] s = (.ok m, u) →
      (∀ x ∈ u.flights, x.block = f.block → x.id ≠ f.id → ∀ w o p c, x.work ≠ .fill k w o p c) →
      WorkEvent s (.slotFillComplete n)
        ((u.updBlock f.block fun b => b.updSlot k fun x => { x with data := m, filling := false }).dropFlight f.id)
  | slotStore (n f k win off pitch pc b u) : Ripe s n f → f.work = .slotStore k win off pitch pc →
      s.block? f.block = some b → State.writePieces f (0x3040 + clusterOf f.src) (s.flightCtx f) win
        (b.slotData k) (slotPieces win off pitch) s = .ok u →
      WorkEvent s (.slotStoreComplete n)
        (finished (u.unpoison ((s.unwritten f).filter fun r => !s.holdsWrite f.ctx r.1)) f .w)
  /-- R286, R288: a pass adds its products to its tile. -/
  | pass (n f j b t x) : Ripe s n f → f.work = .pass j → j.granted = true → s.block? f.block = some b →
      runPass j (passOperands j (s.codebook (b.core / 4) f.ctx) (b.slotData j.slotA) (b.slotData j.slotB)
        (b.slotRegion j.slotC (cubeCSlots j.mode j.kp (cubeCBytes j.fmtC)))) (b.tile j.tile) = (t, x) →
      WorkEvent s (.passComplete n)
        (finished ((s.updBlock f.block fun b => b.putTile t).updHoist f.src fun h => h.raise x) f .x)
  /-- R296: a running plane that has counted passes is added to T. -/
  | promote (n f k b t x) : Ripe s n f → f.work = .promote k → s.block? f.block = some b → (b.tile k).count ≠ 0 →
      (b.tile k).promote = (t, x) →
      WorkEvent s (.tileOrderOperation n)
        (((s.updBlock f.block fun b => b.putTile t).updHoist f.src fun h => h.raise x).dropFlight f.id)
  | promoteEmpty (n f k b) : Ripe s n f → f.work = .promote k → s.block? f.block = some b → (b.tile k).count = 0 →
      WorkEvent s (.tileOrderOperation n) (s.dropFlight f.id)
  /-- R297. -/
  | tileRead (n f k d c j0 rows b) : Ripe s n f → f.work = .tileRead k d c j0 rows → s.block? f.block = some b →
      WorkEvent s (.tileOrderOperation n) (finished (s.updHoist f.src fun h => h.fillV d (rows.map fun r =>
        (r.1, (List.range c).map fun i => BitVec.ofNat 32 ((b.tile k).word r.2 (j0 + i)))) c) f .x)
  | tileWrite (n f k j0 r ws b) : Ripe s n f → f.work = .tileWrite k j0 [(r, ws)] → s.block? f.block = some b →
      WorkEvent s (.tileOrderOperation n) ((s.updBlock f.block fun b => b.putTile
        ((ws.mapIdx fun i w => (i, w)).foldl (fun t p => t.setWord r (j0 + p.1) p.2) (b.tile k))).dropFlight f.id)
  /-- 23_rendering.md R382, R384. -/
  | trace (n f d mode cull bvh rays vals u) : Ripe s n f → f.work = .trace d mode cull bvh rays →
      State.traceLanes f (s.flightCtx f) bvh cull (mode == 1) rays s = (some vals, u) →
      WorkEvent s (.traceComplete n) (finished (u.updHoist f.src fun h => h.fillV d vals 6) f .x)
  | hitrd (n f d attr bvh nodes vals u) : Ripe s n f → f.work = .hitrd d attr bvh nodes →
      State.hitrdLanes f (s.flightCtx f) bvh attr nodes s = (some vals, u) →
      WorkEvent s (.hitrdComplete n) (finished (u.updHoist f.src fun h => h.fillV d vals (if attr = 4 then 2 else 3)) f .x)
  /-- R387: sD holds the fragments pushed and the status. -/
  | beam (n f j) : Ripe s n f → f.work = .beam j → j.pending = some [] →
      WorkEvent s (.beamComplete n) (finished (s.updHoist f.src fun h =>
        h.writeS (BitVec.ofNat 8 j.d) (BitVec.ofNat 32 (j.pushed % 512 + 65536 * j.status))) f .x)
  /-- R388: the next fragment goes into the beam's queue. -/
  | fragment (n f j x xs q u) : Ripe s n f → f.work = .beam j → j.pending = some (x :: xs) → q = queueWord j.qcw →
      s.queuePush (.scratch f.block (j.queue.base.toNat + j.queue.cursor.toNat + q.off)) q [x] = .ok (1, u) →
      WorkEvent s (.fragmentPush n) (u.updFlight f.id fun _ => .beam { j with pending := some xs, pushed := j.pushed + 1 })
  /-- 15_cube.md R301. -/
  | grant (k f j) : FirstPass s k f j → (∀ x ∈ s.flights, x.id = f.id → x = f) →
      WorkEvent s (.passGrant k) (s.updFlight f.id fun _ => .pass { j with granted := true })
  /-- 11_ordering.md R235: the request at the head of a cluster's queue; one whose atomic is gone is dropped. -/
  | service (k n f) : s.svcq.find? (·.1 == k) = some (k, n) → Ripe s n f → (∀ y ∈ s.svcq, y.2 = n → y.1 = k) →
      WorkEvent s (.atomicServiceRequest k) (s.completeFlight f)
  | serviceGone (k n) : s.svcq.find? (·.1 == k) = some (k, n) → s.flight? n = none →
      WorkEvent s (.atomicServiceRequest k) { s with svcq := s.svcq.erase (k, n) }

/-! ### Lines, tables, hoists -/

/-- A hoist that its pairs wait for and that has not come within 1 ms of %time (21_reliability.md R368). -/
def Late (s : State) (x : Hoist) : Prop :=
  x.standingOffer = none ∧ ∃ t, x.lateFrom = some t ∧ t + 1200000 ≤ s.time.toNat

/-- The event `i` takes the vote of the replicas `ms` of a hoist (R368): all have offered, or those that have not are late.
Replicas that have retired count no more. -/
def VoteDue (s : State) (i : Instr) (src : Nat) (h : Hoist) (ms : List Hoist) : Prop :=
  s.hoist? src = some h ∧ s.replicaHoists h = ms ∧ ms.length + s.lostReplicas (s.blockOf h) = (s.blockOf h).replicas ∧
    (i = .releaseVote src ∧ (∀ x ∈ ms, x.standingOffer.isSome = true) ∨
      i = .lateArrival src ∧ h.standingOffer = none ∧ h.lateFrom.isSome = true ∧ (s.blockOf h).replicated = true ∧
        (∃ x ∈ ms, x.standingOffer.isSome = true) ∧ ∀ x ∈ ms, x.standingOffer.isSome = true ∨ Late s x)

/-- No two replicas offer the same (R368). -/
def NoTwoAgree (ms : List Hoist) : Prop :=
  ms.Pairwise fun x y => ∀ p q, x.standingOffer = some p → y.standingOffer = some q → p.word ≠ q.word ∨ p.ssig ≠ q.ssig

/-- The address of the first release word that is offered. -/
def firstOffered (ms : List Hoist) : Option VAddr := ((ms.filterMap Hoist.standingOffer).head?).map (·.word)

/-- The DETAIL of a mismatch between n replicas (R369): 2 when a hoist is late or gone, 1 when release words differ, else 0. -/
def Mismatch (n : Nat) (ms : List Hoist) (d : Nat) : Prop :=
  let all := n ≤ ms.length ∧ ∀ x ∈ ms, x.standingOffer.isSome = true
  let same := ∀ x ∈ ms, ∀ y ∈ ms, x.standingOffer.map (·.word) = y.standingOffer.map (·.word)
  ¬ all ∧ d = 2 ∨ all ∧ ¬ same ∧ d = 1 ∨ all ∧ same ∧ d = 0

/-- The effect of an event of the die. -/
inductive DieEvent (s : State) : Instr → State → Prop
  /-- 09_memory.md R165: a line without pin or monitor is served elsewhere from now on, or at home again. -/
  | migrate (line slice) : (∀ p ∈ s.pins, p.1 ≠ line) → (∀ m ∈ s.monitors, m.pa / 64 ≠ line) →
      homedHere s.die (64 * line) = true → slice < s.die.slices → slice ≠ homeSlice s.die line →
      DieEvent s (.lineMigrate line slice) { s with migrated := (line, slice) :: s.migrated.filter (·.1 != line) }
  | migrateHome (line) : (∀ p ∈ s.pins, p.1 ≠ line) → (∀ m ∈ s.monitors, m.pa / 64 ≠ line) →
      homedHere s.die (64 * line) = true → homeSlice s.die line < s.die.slices →
      DieEvent s (.lineMigrate line (homeSlice s.die line)) { s with migrated := s.migrated.filter (·.1 != line) }
  | migrateNot (line slice) : (∃ p ∈ s.pins, p.1 = line) ∨ (∃ m ∈ s.monitors, m.pa / 64 = line) →
      DieEvent s (.lineMigrate line slice) s
  /-- 11_ordering.md R239, 27_host.md R427: no waiter's condition holds. -/
  | reread (i line) : (i = .hostLineReread line ∨ i = .hostSnoop line) →
      (∀ m ∈ s.monitors, m.pa / 64 = line → m.holds s.mem = false) → DieEvent s i s
  /-- 15_cube.md R299. -/
  | reload (n b t) : s.block? n = some b → b.table = some t → b.tableLoaded = false →
      DieEvent s (.codebookReload n)
        (({ s with cubes := ⟨b.core / 4, some b.ctx, t⟩ :: s.cubes.filter (·.cluster != b.core / 4) }).updBlock n
          fun b => { b with tableLoaded := true })
  | reloaded (n b) : s.block? n = some b → (b.table = none ∨ b.tableLoaded = true) → DieEvent s (.codebookReload n) s
  /-- 05_control.md R109: every group stands at the same REGANG; they merge and go on. -/
  | regang (src h) : s.hoist? src = some h → h.standing ≠ [] → (∀ g ∈ h.regs.groups, h.groupSlices g.id ≠ [] → g.wait = .regang) →
      (∀ x ∈ h.standing, ∀ y ∈ h.standing, x.2 = y.2) →
      DieEvent s (.regangMerge src) (s.mergeGroups h (h.standing.map (·.1)) h.reganged)
  /-- 07_lanes.md R158: a hoist that retires completes a VREGRP. -/
  | regroup (src h g q) : s.hoist? src = some h → h.regroup = some (g, q) → s.regroupComplete h.block q = true →
      DieEvent s (.vregrpComplete src) (State.regroupFinish 0x10000 (s.regroupers h.block q) (s.regroup h.block q))
  /-- 21_reliability.md R361: the hoist retires as if every slice had exited, with its record. -/
  | lost (src h) : s.hoist? src = some h → h.gone = false →
      DieEvent s (.hoistLost src)
        (State.evalBars (State.logEvent { s.putHoist h.exitAll with
          monitors := s.monitors.filter fun m => m.src != src || m.parked.isSome } 2 src ((s.block? h.block).map (·.ctx)) 0xFF [])
          h.block)
  /-- R368: every replica offers the same; the lowest commits, and all go on. -/
  | agreed (src h c o rest) : s.hoist? src = some h → s.replicaHoists h = c :: rest → rest ≠ [] →
      (c :: rest).length + s.lostReplicas (s.blockOf h) = (s.blockOf h).replicas → c.standingOffer = some o →
      (∀ x ∈ c :: rest, ∃ y, x.standingOffer = some y ∧ y.word = o.word ∧ y.ssig = o.ssig) → s.commitWaits c = false →
      DieEvent s (.releaseVote src)
        ((c :: rest).foldl (fun s x => s.updHoist x.src fun h => h.resume o (x.src == c.src)) (s.commitBuffer c))
  /-- R368: two of three agree: the lower commits, both go on, and the minority, which has offered something else or is late,
  becomes a copy of the committer. -/
  | minority (i src h ms c d x o p) : VoteDue s i src h ms → ms = [c, d, x] ∨ ms = [c, x, d] ∨ ms = [x, c, d] →
      c.standingOffer = some o → d.standingOffer = some p → p.word = o.word → p.ssig = o.ssig →
      (∀ q, x.standingOffer = some q → q.word ≠ o.word ∨ q.ssig ≠ o.ssig) → x.src ≠ c.src → x.src ≠ d.src →
      x.retired = false → x.gone = false → s.commitWaits c = false →
      DieEvent s i (((s.commitBuffer c |>.updHoist c.src fun h => h.resume o true).updHoist d.src fun h =>
        h.resume o (d.src == c.src)).replaceReplica c x o)
  /-- R368, R369: no two agree, a late hoist disagreeing: every replica goes back to its last release point, and a record tells
  why. -/
  | disagreed (i src h m rest d w) : VoteDue s i src h (m :: rest) → NoTwoAgree (m :: rest) →
      Mismatch (s.blockOf m).replicas (m :: rest) d → firstOffered (m :: rest) = some w →
      (∀ x ∈ m :: rest, x.retired = false ∧ x.gone = false) →
      DieEvent s i ((m :: rest).foldl (fun s x => s.rollBack d x)
        (s.logEvent 4 m.src (some (s.blockOf m).ctx) d (natLe 16 w.toNat)))
  /-- R368: the count of a hoist that its pairs wait for begins. -/
  | late (src h) : s.hoist? src = some h → h.standingOffer = none → (s.blockOf h).replicated = true →
      (∃ x ∈ s.replicaHoists h, x.standingOffer.isSome = true) → h.lateFrom = none →
      DieEvent s (.lateArrival src) (s.updHoist src fun h => { h with lateFrom := some s.time.toNat })

end Sys2Proof.Claims
end

