-- ==== Sys2Proof/Claims/Host.lean ====
section
/-!
DEFINITION. What the manual gives scheduling, host, power and link events as effects (01_machine.md R31–R36,
15_cube.md R302, 17_scheduling.md R304–R330, 19_faults.md R347, R348, 21_reliability.md R371, 25_docking.md R404–R423,
27_host.md R425–R445).
-/

namespace Sys2Proof.Claims

open Sys2Proof.Machine

/-! ### A context's memory -/

/-- The Ensign of a core reads n bytes of a context's memory: the bytes and the state with the translation made. -/
def Gets (s : State) (core : Nat) (c : Ctx) (va : VAddr) (n : Nat) (b : List Byte) (u : State) : Prop :=
  ∃ rs, s.range (.agent core) c .load ⟨true, false⟩ va n = (.ok rs, u) ∧ u.runsPoisoned rs = false ∧ b = u.readRuns rs

/-- The Ensign of a core writes bytes of a context's memory. -/
def Puts (s : State) (core : Nat) (c : Ctx) (va : VAddr) (b : List Byte) (t : State) : Prop :=
  ∃ rs u, s.range (.agent core) c .store ⟨true, false⟩ va b.length = (.ok rs, u) ∧ t = u.writeRuns c.id rs b

/-- The argument block of a packet as it is read (17_scheduling.md R312): 32 zero bytes for ARGP 0. -/
def Argued (s : State) (core : Nat) (c : Ctx) (p : Packet) (a : List Byte) (u : State) : Prop :=
  (p.argp = 0 ∧ a = List.replicate 32 0 ∧ u = s) ∨
    (p.argp ≠ 0 ∧ ∃ h v, Gets s core c p.argp 32 h v ∧
      (8 < field h 2 1 ∧ a = h ∧ u = v ∨ field h 2 1 ≤ 8 ∧ Gets v core c p.argp (argLength h) a u))

/-- A packet with its counts in GRID: its own, or those of the word at INDA (17_scheduling.md R318). -/
def Counts (s : State) (core : Nat) (c : Ctx) (b pkt : List Byte) (u : State) : Prop :=
  ((packetOf b).kind = 0 ∧ pkt = b ∧ u = s) ∨
    ((packetOf b).kind = 1 ∧ (packetOf b).addr.toNat % 8 = 0 ∧ ∃ x, Gets s core c (packetOf b).addr 8 x u ∧
      pkt = b.take 16 ++ natLe 4 (leNat x % 2 ^ 32) ++ natLe 4 (leNat x / 2 ^ 32 % 2 ^ 16) ++ natLe 4 (leNat x / 2 ^ 48 % 2 ^ 16) ++
        b.drop 28)

/-- The STATUS with which a packet ends at once, 0 when its grid becomes READY (17_scheduling.md R313): the lowest of the causes. -/
def causeOf (d : Die) (native : Nat) (node : Bool) (p : Packet) (pkt a : List Byte) : Nat :=
  match p.width native with
  | none => 1
  | some w =>
    if d.implementsWidth w = false then 1
    else if (packetOf pkt).gridBad then 2
    else if p.pwordBad w then 3
    else if argsBad a then 4
    else if p.bad d w node then 5
    else 0

/-- The SJ field of a grid entry: JOIN, STATUS, STATE (17_scheduling.md R314). -/
def sjBytes (join status state : Nat) : List Byte := natLe 4 (256 * join + 16 * status + state)

/-- A host register file with its CHANGE count up by one (27_host.md R429). -/
def changed (h : HostRegs) : HostRegs := { h with change := h.change + 1 }

/-- The state with a message sent on the link. -/
def sentOn (s : State) (code : Nat) (payload : List Byte) : State :=
  { s with link := { s.link with sent := s.link.sent ++ [(code, payload)] } }

/-- The state with a write's answer given to the host: 0 Successful, 1 Unsupported Request, 2 Request Retry Status. -/
def answered (s : State) (code : Nat) : State :=
  { s with host := { s.host with replies := s.host.replies ++ [natLe 1 code] } }

/-- The state with a translation request sent: vector 33, and the token marked (19_faults.md R347). -/
def asked (u : State) (id : Nat) : State :=
  { u.raiseMsi 33 with tokens := (u.raiseMsi 33).tokens.map fun x => if x.id == id then { x with requested := true } else x }

/-- The state with an expansion command waiting (27_host.md R439). -/
def expanding (s : State) (data : List Byte) : State := { s with host := { s.host with expq := s.host.expq ++ [data] } }

/-- Grid entry e is ENDING, by the Ensign of a core: its end follows (17_scheduling.md R315, R316). -/
def ending (s : State) (c : Ctx) (e core : Nat) : State := { s with
  ends := ⟨c.id, e, core, none⟩ :: s.ends.filter fun x => !(x.ctx == c.id && x.entry == e)
  agenda := s.agenda ++ [.event (.gridEnd c.id e)] }

/-- The core that acts for a parked record: that where its block parked; of a record that another die parked the first one of the
context's mask (17_scheduling.md R327; log 17). -/
def ParkedAt (s : State) (c : Ctx) (frame : VAddr) (core : Nat) : Prop :=
  (∃ x, s.aside.find? (fun x => x.frame == frame && x.block.ctx == c.id) = some x ∧ core = x.block.core) ∨
    (s.aside.find? (fun x => x.frame == frame && x.block.ctx == c.id) = none ∧ core = c.firstCore)

/-! ### Admission -/

/-- Whether the blocks, each with what it needs and its cube slots, fit, and on which cores: one on the core itself, those of a
span on distinct cores of its cluster in the core mask (01_machine.md R29, R30, R33). -/
def Placed (s : State) (core : Nat) (c : Ctx) (bs : List (Block × Need × Nat)) (ks : List Nat) : Prop :=
  (∃ x, bs = [x] ∧ ks = [core] ∧ s.fits x.1 core x.2.1 x.2.2 = true) ∨
    (bs.length ≠ 1 ∧ s.placeSpan bs ((clusterCores core).filter c.coremask.getLsbD) = some ks)

/-- The blocks of a grid's claim of a replica: consecutive indices from TICKET up (17_scheduling.md R325). -/
def claimed (s : State) (c : Ctx) (e : Nat) (b : List Byte) (replica : Nat) : List Block :=
  (List.range (packetOf (b.take 64)).span).map fun r =>
    { (packetOf (b.take 64)).block (s.entryWidth c e b) c.id e (entryTicket b + r) replica with id := s.nextId }

/-- What a new block needs under a class (01_machine.md R28, R33). -/
def newNeed (acls : Nat) (x : Block) : Block × Need × Nat := (x, if acls = 0 then x.prologueNeed else x.fullNeed, 0)

/-- A new block on a core (03_encoding.md R49, 17_scheduling.md R312, R325): its hoists stand in the lowest free slots, at the
entry point, with the arguments and the launch handle in s92. -/
def arrived (s : State) (b : Block) (core span : Nat) (entry : VAddr) (a : Args) (handle : Word) : State :=
  { s with
    blocks := s.blocks ++ [{ b with
      id := s.nextId, core := core, span := span, reserved := decide (1 < b.spanSize), enq := s.time.toNat }]
    hoists := s.hoists ++ (((s.freeSrcs core).take b.hoists).mapIdx fun k src =>
      let h := (Hoist.start src s.nextId k b.width b.prologue entry).withArgs a handle
      let h : Hoist := { h with regs := { h.regs with
        groups := h.regs.groups.map fun g => { g with last := s.clock, lastWord := s.clock } } }
      { h with
        snapshot := if b.replicated then some h.regs else none
        forwarded := if b.replicated && b.replica != 0 then s.mailFor b.run b.replica k else [] })
    mail := s.mail.filter fun m => !(m.block == b.run && (b.replica == 0 || m.replica == b.replica))
    nextId := s.nextId + 1
    power := { s.power with gated := s.power.gated.filter (· != core / 4) } }

/-- What an Ensign's admission of a candidate does (17_scheduling.md R325, 01_machine.md R29–R35). -/
inductive Admitted (s : State) (core : Nat) (x : Cand) : State → Prop
  /-- A READY grid: TICKET passes the claimed blocks, STATE is 3 once all are claimed, the blocks start, and the other replicas
  become START records. -/
  | grid (c e b p ks v w a z) : s.ctx? x.ctx = some c → s.admits core c = true → x.what = .grid e b → p = packetOf (b.take 64) →
      Placed s core c ((claimed s c e b 0).map (newNeed (if 1 < p.span then 2 else 0))) ks →
      Puts s core c (s.gridVa c e + 64) (natLe 8 (entryTicket b + p.span)) v →
      Puts v core c (v.gridVa c e + 80) (sjBytes 0 0 (if entryTicket b + p.span < p.blocks then 2 else 3)) w →
      Argued w core c p a z →
      Admitted s core x (((List.range (p.replicas - 1)).flatMap fun r => claimed s c e b (r + 1)).foldl
        (fun s y => s.pushReady core c (s.startRecord core c y 0).bytes)
        ((List.zip (claimed s c e b 0) ks).foldl (fun s y => arrived s y.1 y.2 z.nextId p.entry (argsOf a)
          (BitVec.ofNat 32 (256 * entryGen b + e))) { z with nextId := z.nextId + 1 }))
  /-- A START or RELAUNCH record of a block without a span. -/
  | fresh (c r k e b b' y u a v t) : s.ctx? x.ctx = some c → s.admits core c = true → x.what = .record r → k = recordOf r.2 →
      (k.kind = 0 ∨ k.kind = 5) → k.acls ≤ 2 → k.res = 0 → s.inTable c k = true → e = s.recordEntry c k →
      Gets s core c (s.gridVa c e) 256 b s → k.entryBad b = false → (packetOf (b.take 64)).span = 1 →
      y = { (packetOf (b.take 64)).block (s.entryWidth c e b) c.id e (k.code % 2 ^ 48) (bitsOf k.code 49 48) with id := s.nextId } →
      s.fits y core (newNeed k.acls y).2.1 0 = true →
      Gets { s with nextId := s.nextId + 1 } core c (s.gridVa c e) 256 b' u → Argued u core c (packetOf (b'.take 64)) a v →
      (arrived v y core s.nextId (packetOf (b'.take 64)).entry (argsOf a) (BitVec.ofNat 32 (entryGen b' * 256 + e))).takeReady
        core c [r] Act.ok = .ok t →
      Admitted s core x t
  /-- The record of a saved block without a span: it comes back as its frame holds it, and the frame goes back to the pool. -/
  | saved (c r k head u bytes v a w t) : s.ctx? x.ctx = some c → s.admits core c = true → x.what = .record r → k = recordOf r.2 →
      1 ≤ k.kind → k.kind ≤ 4 → k.acls ≤ 2 → k.res = 0 → Gets s core c k.frameVa 2752 head u → 2752 ≤ (frameHead head).total →
      (frameHead head).total ≤ u.frameSize c → Gets u core c k.frameVa (frameHead head).total bytes v →
      v.aside.find? (fun y => y.frame == k.frameVa && y.block.ctx == c.id &&
        (y.mark.isNone || y.mark == some (k.source, k.kind, k.code))) = some a → a.block.spanSize ≤ 1 →
      v.fits a.block core (a.block.needUnder k.acls (some (frameHead bytes))) (frameHead bytes).locals.length = true →
      State.restoreBlock { v with nextId := v.nextId + 1 } core a.block (some a) k.acls v.nextId bytes = .ok w →
      w.takeReady core c [r] Act.ok = .ok t → Admitted s core x (t.returnFrame core c k.frameVa)

/-- A READY grid that has no room now. -/
def Unfit (s : State) (core : Nat) (x : Cand) : Prop :=
  ∃ c e b, s.ctx? x.ctx = some c ∧ s.admits core c = true ∧ x.what = .grid e b ∧
    s.placeClaim core c ((claimed s c e b 0).map (newNeed (if 1 < (packetOf (b.take 64)).span then 2 else 0))) = none

/-- A core holds admission for no candidate, neither for one of a list nor for one that it cannot see now (R324). -/
def Free (s : State) (core : Nat) (xs : List Cand) : Prop :=
  s.heldFor core xs = none ∧ ∀ h ∈ s.candidates, h.core = core → s.hidden core h = false

/-- The candidate that an evaluation tries before all others: the one for which the core holds admission, while it is one, else
the first (17_scheduling.md R324). -/
def Chosen (s : State) (core : Nat) (xs : List Cand) (x : Cand) : Prop :=
  s.heldFor core xs = some x ∨ (Free s core xs ∧ ∃ rest, xs = x :: rest)

/-- A candidate for which a core of its context's mask holds admission, while a generation of the context is in the making and
nothing of it is offered (R324, 25_docking.md R419). -/
def OutOfSight (s : State) (core : Nat) (h : Candidate) : Prop :=
  h ∈ s.candidates ∧ h.core = core ∧ h.holding = true ∧
    ∃ c, s.ctx? h.ctx = some c ∧ c.coremask.getLsbD core = true ∧ c.faulted = false ∧ c.destroying = false ∧ s.issues c.id = false

/-- The end of an evaluation: the next core's follows, the same one's again after an admission. -/
def swept (s u : State) (core : Nat) : State := { u with sweep := if u.nextId = s.nextId then core + 1 else core }

/-! ### Scheduling -/

/-- The state in which a block is counted (17_scheduling.md R325). -/
def counting (u : State) (b : Block) : State := { u with
  retiredReplicas := u.retiredReplicas.filter (· != (b.ctx, b.entry, b.linear))
  mail := u.mail.filter (·.block != (b.ctx, b.entry, b.linear)) }

/-- The last hoist of a block retires. -/
def LastOf (s : State) (src : Nat) (b : Block) (u : State) : Prop :=
  ∃ h, s.hoist? src = some h ∧ s.canRetire h = true ∧ s.block? h.block = some b ∧
    u = { s.putHoist { h with retired := true, gate := false, wbuf := [], snapshot := none } with
      monitors := s.monitors.filter fun m => m.src != src || m.parked.isSome } ∧ u.hoistsOf b.id = []

/-- Its block is the last replica that retires. -/
def LastReplica (u : State) (b : Block) : Prop :=
  b.replicas ≤ 1 ∨ b.replicas ≤ (u.retiredReplicas.filter (· == (b.ctx, b.entry, b.linear))).length + 1

/-- A WAITING grid entry with JOIN 0 is looked at, and its TIME written (17_scheduling.md R315). -/
def Waiting (s : State) (n : Nat) (c : Ctx) (e : Nat) (b : List Byte) (u t : State) : Prop :=
  s.ctx? n = some c ∧ Gets s c.firstCore c (s.gridVa c e) 256 b u ∧ entryState b = 1 ∧ entryJoin b = 0 ∧
    Puts u c.firstCore c (u.gridVa c e + 96) (natLe 8 u.time.toNat) t

/-- The STATUS of an entry's packet with its counts and its argument block; the native width is that of the die which accepted the
grid (01_machine.md R20). -/
def causeAt (t v : State) (c : Ctx) (e : Nat) (b pkt a : List Byte) : Nat :=
  causeOf v.die (t.nativeFor c e (entryGen b)) (field b 90 2 / 2 ^ 15 % 2 == 1) (packetOf (b.take 64)) pkt a

/-- The state after a block's frame has been written: the block leaves, its waits become waits of the record, and a record without
any is ready (17_scheduling.md R326, R327). -/
def saved (v : State) (b : Block) (c : Ctx) (kind : Nat) (va : VAddr) (r : Record) : State :=
  let w : State := { v.parkWaits b kind va with
    aside := v.asideOf b va (some (r.source, r.kind, r.code)) ::
      (v.parkWaits b kind va).aside.filter fun x => !(x.frame == va && x.block.ctx == b.ctx) }
  let w := w.removeBlock b.id
  if r.join = 0 then w.pushReady b.core c r.bytes else w

/-- The effect of a scheduling event. -/
inductive ScheduleEvent (s : State) : Instr → State → Prop
  /-- R327: one wait of a record less. -/
  | join (n frame c core b u t) : s.ctx? n = some c → ParkedAt s c frame core → Gets s core c frame 32 b u →
      2 ≤ (recordOf b).join → Puts u core c frame { recordOf b with join := (recordOf b).join - 1 }.bytes t →
      ScheduleEvent s (.joinDecrement n frame) t
  /-- The last wait: the record is ready. -/
  | joinLast (n frame c core b u t) : s.ctx? n = some c → ParkedAt s c frame core → Gets s core c frame 32 b u →
      (recordOf b).join = 1 → Puts u core c frame { recordOf b with join := 0, enq := u.time.toNat }.bytes t →
      ScheduleEvent s (.joinDecrement n frame) (t.pushReady core c { recordOf b with join := 0, enq := u.time.toNat }.bytes)
  /-- 05_control.md R110, 01_machine.md R31: a hoist that has exited retires; the last of a block frees the block's room. -/
  | retire (src h b u) : s.hoist? src = some h → s.canRetire h = true → s.block? h.block = some b →
      u = { s.putHoist { h with retired := true, gate := false, wbuf := [], snapshot := none } with
        monitors := s.monitors.filter fun m => m.src != src || m.parked.isSome } →
      u.hoistsOf b.id ≠ [] → ScheduleEvent s (.hoistRetire src) u
  /-- DONEB counts the block. -/
  | retireLast (src b u c e v t) : LastOf s src b u → LastReplica u b → s.ctx? b.ctx = some c →
      Gets (counting u b) b.core c ((counting u b).gridVa c b.entry) 256 e v →
      Puts v b.core c (v.gridVa c b.entry + 72) (natLe 8 (entryDone e + 1)) t →
      (entryState e ≠ 3 ∨ entryDone e + 1 ≠ (packetOf (e.take 64)).blocks) →
      ScheduleEvent s (.hoistRetire src) (t.removeBlock b.id)
  /-- R316: the last block of a grid that has given out all of them: the grid is ENDING. -/
  | retireEnds (src b u c e v t w) : LastOf s src b u → LastReplica u b → s.ctx? b.ctx = some c →
      Gets (counting u b) b.core c ((counting u b).gridVa c b.entry) 256 e v →
      Puts v b.core c (v.gridVa c b.entry + 72) (natLe 8 (entryDone e + 1)) t →
      entryState e = 3 → entryDone e + 1 = (packetOf (e.take 64)).blocks →
      Puts t b.core c (t.gridVa c b.entry + 80) (sjBytes (entryJoin e) (entryStatus e) 4) w →
      ScheduleEvent s (.hoistRetire src) ((ending w c b.entry b.core).removeBlock b.id)
  /-- 21_reliability.md R362: a replica that is not the last one is not counted. -/
  | retireReplica (src b u) : LastOf s src b u → ¬ LastReplica u b →
      ScheduleEvent s (.hoistRetire src)
        (State.removeBlock { u with retiredReplicas := (b.ctx, b.entry, b.linear) :: u.retiredReplicas } b.id)
  /-- 15_cube.md R302: the cube work of the block goes, the block leaves, its RELAUNCH record is ready, and the fault is logged. -/
  | kill (n f b c va pc u v) : s.flight? n = some f → s.killAddress f = some (va, pc) → s.enabled f = true →
      s.block? f.block = some b → s.ctx? f.ctx = some c → s.spanBlocks b.span = [b] →
      (∀ x ∈ s.flights, x.block = b.id → ∀ j, x.work ≠ .copy j) →
      u = (s.beginKill f b va pc).removeBlock b.id → v = u.pushReady b.core c (u.startRecord b.core c b 5).bytes →
      ScheduleEvent s (.blockKill n) (v.logEvent 3 (0x3040 + b.core / 4) (some c.id) 0
        (natLe 8 va.toNat ++ natLe 8 pc.toNat))
  /-- 19_faults.md R347: a request goes into the host's fault ring with vector 33; while that is full it waits. -/
  | request (n k) : s.tokens.find? (·.id == n) = some k → k.refused = false → k.requested = false → k.hoists = [] →
      s.ringRoom s.host.flring.toNat s.host.fldepth.toNat = true →
      ScheduleEvent s (.translationRequest n)
        (asked (s.ringAppend s.host.flring.toNat s.host.fldepth.toNat (natLe 9 k.va.toNat ++ natLe 1 k.kind ++ natLe 1 k.ctx ++
            natLe 1 0 ++ natLe 2 k.id ++ natLe 2 0 ++ natLe 8 s.time.toNat ++ natLe 8 0)) k.id)
  | requestWaits (n k) : s.tokens.find? (·.id == n) = some k → k.refused = false → k.hoists = [] →
      (k.requested = true ∨ s.ringRoom s.host.flring.toNat s.host.fldepth.toNat = false) →
      ScheduleEvent s (.translationRequest n) s
  /-- R315: a waiting grid whose packet is good becomes READY with its TIME, or ends at once when it has no block; a bad one ends
  with its status, before or after its argument block has been read. -/
  | ready (n e c b pkt a u t1 v w t2 t3) : Waiting s n c e b u t1 → Counts t1 c.firstCore c (b.take 64) pkt v →
      Argued v c.firstCore c (packetOf (b.take 64)) a w → causeAt t1 v c e b pkt a = 0 →
      Puts w c.firstCore c (w.gridVa c e + 0) pkt t2 → (packetOf pkt).blocks ≠ 0 →
      Puts t2 c.firstCore c (t2.gridVa c e + 80) (sjBytes 0 0 2) t3 →
      ScheduleEvent s (.gridReady n e) { t3 with sweep := 0 }
  | readyEmpty (n e c b pkt a u t1 v w t2 t3) : Waiting s n c e b u t1 → Counts t1 c.firstCore c (b.take 64) pkt v →
      Argued v c.firstCore c (packetOf (b.take 64)) a w → causeAt t1 v c e b pkt a = 0 →
      Puts w c.firstCore c (w.gridVa c e + 0) pkt t2 → (packetOf pkt).blocks = 0 →
      Puts t2 c.firstCore c (t2.gridVa c e + 80) (sjBytes 0 0 4) t3 →
      ScheduleEvent s (.gridReady n e) (ending t3 c e c.firstCore)
  | readyBad (n e c b pkt u t1 v t2) : Waiting s n c e b u t1 → Counts t1 c.firstCore c (b.take 64) pkt v →
      1 ≤ causeAt t1 v c e b pkt (List.replicate 32 0) → causeAt t1 v c e b pkt (List.replicate 32 0) ≤ 3 →
      Puts v c.firstCore c (v.gridVa c e + 80) (sjBytes 0 (causeAt t1 v c e b pkt (List.replicate 32 0)) 4) t2 →
      ScheduleEvent s (.gridReady n e) (ending t2 c e c.firstCore)
  | readyBadArgs (n e c b pkt a u t1 v w t2) : Waiting s n c e b u t1 → Counts t1 c.firstCore c (b.take 64) pkt v →
      Argued v c.firstCore c (packetOf (b.take 64)) a w → 4 ≤ causeAt t1 v c e b pkt a →
      Puts w c.firstCore c (w.gridVa c e + 80) (sjBytes 0 (causeAt t1 v c e b pkt a) 4) t2 →
      ScheduleEvent s (.gridReady n e) (ending t2 c e c.firstCore)
  /-- R316: an ENDING grid whose steps 1 and 2 are made and whose posted writes are done: the Ensign that made the final change
  writes its completion record, then FREE. -/
  | gridEnd (n e c b u x g t1 t2 t3) : s.ctx? n = some c → s.ends.find? (fun y => y.ctx == c.id && y.entry == e) = some x →
      Gets s x.core c (s.gridVa c e) 256 b u → entryState b = 4 → x.waits = some g → c.holdsUpTo g = false →
      (packetOf (b.take 64)).donea ≠ 0 →
      Puts { u with ends := u.ends.filter fun y => !(y.ctx == c.id && y.entry == e) } x.core c ((packetOf (b.take 64)).donea + 8)
        (natLe 8 (entryStatus b)) t1 →
      Puts t1 x.core c (packetOf (b.take 64)).donea (natLe 8 (packetOf (b.take 64)).donev) t2 →
      Puts t2 x.core c (t2.gridVa c e + 80) (sjBytes 0 (entryStatus b) 0) t3 → t3.poisoned (c.dpa + 196) 4 = false →
      ScheduleEvent s (.gridEnd n e) (t3.agentWrite c.id (c.dpa + 196) (natLe 4
        (leNat (t3.readMem (c.dpa + 196) 4) % 2 ^ 9 + 1 + 65536 * (leNat (t3.readMem (c.dpa + 196) 4) / 2 ^ 16 % 2 ^ 6))))
  /-- R324: a core for which no context is admitted has nothing to evaluate. -/
  | evaluateNothing (core) : (∀ c ∈ s.ctxs, s.admits core c = false) → (∀ x ∈ s.pushes, x.core ≠ core) →
      (core ≠ 0 ∨ s.nodes = []) → (∀ h ∈ s.candidates, h.core = core → h.holding = false ∨ s.ctx? h.ctx = none) →
      ScheduleEvent s (.ensignEvaluation core)
        { s with candidates := s.candidates.filter (·.core != core), sweep := core + 1 }
  /-- R323–R325: the candidate that comes first is admitted when it fits; nothing else is in this evaluation. -/
  | takes (core xs u x v) : (s.prepare core).candidatesOf core = (xs, u) → Chosen u core xs x → Admitted u core x v →
      ScheduleEvent s (.ensignEvaluation core) (swept s { v with candidates := v.candidates.filter (·.core != core) } core)
  /-- R324: while the candidate that admission is held for does not fit nothing else is admitted; a block may make room. -/
  | heldWaits (core xs u x) : (s.prepare core).candidatesOf core = (xs, u) → u.heldFor core xs = some x → Unfit u core x →
      ScheduleEvent s (.ensignEvaluation core) (swept s (u.parkFor core x) core)
  /-- R324: so it is while that candidate cannot be seen. -/
  | heldUnseen (core xs u h) : (s.prepare core).candidatesOf core = (xs, u) → u.heldFor core xs = none → OutOfSight u core h →
      ScheduleEvent s (.ensignEvaluation core) (swept s u core)
  /-- R324: a first candidate that does not fit is remembered with its time, and the next one that fits is admitted. -/
  | firstWaits (core x u) : (s.prepare core).candidatesOf core = ([x], u) → Free u core [x] → Unfit u core x →
      ScheduleEvent s (.ensignEvaluation core) (swept s (State.parkFor { u with
        candidates := ⟨core, x.ctx, x.key, u.firstSince core x, false⟩ :: u.candidates.filter (·.core != core) } core x) core)
  | takesNext (core x y u t v) : (s.prepare core).candidatesOf core = ([x, y], u) → Free u core [x, y] → Unfit u core x →
      t = State.parkFor { u with
        candidates := ⟨core, x.ctx, x.key, u.firstSince core x, false⟩ :: u.candidates.filter (·.core != core) } core x →
      Admitted t core y v → ScheduleEvent s (.ensignEvaluation core) (swept s v core)
  /-- R326, R329: a stopped and drained block is written to a frame of the pool; its record waits for its waits, or is ready. -/
  | save (n b c k p q x u va r v) : s.block? n = some b → s.ctx? b.ctx = some c → s.spanBlocks b.span = [b] →
      b.residency = .stopping k → k ≤ 4 → s.drained b = true → s.ensignRuns b.core = true →
      (b.frameBytes (s.allHoists b) (List.replicate 32 0)).length ≤ s.frameSize c → s.ctxQueue b.core c 2 = some (p, q) →
      s.queuePop p q 1 = .ok ([x], u) → va = BitVec.ofNat 72 (256 * leNat x) →
      r = u.savedRecord b k (u.joinOf b k) (leNat x) → Puts u b.core c va (b.frameBytes (u.allHoists b) r.bytes) v →
      ScheduleEvent s (.preemptSave n) (saved v b c k va r)
  | saveWaits (n b c) : s.block? n = some b → s.ctx? b.ctx = some c → b.residency ≠ .running →
      (∃ x ∈ s.spanBlocks b.span, s.drained x = false) →
      ScheduleEvent s (.preemptSave n) s
  /-- 01_machine.md R34: a block that waits on a monitor stops, to be saved under KIND 1. -/
  | park (n b) : s.block? n = some b → s.mayPark b = true →
      ScheduleEvent s (.blockPark n) ((s.stopSpan b.span 1).saveSpan n)
  | parkNot (n b) : s.block? n = some b → b.residency ≠ .running → b ∈ s.spanBlocks b.span → ScheduleEvent s (.blockPark n) s
  /-- R329, 23_rendering.md R391: the mask is stored, the gates of cores that come back open, and the blocks on cores that left
  it are to leave. -/
  | coremask (n c mask u v) : s.ctx? n = some c →
      u = (s.agentWrite n (c.dpa + 136) (natLe 24 mask.toNat)).updCtx n (fun c => { c with coremask := mask }) →
      v = { u with gates := u.gates.filter fun g => !(g.2 == n && mask.getLsbD g.1 && !c.coremask.getLsbD g.1) } →
      ScheduleEvent s (.coremaskCommit n mask) ((v.preempt n (c.coremask &&& ~~~mask) mask).refreshPend n)
  /-- R324. -/
  | hold (core) : ScheduleEvent s (.admissionHold core) { s with candidates := s.candidates.map fun x =>
      { x with holding := x.holding || (x.core == core && decide (x.since + 1200000 ≤ s.time.toNat)) } }
  /-- 19_faults.md R348: the request ends, and its accessors try again or are refused; parked blocks are marked in their frames
  first. -/
  | resolveRetry (n k x) : s.host.enable = true → s.tokens.find? (fun t => t.id == k.toNat && t.ctx == n.toNat) = some x →
      ScheduleEvent s (.resolveRetry n k) (s.endToken x false)
  | resolveRefuse (n k x) : s.host.enable = true → s.tokens.find? (fun t => t.id == k.toNat && t.ctx == n.toNat) = some x →
      x.records = [] → (s.ctx? x.ctx).isSome = true → ScheduleEvent s (.resolveRefuse n k) (s.endToken x true)
  | resolveRefuseParked (n k x c u) : s.host.enable = true →
      s.tokens.find? (fun t => t.id == k.toNat && t.ctx == n.toNat) = some x → s.ctx? x.ctx = some c →
      State.markRefused c.firstCore c (x.records.flatMap fun r => r.2.map fun h => (r.1, h))
        { s with tokens := s.tokens.map fun y => if y.id == x.id then { y with refused := true } else y } Act.ok = .ok u →
      ScheduleEvent s (.resolveRefuse n k) (u.endToken x true)
  | resolveUnknown (i n k r) : (i = .resolveRetry n k ∧ r = 0 ∨ i = .resolveRefuse n k ∧ r = 1) → s.host.enable = true →
      (∀ t ∈ s.tokens, t.id ≠ k.toNat ∨ t.ctx ≠ n.toNat) →
      ScheduleEvent s i (s.logEvent 9 0x3210 none 0 (natLe 8 (r * 2 ^ 22 + n.toNat * 65536 + k.toNat)))
  | resolveDisabled (i n k) : (i = .resolveRetry n k ∨ i = .resolveRefuse n k) → s.host.enable = false → ScheduleEvent s i s

/-! ### The host -/

/-- A push that reaches a queue of a context: the place, the queue, and what is pushed has the queue's element size. -/
def PushTo (s : State) (slot : Nat) (data : List Byte) (p : QueuePlace) (q : QueueWord) : Prop :=
  s.host.enable = true ∧ ∃ c, s.ctx? (slot / 16) = some c ∧ s.ctxQueue c.firstCore c (slot % 16) = some (p, q) ∧
    data.length = q.size ∧ (q.size = 32 ∨ q.size = 64)

/-- The state after a push that was appended: the Ensigns are signalled for a launch or ready queue (17_scheduling.md R310). -/
def signalled (slot : Nat) (u : State) : State := if slot % 16 ≤ 1 then { u with sweep := 0 } else u

/-- A command of the command word that the host may give now, with its context, and the state in which it is recorded. -/
def Commands (s : State) (cmd : Nat) (n : BitVec 6) (dpa : Nat) (u : State) : Prop :=
  s.host.enable = true ∧ s.host.busy = none ∧ s.tableEntry n.toNat = some dpa ∧
    u = { s with host := { s.host with cmd := cmd, cmdCtx := n.toNat } }

/-- CTL of a descriptor that ACTIVATE and REFRESH take: SBMODE below 3, LEASE not zero, reserved bits zero (R307). -/
abbrev ctlGood (v : Nat) : Prop :=
  v / 2 ^ 4 % 4 ≠ 3 ∧ v / 2 ^ 16 % 2 ^ 16 ≠ 0 ∧ v / 2 ^ 9 % 2 ^ 7 = 0 ∧ v / 2 ^ 6 % 4 = 0 ∧ v / 2 ^ 3 % 2 = 0

/-- The expansion command that waits first, with its fields, its STATUS within reach (27_host.md R439). -/
def Expansion (s : State) (x : List Byte) (rest : List (List Byte)) (src n dict m dst bound at_ : Nat) (u : State) : Prop :=
  s.host.expq = x :: rest ∧ src = leNat (segment x 0 8) ∧ n = leNat (segment x 8 8) ∧ dict = leNat (segment x 16 8) ∧
    m = leNat (segment x 24 8) ∧ dst = leNat (segment x 32 8) ∧ bound = leNat (segment x 40 8) ∧ at_ = leNat (segment x 48 8) ∧
    u = { s with host := { s.host with expq := rest } } ∧ s.outOfReach at_ 8 = false

/-- How an expansion whose destination is within reach ends with a STATUS other than 0, and how many bytes it has produced when
its checksum is wrong (27_host.md R438, R439). -/
inductive Refuses (s : State) (src n dict m bound : Nat) : Nat → Option Nat → Prop
  | access : (s.outOfReach src n = true ∨ s.outOfReach dict m = true ∨ (n ≠ 0 ∧ s.poisoned src n = true) ∨
      (m ≠ 0 ∧ s.poisoned dict m = true)) → Refuses s src n dict m bound 4 none
  | malformed : s.outOfReach src n = false → s.outOfReach dict m = false → (n ≠ 0 → s.poisoned src n = false) →
      (m ≠ 0 → s.poisoned dict m = false) → zstdExpand (s.readMem src n) (s.readMem dict m) = .malformed →
      Refuses s src n dict m bound 2 none
  | size (data) : s.outOfReach src n = false → s.outOfReach dict m = false → (n ≠ 0 → s.poisoned src n = false) →
      (m ≠ 0 → s.poisoned dict m = false) → zstdExpand (s.readMem src n) (s.readMem dict m) = .ok data → bound < data.length →
      Refuses s src n dict m bound 1 none
  | checksum (made) : s.outOfReach src n = false → s.outOfReach dict m = false → (n ≠ 0 → s.poisoned src n = false) →
      (m ≠ 0 → s.poisoned dict m = false) → zstdExpand (s.readMem src n) (s.readMem dict m) = .mismatch made → made ≤ bound →
      Refuses s src n dict m bound 3 (some made)

/-- The effect of a host event. -/
inductive HostEvent (s : State) : Instr → State → Prop
  /-- 17_scheduling.md R309, R310. -/
  | dmwr (slot data p q k u) : PushTo s slot data p q → s.queuePush p q [data] .store = .ok (k + 1, u) →
      HostEvent s (.pushDmwr slot data) (answered (signalled slot u) 0)
  | dmwrFull (slot data p q u) : PushTo s slot data p q → s.queuePush p q [data] .store = .ok (0, u) →
      HostEvent s (.pushDmwr slot data) (answered u 2)
  | dmwrNone (slot data) : (s.host.enable = false ∨ s.ctx? (slot / 16) = none) → HostEvent s (.pushDmwr slot data) (answered s 1)
  | posted (slot data p q k u) : PushTo s slot data p q → s.queuePush p q [data] .store = .ok (k + 1, u) →
      HostEvent s (.pushPosted slot data) (signalled slot u)
  | postedFull (slot data p q u) : PushTo s slot data p q → s.queuePush p q [data] .store = .ok (0, u) →
      HostEvent s (.pushPosted slot data) { u with host := { u.host with
        lost := (slot, BitVec.ofNat 32 (u.lostOf slot + 1)) :: u.host.lost.filter (·.1 != slot) } }
  /-- R307: a context starts as its descriptor says. -/
  | activate (n dpa u v) : Commands s 0 n dpa u → u.ctx? n.toNat = none → v = u.descriptor dpa → ctlGood v.ctl →
      HostEvent s (.activate n) { u with
        sweep := 0
        gates := u.gates.filter (·.2 != n.toNat)
        widths := u.widths.filter (·.ctx != n.toNat)
        aside := u.aside.filter (·.block.ctx != n.toNat)
        nodes := u.nodes.filter (·.1 != n.toNat)
        ctxs := u.ctxs ++ [{ Ctx.none with
          id := n.toNat
          dpa := dpa
          prio := v.ctl % 2 ^ 3
          sbmode := v.ctl / 2 ^ 4 % 4
          scopemode := v.ctl / 2 ^ 8 % 2
          lease := v.ctl / 2 ^ 16 % 2 ^ 16
          tvec := v.tvec
          emtab := v.emtab
          coremask := v.coremask &&& BitVec.ofNat 192 (2 ^ s.die.cores - 1) }] }
  | activateBad (n dpa u) : Commands s 0 n dpa u → (u.ctx? n.toNat).isSome = true →
      HostEvent s (.activate n) (u.logEvent 9 0x3210 none 0 (natLe 8 n.toNat))
  | refresh (n dpa u c v) : Commands s 1 n dpa u → u.ctx? n.toNat = some c → v = u.descriptor c.dpa → ctlGood v.ctl →
      HostEvent s (.refresh n) { (u.updCtx n.toNat fun c => { c with
          prio := v.ctl % 2 ^ 3
          sbmode := v.ctl / 2 ^ 4 % 4
          scopemode := v.ctl / 2 ^ 8 % 2
          lease := v.ctl / 2 ^ 16 % 2 ^ 16
          tvec := v.tvec
          emtab := v.emtab }).commitMask n.toNat (v.coremask &&& BitVec.ofNat 192 (2 ^ s.die.cores - 1)) with sweep := 0 }
  | destroy (n dpa u c) : Commands s 2 n dpa u → u.ctx? n.toNat = some c →
      HostEvent s (.destroy n) (((State.updCtx { u with host := { u.host with busy := some n.toNat } } n.toNat fun c =>
        { c with destroying := true }).commitMask n.toNat 0).endDestroy n.toNat)
  | destroyNone (n dpa u) : Commands s 2 n dpa u → u.ctx? n.toNat = none →
      HostEvent s (.destroy n) (u.writePhys (u.host.ctxtab.toNat + 8 * n.toNat) (natLe 8 0))
  /-- Before ENABLE a command is discarded. -/
  | discarded (i n) : (i = .activate n ∨ i = .refresh n ∨ i = .destroy n) → s.host.enable = false → HostEvent s i s
  /-- 27_host.md R439: eight commands wait at most. -/
  | expansion (data posted) : s.host.enable = true → data.length = 64 → s.host.expq.length < 8 →
      HostEvent s (.expansionCommand data posted)
        (if posted then expanding s data else answered (expanding s data) 0)
  | expansionFull (data) : s.host.enable = true → data.length = 64 → 8 ≤ s.host.expq.length →
      HostEvent s (.expansionCommand data false) (answered s 2)
  | expanded (x rest src n dict m dst bound at_ u data) : Expansion s x rest src n dict m dst bound at_ u →
      s.outOfReach src n = false → s.outOfReach dict m = false → s.outOfReach dst bound = false →
      (n ≠ 0 → s.poisoned src n = false) → (m ≠ 0 → s.poisoned dict m = false) →
      zstdExpand (s.readMem src n) (s.readMem dict m) = .ok data → data.length ≤ bound →
      HostEvent s .expansionDone
        (((u.writePhys dst data).writePhys at_ (natLe 4 0 ++ natLe 4 data.length)).raiseMsi 35)
  /-- R438, R439: what cannot be read or written 4, malformed data 2, a size above BOUND 1: the destination below BOUND and the
  count are then open. -/
  | expandedBad (x rest src n dict m dst bound at_ u st) : Expansion s x rest src n dict m dst bound at_ u →
      s.outOfReach dst bound = false → Refuses s src n dict m bound st none →
      HostEvent s .expansionDone
        (((State.writePhys { u with fresh := s.fresh + 1 + bound } dst (freeBytes (s.fresh + 1) bound)).writePhys at_
          (natLe 4 st ++ natLe 4 (Config.freeWord s.fresh).toNat)).raiseMsi 35)
  /-- A wrong checksum 3, with the count of the bytes produced; the destination below BOUND is then open. -/
  | expandedWrong (x rest src n dict m dst bound at_ u st made) : Expansion s x rest src n dict m dst bound at_ u →
      s.outOfReach dst bound = false → Refuses s src n dict m bound st (some made) →
      HostEvent s .expansionDone
        (((State.writePhys { u with fresh := s.fresh + bound } dst (freeBytes s.fresh bound)).writePhys at_
          (natLe 4 st ++ natLe 4 made)).raiseMsi 35)
  | expandedNone : s.host.expq = [] → HostEvent s .expansionDone s
  /-- R430, R441: ENABLE with good host fields starts the agents; a bad field stands in ERR. -/
  | enable (v) : s.host.barReady = true → s.host.enable = false → v.getLsbD 0 = true → s.host.check = 0 →
      HostEvent s (.enable v) { s with
        sweep := 0
        host := changed { s.host with enable := true, err := 0 }
        hoists := s.hoists ++ agents s.die }
  | enableBad (v) : s.host.barReady = true → s.host.enable = false → v.getLsbD 0 = true → s.host.check ≠ 0 →
      s.host.err ≠ s.host.check → HostEvent s (.enable v) { s with host := changed { s.host with err := s.host.check } }
  | enableAgain (v) : s.host.barReady = true → s.host.enable = true →
      HostEvent s (.enable v) (s.logEvent 9 0x3210 none 0 (natLe 4 v.toNat))
  /-- R444: the power cap, within its range. -/
  | cap (data) : s.host.barReady = true → s.windowsOff + 88 ≤ telOff → data.length = 4 → 150 ≤ leNat data → leNat data ≤ 640 →
      HostEvent s (.registerWrite (telOff + 0x14) data) { s with power := { s.power with capW := BitVec.ofNat 32 (leNat data) } }
  /-- R428: a register block that does not answer yet. -/
  | registerNone (off data) : s.host.barReady = false → HostEvent s (.registerWrite off data) s
  /-- R425–R427: memory of the part as the host reaches and writes it; an address that it does not reach reads as ones. -/
  | read (pa data) : s.host.barReady = true → pa < 2 ^ 52 → s.hostReaches pa data.length = true →
      HostEvent s (.hostAccess pa false data) { s with host := { s.host with
        replies := s.host.replies ++ [s.mem.readBytes pa data.length ++ [if s.poisoned pa data.length then 1 else 0]] } }
  | write (pa data) : s.host.barReady = true → pa < 2 ^ 52 → s.hostReaches pa data.length = true →
      HostEvent s (.hostAccess pa true data) (s.writePhys pa data)
  | readNone (pa data) : s.host.barReady = true → pa < 2 ^ 52 → s.hostReaches pa data.length = false →
      HostEvent s (.hostAccess pa false data) { s with host := { s.host with
        replies := s.host.replies ++ [List.replicate data.length 0xFF ++ [0]] } }
  | writeNone (pa data) : s.host.barReady = true → pa < 2 ^ 52 → s.hostReaches pa data.length = false →
      HostEvent s (.hostAccess pa true data) s
  /-- R441: what answers after a reset. -/
  | configReady : s.power.powered = true → HostEvent s .configSpaceReady { s with host := { s.host with configReady := true } }
  | barReady : s.host.configReady = true → HostEvent s .bar0Ready { s with host := { s.host with barReady := true } }
  /-- R443: D3hot once every context is destroyed. -/
  | d3hot : s.ctxs = [] → HostEvent s .d3hotEntry { s with power := { s.power with dstate := 3 } }
  | d3hotNot : s.ctxs ≠ [] → HostEvent s .d3hotEntry s
  | gateClock (k) : (∀ h ∈ s.hoists, h.role = .user → clusterOf h.src ≠ k) → k ∉ s.power.gated → k < s.die.clusters →
      HostEvent s (.clusterClockGate k) { s with power := { s.power with gated := s.power.gated ++ [k] } }
  /-- R442, R445: a step of 100 MHz, within 400 MHz and the full rate; the first one of a throttle is logged. -/
  | stepDown (causes) : causes ≠ 0 → s.power.clockMHz ≠ s.die.fullClock → causes &&& ~~~s.power.causes = 0 →
      HostEvent s (.clockStepDown causes) { s with power := { s.power with
        clockMHz := max 400 (s.power.clockMHz - 100), causes := causes, throttled := true } }
  | stepDownFirst (causes u) : causes ≠ 0 → s.power.clockMHz = s.die.fullClock →
      u = { s with power := { s.power with
        clockMHz := max 400 (s.die.fullClock - 100), causes := causes, throttled := true } } →
      HostEvent s (.clockStepDown causes) ((State.logEvent { u with fresh := u.fresh + 1 } 11
        ((Config.freeWord u.fresh).toNat % 0x8000) none causes.toNat (natLe 16 u.power.clockMHz)).raiseMsi 37)
  | stepUp : s.power.clockMHz < s.die.fullClock → HostEvent s .clockStepUp { s with power := { s.power with
      clockMHz := min s.die.fullClock (s.power.clockMHz + 100)
      causes := if s.die.fullClock ≤ s.power.clockMHz + 100 then 0 else s.power.causes
      fullSince := s.time.toNat } }
  /-- R445: 1 ms back at full rate ends a throttle, with its record. -/
  | throttleEnd (u) : s.power.throttled = true → s.power.clockMHz = s.die.fullClock →
      s.power.fullSince + 1200000 ≤ s.time.toNat → u = { s with power := { s.power with throttled := false } } →
      HostEvent s .throttleEnd (State.logEvent { u with fresh := u.fresh + 1 } 11
        ((Config.freeWord u.fresh).toNat % 0x8000) none u.power.causes.toNat (natLe 16 u.power.clockMHz))
  /-- 21_reliability.md R371: a ninth channel faults every context; a channel that fails has every
  block stopped for a save, and what it cannot deliver is poisoned. -/
  | ninth (k) : s.die = .tsuord → k < 80 → k ∉ s.power.failing → 8 ≤ s.power.dropped + s.power.failing.length →
      HostEvent s (.pseudoChannelFailing k)
        (s.ctxs.foldl (fun s c => s.faultCtx c.id .ninthChannel (0x3300 + k) []) s)
  | channel (k u v) : s.die = .tsuord → k < 80 → k ∉ s.power.failing → s.power.dropped + s.power.failing.length < 8 →
      u = State.logEvent { s with power := { s.power with failing := s.power.failing ++ [k], saving := true } } 7
        (0x3300 + k) none k [] →
      v = (u.blocks.map (·.id)).foldl State.stopLeaving u →
      HostEvent s (.pseudoChannelFailing k)
        (((Config.unreadable k).filter fun n => v.isT0 (32 * n) 32).foldl (fun s n => s.poisonSector n (0x3300 + k)) v)
  /-- Once every block is saved, the memory is laid out anew over one channel less. -/
  | rebuild (k c u) : k ∈ s.power.failing → s.blocks = [] →
      c = s.power.capacity * (s.power.channels - 1) / s.power.channels / 65536 * 65536 →
      u = { s with
        mem := s.mem.filter fun x => decide (x.1 < c) || decide (s.power.built ≤ x.1)
        poison := s.poison.filter fun k => decide (32 * k < c) || decide (s.power.built ≤ 32 * k)
        host := changed s.host
        power := { s.power with
          failing := s.power.failing.filter (· != k)
          saving := !(s.power.failing.filter (· != k)).isEmpty
          dropped := s.power.dropped + 1
          channels := s.power.channels - 1
          capacity := c } } →
      HostEvent s (.interleaveRebuild k) { u.logEvent 7 (0x3300 + k) none k (natLe 16 c) with sweep := 0 }

/-- What a Function Level Reset, a hot reset and a link-down leave (27_host.md R441): memory, poison and the counter stay;
every context and everything that ran is gone, with ENABLE and the host fields. -/
structure FunctionReset (s t : State) : Prop where
  mem : t.mem = s.mem
  poison : t.poison = s.poison
  time : t.time = s.time
  clean : t.ctxs = [] ∧ t.blocks = [] ∧ t.hoists = [] ∧ t.flights = [] ∧ t.tokens = [] ∧ t.monitors = [] ∧ t.holds = [] ∧
    t.pins = [] ∧ t.coreTlb = [] ∧ t.clusterTlb = []
  host : t.host.enable = false ∧ t.host.err = 0 ∧ t.host.ctxtab = 0 ∧ t.host.evring = 0 ∧ t.host.flring = 0 ∧ t.host.sgring = 0
  cap : t.power.capW = 640
  answers : t.host.configReady = s.host.configReady ∧ t.host.barReady = s.host.barReady

/-- What a cold reset leaves (R441): nothing that ran, no byte of the part's own memory, the counter at zero. -/
structure ColdReset (s t : State) : Prop where
  die : t.die = s.die
  mem : ∀ a, homedHere s.die a = true → t.mem.read a = 0
  other : ∀ a, homedHere s.die a = false → t.mem.read a = s.mem.read a
  time : t.time = 0
  clean : t.ctxs = [] ∧ t.blocks = [] ∧ t.hoists = [] ∧ t.flights = [] ∧ t.tokens = [] ∧ t.monitors = [] ∧ t.holds = [] ∧
    t.pins = [] ∧ t.coreTlb = [] ∧ t.clusterTlb = [] ∧ t.poison = []
  host : t.host.enable = false ∧ t.host.configReady = false ∧ t.host.barReady = false
  link : t.link.up = false

/-! ### The link and checkpoints -/

/-- A mirrored context that has the mirror state m. -/
def Mirrored (s : State) (n : Nat) (c : Ctx) (m : Mirror) : Prop := s.ctx? n = some c ∧ c.mirror = some m

/-- A generation begins: the context's blocks stop where they stand (25_docking.md R419). -/
def quiescing (s : State) (n : Nat) (m : Mirror) : State :=
  { s.updCtx n fun c => { c with mirror := some { m with phase := .quiesce } } with
    blocks := s.blocks.map fun (b : Block) => if b.ctx == n && b.residency == .running then { b with residency := .quiesced } else b }

/-! #### What the other die's memory holds (R410, R411, R418–R421) -/

/-- A field of the header of generation g's bank (R418). -/
def bankField (s : State) (d : Dock) (g off n : Nat) : Nat := field (s.raw (d.mpa + 65536 + g % 2 * d.bankSize) 64) off n

/-- The address of record k of generation g's page log, and of its write log (R418). -/
def pageRecordAt (s : State) (d : Dock) (g k : Nat) : Nat :=
  d.mpa + 65536 + g % 2 * d.bankSize + bankField s d g 24 8 + 65600 * k
def writeRecordAt (s : State) (d : Dock) (g k : Nat) : Nat :=
  d.mpa + 65536 + g % 2 * d.bankSize + bankField s d g 32 8 + 80 * k

/-- 64 KiB copied from one place to another, with the poison of their sectors (21_reliability.md R357, R358). -/
def copied (s : State) (src dst : Nat) : State := (s.writePhys dst (s.raw src 65536)).carryPoison src dst 65536

/-- A generation's logs performed (R421 steps 1 and 2): each logged page at its MPA, then each logged write at its PA, in log
order. -/
def performed (s : State) (d : Dock) (g : Nat) : State :=
  (List.range (bankField s d g 12 4)).foldl
    (fun t k => t.writePhys (leNat (s.raw (writeRecordAt s d g k) 8))
      (s.raw (writeRecordAt s d g k + 16) (leNat (s.raw (writeRecordAt s d g k + 8) 1))))
    ((List.range (bankField s d g 8 4)).foldl
      (fun t k => copied t (pageRecordAt s d g k + 64) (65536 * leNat (s.raw (pageRecordAt s d g k + 8) 8))) s)

/-- A leaf with another frame and HOME, its other bits kept (R410, 19_faults.md R342). -/
def rehomed (leaf frame home : Nat) : Nat :=
  leaf / 2 ^ 52 * 2 ^ 52 + frame * 2 ^ 16 + leaf / 2 ^ 9 % 2 ^ 7 * 2 ^ 9 + home * 2 ^ 7 + leaf % 2 ^ 7

/-- The leaf of a page, where it is mapped, names a frame and a home, and entry i of the home table a state (R410). -/
def homeAt (s : State) (d : Dock) (n : Nat) (page : BitVec 56) (i frame home state : Nat) : State :=
  (match s.pageLeaf (d.ctx n) page with
    | some (pa, leaf) => s.writePhys pa (natLe 8 (rehomed leaf frame home))
    | none => s).writePhys (d.homeTab + 32 * i + 24) (natLe 1 state)

/-- A page of a context moves to the Tsuord (R411): its 64 KiB from MPA to TPA, then its leaf names TPA with HOME 1 and its home
table entry STATE 2, with the effect of TLBI.page.sys. -/
def MovedToTsuord (s : State) (d : Dock) (n : Nat) (page : BitVec 56) (t : State) : Prop :=
  ∃ i, s.homeEntry d.homeTab d.homes page = some i ∧
    t = (homeAt (copied s (65536 * (s.homeField d.homeTab i 16 8 % 2 ^ 36)) (65536 * (s.homeField d.homeTab i 8 8 % 2 ^ 36))) d n page
      i (s.homeField d.homeTab i 8 8 % 2 ^ 36) 1 2).tlbiPage (d.ctx n) page (s.pageEntry (d.ctx n) page)

/-- A page goes home to the companion once its generation has been applied (R411): its leaf names MPA with HOME 0, its entry STATE
1, with the effect of TLBI.page.sys. -/
def movedBack (s : State) (d : Dock) (n : Nat) (page : BitVec 56) : State :=
  match s.homeEntry d.homeTab d.homes page with
  | some i => (homeAt s d n page i (s.homeField d.homeTab i 16 8 % 2 ^ 36) 0 1).tlbiPage (d.ctx n) page (s.pageEntry (d.ctx n) page)
  | none => s

/-- The pages of generation g's page log that go home with it: those in transit. -/
def goHome (s : State) (d : Dock) (g : Nat) : List (BitVec 56) :=
  ((List.range (bankField s d g 8 4)).map fun k => BitVec.ofNat 56 (leNat (s.raw (pageRecordAt s d g k) 8))).filter fun p =>
    s.homeState d p == 3

/-- A generation is applied (R421): its logs, the homes that go with it, then APPLIED in the header. -/
def appliedTo (s : State) (n g : Nat) : State :=
  ((goHome s (s.dock n) g).foldl (fun t p => movedBack t (s.dock n) n p) (performed s (s.dock n) g)).writePhys ((s.dock n).mpa + 8)
    (natLe 4 g)

/-- The entries of a mirrored context's home table whose pages a generation logs: Tsuord-homed, and dirty, asked for by the
companion, or of the last generation (R411, R415, R419). -/
def Logs (s : State) (c : Ctx) (m : Mirror) (i : Nat) (page : BitVec 56) : Bool :=
  s.homeField m.homeTab i 24 1 % 4 == 2 &&
    ((match s.pageLeaf c page with | some (_, leaf) => leaf / 2 ^ 11 % 2 == 1 | none => false) || m.final || m.homeReqs.contains page)
def toLog (s : State) (c : Ctx) (m : Mirror) : List (Nat × BitVec 56) :=
  ((List.range m.homes).map fun i => (i, BitVec.ofNat 56 (s.homeField m.homeTab i 0 7))).filter fun x => Logs s c m x.1 x.2

/-- Record k of the page log is written (R418): a tag of VA[71:16] and MPA, then the 64 KiB as this die holds them. -/
def pageLog (t : State) (m : Mirror) (at_ : Nat) (x : Nat × BitVec 56) : State :=
  (t.writePhys at_ (natLe 8 x.2.toNat ++ natLe 8 (t.homeField m.homeTab x.1 16 8 % 2 ^ 36) ++ natLe 48 0 ++
    t.view.readBytes (65536 * (t.homeField m.homeTab x.1 8 8 % 2 ^ 36)) 65536)).carryPoison
    (65536 * (t.homeField m.homeTab x.1 8 8 % 2 ^ 36)) (at_ + 64) 65536

/-- The header of a generation's bank (R418). -/
def bankHeader (g frames pages writes poff woff : Nat) : List Byte :=
  natLe 4 g ++ natLe 4 frames ++ natLe 4 pages ++ natLe 4 writes ++ natLe 8 256 ++ natLe 8 poff ++ natLe 8 woff ++ natLe 24 0

/-- Records of the write log (R418). -/
def writeLog (xs : List (Nat × List Byte)) : List Byte :=
  xs.flatMap fun x => natLe 8 x.1 ++ natLe 1 x.2.length ++ natLe 7 0 ++ x.2 ++ natLe (64 - x.2.length) 0

/-- What follows the logging of a page (R411, R419): its leaf is clean, one that goes to the companion is in transit in leaf and
entry, and no TLB entry of it is left. -/
def afterLog (t : State) (c : Ctx) (m : Mirror) (x : Nat × BitVec 56) : State :=
  let moves := m.final || m.homeReqs.contains x.2
  let t := match t.pageLeaf c x.2 with
    | some (pa, leaf) => t.writePhys pa (natLe 8 (if moves then rehomed (leaf - leaf / 2 ^ 11 % 2 * 2 ^ 11) (leaf / 2 ^ 16 % 2 ^ 36) 3
        else leaf - leaf / 2 ^ 11 % 2 * 2 ^ 11))
    | none => t
  (if moves then t.writePhys (m.homeTab + 32 * x.1 + 24) (natLe 1 3) else t).dropPage c.id x.2

/-- The bank of a mirrored context's next generation, at the sizes that its sections have (R418, R419). -/
def BankOf (s : State) (c : Ctx) (m : Mirror) (at_ poff woff : Nat) (frames : List Byte) (writes : List (Nat × List Byte)) : Prop :=
  at_ = m.mpa + 65536 + (m.generation + 1) % 2 * m.bankSize ∧
    frames = ((s.blocks.filter (·.ctx == c.id)).flatMap fun b => b.frameBytes (s.allHoists b) (s.savedRecord b 2 0 0).bytes) ∧
    poff = roundUp (256 + frames.length) 65536 ∧ woff = poff + 65600 * (toLog s c m).length ∧
    writes = m.companionWrites (m.generation + 1)

/-- A context comes back to the companion (R415): CMASK is its core mask again, V of its dock entry is clear, and the grids that
stand ENDING wait for no write any more (log 48). -/
def BackAt (s : State) (n : Nat) (t : State) : Prop :=
  ∃ u v, u = ((s.writePhys ((s.dock n).dpa + 136) (natLe 24 (BitVec.ofNat 192 (s.dock n).cmask).toNat)).commitMask n
      (BitVec.ofNat 192 (s.dock n).cmask)).updCtx n (fun x => { x with travelled := true }) ∧
    v = u.writePhys (u.link.dockTable + 64 * n) (natLe 8 (s.dock n).dpa) ∧
    t = { v with
      ends := v.ends ++ ((v.endingGrids ((s.dock n).ctx n)).map fun e =>
          (⟨n, e, ((v.ctx? n).getD Ctx.none).firstCore, some 0⟩ : Ending)).filter fun (x : Ending) =>
        !v.ends.any fun y => y.ctx == x.ctx && y.entry == x.entry
      link := { v.link with
        away := v.link.away.filter (· != n)
        returned := v.link.returned.filter (·.1 != n)
        asked := v.link.asked.filter (·.1 != n) }
      sweep := 0 }

/-- The effect of a link or checkpoint event. -/
inductive LinkEvent (s : State) : Instr → State → Prop
  /-- R405, R412: each die answers with its own HELLO and its counter; the LINK entry's CHANGE counts (27_host.md R429). -/
  | hello (peer table u) : s.link.up = false → s.die = .tsuord →
      u = sentOn (sentOn { s with link := { s.link with up := true, peer := peer, dockTable := table } } 1
        (natLe 4 s.die.deviceId.toNat)) 2 (natLe 8 s.time.toNat) →
      LinkEvent s (.hello peer table) { u with host := changed u.host }
  | helloCompanion (peer table) : s.link.up = false → s.die = .companion →
      LinkEvent s (.hello peer table)
        (sentOn (sentOn { s with link := { s.link with up := true, peer := peer, dockTable := table } } 1
          (natLe 4 s.die.deviceId.toNat ++ natLe 8 table)) 2 (natLe 8 s.time.toNat))
  /-- R412: the Tsuord never lags. -/
  | timesync (value latency) : s.link.up = true → s.die = .tsuord → s.time.toNat < value.toNat →
      LinkEvent s (.timesync value latency) (sentOn { s with time := value } 2 (natLe 8 value.toNat))
  | timesyncAhead (value latency) : s.link.up = true → s.die = .tsuord → value.toNat ≤ s.time.toNat →
      LinkEvent s (.timesync value latency) s
  /-- The companion takes the Tsuord's value and the latency, and never steps back. -/
  | timesyncBehind (value latency v) : s.link.up = true → s.die = .companion → v = value + BitVec.ofNat 64 latency →
      s.time.toNat < v.toNat →
      LinkEvent s (.timesync value latency) { s with time := v, link := { s.link with difference := 0 } }
  | timesyncBefore (value latency v) : s.link.up = true → s.die = .companion → v = value + BitVec.ofNat 64 latency →
      v.toNat ≤ s.time.toNat →
      LinkEvent s (.timesync value latency) { s with link := { s.link with difference := (v.toNat : Int) - s.time.toNat } }
  /-- R414: MIGACK answers 0 OK, 1 BUSY, 2 BADENTRY. -/
  | migrateBusy (n) : s.link.up = true → s.die = .tsuord → s.host.enable = true → (s.tableEntry n).isSome = true →
      LinkEvent s (.migrate n) (sentOn s 4 (natLe 1 n ++ natLe 1 1))
  | migrateBad (n) : s.link.up = true → s.die = .tsuord → (s.host.enable = false ∨ s.tableEntry n = none) →
      (s.host.enable = false ∨ 64 ≤ n ∨ (s.dock n).valid = false ∨ (s.dock n).ok = false ∨
        (s.mirrorHead (s.dock n).mpa).valid = false ∨ (s.mirrorHead (s.dock n).mpa).gen ≠ 0 ∨
        ctlBad (s.descriptor (s.dock n).dpa).ctl = true) →
      LinkEvent s (.migrate n) (sentOn s 4 (natLe 1 n ++ natLe 1 2))
  | migrate (n d u t) : s.link.up = true → s.die = .tsuord → s.host.enable = true → s.tableEntry n = none → n < 64 →
      d = s.dock n → d.valid = true → d.ok = true → (s.mirrorHead d.mpa).valid = true →
      (s.mirrorHead d.mpa).gen = 0 → ctlBad (s.descriptor d.dpa).ctl = false →
      u = s.writePhys (s.host.ctxtab.toNat + 8 * n) (natLe 8 (d.dpa + 1)) →
      u.activate n (some (d.mirror s.time.toNat)) = some t →
      LinkEvent s (.migrate n) (sentOn t 4 (natLe 1 n ++ natLe 1 0))
  | migack (n) : s.link.up = true → s.die = .companion →
      LinkEvent s (.migack n 0) { s with link := { s.link with away := s.link.away ++ [n] } }
  | migackRefused (n k) : k ≠ 0 → LinkEvent s (.migack n k) s
  /-- R415: the core mask of a context that returns is emptied. -/
  | return_ (n c m) : s.link.up = true → s.die = .tsuord → Mirrored s n c m →
      LinkEvent s (.returnCtx n) ((s.updCtx n fun c => { c with mirror := c.mirror.map fun m => { m with returning := true } }).commitMask n 0)
  | retdone (n g) : s.link.up = true → s.die = .companion → (s.mirrorHead (s.dock n).mpa).applied < g.toNat →
      LinkEvent s (.retdone n g) { s with link := { s.link with returned := s.link.returned ++ [(n, g.toNat)] } }
  | retdoneApplied (n g t) : s.link.up = true → s.die = .companion → g.toNat ≤ (s.mirrorHead (s.dock n).mpa).applied →
      BackAt s n t → LinkEvent s (.retdone n g) t
  /-- R411: the companion asks for a page that the Tsuord has; it starts a generation, or waits for IDLE. -/
  | homereq (n page c m) : s.link.up = true → s.die = .tsuord → Mirrored s n c m → s.homeState (s.dock n) page = 2 →
      m.phase = .idle →
      LinkEvent s (.homereq true n page) (State.requestGeneration
        (s.updCtx n fun c => { c with mirror := c.mirror.map fun m => { m with homeReqs := m.homeReqs ++ [page] } }) n)
  | homereqLater (n page c m) : s.link.up = true → s.die = .tsuord → Mirrored s n c m → s.homeState (s.dock n) page = 2 →
      m.phase ≠ .idle →
      LinkEvent s (.homereq true n page)
        (s.updCtx n fun c => { c with mirror := c.mirror.map fun m => { m with waiting := m.waiting ++ [page] } })
  | homereqElsewhere (n page) : s.link.up = true → s.die = .companion → s.homeState (s.dock n) page ≠ 1 →
      LinkEvent s (.homereq false n page)
        (sentOn s 8 (natLe 1 n ++ natLe 7 page.toNat ++ natLe 1 (s.homeState (s.dock n) page)))
  /-- Once nothing that has translated through the page is left, the companion serves the Tsuord's request, and the Tsuord goes on. -/
  | homereqServed (n page t) : s.link.up = true → s.die = .companion → s.homeState (s.dock n) page = 1 →
      (∀ x, s.pageEntry ((s.dock n).ctx n) page = some x → s.reachesThrough x = false) → MovedToTsuord s (s.dock n) n page t →
      LinkEvent s (.homereq false n page) (sentOn t 8 (natLe 1 n ++ natLe 7 page.toNat ++ natLe 1 2))
  | homedoneMoved (n page t) : s.link.up = true → s.die = .tsuord → s.homeState (s.dock n) page = 1 →
      (∀ x, s.pageEntry ((s.dock n).ctx n) page = some x → s.reachesThrough x = false) → MovedToTsuord s (s.dock n) n page t →
      LinkEvent s (.homedone n page 2) (t.updCtx n fun c =>
        { c with mirror := c.mirror.map fun m => { m with asked := m.asked.filter (· != page) } })
  | homedone (n page st) : s.link.up = true → s.die = .tsuord →
      ¬ (st = 2 ∧ s.homeState (s.dock n) page = 1) → ¬ (st = 1 ∧ s.homeState (s.dock n) page = 3) →
      LinkEvent s (.homedone n page st)
        (s.updCtx n fun c => { c with mirror := c.mirror.map fun m => { m with asked := m.asked.filter (· != page) } })
  /-- R421: the companion applies a generation, answers for the homes that go with it, and for the generation; one that has been
  applied is answered. -/
  | ckmark (n g bank u) : s.link.up = true → s.die = .companion → bank = g.toNat % 2 →
      (s.mirrorHead (s.dock n).mpa).applied < g.toNat →
      u = (goHome s (s.dock n) g.toNat).foldl (fun t p => sentOn t 8 (natLe 1 n ++ natLe 7 p.toNat ++ natLe 1 1))
        (appliedTo s n g.toNat) → (∀ x ∈ u.link.returned, x.1 ≠ n) →
      LinkEvent s (.ckmark n g bank) (sentOn { u with link := { u.link with asked := u.link.asked.filter fun x =>
        !(x.1 == n && (goHome s (s.dock n) g.toNat).contains x.2) } } 10 (natLe 1 n ++ natLe 4 g.toNat))
  | ckmarkDone (n g bank) : s.link.up = true → s.die = .companion → bank = g.toNat % 2 → (∀ x ∈ s.link.returned, x.1 ≠ n) →
      g.toNat ≤ (s.mirrorHead (s.dock n).mpa).applied →
      LinkEvent s (.ckmark n g bank) (sentOn s 10 (natLe 1 n ++ natLe 4 g.toNat))
  /-- R421, R416: held writes to the companion up to the generation are acknowledged. -/
  | applied (n g) : s.link.up = true → s.die = .tsuord →
      LinkEvent s (.applied n g) (((appliedTo s n g.toNat).updCtx n fun c => { c with mirror := c.mirror.map fun m => { m with
        applied := max m.applied g.toNat
        held := m.held.filter fun w => !(decide (w.1 ≤ g.toNat) && match w.2 with | .companion _ _ => true | _ => false) } }).acknowledge n)
  /-- R405: a message with an unassigned code is logged. -/
  | reserved (code payload) : s.link.up = true → (code = 0 ∨ 10 < code.toNat) →
      LinkEvent s (.halyardReservedMessage code payload) (s.logEvent 9 0x3220 none 0 (code :: payload))
  /-- R417, R419: a generation begins when the host asks for it, or when its period has passed. -/
  | ckptGo (n c m) : Mirrored s n c m → m.phase = .idle → LinkEvent s (.ckptGo n) (quiescing s n m)
  | ckptNone (n) : (∀ c m, Mirrored s n c m → m.phase ≠ .idle) → LinkEvent s (.ckptGo n) s
  | period (n c m) : Mirrored s n c m → m.phase = .idle →
      m.lastCommit + 1200000 * m.period ≤ s.time.toNat → LinkEvent s (.checkpointPeriod n) (quiescing s n m)
  | quiesce (n c m) : Mirrored s n c m → m.phase = .idle → m.returning = false →
      m.lastCommit + 1200000 * m.period ≤ s.time.toNat → LinkEvent s (.quiesce n) (quiescing s n { m with final := false })
  /-- R415: the last generation of a context that returns follows when nothing of it is left to be done here. -/
  | quiesceLast (n c m) : Mirrored s n c m → m.phase = .idle → m.final = false → s.mayLeave c m = true →
      s.parkedWaits n = false → LinkEvent s (.quiesce n) (quiescing s n { m with final := true })
  /-- Once every block stands still with nothing in flight, and no home is on its way to either die, COPY follows. -/
  | copy (n c m) : Mirrored s n c m → m.phase = .quiesce → m.asked = [] →
      (∀ i < m.homes, s.homeField m.homeTab i 24 1 % 4 ≠ 3) →
      (∀ b ∈ s.blocks, b.ctx = c.id → b.residency ≠ .running ∧ s.drained b = true) →
      LinkEvent s (.quiesce n) (s.updCtx n fun c => { c with mirror := c.mirror.map fun m => { m with phase := .copy } })
  /-- R419, R421: COPY waits until the bank before the last has been applied. -/
  | copyWaits (n c m) : Mirrored s n c m → m.phase = .copy → m.applied + 2 < m.generation + 1 → LinkEvent s (.commitMarker n) s
  /-- R418, R419: the bank gets a frame for each resident block, the page log, the write log and its header; then the pages are
  clean, and those that go to the companion in transit. -/
  | bank (n c m at_ poff woff frames writes u v w) : Mirrored s n c m → m.phase = .copy → m.generation + 1 ≤ m.applied + 2 →
      BankOf s c m at_ poff woff frames writes → woff + 80 * writes.length ≤ m.bankSize →
      u = ((toLog s c m).mapIdx fun k x => (k, x)).foldl (fun t x => pageLog t m (at_ + poff + 65600 * x.1) x.2)
        (s.writePhys (at_ + 256) frames) →
      v = (u.writePhys (at_ + woff) (writeLog writes)).writePhys at_ (bankHeader (m.generation + 1)
        (s.blocks.filter (·.ctx == c.id)).length (toLog s c m).length writes.length poff woff) →
      w = (toLog s c m).foldl (fun t x => afterLog t c m x) v →
      LinkEvent s (.commitMarker n) (w.updCtx c.id fun c => { c with mirror := c.mirror.map fun m => { m with phase := .commit } })
  /-- R420: a bank that does not fit faults the context, and its blocks issue again. -/
  | bankSmall (n c m at_ poff woff frames writes u) : Mirrored s n c m → m.phase = .copy → m.generation + 1 ≤ m.applied + 2 →
      BankOf s c m at_ poff woff frames writes → m.bankSize < woff + 80 * writes.length →
      u = (s.faultCtx c.id .bankTooSmall (ensignSrc c.firstCore) (natLe 16 (m.generation + 1))).updCtx c.id (fun c =>
        { c with mirror := c.mirror.map fun m => { m with phase := .idle, lastCommit := s.time.toNat } }) →
      LinkEvent s (.commitMarker n) ((u.issueAgain c.id).nextRequests c.id)
  /-- R419, R421: the marker, which is bytes 0 to 7 of the header, and CKMARK; then the held host writes are released, the blocks
  issue again, and requests that have waited are made. -/
  | commit (n c m u v) : Mirrored s n c m → m.phase = .commit → (m.final = false ∨ ∃ w ∈ m.held, m.generation + 1 < w.1) →
      u = sentOn (s.writePhys m.mpa (natLe 4 (m.generation + 1) ++ natLe 1 (128 + (m.generation + 1) % 2) ++ natLe 3 0)) 9
        (natLe 1 c.id ++ natLe 4 (m.generation + 1) ++ natLe 1 ((m.generation + 1) % 2)) →
      v = State.issueAgain (State.releaseCtx (u.updCtx c.id fun c => { c with mirror := c.mirror.map fun x => { x with
        phase := .idle, generation := m.generation + 1, lastCommit := s.time.toNat, homeReqs := [], final := false } }) c.id) c.id →
      LinkEvent s (.commitMarker n) { v.nextRequests c.id with sweep := 0 }
  /-- R415: with its last generation a context leaves, unless it has written since. -/
  | commitLast (n c m u v) : Mirrored s n c m → m.phase = .commit → m.final = true → (∀ w ∈ m.held, w.1 ≤ m.generation + 1) →
      u = sentOn (s.writePhys m.mpa (natLe 4 (m.generation + 1) ++ natLe 1 (128 + (m.generation + 1) % 2) ++ natLe 3 0)) 9
        (natLe 1 c.id ++ natLe 4 (m.generation + 1) ++ natLe 1 ((m.generation + 1) % 2)) →
      v = State.issueAgain (State.releaseCtx (u.updCtx c.id fun c => { c with mirror := c.mirror.map fun x => { x with
        phase := .idle, generation := m.generation + 1, lastCommit := s.time.toNat, homeReqs := [], final := false } }) c.id) c.id →
      LinkEvent s (.commitMarker n) (v.leave c.id (m.generation + 1))
  /-- R406, R422: the loss on the Tsuord without mirrored contexts: what is outstanding on the link fails; vector 36, CHANGE. -/
  | loss (i u v) : (i = .linkLoss ∨ i = .flitTimeout) → s.link.up = true → s.die = .tsuord → (∀ c ∈ s.ctxs, c.mirror = none) →
      u = { s with link := { s.link with up := false, difference := 0, away := [], returned := [], asked := [] } } →
      v = State.raiseMsi { u with
        flights := s.flights.map fun f => { f with work := Work.lost u f.work }
        monitors := s.monitors.filter fun m => m.foreign.isNone || m.foreign == some 0x3210 } 36 →
      LinkEvent s i { v with host := changed v.host }
  | lossNone (i) : (i = .linkLoss ∨ i = .flitTimeout) → s.link.up = false → LinkEvent s i s

end Sys2Proof.Claims
end

