-- ==== Sys2Proof/Claims/Traps.lean ====
section
/-!
DEFINITION. What the manual gives traps, their frames and their return, the end of a word, and the frames of words
(19_faults.md R333–R339, 01_machine.md R17, 03_encoding.md R57, 07_lanes.md R155).
-/

namespace Sys2Proof.Claims

open Sys2Proof.Machine

/-! ### Trap entry -/

/-- The classes in the order of their codes (R333). -/
def trapClasses : List TrapClass :=
  [.illop, .emul, .unif, .stall, .bound, .xlate, .perm, .tierw, .cfi, .sig, .scope, .tilecfg, .stackov, .poolx, .rmis,
    .fpx, .trap]

/-- The hoist after a trap entry at `target`: steps 2 to 6 of R335, and what stays unchanged. -/
structure TrapTaken (e : Env) (target : VAddr) (h k : Hoist) : Prop where
  depth : k.regs.depth = h.regs.depth + 1
  stack : 93 < h.regs.s.length → k.sreg 93 = h.sreg 93 - 128
  exec : ∀ l, l < h.width → l < 128 →
    k.regs.exec.getLsbD l = (!h.regs.dead.getLsbD l && (e.h.laneIn e.g.id l || h.regs.exec.getLsbD l))
  pcs : ∀ (n : Nat) (x : Slice), h.regs.slices[n]? = some x → ∃ y, k.regs.slices[n]? = some y ∧ shapeOf y = shapeOf x ∧
    if n ∈ e.h.groupSlices e.g.id then y.pc = target.extractLsb' 0 32 ∧ y.high = true else y = x
  region : k.regs.hregion = target.extractLsb' 32 40
  pad : ∀ g ∈ k.regs.groups, g.id = e.g.id → g.landing = some (3, e.pc) ∧ g.cover = [] ∧ g.codes = [] ∧ g.ext = none ∧
    g.wait = .running
  holds : k.holds = []
  registers : k.regs.v = h.regs.v ∧ k.regs.p = h.regs.p ∧ k.regs.a = h.regs.a ∧ k.regs.fpx = h.regs.fpx ∧
    k.regs.xprog = h.regs.xprog ∧ k.regs.dead = h.regs.dead ∧ ∀ n, n ≠ 93 → k.sreg n = h.sreg n
  counters : k.counters = h.counters

/-- The byte position of the trap frame (R335): CURSOR + s93 − 128 through a15. -/
def framePosition (h : Hoist) : Int := (h.areg 15).cursor.toNat + (h.sreg 93).toInt - 128

/-- The fields of a trap frame (R338).  NAMED is the EXT before the word that traps; an EMUL names the emulated word, and then
EXTP and EXTW tell of its EXT. -/
structure FrameOf (e : Env) (t : Trap) (time : BitVec 64) (f : List Byte) : Prop where
  length : f.length = 128
  named : leNat (segment f 0 9) = (e.named t).1.toNat
  cls : leNat (segment f 9 1) = t.cls.code
  flags : leNat (segment f 10 1) = (if t.resumeNext then 1 else 0) + (if t.cls = .emul ∧ e.ext.isSome = true then 2 else 0) +
    (if t.va.isSome then 4 else 0) + (if t.copy then 8 else 0) + (if t.cpys then 16 else 0)
  detail : leNat (segment f 11 1) = t.detail % 256
  slices : leNat (segment f 12 4) = ((e.h.groupSlices e.g.id).map fun n => 2 ^ n).sum % 2 ^ 32
  lanes : leNat (segment f 16 16) = t.lanes.toNat
  exec : leNat (segment f 32 16) = e.h.regs.exec.toNat
  word : leNat (segment f 48 4) = (e.named t).2.toNat
  ext : ∀ x, t.cls = .emul → e.ext = some x → leNat (segment f 52 4) = 0x03000000 + x.toNat
  noExt : t.cls ≠ .emul ∨ e.ext = none → leNat (segment f 52 4) = 0
  va : ∀ a, t.va = some a → leNat (segment f 56 9) = a.toNat
  noVa : t.va = none → leNat (segment f 56 9) = 0
  key : leNat (segment f 65 1) = t.key % 256
  xprog : leNat (segment f 68 4) = e.h.regs.xprog.toNat
  info : leNat (segment f 72 8) = t.info.toNat
  oldsp : leNat (segment f 80 4) = (e.h.sreg 93).toNat
  time : leNat (segment f 88 8) = time.toNat
  reserved : segment f 66 2 = List.replicate 2 0 ∧ segment f 84 4 = List.replicate 4 0 ∧ segment f 96 32 = List.replicate 32 0

/-- The frame write meets a page fault through a15 that is not forwarded to the host, or that the host has refused (R336; log 15),
where nothing holds the write back. -/
def framePageFault (e : Env) : Prop :=
  (e.h.areg 15).has permSCR = false ∧ e.b.replicated = false ∧
    Clear e [((((e.h.areg 15).address (framePosition e.h)).toNat : Int), ((e.h.areg 15).address (framePosition e.h)).toNat + 128)] ∧
    ∃ f u, e.s.range (e.who .store) e.c .store (e.h.areg 15).rights ((e.h.areg 15).address (framePosition e.h)) 128 = (.error f, u) ∧
      (f.cls = .xlate ∨ f.cls = .perm ∨ f.cls = .tierw) ∧ f.stall = false ∧ (f.forward = false ∨ e.g.refused = true)

/-- Why a trap double-faults (R336): s93 is misaligned, the handler depth is 15, a CFI is raised at a vector entry, or the frame
write cannot be made: PERM, BOUND, XLATE or TIERW through a15. -/
def mustDouble (e : Env) (t : Trap) : Prop :=
  (e.h.sreg 93).toNat % 16 ≠ 0 ∨ 15 ≤ e.h.regs.depth ∨ (t.cls = .cfi ∧ ∃ src, e.g.landing = some (3, src)) ∨
    (e.h.areg 15).has permW = false ∨ (e.h.areg 15).inBounds e.b.segSize (framePosition e.h) 128 = false ∨ framePageFault e

/-! ### The return -/

/-- The resume point of a frame (R339). -/
def resumePoint (f : List Byte) : VAddr :=
  BitVec.ofNat 72 (leNat (segment f 0 9)) |> fun named =>
    if leNat (segment f 10 1) % 2 = 0 then named
    else named.extractLsb' 32 40 ++ (named.extractLsb' 0 32 + if leNat (segment f 51 1) = 3 then 8#32 else 4#32)

/-- The hoist after a TRET (R339). -/
structure Returned (e : Env) (f : List Byte) (h k : Hoist) : Prop where
  depth : k.regs.depth = h.regs.depth - 1
  pcs : ∀ (n : Nat) (x : Slice), h.regs.slices[n]? = some x → ∃ y, k.regs.slices[n]? = some y ∧ shapeOf y = shapeOf x ∧
    if n ∈ e.h.groupSlices e.g.id then y.pc = (resumePoint f).extractLsb' 0 32 else y = x
  exec : ∀ l, l < h.width → l < 128 → k.regs.exec.getLsbD l = (!h.regs.dead.getLsbD l &&
    if e.h.laneIn e.g.id l then (BitVec.ofNat 128 (leNat (segment f 32 16))).getLsbD l else h.regs.exec.getLsbD l)
  xprog : k.regs.xprog = BitVec.ofNat 32 (leNat (segment f 68 4))
  stack : 93 < h.regs.s.length → k.sreg 93 = BitVec.ofNat 32 (leNat (segment f 80 4))
  registers : k.regs.v = h.regs.v ∧ k.regs.p = h.regs.p ∧ k.regs.a = h.regs.a ∧ k.regs.fpx = h.regs.fpx ∧
    k.regs.dead = h.regs.dead ∧ ∀ n, n ≠ 93 → k.sreg n = h.sreg n

/-- The checks of a frame (R339): NAMED[1:0] zero, the issuing group's slices, reserved bits zero. -/
def FrameGood (e : Env) (f : List Byte) : Prop :=
  leNat (segment f 0 1) % 4 = 0 ∧ leNat (segment f 12 4) = ((e.h.groupSlices e.g.id).map fun n => 2 ^ n).sum ∧
    leNat (segment f 10 1) / 32 = 0 ∧ leNat (segment f 66 2) = 0 ∧ leNat (segment f 84 4) = 0 ∧ leNat (segment f 96 32) = 0

/-! ### Frames of words -/

/-- What a write of an S destination touches (03_encoding.md R53). -/
def touchS (d : BitVec 8) : Touched := { s := (· = d.toNat), fpx := d = 151, xprog := d = 152 }

/-- What a word of 05_control.md touches of its hoist besides program counters. -/
def controlTouch : Instr → Touched
  | .call _ => { s := (· = 95) }
  | .calli _ => { s := (· = 95) }
  | .mark _ => { slices := True }
  | .mpop => { slices := True }
  | .mset _ _ => { exec := True }
  | .mrest _ => { exec := True }
  | .join => { exec := True, slices := True }
  | .msave d => { p := (· = d.toNat) }
  | _ => {}

/-- The hoist after lanes were packed by key (07_lanes.md R155): `seq` lists the participating lanes in ascending order of
key and lane. -/
structure Packed (r : Env) (d a cnt : Nat) (idx : Bool) (seq : List Nat) (k : Hoist) : Prop where
  members : ∀ l, l ∈ seq ↔ l ∈ r.h.activeLanes r.g.id
  sorted : seq.Pairwise fun l m => (r.h.vword a l).toNat < (r.h.vword a m).toNat ∨
    (r.h.vword a l).toNat = (r.h.vword a m).toNat ∧ l < m
  words : ∀ n, n < r.h.regs.v.length → (n = a ∨ d ≤ n ∧ n < d + cnt) → ∀ j p : Nat,
    (r.h.groupLanes r.g.id)[j]? = some p → p < (r.h.vreg n).lanes.length →
    k.vword n p = (match seq[j]? with | some l => r.h.vword n l | none => 0)
  index : idx = true → d + cnt < r.h.regs.v.length → ∀ j p : Nat, (r.h.groupLanes r.g.id)[j]? = some p →
    p < (r.h.vreg (d + cnt)).lanes.length →
    k.vword (d + cnt) p = (match seq[j]? with | some l => BitVec.ofNat 32 l | none => 0)
  exec : ∀ j p : Nat, (r.h.groupLanes r.g.id)[j]? = some p → p < 128 → k.regs.exec.getLsbD p = decide (j < seq.length)
  others : ∀ n l, (n = a ∨ d ≤ n ∧ n < d + cnt ∨ idx = true ∧ n = d + cnt) → l ∉ r.h.groupLanes r.g.id → k.vword n l = r.h.vword n l
  tags : ∀ n, n < r.h.regs.v.length → (n = a ∨ d ≤ n ∧ n < d + cnt ∨ idx = true ∧ n = d + cnt) → (k.vreg n).tag = .g
  frame : SameRegs r.h k { v := fun n => n = a ∨ d ≤ n ∧ n < d + cnt ∨ idx = true ∧ n = d + cnt, exec := True }

end Sys2Proof.Claims
end

