-- ==== Sys2Proof/Certificates/Slice0/Obligations.lean ====
section
/-!
DEFINITION. The statements for the provers.
-/

open Sys2Proof Sys2Proof.Machine Sys2Proof.Claims

/-- 05_control.md R117–R122, R127, 07_lanes.md R143, R148, R151: a scalar instruction completes with its S destination
written (03_encoding.md R53).  AGET, PTOS, VBALLOT and VRED write one too. -/
def Obligations.ScalarResults : Prop :=
  (∀ i s e r old d v, scalarResult r i = some (d, v) → Begins i s e r old →
    Completes i s e old (r.s.putHoist (r.h.writeS d v))) ∧
  (∀ d a sel s e r old v, Begins (.aget d a sel) s e r old → partRead (r.h.areg a.toNat) sel.toNat v →
    Completes (.aget d a sel) s e old (r.s.putHoist (r.h.writeS d v))) ∧
  (∀ d a q s e r old v, Begins (.ptos d a q) s e r old →
    (∀ j, j < 32 → v.getLsbD j = (r.h.laneIn r.g.id (32 * q.toNat + j) && (r.h.preg a.toNat).getLsbD (32 * q.toNat + j))) →
    Completes (.ptos d a q) s e old (r.s.putHoist (r.h.writeS d v))) ∧
  (∀ d a q s e r old v, Begins (.vballot d a q) s e r old →
    (∀ j, j < 32 → v.getLsbD j = (r.h.active r.g.id (32 * q.toNat + j) && (r.h.preg a.toNat).getLsbD (32 * q.toNat + j))) →
    Completes (.vballot d a q) s e old (r.s.putHoist (r.h.writeS d v))) ∧
  (∀ d a o s e r old, Begins (.vred d a o) s e r old →
    Completes (.vred d a o) s e old (r.s.putHoist
      ((r.h.raise (redTree o.toNat 7 (r.participants o.toNat a.toNat)).2).writeS d
        ((redTree o.toNat 7 (r.participants o.toNat a.toNat)).1.headD 0))))

/-- 07_lanes.md R135–R138, R141, R152, 03_encoding.md R57: an integer instruction with a V destination completes with the
live active lanes written under the tag of R57. -/
def Obligations.VectorResults : Prop :=
  (∀ i s e r old d t f, vectorResult r i = some (d, t, f) → Begins i s e r old →
    Completes i s e old (r.s.putHoist (r.h.putV r.g.id d.toNat t f))) ∧
  (∀ d a b s e r old, Begins (.vaddc d a b) s e r old →
    Completes (.vaddc d a b) s e old (r.s.putHoist (r.h.putVPair r.g.id d.toNat .g fun l =>
      BitVec.ofNat 64 ((r.h.vpair a.toNat l).toNat + (r.h.vpair b.toNat l).toNat)))) ∧
  (∀ d a q s e r old f, Begins (.vmatch d a q) s e r old →
    (∀ l j, j < 32 → (f l : Word).getLsbD j = (r.h.active r.g.id (32 * q.toNat + j) &&
      r.h.vword a.toNat (32 * q.toNat + j) == r.h.vword a.toNat l)) →
    Completes (.vmatch d a q) s e old (r.s.putHoist (r.h.putV r.g.id d.toNat .g f)))

/-- 07_lanes.md R139, R142, R143, R150: a compare, PFROMS, predicate logic and VOTE complete with their lanes of a P
register written. -/
def Obligations.PredicateResults : Prop :=
  (∀ i s e r old d sel f, predicateResult r i = some (d, sel, f) → Begins i s e r old →
    Completes i s e old (r.s.putHoist (r.h.putP d.toNat sel f))) ∧
  (∀ d a m s e r old v, Begins (.vote d a m) s e r old → voteIs r (r.h.preg a.toNat) m.toNat v →
    Completes (.vote d a m) s e old (r.s.putHoist (r.h.putP d.toNat (r.h.active r.g.id) fun _ => v)))

/-- 07_lanes.md R140, 13_numbers.md R253–R273: floating-point arithmetic, conversions, special functions, compares and
classes complete with their destination written and their flags ORed into %fpx.  A sum, difference, product or fused operation is
the exact result, converted once (R250, R255).  By the model's choice VQNT takes a quiet NaN under SCALE 0xFF (log 52), and the
special functions are the exact values rounded once (log 11). -/
def Obligations.FloatResults : Prop :=
  (∀ i s e r old x, (floatResult r i = some x ∨ convertResult r i = some x ∨ controlResult r i = some (true, x)) →
    Begins i s e r old → Completes i s e old (r.s.putHoist (x.hoist r))) ∧
  (∀ i s e r old d a b cc, floatCompare i = some (d, a, b, cc) → Begins i s e r old →
    Completes i s e old (r.s.putHoist ((r.h.putP d.toNat (r.h.active r.g.id) fun l =>
        (floatHolds cc (r.h.vword a.toNat l) (r.h.vword b.toNat l)).1).raise
      (flagsOver (r.h.activeLanes r.g.id) fun l => (floatHolds cc (r.h.vword a.toNat l) (r.h.vword b.toNat l)).2)))) ∧
  (∀ d a s e r old, Begins (.vfabs d a) s e r old →
    Completes (.vfabs d a) s e old (r.s.putHoist (r.h.putV r.g.id d.toNat .g fun l =>
      BitVec.ofNat 32 (magnitude32 (r.h.vword a.toNat l))))) ∧
  (∀ d a b s e r old, Begins (.vcbdec d a b) s e r old →
    (∀ l ∈ r.h.activeLanes r.g.id, cbLegal (r.h.vword b.toNat l) = true) →
    Completes (.vcbdec d a b) s e old ((r.s.reloadTable r.b.id).putHoist
      (FloatResult.hoist ⟨d, false, fun l => cbDecode ((r.s.reloadTable r.b.id).codebook (clusterOf r.h.src) r.c.id)
        (r.h.vword b.toNat l) (r.h.vword a.toNat l).toNat⟩ r))) ∧
  (∀ f a b, ∃ z g, ExactSum [f.decode a, f.decode b] z g ∧ Delivered f z g (fAdd f a b)) ∧
  (∀ f a b, ∃ z g, ExactSum [f.decode a, (f.decode b).negate] z g ∧ Delivered f z g (fSub f a b)) ∧
  (∀ f a b, ∃ z g, ExactProduct (f.decode a) (f.decode b) z g ∧ Delivered f z g (fMul f a b)) ∧
  ∀ f a b c, ∃ p g z k, ExactProduct (f.decode a) (f.decode b) p g ∧ ExactSum [p, f.decode c] z k ∧
    Delivered f z (g ||| k) (fFma f a b c)

/-- 07_lanes.md R133, R144–R149, R155: shuffles, broadcasts, permutes, scans and reorderings complete. -/
def Obligations.CrossLaneResults : Prop :=
  (∀ i s e r old d f, crossResult r i = some (d, f) → Begins i s e r old →
    Completes i s e old (r.s.putHoist ((r.h.putV r.g.id d.toNat .g fun l => (f l).1).raise
      (if (r.h.activeLanes r.g.id).any fun l => (f l).2 then flagDeadRead else 0)))) ∧
  (∀ d a b s e r old, Begins (.vperm d a b) s e r old → r.h.activeLanes r.g.id ≠ [] →
    Completes (.vperm d a b) s e old (launched r .s
      (.perm d.toNat ((r.h.activeLanes r.g.id).map fun l =>
        (l, (received r a l (r.h.vword b.toNat l).toNat).1)))
      (r.s.putHoist (r.h.raise (if (r.h.activeLanes r.g.id).any fun l => (received r a l (r.h.vword b.toNat l).toNat).2
        then flagDeadRead else 0))))) ∧
  (∀ d a o incl rev s e r old, Begins (.vscan d a o incl rev) s e r old →
    let x := r.participants o.toNat a.toNat
    let y := scanSteps o.toNat (rev == 1) 7 1 (if incl = 1 then x else scanShift o.toNat (rev == 1) x)
    Completes (.vscan d a o incl rev) s e old (r.s.putHoist
      ((r.h.putV r.g.id d.toNat .g fun l => y.1.getD l 0).raise y.2))) ∧
  (∀ d a x c s e r old, Begins (.vreord d a x c) s e r old → r.stacked = false →
    Completes (.vreord d a x c) s e old (r.s.putHoist (r.reorder d.toNat a.toNat (x == 1) (c.toNat + 1))))

/-- 03_encoding.md R66–R69, 05_control.md R96–R115: hint, control-flow and mask instructions complete with their effect on
the issuing hoist.  By the model's choice the 16 cycles after YIELD count its own (log 58). -/
def Obligations.ControlResults : Prop :=
  ∀ i s e r old jump k, ControlEffect r i jump k → Begins i s e r old →
    if jump then Jumps i s e old (r.s.putHoist k) else Completes i s e old (r.s.putHoist k)

/-- 05_control.md R99–R113, R126, R129, R130, 13_numbers.md R265, R267, R268: what raises a precise trap by the values of
its operands. -/
def Obligations.OperandTraps : Prop :=
  ∀ i s e r old x, ControlTrap r i x → Begins i s e r old → Raises i s e old x r.s

/-- 05_control.md R97: a group whose slices part becomes two groups; each slice's pc follows its decision. -/
def Obligations.BranchParts : Prop :=
  ∀ i s e r old p o all, sliceBranch i = some (p, o, all) → Begins i s e r old →
    (∃ n ∈ r.h.groupSlices r.g.id, takesBranch r (r.h.preg p.toNat) all n) →
    (∃ n ∈ r.h.groupSlices r.g.id, ¬ takesBranch r (r.h.preg p.toNat) all n) →
    ∃ k : Hoist, Jumps i s e old (r.s.putHoist k) ∧ k.holds = r.h.holds.filter (·.group != r.g.id) ∧
      (∀ n x, r.h.regs.slices[n]? = some x → ∃ y, k.regs.slices[n]? = some y ∧
        if n ∈ r.h.groupSlices r.g.id then
          (takesBranch r (r.h.preg p.toNat) all n → y = { x with pc := target16 r o, group := y.group }) ∧
          (¬ takesBranch r (r.h.preg p.toNat) all n → y = { x with pc := nextWord r, group := y.group }) ∧
          (y.group = r.g.id ∨ y.group = r.h.newGroup) ∧
          (y.group = r.g.id ↔ r.h.newGroup = r.g.id ∨
            (takesBranch r (r.h.preg p.toNat) all n ↔
              takesBranch r (r.h.preg p.toNat) all ((r.h.groupSlices r.g.id).headD 0)))
        else y = x) ∧
      SameRegs r.h k { slices := True }

/-- 05_control.md R126, R129–R131: ASET, AADV, ARESTR and AMOV complete with their A register written. -/
def Obligations.AddressResults : Prop :=
  ∀ i s e r old d y, AddressEffect r i d y → Begins i s e r old →
    Completes i s e old (r.s.putHoist (r.h.setA d.toNat y))

/-- 05_control.md R128, 09_memory.md R173–R184: loads, stores, PIN, UNPIN, CFLUSH, SPILL and FILL complete once their checks
have passed. -/
def Obligations.AccessWords : Prop :=
  ∀ i s e r old u, AccessEffect r i u → Begins i s e r old → Completes i s e old u

/-- 09_memory.md R185–R209: copies, barriers, queues and allotments complete once their checks have passed. -/
def Obligations.UnitWords : Prop :=
  ∀ i s e r old u, UnitEffect r i u → Begins i s e r old → Completes i s e old u

/-- 11_ordering.md R216–R238: atomics, STREL, LDACQ, FENCE and MWAIT complete once their checks have passed. -/
def Obligations.OrderWords : Prop :=
  ∀ i s e r old u, OrderEffect r i u → Begins i s e r old → Completes i s e old u

/-- 15_cube.md R276–R300: CUBECFG, slot, pass, promotion, tile and codebook words complete once their checks have passed. -/
def Obligations.CubeWords : Prop :=
  ∀ i s e r old u, CubeEffect r i u → Begins i s e r old → Completes i s e old u

/-- 23_rendering.md R381–R403: query, beam and layer words complete once their checks have passed. -/
def Obligations.QueryWords : Prop :=
  ∀ i s e r old u, QueryEffect r i u → Begins i s e r old → Completes i s e old u

/-- 17_scheduling.md R308, R331, 19_faults.md R345, R352, 23_rendering.md R391, 27_host.md R434: system words complete.  By the
model's choice a TLBI.sys acts on this die alone (log 20) and TLBI waits for every access through what it drops, the hoist's own
buffered ones among them (log 43); CTXSV and CTXRS keep beside the frame what it has no place for (log 16); words of a core mask
are kept as log 65 says, and a field of a context that is not active reads a free value (log 19). -/
def Obligations.SystemWords : Prop :=
  ∀ i s e r old u, SystemEffect r i u → Begins i s e r old → Completes i s e old u

/-- 05_control.md R110: the slices of a group that executes EXIT have exited. -/
def Obligations.ExitWords : Prop :=
  ∀ s e r old, MayExit r → Begins .exit s e r old →
    ∃ k, Exited r k ∧ Jumps .exit s e old ((r.s.putHoist k).evalBars r.h.block)

/-- 07_lanes.md R155: VREORD packs the participating lanes of its group in ascending order of key. -/
def Obligations.ReorderPacks : Prop :=
  ∀ d a x c s e r old, Begins (.vreord d a x c) s e r old → r.stacked = false →
    ¬ (x = 1 ∧ a.toNat = d.toNat + (c.toNat + 1)) →
    ∃ seq k, Packed r d.toNat a.toNat (c.toNat + 1) (x == 1) seq k ∧
      Completes (.vreord d a x c) s e old (r.s.putHoist k)

/-- 07_lanes.md R157, R158: a VREGRP that names its own hoist alone completes; one that names a hoist that has not come
waits; one with an illegal place raises ILLOP. -/
def Obligations.RegroupWords : Prop :=
  (∀ d x c b s e r old mask, Begins (.vregrp d x c b) s e r old → Regroups r d (c.toNat + 1) (x == 1) b mask →
    (r.s.hoistsOf r.b.id).filter (fun h => mask.getLsbD h.index) = [r.h] →
    ∃ k, RegroupedAlone r d.toNat (c.toNat + 1) (x == 1) b.toNat k ∧
      Completes (.vregrp d x c b) s e old (r.s.putHoist k)) ∧
  (∀ d x c b s e r old mask h, Begins (.vregrp d x c b) s e r old → Regroups r d (c.toNat + 1) (x == 1) b mask →
    h ∈ r.s.hoistsOf r.b.id → h.src ≠ r.h.src → mask.getLsbD h.index = true → h.regroup = none →
    Stays (.vregrp d x c b) s e old (.vregrp mask d.toNat (c.toNat + 1) (x == 1) b.toNat) r.s) ∧
  (∀ d x c b s e r old, Begins (.vregrp d x c b) s e r old → regroupIllegal r b →
    Raises (.vregrp d x c b) s e old { cls := .illop } r.s)

/-- 03_encoding.md R70, R71, R78, R79: an EXT waits for its word; an extension opcode enters the routine that its context's
emulation table names, or raises ILLOP without one; so does an unassigned opcode. -/
def Obligations.ExtensionWords : Prop :=
  (∀ x s e, Issues (.ext x) s e → e.refusal (.ext x) = none →
    Answers (.ext x) s ((e.s.updHoist e.h.src fun h => h.updGroup e.g.id fun g =>
      { g with ext := some x, last := e.s.clock }).spend e.h.src)) ∧
  (∀ o x s e r old n u, Begins (.emul o x) s e r old → EmulEntry r o n u → n ≠ 0 →
    Raises (.emul o x) s e old { cls := .emul, resumeNext := true, entry := some (BitVec.ofNat 72 (256 * n)) } u) ∧
  (∀ o x s e r old u, Begins (.emul o x) s e r old → EmulEntry r o 0 u → Raises (.emul o x) s e old { cls := .illop } u) ∧
  (∀ op x s e, Issues (.reservedOpcode op x) s e → e.g.landing = none →
    Answers (.reservedOpcode op x) s (e.takeTrap { cls := .illop }))

/-- 09_memory.md R179: a prefetch changes no register and no work, and memory at the ACCESSED bits of page-table entries alone; one
through a window that cannot be read does nothing. -/
def Obligations.PrefetchWords : Prop :=
  (∀ o n m s e r old, Begins (.pref o n m) s e r old →
    ∃ u, OnlyFetched r.s u ∧ Completes (.pref o n m) s e old u) ∧
  (∀ o n m s e r old, Begins (.pref o n m) s e r old →
    ((r.h.areg n.toNat).has permR = false ∨ (r.h.areg n.toNat).has permSCR = true) →
    Completes (.pref o n m) s e old r.s)

/-- 13_numbers.md R254: EXIT, FENCE, BARA and BARW take a pending FPX before they do anything. -/
def Obligations.PendingFlags : Prop :=
  ∀ i s e r old, takesFpx r i → Begins i s e r old → (∀ f ∈ r.s.flights, f.src ≠ r.h.src) →
    fpxPending r.h.regs.fpx = true → Raises i s e old { cls := .fpx } r.s

/-- 07_lanes.md R446: which instructions the rule covers (by their opcodes: VLD, VST, VLDS, VSTS, PREF, PIN, UNPIN, CFLUSH, QPUSH,
QPOP, ATOM, RED, ACAS, MWAIT, STREL, LDACQ, MXC, MXRD, MXWR, TRACE, BEAM, HITRD, FINS, FRES, FCLR), and that each of them completes
without a live active lane with no effect. -/
def Obligations.IdleWords : Prop :=
  (∀ i w, encode i = some w → i.wf = true → (i.laneWise = true ↔ wordOpcode w ∈ [0xB0, 0xB1, 0xB2, 0xB3, 0xB6, 0xB7, 0xB8, 0xB9,
    0xC4, 0xC5, 0xC8, 0xC9, 0xCA, 0xCC, 0xCE, 0xCF, 0xD9, 0xDB, 0xDC, 0xE0, 0xE1, 0xE2, 0xE3, 0xE4, 0xE5])) ∧
  ∀ i s e old, i.laneWise = true → Starts i s e old → Unhurt i e → (e.mixed i old).h.activeLanes (e.mixed i old).g.id = [] →
    Completes i s e old (e.mixed i old).s

/-- 03_encoding.md R68, R72, R80: a legal word with nothing outstanding starts at once. -/
def Obligations.QuietStarts : Prop :=
  ∀ i s e, Issues i s e → Quiet i e → Starts i s e []

/-- 03_encoding.md R77: which instructions are privileged (by their opcodes: FCFG, GATE, SRD, SWR, TRET, CTXSV, CTXRS, CKPT,
TLBI), when a hoist is, and the ILLOP. -/
def Obligations.PrivilegedWords : Prop :=
  (∀ i w, encode i = some w → i.wf = true → (i.privileged = true ↔
    wordOpcode w ∈ [0xE6, 0xE7, 0xF0, 0xF1, 0xF2, 0xF3, 0xF4, 0xF5, 0xF6])) ∧
  (∀ h : Hoist, h.privileged = true ↔ h.role = .ensign ∨ h.role = .service ∨ 0 < h.regs.depth) ∧
  (∀ i s e, Issues i s e → i.privileged = true → e.h.privileged = false → e.g.landing = none →
    Answers i s (e.takeTrap { cls := .illop }))

/-- 05_control.md R101, 03_encoding.md R75, R80: a word that is not the PAD that its transfer requires raises CFI with the
transferring word in INFO, the required PAD does not; a word whose fields its encoding does not admit raises ILLOP. -/
def Obligations.RefusedWords : Prop :=
  (∀ i s e k src, (encode i).isSome = true → i ≠ .pad k → Issues i s e → e.g.landing = some (k, src) →
    Answers i s (e.takeTrap { cls := .cfi, info := (src.extractLsb' 0 32).zeroExtend 64 })) ∧
  (∀ (e : Env) (k : BitVec 2) (src : VAddr), e.g.landing = some (k, src) → e.stray (.pad k) = none) ∧
  (∀ i s e, (encode i).isSome = true → i.formOk = false → Issues i s e → e.g.landing = none →
    Answers i s (e.takeTrap { cls := .illop }))

/-- 05_control.md R98: CALL links to the word after it and branches as BRA does; its encoding admits every payload, so it has
no ILLOP of its own. -/
def Obligations.CallRule : Prop :=
  (∀ o s e r old, Begins (.call o) s e r old →
    Jumps (.call o) s e old (r.s.putHoist ((movedTo r (target24 r o) r.h).setS 95 (nextWord r)))) ∧
  (∀ o s e r old, Begins (.bra o) s e r old → Jumps (.bra o) s e old (r.s.putHoist (movedTo r (target24 r o) r.h))) ∧
  (∀ x : BitVec 24, decode (0x09#8 ++ x) = .ok (.call x)) ∧ ∀ (e : Env) (o : BitVec 24), e.legal (.call o) = true

/-- 05_control.md R107: MPOP pops every slice of its group; a payload and an empty stack raise ILLOP. -/
def Obligations.MpopRule : Prop :=
  (∀ s e r old, Begins .mpop s e r old → Stacked r →
    Completes .mpop s e old (r.s.putHoist (restacked r (fun _ st => st.tail) r.h))) ∧
  (∀ s e r old n, Begins .mpop s e r old → n ∈ r.h.groupSlices r.g.id → topOf r.h n = none →
    Raises .mpop s e old { cls := .illop } r.s) ∧
  (decode 0x1A000000 = .ok .mpop) ∧
  (∀ x : BitVec 24, x ≠ 0 → (∃ err, decode (0x1A#8 ++ x) = .error err) ∧
    ∀ s e, issuer (0x1A#8 ++ x) s = some e → e.g.landing = none →
      runIllegal (0x1A#8 ++ x) s = .next (e.takeTrap { cls := .illop }))

/-- 09_memory.md R164: the home slice of a line. -/
def Obligations.HomeSlice : Prop :=
  ∀ pa : BitVec 52, let l := pa.extractLsb' 6 46
    homeSlice .tsuord (pa.toNat / 64) = 32 * (l.toNat % 3) +
      ((List.range 10).foldl (fun x k => x ^^^ l.extractLsb' (5 * k) 5) (0 : BitVec 5)).toNat ∧
    homeSlice .companion (pa.toNat / 64) = 2 * (l.toNat % 3) + (List.range 46).countP l.getLsbD % 2

/-- 13_numbers.md R258, by the bits of the operands: VFMIN, VFMAX, and the steps of reductions and atomics. -/
def Obligations.MinMaxRule : Prop :=
  (∀ d a b s e r old, Begins (.vfmin d a b) s e r old → Completes (.vfmin d a b) s e old (r.s.putHoist
    ((r.h.putV r.g.id d.toNat .g fun l => (minMax32 false (r.h.vword a.toNat l) (r.h.vword b.toNat l)).1).raise
      (flagsOver (r.h.activeLanes r.g.id) fun l => (minMax32 false (r.h.vword a.toNat l) (r.h.vword b.toNat l)).2)))) ∧
  (∀ d a b s e r old, Begins (.vfmax d a b) s e r old → Completes (.vfmax d a b) s e old (r.s.putHoist
    ((r.h.putV r.g.id d.toNat .g fun l => (minMax32 true (r.h.vword a.toNat l) (r.h.vword b.toNat l)).1).raise
      (flagsOver (r.h.activeLanes r.g.id) fun l => (minMax32 true (r.h.vword a.toNat l) (r.h.vword b.toNat l)).2)))) ∧
  (∀ x y, redStep 9 x y = minMax32 false x y ∧ redStep 10 x y = minMax32 true x y) ∧
  (∀ x y : Word, atomResult 10 x.toNat y.toNat = (minMax32 false x y).1.toNat ∧
    atomResult 11 x.toNat y.toNat = (minMax32 true x y).1.toNat)

/-- 13_numbers.md R259: VFCLASS writes the one bit of each lane's class. -/
def Obligations.ClassRule : Prop :=
  (∀ d a s e r old, Begins (.vfclass d a) s e r old →
    Completes (.vfclass d a) s e old (r.s.putHoist (r.h.putV r.g.id d.toNat .g fun l =>
      BitVec.ofNat 32 (2 ^ classBit32 (r.h.vword a.toNat l))))) ∧
  ∀ x, classBit32 x ≤ 9

/-- 03_encoding.md R52, R53, R57, 13_numbers.md R253: what a write of an S or V register and a raise of flags leave. -/
def Obligations.RegisterWrites : Prop :=
  (∀ (h : Hoist) (d : BitVec 8) (v : Word),
    (d.toNat ≤ 95 → h.writeS d v = h.setS d.toNat v) ∧ h.writeS 155 v = h ∧
    (h.writeS 152 v).regs.xprog = v ∧ (h.writeS 151 v).regs.fpx = v &&& 0x00003F3F) ∧
  (∀ r i d v, scalarResult r i = some (d, v) → 95 < d.toNat → d ≠ 151 → d ≠ 152 → d ≠ 155 → i.formOk = false) ∧
  (∀ (h : Hoist) (g d : Nat) (t : Tag) (f : Nat → Word), d < h.regs.v.length →
    (∀ l, l < (h.vreg d).lanes.length → (h.putV g d t f).vword d l =
      if h.active g l = true ∨ (t ≠ .g ∧ (∃ m, m < h.width ∧ h.active g m = true) ∧
          ∀ m, m < h.width → h.regs.dead.getLsbD m = true ∨ h.active g m = true) then f l else h.vword d l) ∧
    ((h.putV g d t f).vreg d).tag =
      (if ∀ l < h.width, ¬ h.active g l then (h.vreg d).tag
        else if ∀ l < h.width, h.regs.dead.getLsbD l ∨ h.active g l then t else .g) ∧
    ∀ n, n ≠ d → (h.putV g d t f).vreg n = h.vreg n) ∧
  (∀ (h : Hoist) (f : Flags) (k : Nat), k < 32 →
    (h.raise f).regs.fpx.getLsbD k = (h.regs.fpx.getLsbD k || (decide (k < 6) && f.getLsbD k))) ∧
  (∀ (ls : List Nat) (f : Nat → Flags) (k : Nat), (flagsOver ls f).getLsbD k = ls.any fun l => (f l).getLsbD k)

/-- 03_encoding.md R52: what the special registers read in a hoist that is not replicated. -/
def Obligations.SpecialReads : Prop :=
  ∀ r : Env, r.b.replicated = false →
    r.sval 128 = BitVec.ofNat 32 r.h.width ∧ r.sval 129 = BitVec.ofNat 32 r.h.index ∧
    r.sval 130 = r.b.coords.1 ∧ r.sval 131 = r.b.coords.2.1 ∧ r.sval 132 = r.b.coords.2.2 ∧
    r.sval 133 = r.b.grid.1 ∧ r.sval 134 = r.b.grid.2.1 ∧ r.sval 135 = r.b.grid.2.2 ∧
    (r.h.regs.latch = none → r.sval 138 = r.s.time.extractLsb' 0 32) ∧ r.sval 139 = r.s.time.extractLsb' 32 32 ∧
    (∀ q k : Nat, q < 4 → k < 32 → 32 * q + k < r.h.width → 32 * q + k < 128 →
      (r.sval (BitVec.ofNat 8 (140 + q))).getLsbD k = (r.h.laneIn r.g.id (32 * q + k) && r.h.regs.exec.getLsbD (32 * q + k)) ∧
      (r.sval (BitVec.ofNat 8 (144 + q))).getLsbD k = (r.h.laneIn r.g.id (32 * q + k) && r.h.regs.dead.getLsbD (32 * q + k))) ∧
    r.sval 150 ++ r.sval 149 = r.h.regs.ssig ∧ r.sval 151 = r.h.regs.fpx ∧ r.sval 152 = r.h.regs.xprog ∧
    r.sval 154 = r.h.regs.batch ∧ r.sval 155 = 0

/-- 11_ordering.md R229, R232: the new value of an atomic. -/
def Obligations.AtomicValues : Prop :=
  (∀ x y : Word,
    atomResult 0 x.toNat y.toNat = (x + y).toNat ∧
    atomResult 1 x.toNat y.toNat = (smallerSigned x y).toNat ∧
    atomResult 2 x.toNat y.toNat = (largerSigned x y).toNat ∧
    atomResult 3 x.toNat y.toNat = (smallerUnsigned x y).toNat ∧
    atomResult 4 x.toNat y.toNat = (largerUnsigned x y).toNat ∧
    atomResult 5 x.toNat y.toNat = (x &&& y).toNat ∧
    atomResult 6 x.toNat y.toNat = (x ||| y).toNat ∧
    atomResult 7 x.toNat y.toNat = (x ^^^ y).toNat ∧
    atomResult 8 x.toNat y.toNat = y.toNat ∧
    atomResult 9 x.toNat y.toNat = (fAdd fp32 x.toNat y.toNat).1) ∧
  (∀ x y : BitVec 64,
    atomResult 12 x.toNat y.toNat = (x + y).toNat ∧
    atomResult 13 x.toNat y.toNat = max x.toNat y.toNat ∧
    atomResult 14 x.toNat y.toNat = y.toNat ∧
    atomResult 15 x.toNat y.toNat = min x.toNat y.toNat) ∧
  (∀ old cmp x : Nat, AtomicOp.cas.new old cmp x = if old = cmp then some x else none)

/-- 07_lanes.md R147–R149: the tree of VRED and the steps of VSCAN combine exactly the lanes of their range. -/
def Obligations.ReductionFolds : Prop :=
  ∀ (r : Env) (op : Nat) (a : BitVec 8), op ≤ 7 → 1 ≤ r.h.width → r.h.width ≤ 128 →
    (redTree op 7 (r.participants op a.toNat)).1.headD 0 = gathered r op a 0 r.h.width ∧
    ∀ incl rev : Bool, ∀ l, l < r.h.width →
      (scanSteps op rev 7 1 (if incl = true then r.participants op a.toNat
        else scanShift op rev (r.participants op a.toNat))).1.getD l 0 =
        gathered r op a (scanRange r.h.width l incl rev).1 (scanRange r.h.width l incl rev).2

/-- 13_numbers.md R250: a value that a format holds converts to its own pattern, exactly. -/
def Obligations.FormatsExact : Prop :=
  ∀ f, (f = fp32 ∨ f = fp16 ∨ f = bf16 ∨ f = fp64) → ∀ v, v < 2 ^ f.width → (f.decode v).isNaN = false →
    convert f (f.decode v) = (v, 0)

/-- 19_faults.md R333, R335, R337: what a precise trap of a user hoist leaves. -/
def Obligations.TrapEntry : Prop :=
  (∀ (e : Env) (t : Trap) (was : Hoist) (reads : List Word) (u : State), e.h.role = .user → e.cannotEnter t = false →
    e.writeFrame t reads = .written u →
    e.takeTrap t was reads = (u.updHoist e.h.src fun h => (e.hoistTrapped t h).entered e.g.id).spend e.h.src) ∧
  (∀ (h : Hoist) (g : Nat), (h.entered g).offer = none ∧ (h.entered g).regs = h.regs ∧ (h.entered g).counters = h.counters) ∧
  (∀ (e : Env) (t : Trap) (h : Hoist), TrapTaken e (e.vector t) h (e.hoistTrapped t h)) ∧
  (∀ (e : Env) (t : Trap), t.entry = none → e.vector t = e.c.tvec + BitVec.ofNat 72 (64 * t.cls.code)) ∧
  trapClasses.map TrapClass.code = List.range 17 ∧
  (∀ (e : Env) (t : Trap) (reads : List Word), e.b.replicated = false → (e.h.areg 15).has permW = true →
    (e.h.areg 15).has permSCR = true → (e.h.areg 15).inBounds e.b.segSize (framePosition e.h) 128 = true →
    ∃ u, e.writeFrame t reads = .written u ∧ SameMemory e.s u ∧
      ∀ b, e.s.block? e.b.id = some b → ∃ c, u.block? e.b.id = some c ∧ c.scratch =
        b.scratch.writeBytes ((e.h.areg 15).base.toNat + framePosition e.h).toNat (e.frame t e.s.time))

/-- 19_faults.md R338: the fields of a trap frame. -/
def Obligations.FrameBytes : Prop :=
  ∀ (e : Env) (t : Trap) (time : BitVec 64), FrameOf e t time (e.frame t time)

/-- 19_faults.md R336: a trap whose frame cannot be written (PERM, BOUND, XLATE or TIERW through a15, s93 misaligned), one at depth
15 and a CFI at a vector entry retire the hoist as if every slice had executed EXIT.  A translation that the host has still to
answer is waited for, and one that it has refused double-faults (log 15). -/
def Obligations.DoubleFault : Prop :=
  ∀ (e : Env) (t : Trap) (was : Hoist) (reads : List Word), e.h.role = .user → e.s.hoist? e.h.src = some e.h → mustDouble e t →
    ∃ k, (e.takeTrap t was reads).hoist? e.h.src = some k ∧ k.gone = true ∧ k.regs.depth = 0 ∧ k.regs.groups = [] ∧
      k.regs.v = e.h.regs.v ∧ k.regs.s = e.h.regs.s ∧ k.regs.a = e.h.regs.a

/-- 19_faults.md R339: TRET returns through its frame; a frame that fails its checks raises ILLOP. -/
def Obligations.ReturnWords : Prop :=
  (∀ s e r old u, ReturnEffect r u → Begins .tret s e r old → Jumps .tret s e old u) ∧
  (∀ s e r old u rs f, Begins .tret s e r old →
    Clear r ((r.h.areg 15).ranges (((r.h.areg 15).cursor.toNat : Int) + (r.h.sreg 93).toInt) 128) →
    Spans r (r.h.areg 15) [permR] .load 1 128 (((r.h.areg 15).cursor.toNat : Int) + (r.h.sreg 93).toInt) u rs →
    r.spanBytes (r.h.areg 15) 128 (((r.h.areg 15).cursor.toNat : Int) + (r.h.sreg 93).toInt) rs u = some f →
    r.returnable f = false → Raises .tret s e old { cls := .illop } u) ∧
  (∀ (e : Env) (f : List Byte), f.length = 128 → (e.returnable f = true ↔ FrameGood e f)) ∧
  (∀ (e : Env) (f : List Byte) (h : Hoist), f.length = 128 → Returned e f h (e.hoistReturned f h))

/-- 01_machine.md R13, R17, 03_encoding.md R65, R71: a word that completes moves its group past itself and its EXT, takes its
hoist's start of the clock, and leaves everything that its effect does not name. -/
def Obligations.WordEnds : Prop :=
  ∀ (e : Env) (i : Instr) (taken : Bool) (u : State) (h : Hoist), e.b.replicated = false → u.hoist? e.h.src = some h →
    (e.complete i taken u).clock = u.clock ∧ (e.complete i taken u).issued = e.h.src :: u.issued ∧ SameMachine u (e.complete i taken u) ∧
    SameOthers e.h.src u (e.complete i taken u) ∧
    ∃ k, (e.complete i taken u).hoist? e.h.src = some k ∧ SameRegs h k {} ∧
      ∀ (n : Nat) (x : Slice), h.regs.slices[n]? = some x → ∃ y, k.regs.slices[n]? = some y ∧
        y.pc = if n ∈ e.h.groupSlices e.g.id ∧ taken = false then x.pc + (if e.ext.isSome then 8 else 4) else x.pc

/-- The frame of the scalar, compare, vote and reduction words (05_control.md R117–R122, 07_lanes.md R139, R142, R143,
R148, R150, R151): one destination. -/
def Obligations.ScalarFrames : Prop :=
  (∀ i s e d v t, scalarResult e i = some (d, v) → Begins i s e e [] → e.b.replicated = false → Answers i s t →
    Frame e t (touchS d)) ∧
  (∀ i s e d t, (∃ a sel, i = .aget d a sel) ∨ (∃ a q, i = .ptos d a q) ∨ (∃ a q, i = .vballot d a q) →
    Begins i s e e [] → e.b.replicated = false → Answers i s t → Frame e t (touchS d)) ∧
  (∀ d a o s e t, Begins (.vred d a o) s e e [] → e.b.replicated = false → Answers (.vred d a o) s t →
    Frame e t { touchS d with fpx := True }) ∧
  (∀ i s e d sel f t, predicateResult e i = some (d, sel, f) → Begins i s e e [] → e.b.replicated = false → Answers i s t →
    Frame e t { p := (· = d.toNat) }) ∧
  (∀ i s e d a b cc t, floatCompare i = some (d, a, b, cc) → Begins i s e e [] → e.b.replicated = false → Answers i s t →
    Frame e t { p := (· = d.toNat), fpx := True }) ∧
  (∀ d a m s e t, Begins (.vote d a m) s e e [] → e.b.replicated = false → Answers (.vote d a m) s t →
    Frame e t { p := (· = d.toNat) })

/-- The frame of the words that write V registers (07_lanes.md R135–R152, 13_numbers.md R255–R273). -/
def Obligations.VectorFrames : Prop :=
  (∀ i s e d tag f t, vectorResult e i = some (d, tag, f) → Begins i s e e [] → e.b.replicated = false → Answers i s t →
    Frame e t { v := (· = d.toNat) }) ∧
  (∀ d a b s e t, Begins (.vaddc d a b) s e e [] → e.b.replicated = false → Answers (.vaddc d a b) s t →
    Frame e t { v := fun n => n = d.toNat ∨ n = d.toNat + 1 }) ∧
  (∀ d a q s e t, Begins (.vmatch d a q) s e e [] → e.b.replicated = false → Answers (.vmatch d a q) s t →
    Frame e t { v := (· = d.toNat) }) ∧
  (∀ i s e x t, (floatResult e i = some x ∨ convertResult e i = some x ∨ controlResult e i = some (true, x)) →
    Begins i s e e [] → e.b.replicated = false → Answers i s t →
    Frame e t { v := fun n => n = x.d.toNat ∨ x.pair = true ∧ n = x.d.toNat + 1, fpx := True }) ∧
  (∀ i s e d f t, crossResult e i = some (d, f) → Begins i s e e [] → e.b.replicated = false → Answers i s t →
    Frame e t { v := (· = d.toNat), fpx := True }) ∧
  (∀ d a o incl rev s e t, Begins (.vscan d a o incl rev) s e e [] → e.b.replicated = false →
    Answers (.vscan d a o incl rev) s t → Frame e t { v := (· = d.toNat), fpx := True })

/-- The frame of control-flow, mask and address words (05_control.md R96–R115, R126–R131). -/
def Obligations.ControlFrames : Prop :=
  (∀ i s e jump k t, ControlEffect e i jump k → Begins i s e e [] → e.b.replicated = false → Answers i s t →
    Frame e t (controlTouch i)) ∧
  (∀ i s e d y t, AddressEffect e i d y → Begins i s e e [] → e.b.replicated = false → Answers i s t →
    Frame e t { a := (· = d.toNat) })

/-- 09_memory.md R170, R173, R175, R176, 05_control.md R123: an access through a scratchpad window goes to BASE + e; a load
or store word puts its work in flight and changes nothing else but a counter, and through a memory window what its walks change:
ACCESSED bits, DIRTY bits for a store (19_faults.md R343). -/
def Obligations.LaunchFrames : Prop :=
  (∀ r use x u acc, Passes r use x u acc → x.window.has permSCR = true → u = r.s ∧
    acc.map (fun y => (y.lane, y.scr, y.pa, y.n)) =
      x.positions.map fun p => (p.1, true, ((x.window.base.toNat : Int) + p.2).toNat, x.bytes)) ∧
  (∀ r use x u acc, Passes r use x u acc → x.window.has permSCR = false →
    acc.map (fun y => (y.lane, y.scr, y.va, y.n)) =
      x.positions.map fun p => (p.1, false, BitVec.ofInt 72 ((x.window.base.toNat : Int) + p.2), x.bytes)) ∧
  (∀ i s e k tg x v acc t, loadOf e i = some (k, tg, x, v) → x.window.has permSCR = true → Begins i s e e [] →
    e.b.replicated = false → Passes e .load x e.s acc → Clean e e.s acc → Answers i s t →
    SameMemory e.s t ∧ t.blocks = e.s.blocks ∧ SameOthers e.h.src e.s t ∧
    (∃ h, t.hoist? e.h.src = some h ∧ SameRegs e.h h { counters := True }) ∧
    t.flights = e.s.flights ++ [⟨e.s.nextId, e.h.src, e.g.id, e.b.id, e.c.id, .load k tg acc, e.namedData⟩]) ∧
  (∀ i s e x data acc t, storeOf e i = some (x, data) → x.window.has permSCR = true → Begins i s e e [] →
    e.b.replicated = false → Passes e .store x e.s acc → Answers i s t →
    SameMemory e.s t ∧ t.blocks = e.s.blocks ∧ SameOthers e.h.src e.s t ∧
    (∃ h, t.hoist? e.h.src = some h ∧ SameRegs e.h h { counters := True }) ∧
    t.flights = e.s.flights ++ [⟨e.s.nextId, e.h.src, e.g.id, e.b.id, e.c.id,
      .store (acc.map fun y => (y, data y.lane)) false, e.namedData⟩]) ∧
  (∀ r use x u acc, Passes r use x u acc → x.window.has permSCR = false → OnlyMarked use.writes r.s u ∧ u.blocks = r.s.blocks ∧
    u.flights = r.s.flights ∧ ∀ n h, r.s.hoist? n = some h → ∃ k, u.hoist? n = some k ∧ SameRegs h k {}) ∧
  (∀ i s e k tg x v u acc t, loadOf e i = some (k, tg, x, v) → x.window.has permSCR = false → Begins i s e e [] →
    e.b.replicated = false → Passes e .load x u acc → Clean e u acc → Answers i s t →
    SameMemory u t ∧ t.blocks = u.blocks ∧ SameOthers e.h.src u t ∧
    (∀ h, u.hoist? e.h.src = some h → ∃ j, t.hoist? e.h.src = some j ∧ SameRegs h j { counters := True }) ∧
    t.flights = u.flights ++ [⟨u.nextId, e.h.src, e.g.id, e.b.id, e.c.id, .load k tg acc, e.namedData⟩]) ∧
  (∀ i s e x data u acc t, storeOf e i = some (x, data) → x.window.has permSCR = false → Begins i s e e [] →
    e.b.replicated = false → Passes e .store x u acc → Answers i s t →
    SameMemory u t ∧ t.blocks = u.blocks ∧ SameOthers e.h.src u t ∧
    (∀ h, u.hoist? e.h.src = some h → ∃ j, t.hoist? e.h.src = some j ∧ SameRegs h j { counters := True }) ∧
    t.flights = u.flights ++ [⟨u.nextId, e.h.src, e.g.id, e.b.id, e.c.id,
      .store (acc.map fun y => (y, data y.lane)) false, e.namedData⟩])

/-- 09_memory.md R176: a store that is performed changes the bytes it stores to and no other; a load's data changes no
memory. -/
def Obligations.StoreFrames : Prop :=
  (∀ (s : State) n f ws sys t, Canonical s → (∀ b ∈ s.blocks, b.scratch.wf = true) → Ripe s n f → f.work = .store ws sys →
    Answers (.writePerformed n) s t →
    (∀ a, (∀ w ∈ ws, w.1.scr = true ∨ a < w.1.pa ∨ w.1.pa + w.2.length ≤ a) → t.mem.read a = s.mem.read a) ∧
    (∀ b x, s.block? b = some x → ∃ y, t.block? b = some y ∧
      ∀ a, (b ≠ f.block ∨ ∀ w ∈ ws, w.1.scr = false ∨ a < w.1.pa ∨ w.1.pa + w.2.length ≤ a) →
        y.scratch.read a = x.scratch.read a) ∧
    ∀ m h, s.hoist? m = some h → ∃ k, t.hoist? m = some k ∧ SameRegs h k { counters := True }) ∧
  (∀ (s : State) n f k tg acc t, Ripe s n f → f.work = .load k tg acc → (∀ x ∈ acc, s.accessPoisoned f.block x = false) →
    Answers (.loadDataReturn n) s t → SameMemory s t ∧ t.blocks = s.blocks ∧ SameOthers f.src s t)

/-- 05_control.md R109, 07_lanes.md R145, 09_memory.md R165–R207, 11_ordering.md R230–R239, 15_cube.md R286–R301,
23_rendering.md R382–R388: work in flight completes with its effect.  By the model's choice a fill reads its source lines, and a
pass its codebook, when it completes (log 42), and a trace visits nodes in the order of log 14. -/
def Obligations.WorkEvents : Prop := ∀ i s t, WorkEvent s i t → Answers i s t

/-- 21_reliability.md R358–R369, 15_cube.md R299: migrations, rereads, table reloads, merges, lost hoists, votes; and the copy
that a minority becomes: the committer's registers, its store buffer empty, its release word to be completed.  By the model's
choice a vote makes one CLASS 4 record, RMIS is raised when the group next starts and retired pairs count as disagreeing (log 24),
and a lost hoist makes one record (log 28). -/
def Obligations.DieEvents : Prop :=
  (∀ i s t, DieEvent s i t → Answers i s t) ∧
  ∀ (s : State) (c x h : Hoist) (o : Offer), (s.stopHoist x.src).hoist? x.src = some h →
    ∃ k, (s.replaceReplica c x o).hoist? x.src = some k ∧ k.offer = some { o with vote := some false } ∧ k.wbuf = [] ∧ k.rmis = none ∧
      k.regs.v = c.regs.v ∧ k.regs.s = c.regs.s ∧ k.regs.p = c.regs.p ∧ k.regs.a = c.regs.a ∧ k.regs.exec = c.regs.exec ∧
      k.regs.dead = c.regs.dead ∧ k.regs.fpx = c.regs.fpx ∧ k.regs.depth = c.regs.depth ∧
      k.regs.slices.map shapeOf = c.regs.slices.map shapeOf

/-- 17_scheduling.md R309–R331, 01_machine.md R29–R36, 15_cube.md R302, 19_faults.md R347, R348: scheduling events, an Ensign's
evaluation that admits blocks of a grid, a block afresh or a saved one among them; and the order of its candidates: by effective
priority, then by age, spans for the first core of a cluster alone.  By the model's choice: what an agent and a request are (logs 4,
7), which Ensign acts where none is named (log 17), what is kept beside a frame (log 16), gates at a commit (log 18), the wait of an
ending grid (log 21), how records leave the middle of a queue (log 22), which blocks park (log 23), a bad launch's records and
status (logs 30, 55), the native width of a grid (log 45), times of records and grids after a wrap (log 56), graphs whose descriptor
cannot be read (log 53). -/
def Obligations.ScheduleEvents : Prop :=
  (∀ i s t, ScheduleEvent s i t → Answers i s t) ∧
  ∀ (s : State) (core : Nat) (xs : List Cand) (u : State), s.candidatesOf core = (xs, u) →
    (xs.Pairwise fun x y =>
      effective u.time.toNat y.prio y.since ≤ effective u.time.toNat x.prio x.since ∧
      (effective u.time.toNat y.prio y.since = effective u.time.toNat x.prio x.since → x.since ≤ y.since ∧
        (x.since = y.since → (y.isGrid = false → x.isGrid = false) ∧ (x.isGrid = y.isGrid → x.ctx ≤ y.ctx)))) ∧
    ∀ x ∈ xs, core % 4 = 0 ∨ x.isSpan = false

/-- 27_host.md R425–R445, 17_scheduling.md R307–R310, 21_reliability.md R371: host and power events.  By the model's choice a push to
a context that is not active gets Unsupported Request (log 46), the SOURCE of a throttle's record and the sectors that a channel
cannot deliver are free (log 9), and what a reset leaves out of R441 is that of log 32; see logs 12, 31 and 49 as well. -/
def Obligations.HostEvents : Prop := ∀ i s t, HostEvent s i t → Answers i s t

/-- 25_docking.md R404–R423: link and checkpoint events, with the bytes that they leave in the mirror area, the home table, leaves
and the dock table.  By the model's choice QUIESCE and IDLE order requests as log 48 says. -/
def Obligations.LinkEvents : Prop := ∀ i s t, LinkEvent s i t → Answers i s t

/-- 27_host.md R441: what a Function Level Reset, a hot reset and a link-down keep and clear, and what a cold reset leaves.  What the
rule does not say is the model's choice: poison, translations, pins, holds, monitors, the cap, other dies' memory, THERMTRIP (log
32), the fields that have no reset value (log 3), memory that nothing has written (log 1). -/
def Obligations.Resets : Prop :=
  (∀ (i : Instr) (s : State), (i = .functionLevelReset ∨ i = .hotReset ∨ i = .upstreamLinkDown) → ∃ t, Answers i s t ∧ FunctionReset s t) ∧
  (∀ (i : Instr) (s : State), (i = .perstDeassert ∨ i = .d3coldEntry ∨ i = .thermtrip) → Canonical s → ∃ t, Answers i s t ∧ ColdReset s t)

/-- 11_ordering.md R239, 27_host.md R427: a line that is read again wakes every waiter whose condition holds, and no other; a hold
of its line keeps from a waiter outside it what is written there (R217). -/
def Obligations.WatchedLineWakes : Prop :=
  (∀ (i : Instr) (s : State) line, (i = .hostLineReread line ∨ i = .hostSnoop line) → ∃ t, Answers i s t ∧ t.mem = s.mem ∧
    t.monitors = s.monitors.filter (fun m => !(m.pa / 64 == line && m.holds s.mem && !s.keptFrom m)) ∧
    (∀ m ∈ s.monitors, m.pa / 64 = line → m.holds s.mem = true → s.keptFrom m = false → m.parked = none →
      ∀ h, s.hoist? m.src = some h → ∃ k, t.hoist? m.src = some k ∧
        ∀ g ∈ k.regs.groups, g.id = m.group → g.wait ≠ .monitor) ∧
    (∀ n h, s.hoist? n = some h →
      (∀ m ∈ s.monitors, m.src = n → m.pa / 64 ≠ line ∨ m.holds s.mem = false ∨ s.keptFrom m = true ∨ m.parked ≠ none) →
      t.hoist? n = some h)) ∧
  ∀ (s : State) m, s.keptFrom m = true ↔ ∃ x ∈ s.holds, x.line = m.pa / 64 ∧
    ¬ (m.parked = none ∧ ∃ h b, s.hoist? m.src = some h ∧ s.block? h.block = some b ∧
      x.holder = if x.wide then b.span else b.id)

/-- 00_scope.md R4, 03_encoding.md R74–R76: words of the spec and what they decode to. -/
def Obligations.DecodesWords : Prop :=
  decode 0x3C050607 = .ok (.vadd 5 6 7) ∧ decode 0x2B030464 = .ok (.saddi 3 4 100) ∧
  decode 0x2C021234 = .ok (.smovi 2 0x1234) ∧ decode 0x04FFFFFD = .ok (.bra (-3)) ∧
  decode 0x060A0006 = .ok (.brnz 10 6) ∧ decode 0x0702000A = .ok (.brany 2 10) ∧
  decode 0xB0050630 = .ok (.vld 5 6 3 0) ∧ decode 0x0D800000 = .ok (.pad 2) ∧
  decode 0xF2000000 = .ok .tret ∧ decode 0xE21E1905 = .ok (.hitrd 30 25 5) ∧ decode 0xD4000300 = .ok (.tcfg 3) ∧
  decode 0x73080203 = .ok (.vfma 8 2 3)

/-- 03_encoding.md R73–R78: every well-formed instruction of the opcode table decodes from its own word, with every operand
at every value that its encoding admits. -/
def Obligations.DecodesEncodings : Prop :=
  ∀ i w, encode i = some w → i.wf = true → decode w = .ok i

/-- 03_encoding.md R74: a word that decodes is the word of what it decodes to, with no bit dropped. -/
def Obligations.EncodesDecodings : Prop :=
  ∀ w i, decode w = .ok i → encode i = some w

/-- 27_host.md R441, 01_machine.md R39: the machine after reset: no context, no block, no hoist, ENABLE clear, the counter
at zero, memory in its canonical form.  No translation, no pin and the link down are the model's choice (log 3). -/
def Obligations.ResetState : Prop :=
  State.reset.ctxs = [] ∧ State.reset.blocks = [] ∧ State.reset.hoists = [] ∧ State.reset.time = 0 ∧
    State.reset.host.enable = false ∧ State.reset.host.configReady = false ∧ State.reset.host.barReady = false ∧
    State.reset.coreTlb = [] ∧ State.reset.clusterTlb = [] ∧ State.reset.pins = [] ∧ State.reset.link.up = false ∧
    Canonical State.reset

/-- Memory keeps its canonical form (log 1) under every step, from any state that has it; and page-table entries that the TLBs know
stand at addresses of eight bytes (19_faults.md R342), as they do after reset. -/
def Obligations.MemoryKeepsForm : Prop :=
  (∀ s t, Canonical s → step s = .next t → Canonical t) ∧ EntriesAligned State.reset ∧
  ∀ s t, EntriesAligned s → step s = .next t → EntriesAligned t

/-- 11_ordering.md R210, 21_reliability.md R358: a write of the die order is read back; other bytes and the poison of
sectors not written whole stay. -/
def Obligations.WritesAreRead : Prop :=
  ∀ (s : State) (pa : Nat) (bytes : List Byte), Canonical s → s.unlinked pa = false →
    (s.writePhys pa bytes).mem.readBytes pa bytes.length = bytes ∧ SameOutside s (s.writePhys pa bytes) pa bytes.length ∧
    Canonical (s.writePhys pa bytes) ∧
    ∀ k, k ∈ (s.writePhys pa bytes).poison ↔ k ∈ s.poison ∧ ¬ (pa ≤ 32 * k ∧ 32 * k + 32 ≤ pa + bytes.length)

/-- 01_machine.md R13, 03_encoding.md R65, R71, R78, R80, 19_faults.md R341: a step at a word fetches it, decodes it and runs it; a
word that is no instruction raises ILLOP where no PAD is awaited; all in the first clock that has a start for its hoist; the second word of an EXT pair comes before anything else; a line of
code is read from the die order once, and its words come from that version. -/
def Obligations.StepRunsDecoded : Prop :=
  (∀ (s : State) (src g : Nat) (rest : List Turn), s.midPair = none → s.takeTurn false s.agenda = some (.word src g, rest) →
    State.mayTurn { s with agenda := rest } src g = true → step s = stepWord src g { s with agenda := rest }) ∧
  (∀ (s : State) (src g : Nat), s.midPair = some (src, g) → step s = stepWord src g s) ∧
  (∀ (s : State) (src g : Nat) (e : Env) w u i, issuer 0 { s.openClock src with cur := (src, g) } = some e →
    e.fetch = .word w u → decode w = .ok i → stepWord src g s = exec i u) ∧
  (∀ (s : State) (src g : Nat) (e : Env) w u err, issuer 0 { s.openClock src with cur := (src, g) } = some e →
    e.fetch = .word w u → decode w = .error err → stepWord src g s = runIllegal w u ∧
    ∀ e', issuer w u = some e' → e'.g.landing = none → stepWord src g s = .next (e'.takeTrap { cls := .illop })) ∧
  (∀ (e : Env) va pa leaf entry (u : State) line, e.h.rmis = none → e.g.owed = false →
    va = (if e.ext.isSome then e.pc.extractLsb' 32 40 ++ (e.pc.extractLsb' 0 32 + 4) else e.pc) →
    e.s.reach (coreOf e.h.src) e.c va .fetch allRights = (.ok pa leaf entry, u) → u.poisoned pa 4 = false →
    (∀ x ∈ e.h.lines, x.1 ≠ va.toNat / 64) → (u.outsideHold (e.who .fetch) (pa / 64)).isSome = false →
    u.owned (e.who .fetch) [(64 * (pa / 64), 64)] = false → line = u.readMem (64 * (pa / 64)) 64 →
    ∃ t, e.fetch = .word (BitVec.ofNat 32 (leNat (segment line (va.toNat % 64) 4))) t ∧ SameMachine u t ∧
      (∀ h, u.hoist? e.h.src = some h → ∃ k, t.hoist? e.h.src = some k ∧ SameRegs h k {} ∧
        k.lines.head? = some (va.toNat / 64, line))) ∧
  (∀ (e : Env) va pa leaf entry (u : State) line, e.h.rmis = none → e.g.owed = false →
    va = (if e.ext.isSome then e.pc.extractLsb' 32 40 ++ (e.pc.extractLsb' 0 32 + 4) else e.pc) →
    e.s.reach (coreOf e.h.src) e.c va .fetch allRights = (.ok pa leaf entry, u) → u.poisoned pa 4 = false →
    e.h.lines.find? (·.1 == va.toNat / 64) = some (va.toNat / 64, line) →
    e.fetch = .word (BitVec.ofNat 32 (leNat (segment line (va.toNat % 64) 4))) u)

/-- Every step from every state goes on: no instruction, no data and no event stops the machine; exec alone stops, where
State.cur names no group. -/
def Obligations.StepsGoOn : Prop :=
  (∀ s, ∃ t, step s = .next t) ∧
  ∀ i s, (∃ t, exec i s = .next t) ∨
    (exec i s = .fault .noIssuingGroup ∧ issuer ((encode i).getD 0) s = none ∧ (encode i).isSome = true)
end

