-- ==== Sys2Proof/Laws/State.lean ====
section
/-!
SUPPORT. What each update of the state and of a hoist leaves as it was, field by field, and what is found again after it.
-/

namespace Sys2Proof.Laws

open Sys2Proof.Machine

/-! ### Updates of the state -/

@[simp] theorem putHoist_die (s : State) (h : Hoist) : (s.putHoist h).die = s.die := rfl
@[simp] theorem putHoist_time (s : State) (h : Hoist) : (s.putHoist h).time = s.time := rfl
@[simp] theorem putHoist_clock (s : State) (h : Hoist) : (s.putHoist h).clock = s.clock := rfl
@[simp] theorem putHoist_issued (s : State) (h : Hoist) : (s.putHoist h).issued = s.issued := rfl
@[simp] theorem putHoist_mem (s : State) (h : Hoist) : (s.putHoist h).mem = s.mem := rfl
@[simp] theorem putHoist_poison (s : State) (h : Hoist) : (s.putHoist h).poison = s.poison := rfl
@[simp] theorem putHoist_coreTlb (s : State) (h : Hoist) : (s.putHoist h).coreTlb = s.coreTlb := rfl
@[simp] theorem putHoist_clusterTlb (s : State) (h : Hoist) : (s.putHoist h).clusterTlb = s.clusterTlb := rfl
@[simp] theorem putHoist_pins (s : State) (h : Hoist) : (s.putHoist h).pins = s.pins := rfl
@[simp] theorem putHoist_migrated (s : State) (h : Hoist) : (s.putHoist h).migrated = s.migrated := rfl
@[simp] theorem putHoist_holds (s : State) (h : Hoist) : (s.putHoist h).holds = s.holds := rfl
@[simp] theorem putHoist_monitors (s : State) (h : Hoist) : (s.putHoist h).monitors = s.monitors := rfl
@[simp] theorem putHoist_svcq (s : State) (h : Hoist) : (s.putHoist h).svcq = s.svcq := rfl
@[simp] theorem putHoist_blocks (s : State) (h : Hoist) : (s.putHoist h).blocks = s.blocks := rfl
@[simp] theorem putHoist_gates (s : State) (h : Hoist) : (s.putHoist h).gates = s.gates := rfl
@[simp] theorem putHoist_ctxs (s : State) (h : Hoist) : (s.putHoist h).ctxs = s.ctxs := rfl
@[simp] theorem putHoist_cubes (s : State) (h : Hoist) : (s.putHoist h).cubes = s.cubes := rfl
@[simp] theorem putHoist_flights (s : State) (h : Hoist) : (s.putHoist h).flights = s.flights := rfl
@[simp] theorem putHoist_candidates (s : State) (h : Hoist) : (s.putHoist h).candidates = s.candidates := rfl
@[simp] theorem putHoist_widths (s : State) (h : Hoist) : (s.putHoist h).widths = s.widths := rfl
@[simp] theorem putHoist_pushes (s : State) (h : Hoist) : (s.putHoist h).pushes = s.pushes := rfl
@[simp] theorem putHoist_aside (s : State) (h : Hoist) : (s.putHoist h).aside = s.aside := rfl
@[simp] theorem putHoist_retiredReplicas (s : State) (h : Hoist) : (s.putHoist h).retiredReplicas = s.retiredReplicas := rfl
@[simp] theorem putHoist_mail (s : State) (h : Hoist) : (s.putHoist h).mail = s.mail := rfl
@[simp] theorem putHoist_nodes (s : State) (h : Hoist) : (s.putHoist h).nodes = s.nodes := rfl
@[simp] theorem putHoist_ends (s : State) (h : Hoist) : (s.putHoist h).ends = s.ends := rfl
@[simp] theorem putHoist_tokens (s : State) (h : Hoist) : (s.putHoist h).tokens = s.tokens := rfl
@[simp] theorem putHoist_host (s : State) (h : Hoist) : (s.putHoist h).host = s.host := rfl
@[simp] theorem putHoist_power (s : State) (h : Hoist) : (s.putHoist h).power = s.power := rfl
@[simp] theorem putHoist_link (s : State) (h : Hoist) : (s.putHoist h).link = s.link := rfl
@[simp] theorem putHoist_agenda (s : State) (h : Hoist) : (s.putHoist h).agenda = s.agenda := rfl
@[simp] theorem putHoist_cur (s : State) (h : Hoist) : (s.putHoist h).cur = s.cur := rfl
@[simp] theorem putHoist_sweep (s : State) (h : Hoist) : (s.putHoist h).sweep = s.sweep := rfl
@[simp] theorem putHoist_turns (s : State) (h : Hoist) : (s.putHoist h).turns = s.turns := rfl
@[simp] theorem putHoist_fresh (s : State) (h : Hoist) : (s.putHoist h).fresh = s.fresh := rfl
@[simp] theorem putHoist_nextId (s : State) (h : Hoist) : (s.putHoist h).nextId = s.nextId := rfl

@[simp] theorem updHoist_die (s : State) (n : Nat) (f : Hoist → Hoist) : (s.updHoist n f).die = s.die := rfl
@[simp] theorem updHoist_time (s : State) (n : Nat) (f : Hoist → Hoist) : (s.updHoist n f).time = s.time := rfl
@[simp] theorem updHoist_clock (s : State) (n : Nat) (f : Hoist → Hoist) : (s.updHoist n f).clock = s.clock := rfl
@[simp] theorem updHoist_issued (s : State) (n : Nat) (f : Hoist → Hoist) : (s.updHoist n f).issued = s.issued := rfl
@[simp] theorem updHoist_mem (s : State) (n : Nat) (f : Hoist → Hoist) : (s.updHoist n f).mem = s.mem := rfl
@[simp] theorem updHoist_poison (s : State) (n : Nat) (f : Hoist → Hoist) : (s.updHoist n f).poison = s.poison := rfl
@[simp] theorem updHoist_coreTlb (s : State) (n : Nat) (f : Hoist → Hoist) : (s.updHoist n f).coreTlb = s.coreTlb := rfl
@[simp] theorem updHoist_clusterTlb (s : State) (n : Nat) (f : Hoist → Hoist) : (s.updHoist n f).clusterTlb = s.clusterTlb := rfl
@[simp] theorem updHoist_pins (s : State) (n : Nat) (f : Hoist → Hoist) : (s.updHoist n f).pins = s.pins := rfl
@[simp] theorem updHoist_migrated (s : State) (n : Nat) (f : Hoist → Hoist) : (s.updHoist n f).migrated = s.migrated := rfl
@[simp] theorem updHoist_holds (s : State) (n : Nat) (f : Hoist → Hoist) : (s.updHoist n f).holds = s.holds := rfl
@[simp] theorem updHoist_monitors (s : State) (n : Nat) (f : Hoist → Hoist) : (s.updHoist n f).monitors = s.monitors := rfl
@[simp] theorem updHoist_svcq (s : State) (n : Nat) (f : Hoist → Hoist) : (s.updHoist n f).svcq = s.svcq := rfl
@[simp] theorem updHoist_blocks (s : State) (n : Nat) (f : Hoist → Hoist) : (s.updHoist n f).blocks = s.blocks := rfl
@[simp] theorem updHoist_gates (s : State) (n : Nat) (f : Hoist → Hoist) : (s.updHoist n f).gates = s.gates := rfl
@[simp] theorem updHoist_ctxs (s : State) (n : Nat) (f : Hoist → Hoist) : (s.updHoist n f).ctxs = s.ctxs := rfl
@[simp] theorem updHoist_cubes (s : State) (n : Nat) (f : Hoist → Hoist) : (s.updHoist n f).cubes = s.cubes := rfl
@[simp] theorem updHoist_flights (s : State) (n : Nat) (f : Hoist → Hoist) : (s.updHoist n f).flights = s.flights := rfl
@[simp] theorem updHoist_candidates (s : State) (n : Nat) (f : Hoist → Hoist) : (s.updHoist n f).candidates = s.candidates := rfl
@[simp] theorem updHoist_widths (s : State) (n : Nat) (f : Hoist → Hoist) : (s.updHoist n f).widths = s.widths := rfl
@[simp] theorem updHoist_pushes (s : State) (n : Nat) (f : Hoist → Hoist) : (s.updHoist n f).pushes = s.pushes := rfl
@[simp] theorem updHoist_aside (s : State) (n : Nat) (f : Hoist → Hoist) : (s.updHoist n f).aside = s.aside := rfl
@[simp] theorem updHoist_retiredReplicas (s : State) (n : Nat) (f : Hoist → Hoist) : (s.updHoist n f).retiredReplicas = s.retiredReplicas := rfl
@[simp] theorem updHoist_mail (s : State) (n : Nat) (f : Hoist → Hoist) : (s.updHoist n f).mail = s.mail := rfl
@[simp] theorem updHoist_nodes (s : State) (n : Nat) (f : Hoist → Hoist) : (s.updHoist n f).nodes = s.nodes := rfl
@[simp] theorem updHoist_ends (s : State) (n : Nat) (f : Hoist → Hoist) : (s.updHoist n f).ends = s.ends := rfl
@[simp] theorem updHoist_tokens (s : State) (n : Nat) (f : Hoist → Hoist) : (s.updHoist n f).tokens = s.tokens := rfl
@[simp] theorem updHoist_host (s : State) (n : Nat) (f : Hoist → Hoist) : (s.updHoist n f).host = s.host := rfl
@[simp] theorem updHoist_power (s : State) (n : Nat) (f : Hoist → Hoist) : (s.updHoist n f).power = s.power := rfl
@[simp] theorem updHoist_link (s : State) (n : Nat) (f : Hoist → Hoist) : (s.updHoist n f).link = s.link := rfl
@[simp] theorem updHoist_agenda (s : State) (n : Nat) (f : Hoist → Hoist) : (s.updHoist n f).agenda = s.agenda := rfl
@[simp] theorem updHoist_cur (s : State) (n : Nat) (f : Hoist → Hoist) : (s.updHoist n f).cur = s.cur := rfl
@[simp] theorem updHoist_sweep (s : State) (n : Nat) (f : Hoist → Hoist) : (s.updHoist n f).sweep = s.sweep := rfl
@[simp] theorem updHoist_turns (s : State) (n : Nat) (f : Hoist → Hoist) : (s.updHoist n f).turns = s.turns := rfl
@[simp] theorem updHoist_fresh (s : State) (n : Nat) (f : Hoist → Hoist) : (s.updHoist n f).fresh = s.fresh := rfl
@[simp] theorem updHoist_nextId (s : State) (n : Nat) (f : Hoist → Hoist) : (s.updHoist n f).nextId = s.nextId := rfl

@[simp] theorem updBlock_die (s : State) (n : Nat) (f : Block → Block) : (s.updBlock n f).die = s.die := rfl
@[simp] theorem updBlock_time (s : State) (n : Nat) (f : Block → Block) : (s.updBlock n f).time = s.time := rfl
@[simp] theorem updBlock_clock (s : State) (n : Nat) (f : Block → Block) : (s.updBlock n f).clock = s.clock := rfl
@[simp] theorem updBlock_issued (s : State) (n : Nat) (f : Block → Block) : (s.updBlock n f).issued = s.issued := rfl
@[simp] theorem updBlock_mem (s : State) (n : Nat) (f : Block → Block) : (s.updBlock n f).mem = s.mem := rfl
@[simp] theorem updBlock_poison (s : State) (n : Nat) (f : Block → Block) : (s.updBlock n f).poison = s.poison := rfl
@[simp] theorem updBlock_coreTlb (s : State) (n : Nat) (f : Block → Block) : (s.updBlock n f).coreTlb = s.coreTlb := rfl
@[simp] theorem updBlock_clusterTlb (s : State) (n : Nat) (f : Block → Block) : (s.updBlock n f).clusterTlb = s.clusterTlb := rfl
@[simp] theorem updBlock_pins (s : State) (n : Nat) (f : Block → Block) : (s.updBlock n f).pins = s.pins := rfl
@[simp] theorem updBlock_migrated (s : State) (n : Nat) (f : Block → Block) : (s.updBlock n f).migrated = s.migrated := rfl
@[simp] theorem updBlock_holds (s : State) (n : Nat) (f : Block → Block) : (s.updBlock n f).holds = s.holds := rfl
@[simp] theorem updBlock_monitors (s : State) (n : Nat) (f : Block → Block) : (s.updBlock n f).monitors = s.monitors := rfl
@[simp] theorem updBlock_svcq (s : State) (n : Nat) (f : Block → Block) : (s.updBlock n f).svcq = s.svcq := rfl
@[simp] theorem updBlock_hoists (s : State) (n : Nat) (f : Block → Block) : (s.updBlock n f).hoists = s.hoists := rfl
@[simp] theorem updBlock_gates (s : State) (n : Nat) (f : Block → Block) : (s.updBlock n f).gates = s.gates := rfl
@[simp] theorem updBlock_ctxs (s : State) (n : Nat) (f : Block → Block) : (s.updBlock n f).ctxs = s.ctxs := rfl
@[simp] theorem updBlock_cubes (s : State) (n : Nat) (f : Block → Block) : (s.updBlock n f).cubes = s.cubes := rfl
@[simp] theorem updBlock_flights (s : State) (n : Nat) (f : Block → Block) : (s.updBlock n f).flights = s.flights := rfl
@[simp] theorem updBlock_candidates (s : State) (n : Nat) (f : Block → Block) : (s.updBlock n f).candidates = s.candidates := rfl
@[simp] theorem updBlock_widths (s : State) (n : Nat) (f : Block → Block) : (s.updBlock n f).widths = s.widths := rfl
@[simp] theorem updBlock_pushes (s : State) (n : Nat) (f : Block → Block) : (s.updBlock n f).pushes = s.pushes := rfl
@[simp] theorem updBlock_aside (s : State) (n : Nat) (f : Block → Block) : (s.updBlock n f).aside = s.aside := rfl
@[simp] theorem updBlock_retiredReplicas (s : State) (n : Nat) (f : Block → Block) : (s.updBlock n f).retiredReplicas = s.retiredReplicas := rfl
@[simp] theorem updBlock_mail (s : State) (n : Nat) (f : Block → Block) : (s.updBlock n f).mail = s.mail := rfl
@[simp] theorem updBlock_nodes (s : State) (n : Nat) (f : Block → Block) : (s.updBlock n f).nodes = s.nodes := rfl
@[simp] theorem updBlock_ends (s : State) (n : Nat) (f : Block → Block) : (s.updBlock n f).ends = s.ends := rfl
@[simp] theorem updBlock_tokens (s : State) (n : Nat) (f : Block → Block) : (s.updBlock n f).tokens = s.tokens := rfl
@[simp] theorem updBlock_host (s : State) (n : Nat) (f : Block → Block) : (s.updBlock n f).host = s.host := rfl
@[simp] theorem updBlock_power (s : State) (n : Nat) (f : Block → Block) : (s.updBlock n f).power = s.power := rfl
@[simp] theorem updBlock_link (s : State) (n : Nat) (f : Block → Block) : (s.updBlock n f).link = s.link := rfl
@[simp] theorem updBlock_agenda (s : State) (n : Nat) (f : Block → Block) : (s.updBlock n f).agenda = s.agenda := rfl
@[simp] theorem updBlock_cur (s : State) (n : Nat) (f : Block → Block) : (s.updBlock n f).cur = s.cur := rfl
@[simp] theorem updBlock_sweep (s : State) (n : Nat) (f : Block → Block) : (s.updBlock n f).sweep = s.sweep := rfl
@[simp] theorem updBlock_turns (s : State) (n : Nat) (f : Block → Block) : (s.updBlock n f).turns = s.turns := rfl
@[simp] theorem updBlock_fresh (s : State) (n : Nat) (f : Block → Block) : (s.updBlock n f).fresh = s.fresh := rfl
@[simp] theorem updBlock_nextId (s : State) (n : Nat) (f : Block → Block) : (s.updBlock n f).nextId = s.nextId := rfl

@[simp] theorem updCtx_die (s : State) (n : Nat) (f : Ctx → Ctx) : (s.updCtx n f).die = s.die := rfl
@[simp] theorem updCtx_time (s : State) (n : Nat) (f : Ctx → Ctx) : (s.updCtx n f).time = s.time := rfl
@[simp] theorem updCtx_clock (s : State) (n : Nat) (f : Ctx → Ctx) : (s.updCtx n f).clock = s.clock := rfl
@[simp] theorem updCtx_issued (s : State) (n : Nat) (f : Ctx → Ctx) : (s.updCtx n f).issued = s.issued := rfl
@[simp] theorem updCtx_mem (s : State) (n : Nat) (f : Ctx → Ctx) : (s.updCtx n f).mem = s.mem := rfl
@[simp] theorem updCtx_poison (s : State) (n : Nat) (f : Ctx → Ctx) : (s.updCtx n f).poison = s.poison := rfl
@[simp] theorem updCtx_coreTlb (s : State) (n : Nat) (f : Ctx → Ctx) : (s.updCtx n f).coreTlb = s.coreTlb := rfl
@[simp] theorem updCtx_clusterTlb (s : State) (n : Nat) (f : Ctx → Ctx) : (s.updCtx n f).clusterTlb = s.clusterTlb := rfl
@[simp] theorem updCtx_pins (s : State) (n : Nat) (f : Ctx → Ctx) : (s.updCtx n f).pins = s.pins := rfl
@[simp] theorem updCtx_migrated (s : State) (n : Nat) (f : Ctx → Ctx) : (s.updCtx n f).migrated = s.migrated := rfl
@[simp] theorem updCtx_holds (s : State) (n : Nat) (f : Ctx → Ctx) : (s.updCtx n f).holds = s.holds := rfl
@[simp] theorem updCtx_monitors (s : State) (n : Nat) (f : Ctx → Ctx) : (s.updCtx n f).monitors = s.monitors := rfl
@[simp] theorem updCtx_svcq (s : State) (n : Nat) (f : Ctx → Ctx) : (s.updCtx n f).svcq = s.svcq := rfl
@[simp] theorem updCtx_hoists (s : State) (n : Nat) (f : Ctx → Ctx) : (s.updCtx n f).hoists = s.hoists := rfl
@[simp] theorem updCtx_blocks (s : State) (n : Nat) (f : Ctx → Ctx) : (s.updCtx n f).blocks = s.blocks := rfl
@[simp] theorem updCtx_gates (s : State) (n : Nat) (f : Ctx → Ctx) : (s.updCtx n f).gates = s.gates := rfl
@[simp] theorem updCtx_cubes (s : State) (n : Nat) (f : Ctx → Ctx) : (s.updCtx n f).cubes = s.cubes := rfl
@[simp] theorem updCtx_flights (s : State) (n : Nat) (f : Ctx → Ctx) : (s.updCtx n f).flights = s.flights := rfl
@[simp] theorem updCtx_candidates (s : State) (n : Nat) (f : Ctx → Ctx) : (s.updCtx n f).candidates = s.candidates := rfl
@[simp] theorem updCtx_widths (s : State) (n : Nat) (f : Ctx → Ctx) : (s.updCtx n f).widths = s.widths := rfl
@[simp] theorem updCtx_pushes (s : State) (n : Nat) (f : Ctx → Ctx) : (s.updCtx n f).pushes = s.pushes := rfl
@[simp] theorem updCtx_aside (s : State) (n : Nat) (f : Ctx → Ctx) : (s.updCtx n f).aside = s.aside := rfl
@[simp] theorem updCtx_retiredReplicas (s : State) (n : Nat) (f : Ctx → Ctx) : (s.updCtx n f).retiredReplicas = s.retiredReplicas := rfl
@[simp] theorem updCtx_mail (s : State) (n : Nat) (f : Ctx → Ctx) : (s.updCtx n f).mail = s.mail := rfl
@[simp] theorem updCtx_nodes (s : State) (n : Nat) (f : Ctx → Ctx) : (s.updCtx n f).nodes = s.nodes := rfl
@[simp] theorem updCtx_ends (s : State) (n : Nat) (f : Ctx → Ctx) : (s.updCtx n f).ends = s.ends := rfl
@[simp] theorem updCtx_tokens (s : State) (n : Nat) (f : Ctx → Ctx) : (s.updCtx n f).tokens = s.tokens := rfl
@[simp] theorem updCtx_host (s : State) (n : Nat) (f : Ctx → Ctx) : (s.updCtx n f).host = s.host := rfl
@[simp] theorem updCtx_power (s : State) (n : Nat) (f : Ctx → Ctx) : (s.updCtx n f).power = s.power := rfl
@[simp] theorem updCtx_link (s : State) (n : Nat) (f : Ctx → Ctx) : (s.updCtx n f).link = s.link := rfl
@[simp] theorem updCtx_agenda (s : State) (n : Nat) (f : Ctx → Ctx) : (s.updCtx n f).agenda = s.agenda := rfl
@[simp] theorem updCtx_cur (s : State) (n : Nat) (f : Ctx → Ctx) : (s.updCtx n f).cur = s.cur := rfl
@[simp] theorem updCtx_sweep (s : State) (n : Nat) (f : Ctx → Ctx) : (s.updCtx n f).sweep = s.sweep := rfl
@[simp] theorem updCtx_turns (s : State) (n : Nat) (f : Ctx → Ctx) : (s.updCtx n f).turns = s.turns := rfl
@[simp] theorem updCtx_fresh (s : State) (n : Nat) (f : Ctx → Ctx) : (s.updCtx n f).fresh = s.fresh := rfl
@[simp] theorem updCtx_nextId (s : State) (n : Nat) (f : Ctx → Ctx) : (s.updCtx n f).nextId = s.nextId := rfl

@[simp] theorem dropFlight_die (s : State) (n : Nat) : (s.dropFlight n).die = s.die := rfl
@[simp] theorem dropFlight_time (s : State) (n : Nat) : (s.dropFlight n).time = s.time := rfl
@[simp] theorem dropFlight_clock (s : State) (n : Nat) : (s.dropFlight n).clock = s.clock := rfl
@[simp] theorem dropFlight_issued (s : State) (n : Nat) : (s.dropFlight n).issued = s.issued := rfl
@[simp] theorem dropFlight_mem (s : State) (n : Nat) : (s.dropFlight n).mem = s.mem := rfl
@[simp] theorem dropFlight_poison (s : State) (n : Nat) : (s.dropFlight n).poison = s.poison := rfl
@[simp] theorem dropFlight_coreTlb (s : State) (n : Nat) : (s.dropFlight n).coreTlb = s.coreTlb := rfl
@[simp] theorem dropFlight_clusterTlb (s : State) (n : Nat) : (s.dropFlight n).clusterTlb = s.clusterTlb := rfl
@[simp] theorem dropFlight_pins (s : State) (n : Nat) : (s.dropFlight n).pins = s.pins := rfl
@[simp] theorem dropFlight_migrated (s : State) (n : Nat) : (s.dropFlight n).migrated = s.migrated := rfl
@[simp] theorem dropFlight_holds (s : State) (n : Nat) : (s.dropFlight n).holds = s.holds := rfl
@[simp] theorem dropFlight_monitors (s : State) (n : Nat) : (s.dropFlight n).monitors = s.monitors := rfl
@[simp] theorem dropFlight_svcq (s : State) (n : Nat) : (s.dropFlight n).svcq = s.svcq := rfl
@[simp] theorem dropFlight_hoists (s : State) (n : Nat) : (s.dropFlight n).hoists = s.hoists := rfl
@[simp] theorem dropFlight_blocks (s : State) (n : Nat) : (s.dropFlight n).blocks = s.blocks := rfl
@[simp] theorem dropFlight_gates (s : State) (n : Nat) : (s.dropFlight n).gates = s.gates := rfl
@[simp] theorem dropFlight_ctxs (s : State) (n : Nat) : (s.dropFlight n).ctxs = s.ctxs := rfl
@[simp] theorem dropFlight_cubes (s : State) (n : Nat) : (s.dropFlight n).cubes = s.cubes := rfl
@[simp] theorem dropFlight_candidates (s : State) (n : Nat) : (s.dropFlight n).candidates = s.candidates := rfl
@[simp] theorem dropFlight_widths (s : State) (n : Nat) : (s.dropFlight n).widths = s.widths := rfl
@[simp] theorem dropFlight_pushes (s : State) (n : Nat) : (s.dropFlight n).pushes = s.pushes := rfl
@[simp] theorem dropFlight_aside (s : State) (n : Nat) : (s.dropFlight n).aside = s.aside := rfl
@[simp] theorem dropFlight_retiredReplicas (s : State) (n : Nat) : (s.dropFlight n).retiredReplicas = s.retiredReplicas := rfl
@[simp] theorem dropFlight_mail (s : State) (n : Nat) : (s.dropFlight n).mail = s.mail := rfl
@[simp] theorem dropFlight_nodes (s : State) (n : Nat) : (s.dropFlight n).nodes = s.nodes := rfl
@[simp] theorem dropFlight_ends (s : State) (n : Nat) : (s.dropFlight n).ends = s.ends := rfl
@[simp] theorem dropFlight_tokens (s : State) (n : Nat) : (s.dropFlight n).tokens = s.tokens := rfl
@[simp] theorem dropFlight_host (s : State) (n : Nat) : (s.dropFlight n).host = s.host := rfl
@[simp] theorem dropFlight_power (s : State) (n : Nat) : (s.dropFlight n).power = s.power := rfl
@[simp] theorem dropFlight_link (s : State) (n : Nat) : (s.dropFlight n).link = s.link := rfl
@[simp] theorem dropFlight_agenda (s : State) (n : Nat) : (s.dropFlight n).agenda = s.agenda := rfl
@[simp] theorem dropFlight_cur (s : State) (n : Nat) : (s.dropFlight n).cur = s.cur := rfl
@[simp] theorem dropFlight_sweep (s : State) (n : Nat) : (s.dropFlight n).sweep = s.sweep := rfl
@[simp] theorem dropFlight_turns (s : State) (n : Nat) : (s.dropFlight n).turns = s.turns := rfl
@[simp] theorem dropFlight_fresh (s : State) (n : Nat) : (s.dropFlight n).fresh = s.fresh := rfl
@[simp] theorem dropFlight_nextId (s : State) (n : Nat) : (s.dropFlight n).nextId = s.nextId := rfl

@[simp] theorem updFlight_die (s : State) (n : Nat) (f : Work → Work) : (s.updFlight n f).die = s.die := rfl
@[simp] theorem updFlight_time (s : State) (n : Nat) (f : Work → Work) : (s.updFlight n f).time = s.time := rfl
@[simp] theorem updFlight_clock (s : State) (n : Nat) (f : Work → Work) : (s.updFlight n f).clock = s.clock := rfl
@[simp] theorem updFlight_issued (s : State) (n : Nat) (f : Work → Work) : (s.updFlight n f).issued = s.issued := rfl
@[simp] theorem updFlight_mem (s : State) (n : Nat) (f : Work → Work) : (s.updFlight n f).mem = s.mem := rfl
@[simp] theorem updFlight_poison (s : State) (n : Nat) (f : Work → Work) : (s.updFlight n f).poison = s.poison := rfl
@[simp] theorem updFlight_coreTlb (s : State) (n : Nat) (f : Work → Work) : (s.updFlight n f).coreTlb = s.coreTlb := rfl
@[simp] theorem updFlight_clusterTlb (s : State) (n : Nat) (f : Work → Work) : (s.updFlight n f).clusterTlb = s.clusterTlb := rfl
@[simp] theorem updFlight_pins (s : State) (n : Nat) (f : Work → Work) : (s.updFlight n f).pins = s.pins := rfl
@[simp] theorem updFlight_migrated (s : State) (n : Nat) (f : Work → Work) : (s.updFlight n f).migrated = s.migrated := rfl
@[simp] theorem updFlight_holds (s : State) (n : Nat) (f : Work → Work) : (s.updFlight n f).holds = s.holds := rfl
@[simp] theorem updFlight_monitors (s : State) (n : Nat) (f : Work → Work) : (s.updFlight n f).monitors = s.monitors := rfl
@[simp] theorem updFlight_svcq (s : State) (n : Nat) (f : Work → Work) : (s.updFlight n f).svcq = s.svcq := rfl
@[simp] theorem updFlight_hoists (s : State) (n : Nat) (f : Work → Work) : (s.updFlight n f).hoists = s.hoists := rfl
@[simp] theorem updFlight_blocks (s : State) (n : Nat) (f : Work → Work) : (s.updFlight n f).blocks = s.blocks := rfl
@[simp] theorem updFlight_gates (s : State) (n : Nat) (f : Work → Work) : (s.updFlight n f).gates = s.gates := rfl
@[simp] theorem updFlight_ctxs (s : State) (n : Nat) (f : Work → Work) : (s.updFlight n f).ctxs = s.ctxs := rfl
@[simp] theorem updFlight_cubes (s : State) (n : Nat) (f : Work → Work) : (s.updFlight n f).cubes = s.cubes := rfl
@[simp] theorem updFlight_candidates (s : State) (n : Nat) (f : Work → Work) : (s.updFlight n f).candidates = s.candidates := rfl
@[simp] theorem updFlight_widths (s : State) (n : Nat) (f : Work → Work) : (s.updFlight n f).widths = s.widths := rfl
@[simp] theorem updFlight_pushes (s : State) (n : Nat) (f : Work → Work) : (s.updFlight n f).pushes = s.pushes := rfl
@[simp] theorem updFlight_aside (s : State) (n : Nat) (f : Work → Work) : (s.updFlight n f).aside = s.aside := rfl
@[simp] theorem updFlight_retiredReplicas (s : State) (n : Nat) (f : Work → Work) : (s.updFlight n f).retiredReplicas = s.retiredReplicas := rfl
@[simp] theorem updFlight_mail (s : State) (n : Nat) (f : Work → Work) : (s.updFlight n f).mail = s.mail := rfl
@[simp] theorem updFlight_nodes (s : State) (n : Nat) (f : Work → Work) : (s.updFlight n f).nodes = s.nodes := rfl
@[simp] theorem updFlight_ends (s : State) (n : Nat) (f : Work → Work) : (s.updFlight n f).ends = s.ends := rfl
@[simp] theorem updFlight_tokens (s : State) (n : Nat) (f : Work → Work) : (s.updFlight n f).tokens = s.tokens := rfl
@[simp] theorem updFlight_host (s : State) (n : Nat) (f : Work → Work) : (s.updFlight n f).host = s.host := rfl
@[simp] theorem updFlight_power (s : State) (n : Nat) (f : Work → Work) : (s.updFlight n f).power = s.power := rfl
@[simp] theorem updFlight_link (s : State) (n : Nat) (f : Work → Work) : (s.updFlight n f).link = s.link := rfl
@[simp] theorem updFlight_agenda (s : State) (n : Nat) (f : Work → Work) : (s.updFlight n f).agenda = s.agenda := rfl
@[simp] theorem updFlight_cur (s : State) (n : Nat) (f : Work → Work) : (s.updFlight n f).cur = s.cur := rfl
@[simp] theorem updFlight_sweep (s : State) (n : Nat) (f : Work → Work) : (s.updFlight n f).sweep = s.sweep := rfl
@[simp] theorem updFlight_turns (s : State) (n : Nat) (f : Work → Work) : (s.updFlight n f).turns = s.turns := rfl
@[simp] theorem updFlight_fresh (s : State) (n : Nat) (f : Work → Work) : (s.updFlight n f).fresh = s.fresh := rfl
@[simp] theorem updFlight_nextId (s : State) (n : Nat) (f : Work → Work) : (s.updFlight n f).nextId = s.nextId := rfl

@[simp] theorem addFlight_die (s : State) (a b c d : Nat) (w : Work) (x : List Byte) : (s.addFlight a b c d w x).die = s.die := rfl
@[simp] theorem addFlight_time (s : State) (a b c d : Nat) (w : Work) (x : List Byte) : (s.addFlight a b c d w x).time = s.time := rfl
@[simp] theorem addFlight_clock (s : State) (a b c d : Nat) (w : Work) (x : List Byte) : (s.addFlight a b c d w x).clock = s.clock := rfl
@[simp] theorem addFlight_issued (s : State) (a b c d : Nat) (w : Work) (x : List Byte) : (s.addFlight a b c d w x).issued = s.issued := rfl
@[simp] theorem addFlight_mem (s : State) (a b c d : Nat) (w : Work) (x : List Byte) : (s.addFlight a b c d w x).mem = s.mem := rfl
@[simp] theorem addFlight_poison (s : State) (a b c d : Nat) (w : Work) (x : List Byte) : (s.addFlight a b c d w x).poison = s.poison := rfl
@[simp] theorem addFlight_coreTlb (s : State) (a b c d : Nat) (w : Work) (x : List Byte) : (s.addFlight a b c d w x).coreTlb = s.coreTlb := rfl
@[simp] theorem addFlight_clusterTlb (s : State) (a b c d : Nat) (w : Work) (x : List Byte) : (s.addFlight a b c d w x).clusterTlb = s.clusterTlb := rfl
@[simp] theorem addFlight_pins (s : State) (a b c d : Nat) (w : Work) (x : List Byte) : (s.addFlight a b c d w x).pins = s.pins := rfl
@[simp] theorem addFlight_migrated (s : State) (a b c d : Nat) (w : Work) (x : List Byte) : (s.addFlight a b c d w x).migrated = s.migrated := rfl
@[simp] theorem addFlight_holds (s : State) (a b c d : Nat) (w : Work) (x : List Byte) : (s.addFlight a b c d w x).holds = s.holds := rfl
@[simp] theorem addFlight_monitors (s : State) (a b c d : Nat) (w : Work) (x : List Byte) : (s.addFlight a b c d w x).monitors = s.monitors := rfl
@[simp] theorem addFlight_svcq (s : State) (a b c d : Nat) (w : Work) (x : List Byte) : (s.addFlight a b c d w x).svcq = s.svcq := rfl
@[simp] theorem addFlight_hoists (s : State) (a b c d : Nat) (w : Work) (x : List Byte) : (s.addFlight a b c d w x).hoists = s.hoists := rfl
@[simp] theorem addFlight_blocks (s : State) (a b c d : Nat) (w : Work) (x : List Byte) : (s.addFlight a b c d w x).blocks = s.blocks := rfl
@[simp] theorem addFlight_gates (s : State) (a b c d : Nat) (w : Work) (x : List Byte) : (s.addFlight a b c d w x).gates = s.gates := rfl
@[simp] theorem addFlight_ctxs (s : State) (a b c d : Nat) (w : Work) (x : List Byte) : (s.addFlight a b c d w x).ctxs = s.ctxs := rfl
@[simp] theorem addFlight_cubes (s : State) (a b c d : Nat) (w : Work) (x : List Byte) : (s.addFlight a b c d w x).cubes = s.cubes := rfl
@[simp] theorem addFlight_candidates (s : State) (a b c d : Nat) (w : Work) (x : List Byte) : (s.addFlight a b c d w x).candidates = s.candidates := rfl
@[simp] theorem addFlight_widths (s : State) (a b c d : Nat) (w : Work) (x : List Byte) : (s.addFlight a b c d w x).widths = s.widths := rfl
@[simp] theorem addFlight_pushes (s : State) (a b c d : Nat) (w : Work) (x : List Byte) : (s.addFlight a b c d w x).pushes = s.pushes := rfl
@[simp] theorem addFlight_aside (s : State) (a b c d : Nat) (w : Work) (x : List Byte) : (s.addFlight a b c d w x).aside = s.aside := rfl
@[simp] theorem addFlight_retiredReplicas (s : State) (a b c d : Nat) (w : Work) (x : List Byte) : (s.addFlight a b c d w x).retiredReplicas = s.retiredReplicas := rfl
@[simp] theorem addFlight_mail (s : State) (a b c d : Nat) (w : Work) (x : List Byte) : (s.addFlight a b c d w x).mail = s.mail := rfl
@[simp] theorem addFlight_nodes (s : State) (a b c d : Nat) (w : Work) (x : List Byte) : (s.addFlight a b c d w x).nodes = s.nodes := rfl
@[simp] theorem addFlight_ends (s : State) (a b c d : Nat) (w : Work) (x : List Byte) : (s.addFlight a b c d w x).ends = s.ends := rfl
@[simp] theorem addFlight_tokens (s : State) (a b c d : Nat) (w : Work) (x : List Byte) : (s.addFlight a b c d w x).tokens = s.tokens := rfl
@[simp] theorem addFlight_host (s : State) (a b c d : Nat) (w : Work) (x : List Byte) : (s.addFlight a b c d w x).host = s.host := rfl
@[simp] theorem addFlight_power (s : State) (a b c d : Nat) (w : Work) (x : List Byte) : (s.addFlight a b c d w x).power = s.power := rfl
@[simp] theorem addFlight_link (s : State) (a b c d : Nat) (w : Work) (x : List Byte) : (s.addFlight a b c d w x).link = s.link := rfl
@[simp] theorem addFlight_agenda (s : State) (a b c d : Nat) (w : Work) (x : List Byte) : (s.addFlight a b c d w x).agenda = s.agenda := rfl
@[simp] theorem addFlight_cur (s : State) (a b c d : Nat) (w : Work) (x : List Byte) : (s.addFlight a b c d w x).cur = s.cur := rfl
@[simp] theorem addFlight_sweep (s : State) (a b c d : Nat) (w : Work) (x : List Byte) : (s.addFlight a b c d w x).sweep = s.sweep := rfl
@[simp] theorem addFlight_turns (s : State) (a b c d : Nat) (w : Work) (x : List Byte) : (s.addFlight a b c d w x).turns = s.turns := rfl
@[simp] theorem addFlight_fresh (s : State) (a b c d : Nat) (w : Work) (x : List Byte) : (s.addFlight a b c d w x).fresh = s.fresh := rfl

@[simp] theorem dropCount_die (s : State) (n : Nat) (k : Counter) : (s.dropCount n k).die = s.die := rfl
@[simp] theorem dropCount_time (s : State) (n : Nat) (k : Counter) : (s.dropCount n k).time = s.time := rfl
@[simp] theorem dropCount_clock (s : State) (n : Nat) (k : Counter) : (s.dropCount n k).clock = s.clock := rfl
@[simp] theorem dropCount_issued (s : State) (n : Nat) (k : Counter) : (s.dropCount n k).issued = s.issued := rfl
@[simp] theorem dropCount_mem (s : State) (n : Nat) (k : Counter) : (s.dropCount n k).mem = s.mem := rfl
@[simp] theorem dropCount_poison (s : State) (n : Nat) (k : Counter) : (s.dropCount n k).poison = s.poison := rfl
@[simp] theorem dropCount_coreTlb (s : State) (n : Nat) (k : Counter) : (s.dropCount n k).coreTlb = s.coreTlb := rfl
@[simp] theorem dropCount_clusterTlb (s : State) (n : Nat) (k : Counter) : (s.dropCount n k).clusterTlb = s.clusterTlb := rfl
@[simp] theorem dropCount_pins (s : State) (n : Nat) (k : Counter) : (s.dropCount n k).pins = s.pins := rfl
@[simp] theorem dropCount_migrated (s : State) (n : Nat) (k : Counter) : (s.dropCount n k).migrated = s.migrated := rfl
@[simp] theorem dropCount_holds (s : State) (n : Nat) (k : Counter) : (s.dropCount n k).holds = s.holds := rfl
@[simp] theorem dropCount_monitors (s : State) (n : Nat) (k : Counter) : (s.dropCount n k).monitors = s.monitors := rfl
@[simp] theorem dropCount_svcq (s : State) (n : Nat) (k : Counter) : (s.dropCount n k).svcq = s.svcq := rfl
@[simp] theorem dropCount_blocks (s : State) (n : Nat) (k : Counter) : (s.dropCount n k).blocks = s.blocks := rfl
@[simp] theorem dropCount_gates (s : State) (n : Nat) (k : Counter) : (s.dropCount n k).gates = s.gates := rfl
@[simp] theorem dropCount_ctxs (s : State) (n : Nat) (k : Counter) : (s.dropCount n k).ctxs = s.ctxs := rfl
@[simp] theorem dropCount_cubes (s : State) (n : Nat) (k : Counter) : (s.dropCount n k).cubes = s.cubes := rfl
@[simp] theorem dropCount_flights (s : State) (n : Nat) (k : Counter) : (s.dropCount n k).flights = s.flights := rfl
@[simp] theorem dropCount_candidates (s : State) (n : Nat) (k : Counter) : (s.dropCount n k).candidates = s.candidates := rfl
@[simp] theorem dropCount_widths (s : State) (n : Nat) (k : Counter) : (s.dropCount n k).widths = s.widths := rfl
@[simp] theorem dropCount_pushes (s : State) (n : Nat) (k : Counter) : (s.dropCount n k).pushes = s.pushes := rfl
@[simp] theorem dropCount_aside (s : State) (n : Nat) (k : Counter) : (s.dropCount n k).aside = s.aside := rfl
@[simp] theorem dropCount_retiredReplicas (s : State) (n : Nat) (k : Counter) : (s.dropCount n k).retiredReplicas = s.retiredReplicas := rfl
@[simp] theorem dropCount_mail (s : State) (n : Nat) (k : Counter) : (s.dropCount n k).mail = s.mail := rfl
@[simp] theorem dropCount_nodes (s : State) (n : Nat) (k : Counter) : (s.dropCount n k).nodes = s.nodes := rfl
@[simp] theorem dropCount_ends (s : State) (n : Nat) (k : Counter) : (s.dropCount n k).ends = s.ends := rfl
@[simp] theorem dropCount_tokens (s : State) (n : Nat) (k : Counter) : (s.dropCount n k).tokens = s.tokens := rfl
@[simp] theorem dropCount_host (s : State) (n : Nat) (k : Counter) : (s.dropCount n k).host = s.host := rfl
@[simp] theorem dropCount_power (s : State) (n : Nat) (k : Counter) : (s.dropCount n k).power = s.power := rfl
@[simp] theorem dropCount_link (s : State) (n : Nat) (k : Counter) : (s.dropCount n k).link = s.link := rfl
@[simp] theorem dropCount_agenda (s : State) (n : Nat) (k : Counter) : (s.dropCount n k).agenda = s.agenda := rfl
@[simp] theorem dropCount_cur (s : State) (n : Nat) (k : Counter) : (s.dropCount n k).cur = s.cur := rfl
@[simp] theorem dropCount_sweep (s : State) (n : Nat) (k : Counter) : (s.dropCount n k).sweep = s.sweep := rfl
@[simp] theorem dropCount_turns (s : State) (n : Nat) (k : Counter) : (s.dropCount n k).turns = s.turns := rfl
@[simp] theorem dropCount_fresh (s : State) (n : Nat) (k : Counter) : (s.dropCount n k).fresh = s.fresh := rfl
@[simp] theorem dropCount_nextId (s : State) (n : Nat) (k : Counter) : (s.dropCount n k).nextId = s.nextId := rfl

@[simp] theorem advance_die (s : State) (n : Nat) : (s.advance n).die = s.die := rfl
@[simp] theorem advance_mem (s : State) (n : Nat) : (s.advance n).mem = s.mem := rfl
@[simp] theorem advance_poison (s : State) (n : Nat) : (s.advance n).poison = s.poison := rfl
@[simp] theorem advance_coreTlb (s : State) (n : Nat) : (s.advance n).coreTlb = s.coreTlb := rfl
@[simp] theorem advance_clusterTlb (s : State) (n : Nat) : (s.advance n).clusterTlb = s.clusterTlb := rfl
@[simp] theorem advance_pins (s : State) (n : Nat) : (s.advance n).pins = s.pins := rfl
@[simp] theorem advance_migrated (s : State) (n : Nat) : (s.advance n).migrated = s.migrated := rfl
@[simp] theorem advance_holds (s : State) (n : Nat) : (s.advance n).holds = s.holds := rfl
@[simp] theorem advance_monitors (s : State) (n : Nat) : (s.advance n).monitors = s.monitors := rfl
@[simp] theorem advance_svcq (s : State) (n : Nat) : (s.advance n).svcq = s.svcq := rfl
@[simp] theorem advance_hoists (s : State) (n : Nat) : (s.advance n).hoists = s.hoists := rfl
@[simp] theorem advance_blocks (s : State) (n : Nat) : (s.advance n).blocks = s.blocks := rfl
@[simp] theorem advance_gates (s : State) (n : Nat) : (s.advance n).gates = s.gates := rfl
@[simp] theorem advance_ctxs (s : State) (n : Nat) : (s.advance n).ctxs = s.ctxs := rfl
@[simp] theorem advance_cubes (s : State) (n : Nat) : (s.advance n).cubes = s.cubes := rfl
@[simp] theorem advance_flights (s : State) (n : Nat) : (s.advance n).flights = s.flights := rfl
@[simp] theorem advance_candidates (s : State) (n : Nat) : (s.advance n).candidates = s.candidates := rfl
@[simp] theorem advance_widths (s : State) (n : Nat) : (s.advance n).widths = s.widths := rfl
@[simp] theorem advance_pushes (s : State) (n : Nat) : (s.advance n).pushes = s.pushes := rfl
@[simp] theorem advance_aside (s : State) (n : Nat) : (s.advance n).aside = s.aside := rfl
@[simp] theorem advance_retiredReplicas (s : State) (n : Nat) : (s.advance n).retiredReplicas = s.retiredReplicas := rfl
@[simp] theorem advance_mail (s : State) (n : Nat) : (s.advance n).mail = s.mail := rfl
@[simp] theorem advance_nodes (s : State) (n : Nat) : (s.advance n).nodes = s.nodes := rfl
@[simp] theorem advance_ends (s : State) (n : Nat) : (s.advance n).ends = s.ends := rfl
@[simp] theorem advance_tokens (s : State) (n : Nat) : (s.advance n).tokens = s.tokens := rfl
@[simp] theorem advance_host (s : State) (n : Nat) : (s.advance n).host = s.host := rfl
@[simp] theorem advance_power (s : State) (n : Nat) : (s.advance n).power = s.power := rfl
@[simp] theorem advance_agenda (s : State) (n : Nat) : (s.advance n).agenda = s.agenda := rfl
@[simp] theorem advance_cur (s : State) (n : Nat) : (s.advance n).cur = s.cur := rfl
@[simp] theorem advance_turns (s : State) (n : Nat) : (s.advance n).turns = s.turns := rfl
@[simp] theorem advance_fresh (s : State) (n : Nat) : (s.advance n).fresh = s.fresh := rfl
@[simp] theorem advance_nextId (s : State) (n : Nat) : (s.advance n).nextId = s.nextId := rfl

@[simp] theorem spend_die (s : State) (n : Nat) : (s.spend n).die = s.die := rfl
@[simp] theorem spend_time (s : State) (n : Nat) : (s.spend n).time = s.time := rfl
@[simp] theorem spend_clock (s : State) (n : Nat) : (s.spend n).clock = s.clock := rfl
@[simp] theorem spend_mem (s : State) (n : Nat) : (s.spend n).mem = s.mem := rfl
@[simp] theorem spend_poison (s : State) (n : Nat) : (s.spend n).poison = s.poison := rfl
@[simp] theorem spend_coreTlb (s : State) (n : Nat) : (s.spend n).coreTlb = s.coreTlb := rfl
@[simp] theorem spend_clusterTlb (s : State) (n : Nat) : (s.spend n).clusterTlb = s.clusterTlb := rfl
@[simp] theorem spend_pins (s : State) (n : Nat) : (s.spend n).pins = s.pins := rfl
@[simp] theorem spend_migrated (s : State) (n : Nat) : (s.spend n).migrated = s.migrated := rfl
@[simp] theorem spend_holds (s : State) (n : Nat) : (s.spend n).holds = s.holds := rfl
@[simp] theorem spend_monitors (s : State) (n : Nat) : (s.spend n).monitors = s.monitors := rfl
@[simp] theorem spend_svcq (s : State) (n : Nat) : (s.spend n).svcq = s.svcq := rfl
@[simp] theorem spend_hoists (s : State) (n : Nat) : (s.spend n).hoists = s.hoists := rfl
@[simp] theorem spend_blocks (s : State) (n : Nat) : (s.spend n).blocks = s.blocks := rfl
@[simp] theorem spend_gates (s : State) (n : Nat) : (s.spend n).gates = s.gates := rfl
@[simp] theorem spend_ctxs (s : State) (n : Nat) : (s.spend n).ctxs = s.ctxs := rfl
@[simp] theorem spend_cubes (s : State) (n : Nat) : (s.spend n).cubes = s.cubes := rfl
@[simp] theorem spend_flights (s : State) (n : Nat) : (s.spend n).flights = s.flights := rfl
@[simp] theorem spend_candidates (s : State) (n : Nat) : (s.spend n).candidates = s.candidates := rfl
@[simp] theorem spend_widths (s : State) (n : Nat) : (s.spend n).widths = s.widths := rfl
@[simp] theorem spend_pushes (s : State) (n : Nat) : (s.spend n).pushes = s.pushes := rfl
@[simp] theorem spend_aside (s : State) (n : Nat) : (s.spend n).aside = s.aside := rfl
@[simp] theorem spend_retiredReplicas (s : State) (n : Nat) : (s.spend n).retiredReplicas = s.retiredReplicas := rfl
@[simp] theorem spend_mail (s : State) (n : Nat) : (s.spend n).mail = s.mail := rfl
@[simp] theorem spend_nodes (s : State) (n : Nat) : (s.spend n).nodes = s.nodes := rfl
@[simp] theorem spend_ends (s : State) (n : Nat) : (s.spend n).ends = s.ends := rfl
@[simp] theorem spend_tokens (s : State) (n : Nat) : (s.spend n).tokens = s.tokens := rfl
@[simp] theorem spend_host (s : State) (n : Nat) : (s.spend n).host = s.host := rfl
@[simp] theorem spend_power (s : State) (n : Nat) : (s.spend n).power = s.power := rfl
@[simp] theorem spend_link (s : State) (n : Nat) : (s.spend n).link = s.link := rfl
@[simp] theorem spend_agenda (s : State) (n : Nat) : (s.spend n).agenda = s.agenda := rfl
@[simp] theorem spend_cur (s : State) (n : Nat) : (s.spend n).cur = s.cur := rfl
@[simp] theorem spend_sweep (s : State) (n : Nat) : (s.spend n).sweep = s.sweep := rfl
@[simp] theorem spend_turns (s : State) (n : Nat) : (s.spend n).turns = s.turns := rfl
@[simp] theorem spend_fresh (s : State) (n : Nat) : (s.spend n).fresh = s.fresh := rfl
@[simp] theorem spend_nextId (s : State) (n : Nat) : (s.spend n).nextId = s.nextId := rfl

@[simp] theorem signalEnsigns_die (s : State) : (s.signalEnsigns).die = s.die := rfl
@[simp] theorem signalEnsigns_time (s : State) : (s.signalEnsigns).time = s.time := rfl
@[simp] theorem signalEnsigns_clock (s : State) : (s.signalEnsigns).clock = s.clock := rfl
@[simp] theorem signalEnsigns_issued (s : State) : (s.signalEnsigns).issued = s.issued := rfl
@[simp] theorem signalEnsigns_mem (s : State) : (s.signalEnsigns).mem = s.mem := rfl
@[simp] theorem signalEnsigns_poison (s : State) : (s.signalEnsigns).poison = s.poison := rfl
@[simp] theorem signalEnsigns_coreTlb (s : State) : (s.signalEnsigns).coreTlb = s.coreTlb := rfl
@[simp] theorem signalEnsigns_clusterTlb (s : State) : (s.signalEnsigns).clusterTlb = s.clusterTlb := rfl
@[simp] theorem signalEnsigns_pins (s : State) : (s.signalEnsigns).pins = s.pins := rfl
@[simp] theorem signalEnsigns_migrated (s : State) : (s.signalEnsigns).migrated = s.migrated := rfl
@[simp] theorem signalEnsigns_holds (s : State) : (s.signalEnsigns).holds = s.holds := rfl
@[simp] theorem signalEnsigns_monitors (s : State) : (s.signalEnsigns).monitors = s.monitors := rfl
@[simp] theorem signalEnsigns_svcq (s : State) : (s.signalEnsigns).svcq = s.svcq := rfl
@[simp] theorem signalEnsigns_hoists (s : State) : (s.signalEnsigns).hoists = s.hoists := rfl
@[simp] theorem signalEnsigns_blocks (s : State) : (s.signalEnsigns).blocks = s.blocks := rfl
@[simp] theorem signalEnsigns_gates (s : State) : (s.signalEnsigns).gates = s.gates := rfl
@[simp] theorem signalEnsigns_ctxs (s : State) : (s.signalEnsigns).ctxs = s.ctxs := rfl
@[simp] theorem signalEnsigns_cubes (s : State) : (s.signalEnsigns).cubes = s.cubes := rfl
@[simp] theorem signalEnsigns_flights (s : State) : (s.signalEnsigns).flights = s.flights := rfl
@[simp] theorem signalEnsigns_candidates (s : State) : (s.signalEnsigns).candidates = s.candidates := rfl
@[simp] theorem signalEnsigns_widths (s : State) : (s.signalEnsigns).widths = s.widths := rfl
@[simp] theorem signalEnsigns_pushes (s : State) : (s.signalEnsigns).pushes = s.pushes := rfl
@[simp] theorem signalEnsigns_aside (s : State) : (s.signalEnsigns).aside = s.aside := rfl
@[simp] theorem signalEnsigns_retiredReplicas (s : State) : (s.signalEnsigns).retiredReplicas = s.retiredReplicas := rfl
@[simp] theorem signalEnsigns_mail (s : State) : (s.signalEnsigns).mail = s.mail := rfl
@[simp] theorem signalEnsigns_nodes (s : State) : (s.signalEnsigns).nodes = s.nodes := rfl
@[simp] theorem signalEnsigns_ends (s : State) : (s.signalEnsigns).ends = s.ends := rfl
@[simp] theorem signalEnsigns_tokens (s : State) : (s.signalEnsigns).tokens = s.tokens := rfl
@[simp] theorem signalEnsigns_host (s : State) : (s.signalEnsigns).host = s.host := rfl
@[simp] theorem signalEnsigns_power (s : State) : (s.signalEnsigns).power = s.power := rfl
@[simp] theorem signalEnsigns_link (s : State) : (s.signalEnsigns).link = s.link := rfl
@[simp] theorem signalEnsigns_agenda (s : State) : (s.signalEnsigns).agenda = s.agenda := rfl
@[simp] theorem signalEnsigns_cur (s : State) : (s.signalEnsigns).cur = s.cur := rfl
@[simp] theorem signalEnsigns_turns (s : State) : (s.signalEnsigns).turns = s.turns := rfl
@[simp] theorem signalEnsigns_fresh (s : State) : (s.signalEnsigns).fresh = s.fresh := rfl
@[simp] theorem signalEnsigns_nextId (s : State) : (s.signalEnsigns).nextId = s.nextId := rfl

@[simp] theorem freshCtx_die (s : State) (n : Nat) : (s.freshCtx n).die = s.die := rfl
@[simp] theorem freshCtx_time (s : State) (n : Nat) : (s.freshCtx n).time = s.time := rfl
@[simp] theorem freshCtx_clock (s : State) (n : Nat) : (s.freshCtx n).clock = s.clock := rfl
@[simp] theorem freshCtx_issued (s : State) (n : Nat) : (s.freshCtx n).issued = s.issued := rfl
@[simp] theorem freshCtx_mem (s : State) (n : Nat) : (s.freshCtx n).mem = s.mem := rfl
@[simp] theorem freshCtx_poison (s : State) (n : Nat) : (s.freshCtx n).poison = s.poison := rfl
@[simp] theorem freshCtx_coreTlb (s : State) (n : Nat) : (s.freshCtx n).coreTlb = s.coreTlb := rfl
@[simp] theorem freshCtx_clusterTlb (s : State) (n : Nat) : (s.freshCtx n).clusterTlb = s.clusterTlb := rfl
@[simp] theorem freshCtx_pins (s : State) (n : Nat) : (s.freshCtx n).pins = s.pins := rfl
@[simp] theorem freshCtx_migrated (s : State) (n : Nat) : (s.freshCtx n).migrated = s.migrated := rfl
@[simp] theorem freshCtx_holds (s : State) (n : Nat) : (s.freshCtx n).holds = s.holds := rfl
@[simp] theorem freshCtx_monitors (s : State) (n : Nat) : (s.freshCtx n).monitors = s.monitors := rfl
@[simp] theorem freshCtx_svcq (s : State) (n : Nat) : (s.freshCtx n).svcq = s.svcq := rfl
@[simp] theorem freshCtx_hoists (s : State) (n : Nat) : (s.freshCtx n).hoists = s.hoists := rfl
@[simp] theorem freshCtx_blocks (s : State) (n : Nat) : (s.freshCtx n).blocks = s.blocks := rfl
@[simp] theorem freshCtx_gates (s : State) (n : Nat) : (s.freshCtx n).gates = s.gates := rfl
@[simp] theorem freshCtx_ctxs (s : State) (n : Nat) : (s.freshCtx n).ctxs = s.ctxs := rfl
@[simp] theorem freshCtx_cubes (s : State) (n : Nat) : (s.freshCtx n).cubes = s.cubes := rfl
@[simp] theorem freshCtx_flights (s : State) (n : Nat) : (s.freshCtx n).flights = s.flights := rfl
@[simp] theorem freshCtx_candidates (s : State) (n : Nat) : (s.freshCtx n).candidates = s.candidates := rfl
@[simp] theorem freshCtx_pushes (s : State) (n : Nat) : (s.freshCtx n).pushes = s.pushes := rfl
@[simp] theorem freshCtx_retiredReplicas (s : State) (n : Nat) : (s.freshCtx n).retiredReplicas = s.retiredReplicas := rfl
@[simp] theorem freshCtx_mail (s : State) (n : Nat) : (s.freshCtx n).mail = s.mail := rfl
@[simp] theorem freshCtx_ends (s : State) (n : Nat) : (s.freshCtx n).ends = s.ends := rfl
@[simp] theorem freshCtx_tokens (s : State) (n : Nat) : (s.freshCtx n).tokens = s.tokens := rfl
@[simp] theorem freshCtx_host (s : State) (n : Nat) : (s.freshCtx n).host = s.host := rfl
@[simp] theorem freshCtx_power (s : State) (n : Nat) : (s.freshCtx n).power = s.power := rfl
@[simp] theorem freshCtx_link (s : State) (n : Nat) : (s.freshCtx n).link = s.link := rfl
@[simp] theorem freshCtx_agenda (s : State) (n : Nat) : (s.freshCtx n).agenda = s.agenda := rfl
@[simp] theorem freshCtx_cur (s : State) (n : Nat) : (s.freshCtx n).cur = s.cur := rfl
@[simp] theorem freshCtx_sweep (s : State) (n : Nat) : (s.freshCtx n).sweep = s.sweep := rfl
@[simp] theorem freshCtx_turns (s : State) (n : Nat) : (s.freshCtx n).turns = s.turns := rfl
@[simp] theorem freshCtx_fresh (s : State) (n : Nat) : (s.freshCtx n).fresh = s.fresh := rfl
@[simp] theorem freshCtx_nextId (s : State) (n : Nat) : (s.freshCtx n).nextId = s.nextId := rfl

@[simp] theorem relieve_die (s : State) (c : BitVec 2) : (s.relieve c).die = s.die := rfl
@[simp] theorem relieve_time (s : State) (c : BitVec 2) : (s.relieve c).time = s.time := rfl
@[simp] theorem relieve_clock (s : State) (c : BitVec 2) : (s.relieve c).clock = s.clock := rfl
@[simp] theorem relieve_issued (s : State) (c : BitVec 2) : (s.relieve c).issued = s.issued := rfl
@[simp] theorem relieve_mem (s : State) (c : BitVec 2) : (s.relieve c).mem = s.mem := rfl
@[simp] theorem relieve_poison (s : State) (c : BitVec 2) : (s.relieve c).poison = s.poison := rfl
@[simp] theorem relieve_coreTlb (s : State) (c : BitVec 2) : (s.relieve c).coreTlb = s.coreTlb := rfl
@[simp] theorem relieve_clusterTlb (s : State) (c : BitVec 2) : (s.relieve c).clusterTlb = s.clusterTlb := rfl
@[simp] theorem relieve_pins (s : State) (c : BitVec 2) : (s.relieve c).pins = s.pins := rfl
@[simp] theorem relieve_migrated (s : State) (c : BitVec 2) : (s.relieve c).migrated = s.migrated := rfl
@[simp] theorem relieve_holds (s : State) (c : BitVec 2) : (s.relieve c).holds = s.holds := rfl
@[simp] theorem relieve_monitors (s : State) (c : BitVec 2) : (s.relieve c).monitors = s.monitors := rfl
@[simp] theorem relieve_svcq (s : State) (c : BitVec 2) : (s.relieve c).svcq = s.svcq := rfl
@[simp] theorem relieve_hoists (s : State) (c : BitVec 2) : (s.relieve c).hoists = s.hoists := rfl
@[simp] theorem relieve_blocks (s : State) (c : BitVec 2) : (s.relieve c).blocks = s.blocks := rfl
@[simp] theorem relieve_gates (s : State) (c : BitVec 2) : (s.relieve c).gates = s.gates := rfl
@[simp] theorem relieve_ctxs (s : State) (c : BitVec 2) : (s.relieve c).ctxs = s.ctxs := rfl
@[simp] theorem relieve_cubes (s : State) (c : BitVec 2) : (s.relieve c).cubes = s.cubes := rfl
@[simp] theorem relieve_flights (s : State) (c : BitVec 2) : (s.relieve c).flights = s.flights := rfl
@[simp] theorem relieve_candidates (s : State) (c : BitVec 2) : (s.relieve c).candidates = s.candidates := rfl
@[simp] theorem relieve_widths (s : State) (c : BitVec 2) : (s.relieve c).widths = s.widths := rfl
@[simp] theorem relieve_pushes (s : State) (c : BitVec 2) : (s.relieve c).pushes = s.pushes := rfl
@[simp] theorem relieve_aside (s : State) (c : BitVec 2) : (s.relieve c).aside = s.aside := rfl
@[simp] theorem relieve_retiredReplicas (s : State) (c : BitVec 2) : (s.relieve c).retiredReplicas = s.retiredReplicas := rfl
@[simp] theorem relieve_mail (s : State) (c : BitVec 2) : (s.relieve c).mail = s.mail := rfl
@[simp] theorem relieve_nodes (s : State) (c : BitVec 2) : (s.relieve c).nodes = s.nodes := rfl
@[simp] theorem relieve_ends (s : State) (c : BitVec 2) : (s.relieve c).ends = s.ends := rfl
@[simp] theorem relieve_tokens (s : State) (c : BitVec 2) : (s.relieve c).tokens = s.tokens := rfl
@[simp] theorem relieve_host (s : State) (c : BitVec 2) : (s.relieve c).host = s.host := rfl
@[simp] theorem relieve_link (s : State) (c : BitVec 2) : (s.relieve c).link = s.link := rfl
@[simp] theorem relieve_agenda (s : State) (c : BitVec 2) : (s.relieve c).agenda = s.agenda := rfl
@[simp] theorem relieve_cur (s : State) (c : BitVec 2) : (s.relieve c).cur = s.cur := rfl
@[simp] theorem relieve_sweep (s : State) (c : BitVec 2) : (s.relieve c).sweep = s.sweep := rfl
@[simp] theorem relieve_turns (s : State) (c : BitVec 2) : (s.relieve c).turns = s.turns := rfl
@[simp] theorem relieve_fresh (s : State) (c : BitVec 2) : (s.relieve c).fresh = s.fresh := rfl
@[simp] theorem relieve_nextId (s : State) (c : BitVec 2) : (s.relieve c).nextId = s.nextId := rfl

@[simp] theorem dropPage_die (s : State) (n : Nat) (p : BitVec 56) : (s.dropPage n p).die = s.die := rfl
@[simp] theorem dropPage_time (s : State) (n : Nat) (p : BitVec 56) : (s.dropPage n p).time = s.time := rfl
@[simp] theorem dropPage_clock (s : State) (n : Nat) (p : BitVec 56) : (s.dropPage n p).clock = s.clock := rfl
@[simp] theorem dropPage_issued (s : State) (n : Nat) (p : BitVec 56) : (s.dropPage n p).issued = s.issued := rfl
@[simp] theorem dropPage_mem (s : State) (n : Nat) (p : BitVec 56) : (s.dropPage n p).mem = s.mem := rfl
@[simp] theorem dropPage_poison (s : State) (n : Nat) (p : BitVec 56) : (s.dropPage n p).poison = s.poison := rfl
@[simp] theorem dropPage_pins (s : State) (n : Nat) (p : BitVec 56) : (s.dropPage n p).pins = s.pins := rfl
@[simp] theorem dropPage_migrated (s : State) (n : Nat) (p : BitVec 56) : (s.dropPage n p).migrated = s.migrated := rfl
@[simp] theorem dropPage_holds (s : State) (n : Nat) (p : BitVec 56) : (s.dropPage n p).holds = s.holds := rfl
@[simp] theorem dropPage_monitors (s : State) (n : Nat) (p : BitVec 56) : (s.dropPage n p).monitors = s.monitors := rfl
@[simp] theorem dropPage_svcq (s : State) (n : Nat) (p : BitVec 56) : (s.dropPage n p).svcq = s.svcq := rfl
@[simp] theorem dropPage_hoists (s : State) (n : Nat) (p : BitVec 56) : (s.dropPage n p).hoists = s.hoists := rfl
@[simp] theorem dropPage_blocks (s : State) (n : Nat) (p : BitVec 56) : (s.dropPage n p).blocks = s.blocks := rfl
@[simp] theorem dropPage_gates (s : State) (n : Nat) (p : BitVec 56) : (s.dropPage n p).gates = s.gates := rfl
@[simp] theorem dropPage_ctxs (s : State) (n : Nat) (p : BitVec 56) : (s.dropPage n p).ctxs = s.ctxs := rfl
@[simp] theorem dropPage_cubes (s : State) (n : Nat) (p : BitVec 56) : (s.dropPage n p).cubes = s.cubes := rfl
@[simp] theorem dropPage_flights (s : State) (n : Nat) (p : BitVec 56) : (s.dropPage n p).flights = s.flights := rfl
@[simp] theorem dropPage_candidates (s : State) (n : Nat) (p : BitVec 56) : (s.dropPage n p).candidates = s.candidates := rfl
@[simp] theorem dropPage_widths (s : State) (n : Nat) (p : BitVec 56) : (s.dropPage n p).widths = s.widths := rfl
@[simp] theorem dropPage_pushes (s : State) (n : Nat) (p : BitVec 56) : (s.dropPage n p).pushes = s.pushes := rfl
@[simp] theorem dropPage_aside (s : State) (n : Nat) (p : BitVec 56) : (s.dropPage n p).aside = s.aside := rfl
@[simp] theorem dropPage_retiredReplicas (s : State) (n : Nat) (p : BitVec 56) : (s.dropPage n p).retiredReplicas = s.retiredReplicas := rfl
@[simp] theorem dropPage_mail (s : State) (n : Nat) (p : BitVec 56) : (s.dropPage n p).mail = s.mail := rfl
@[simp] theorem dropPage_nodes (s : State) (n : Nat) (p : BitVec 56) : (s.dropPage n p).nodes = s.nodes := rfl
@[simp] theorem dropPage_ends (s : State) (n : Nat) (p : BitVec 56) : (s.dropPage n p).ends = s.ends := rfl
@[simp] theorem dropPage_tokens (s : State) (n : Nat) (p : BitVec 56) : (s.dropPage n p).tokens = s.tokens := rfl
@[simp] theorem dropPage_host (s : State) (n : Nat) (p : BitVec 56) : (s.dropPage n p).host = s.host := rfl
@[simp] theorem dropPage_power (s : State) (n : Nat) (p : BitVec 56) : (s.dropPage n p).power = s.power := rfl
@[simp] theorem dropPage_link (s : State) (n : Nat) (p : BitVec 56) : (s.dropPage n p).link = s.link := rfl
@[simp] theorem dropPage_agenda (s : State) (n : Nat) (p : BitVec 56) : (s.dropPage n p).agenda = s.agenda := rfl
@[simp] theorem dropPage_cur (s : State) (n : Nat) (p : BitVec 56) : (s.dropPage n p).cur = s.cur := rfl
@[simp] theorem dropPage_sweep (s : State) (n : Nat) (p : BitVec 56) : (s.dropPage n p).sweep = s.sweep := rfl
@[simp] theorem dropPage_turns (s : State) (n : Nat) (p : BitVec 56) : (s.dropPage n p).turns = s.turns := rfl
@[simp] theorem dropPage_fresh (s : State) (n : Nat) (p : BitVec 56) : (s.dropPage n p).fresh = s.fresh := rfl
@[simp] theorem dropPage_nextId (s : State) (n : Nat) (p : BitVec 56) : (s.dropPage n p).nextId = s.nextId := rfl

/-! ### Updates of a hoist -/

@[simp] theorem setS_src (h : Hoist) (n : Nat) (x : Word) : (h.setS n x).src = h.src := rfl
@[simp] theorem setS_role (h : Hoist) (n : Nat) (x : Word) : (h.setS n x).role = h.role := rfl
@[simp] theorem setS_block (h : Hoist) (n : Nat) (x : Word) : (h.setS n x).block = h.block := rfl
@[simp] theorem setS_index (h : Hoist) (n : Nat) (x : Word) : (h.setS n x).index = h.index := rfl
@[simp] theorem setS_width (h : Hoist) (n : Nat) (x : Word) : (h.setS n x).width = h.width := rfl
@[simp] theorem setS_counters (h : Hoist) (n : Nat) (x : Word) : (h.setS n x).counters = h.counters := rfl
@[simp] theorem setS_holds (h : Hoist) (n : Nat) (x : Word) : (h.setS n x).holds = h.holds := rfl
@[simp] theorem setS_busy (h : Hoist) (n : Nat) (x : Word) : (h.setS n x).busy = h.busy := rfl
@[simp] theorem setS_fails (h : Hoist) (n : Nat) (x : Word) : (h.setS n x).fails = h.fails := rfl
@[simp] theorem setS_flaws (h : Hoist) (n : Nat) (x : Word) : (h.setS n x).flaws = h.flaws := rfl
@[simp] theorem setS_ctxsel (h : Hoist) (n : Nat) (x : Word) : (h.setS n x).ctxsel = h.ctxsel := rfl
@[simp] theorem setS_maskHeld (h : Hoist) (n : Nat) (x : Word) : (h.setS n x).maskHeld = h.maskHeld := rfl
@[simp] theorem setS_gate (h : Hoist) (n : Nat) (x : Word) : (h.setS n x).gate = h.gate := rfl
@[simp] theorem setS_posted (h : Hoist) (n : Nat) (x : Word) : (h.setS n x).posted = h.posted := rfl
@[simp] theorem setS_postedHost (h : Hoist) (n : Nat) (x : Word) : (h.setS n x).postedHost = h.postedHost := rfl
@[simp] theorem setS_wbuf (h : Hoist) (n : Nat) (x : Word) : (h.setS n x).wbuf = h.wbuf := rfl
@[simp] theorem setS_snapshot (h : Hoist) (n : Nat) (x : Word) : (h.setS n x).snapshot = h.snapshot := rfl
@[simp] theorem setS_offer (h : Hoist) (n : Nat) (x : Word) : (h.setS n x).offer = h.offer := rfl
@[simp] theorem setS_lateFrom (h : Hoist) (n : Nat) (x : Word) : (h.setS n x).lateFrom = h.lateFrom := rfl
@[simp] theorem setS_forwarded (h : Hoist) (n : Nat) (x : Word) : (h.setS n x).forwarded = h.forwarded := rfl
@[simp] theorem setS_holder (h : Hoist) (n : Nat) (x : Word) : (h.setS n x).holder = h.holder := rfl
@[simp] theorem setS_lines (h : Hoist) (n : Nat) (x : Word) : (h.setS n x).lines = h.lines := rfl
@[simp] theorem setS_rmis (h : Hoist) (n : Nat) (x : Word) : (h.setS n x).rmis = h.rmis := rfl
@[simp] theorem setS_retired (h : Hoist) (n : Nat) (x : Word) : (h.setS n x).retired = h.retired := rfl
@[simp] theorem setS_v (h : Hoist) (n : Nat) (x : Word) : (h.setS n x).regs.v = h.regs.v := rfl
@[simp] theorem setS_p (h : Hoist) (n : Nat) (x : Word) : (h.setS n x).regs.p = h.regs.p := rfl
@[simp] theorem setS_a (h : Hoist) (n : Nat) (x : Word) : (h.setS n x).regs.a = h.regs.a := rfl
@[simp] theorem setS_exec (h : Hoist) (n : Nat) (x : Word) : (h.setS n x).regs.exec = h.regs.exec := rfl
@[simp] theorem setS_dead (h : Hoist) (n : Nat) (x : Word) : (h.setS n x).regs.dead = h.regs.dead := rfl
@[simp] theorem setS_slices (h : Hoist) (n : Nat) (x : Word) : (h.setS n x).regs.slices = h.regs.slices := rfl
@[simp] theorem setS_groups (h : Hoist) (n : Nat) (x : Word) : (h.setS n x).regs.groups = h.regs.groups := rfl
@[simp] theorem setS_fpx (h : Hoist) (n : Nat) (x : Word) : (h.setS n x).regs.fpx = h.regs.fpx := rfl
@[simp] theorem setS_xprog (h : Hoist) (n : Nat) (x : Word) : (h.setS n x).regs.xprog = h.regs.xprog := rfl
@[simp] theorem setS_latch (h : Hoist) (n : Nat) (x : Word) : (h.setS n x).regs.latch = h.regs.latch := rfl
@[simp] theorem setS_ssig (h : Hoist) (n : Nat) (x : Word) : (h.setS n x).regs.ssig = h.regs.ssig := rfl
@[simp] theorem setS_batch (h : Hoist) (n : Nat) (x : Word) : (h.setS n x).regs.batch = h.regs.batch := rfl
@[simp] theorem setS_depth (h : Hoist) (n : Nat) (x : Word) : (h.setS n x).regs.depth = h.regs.depth := rfl
@[simp] theorem setS_region (h : Hoist) (n : Nat) (x : Word) : (h.setS n x).regs.region = h.regs.region := rfl
@[simp] theorem setS_hregion (h : Hoist) (n : Nat) (x : Word) : (h.setS n x).regs.hregion = h.regs.hregion := rfl

@[simp] theorem setP_src (h : Hoist) (n : Nat) (x : Mask) : (h.setP n x).src = h.src := rfl
@[simp] theorem setP_role (h : Hoist) (n : Nat) (x : Mask) : (h.setP n x).role = h.role := rfl
@[simp] theorem setP_block (h : Hoist) (n : Nat) (x : Mask) : (h.setP n x).block = h.block := rfl
@[simp] theorem setP_index (h : Hoist) (n : Nat) (x : Mask) : (h.setP n x).index = h.index := rfl
@[simp] theorem setP_width (h : Hoist) (n : Nat) (x : Mask) : (h.setP n x).width = h.width := rfl
@[simp] theorem setP_counters (h : Hoist) (n : Nat) (x : Mask) : (h.setP n x).counters = h.counters := rfl
@[simp] theorem setP_holds (h : Hoist) (n : Nat) (x : Mask) : (h.setP n x).holds = h.holds := rfl
@[simp] theorem setP_busy (h : Hoist) (n : Nat) (x : Mask) : (h.setP n x).busy = h.busy := rfl
@[simp] theorem setP_fails (h : Hoist) (n : Nat) (x : Mask) : (h.setP n x).fails = h.fails := rfl
@[simp] theorem setP_flaws (h : Hoist) (n : Nat) (x : Mask) : (h.setP n x).flaws = h.flaws := rfl
@[simp] theorem setP_ctxsel (h : Hoist) (n : Nat) (x : Mask) : (h.setP n x).ctxsel = h.ctxsel := rfl
@[simp] theorem setP_maskHeld (h : Hoist) (n : Nat) (x : Mask) : (h.setP n x).maskHeld = h.maskHeld := rfl
@[simp] theorem setP_gate (h : Hoist) (n : Nat) (x : Mask) : (h.setP n x).gate = h.gate := rfl
@[simp] theorem setP_posted (h : Hoist) (n : Nat) (x : Mask) : (h.setP n x).posted = h.posted := rfl
@[simp] theorem setP_postedHost (h : Hoist) (n : Nat) (x : Mask) : (h.setP n x).postedHost = h.postedHost := rfl
@[simp] theorem setP_wbuf (h : Hoist) (n : Nat) (x : Mask) : (h.setP n x).wbuf = h.wbuf := rfl
@[simp] theorem setP_snapshot (h : Hoist) (n : Nat) (x : Mask) : (h.setP n x).snapshot = h.snapshot := rfl
@[simp] theorem setP_offer (h : Hoist) (n : Nat) (x : Mask) : (h.setP n x).offer = h.offer := rfl
@[simp] theorem setP_lateFrom (h : Hoist) (n : Nat) (x : Mask) : (h.setP n x).lateFrom = h.lateFrom := rfl
@[simp] theorem setP_forwarded (h : Hoist) (n : Nat) (x : Mask) : (h.setP n x).forwarded = h.forwarded := rfl
@[simp] theorem setP_holder (h : Hoist) (n : Nat) (x : Mask) : (h.setP n x).holder = h.holder := rfl
@[simp] theorem setP_lines (h : Hoist) (n : Nat) (x : Mask) : (h.setP n x).lines = h.lines := rfl
@[simp] theorem setP_rmis (h : Hoist) (n : Nat) (x : Mask) : (h.setP n x).rmis = h.rmis := rfl
@[simp] theorem setP_retired (h : Hoist) (n : Nat) (x : Mask) : (h.setP n x).retired = h.retired := rfl
@[simp] theorem setP_v (h : Hoist) (n : Nat) (x : Mask) : (h.setP n x).regs.v = h.regs.v := rfl
@[simp] theorem setP_s (h : Hoist) (n : Nat) (x : Mask) : (h.setP n x).regs.s = h.regs.s := rfl
@[simp] theorem setP_a (h : Hoist) (n : Nat) (x : Mask) : (h.setP n x).regs.a = h.regs.a := rfl
@[simp] theorem setP_exec (h : Hoist) (n : Nat) (x : Mask) : (h.setP n x).regs.exec = h.regs.exec := rfl
@[simp] theorem setP_dead (h : Hoist) (n : Nat) (x : Mask) : (h.setP n x).regs.dead = h.regs.dead := rfl
@[simp] theorem setP_slices (h : Hoist) (n : Nat) (x : Mask) : (h.setP n x).regs.slices = h.regs.slices := rfl
@[simp] theorem setP_groups (h : Hoist) (n : Nat) (x : Mask) : (h.setP n x).regs.groups = h.regs.groups := rfl
@[simp] theorem setP_fpx (h : Hoist) (n : Nat) (x : Mask) : (h.setP n x).regs.fpx = h.regs.fpx := rfl
@[simp] theorem setP_xprog (h : Hoist) (n : Nat) (x : Mask) : (h.setP n x).regs.xprog = h.regs.xprog := rfl
@[simp] theorem setP_latch (h : Hoist) (n : Nat) (x : Mask) : (h.setP n x).regs.latch = h.regs.latch := rfl
@[simp] theorem setP_ssig (h : Hoist) (n : Nat) (x : Mask) : (h.setP n x).regs.ssig = h.regs.ssig := rfl
@[simp] theorem setP_batch (h : Hoist) (n : Nat) (x : Mask) : (h.setP n x).regs.batch = h.regs.batch := rfl
@[simp] theorem setP_depth (h : Hoist) (n : Nat) (x : Mask) : (h.setP n x).regs.depth = h.regs.depth := rfl
@[simp] theorem setP_region (h : Hoist) (n : Nat) (x : Mask) : (h.setP n x).regs.region = h.regs.region := rfl
@[simp] theorem setP_hregion (h : Hoist) (n : Nat) (x : Mask) : (h.setP n x).regs.hregion = h.regs.hregion := rfl

@[simp] theorem setA_src (h : Hoist) (n : Nat) (x : AReg) : (h.setA n x).src = h.src := rfl
@[simp] theorem setA_role (h : Hoist) (n : Nat) (x : AReg) : (h.setA n x).role = h.role := rfl
@[simp] theorem setA_block (h : Hoist) (n : Nat) (x : AReg) : (h.setA n x).block = h.block := rfl
@[simp] theorem setA_index (h : Hoist) (n : Nat) (x : AReg) : (h.setA n x).index = h.index := rfl
@[simp] theorem setA_width (h : Hoist) (n : Nat) (x : AReg) : (h.setA n x).width = h.width := rfl
@[simp] theorem setA_counters (h : Hoist) (n : Nat) (x : AReg) : (h.setA n x).counters = h.counters := rfl
@[simp] theorem setA_holds (h : Hoist) (n : Nat) (x : AReg) : (h.setA n x).holds = h.holds := rfl
@[simp] theorem setA_busy (h : Hoist) (n : Nat) (x : AReg) : (h.setA n x).busy = h.busy := rfl
@[simp] theorem setA_fails (h : Hoist) (n : Nat) (x : AReg) : (h.setA n x).fails = h.fails := rfl
@[simp] theorem setA_flaws (h : Hoist) (n : Nat) (x : AReg) : (h.setA n x).flaws = h.flaws := rfl
@[simp] theorem setA_ctxsel (h : Hoist) (n : Nat) (x : AReg) : (h.setA n x).ctxsel = h.ctxsel := rfl
@[simp] theorem setA_maskHeld (h : Hoist) (n : Nat) (x : AReg) : (h.setA n x).maskHeld = h.maskHeld := rfl
@[simp] theorem setA_gate (h : Hoist) (n : Nat) (x : AReg) : (h.setA n x).gate = h.gate := rfl
@[simp] theorem setA_posted (h : Hoist) (n : Nat) (x : AReg) : (h.setA n x).posted = h.posted := rfl
@[simp] theorem setA_postedHost (h : Hoist) (n : Nat) (x : AReg) : (h.setA n x).postedHost = h.postedHost := rfl
@[simp] theorem setA_wbuf (h : Hoist) (n : Nat) (x : AReg) : (h.setA n x).wbuf = h.wbuf := rfl
@[simp] theorem setA_snapshot (h : Hoist) (n : Nat) (x : AReg) : (h.setA n x).snapshot = h.snapshot := rfl
@[simp] theorem setA_offer (h : Hoist) (n : Nat) (x : AReg) : (h.setA n x).offer = h.offer := rfl
@[simp] theorem setA_lateFrom (h : Hoist) (n : Nat) (x : AReg) : (h.setA n x).lateFrom = h.lateFrom := rfl
@[simp] theorem setA_forwarded (h : Hoist) (n : Nat) (x : AReg) : (h.setA n x).forwarded = h.forwarded := rfl
@[simp] theorem setA_holder (h : Hoist) (n : Nat) (x : AReg) : (h.setA n x).holder = h.holder := rfl
@[simp] theorem setA_lines (h : Hoist) (n : Nat) (x : AReg) : (h.setA n x).lines = h.lines := rfl
@[simp] theorem setA_rmis (h : Hoist) (n : Nat) (x : AReg) : (h.setA n x).rmis = h.rmis := rfl
@[simp] theorem setA_retired (h : Hoist) (n : Nat) (x : AReg) : (h.setA n x).retired = h.retired := rfl
@[simp] theorem setA_v (h : Hoist) (n : Nat) (x : AReg) : (h.setA n x).regs.v = h.regs.v := rfl
@[simp] theorem setA_s (h : Hoist) (n : Nat) (x : AReg) : (h.setA n x).regs.s = h.regs.s := rfl
@[simp] theorem setA_p (h : Hoist) (n : Nat) (x : AReg) : (h.setA n x).regs.p = h.regs.p := rfl
@[simp] theorem setA_exec (h : Hoist) (n : Nat) (x : AReg) : (h.setA n x).regs.exec = h.regs.exec := rfl
@[simp] theorem setA_dead (h : Hoist) (n : Nat) (x : AReg) : (h.setA n x).regs.dead = h.regs.dead := rfl
@[simp] theorem setA_slices (h : Hoist) (n : Nat) (x : AReg) : (h.setA n x).regs.slices = h.regs.slices := rfl
@[simp] theorem setA_groups (h : Hoist) (n : Nat) (x : AReg) : (h.setA n x).regs.groups = h.regs.groups := rfl
@[simp] theorem setA_fpx (h : Hoist) (n : Nat) (x : AReg) : (h.setA n x).regs.fpx = h.regs.fpx := rfl
@[simp] theorem setA_xprog (h : Hoist) (n : Nat) (x : AReg) : (h.setA n x).regs.xprog = h.regs.xprog := rfl
@[simp] theorem setA_latch (h : Hoist) (n : Nat) (x : AReg) : (h.setA n x).regs.latch = h.regs.latch := rfl
@[simp] theorem setA_ssig (h : Hoist) (n : Nat) (x : AReg) : (h.setA n x).regs.ssig = h.regs.ssig := rfl
@[simp] theorem setA_batch (h : Hoist) (n : Nat) (x : AReg) : (h.setA n x).regs.batch = h.regs.batch := rfl
@[simp] theorem setA_depth (h : Hoist) (n : Nat) (x : AReg) : (h.setA n x).regs.depth = h.regs.depth := rfl
@[simp] theorem setA_region (h : Hoist) (n : Nat) (x : AReg) : (h.setA n x).regs.region = h.regs.region := rfl
@[simp] theorem setA_hregion (h : Hoist) (n : Nat) (x : AReg) : (h.setA n x).regs.hregion = h.regs.hregion := rfl

@[simp] theorem setV_src (h : Hoist) (n : Nat) (x : VReg) : (h.setV n x).src = h.src := rfl
@[simp] theorem setV_role (h : Hoist) (n : Nat) (x : VReg) : (h.setV n x).role = h.role := rfl
@[simp] theorem setV_block (h : Hoist) (n : Nat) (x : VReg) : (h.setV n x).block = h.block := rfl
@[simp] theorem setV_index (h : Hoist) (n : Nat) (x : VReg) : (h.setV n x).index = h.index := rfl
@[simp] theorem setV_width (h : Hoist) (n : Nat) (x : VReg) : (h.setV n x).width = h.width := rfl
@[simp] theorem setV_counters (h : Hoist) (n : Nat) (x : VReg) : (h.setV n x).counters = h.counters := rfl
@[simp] theorem setV_holds (h : Hoist) (n : Nat) (x : VReg) : (h.setV n x).holds = h.holds := rfl
@[simp] theorem setV_busy (h : Hoist) (n : Nat) (x : VReg) : (h.setV n x).busy = h.busy := rfl
@[simp] theorem setV_fails (h : Hoist) (n : Nat) (x : VReg) : (h.setV n x).fails = h.fails := rfl
@[simp] theorem setV_flaws (h : Hoist) (n : Nat) (x : VReg) : (h.setV n x).flaws = h.flaws := rfl
@[simp] theorem setV_ctxsel (h : Hoist) (n : Nat) (x : VReg) : (h.setV n x).ctxsel = h.ctxsel := rfl
@[simp] theorem setV_maskHeld (h : Hoist) (n : Nat) (x : VReg) : (h.setV n x).maskHeld = h.maskHeld := rfl
@[simp] theorem setV_gate (h : Hoist) (n : Nat) (x : VReg) : (h.setV n x).gate = h.gate := rfl
@[simp] theorem setV_posted (h : Hoist) (n : Nat) (x : VReg) : (h.setV n x).posted = h.posted := rfl
@[simp] theorem setV_postedHost (h : Hoist) (n : Nat) (x : VReg) : (h.setV n x).postedHost = h.postedHost := rfl
@[simp] theorem setV_wbuf (h : Hoist) (n : Nat) (x : VReg) : (h.setV n x).wbuf = h.wbuf := rfl
@[simp] theorem setV_snapshot (h : Hoist) (n : Nat) (x : VReg) : (h.setV n x).snapshot = h.snapshot := rfl
@[simp] theorem setV_offer (h : Hoist) (n : Nat) (x : VReg) : (h.setV n x).offer = h.offer := rfl
@[simp] theorem setV_lateFrom (h : Hoist) (n : Nat) (x : VReg) : (h.setV n x).lateFrom = h.lateFrom := rfl
@[simp] theorem setV_forwarded (h : Hoist) (n : Nat) (x : VReg) : (h.setV n x).forwarded = h.forwarded := rfl
@[simp] theorem setV_holder (h : Hoist) (n : Nat) (x : VReg) : (h.setV n x).holder = h.holder := rfl
@[simp] theorem setV_lines (h : Hoist) (n : Nat) (x : VReg) : (h.setV n x).lines = h.lines := rfl
@[simp] theorem setV_rmis (h : Hoist) (n : Nat) (x : VReg) : (h.setV n x).rmis = h.rmis := rfl
@[simp] theorem setV_retired (h : Hoist) (n : Nat) (x : VReg) : (h.setV n x).retired = h.retired := rfl
@[simp] theorem setV_s (h : Hoist) (n : Nat) (x : VReg) : (h.setV n x).regs.s = h.regs.s := rfl
@[simp] theorem setV_p (h : Hoist) (n : Nat) (x : VReg) : (h.setV n x).regs.p = h.regs.p := rfl
@[simp] theorem setV_a (h : Hoist) (n : Nat) (x : VReg) : (h.setV n x).regs.a = h.regs.a := rfl
@[simp] theorem setV_exec (h : Hoist) (n : Nat) (x : VReg) : (h.setV n x).regs.exec = h.regs.exec := rfl
@[simp] theorem setV_dead (h : Hoist) (n : Nat) (x : VReg) : (h.setV n x).regs.dead = h.regs.dead := rfl
@[simp] theorem setV_slices (h : Hoist) (n : Nat) (x : VReg) : (h.setV n x).regs.slices = h.regs.slices := rfl
@[simp] theorem setV_groups (h : Hoist) (n : Nat) (x : VReg) : (h.setV n x).regs.groups = h.regs.groups := rfl
@[simp] theorem setV_fpx (h : Hoist) (n : Nat) (x : VReg) : (h.setV n x).regs.fpx = h.regs.fpx := rfl
@[simp] theorem setV_xprog (h : Hoist) (n : Nat) (x : VReg) : (h.setV n x).regs.xprog = h.regs.xprog := rfl
@[simp] theorem setV_latch (h : Hoist) (n : Nat) (x : VReg) : (h.setV n x).regs.latch = h.regs.latch := rfl
@[simp] theorem setV_ssig (h : Hoist) (n : Nat) (x : VReg) : (h.setV n x).regs.ssig = h.regs.ssig := rfl
@[simp] theorem setV_batch (h : Hoist) (n : Nat) (x : VReg) : (h.setV n x).regs.batch = h.regs.batch := rfl
@[simp] theorem setV_depth (h : Hoist) (n : Nat) (x : VReg) : (h.setV n x).regs.depth = h.regs.depth := rfl
@[simp] theorem setV_region (h : Hoist) (n : Nat) (x : VReg) : (h.setV n x).regs.region = h.regs.region := rfl
@[simp] theorem setV_hregion (h : Hoist) (n : Nat) (x : VReg) : (h.setV n x).regs.hregion = h.regs.hregion := rfl

@[simp] theorem setExec_src (h : Hoist) (x : Mask) : (h.setExec x).src = h.src := rfl
@[simp] theorem setExec_role (h : Hoist) (x : Mask) : (h.setExec x).role = h.role := rfl
@[simp] theorem setExec_block (h : Hoist) (x : Mask) : (h.setExec x).block = h.block := rfl
@[simp] theorem setExec_index (h : Hoist) (x : Mask) : (h.setExec x).index = h.index := rfl
@[simp] theorem setExec_width (h : Hoist) (x : Mask) : (h.setExec x).width = h.width := rfl
@[simp] theorem setExec_counters (h : Hoist) (x : Mask) : (h.setExec x).counters = h.counters := rfl
@[simp] theorem setExec_holds (h : Hoist) (x : Mask) : (h.setExec x).holds = h.holds := rfl
@[simp] theorem setExec_busy (h : Hoist) (x : Mask) : (h.setExec x).busy = h.busy := rfl
@[simp] theorem setExec_fails (h : Hoist) (x : Mask) : (h.setExec x).fails = h.fails := rfl
@[simp] theorem setExec_flaws (h : Hoist) (x : Mask) : (h.setExec x).flaws = h.flaws := rfl
@[simp] theorem setExec_ctxsel (h : Hoist) (x : Mask) : (h.setExec x).ctxsel = h.ctxsel := rfl
@[simp] theorem setExec_maskHeld (h : Hoist) (x : Mask) : (h.setExec x).maskHeld = h.maskHeld := rfl
@[simp] theorem setExec_gate (h : Hoist) (x : Mask) : (h.setExec x).gate = h.gate := rfl
@[simp] theorem setExec_posted (h : Hoist) (x : Mask) : (h.setExec x).posted = h.posted := rfl
@[simp] theorem setExec_postedHost (h : Hoist) (x : Mask) : (h.setExec x).postedHost = h.postedHost := rfl
@[simp] theorem setExec_wbuf (h : Hoist) (x : Mask) : (h.setExec x).wbuf = h.wbuf := rfl
@[simp] theorem setExec_snapshot (h : Hoist) (x : Mask) : (h.setExec x).snapshot = h.snapshot := rfl
@[simp] theorem setExec_offer (h : Hoist) (x : Mask) : (h.setExec x).offer = h.offer := rfl
@[simp] theorem setExec_lateFrom (h : Hoist) (x : Mask) : (h.setExec x).lateFrom = h.lateFrom := rfl
@[simp] theorem setExec_forwarded (h : Hoist) (x : Mask) : (h.setExec x).forwarded = h.forwarded := rfl
@[simp] theorem setExec_holder (h : Hoist) (x : Mask) : (h.setExec x).holder = h.holder := rfl
@[simp] theorem setExec_lines (h : Hoist) (x : Mask) : (h.setExec x).lines = h.lines := rfl
@[simp] theorem setExec_rmis (h : Hoist) (x : Mask) : (h.setExec x).rmis = h.rmis := rfl
@[simp] theorem setExec_retired (h : Hoist) (x : Mask) : (h.setExec x).retired = h.retired := rfl
@[simp] theorem setExec_v (h : Hoist) (x : Mask) : (h.setExec x).regs.v = h.regs.v := rfl
@[simp] theorem setExec_s (h : Hoist) (x : Mask) : (h.setExec x).regs.s = h.regs.s := rfl
@[simp] theorem setExec_p (h : Hoist) (x : Mask) : (h.setExec x).regs.p = h.regs.p := rfl
@[simp] theorem setExec_a (h : Hoist) (x : Mask) : (h.setExec x).regs.a = h.regs.a := rfl
@[simp] theorem setExec_dead (h : Hoist) (x : Mask) : (h.setExec x).regs.dead = h.regs.dead := rfl
@[simp] theorem setExec_slices (h : Hoist) (x : Mask) : (h.setExec x).regs.slices = h.regs.slices := rfl
@[simp] theorem setExec_groups (h : Hoist) (x : Mask) : (h.setExec x).regs.groups = h.regs.groups := rfl
@[simp] theorem setExec_fpx (h : Hoist) (x : Mask) : (h.setExec x).regs.fpx = h.regs.fpx := rfl
@[simp] theorem setExec_xprog (h : Hoist) (x : Mask) : (h.setExec x).regs.xprog = h.regs.xprog := rfl
@[simp] theorem setExec_latch (h : Hoist) (x : Mask) : (h.setExec x).regs.latch = h.regs.latch := rfl
@[simp] theorem setExec_ssig (h : Hoist) (x : Mask) : (h.setExec x).regs.ssig = h.regs.ssig := rfl
@[simp] theorem setExec_batch (h : Hoist) (x : Mask) : (h.setExec x).regs.batch = h.regs.batch := rfl
@[simp] theorem setExec_depth (h : Hoist) (x : Mask) : (h.setExec x).regs.depth = h.regs.depth := rfl
@[simp] theorem setExec_region (h : Hoist) (x : Mask) : (h.setExec x).regs.region = h.regs.region := rfl
@[simp] theorem setExec_hregion (h : Hoist) (x : Mask) : (h.setExec x).regs.hregion = h.regs.hregion := rfl

@[simp] theorem raise_src (h : Hoist) (x : Flags) : (h.raise x).src = h.src := rfl
@[simp] theorem raise_role (h : Hoist) (x : Flags) : (h.raise x).role = h.role := rfl
@[simp] theorem raise_block (h : Hoist) (x : Flags) : (h.raise x).block = h.block := rfl
@[simp] theorem raise_index (h : Hoist) (x : Flags) : (h.raise x).index = h.index := rfl
@[simp] theorem raise_width (h : Hoist) (x : Flags) : (h.raise x).width = h.width := rfl
@[simp] theorem raise_counters (h : Hoist) (x : Flags) : (h.raise x).counters = h.counters := rfl
@[simp] theorem raise_holds (h : Hoist) (x : Flags) : (h.raise x).holds = h.holds := rfl
@[simp] theorem raise_busy (h : Hoist) (x : Flags) : (h.raise x).busy = h.busy := rfl
@[simp] theorem raise_fails (h : Hoist) (x : Flags) : (h.raise x).fails = h.fails := rfl
@[simp] theorem raise_flaws (h : Hoist) (x : Flags) : (h.raise x).flaws = h.flaws := rfl
@[simp] theorem raise_ctxsel (h : Hoist) (x : Flags) : (h.raise x).ctxsel = h.ctxsel := rfl
@[simp] theorem raise_maskHeld (h : Hoist) (x : Flags) : (h.raise x).maskHeld = h.maskHeld := rfl
@[simp] theorem raise_gate (h : Hoist) (x : Flags) : (h.raise x).gate = h.gate := rfl
@[simp] theorem raise_posted (h : Hoist) (x : Flags) : (h.raise x).posted = h.posted := rfl
@[simp] theorem raise_postedHost (h : Hoist) (x : Flags) : (h.raise x).postedHost = h.postedHost := rfl
@[simp] theorem raise_wbuf (h : Hoist) (x : Flags) : (h.raise x).wbuf = h.wbuf := rfl
@[simp] theorem raise_snapshot (h : Hoist) (x : Flags) : (h.raise x).snapshot = h.snapshot := rfl
@[simp] theorem raise_offer (h : Hoist) (x : Flags) : (h.raise x).offer = h.offer := rfl
@[simp] theorem raise_lateFrom (h : Hoist) (x : Flags) : (h.raise x).lateFrom = h.lateFrom := rfl
@[simp] theorem raise_forwarded (h : Hoist) (x : Flags) : (h.raise x).forwarded = h.forwarded := rfl
@[simp] theorem raise_holder (h : Hoist) (x : Flags) : (h.raise x).holder = h.holder := rfl
@[simp] theorem raise_lines (h : Hoist) (x : Flags) : (h.raise x).lines = h.lines := rfl
@[simp] theorem raise_rmis (h : Hoist) (x : Flags) : (h.raise x).rmis = h.rmis := rfl
@[simp] theorem raise_retired (h : Hoist) (x : Flags) : (h.raise x).retired = h.retired := rfl
@[simp] theorem raise_v (h : Hoist) (x : Flags) : (h.raise x).regs.v = h.regs.v := rfl
@[simp] theorem raise_s (h : Hoist) (x : Flags) : (h.raise x).regs.s = h.regs.s := rfl
@[simp] theorem raise_p (h : Hoist) (x : Flags) : (h.raise x).regs.p = h.regs.p := rfl
@[simp] theorem raise_a (h : Hoist) (x : Flags) : (h.raise x).regs.a = h.regs.a := rfl
@[simp] theorem raise_exec (h : Hoist) (x : Flags) : (h.raise x).regs.exec = h.regs.exec := rfl
@[simp] theorem raise_dead (h : Hoist) (x : Flags) : (h.raise x).regs.dead = h.regs.dead := rfl
@[simp] theorem raise_slices (h : Hoist) (x : Flags) : (h.raise x).regs.slices = h.regs.slices := rfl
@[simp] theorem raise_groups (h : Hoist) (x : Flags) : (h.raise x).regs.groups = h.regs.groups := rfl
@[simp] theorem raise_xprog (h : Hoist) (x : Flags) : (h.raise x).regs.xprog = h.regs.xprog := rfl
@[simp] theorem raise_latch (h : Hoist) (x : Flags) : (h.raise x).regs.latch = h.regs.latch := rfl
@[simp] theorem raise_ssig (h : Hoist) (x : Flags) : (h.raise x).regs.ssig = h.regs.ssig := rfl
@[simp] theorem raise_batch (h : Hoist) (x : Flags) : (h.raise x).regs.batch = h.regs.batch := rfl
@[simp] theorem raise_depth (h : Hoist) (x : Flags) : (h.raise x).regs.depth = h.regs.depth := rfl
@[simp] theorem raise_region (h : Hoist) (x : Flags) : (h.raise x).regs.region = h.regs.region := rfl
@[simp] theorem raise_hregion (h : Hoist) (x : Flags) : (h.raise x).regs.hregion = h.regs.hregion := rfl

@[simp] theorem updGroup_src (h : Hoist) (n : Nat) (f : Group → Group) : (h.updGroup n f).src = h.src := rfl
@[simp] theorem updGroup_role (h : Hoist) (n : Nat) (f : Group → Group) : (h.updGroup n f).role = h.role := rfl
@[simp] theorem updGroup_block (h : Hoist) (n : Nat) (f : Group → Group) : (h.updGroup n f).block = h.block := rfl
@[simp] theorem updGroup_index (h : Hoist) (n : Nat) (f : Group → Group) : (h.updGroup n f).index = h.index := rfl
@[simp] theorem updGroup_width (h : Hoist) (n : Nat) (f : Group → Group) : (h.updGroup n f).width = h.width := rfl
@[simp] theorem updGroup_counters (h : Hoist) (n : Nat) (f : Group → Group) : (h.updGroup n f).counters = h.counters := rfl
@[simp] theorem updGroup_holds (h : Hoist) (n : Nat) (f : Group → Group) : (h.updGroup n f).holds = h.holds := rfl
@[simp] theorem updGroup_busy (h : Hoist) (n : Nat) (f : Group → Group) : (h.updGroup n f).busy = h.busy := rfl
@[simp] theorem updGroup_fails (h : Hoist) (n : Nat) (f : Group → Group) : (h.updGroup n f).fails = h.fails := rfl
@[simp] theorem updGroup_flaws (h : Hoist) (n : Nat) (f : Group → Group) : (h.updGroup n f).flaws = h.flaws := rfl
@[simp] theorem updGroup_ctxsel (h : Hoist) (n : Nat) (f : Group → Group) : (h.updGroup n f).ctxsel = h.ctxsel := rfl
@[simp] theorem updGroup_maskHeld (h : Hoist) (n : Nat) (f : Group → Group) : (h.updGroup n f).maskHeld = h.maskHeld := rfl
@[simp] theorem updGroup_gate (h : Hoist) (n : Nat) (f : Group → Group) : (h.updGroup n f).gate = h.gate := rfl
@[simp] theorem updGroup_posted (h : Hoist) (n : Nat) (f : Group → Group) : (h.updGroup n f).posted = h.posted := rfl
@[simp] theorem updGroup_postedHost (h : Hoist) (n : Nat) (f : Group → Group) : (h.updGroup n f).postedHost = h.postedHost := rfl
@[simp] theorem updGroup_wbuf (h : Hoist) (n : Nat) (f : Group → Group) : (h.updGroup n f).wbuf = h.wbuf := rfl
@[simp] theorem updGroup_snapshot (h : Hoist) (n : Nat) (f : Group → Group) : (h.updGroup n f).snapshot = h.snapshot := rfl
@[simp] theorem updGroup_offer (h : Hoist) (n : Nat) (f : Group → Group) : (h.updGroup n f).offer = h.offer := rfl
@[simp] theorem updGroup_lateFrom (h : Hoist) (n : Nat) (f : Group → Group) : (h.updGroup n f).lateFrom = h.lateFrom := rfl
@[simp] theorem updGroup_forwarded (h : Hoist) (n : Nat) (f : Group → Group) : (h.updGroup n f).forwarded = h.forwarded := rfl
@[simp] theorem updGroup_holder (h : Hoist) (n : Nat) (f : Group → Group) : (h.updGroup n f).holder = h.holder := rfl
@[simp] theorem updGroup_lines (h : Hoist) (n : Nat) (f : Group → Group) : (h.updGroup n f).lines = h.lines := rfl
@[simp] theorem updGroup_rmis (h : Hoist) (n : Nat) (f : Group → Group) : (h.updGroup n f).rmis = h.rmis := rfl
@[simp] theorem updGroup_retired (h : Hoist) (n : Nat) (f : Group → Group) : (h.updGroup n f).retired = h.retired := rfl
@[simp] theorem updGroup_v (h : Hoist) (n : Nat) (f : Group → Group) : (h.updGroup n f).regs.v = h.regs.v := rfl
@[simp] theorem updGroup_s (h : Hoist) (n : Nat) (f : Group → Group) : (h.updGroup n f).regs.s = h.regs.s := rfl
@[simp] theorem updGroup_p (h : Hoist) (n : Nat) (f : Group → Group) : (h.updGroup n f).regs.p = h.regs.p := rfl
@[simp] theorem updGroup_a (h : Hoist) (n : Nat) (f : Group → Group) : (h.updGroup n f).regs.a = h.regs.a := rfl
@[simp] theorem updGroup_exec (h : Hoist) (n : Nat) (f : Group → Group) : (h.updGroup n f).regs.exec = h.regs.exec := rfl
@[simp] theorem updGroup_dead (h : Hoist) (n : Nat) (f : Group → Group) : (h.updGroup n f).regs.dead = h.regs.dead := rfl
@[simp] theorem updGroup_slices (h : Hoist) (n : Nat) (f : Group → Group) : (h.updGroup n f).regs.slices = h.regs.slices := rfl
@[simp] theorem updGroup_fpx (h : Hoist) (n : Nat) (f : Group → Group) : (h.updGroup n f).regs.fpx = h.regs.fpx := rfl
@[simp] theorem updGroup_xprog (h : Hoist) (n : Nat) (f : Group → Group) : (h.updGroup n f).regs.xprog = h.regs.xprog := rfl
@[simp] theorem updGroup_latch (h : Hoist) (n : Nat) (f : Group → Group) : (h.updGroup n f).regs.latch = h.regs.latch := rfl
@[simp] theorem updGroup_ssig (h : Hoist) (n : Nat) (f : Group → Group) : (h.updGroup n f).regs.ssig = h.regs.ssig := rfl
@[simp] theorem updGroup_batch (h : Hoist) (n : Nat) (f : Group → Group) : (h.updGroup n f).regs.batch = h.regs.batch := rfl
@[simp] theorem updGroup_depth (h : Hoist) (n : Nat) (f : Group → Group) : (h.updGroup n f).regs.depth = h.regs.depth := rfl
@[simp] theorem updGroup_region (h : Hoist) (n : Nat) (f : Group → Group) : (h.updGroup n f).regs.region = h.regs.region := rfl
@[simp] theorem updGroup_hregion (h : Hoist) (n : Nat) (f : Group → Group) : (h.updGroup n f).regs.hregion = h.regs.hregion := rfl

@[simp] theorem updSlices_src (h : Hoist) (n : Nat) (f : Slice → Slice) : (h.updSlices n f).src = h.src := rfl
@[simp] theorem updSlices_role (h : Hoist) (n : Nat) (f : Slice → Slice) : (h.updSlices n f).role = h.role := rfl
@[simp] theorem updSlices_block (h : Hoist) (n : Nat) (f : Slice → Slice) : (h.updSlices n f).block = h.block := rfl
@[simp] theorem updSlices_index (h : Hoist) (n : Nat) (f : Slice → Slice) : (h.updSlices n f).index = h.index := rfl
@[simp] theorem updSlices_width (h : Hoist) (n : Nat) (f : Slice → Slice) : (h.updSlices n f).width = h.width := rfl
@[simp] theorem updSlices_counters (h : Hoist) (n : Nat) (f : Slice → Slice) : (h.updSlices n f).counters = h.counters := rfl
@[simp] theorem updSlices_holds (h : Hoist) (n : Nat) (f : Slice → Slice) : (h.updSlices n f).holds = h.holds := rfl
@[simp] theorem updSlices_busy (h : Hoist) (n : Nat) (f : Slice → Slice) : (h.updSlices n f).busy = h.busy := rfl
@[simp] theorem updSlices_fails (h : Hoist) (n : Nat) (f : Slice → Slice) : (h.updSlices n f).fails = h.fails := rfl
@[simp] theorem updSlices_flaws (h : Hoist) (n : Nat) (f : Slice → Slice) : (h.updSlices n f).flaws = h.flaws := rfl
@[simp] theorem updSlices_ctxsel (h : Hoist) (n : Nat) (f : Slice → Slice) : (h.updSlices n f).ctxsel = h.ctxsel := rfl
@[simp] theorem updSlices_maskHeld (h : Hoist) (n : Nat) (f : Slice → Slice) : (h.updSlices n f).maskHeld = h.maskHeld := rfl
@[simp] theorem updSlices_gate (h : Hoist) (n : Nat) (f : Slice → Slice) : (h.updSlices n f).gate = h.gate := rfl
@[simp] theorem updSlices_posted (h : Hoist) (n : Nat) (f : Slice → Slice) : (h.updSlices n f).posted = h.posted := rfl
@[simp] theorem updSlices_postedHost (h : Hoist) (n : Nat) (f : Slice → Slice) : (h.updSlices n f).postedHost = h.postedHost := rfl
@[simp] theorem updSlices_wbuf (h : Hoist) (n : Nat) (f : Slice → Slice) : (h.updSlices n f).wbuf = h.wbuf := rfl
@[simp] theorem updSlices_snapshot (h : Hoist) (n : Nat) (f : Slice → Slice) : (h.updSlices n f).snapshot = h.snapshot := rfl
@[simp] theorem updSlices_offer (h : Hoist) (n : Nat) (f : Slice → Slice) : (h.updSlices n f).offer = h.offer := rfl
@[simp] theorem updSlices_lateFrom (h : Hoist) (n : Nat) (f : Slice → Slice) : (h.updSlices n f).lateFrom = h.lateFrom := rfl
@[simp] theorem updSlices_forwarded (h : Hoist) (n : Nat) (f : Slice → Slice) : (h.updSlices n f).forwarded = h.forwarded := rfl
@[simp] theorem updSlices_holder (h : Hoist) (n : Nat) (f : Slice → Slice) : (h.updSlices n f).holder = h.holder := rfl
@[simp] theorem updSlices_lines (h : Hoist) (n : Nat) (f : Slice → Slice) : (h.updSlices n f).lines = h.lines := rfl
@[simp] theorem updSlices_rmis (h : Hoist) (n : Nat) (f : Slice → Slice) : (h.updSlices n f).rmis = h.rmis := rfl
@[simp] theorem updSlices_retired (h : Hoist) (n : Nat) (f : Slice → Slice) : (h.updSlices n f).retired = h.retired := rfl
@[simp] theorem updSlices_v (h : Hoist) (n : Nat) (f : Slice → Slice) : (h.updSlices n f).regs.v = h.regs.v := rfl
@[simp] theorem updSlices_s (h : Hoist) (n : Nat) (f : Slice → Slice) : (h.updSlices n f).regs.s = h.regs.s := rfl
@[simp] theorem updSlices_p (h : Hoist) (n : Nat) (f : Slice → Slice) : (h.updSlices n f).regs.p = h.regs.p := rfl
@[simp] theorem updSlices_a (h : Hoist) (n : Nat) (f : Slice → Slice) : (h.updSlices n f).regs.a = h.regs.a := rfl
@[simp] theorem updSlices_exec (h : Hoist) (n : Nat) (f : Slice → Slice) : (h.updSlices n f).regs.exec = h.regs.exec := rfl
@[simp] theorem updSlices_dead (h : Hoist) (n : Nat) (f : Slice → Slice) : (h.updSlices n f).regs.dead = h.regs.dead := rfl
@[simp] theorem updSlices_groups (h : Hoist) (n : Nat) (f : Slice → Slice) : (h.updSlices n f).regs.groups = h.regs.groups := rfl
@[simp] theorem updSlices_fpx (h : Hoist) (n : Nat) (f : Slice → Slice) : (h.updSlices n f).regs.fpx = h.regs.fpx := rfl
@[simp] theorem updSlices_xprog (h : Hoist) (n : Nat) (f : Slice → Slice) : (h.updSlices n f).regs.xprog = h.regs.xprog := rfl
@[simp] theorem updSlices_latch (h : Hoist) (n : Nat) (f : Slice → Slice) : (h.updSlices n f).regs.latch = h.regs.latch := rfl
@[simp] theorem updSlices_ssig (h : Hoist) (n : Nat) (f : Slice → Slice) : (h.updSlices n f).regs.ssig = h.regs.ssig := rfl
@[simp] theorem updSlices_batch (h : Hoist) (n : Nat) (f : Slice → Slice) : (h.updSlices n f).regs.batch = h.regs.batch := rfl
@[simp] theorem updSlices_depth (h : Hoist) (n : Nat) (f : Slice → Slice) : (h.updSlices n f).regs.depth = h.regs.depth := rfl
@[simp] theorem updSlices_region (h : Hoist) (n : Nat) (f : Slice → Slice) : (h.updSlices n f).regs.region = h.regs.region := rfl
@[simp] theorem updSlices_hregion (h : Hoist) (n : Nat) (f : Slice → Slice) : (h.updSlices n f).regs.hregion = h.regs.hregion := rfl

@[simp] theorem updSliceList_src (h : Hoist) (ns : List Nat) (f : Nat → Slice → Slice) : (h.updSliceList ns f).src = h.src := rfl
@[simp] theorem updSliceList_role (h : Hoist) (ns : List Nat) (f : Nat → Slice → Slice) : (h.updSliceList ns f).role = h.role := rfl
@[simp] theorem updSliceList_block (h : Hoist) (ns : List Nat) (f : Nat → Slice → Slice) : (h.updSliceList ns f).block = h.block := rfl
@[simp] theorem updSliceList_index (h : Hoist) (ns : List Nat) (f : Nat → Slice → Slice) : (h.updSliceList ns f).index = h.index := rfl
@[simp] theorem updSliceList_width (h : Hoist) (ns : List Nat) (f : Nat → Slice → Slice) : (h.updSliceList ns f).width = h.width := rfl
@[simp] theorem updSliceList_counters (h : Hoist) (ns : List Nat) (f : Nat → Slice → Slice) : (h.updSliceList ns f).counters = h.counters := rfl
@[simp] theorem updSliceList_holds (h : Hoist) (ns : List Nat) (f : Nat → Slice → Slice) : (h.updSliceList ns f).holds = h.holds := rfl
@[simp] theorem updSliceList_busy (h : Hoist) (ns : List Nat) (f : Nat → Slice → Slice) : (h.updSliceList ns f).busy = h.busy := rfl
@[simp] theorem updSliceList_fails (h : Hoist) (ns : List Nat) (f : Nat → Slice → Slice) : (h.updSliceList ns f).fails = h.fails := rfl
@[simp] theorem updSliceList_flaws (h : Hoist) (ns : List Nat) (f : Nat → Slice → Slice) : (h.updSliceList ns f).flaws = h.flaws := rfl
@[simp] theorem updSliceList_ctxsel (h : Hoist) (ns : List Nat) (f : Nat → Slice → Slice) : (h.updSliceList ns f).ctxsel = h.ctxsel := rfl
@[simp] theorem updSliceList_maskHeld (h : Hoist) (ns : List Nat) (f : Nat → Slice → Slice) : (h.updSliceList ns f).maskHeld = h.maskHeld := rfl
@[simp] theorem updSliceList_gate (h : Hoist) (ns : List Nat) (f : Nat → Slice → Slice) : (h.updSliceList ns f).gate = h.gate := rfl
@[simp] theorem updSliceList_posted (h : Hoist) (ns : List Nat) (f : Nat → Slice → Slice) : (h.updSliceList ns f).posted = h.posted := rfl
@[simp] theorem updSliceList_postedHost (h : Hoist) (ns : List Nat) (f : Nat → Slice → Slice) : (h.updSliceList ns f).postedHost = h.postedHost := rfl
@[simp] theorem updSliceList_wbuf (h : Hoist) (ns : List Nat) (f : Nat → Slice → Slice) : (h.updSliceList ns f).wbuf = h.wbuf := rfl
@[simp] theorem updSliceList_snapshot (h : Hoist) (ns : List Nat) (f : Nat → Slice → Slice) : (h.updSliceList ns f).snapshot = h.snapshot := rfl
@[simp] theorem updSliceList_offer (h : Hoist) (ns : List Nat) (f : Nat → Slice → Slice) : (h.updSliceList ns f).offer = h.offer := rfl
@[simp] theorem updSliceList_lateFrom (h : Hoist) (ns : List Nat) (f : Nat → Slice → Slice) : (h.updSliceList ns f).lateFrom = h.lateFrom := rfl
@[simp] theorem updSliceList_forwarded (h : Hoist) (ns : List Nat) (f : Nat → Slice → Slice) : (h.updSliceList ns f).forwarded = h.forwarded := rfl
@[simp] theorem updSliceList_holder (h : Hoist) (ns : List Nat) (f : Nat → Slice → Slice) : (h.updSliceList ns f).holder = h.holder := rfl
@[simp] theorem updSliceList_lines (h : Hoist) (ns : List Nat) (f : Nat → Slice → Slice) : (h.updSliceList ns f).lines = h.lines := rfl
@[simp] theorem updSliceList_rmis (h : Hoist) (ns : List Nat) (f : Nat → Slice → Slice) : (h.updSliceList ns f).rmis = h.rmis := rfl
@[simp] theorem updSliceList_retired (h : Hoist) (ns : List Nat) (f : Nat → Slice → Slice) : (h.updSliceList ns f).retired = h.retired := rfl
@[simp] theorem updSliceList_v (h : Hoist) (ns : List Nat) (f : Nat → Slice → Slice) : (h.updSliceList ns f).regs.v = h.regs.v := rfl
@[simp] theorem updSliceList_s (h : Hoist) (ns : List Nat) (f : Nat → Slice → Slice) : (h.updSliceList ns f).regs.s = h.regs.s := rfl
@[simp] theorem updSliceList_p (h : Hoist) (ns : List Nat) (f : Nat → Slice → Slice) : (h.updSliceList ns f).regs.p = h.regs.p := rfl
@[simp] theorem updSliceList_a (h : Hoist) (ns : List Nat) (f : Nat → Slice → Slice) : (h.updSliceList ns f).regs.a = h.regs.a := rfl
@[simp] theorem updSliceList_exec (h : Hoist) (ns : List Nat) (f : Nat → Slice → Slice) : (h.updSliceList ns f).regs.exec = h.regs.exec := rfl
@[simp] theorem updSliceList_dead (h : Hoist) (ns : List Nat) (f : Nat → Slice → Slice) : (h.updSliceList ns f).regs.dead = h.regs.dead := rfl
@[simp] theorem updSliceList_groups (h : Hoist) (ns : List Nat) (f : Nat → Slice → Slice) : (h.updSliceList ns f).regs.groups = h.regs.groups := rfl
@[simp] theorem updSliceList_fpx (h : Hoist) (ns : List Nat) (f : Nat → Slice → Slice) : (h.updSliceList ns f).regs.fpx = h.regs.fpx := rfl
@[simp] theorem updSliceList_xprog (h : Hoist) (ns : List Nat) (f : Nat → Slice → Slice) : (h.updSliceList ns f).regs.xprog = h.regs.xprog := rfl
@[simp] theorem updSliceList_latch (h : Hoist) (ns : List Nat) (f : Nat → Slice → Slice) : (h.updSliceList ns f).regs.latch = h.regs.latch := rfl
@[simp] theorem updSliceList_ssig (h : Hoist) (ns : List Nat) (f : Nat → Slice → Slice) : (h.updSliceList ns f).regs.ssig = h.regs.ssig := rfl
@[simp] theorem updSliceList_batch (h : Hoist) (ns : List Nat) (f : Nat → Slice → Slice) : (h.updSliceList ns f).regs.batch = h.regs.batch := rfl
@[simp] theorem updSliceList_depth (h : Hoist) (ns : List Nat) (f : Nat → Slice → Slice) : (h.updSliceList ns f).regs.depth = h.regs.depth := rfl
@[simp] theorem updSliceList_region (h : Hoist) (ns : List Nat) (f : Nat → Slice → Slice) : (h.updSliceList ns f).regs.region = h.regs.region := rfl
@[simp] theorem updSliceList_hregion (h : Hoist) (ns : List Nat) (f : Nat → Slice → Slice) : (h.updSliceList ns f).regs.hregion = h.regs.hregion := rfl

@[simp] theorem putP_src (h : Hoist) (n : Nat) (f g : Nat → Bool) : (h.putP n f g).src = h.src := rfl
@[simp] theorem putP_role (h : Hoist) (n : Nat) (f g : Nat → Bool) : (h.putP n f g).role = h.role := rfl
@[simp] theorem putP_block (h : Hoist) (n : Nat) (f g : Nat → Bool) : (h.putP n f g).block = h.block := rfl
@[simp] theorem putP_index (h : Hoist) (n : Nat) (f g : Nat → Bool) : (h.putP n f g).index = h.index := rfl
@[simp] theorem putP_width (h : Hoist) (n : Nat) (f g : Nat → Bool) : (h.putP n f g).width = h.width := rfl
@[simp] theorem putP_counters (h : Hoist) (n : Nat) (f g : Nat → Bool) : (h.putP n f g).counters = h.counters := rfl
@[simp] theorem putP_holds (h : Hoist) (n : Nat) (f g : Nat → Bool) : (h.putP n f g).holds = h.holds := rfl
@[simp] theorem putP_busy (h : Hoist) (n : Nat) (f g : Nat → Bool) : (h.putP n f g).busy = h.busy := rfl
@[simp] theorem putP_fails (h : Hoist) (n : Nat) (f g : Nat → Bool) : (h.putP n f g).fails = h.fails := rfl
@[simp] theorem putP_flaws (h : Hoist) (n : Nat) (f g : Nat → Bool) : (h.putP n f g).flaws = h.flaws := rfl
@[simp] theorem putP_ctxsel (h : Hoist) (n : Nat) (f g : Nat → Bool) : (h.putP n f g).ctxsel = h.ctxsel := rfl
@[simp] theorem putP_maskHeld (h : Hoist) (n : Nat) (f g : Nat → Bool) : (h.putP n f g).maskHeld = h.maskHeld := rfl
@[simp] theorem putP_gate (h : Hoist) (n : Nat) (f g : Nat → Bool) : (h.putP n f g).gate = h.gate := rfl
@[simp] theorem putP_posted (h : Hoist) (n : Nat) (f g : Nat → Bool) : (h.putP n f g).posted = h.posted := rfl
@[simp] theorem putP_postedHost (h : Hoist) (n : Nat) (f g : Nat → Bool) : (h.putP n f g).postedHost = h.postedHost := rfl
@[simp] theorem putP_wbuf (h : Hoist) (n : Nat) (f g : Nat → Bool) : (h.putP n f g).wbuf = h.wbuf := rfl
@[simp] theorem putP_snapshot (h : Hoist) (n : Nat) (f g : Nat → Bool) : (h.putP n f g).snapshot = h.snapshot := rfl
@[simp] theorem putP_offer (h : Hoist) (n : Nat) (f g : Nat → Bool) : (h.putP n f g).offer = h.offer := rfl
@[simp] theorem putP_lateFrom (h : Hoist) (n : Nat) (f g : Nat → Bool) : (h.putP n f g).lateFrom = h.lateFrom := rfl
@[simp] theorem putP_forwarded (h : Hoist) (n : Nat) (f g : Nat → Bool) : (h.putP n f g).forwarded = h.forwarded := rfl
@[simp] theorem putP_holder (h : Hoist) (n : Nat) (f g : Nat → Bool) : (h.putP n f g).holder = h.holder := rfl
@[simp] theorem putP_lines (h : Hoist) (n : Nat) (f g : Nat → Bool) : (h.putP n f g).lines = h.lines := rfl
@[simp] theorem putP_rmis (h : Hoist) (n : Nat) (f g : Nat → Bool) : (h.putP n f g).rmis = h.rmis := rfl
@[simp] theorem putP_retired (h : Hoist) (n : Nat) (f g : Nat → Bool) : (h.putP n f g).retired = h.retired := rfl
@[simp] theorem putP_v (h : Hoist) (n : Nat) (f g : Nat → Bool) : (h.putP n f g).regs.v = h.regs.v := rfl
@[simp] theorem putP_s (h : Hoist) (n : Nat) (f g : Nat → Bool) : (h.putP n f g).regs.s = h.regs.s := rfl
@[simp] theorem putP_a (h : Hoist) (n : Nat) (f g : Nat → Bool) : (h.putP n f g).regs.a = h.regs.a := rfl
@[simp] theorem putP_exec (h : Hoist) (n : Nat) (f g : Nat → Bool) : (h.putP n f g).regs.exec = h.regs.exec := rfl
@[simp] theorem putP_dead (h : Hoist) (n : Nat) (f g : Nat → Bool) : (h.putP n f g).regs.dead = h.regs.dead := rfl
@[simp] theorem putP_slices (h : Hoist) (n : Nat) (f g : Nat → Bool) : (h.putP n f g).regs.slices = h.regs.slices := rfl
@[simp] theorem putP_groups (h : Hoist) (n : Nat) (f g : Nat → Bool) : (h.putP n f g).regs.groups = h.regs.groups := rfl
@[simp] theorem putP_fpx (h : Hoist) (n : Nat) (f g : Nat → Bool) : (h.putP n f g).regs.fpx = h.regs.fpx := rfl
@[simp] theorem putP_xprog (h : Hoist) (n : Nat) (f g : Nat → Bool) : (h.putP n f g).regs.xprog = h.regs.xprog := rfl
@[simp] theorem putP_latch (h : Hoist) (n : Nat) (f g : Nat → Bool) : (h.putP n f g).regs.latch = h.regs.latch := rfl
@[simp] theorem putP_ssig (h : Hoist) (n : Nat) (f g : Nat → Bool) : (h.putP n f g).regs.ssig = h.regs.ssig := rfl
@[simp] theorem putP_batch (h : Hoist) (n : Nat) (f g : Nat → Bool) : (h.putP n f g).regs.batch = h.regs.batch := rfl
@[simp] theorem putP_depth (h : Hoist) (n : Nat) (f g : Nat → Bool) : (h.putP n f g).regs.depth = h.regs.depth := rfl
@[simp] theorem putP_region (h : Hoist) (n : Nat) (f g : Nat → Bool) : (h.putP n f g).regs.region = h.regs.region := rfl
@[simp] theorem putP_hregion (h : Hoist) (n : Nat) (f g : Nat → Bool) : (h.putP n f g).regs.hregion = h.regs.hregion := rfl
/-! ### What is found again -/

theorem hoist?_putHoist {s : State} {h : Hoist} (hs : (s.hoist? h.src).isSome) : (s.putHoist h).hoist? h.src = some h := by
  unfold State.hoist? State.putHoist at *
  dsimp only
  generalize s.hoists = l at *
  induction l with
  | nil => simp at hs
  | cons x xs ih =>
    rw [List.map_cons, List.find?_cons]
    rw [List.find?_cons] at hs
    cases hx : x.src == h.src
    · rw [hx] at hs
      rw [if_neg (by simp), hx]
      exact ih hs
    · rw [if_pos rfl]
      simp

theorem hoist?_putHoist_other {s : State} {h : Hoist} {n : Nat} (hn : n ≠ h.src) : (s.putHoist h).hoist? n = s.hoist? n := by
  unfold State.hoist? State.putHoist
  simp only
  generalize s.hoists = l
  induction l with
  | nil => rfl
  | cons x xs ih =>
    simp only [List.map_cons, List.find?_cons]
    by_cases hx : x.src == h.src
    · have hx' : x.src = h.src := by simpa using hx
      have h1 : (h.src == n) = false := by simpa using fun hc => hn hc.symm
      have h2 : (x.src == n) = false := by rw [hx']; exact h1
      simp only [hx, if_true, h1, h2]
      exact ih
    · have hx' : (x.src == h.src) = false := by simpa using hx
      simp only [hx', Bool.false_eq_true, if_false]
      rw [ih]

theorem hoist?_updHoist {s : State} {n : Nat} {f : Hoist → Hoist} (hf : ∀ h, (f h).src = h.src) :
    (s.updHoist n f).hoist? n = (s.hoist? n).map f := by
  unfold State.hoist? State.updHoist
  simp only
  generalize s.hoists = l
  induction l with
  | nil => rfl
  | cons x xs ih =>
    simp only [List.map_cons, List.find?_cons]
    by_cases hx : x.src == n
    · simp [hx, hf]
    · have hx' : (x.src == n) = false := by simpa using hx
      simp only [hx', Bool.false_eq_true, if_false]
      rw [ih]

theorem hoist?_updHoist_other {s : State} {m n : Nat} {f : Hoist → Hoist} (hf : ∀ h, (f h).src = h.src) (hn : m ≠ n) :
    (s.updHoist n f).hoist? m = s.hoist? m := by
  unfold State.hoist? State.updHoist
  simp only
  generalize s.hoists = l
  induction l with
  | nil => rfl
  | cons x xs ih =>
    simp only [List.map_cons, List.find?_cons]
    by_cases hx : x.src == n
    · have hx' : x.src = n := by simpa using hx
      have h1 : (x.src == m) = false := by rw [hx']; simpa using fun hc => hn hc.symm
      simp only [hx, if_true, hf, h1]
      exact ih
    · have hx' : (x.src == n) = false := by simpa using hx
      simp only [hx', Bool.false_eq_true, if_false]
      rw [ih]

theorem sreg_setS {h : Hoist} {n m : Nat} {x : Word} :
    (h.setS n x).sreg m = if m = n ∧ n < h.regs.s.length then x else h.sreg m := by
  unfold Hoist.sreg Hoist.setS
  simp only [List.getElem?_set]
  by_cases hmn : n = m
  · subst hmn
    by_cases hl : n < h.regs.s.length
    · simp [hl]
    · simp [hl]
  · have : ¬ m = n := fun hc => hmn hc.symm
    simp [hmn, this]

theorem preg_setP {h : Hoist} {n m : Nat} {x : Mask} :
    (h.setP n x).preg m = if m = n ∧ n < h.regs.p.length then x else h.preg m := by
  unfold Hoist.preg Hoist.setP
  simp only [List.getElem?_set]
  by_cases hmn : n = m
  · subst hmn
    by_cases hl : n < h.regs.p.length
    · simp [hl]
    · simp [hl]
  · have : ¬ m = n := fun hc => hmn hc.symm
    simp [hmn, this]

theorem areg_setA {h : Hoist} {n m : Nat} {x : AReg} :
    (h.setA n x).areg m = if m = n ∧ n < h.regs.a.length then x else h.areg m := by
  unfold Hoist.areg Hoist.setA
  simp only [List.getElem?_set]
  by_cases hmn : n = m
  · subst hmn
    by_cases hl : n < h.regs.a.length
    · simp [hl]
    · simp [hl]
  · have : ¬ m = n := fun hc => hmn hc.symm
    simp [hmn, this]

theorem vreg_setV {h : Hoist} {n m : Nat} {x : VReg} :
    (h.setV n x).vreg m = if m = n ∧ n < h.regs.v.length then x else h.vreg m := by
  unfold Hoist.vreg Hoist.setV
  simp only [List.getElem?_set]
  by_cases hmn : n = m
  · subst hmn
    by_cases hl : n < h.regs.v.length
    · simp [hl]
    · simp [hl]
  · have : ¬ m = n := fun hc => hmn hc.symm
    simp [hmn, this]

end Sys2Proof.Laws
end

