-- ==== Sys2Proof/Laws/Memory.lean ====
section
/-!
SUPPORT. Memories: every operation keeps the canonical form, a read gives what was last written, other bytes stay.
-/

namespace Sys2Proof.Laws

open Sys2Proof.Machine Sys2Proof.Claims

/-! ### One byte -/

theorem wfFrom_mono {m : Memory} {lo lo' : Nat} (h : m.wfFrom lo = true) (hl : lo' ≤ lo) : m.wfFrom lo' = true := by
  cases m with
  | nil => rfl
  | cons c m =>
    simp only [Memory.wfFrom, Bool.and_eq_true, decide_eq_true_eq] at h ⊢
    exact ⟨⟨by omega, h.1.2⟩, h.2⟩

/-- An address below a canonical list reads as zero. -/
theorem read_below {m : Memory} {lo a : Nat} (h : m.wfFrom lo = true) (ha : a < lo) : m.read a = 0 := by
  cases m with
  | nil => rfl
  | cons c m =>
    simp only [Memory.wfFrom, Bool.and_eq_true, decide_eq_true_eq] at h
    simp only [Memory.read]
    rw [if_pos (by omega)]

theorem wfFrom_write {m : Memory} {lo a : Nat} {b : Byte} (h : m.wfFrom lo = true) (hl : lo ≤ a) :
    (m.write a b).wfFrom lo = true := by
  induction m generalizing lo with
  | nil =>
    simp only [Memory.write]
    split
    · rfl
    · rename_i hb; simpa [Memory.wfFrom, hl] using hb
  | cons c m ih =>
    obtain ⟨k, c⟩ := c
    simp only [Memory.wfFrom, Bool.and_eq_true, decide_eq_true_eq] at h
    simp only [Memory.write]
    split
    · split
      · simp only [Memory.wfFrom, Bool.and_eq_true, decide_eq_true_eq]
        exact h
      · rename_i hb
        simp only [Memory.wfFrom, Bool.and_eq_true, decide_eq_true_eq]
        exact ⟨⟨hl, by simpa using hb⟩, ⟨by omega, h.1.2⟩, h.2⟩
    · split
      · split
        · exact wfFrom_mono h.2 (by omega)
        · rename_i hk hb
          simp only [Memory.wfFrom, Bool.and_eq_true, decide_eq_true_eq]
          exact ⟨⟨hl, by simpa using hb⟩, hk ▸ h.2⟩
      · simp only [Memory.wfFrom, Bool.and_eq_true, decide_eq_true_eq]
        exact ⟨h.1, ih h.2 (by omega)⟩

/-- A written byte is read back. -/
theorem read_write {m : Memory} {lo a : Nat} {b : Byte} (h : m.wfFrom lo = true) (hl : lo ≤ a) : (m.write a b).read a = b := by
  induction m generalizing lo with
  | nil =>
    simp only [Memory.write]
    split
    · simp [Memory.read, *]
    · simp [Memory.read]
  | cons c m ih =>
    obtain ⟨k, c⟩ := c
    simp only [Memory.wfFrom, Bool.and_eq_true, decide_eq_true_eq] at h
    simp only [Memory.write]
    split
    · split
      · simp [Memory.read, *]
      · simp [Memory.read]
    · split
      · split
        · rename_i hb; rw [hb]; exact read_below h.2 (by omega)
        · simp [Memory.read]
      · simp only [Memory.read]
        rw [if_neg (by omega), if_neg (by omega)]
        exact ih h.2 (by omega)

/-- A write leaves every other byte. -/
theorem read_write_other {m : Memory} {lo a x : Nat} {b : Byte} (h : m.wfFrom lo = true) (hx : x ≠ a) :
    (m.write a b).read x = m.read x := by
  induction m generalizing lo with
  | nil =>
    simp only [Memory.write]
    split
    · rfl
    · simp only [Memory.read]
      split
      · rfl
      · rw [if_neg (by omega)]
  | cons c m ih =>
    obtain ⟨k, c⟩ := c
    simp only [Memory.wfFrom, Bool.and_eq_true, decide_eq_true_eq] at h
    simp only [Memory.write]
    split
    · split
      · rfl
      · by_cases h1 : x < a
        · simp only [Memory.read]
          rw [if_pos h1, if_pos (by omega)]
        · simp only [Memory.read]
          rw [if_neg h1, if_neg (by omega)]
    · split
      · rename_i hk
        subst hk
        split
        · simp only [Memory.read]
          by_cases h1 : x < k
          · rw [if_pos h1]; exact read_below h.2 (by omega)
          · rw [if_neg h1, if_neg (by omega)]
        · simp only [Memory.read]
          rw [if_neg (Ne.symm hx), if_neg (Ne.symm hx)]
      · simp only [Memory.read]
        rw [ih h.2]

/-! ### Runs of bytes -/

theorem wf_writeBytes {m : Memory} {a : Nat} {bs : List Byte} (h : m.wf = true) : (m.writeBytes a bs).wf = true := by
  induction bs generalizing m a with
  | nil => exact h
  | cons b bs ih => exact ih (wfFrom_write h (Nat.zero_le _))

theorem wf_writeNat {m : Memory} {a n v : Nat} (h : m.wf = true) : (m.writeNat a n v).wf = true := wf_writeBytes h

/-- A write of bytes leaves every byte outside them. -/
theorem read_writeBytes_other {m : Memory} {a x : Nat} {bs : List Byte} (h : m.wf = true) (hx : x < a ∨ a + bs.length ≤ x) :
    (m.writeBytes a bs).read x = m.read x := by
  induction bs generalizing m a with
  | nil => rfl
  | cons b bs ih =>
    simp only [List.length_cons] at hx
    rw [Memory.writeBytes, ih (wfFrom_write h (Nat.zero_le _)) (by omega)]
    exact read_write_other h (by omega)

/-- A byte of a write is read back. -/
theorem read_writeBytes {m : Memory} {a k : Nat} {bs : List Byte} (h : m.wf = true) (hk : k < bs.length) :
    (m.writeBytes a bs).read (a + k) = bs[k] := by
  induction bs generalizing m a k with
  | nil => simp at hk
  | cons b bs ih =>
    have h' : (m.write a b).wf = true := wfFrom_write h (Nat.zero_le _)
    cases k with
    | zero =>
      rw [Memory.writeBytes, read_writeBytes_other h' (by omega)]
      exact read_write h (Nat.zero_le _)
    | succ k =>
      simp only [List.length_cons] at hk
      rw [Memory.writeBytes, show a + (k + 1) = a + 1 + k by omega, ih h' (by omega)]
      rfl

theorem wfFrom_filter {m : Memory} {lo : Nat} (p : Host.Cell → Bool) (h : m.wfFrom lo = true) :
    Memory.wfFrom lo (m.filter p) = true := by
  induction m generalizing lo with
  | nil => rfl
  | cons c m ih =>
    simp only [Memory.wfFrom, Bool.and_eq_true, decide_eq_true_eq] at h
    simp only [List.filter_cons]
    split
    · simp only [Memory.wfFrom, Bool.and_eq_true, decide_eq_true_eq]
      exact ⟨h.1, ih h.2⟩
    · exact ih (wfFrom_mono h.2 (by omega))

/-- A range set to zero, and a memory cut at an address, stay canonical. -/
theorem wf_zero {m : Memory} {a n : Nat} (h : m.wf = true) : (m.zero a n).wf = true := wfFrom_filter _ h

theorem wf_below {m : Memory} {n : Nat} (h : m.wf = true) : (m.below n).wf = true := wfFrom_filter _ h

theorem wf_filter {m : Memory} (p : Host.Cell → Bool) (h : m.wf = true) : Memory.wf (m.filter p) = true := wfFrom_filter p h

theorem wfFrom_from {m : Memory} {lo a : Nat} (h : m.wfFrom lo = true) : Memory.wfFrom a (m.from a) = true := by
  induction m generalizing lo with
  | nil => rfl
  | cons c m ih =>
    simp only [Memory.wfFrom, Bool.and_eq_true, decide_eq_true_eq] at h
    simp only [Memory.from, List.dropWhile_cons, decide_eq_true_eq]
    split
    · exact ih h.2
    · simp only [Memory.wfFrom, Bool.and_eq_true, decide_eq_true_eq]
      exact ⟨⟨by omega, h.1.2⟩, h.2⟩

theorem read_from {m : Memory} {lo a x : Nat} (h : m.wfFrom lo = true) (hx : a ≤ x) : (m.from a).read x = m.read x := by
  induction m generalizing lo with
  | nil => rfl
  | cons c m ih =>
    obtain ⟨k, c⟩ := c
    simp only [Memory.wfFrom, Bool.and_eq_true, decide_eq_true_eq] at h
    simp only [Memory.from, List.dropWhile_cons, decide_eq_true_eq]
    split
    · simp only [Memory.read]
      rw [if_neg (by omega), if_neg (by omega)]
      exact ih h.2
    · rfl

/-- Bytes are read one by one. -/
theorem readBytes_eq {m : Memory} {lo a n : Nat} (h : m.wfFrom lo = true) :
    m.readBytes a n = (List.range n).map fun k => m.read (a + k) := by
  induction n generalizing m a lo with
  | zero => rfl
  | succ n ih =>
    rw [Memory.readBytes, List.range_succ_eq_map, List.map_cons, List.map_map, ih (wfFrom_from (a := a + 1) h)]
    congr 1
    apply List.map_congr_left
    intro k _
    rw [read_from h (by omega)]
    simp only [Function.comp]
    congr 1
    omega

/-- A write of bytes is read back whole. -/
theorem readBytes_writeBytes {m : Memory} {a : Nat} {bs : List Byte} (h : m.wf = true) :
    (m.writeBytes a bs).readBytes a bs.length = bs := by
  rw [readBytes_eq (lo := 0) (wf_writeBytes h)]
  apply List.ext_getElem
  · simp
  · intro k _ hk
    simp only [List.getElem_map, List.getElem_range]
    exact read_writeBytes h hk

/-! ### States whose memory an operation leaves -/

/-- What reset leaves is canonical. -/
theorem canonical_reset : Canonical State.reset := rfl

theorem mem_foldl_wakeMonitor (ms : List Monitor) (s : State) : (ms.foldl State.wakeMonitor s).mem = s.mem := by
  induction ms generalizing s with
  | nil => rfl
  | cons m ms ih =>
    rw [List.foldl_cons, ih]
    unfold State.wakeMonitor
    split <;> rfl

/-- Waking waiters changes no memory. -/
theorem mem_wakeWhere (s : State) (p : Monitor → Bool) : (s.wakeWhere p).mem = s.mem := by
  unfold State.wakeWhere
  exact mem_foldl_wakeMonitor _ _

/-- Where no line is held every waiter sees what is written. -/
theorem keptFrom_unheld {s : State} (m : Monitor) (h : s.holds = []) : s.keptFrom m = false := by simp [State.keptFrom, h]

/-- Holds that end change no memory. -/
theorem mem_dropHolds (s : State) (p : ScopeHold → Bool) : (s.dropHolds p).mem = s.mem := by
  unfold State.dropHolds
  dsimp only
  split
  · rfl
  · exact mem_wakeWhere _ _

/-- Nor does a waiter that is entered. -/
theorem mem_register (s : State) (m : Monitor) : (s.register m).mem = s.mem := by
  unfold State.register
  dsimp only
  split
  · split
    · unfold State.wakeMonitor
      split <;> rfl
    · rfl
  · rfl

/-- Nor does a waiter of another chip. -/
theorem mem_watch (s : State) (agent pa size : Nat) (cond : Condition) : (s.watch agent pa size cond).mem = s.mem := by
  unfold State.watch
  dsimp only
  split
  · exact mem_register _ _
  · rfl

theorem mem_wakeWritten (s : State) (a n : Nat) : (s.wakeWritten a n).mem = s.mem := by
  unfold State.wakeWritten
  split
  · rfl
  · exact mem_wakeWhere _ _

/-- A write of the die order keeps the form. -/
theorem canonical_writePhys {s : State} {pa : Nat} {bs : List Byte} (h : Canonical s) : Canonical (s.writePhys pa bs) := by
  unfold State.writePhys
  split
  · exact h
  · unfold Canonical
    rw [mem_wakeWritten]
    exact wf_writeBytes h

theorem canonical_raiseMsi {s : State} {v : Nat} (h : Canonical s) : Canonical (s.raiseMsi v) := by
  unfold State.raiseMsi
  repeat' split
  all_goals exact h

theorem canonical_ringAppend {s : State} {ring depth : Nat} {rec_ : List Byte} (h : Canonical s) :
    Canonical (s.ringAppend ring depth rec_) := canonical_writePhys (canonical_writePhys h)

/-- Writing an event record keeps the form. -/
theorem canonical_logEvent {s : State} {cls src aux : Nat} {ctx : Option Nat} {data : List Byte} (h : Canonical s) :
    Canonical (s.logEvent cls src ctx aux data) := by
  unfold State.logEvent
  split
  · exact h
  · dsimp only
    split
    · exact canonical_raiseMsi (canonical_ringAppend h)
    · exact canonical_writePhys h

theorem canonical_faultCtx {s : State} {ctx src : Nat} {cause : FaultCause} {data : List Byte} (h : Canonical s) :
    Canonical (s.faultCtx ctx cause src data) :=
  canonical_raiseMsi (canonical_logEvent (s := s.updCtx ctx fun c => { c with faulted := true }) h)

theorem canonical_poisonSector {s : State} {sector src : Nat} (h : Canonical s) : Canonical (s.poisonSector sector src) := by
  unfold State.poisonSector
  split
  · exact h
  · exact canonical_logEvent h

/-- Poison that goes with a copy keeps memory in its form. -/
theorem canonical_carryPoison {s : State} (src dst n : Nat) (h : Canonical s) : Canonical (s.carryPoison src dst n) := by
  unfold State.carryPoison
  generalize s.poison.filter _ = ks
  induction ks generalizing s with
  | nil => exact h
  | cons k ks ih => exact ih (canonical_poisonSector h)

/-- An agent's write, performed or held, keeps the form. -/
theorem canonical_agentWrite {s : State} {ctx pa : Nat} {bs : List Byte} (h : Canonical s) :
    Canonical (s.agentWrite ctx pa bs) := by
  unfold State.agentWrite
  split
  · exact h
  · exact canonical_writePhys h

theorem canonical_writeShared {s : State} {src ctx pa : Nat} {bs : List Byte} (h : Canonical s) :
    Canonical (s.writeShared src ctx pa bs) := by
  unfold State.writeShared
  apply canonical_agentWrite
  split <;> exact h

/-- A hoist's write keeps the form. -/
theorem canonical_writeAccess {s : State} {src block ctx : Nat} {x : Access} {bs : List Byte} (h : Canonical s) :
    Canonical (s.writeAccess src block ctx x bs) := by
  unfold State.writeAccess
  split
  · exact h
  · split
    · split
      · exact h
      · exact canonical_writeShared h
    · exact canonical_writeShared h

end Sys2Proof.Laws
end

