-- ==== Sys2Proof/Laws/Words.lean ====
section
/-!
SUPPORT. What a word does once it starts: the laws by which claims about one word reach exec.
-/

namespace Sys2Proof.Laws

open Sys2Proof.Machine Sys2Proof.Claims

/-- Reading registers either way leaves the group as it is. -/
theorem mixed_g (e : Env) (i : Instr) (old : List Saved) : (e.mixed i old).g = e.g := by
  unfold Env.mixed
  dsimp only
  split <;> rfl

/-- A word that begins runs its body and ends as the body says. -/
theorem runWord_of_begins {i : Instr} {s : State} {e r : Env} {old : List Saved} (h : Begins i s e r old)
    (body : Env → Res) : runWord i body s = .next (e.conclude i old (body r)) := by
  obtain ⟨⟨e0, hi, hs⟩, rfl, hl, hk, hf, hr⟩ := h
  unfold Issues at hi
  simp only [runWord, hi, Env.run, hs, Env.start, hk, hf, Env.finish, Env.orRefused, mixed_g, hr, Env.perform, hl]
  rfl

/-- A word whose checks raise a trap takes it. -/
theorem runWord_of_trap {i : Instr} {s : State} {e0 e : Env} {t : Trap} (hi : Issues i s e0)
    (hs : e0.issue i = .trap t e) (body : Env → Res) : runWord i body s = .next (e.takeTrap t) := by
  unfold Issues at hi
  simp only [runWord, hi, Env.run, hs]

/-- A word that R446 leaves without an effect completes. -/
theorem runWord_of_idle {i : Instr} {s : State} {e : Env} {old : List Saved} (h : Starts i s e old) (hu : Unhurt i e)
    (hl : (e.mixed i old).idle i = true) (body : Env → Res) :
    runWord i body s = .next ((e.asRead old).complete i false (e.unmix i old (e.mixed i old).s)) := by
  obtain ⟨e0, hi, hs⟩ := h
  unfold Issues at hi
  simp only [runWord, hi, Env.run, hs, Env.start, hu.1, hu.2.1, Env.finish, Env.orRefused, mixed_g, hu.2.2, Env.perform, hl]
  rfl

end Sys2Proof.Laws
end

