-- ==== Sys2Proof/Laws/Starts.lean ====
section
/-!
SUPPORT. What holds of a word that starts: its hoist, block and context are those of its state, and its group has a slice.
-/

namespace Sys2Proof.Laws

open Sys2Proof.Machine Sys2Proof.Claims

/-- An environment that is read from its state, whose group has a slice. -/
structure Sound (e : Env) : Prop where
  found : e.s.hoist? e.h.src = some e.h
  block : e.b = e.s.blockOf e.h
  ctx : e.c = e.s.ctxOf e.h
  group : (e.h.group? e.g.id).getD e.g = e.g
  here : e.here = true
  felled : e.felled = []

theorem here_iff (e : Env) : e.here = true ↔ e.h.groupSlices e.g.id ≠ [] := by simp [Env.here]

theorem src_of_hoist? {s : State} {n : Nat} {h : Hoist} (hs : s.hoist? n = some h) : h.src = n := by
  have := List.find?_some hs
  simpa using this

theorem not_here_of_no_slices {h : Hoist} (hs : h.regs.slices = []) (g : Nat) : h.groupSlices g = [] := by
  simp [Hoist.groupSlices, hs]

theorem group?_id {h : Hoist} {n : Nat} {g : Group} (hg : h.group? n = some g) : g.id = n := by
  have := List.find?_some hg
  simpa using this

theorem issuer_sound {w : BitVec 32} {s : State} {e : Env} (h : issuer w s = some e) : Sound e := by
  unfold issuer at h
  split at h
  · cases h
  · rename_i x hx
    split at h
    · cases h
    · split at h
      · cases h
      · rename_i g hg hne
        cases h
        have hsrc := src_of_hoist? hx
        refine ⟨by rw [hsrc]; exact hx, rfl, rfl, ?_, by simpa [Env.here] using hne, rfl⟩
        dsimp only
        rw [group?_id hg, hg]
        rfl

theorem at_gid (e : Env) (s : State) : (e.at s).g.id = e.g.id := by
  unfold Env.at
  dsimp only
  cases hg : Hoist.group? _ e.g.id with
  | none => rfl
  | some g => exact group?_id hg

theorem at_sound {e : Env} {s : State} (hf : e.felled = []) (h : (e.at s).here = true) : Sound (e.at s) := by
  rw [here_iff] at h
  refine ⟨?_, rfl, rfl, ?_, (here_iff _).2 h, hf⟩
  rotate_left
  · rw [at_gid]
    unfold Env.at
    dsimp only
    cases Hoist.group? _ e.g.id <;> rfl
  cases hh : s.hoist? e.h.src with
  | none =>
    exact absurd (not_here_of_no_slices (by simp [Env.at, hh]) _) h
  | some k =>
    have : (e.at s).h = k := by simp [Env.at, hh]
    rw [this, src_of_hoist? hh]
    exact hh

theorem startAt_sound {e : Env} (n : Nat) (h : Sound e) : Sound (e.startAt n) :=
  ⟨h.found, h.block, h.ctx, h.group, h.here, h.felled⟩

theorem settle_sound {e : Env} {p : Flight → Bool} (hf : e.felled = []) (h : (e.settle p).here = true) : Sound (e.settle p) :=
  at_sound hf h

theorem settleIf_sound {e : Env} {c : Bool} {p : Flight → Bool} (h : Sound e)
    (hh : (if c = true then e.settle p else e).here = true) : Sound (if c = true then e.settle p else e) := by
  cases c
  · exact h
  · exact settle_sound h.felled hh

/-- What stands behind the two tests that every wait makes: the group is there, and nothing is waited for. -/
theorem gate {e : Env} {w : Bool} {x y z : Issue} (h : (if (!e.here) = true then Issue.gone e.s else if w = true then x else y) = z)
    (hg : ∀ s, z ≠ .gone s) : e.here = true ∧ (if w = true then x else y) = z := by
  cases hh : e.here
  · simp only [hh] at h
    exact absurd h.symm (hg _)
  · simp only [hh] at h
    exact ⟨rfl, h⟩

theorem interlockOn_sound {e e' : Env} {xs : List RegSpan} {old : List Saved} (h : Sound e)
    (hi : e.interlockOn xs = .ready e' old) : Sound e' := by
  unfold Env.interlockOn at hi
  extract_lets mine e1 at hi
  obtain ⟨hh, hi⟩ := gate hi (by intro s hs; cases hs)
  have h1 : Sound e1 := settleIf_sound h hh
  clear_value e1
  split at hi
  · cases hi
  · cases hi
    exact startAt_sound _ h1

theorem interlock_sound {e e' : Env} {i : Instr} {old : List Saved} (h : Sound e)
    (hi : e.interlock i = .ready e' old) : Sound e' := by
  unfold Env.interlock at hi
  split at hi
  · rename_i e1 o1 h1
    split at hi
    · cases hi; exact interlockOn_sound h h1
    · exact interlockOn_sound (interlockOn_sound h h1) hi
  · exact interlockOn_sound h hi

theorem trusted_sound {e e' : Env} {i : Instr} {c : Nat} {b : Bool} {old : List Saved} (h : Sound e)
    (hi : e.trusted i c b = .ready e' old) : Sound e' := by
  unfold Env.trusted at hi
  extract_lets xs other e1 start foreign e2 own busy spans old' e3 at hi
  obtain ⟨hh, hi'⟩ := gate hi (by intro s hs; cases hs)
  have h1 : Sound e1 := settleIf_sound h hh
  have h2 : Sound e2 := startAt_sound _ h1
  have h3 : e3.here = true → Sound e3 := settle_sound h2.felled
  clear_value e3 e2 e1
  split at hi'
  · cases hi'
  · split at hi'
    · cases hi'; exact h2
    · split at hi'
      · cases hi'
      · obtain ⟨hh, hi'⟩ := gate hi' (by intro s hs; cases hs)
        split at hi'
        · cases hi'
        · injection hi' with he _; exact he ▸ h3 hh

theorem operands_sound {e e' : Env} {i : Instr} {old : List Saved} (h : Sound e)
    (hi : e.operands i = .ready e' old) : Sound e' := by
  unfold Env.operands at hi
  split at hi
  · exact trusted_sound h hi
  · exact interlock_sound h hi

theorem afterAtomics_sound {e e' : Env} {i : Instr} {old : List Saved} (h : Sound e)
    (hi : e.afterAtomics i = .ready e' old) : Sound e' := by
  unfold Env.afterAtomics at hi
  extract_lets e1 at hi
  obtain ⟨hh, hi⟩ := gate hi (by intro s hs; cases hs)
  have h1 : Sound e1 := settleIf_sound h hh
  clear_value e1
  split at hi
  · cases hi
  · cases hi; exact h1

theorem countRoom_sound {e e' : Env} {i : Instr} {old : List Saved} (h : Sound e)
    (hi : e.countRoom i = .ready e' old) : Sound e' := by
  unfold Env.countRoom at hi
  split at hi
  · extract_lets e1 at hi
    obtain ⟨hh, hi⟩ := gate hi (by intro s hs; cases hs)
    have h1 : Sound e1 := settle_sound h.felled hh
    clear_value e1
    split at hi
    · cases hi
    · cases hi; exact h1
  · cases hi; exact h

/-- A word that starts does so in an environment read from its state. -/
theorem sound_of_issue {e e' : Env} {i : Instr} {old : List Saved} (h : Sound e)
    (hi : e.issue i = .ready e' old) : Sound e' := by
  unfold Env.issue at hi
  split at hi
  · cases hi
  · split at hi
    · cases hi
    · split at hi
      · rename_i e1 o1 ho
        have h1 := operands_sound h ho
        split at hi
        · cases hi; exact h1
        · split at hi
          · cases hi
          · split at hi
            · rename_i h2
              have h2 := afterAtomics_sound h1 h2
              split at hi
              · rename_i h3
                cases hi
                exact countRoom_sound h2 h3
              · rename_i x hne; exact absurd hi (hne _ _)
            · rename_i x hne; exact absurd hi (hne _ _)
      · rename_i x hne; exact absurd hi (hne _ _)

theorem starts_sound {i : Instr} {s : State} {e : Env} {old : List Saved} (h : Starts i s e old) : Sound e := by
  obtain ⟨e0, hi, hr⟩ := h
  exact sound_of_issue (issuer_sound hi) hr

/-- Reading registers either way changes V, S and P registers alone. -/
theorem mixAll_shape (old : List Saved) (n : Nat) (h : Hoist) :
    ∃ v s p, mixAll old n h = { h with regs := { h.regs with v := v, s := s, p := p } } := by
  induction old generalizing n h with
  | nil => exact ⟨h.regs.v, h.regs.s, h.regs.p, rfl⟩
  | cons x xs ih =>
    obtain ⟨v, s, p, he⟩ := ih (n + 4) (mixRegister h n x)
    have hx : ∃ v s p, mixRegister h n x = { h with regs := { h.regs with v := v, s := s, p := p } } := by
      cases x with
      | v r o => exact ⟨_, _, _, rfl⟩
      | p r o => exact ⟨_, _, _, rfl⟩
      | s r o =>
        unfold mixRegister
        dsimp only
        split
        · exact ⟨_, _, _, rfl⟩
        · exact ⟨_, _, _, rfl⟩
    obtain ⟨v', s', p', hx⟩ := hx
    rw [hx] at he
    refine ⟨v, s, p, ?_⟩
    rw [mixAll, hx, he]

/-- A TRUST word reads its sources in an environment read from its state. -/
theorem mixed_sound {e : Env} (h : Sound e) (i : Instr) (old : List Saved) : Sound (e.mixed i old) := by
  unfold Env.mixed
  dsimp only
  split
  · exact h
  · obtain ⟨v, s, p, he⟩ := mixAll_shape (e.sources i old) e.s.fresh e.h
    rw [he]
    refine ⟨?_, h.block, h.ctx, h.group, h.here, h.felled⟩
    apply hoist?_putHoist
    show (e.s.hoist? e.h.src).isSome
    rw [h.found]
    rfl

/-- A word that begins reads its operands in an environment read from its state. -/
theorem begins_sound {i : Instr} {s : State} {e r : Env} {old : List Saved} (h : Begins i s e r old) : Sound r := by
  rw [h.reads]
  exact mixed_sound (starts_sound h.starts) i old

/-- An environment read from its state is the one that reading it again gives. -/
theorem at_self {r : Env} (h : Sound r) : r.at r.s = r := by
  unfold Env.at
  have hg := h.group
  have hb := h.block
  have hc := h.ctx
  rw [h.found]
  dsimp only [Option.getD_some]
  rw [hg, ← hb, ← hc]

end Sys2Proof.Laws
end

