-- ==== Sys2Proof/Laws/Ops.lean ====
section
/-!
SUPPORT. What the shared operations can do, said once: a word from its issue to its end, a trap, masks of lanes.
-/

namespace Sys2Proof.Laws

open Sys2Proof.Machine Sys2Proof.Claims

/-! ### Masks -/

/-- A bit of a mask made lane by lane. -/
theorem maskOf_bit (f : Nat → Bool) (w l : Nat) (hl : l < 128) : (maskOf f w).getLsbD l = (decide (l < w) && f l) := by
  induction w with
  | zero => simp [maskOf]
  | succ n ih =>
    simp only [maskOf]
    by_cases hn : l = n
    · subst hn
      split <;> rename_i h <;> simp only [BitVec.getLsbD_or, BitVec.getLsbD_twoPow, ih, h] <;> simp [hl]
    · have : decide (l < n + 1) = decide (l < n) := by simp; omega
      split <;> simp only [BitVec.getLsbD_or, BitVec.getLsbD_twoPow, ih, this] <;> simp [Ne.symm hn]

/-- The bits of EXEC after it is written: dead lanes and lanes at or above W are clear (05_control.md R94). -/
theorem setExec_bit (h : Hoist) (m : Mask) (l : Nat) (hl : l < 128) :
    (h.setExec m).regs.exec.getLsbD l = (decide (l < h.width) && (m.getLsbD l && !h.regs.dead.getLsbD l)) :=
  maskOf_bit _ _ _ hl

/-- A P register's bits after a write of the lanes that `sel` picks. -/
theorem putP_bit (h : Hoist) (d : Nat) (sel f : Nat → Bool) (l : Nat) (hd : d < h.regs.p.length) (hl : l < 128) :
    ((h.putP d sel f).preg d).getLsbD l = (decide (l < h.width) && if sel l then f l else (h.preg d).getLsbD l) := by
  have : (h.putP d sel f).preg d = maskOf (fun l => if sel l then f l else (h.preg d).getLsbD l) h.width := by
    simp [Hoist.putP, Hoist.setP, Hoist.preg, hd]
  rw [this, maskOf_bit _ _ _ hl]

/-! ### A word -/

/-- A word either runs for the issuing group or finds none. -/
theorem runWord_cases (i : Instr) (body : Env → Res) (s : State) :
    (∃ e, issuer ((encode i).getD 0) s = some e ∧ runWord i body s = .next (e.run i body)) ∨
    (issuer ((encode i).getD 0) s = none ∧ runWord i body s = .fault .noIssuingGroup) := by
  unfold runWord
  cases issuer ((encode i).getD 0) s with
  | none => exact .inr ⟨rfl, rfl⟩
  | some e => exact .inl ⟨e, rfl, rfl⟩

/-- A word never ends in a refusal. -/
theorem runWord_next_or_fault (i : Instr) (body : Env → Res) (s : State) :
    (∃ t, runWord i body s = .next t) ∨ runWord i body s = .fault .noIssuingGroup := by
  rcases runWord_cases i body s with ⟨e, _, h⟩ | ⟨_, h⟩
  · exact .inl ⟨_, h⟩
  · exact .inr h

/-- A word of a group starts, traps at its checks, waits, or finds its group gone. -/
theorem run_cases (e : Env) (i : Instr) (body : Env → Res) :
    (∃ e' old, e.issue i = .ready e' old ∧ e.run i body = e'.start i old body) ∨
    (∃ t e', e.issue i = .trap t e' ∧ e.run i body = e'.takeTrap t) ∨
    (∃ e', e.issue i = .wait e' ∧ e.run i body = e'.stay .retry e'.s) ∨
    (∃ s, e.issue i = .gone s ∧ e.run i body = s) := by
  unfold Env.run
  cases h : e.issue i with
  | ready e' old => exact .inl ⟨e', old, rfl, rfl⟩
  | trap t e' => exact .inr (.inl ⟨t, e', rfl, rfl⟩)
  | wait e' => exact .inr (.inr (.inl ⟨e', rfl, rfl⟩))
  | gone s => exact .inr (.inr (.inr ⟨s, rfl, rfl⟩))

/-- A word that has its operands runs to its end, or its hoist has gone with the lanes that it reads an error for
(21_reliability.md R359). -/
theorem start_cases (e : Env) (i : Instr) (old : List Saved) (body : Env → Res) :
    (e.struck i = true ∧ e.start i old body = (e.s.loseHoist e.h.src 0xFF e.namedData).spend e.h.src) ∨
    (e.struck i = false ∧ e.hurt i = [] ∧ e.start i old body = e.finish i old body) ∨
    (∃ e' : Env, e'.here = true ∧ e.start i old body = e'.finish i old body) ∨
    (∃ e' : Env, e'.here = false ∧ e.start i old body = e'.s.spend e'.h.src) := by
  unfold Env.start
  cases hs : e.struck i with
  | true => exact .inl ⟨rfl, by rw [if_pos rfl]⟩
  | false =>
    refine .inr ?_
    rw [if_neg (by simp)]
    cases hf : e.hurt i with
    | nil => exact .inl ⟨rfl, rfl, rfl⟩
    | cons f fs =>
      let e' : Env := { e.at (e.s.killLanes e.h.src ((f :: fs).map fun l => (l, 0)) e.namedData) with felled := f :: fs }
      cases hh : e'.here with
      | true => exact .inr (.inl ⟨e', hh, if_pos hh⟩)
      | false => exact .inr (.inr ⟨e', hh, if_neg (by rw [hh]; exact Bool.false_ne_true)⟩)

/-- A trap stops an agent, double-faults, waits for its frame, or is entered (19_faults.md R335, R336). -/
theorem takeTrap_cases (e : Env) (t : Trap) (was : Hoist) (reads : List Word) :
    (e.h.role ≠ .user ∧ e.takeTrap t was reads = e.stopAgent t) ∨
    (e.h.role = .user ∧ (e.cannotEnter t = true ∨ e.writeFrame t reads = .double) ∧ e.takeTrap t was reads = ({ e with s := e.shareReads reads e.s } : Env).doubleFault t) ∨
    (∃ w s, e.h.role = .user ∧ e.cannotEnter t = false ∧ e.writeFrame t reads = .wait w s ∧
      e.takeTrap t was reads = e.stay w (s.updHoist e.h.src fun h => { h with fails := was.fails })) ∨
    (∃ s, e.h.role = .user ∧ e.cannotEnter t = false ∧ e.writeFrame t reads = .written s ∧
      e.takeTrap t was reads = (s.updHoist e.h.src fun h => (e.hoistTrapped t h).entered e.g.id).spend e.h.src) := by
  unfold Env.takeTrap
  by_cases hr : e.h.role = .user
  · rw [if_neg (by simpa using hr)]
    cases hc : e.cannotEnter t with
    | true => exact .inr (.inl ⟨hr, .inl rfl, by rw [if_pos rfl]⟩)
    | false =>
      cases hw : e.writeFrame t reads with
      | double => exact .inr (.inl ⟨hr, .inr rfl, rfl⟩)
      | wait w s => exact .inr (.inr (.inl ⟨w, s, hr, rfl, rfl, rfl⟩))
      | written s => exact .inr (.inr (.inr ⟨s, hr, rfl, rfl, rfl⟩))
  · exact .inl ⟨hr, by rw [if_pos hr]⟩

/-- No tick is made up for while none passes. -/
theorem drift_zero (l : Link) (n : Nat) : l.drift n 0 = 0 := by
  unfold Link.drift
  simp only [Int.natCast_zero, Int.add_zero, Int.sub_self]
  omega

/-- No time passes in no clocks. -/
theorem advance_zero (s : State) : s.advance 0 = s := by simp [State.advance, drift_zero]

/-- Time changes no memory. -/
theorem canonical_advance {s : State} {n : Nat} (h : Canonical s) : Canonical (s.advance n) := h

/-- Forwarding changes no memory. -/
theorem mem_forwardWord (e : Env) (i : Instr) (s : State) : (e.forwardWord i s).mem = s.mem := by
  unfold Env.forwardWord
  split <;> rfl

/-- The end of a word changes no memory, block, context or work in flight. -/
theorem complete_machine (e : Env) (i : Instr) (taken : Bool) (s : State) :
    (e.complete i taken s).mem = s.mem ∧ (e.complete i taken s).blocks = s.blocks ∧
    (e.complete i taken s).ctxs = s.ctxs ∧ (e.complete i taken s).flights = s.flights := by
  unfold Env.complete Env.forwardWord
  dsimp only
  split <;> exact ⟨rfl, rfl, rfl, rfl⟩

/-- Nor does a word that stays. -/
theorem stay_machine (e : Env) (w : Wait) (s : State) :
    (e.stay w s).mem = s.mem ∧ (e.stay w s).blocks = s.blocks ∧ (e.stay w s).ctxs = s.ctxs ∧
    (e.stay w s).flights = s.flights := by
  unfold Env.stay
  dsimp only
  split <;> exact ⟨rfl, rfl, rfl, rfl⟩

/-- A TRUST word's reads and destinations change no memory. -/
theorem mem_unmix (e : Env) (i : Instr) (old : List Saved) (s : State) : (e.unmix i old s).mem = s.mem := by
  unfold Env.unmix
  split <;> rfl

theorem mem_mixed (e : Env) (i : Instr) (old : List Saved) : (e.mixed i old).s.mem = e.s.mem := by
  unfold Env.mixed
  dsimp only
  split <;> rfl

end Sys2Proof.Laws
end

