-- ==== Sys2Proof/Laws/PerInstr.lean ====
section
/-!
SUPPORT. Per-instruction family.
-/

namespace Sys2Proof.Laws.Counted

open Sys2Proof

/-- 03_encoding.md R72, R77: a word that puts counted work in flight has an encoding and is not privileged. -/
def Statement (i : Instr) : Prop := i.counter ≠ none → i.privileged = false ∧ encode i ≠ none

theorem nop : Statement (.nop) := fun h => absurd rfl h
theorem hintS (a b c d e f g h : BitVec 3) : Statement (.hintS a b c d e f g h) := fun h => absurd rfl h
theorem hintH (a b c d e f g h j k m n : BitVec 2) : Statement (.hintH a b c d e f g h j k m n) := fun h => absurd rfl h
theorem ext (i : BitVec 24) : Statement (.ext i) := fun h => absurd rfl h
theorem bra (o : BitVec 24) : Statement (.bra o) := fun h => absurd rfl h
theorem brz (s : BitVec 8) (o : BitVec 16) : Statement (.brz s o) := fun h => absurd rfl h
theorem brnz (s : BitVec 8) (o : BitVec 16) : Statement (.brnz s o) := fun h => absurd rfl h
theorem brany (p : BitVec 8) (o : BitVec 16) : Statement (.brany p o) := fun h => absurd rfl h
theorem brall (p : BitVec 8) (o : BitVec 16) : Statement (.brall p o) := fun h => absurd rfl h
theorem call (o : BitVec 24) : Statement (.call o) := fun h => absurd rfl h
theorem calli (a : BitVec 8) : Statement (.calli a) := fun h => absurd rfl h
theorem jmpi (a : BitVec 8) : Statement (.jmpi a) := fun h => absurd rfl h
theorem ret (a : BitVec 8) : Statement (.ret a) := fun h => absurd rfl h
theorem pad (k : BitVec 2) : Statement (.pad k) := fun h => absurd rfl h
theorem mark (o : BitVec 24) : Statement (.mark o) := fun h => absurd rfl h
theorem join : Statement (.join) := fun h => absurd rfl h
theorem regang : Statement (.regang) := fun h => absurd rfl h
theorem exit : Statement (.exit) := fun h => absurd rfl h
theorem trap (i : BitVec 16) : Statement (.trap i) := fun h => absurd rfl h
theorem yield : Statement (.yield) := fun h => absurd rfl h
theorem chk (i : BitVec 16) : Statement (.chk i) := fun h => absurd rfl h
theorem isync : Statement (.isync) := fun h => absurd rfl h
theorem waitc (g s w x : BitVec 4) : Statement (.waitc g s w x) := fun h => absurd rfl h
theorem mset (m a : BitVec 8) : Statement (.mset m a) := fun h => absurd rfl h
theorem msave (d : BitVec 8) : Statement (.msave d) := fun h => absurd rfl h
theorem mrest (a : BitVec 8) : Statement (.mrest a) := fun h => absurd rfl h
theorem mpop : Statement (.mpop) := fun h => absurd rfl h
theorem sadd (d a b : BitVec 8) : Statement (.sadd d a b) := fun h => absurd rfl h
theorem ssub (d a b : BitVec 8) : Statement (.ssub d a b) := fun h => absurd rfl h
theorem smul (d a b : BitVec 8) : Statement (.smul d a b) := fun h => absurd rfl h
theorem smulh (d a b : BitVec 8) : Statement (.smulh d a b) := fun h => absurd rfl h
theorem smad (d a b : BitVec 8) : Statement (.smad d a b) := fun h => absurd rfl h
theorem sand (d a b : BitVec 8) : Statement (.sand d a b) := fun h => absurd rfl h
theorem sor (d a b : BitVec 8) : Statement (.sor d a b) := fun h => absurd rfl h
theorem sxor (d a b : BitVec 8) : Statement (.sxor d a b) := fun h => absurd rfl h
theorem sshl (d a b : BitVec 8) : Statement (.sshl d a b) := fun h => absurd rfl h
theorem sshr (d a b : BitVec 8) : Statement (.sshr d a b) := fun h => absurd rfl h
theorem ssra (d a b : BitVec 8) : Statement (.ssra d a b) := fun h => absurd rfl h
theorem smin (d a b : BitVec 8) : Statement (.smin d a b) := fun h => absurd rfl h
theorem smax (d a b : BitVec 8) : Statement (.smax d a b) := fun h => absurd rfl h
theorem sminn (d a b : BitVec 8) : Statement (.sminn d a b) := fun h => absurd rfl h
theorem smaxn (d a b : BitVec 8) : Statement (.smaxn d a b) := fun h => absurd rfl h
theorem saddi (d a i : BitVec 8) : Statement (.saddi d a i) := fun h => absurd rfl h
theorem smovi (d : BitVec 8) (i : BitVec 16) : Statement (.smovi d i) := fun h => absurd rfl h
theorem smovhi (d : BitVec 8) (i : BitVec 16) : Statement (.smovhi d i) := fun h => absurd rfl h
theorem scmp (d a : BitVec 8) (c : BitVec 3) : Statement (.scmp d a c) := fun h => absurd rfl h
theorem ssel (d a b : BitVec 8) : Statement (.ssel d a b) := fun h => absurd rfl h
theorem spop (d a : BitVec 8) : Statement (.spop d a) := fun h => absurd rfl h
theorem sclz (d a : BitVec 8) : Statement (.sclz d a) := fun h => absurd rfl h
theorem sbfe (d a b : BitVec 8) : Statement (.sbfe d a b) := fun h => absurd rfl h
theorem smov (d a : BitVec 8) : Statement (.smov d a) := fun h => absurd rfl h
theorem aset (d a s : BitVec 8) : Statement (.aset d a s) := fun h => absurd rfl h
theorem aget (d a s : BitVec 8) : Statement (.aget d a s) := fun h => absurd rfl h
theorem ald (d o : BitVec 8) (n m : BitVec 4) : Statement (.ald d o n m) := fun _ => ⟨rfl, nofun⟩
theorem ast (d o : BitVec 8) (n m : BitVec 4) : Statement (.ast d o n m) := fun _ => ⟨rfl, nofun⟩
theorem aadv (d a m : BitVec 8) : Statement (.aadv d a m) := fun h => absurd rfl h
theorem arestr (d a b : BitVec 8) : Statement (.arestr d a b) := fun h => absurd rfl h
theorem amov (d a : BitVec 8) : Statement (.amov d a) := fun h => absurd rfl h
theorem vadd (d a b : BitVec 8) : Statement (.vadd d a b) := fun h => absurd rfl h
theorem vsub (d a b : BitVec 8) : Statement (.vsub d a b) := fun h => absurd rfl h
theorem vmul (d a b : BitVec 8) : Statement (.vmul d a b) := fun h => absurd rfl h
theorem vmulh (d a b : BitVec 8) : Statement (.vmulh d a b) := fun h => absurd rfl h
theorem vmulhn (d a b : BitVec 8) : Statement (.vmulhn d a b) := fun h => absurd rfl h
theorem vmad (d a b : BitVec 8) : Statement (.vmad d a b) := fun h => absurd rfl h
theorem vand (d a b : BitVec 8) : Statement (.vand d a b) := fun h => absurd rfl h
theorem vor (d a b : BitVec 8) : Statement (.vor d a b) := fun h => absurd rfl h
theorem vxor (d a b : BitVec 8) : Statement (.vxor d a b) := fun h => absurd rfl h
theorem vshl (d a b : BitVec 8) : Statement (.vshl d a b) := fun h => absurd rfl h
theorem vshr (d a b : BitVec 8) : Statement (.vshr d a b) := fun h => absurd rfl h
theorem vsra (d a b : BitVec 8) : Statement (.vsra d a b) := fun h => absurd rfl h
theorem vmin (d a b : BitVec 8) : Statement (.vmin d a b) := fun h => absurd rfl h
theorem vmax (d a b : BitVec 8) : Statement (.vmax d a b) := fun h => absurd rfl h
theorem vminn (d a b : BitVec 8) : Statement (.vminn d a b) := fun h => absurd rfl h
theorem vmaxn (d a b : BitVec 8) : Statement (.vmaxn d a b) := fun h => absurd rfl h
theorem vabs (d a : BitVec 8) : Statement (.vabs d a) := fun h => absurd rfl h
theorem vpop (d a : BitVec 8) : Statement (.vpop d a) := fun h => absurd rfl h
theorem vclz (d a : BitVec 8) : Statement (.vclz d a) := fun h => absurd rfl h
theorem vbfe (d a b : BitVec 8) : Statement (.vbfe d a b) := fun h => absurd rfl h
theorem vbfi (d a b : BitVec 8) : Statement (.vbfi d a b) := fun h => absurd rfl h
theorem vaddc (d a b : BitVec 8) : Statement (.vaddc d a b) := fun h => absurd rfl h
theorem vmov (d a : BitVec 8) : Statement (.vmov d a) := fun h => absurd rfl h
theorem vmovi (d : BitVec 8) (i : BitVec 16) : Statement (.vmovi d i) := fun h => absurd rfl h
theorem vbcast (d a : BitVec 8) : Statement (.vbcast d a) := fun h => absurd rfl h
theorem viota (d a b : BitVec 8) : Statement (.viota d a b) := fun h => absurd rfl h
theorem vaddi (d a i : BitVec 8) : Statement (.vaddi d a i) := fun h => absurd rfl h
theorem vshli (d a : BitVec 8) (s : BitVec 5) : Statement (.vshli d a s) := fun h => absurd rfl h
theorem vcmpEq (d a b : BitVec 8) : Statement (.vcmpEq d a b) := fun h => absurd rfl h
theorem vcmpNe (d a b : BitVec 8) : Statement (.vcmpNe d a b) := fun h => absurd rfl h
theorem vcmpLt (d a b : BitVec 8) : Statement (.vcmpLt d a b) := fun h => absurd rfl h
theorem vcmpLe (d a b : BitVec 8) : Statement (.vcmpLe d a b) := fun h => absurd rfl h
theorem vcmpGt (d a b : BitVec 8) : Statement (.vcmpGt d a b) := fun h => absurd rfl h
theorem vcmpGe (d a b : BitVec 8) : Statement (.vcmpGe d a b) := fun h => absurd rfl h
theorem vcmpLtn (d a b : BitVec 8) : Statement (.vcmpLtn d a b) := fun h => absurd rfl h
theorem vcmpGen (d a b : BitVec 8) : Statement (.vcmpGen d a b) := fun h => absurd rfl h
theorem vfcmpEq (d a b : BitVec 8) : Statement (.vfcmpEq d a b) := fun h => absurd rfl h
theorem vfcmpNe (d a b : BitVec 8) : Statement (.vfcmpNe d a b) := fun h => absurd rfl h
theorem vfcmpLt (d a b : BitVec 8) : Statement (.vfcmpLt d a b) := fun h => absurd rfl h
theorem vfcmpLe (d a b : BitVec 8) : Statement (.vfcmpLe d a b) := fun h => absurd rfl h
theorem vfcmpGt (d a b : BitVec 8) : Statement (.vfcmpGt d a b) := fun h => absurd rfl h
theorem vfcmpGe (d a b : BitVec 8) : Statement (.vfcmpGe d a b) := fun h => absurd rfl h
theorem vfcmpOrd (d a b : BitVec 8) : Statement (.vfcmpOrd d a b) := fun h => absurd rfl h
theorem vfcmpUno (d a b : BitVec 8) : Statement (.vfcmpUno d a b) := fun h => absurd rfl h
theorem vcmov (d a b : BitVec 8) : Statement (.vcmov d a b) := fun h => absurd rfl h
theorem pand (d a b : BitVec 8) : Statement (.pand d a b) := fun h => absurd rfl h
theorem por (d a b : BitVec 8) : Statement (.por d a b) := fun h => absurd rfl h
theorem pxor (d a b : BitVec 8) : Statement (.pxor d a b) := fun h => absurd rfl h
theorem pnot (d a : BitVec 8) : Statement (.pnot d a) := fun h => absurd rfl h
theorem pfroms (d a : BitVec 8) (q : BitVec 2) : Statement (.pfroms d a q) := fun h => absurd rfl h
theorem ptos (d a : BitVec 8) (q : BitVec 2) : Statement (.ptos d a q) := fun h => absurd rfl h
theorem vfadd (d a b : BitVec 8) : Statement (.vfadd d a b) := fun h => absurd rfl h
theorem vfsub (d a b : BitVec 8) : Statement (.vfsub d a b) := fun h => absurd rfl h
theorem vfmul (d a b : BitVec 8) : Statement (.vfmul d a b) := fun h => absurd rfl h
theorem vfma (d a b : BitVec 8) : Statement (.vfma d a b) := fun h => absurd rfl h
theorem vfmin (d a b : BitVec 8) : Statement (.vfmin d a b) := fun h => absurd rfl h
theorem vfmax (d a b : BitVec 8) : Statement (.vfmax d a b) := fun h => absurd rfl h
theorem vfabs (d a : BitVec 8) : Statement (.vfabs d a) := fun h => absurd rfl h
theorem vfclass (d a : BitVec 8) : Statement (.vfclass d a) := fun h => absurd rfl h
theorem vhadd (d a b : BitVec 8) : Statement (.vhadd d a b) := fun h => absurd rfl h
theorem vhmul (d a b : BitVec 8) : Statement (.vhmul d a b) := fun h => absurd rfl h
theorem vhfma (d a b : BitVec 8) : Statement (.vhfma d a b) := fun h => absurd rfl h
theorem vbadd (d a b : BitVec 8) : Statement (.vbadd d a b) := fun h => absurd rfl h
theorem vbmul (d a b : BitVec 8) : Statement (.vbmul d a b) := fun h => absurd rfl h
theorem vbfma (d a b : BitVec 8) : Statement (.vbfma d a b) := fun h => absurd rfl h
theorem vhdot (d a b : BitVec 8) : Statement (.vhdot d a b) := fun h => absurd rfl h
theorem vbdot (d a b : BitVec 8) : Statement (.vbdot d a b) := fun h => absurd rfl h
theorem vdadd (d a b : BitVec 8) : Statement (.vdadd d a b) := fun h => absurd rfl h
theorem vdmul (d a b : BitVec 8) : Statement (.vdmul d a b) := fun h => absurd rfl h
theorem vdfma (d a b : BitVec 8) : Statement (.vdfma d a b) := fun h => absurd rfl h
theorem vdmin (d a b : BitVec 8) : Statement (.vdmin d a b) := fun h => absurd rfl h
theorem vdmax (d a b : BitVec 8) : Statement (.vdmax d a b) := fun h => absurd rfl h
theorem vcvt (d a : BitVec 8) (s t : BitVec 4) : Statement (.vcvt d a s t) := fun h => absurd rfl h
theorem vqnt (d a b : BitVec 8) : Statement (.vqnt d a b) := fun h => absurd rfl h
theorem vdqnt (d a b : BitVec 8) : Statement (.vdqnt d a b) := fun h => absurd rfl h
theorem vpack (d a b : BitVec 8) : Statement (.vpack d a b) := fun h => absurd rfl h
theorem vunpk (d a : BitVec 8) (f : BitVec 4) (k : BitVec 3) : Statement (.vunpk d a f k) := fun h => absurd rfl h
theorem vcbdec (d a b : BitVec 8) : Statement (.vcbdec d a b) := fun h => absurd rfl h
theorem vf2i (d a : BitVec 8) (w : BitVec 1) (t : BitVec 4) : Statement (.vf2i d a w t) := fun h => absurd rfl h
theorem vi2f (d a : BitVec 8) (t : BitVec 2) (s : BitVec 4) : Statement (.vi2f d a t s) := fun h => absurd rfl h
theorem vrnd (d a : BitVec 8) (w : BitVec 1) (m : BitVec 3) : Statement (.vrnd d a w m) := fun h => absurd rfl h
theorem vrcp (d a : BitVec 8) : Statement (.vrcp d a) := fun h => absurd rfl h
theorem vrsq (d a : BitVec 8) : Statement (.vrsq d a) := fun h => absurd rfl h
theorem vsqrt (d a : BitVec 8) : Statement (.vsqrt d a) := fun h => absurd rfl h
theorem vexp2 (d a : BitVec 8) : Statement (.vexp2 d a) := fun h => absurd rfl h
theorem vlog2 (d a : BitVec 8) : Statement (.vlog2 d a) := fun h => absurd rfl h
theorem vsin (d a : BitVec 8) : Statement (.vsin d a) := fun h => absurd rfl h
theorem vcos (d a : BitVec 8) : Statement (.vcos d a) := fun h => absurd rfl h
theorem vtanh (d a : BitVec 8) : Statement (.vtanh d a) := fun h => absurd rfl h
theorem vperm (d a b : BitVec 8) : Statement (.vperm d a b) := fun _ => ⟨rfl, nofun⟩
theorem vshfl (d a : BitVec 8) (m : BitVec 3) (r : BitVec 1) (n : BitVec 4) : Statement (.vshfl d a m r n) := fun h => absurd rfl h
theorem vred (d a : BitVec 8) (o : BitVec 4) : Statement (.vred d a o) := fun h => absurd rfl h
theorem vscan (d a : BitVec 8) (o : BitVec 4) (i r : BitVec 1) : Statement (.vscan d a o i r) := fun h => absurd rfl h
theorem vote (d a m : BitVec 8) : Statement (.vote d a m) := fun h => absurd rfl h
theorem vballot (d a : BitVec 8) (q : BitVec 2) : Statement (.vballot d a q) := fun h => absurd rfl h
theorem vmatch (d a : BitVec 8) (q : BitVec 2) : Statement (.vmatch d a q) := fun h => absurd rfl h
theorem vregrp (d : BitVec 8) (x : BitVec 1) (c : BitVec 6) (b : BitVec 8) : Statement (.vregrp d x c b) := fun h => absurd rfl h
theorem vreord (d a : BitVec 8) (x : BitVec 1) (c : BitVec 6) : Statement (.vreord d a x c) := fun h => absurd rfl h
theorem vbroad (d a b : BitVec 8) : Statement (.vbroad d a b) := fun h => absurd rfl h
theorem vld (d o : BitVec 8) (n m : BitVec 4) : Statement (.vld d o n m) := fun _ => ⟨rfl, nofun⟩
theorem vst (d o : BitVec 8) (n m : BitVec 4) : Statement (.vst d o n m) := fun _ => ⟨rfl, nofun⟩
theorem vlds (d o : BitVec 8) (n m : BitVec 4) : Statement (.vlds d o n m) := fun _ => ⟨rfl, nofun⟩
theorem vsts (d o : BitVec 8) (n m : BitVec 4) : Statement (.vsts d o n m) := fun _ => ⟨rfl, nofun⟩
theorem sld (d o : BitVec 8) (n m : BitVec 4) : Statement (.sld d o n m) := fun _ => ⟨rfl, nofun⟩
theorem sst (d o : BitVec 8) (n m : BitVec 4) : Statement (.sst d o n m) := fun _ => ⟨rfl, nofun⟩
theorem pref (o : BitVec 8) (n m : BitVec 4) : Statement (.pref o n m) := fun h => absurd rfl h
theorem pin (p o : BitVec 8) (n m : BitVec 4) : Statement (.pin p o n m) := fun h => absurd rfl h
theorem unpin (o : BitVec 8) (n m : BitVec 4) : Statement (.unpin o n m) := fun h => absurd rfl h
theorem cflush (o : BitVec 8) (n m : BitVec 4) : Statement (.cflush o n m) := fun h => absurd rfl h
theorem spill (f c : BitVec 8) (n : BitVec 4) : Statement (.spill f c n) := fun _ => ⟨rfl, nofun⟩
theorem fill (f c : BitVec 8) (n : BitVec 4) : Statement (.fill f c n) := fun _ => ⟨rfl, nofun⟩
theorem cpy (d s c q : BitVec 4) (b : BitVec 8) : Statement (.cpy d s c q b) := fun h => absurd rfl h
theorem cpys (d s : BitVec 4) (a b : BitVec 8) : Statement (.cpys d s a b) := fun h => absurd rfl h
theorem batch : Statement (.batch) := fun h => absurd rfl h
theorem waitb (a : BitVec 8) : Statement (.waitb a) := fun h => absurd rfl h
theorem bara (d a b : BitVec 8) : Statement (.bara d a b) := fun h => absurd rfl h
theorem barw (a : BitVec 8) : Statement (.barw a) := fun h => absurd rfl h
theorem bcarr (d a b : BitVec 8) : Statement (.bcarr d a b) := fun h => absurd rfl h
theorem bcwait (a b : BitVec 8) : Statement (.bcwait a b) := fun h => absurd rfl h
theorem qpush (f : BitVec 8) (m n : BitVec 4) (b : BitVec 8) : Statement (.qpush f m n b) := fun h => absurd rfl h
theorem qpop (f : BitVec 8) (m n : BitVec 4) (b : BitVec 8) : Statement (.qpop f m n b) := fun h => absurd rfl h
theorem qcfg (a b : BitVec 8) : Statement (.qcfg a b) := fun h => absurd rfl h
theorem acq : Statement (.acq) := fun h => absurd rfl h
theorem atom (s : BitVec 2) (d : BitVec 6) (q x : BitVec 1) (o : BitVec 6) (n m : BitVec 4) : Statement (.atom s d q x o n m) := fun _ => ⟨rfl, nofun⟩
theorem red (s : BitVec 2) (d : BitVec 6) (q x : BitVec 1) (o : BitVec 6) (n m : BitVec 4) : Statement (.red s d q x o n m) := fun _ => ⟨rfl, nofun⟩
theorem acas (s : BitVec 2) (d : BitVec 6) (q x : BitVec 1) (o : BitVec 6) (n m : BitVec 4) : Statement (.acas s d q x o n m) := fun _ => ⟨rfl, nofun⟩
theorem satom (s : BitVec 2) (d : BitVec 6) (q x : BitVec 1) (o : BitVec 6) (n m : BitVec 4) : Statement (.satom s d q x o n m) := fun _ => ⟨rfl, nofun⟩
theorem mwait (s : BitVec 2) (d : BitVec 6) (x : BitVec 1) (o : BitVec 6) (n : BitVec 4) (z : BitVec 1) (c : BitVec 3) : Statement (.mwait s d x o n z c) := fun h => absurd rfl h
theorem fence (k s : BitVec 2) : Statement (.fence k s) := fun h => absurd rfl h
theorem strel (s : BitVec 2) (d : BitVec 6) (x : BitVec 1) (o : BitVec 6) (n m : BitVec 4) : Statement (.strel s d x o n m) := fun _ => ⟨rfl, nofun⟩
theorem ldacq (s : BitVec 2) (d : BitVec 6) (x : BitVec 1) (o : BitVec 6) (n m : BitVec 4) : Statement (.ldacq s d x o n m) := fun _ => ⟨rfl, nofun⟩
theorem rela (r a : BitVec 8) : Statement (.rela r a) := fun h => absurd rfl h
theorem tcfg (a : BitVec 8) : Statement (.tcfg a) := fun h => absurd rfl h
theorem slcl (d a : BitVec 8) : Statement (.slcl d a) := fun h => absurd rfl h
theorem slrl (a : BitVec 8) : Statement (.slrl a) := fun h => absurd rfl h
theorem slld (s : BitVec 8) (n : BitVec 4) (b : BitVec 8) : Statement (.slld s n b) := fun h => absurd rfl h
theorem slz (a : BitVec 8) : Statement (.slz a) := fun h => absurd rfl h
theorem mxc (t p f : BitVec 8) : Statement (.mxc t p f) := fun _ => ⟨rfl, nofun⟩
theorem mxp (a : BitVec 8) : Statement (.mxp a) := fun h => absurd rfl h
theorem mxrd (d a b : BitVec 8) : Statement (.mxrd d a b) := fun _ => ⟨rfl, nofun⟩
theorem mxwr (d a b : BitVec 8) : Statement (.mxwr d a b) := fun h => absurd rfl h
theorem cbld (n : BitVec 4) (b : BitVec 8) : Statement (.cbld n b) := fun h => absurd rfl h
theorem slst (s : BitVec 8) (n : BitVec 4) (b : BitVec 8) : Statement (.slst s n b) := fun _ => ⟨rfl, nofun⟩
theorem trace (d a b : BitVec 8) : Statement (.trace d a b) := fun _ => ⟨rfl, nofun⟩
theorem beam (d a b : BitVec 8) : Statement (.beam d a b) := fun _ => ⟨rfl, nofun⟩
theorem hitrd (d a b : BitVec 8) : Statement (.hitrd d a b) := fun _ => ⟨rfl, nofun⟩
theorem fins (s : BitVec 8) (t : BitVec 4) : Statement (.fins s t) := fun h => absurd rfl h
theorem fres (s : BitVec 8) (o p : BitVec 4) : Statement (.fres s o p) := fun h => absurd rfl h
theorem fclr (s : BitVec 8) (t : BitVec 4) : Statement (.fclr s t) := fun h => absurd rfl h
theorem fcfg (m : BitVec 8) (s p : BitVec 4) : Statement (.fcfg m s p) := fun h => absurd rfl h
theorem gate (d m : BitVec 8) : Statement (.gate d m) := fun h => absurd rfl h
theorem srd (d : BitVec 8) (r : BitVec 16) : Statement (.srd d r) := fun h => absurd rfl h
theorem swr (a : BitVec 8) (r : BitVec 16) : Statement (.swr a r) := fun h => absurd rfl h
theorem tret : Statement (.tret) := fun h => absurd rfl h
theorem ctxsv (d : BitVec 8) (n : BitVec 4) (b : BitVec 8) : Statement (.ctxsv d n b) := fun h => absurd rfl h
theorem ctxrs (d : BitVec 8) (n : BitVec 4) : Statement (.ctxrs d n) := fun h => absurd rfl h
theorem ckpt : Statement (.ckpt) := fun h => absurd rfl h
theorem tlbi (x : BitVec 1) (m : BitVec 3) (a b : BitVec 8) : Statement (.tlbi x m a b) := fun h => absurd rfl h
theorem hostsig (a b : BitVec 8) : Statement (.hostsig a b) := fun h => absurd rfl h
theorem emul (o : BitVec 3) (x : BitVec 24) : Statement (.emul o x) := fun h => absurd rfl h
theorem reservedOpcode (op : BitVec 8) (payload : BitVec 24) : Statement (.reservedOpcode op payload) := fun h => absurd rfl h
theorem joinDecrement (ctx : Nat) (frame : BitVec 72) : Statement (.joinDecrement ctx frame) := fun h => absurd rfl h
theorem hoistRetire (src : Nat) : Statement (.hoistRetire src) := fun h => absurd rfl h
theorem regangMerge (src : Nat) : Statement (.regangMerge src) := fun h => absurd rfl h
theorem vregrpComplete (src : Nat) : Statement (.vregrpComplete src) := fun h => absurd rfl h
theorem loadDataReturn (flight : Nat) : Statement (.loadDataReturn flight) := fun h => absurd rfl h
theorem writePerformed (flight : Nat) : Statement (.writePerformed flight) := fun h => absurd rfl h
theorem copyComplete (flight : Nat) : Statement (.copyComplete flight) := fun h => absurd rfl h
theorem slotRelease (flight : Nat) : Statement (.slotRelease flight) := fun h => absurd rfl h
theorem slotFillComplete (flight : Nat) : Statement (.slotFillComplete flight) := fun h => absurd rfl h
theorem passComplete (flight : Nat) : Statement (.passComplete flight) := fun h => absurd rfl h
theorem slotStoreComplete (flight : Nat) : Statement (.slotStoreComplete flight) := fun h => absurd rfl h
theorem blockKill (flight : Nat) : Statement (.blockKill flight) := fun h => absurd rfl h
theorem traceComplete (flight : Nat) : Statement (.traceComplete flight) := fun h => absurd rfl h
theorem beamComplete (flight : Nat) : Statement (.beamComplete flight) := fun h => absurd rfl h
theorem hitrdComplete (flight : Nat) : Statement (.hitrdComplete flight) := fun h => absurd rfl h
theorem tileOrderOperation (flight : Nat) : Statement (.tileOrderOperation flight) := fun h => absurd rfl h
theorem translationRequest (token : Nat) : Statement (.translationRequest token) := fun h => absurd rfl h
theorem gridReady (ctx entry : Nat) : Statement (.gridReady ctx entry) := fun h => absurd rfl h
theorem gridEnd (ctx entry : Nat) : Statement (.gridEnd ctx entry) := fun h => absurd rfl h
theorem releaseVote (src : Nat) : Statement (.releaseVote src) := fun h => absurd rfl h
theorem ensignEvaluation (core : Nat) : Statement (.ensignEvaluation core) := fun h => absurd rfl h
theorem preemptSave (block : Nat) : Statement (.preemptSave block) := fun h => absurd rfl h
theorem quiesce (ctx : Nat) : Statement (.quiesce ctx) := fun h => absurd rfl h
theorem commitMarker (ctx : Nat) : Statement (.commitMarker ctx) := fun h => absurd rfl h
theorem blockPark (block : Nat) : Statement (.blockPark block) := fun h => absurd rfl h
theorem copyFail (flight : Nat) : Statement (.copyFail flight) := fun h => absurd rfl h
theorem passGrant (cluster : Nat) : Statement (.passGrant cluster) := fun h => absurd rfl h
theorem fragmentPush (flight : Nat) : Statement (.fragmentPush flight) := fun h => absurd rfl h
theorem atomicServiceRequest (cluster : Nat) : Statement (.atomicServiceRequest cluster) := fun h => absurd rfl h
theorem lineMigrate (line slice : Nat) : Statement (.lineMigrate line slice) := fun h => absurd rfl h
theorem copyByteArrival (flight element : Nat) : Statement (.copyByteArrival flight element) := fun h => absurd rfl h
theorem hostLineReread (line : Nat) : Statement (.hostLineReread line) := fun h => absurd rfl h
theorem codebookReload (block : Nat) : Statement (.codebookReload block) := fun h => absurd rfl h
theorem coremaskCommit (ctx : Nat) (mask : BitVec 192) : Statement (.coremaskCommit ctx mask) := fun h => absurd rfl h
theorem hoistLost (src : Nat) : Statement (.hoistLost src) := fun h => absurd rfl h
theorem admissionHold (core : Nat) : Statement (.admissionHold core) := fun h => absurd rfl h
theorem lateArrival (src : Nat) : Statement (.lateArrival src) := fun h => absurd rfl h
theorem pseudoChannelFailing (channel : Nat) : Statement (.pseudoChannelFailing channel) := fun h => absurd rfl h
theorem interleaveRebuild (channel : Nat) : Statement (.interleaveRebuild channel) := fun h => absurd rfl h
theorem pushDmwr (slot : Nat) (data : List Byte) : Statement (.pushDmwr slot data) := fun h => absurd rfl h
theorem pushPosted (slot : Nat) (data : List Byte) : Statement (.pushPosted slot data) := fun h => absurd rfl h
theorem activate (ctx : BitVec 6) : Statement (.activate ctx) := fun h => absurd rfl h
theorem refresh (ctx : BitVec 6) : Statement (.refresh ctx) := fun h => absurd rfl h
theorem destroy (ctx : BitVec 6) : Statement (.destroy ctx) := fun h => absurd rfl h
theorem resolveRetry (ctx : BitVec 6) (token : BitVec 16) : Statement (.resolveRetry ctx token) := fun h => absurd rfl h
theorem resolveRefuse (ctx : BitVec 6) (token : BitVec 16) : Statement (.resolveRefuse ctx token) := fun h => absurd rfl h
theorem expansionCommand (data : List Byte) (posted : Bool) : Statement (.expansionCommand data posted) := fun h => absurd rfl h
theorem expansionDone : Statement (.expansionDone) := fun h => absurd rfl h
theorem enable (value : BitVec 32) : Statement (.enable value) := fun h => absurd rfl h
theorem registerWrite (offset : Nat) (data : List Byte) : Statement (.registerWrite offset data) := fun h => absurd rfl h
theorem hostAccess (pa : Nat) (write : Bool) (data : List Byte) : Statement (.hostAccess pa write data) := fun h => absurd rfl h
theorem hostSnoop (line : Nat) : Statement (.hostSnoop line) := fun h => absurd rfl h
theorem ckptGo (ctx : Nat) : Statement (.ckptGo ctx) := fun h => absurd rfl h
theorem perstDeassert : Statement (.perstDeassert) := fun h => absurd rfl h
theorem configSpaceReady : Statement (.configSpaceReady) := fun h => absurd rfl h
theorem bar0Ready : Statement (.bar0Ready) := fun h => absurd rfl h
theorem functionLevelReset : Statement (.functionLevelReset) := fun h => absurd rfl h
theorem hotReset : Statement (.hotReset) := fun h => absurd rfl h
theorem upstreamLinkDown : Statement (.upstreamLinkDown) := fun h => absurd rfl h
theorem d3hotEntry : Statement (.d3hotEntry) := fun h => absurd rfl h
theorem d3coldEntry : Statement (.d3coldEntry) := fun h => absurd rfl h
theorem clusterClockGate (cluster : Nat) : Statement (.clusterClockGate cluster) := fun h => absurd rfl h
theorem clockStepDown (causes : BitVec 2) : Statement (.clockStepDown causes) := fun h => absurd rfl h
theorem throttleEnd : Statement (.throttleEnd) := fun h => absurd rfl h
theorem thermtrip : Statement (.thermtrip) := fun h => absurd rfl h
theorem hello (peer : BitVec 32) (dockTable : Nat) : Statement (.hello peer dockTable) := fun h => absurd rfl h
theorem timesync (value : BitVec 64) (latency : Nat) : Statement (.timesync value latency) := fun h => absurd rfl h
theorem migrate (ctx : Nat) : Statement (.migrate ctx) := fun h => absurd rfl h
theorem migack (ctx : Nat) (status : Nat) : Statement (.migack ctx status) := fun h => absurd rfl h
theorem returnCtx (ctx : Nat) : Statement (.returnCtx ctx) := fun h => absurd rfl h
theorem retdone (ctx : Nat) (generation : BitVec 32) : Statement (.retdone ctx generation) := fun h => absurd rfl h
theorem homereq (fromCompanion : Bool) (ctx : Nat) (page : BitVec 56) : Statement (.homereq fromCompanion ctx page) := fun h => absurd rfl h
theorem homedone (ctx : Nat) (page : BitVec 56) (state : Nat) : Statement (.homedone ctx page state) := fun h => absurd rfl h
theorem ckmark (ctx : Nat) (generation : BitVec 32) (bank : Nat) : Statement (.ckmark ctx generation bank) := fun h => absurd rfl h
theorem applied (ctx : Nat) (generation : BitVec 32) : Statement (.applied ctx generation) := fun h => absurd rfl h
theorem halyardReservedMessage (code : Byte) (payload : List Byte) : Statement (.halyardReservedMessage code payload) := fun h => absurd rfl h
theorem checkpointPeriod (ctx : Nat) : Statement (.checkpointPeriod ctx) := fun h => absurd rfl h
theorem flitTimeout : Statement (.flitTimeout) := fun h => absurd rfl h
theorem linkLoss : Statement (.linkLoss) := fun h => absurd rfl h
theorem clockStepUp : Statement (.clockStepUp) := fun h => absurd rfl h

end Sys2Proof.Laws.Counted
end

