-- ==== Sys2Proof/Tests/Slice0.lean ====
section
/-!
SUPPORT. Tests on small states: words of the spec and what they decode to, ill-formed words, values, and for every
statement with hypotheses a state that meets all of them (theorems wit_…; each also shows, where its effect is short enough
to compare, that the machine answers as the statement says).
-/

namespace Sys2Proof.Tests

open Sys2Proof Sys2Proof.Machine Sys2Proof.Claims

set_option Elab.async false

/-! ### Worlds of one word, and the words of one hoist -/

/-- The word alone in a one-block program, its hoist of sixteen lanes and V registers issuing, changed by `f`. -/
def world (i : Instr) (f : State → State) : State :=
  let s := State.reset.placeNew ((encode i).getD 0)
  f { s with
    cur := (0, 0)
    hoists := s.hoists.map fun h => Hoist.start h.src h.block 0 16 16 (BitVec.ofNat 72 placedPc)
    blocks := s.blocks.map fun b => { b with width := 16 } }
/-- The hoist changed. -/
def onHoist (f : Hoist → Hoist) (s : State) : State := { s with hoists := s.hoists.map f }
/-- An S register, a P register and an A register given a value. -/
def withS (n : Nat) (v : Word) : State → State := onHoist fun h => h.setS n v
def withP (n : Nat) (v : Mask) : State → State := onHoist fun h => h.putP n (fun _ => true) v.getLsbD
def withA (n : Nat) (x : AReg) : State → State := onHoist fun h => h.setA n x
/-- A window of the block's segment and a window of memory, with every permission but SYS. -/
def segWin : AReg := ⟨0x1000, 0x4000, 0, 0x5F, 0⟩
def memWin : AReg := ⟨0x2000000, 0x4000, 0, 0x1F, 0⟩
def started (i : Instr) (s : State) : Option (Env × List Saved) :=
  match issuer ((encode i).getD 0) s with
  | some e => (match e.issue i with | .ready e old => some (e, old) | _ => none)
  | none => none
def Env.of (s : State) : Env :=
  let h := Hoist.start 0 0 0 32 0 0
  ⟨s, h, ⟨0, 0, 0, 0, [], [], none, none, .running, false, false, false, false, none, []⟩, s.blockOf h, s.ctxOf h, 0, none, 0, []⟩
def heldAt (i : Instr) (s : State) : Env := ((started i s).map (·.1)).getD (Env.of s)
def beginsB (i : Instr) (s : State) : Bool :=
  match started i s with
  | some (e, old) => old.isEmpty && !e.idle i && !e.struck i && (e.hurt i).isEmpty && !e.g.refused
  | none => false
theorem begins_of {i : Instr} {s : State} (h : beginsB i s = true) : Begins i s (heldAt i s) (heldAt i s) [] := by
  unfold beginsB at h
  split at h
  · rename_i e old hs
    simp only [Bool.and_eq_true, List.isEmpty_iff, Bool.not_eq_true'] at h
    obtain ⟨⟨⟨⟨rfl, hl⟩, hk⟩, hf⟩, hr⟩ := h
    have he : heldAt i s = e := by simp [heldAt, hs]
    rw [he]
    refine ⟨?_, by simp [Env.mixed, Env.sources], hl, hk, hf, hr⟩
    unfold started at hs
    split at hs
    · rename_i e0 h0
      split at hs
      · rename_i e1 o1 h1
        cases hs
        exact ⟨e0, h0, h1⟩
      · cases hs
    · cases hs
  · cases h
/-- The words begin in their worlds. -/
def allBegin (f : State → State) (is : List Instr) : Bool := is.all fun i => beginsB i (world i f)
/-- The environment in which the word executes in its world. -/
abbrev env (i : Instr) (f : State → State) : Env := heldAt i (world i f)
/-- The word completes, or jumps, as a statement says. -/
def endsB (i : Instr) (s : State) (jump : Bool) (u : State) : Bool :=
  match exec i s with | .next t => t == ((heldAt i s).asRead []).complete i jump ((heldAt i s).unmix i [] u) | _ => false
/-- A word that begins in its world, with an effect of 05_control.md that it ends in. -/
def Controls (i : Instr) (f : State → State) (j : Bool) : Prop :=
  ∃ k, ControlEffect (env i f) i j k ∧ beginsB i (world i f) = true ∧ endsB i (world i f) j ((env i f).s.putHoist k) = true
theorem wit_nop : Controls .nop id false := ⟨_, .nop, by decide +kernel⟩
theorem wit_hintS : Controls (.hintS 1 0 0 0 0 0 0 2) id false := ⟨_, .hintS .., by decide +kernel⟩
theorem wit_hintH : Controls (.hintH 1 0 2 0 0 0 0 0 0 0 0 2) id false := ⟨_, .hintH .., by decide +kernel⟩
theorem wit_bra : Controls (.bra (-3)) id true := ⟨_, .bra _, by decide +kernel⟩
theorem wit_brz : Controls (.brz 5 6) id true := ⟨_, .brzTaken _ _ (by decide +kernel), by decide +kernel⟩
theorem wit_brz_not : Controls (.brz 5 6) (withS 5 1) false := ⟨_, .brzNot _ _ (by decide +kernel), by decide +kernel⟩
theorem wit_brnz : Controls (.brnz 5 6) (withS 5 1) true := ⟨_, .brnzTaken _ _ (by decide +kernel), by decide +kernel⟩
theorem wit_brnz_not : Controls (.brnz 5 6) id false := ⟨_, .brnzNot _ _ (by decide +kernel), by decide +kernel⟩
theorem wit_call : Controls (.call 0x7FFFFF) id true := ⟨_, .call _, by decide +kernel⟩
theorem wit_calli : Controls (.calli 5) (withS 5 0x1000040) true :=
  ⟨_, .codeJump _ 5 0 true rfl (by decide +kernel), by decide +kernel⟩
theorem wit_jmpi : Controls (.jmpi 5) (withS 5 0x1000040) true :=
  ⟨_, .codeJump _ 5 1 false rfl (by decide +kernel), by decide +kernel⟩
theorem wit_ret : Controls (.ret 95) (withS 95 0x1000040) true :=
  ⟨_, .codeJump _ 95 2 false rfl (by decide +kernel), by decide +kernel⟩
theorem wit_pad : Controls (.pad 2) id false := ⟨_, .pad _, by decide +kernel⟩
theorem wit_mark : Controls (.mark 9) id false := ⟨_, .mark _ (by decide +kernel), by decide +kernel⟩
/-- Every slice with one entry on its rejoin stack, for a JOIN at the placed word. -/
def stacked (s : State) : State := onHoist (fun h => { h with regs := { h.regs with
  slices := h.regs.slices.map fun x => { x with stack := [⟨0x400000, 5, 10⟩] } } }) s
theorem wit_mset : Controls (.mset 0 2) (stacked ∘ withP 2 6) false :=
  ⟨_, .mset _ _ 4 (.inr (.inr (by decide +kernel))) (by decide +kernel), by decide +kernel⟩
theorem wit_join : Controls .join (stacked ∘ withP 2 6) false :=
  ⟨_, .join 0x5555 (by decide +kernel) (by decide +kernel) (by decide +kernel), by decide +kernel⟩
theorem wit_mpop : Controls .mpop stacked false := ⟨_, .mpop (by decide +kernel), by decide +kernel⟩
theorem wit_msave : Controls (.msave 3) id false := ⟨_, .msave _, by decide +kernel⟩
theorem wit_mrest : Controls (.mrest 2) (withP 2 6) false :=
  ⟨_, .mrest _ 6 (by decide +kernel), by decide +kernel⟩
theorem wit_regang : Controls .regang id true := ⟨_, .regang (by decide +kernel) (by decide +kernel), by decide +kernel⟩
theorem wit_yield : Controls .yield id false := ⟨_, .yield, by decide +kernel⟩
theorem wit_chk : Controls (.chk 0) id false := ⟨_, .chk _ (by decide +kernel) (by decide +kernel), by decide +kernel⟩
theorem wit_chk_handler : Controls (.chk 9) (onHoist fun h => { h with regs := { h.regs with depth := 1 } }) false :=
  ⟨_, .chkHandler _ (by decide +kernel), by decide +kernel⟩
theorem wit_isync : Controls .isync id false := ⟨_, .isync (by decide +kernel), by decide +kernel⟩
theorem wit_waitc : Controls (.waitc 0 0 0 0) id false := by
  refine ⟨_, .waitc _ _ _ _ ?_ ?_ ?_ ?_, ?_⟩ <;> decide +kernel
/-- No lane of the hoist is active. -/
def noLanes : State → State := onHoist fun h => { h with regs := { h.regs with exec := 0 } }
theorem none_live {h : Hoist} (hx : h.regs.exec = 0) (n : Nat) : ¬ ∃ l, liveIn h n l := by
  rintro ⟨l, _, _, hl, _⟩
  simp [hx] at hl
theorem wit_brall : Controls (.brall 2 9) noLanes true :=
  ⟨_, .sliceAll _ 2 9 true rfl (by decide +kernel) (fun _ _ => .inr ⟨none_live (by decide +kernel) _, .inr ⟨rfl, fun _ _ => none_live (by decide +kernel) _⟩⟩), by decide +kernel⟩
theorem wit_brany : Controls (.brany 2 9) noLanes false :=
  ⟨_, .sliceNone _ 2 9 false rfl (fun _ _ h => h.elim (fun h => none_live (by decide +kernel) _ h.1)
    fun h => h.2.elim (fun ⟨_, _, h, _⟩ => none_live (by decide +kernel) _ h.1) fun h => absurd h.1 (by decide)), by decide +kernel⟩
/-- A word that begins in its world and raises the trap of a statement there. -/
def Traps (P : Env → Instr → Trap → Prop) (i : Instr) (f : State → State) : Prop :=
  ∃ x, P (env i f) i x ∧ beginsB i (world i f) = true ∧
    (match exec i (world i f) with
      | .next t => t == ((env i f).at ((env i f).unmix i [] (env i f).s)).takeTrap x (env i f).h ((env i f).readsOf i)
      | _ => false) = true
def full (s : State) : State := onHoist (fun h => { h with regs := { h.regs with
  slices := h.regs.slices.map fun x => { x with stack := List.replicate 32 ⟨0, 0, 15⟩ } } }) s
theorem wit_traps_calli : Traps ControlTrap (.calli 5) (withS 5 2) := ⟨_, .codeJump _ _ 0 true rfl (by decide +kernel), by decide +kernel⟩
theorem wit_traps_mark : Traps ControlTrap (.mark 9) full := ⟨_, .mark _ 0 ⟨0x1000000, false, 0, false, List.replicate 32 ⟨0, 0, 15⟩, 0⟩ (by decide +kernel) (by decide +kernel) (by decide), by decide +kernel⟩
theorem wit_traps_mset : Traps ControlTrap (.mset 0 2) id := by
  refine ⟨_, .mset _ _ 0 ?_ ?_ ?_ ?_, ?_⟩ <;> decide +kernel
theorem wit_traps_join : Traps ControlTrap .join id := ⟨_, .joinEmpty 0 (by decide +kernel) (by decide +kernel), by decide +kernel⟩
theorem wit_traps_join_other : Traps ControlTrap .join (full) := by
  refine ⟨_, .joinBad 0 ⟨0, 0, 15⟩ ?_ ?_ ?_ ?_ ?_, ?_⟩ <;> decide +kernel
theorem wit_traps_mpop : Traps ControlTrap .mpop id := ⟨_, .mpop 0 (by decide +kernel) (by decide +kernel), by decide +kernel⟩
theorem wit_traps_trap : Traps ControlTrap (.trap 7) id := ⟨_, .trap _, by decide +kernel⟩
theorem wit_traps_chk : Traps ControlTrap (.chk 7) id := by
  refine ⟨_, .chk _ 0 ⟨0x1000000, false, 0, false, [], 0⟩ ?_ ?_ ?_ ?_, ?_⟩ <;> decide +kernel
theorem wit_traps_aset : Traps ControlTrap (.aset 2 5 7) (withS 5 0x80) := ⟨_, .aset _ _ _ rfl (by decide +kernel) (by decide +kernel), by decide +kernel⟩
theorem wit_traps_aadv : Traps ControlTrap (.aadv 2 5 1) (withS 5 0x8000 ∘ withA 2 segWin) := ⟨_, .aadv _ _ _ (by decide +kernel), by decide +kernel⟩
theorem wit_traps_arestr : Traps ControlTrap (.arestr 2 3 5) (withA 3 ⟨0, 4, 5, 0, 0⟩) := ⟨_, .arestr _ _ _ (by decide +kernel), by decide +kernel⟩
theorem control_bad {r : Env} {i : Instr} (h : ((controlResult r i).any fun x => !x.1) = true) :
    ∃ x, controlResult r i = some (false, x) := by
  cases hc : controlResult r i with
  | none => simp [hc] at h
  | some x => exact ⟨x.2, by simp [hc] at h; simp [← h]⟩
theorem wit_traps_vpack : Traps ControlTrap (.vpack 2 3 5) (withS 5 0x8000) :=
  ⟨_, .control _ _ (control_bad (by decide +kernel)).choose_spec, by decide +kernel⟩
def Addresses (i : Instr) (f : State → State) : Prop :=
  ∃ d y, AddressEffect (env i f) i d y ∧ beginsB i (world i f) = true ∧ endsB i (world i f) false ((env i f).s.putHoist ((env i f).h.setA d.toNat y)) = true
theorem wit_aset : Addresses (.aset 2 5 4) (withA 2 segWin ∘ withS 5 0x12345) :=
  ⟨2, ⟨0x1000, 0x234500004000, 0, 0x5F, 0⟩, .aset _ _ _ _ (by decide) (by decide) (by decide +kernel), by decide +kernel⟩
theorem wit_aadv : Addresses (.aadv 2 5 1) (withA 2 segWin ∘ withS 5 0x4000) :=
  ⟨_, _, .aadv _ _ _ 0x4000 (by decide +kernel) (by decide) (by decide +kernel), by decide +kernel⟩
theorem wit_arestr : Addresses (.arestr 2 3 5) (withA 3 ⟨0xFFFFFFFF, 5, 5, 0x5F, 0⟩ ∘ withS 5 3) :=
  ⟨_, _, .arestr _ _ _ (by decide +kernel), by decide +kernel⟩
theorem wit_amov : Addresses (.amov 2 3) (withA 3 segWin) := ⟨_, _, .amov _ _, by decide +kernel⟩
/-- A word that begins in its world, with an effect that it ends in. -/
def Does (E : Env → Instr → State → Prop) (i : Instr) (f : State → State) : Prop :=
  ∃ u, E (env i f) i u ∧ beginsB i (world i f) = true ∧ endsB i (world i f) false u = true
def passOf (r : Env) (use : PageUse) (x : Access') : State × List Access :=
  match r.check x.window x.need x.scr use x.perLane x.align x.bytes x.positions with | .pass u acc => (u, acc) | _ => (r.s, [])
theorem passes_of {r : Env} {use : PageUse} {x : Access'}
    (h : (match r.check x.window x.need x.scr use x.perLane x.align x.bytes x.positions with | .pass _ _ => true | _ => false) = true) :
    Passes r use x (passOf r use x).1 (passOf r use x).2 := by
  unfold Passes passOf
  split at h <;> simp_all
theorem wit_vld : Does AccessEffect (.vld 5 6 3 0) (withA 3 memWin) :=
  ⟨_, .load _ .g _ _ _ _ _ rfl (passes_of (by decide +kernel)) (by decide +kernel) (by decide +kernel), by decide +kernel⟩
theorem wit_vlds : Does AccessEffect (.vlds 4 6 3 2) (withA 3 segWin) :=
  ⟨_, .load _ .s _ _ _ _ _ rfl (passes_of (by decide +kernel)) (by decide +kernel) (by decide +kernel), by decide +kernel⟩
theorem wit_sld : Does AccessEffect (.sld 5 6 3 0) (withA 3 segWin) :=
  ⟨_, .load _ .g _ _ _ _ _ rfl (passes_of (by decide +kernel)) (by decide +kernel) (by decide +kernel), by decide +kernel⟩
theorem wit_ald : Does AccessEffect (.ald 5 6 3 0) (withA 3 segWin) :=
  ⟨_, .load _ .g _ _ _ _ _ rfl (passes_of (by decide +kernel)) (by decide +kernel) (by decide +kernel), by decide +kernel⟩
theorem wit_vst : Does AccessEffect (.vst 5 6 3 0) (withA 3 memWin) :=
  ⟨_, .store _ _ _ _ _ rfl (passes_of (by decide +kernel)) (by decide +kernel), by decide +kernel⟩
theorem wit_vsts : Does AccessEffect (.vsts 5 6 3 4) (withA 3 segWin) :=
  ⟨_, .store _ _ _ _ _ rfl (passes_of (by decide +kernel)) (by decide +kernel), by decide +kernel⟩
theorem wit_sst : Does AccessEffect (.sst 5 6 3 0) (withA 3 segWin) :=
  ⟨_, .store _ _ _ _ _ rfl (passes_of (by decide +kernel)) (by decide +kernel), by decide +kernel⟩
theorem wit_ast : Does AccessEffect (.ast 5 6 3 0) (withA 3 segWin) :=
  ⟨_, .store _ _ _ _ _ rfl (passes_of (by decide +kernel)) (by decide +kernel), by decide +kernel⟩
theorem wit_pin : Does AccessEffect (.pin 1 6 3 0) (withA 3 memWin) :=
  ⟨_, .pin _ _ _ _ _ _ _ (passes_of (by decide +kernel)) rfl, by decide +kernel⟩
theorem wit_unpin : Does AccessEffect (.unpin 6 3 0) (withA 3 memWin) :=
  ⟨_, .unpin _ _ _ _ _ (passes_of (by decide +kernel)), by decide +kernel⟩
theorem wit_cflush : Does AccessEffect (.cflush 6 3 1) (withA 3 memWin) :=
  ⟨_, .cflush _ _ _ _ _ (passes_of (by decide +kernel)) (by decide +kernel) (by decide +kernel) (by decide +kernel), by decide +kernel⟩
def throughOf : SpillEnd → Option State | .through u => some u | _ => none
theorem through_of {x : SpillEnd} (h : (throughOf x).isSome = true) : x = .through ((throughOf x).get h) := by
  cases x with
  | through u => rfl
  | stopped i c => exact absurd h (by simp [throughOf])
theorem wit_spill : Does AccessEffect (.spill 4 3 2) (withA 2 segWin) := by
  refine ⟨_, .spillFill _ _ _ _ true _ _ (.inl ⟨rfl, rfl⟩) rfl ?_ ?_ ?_ ?_ ?_ ?_ (through_of ?_), ?_⟩ <;> decide +kernel
theorem wit_fill : Does AccessEffect (.fill 4 3 2) (withA 2 segWin) := by
  refine ⟨_, .spillFill _ _ _ _ false _ _ (.inr ⟨rfl, rfl⟩) rfl ?_ ?_ ?_ ?_ ?_ ?_ (through_of ?_), ?_⟩ <;> decide +kernel
theorem spans_seg {r : Env} {a : AReg} {need : List Nat} {use : PageUse} {align n : Nat} {pos : Int}
    (h : (need.all a.has && a.accessOk r.b.segSize align n pos && a.has permSCR) = true) : Spans r a need use align n pos r.s none := by
  simp only [Bool.and_eq_true] at h
  exact .segment h.1.1 h.1.2 h.2
theorem span_of {r : Env} {a : AReg} {n : Nat} {pos : Int} {rs : Option Runs} {u : State} (h : (r.spanBytes a n pos rs u).isSome = true) :
    r.spanBytes a n pos rs u = some ((r.spanBytes a n pos rs u).get h) := by simp
def gotten {ε α : Type} (d : α) : Except ε α → α | .ok x => x | .error _ => d
theorem ok_of {ε α : Type} {x : Except ε α} (d : α) (h : x.isOk = true) : x = .ok (gotten d x) := by
  cases x <;> simp_all [gotten, Except.isOk, Except.toBool]
theorem copyMay_of {r : Env} {j : CopyJob} (h : (j.src.has permCOPYSRC && j.dst.has permCOPYDST &&
    (j.bar.all fun a => a.has permATOM || a.has permSCR) && j.inBounds r.b.segSize && (r.copyScope j).isNone &&
    decide ((r.s.copiesOf r.h.src).length < 64) && decide (OwnsLines r (.copy j))) = true) : CopyMay r j := by
  simp only [Bool.and_eq_true, decide_eq_true_eq, Option.isNone_iff_eq_none] at h
  obtain ⟨⟨⟨⟨⟨⟨h1, h2⟩, h3⟩, h4⟩, h5⟩, h6⟩, h7⟩ := h
  refine ⟨h1, h2, fun a ha => ?_, h4, h5, h6, h7⟩
  rw [ha] at h3
  simpa using h3
theorem wit_cpy : Does UnitEffect (.cpy 1 2 3 4 9) (withA 1 segWin ∘ withA 2 segWin ∘ withA 4 segWin) :=
  ⟨_, .cpy _ _ _ _ _ _ _ _ _ _ _ rfl rfl (by decide +kernel) (spans_seg (by decide +kernel)) (span_of (by decide +kernel)) (by decide +kernel) rfl (by decide +kernel) (copyMay_of (by decide +kernel)) (by decide +kernel) (by decide +kernel), by decide +kernel⟩
theorem wit_cpys : Does UnitEffect (.cpys 1 2 9 10) (withA 1 segWin ∘ withA 2 segWin ∘ withS 10 0x12 ∘ withS 9 16) :=
  ⟨_, .cpys _ _ _ _ _ (by decide +kernel) rfl (copyMay_of (by decide +kernel)) (by decide +kernel), by decide +kernel⟩
theorem wit_batch : Does UnitEffect .batch id := ⟨_, .batch, by decide +kernel⟩
theorem wit_waitb : Does UnitEffect (.waitb 9) id := ⟨_, .waitb _ (by decide +kernel) (by decide +kernel), by decide +kernel⟩
theorem wit_bara : Does UnitEffect (.bara 9 10 11) (withS 10 16) := by
  refine ⟨_, .bara _ _ _ 0 ?_ ?_ ?_ ?_ ?_ ?_ ?_ ?_, ?_⟩ <;> decide +kernel
theorem wit_barw : Does UnitEffect (.barw 10) (withS 10 16) := by
  refine ⟨_, .barw _ ?_ ?_ ?_ ?_ ?_, ?_⟩ <;> decide +kernel
theorem wit_bcarr : Does UnitEffect (.bcarr 9 2 10) (withA 2 segWin ∘ withS 10 5) :=
  ⟨_, .bcarr _ _ _ _ _ _ _ rfl (by decide +kernel) (spans_seg (by decide +kernel)) (span_of (by decide +kernel)) (by decide +kernel) (by decide +kernel), by decide +kernel⟩
theorem wit_bcwait : Does UnitEffect (.bcwait 2 10) (withA 2 segWin ∘ withS 10 0xFFFFFFFF) :=
  ⟨_, .bcwait _ _ _ _ _ _ rfl (by decide +kernel) (spans_seg (by decide +kernel)) (by decide +kernel) (span_of (by decide +kernel)) (by decide +kernel), by decide +kernel⟩
theorem wit_qpush : Does UnitEffect (.qpush 4 0 2 10) (withA 2 segWin ∘ withS 11 0x400000) := by
  refine ⟨_, .qpush _ _ _ _ _ _ _ _ _ rfl ?_ (.segment _ rfl ?_ ?_ ?_ ?_ ?_) ?_ (ok_of (0, State.reset) ?_) ?_, ?_⟩ <;> decide +kernel
theorem wit_qpop : Does UnitEffect (.qpop 4 0 2 10) (withA 2 segWin ∘ withS 11 0x400000) := by
  refine ⟨_, .qpop _ _ _ _ _ _ _ _ _ rfl ?_ (.segment _ rfl ?_ ?_ ?_ ?_ ?_) ?_ (ok_of ([], State.reset) ?_) ?_ ?_, ?_⟩ <;> decide +kernel
theorem wit_qcfg : Does UnitEffect (.qcfg 2 10) (withA 2 segWin ∘ withS 11 0x400000) := by
  refine ⟨_, .qcfg _ _ _ _ _ _ _ _ rfl rfl (.segment _ rfl ?_ ?_ ?_ ?_ ?_) (spans_seg ?_) ?_, ?_⟩ <;> decide +kernel
def onBlock (f : Block → Block) (s : State) : State := { s with blocks := s.blocks.map f }
theorem wit_acq : Does UnitEffect .acq id := ⟨_, .acqFull (by decide +kernel), by decide +kernel⟩
theorem wit_acq_takes : Does UnitEffect .acq (onBlock fun b => { b with full := false, reserved := true }) :=
  ⟨_, .acqTakes (by decide +kernel) (.inl (by decide +kernel)), by decide +kernel⟩
theorem wit_rela : Does UnitEffect (.rela 0 9) (withS 9 16) :=
  ⟨_, .rela _ _ _ (by decide +kernel) rfl (by decide +kernel) (by decide +kernel), by decide +kernel⟩
theorem wit_atom : Does OrderEffect (.atom 0 4 0 0 6 3 0) (withA 3 segWin) :=
  ⟨_, .atomic _ _ _ _ _ _ _ _ _ _ rfl (by decide +kernel) (passes_of (by decide +kernel)) (by decide +kernel) (by decide +kernel)
    (by decide +kernel) (by decide +kernel) (by decide +kernel) rfl rfl (by decide +kernel) rfl (by decide +kernel)
    (by decide +kernel) (by decide +kernel), by decide +kernel⟩
theorem wit_red : Does OrderEffect (.red 2 4 1 0 6 3 0) (withA 3 memWin) :=
  ⟨_, .atomic _ _ _ _ _ _ _ _ _ _ rfl (by decide +kernel) (passes_of (by decide +kernel)) (by decide +kernel) (by decide +kernel)
    (by decide +kernel) (by decide +kernel) (by decide +kernel) rfl rfl (by decide +kernel) rfl (by decide +kernel)
    (by decide +kernel) (by decide +kernel), by decide +kernel⟩
theorem wit_acas : Does OrderEffect (.acas 0 4 0 0 6 3 0) (withA 3 segWin) :=
  ⟨_, .atomic _ _ _ _ _ _ _ _ _ _ rfl (by decide +kernel) (passes_of (by decide +kernel)) (by decide +kernel) (by decide +kernel)
    (by decide +kernel) (by decide +kernel) (by decide +kernel) rfl rfl (by decide +kernel) rfl (by decide +kernel)
    (by decide +kernel) (by decide +kernel), by decide +kernel⟩
theorem wit_satom : Does OrderEffect (.satom 0 4 0 0 6 3 15) (withA 3 segWin) :=
  ⟨_, .atomic _ _ _ _ _ _ _ _ _ _ rfl (by decide +kernel) (passes_of (by decide +kernel)) (by decide +kernel) (by decide +kernel)
    (by decide +kernel) (by decide +kernel) (by decide +kernel) rfl rfl (by decide +kernel) rfl (by decide +kernel)
    (by decide +kernel) (by decide +kernel), by decide +kernel⟩
theorem wit_strel : Does OrderEffect (.strel 3 4 0 6 3 0) (withA 3 memWin) :=
  ⟨_, .strel _ _ _ _ _ _ _ _ _ _ _ rfl rfl (passes_of (by decide +kernel)) (by decide +kernel) (by decide +kernel) (by decide +kernel) (by decide +kernel) rfl, by decide +kernel⟩
theorem wit_ldacq : Does OrderEffect (.ldacq 3 4 0 6 3 0) (withA 3 memWin) :=
  ⟨_, .ldacq _ _ _ _ _ _ _ _ _ _ _ rfl rfl (passes_of (by decide +kernel)) (by decide +kernel) rfl (by decide +kernel), by decide +kernel⟩
theorem wit_fence_acq : Does OrderEffect (.fence 1 2) id := ⟨_, .fenceAcq _ (by decide +kernel) (by decide +kernel), by decide +kernel⟩
theorem wit_fence : Does OrderEffect (.fence 3 3) id := by
  refine ⟨_, .fenceRel _ _ ?_ ?_ ?_ ?_ ?_ ?_, ?_⟩ <;> decide +kernel
theorem wit_mwait : Does OrderEffect (.mwait 3 4 0 6 3 0 0) (withA 3 memWin) := by
  refine ⟨_, .mwait _ _ _ _ _ _ _ _ _ _ _ _ rfl rfl (passes_of ?_) ?_ ?_ ?_ ?_ ?_ rfl ?_ ?_ ?_ ?_, ?_⟩ <;> decide +kernel
def slotted (s : State) : State := onBlock (fun b => { b with slots := [⟨1, 0, false, []⟩, ⟨2, 1, false, []⟩], tiles := [], accSize := 8192, vcnt := 16 }) s
theorem wit_tcfg : Does CubeEffect (.tcfg 9) (withS 9 0x100) := ⟨_, .tcfg _ (by decide +kernel) (by decide +kernel) (by decide +kernel), by decide +kernel⟩
theorem wit_slcl_held : Does CubeEffect (.slcl 8 9) (slotted ∘ withS 9 1) := by
  refine ⟨_, .slclHeld _ _ 1 ?_ ?_ ?_ ?_, ?_⟩ <;> decide +kernel
theorem wit_slcl : Does CubeEffect (.slcl 8 9) (slotted ∘ withS 9 127) := by
  refine ⟨_, .slclTakes _ _ 127 2 ?_ ?_ ?_ ?_ ?_, ?_⟩ <;> decide +kernel
theorem wit_slrl_none : Does CubeEffect (.slrl 9) (slotted ∘ withS 9 3) := ⟨_, .slrlNone _ 3 (by decide +kernel) (by decide +kernel) (by decide +kernel), by decide +kernel⟩
theorem wit_slrl : Does CubeEffect (.slrl 9) (slotted ∘ withS 9 1) := by
  refine ⟨_, .slrlNow _ 1 ?_ ?_ ?_ ?_, ?_⟩ <;> decide +kernel
theorem wit_slz : Does CubeEffect (.slz 9) (slotted ∘ withS 9 1) := by
  refine ⟨_, .slz _ 1 ?_ ?_ ?_ ?_, ?_⟩ <;> decide +kernel
theorem wit_slld : Does CubeEffect (.slld 9 3 10) (slotted ∘ withS 9 0x4001 ∘ withA 3 segWin) := by
  refine ⟨_, .slld _ _ _ 1 64 ?_ ?_ ?_ ?_, ?_⟩ <;> decide +kernel
theorem wit_slst : Does CubeEffect (.slst 9 3 10) (slotted ∘ withS 9 0x4001 ∘ withA 3 segWin) := by
  refine ⟨_, .slst _ _ _ 1 64 ?_ ?_ ?_ ?_ ?_ ?_, ?_⟩ <;> decide +kernel
theorem wit_mxc : Does CubeEffect (.mxc 9 10 11) (slotted ∘ withS 9 1 ∘ withS 10 0x0201) := by
  refine ⟨_, .mxc _ _ _ _ _ _ _ _ rfl rfl ?_ ?_ ?_ ?_ ?_ ?_ ?_ ?_ ?_ rfl rfl ?_ ?_ ?_ rfl, ?_⟩ <;> decide +kernel
theorem wit_mxp : Does CubeEffect (.mxp 9) (slotted ∘ withS 9 1) := ⟨_, .mxp _ (by decide +kernel), by decide +kernel⟩
theorem wit_mxrd : Does CubeEffect (.mxrd 8 9 10) (slotted ∘ withS 9 1 ∘ withS 10 0x33C) := by
  refine ⟨_, .mxrd _ _ _ _ _ _ _ rfl rfl rfl rfl ?_ ?_ ?_ ?_ ?_ ?_, ?_⟩ <;> decide +kernel
theorem wit_mxwr : Does CubeEffect (.mxwr 8 9 10) (slotted ∘ withS 9 1 ∘ withS 10 0x33C) := by
  refine ⟨_, .mxwr _ _ _ _ _ _ _ rfl rfl rfl rfl ?_ ?_ ?_ ?_ ?_ ?_, ?_⟩ <;> decide +kernel
theorem wit_cbld : Does CubeEffect (.cbld 3 9) (withA 3 segWin) :=
  ⟨_, .cbld _ _ _ _ _ _ _ rfl rfl (by decide +kernel) (spans_seg (by decide +kernel)) (span_of (by decide +kernel)), by decide +kernel⟩
theorem wit_trace : Does QueryEffect (.trace 4 8 9) (withS 9 0x53 ∘ withA 3 memWin) :=
  ⟨_, .trace _ _ _ _ rfl (by decide +kernel) (by decide +kernel) (by decide +kernel), by decide +kernel⟩
theorem wit_hitrd : Does QueryEffect (.hitrd 4 8 9) (withS 9 0x43 ∘ withA 3 memWin) := by
  refine ⟨_, .hitrd _ _ _ _ rfl ?_ ?_ ?_ ?_, ?_⟩ <;> decide +kernel
theorem wit_beam : Does QueryEffect (.beam 8 10 9) (withS 9 0x443 ∘ withA 3 memWin ∘ withA 4 segWin ∘ withS 11 0x0C400000) := by
  refine ⟨_, .beam _ _ _ _ _ _ _ _ _ ?_ rfl ?_ rfl rfl rfl rfl ?_ ?_ ?_ ?_ ?_ ?_ ?_ ?_ ?_ ?_ ?_ (span_of ?_) ?_ ?_, ?_⟩ <;> decide +kernel
/-- The group waits with a beam whose descriptor it has read. -/
def beamed : State → State := onHoist fun h => h.updGroup 0 fun g => { g with beam := some ⟨[], memWin, segWin, 0, 8, none, 0, 0⟩ }
theorem wit_beam_waited : Does QueryEffect (.beam 8 10 9) beamed :=
  ⟨_, .beamWaited _ _ _ ⟨[], memWin, segWin, 0, 8, none, 0, 0⟩ (by decide +kernel) (by decide +kernel), by decide +kernel⟩
def poolWin : AReg := ⟨0x2000000, 0x5000, 0x3000, 0x1F, 0⟩
def tailWin : AReg := ⟨0x2000000, 0x5000, 0x1000, 0x1F, 0⟩
/-- Bytes of memory given. -/
def withMem (a : Nat) (b : List Byte) (s : State) : State := { s with mem := s.mem.writeBytes a b }
/-- A 4 × 4 target at 0x2000000 whose pool at 0x2001000 has no free node. -/
def target (valid : Byte) (s : State) : State :=
  withMem 0x2000000 (natLe 8 0x20100 ++ natLe 2 4 ++ natLe 2 4 ++ [2] ++ natLe 3 0 ++ natLe 8 0x20010 ++ natLe 39 0 ++ [valid])
    (withMem 0x2001000 (natLe 8 0x20020 ++ natLe 4 0 ++ natLe 4 2 ++ natLe 47 0 ++ [0x80]) s)
theorem range_of {x : Except RangeFault Runs × State} (h : x.1.isOk = true) : x = (.ok (gotten [] x.1), x.2) := by
  rw [← ok_of [] h]
theorem get_of {x : Except RangeFault (List Byte × State)} (h : x.isOk = true) :
    x = .ok ((gotten ([], State.reset) x).1, (gotten ([], State.reset) x).2) := ok_of _ h
theorem spans_mem {r : Env} {a : AReg} {need : List Nat} {use : PageUse} {align n : Nat} {pos : Int}
    (h : (need.all a.has && a.accessOk r.b.segSize align n pos && !a.has permSCR && !r.g.refused &&
      (r.s.range (r.who use) r.c use a.rights (a.address pos) n).1.isOk) = true) :
    Spans r a need use align n pos (r.s.range (r.who use) r.c use a.rights (a.address pos) n).2
      (some (gotten [] (r.s.range (r.who use) r.c use a.rights (a.address pos) n).1)) := by
  simp only [Bool.and_eq_true, Bool.not_eq_true'] at h
  obtain ⟨⟨⟨⟨h1, h2⟩, h3⟩, h4⟩, h5⟩ := h
  exact .memory _ _ h1 h2 h3 h4 (range_of h5)
theorem steps_of {α : Type} {x : Option α × State} (h : x.1.isNone = true) : x = (none, x.2) := by
  rw [← Option.isNone_iff_eq_none.1 h]
theorem steps3_of {α β : Type} {x : Option α × β × State} (h : x.1.isNone = true) : x = (none, x.2.1, x.2.2) := by
  rw [← Option.isNone_iff_eq_none.1 h]
theorem wit_fclr : Does QueryEffect (.fclr 8 3) (target 0x80 ∘ withA 3 memWin) :=
  ⟨_, .fclr _ _ _ _ _ _ _ (.mk _ _ _ _ _ _ (by decide +kernel) (by decide +kernel) (fun _ h => by cases h) (by decide +kernel) (by decide +kernel) (spans_mem (by decide +kernel)) (span_of (by decide +kernel)) (get_of (by decide +kernel)) rfl (by decide +kernel) (by decide +kernel) (by decide +kernel) (by decide +kernel) (by decide +kernel) (by decide +kernel)) rfl (steps_of (by decide +kernel)), by decide +kernel⟩
theorem wit_fres : Does QueryEffect (.fres 8 2 3) (target 0x80 ∘ withA 3 memWin ∘ withA 2 poolWin) :=
  ⟨_, .fres _ _ _ _ _ _ _ _ (.mk _ _ _ _ _ _ (by decide +kernel) (by decide +kernel) (fun _ h => by cases h; decide +kernel) (by decide +kernel) (by decide +kernel) (spans_mem (by decide +kernel)) (span_of (by decide +kernel)) (get_of (by decide +kernel)) rfl (by decide +kernel) (by decide +kernel) (by decide +kernel) (by decide +kernel) (by decide +kernel) (by decide +kernel)) (by decide +kernel) (by decide +kernel) rfl (by decide +kernel) (steps_of (by decide +kernel)), by decide +kernel⟩
def freeOf (x : Except RangeFault (List Nat × Nat × State)) : List Nat × Nat × State := gotten ([], 0, State.reset) x
theorem free_of {x : Except RangeFault (List Nat × Nat × State)} (h : x.isOk = true) :
    x = .ok ((freeOf x).1, (freeOf x).2.1, (freeOf x).2.2) := ok_of _ h
def priv : State → State := onHoist fun h => { h with role := .ensign }
theorem wit_fins : Does QueryEffect (.fins 8 3) (target 0x80 ∘ withA 3 memWin ∘ onHoist fun h => { h with regs := { h.regs with v := h.regs.v.set 9 ⟨.u, List.replicate 16 0x7FC00000⟩ } }) :=
  ⟨_, .fins _ _ _ _ _ _ _ _ _ _ _ _ _ (.mk _ _ _ _ _ _ (by decide +kernel) (by decide +kernel) (fun _ h => by cases h) (by decide +kernel) (by decide +kernel) (spans_mem (by decide +kernel)) (span_of (by decide +kernel)) (get_of (by decide +kernel)) rfl (by decide +kernel) (by decide +kernel) (by decide +kernel) (by decide +kernel) (by decide +kernel) (by decide +kernel)) rfl rfl (by decide +kernel) (free_of (by decide +kernel)) (ok_of State.reset (by decide +kernel)) (steps3_of (by decide +kernel)), by decide +kernel⟩
def doneOf (d : State) : Res → State | .done s => s | _ => d
theorem done_of {x : Res} (h : (match x with | .done _ => true | _ => false) = true) : x = .done (doneOf State.reset x) := by
  cases x <;> simp_all [doneOf]
def describedOf (r : Env) (va : VAddr) : Env × List Byte :=
  match r.s.translate (coreOf r.h.src) r.c va.toNat with
  | (.ok pa _ _ _, u) => (r.at u, u.loadRuns r.h.src r.b.id [(pa, 64)])
  | _ => (r, [])
theorem described_of {r : Env} {va : VAddr}
    (h : (match r.s.translate (coreOf r.h.src) r.c va.toNat with
      | (.ok pa _ _ _, u) => (u.outsideHold (r.who .load) (pa / 64)).isNone && !u.owned (r.who .load) [(pa, 64)] && !u.poisoned pa 64
      | _ => false) = true) :
    Described r va (describedOf r va).1 (describedOf r va).2 := by
  unfold describedOf
  rcases hx : r.s.translate (coreOf r.h.src) r.c va.toNat with ⟨x, u⟩
  rw [hx] at h
  cases x with
  | ok pa leaf k entry =>
    simp only [Bool.and_eq_true, Bool.not_eq_true', Option.isNone_iff_eq_none] at h
    exact .mk _ _ _ _ _ hx h.1.1 h.1.2 h.2
  | _ => cases h
theorem reached_of {r : Env} {xs : List (PageUse × Rights × VAddr × Nat)} (h : ((unitsFault (r.rangeUnits xs).1).isNone && !r.g.refused) = true) :
    Reached r xs (r.at (r.rangeUnits xs).2) := by
  simp only [Bool.and_eq_true, Bool.not_eq_true', Option.isNone_iff_eq_none] at h
  exact .mk _ _ rfl h.1 h.2
theorem wit_fcfg_pool : Does QueryEffect (.fcfg 0 2 3) (priv ∘ withA 3 memWin ∘ withA 2 poolWin) :=
  ⟨_, .fcfgPool _ _ _ _ _ _ _ _ _ _ rfl rfl rfl (by decide +kernel) (by decide +kernel) (by decide +kernel) rfl rfl (by decide +kernel) (by decide +kernel) (by decide +kernel) rfl (reached_of (by decide +kernel)) (by decide +kernel) (done_of (by decide +kernel)), by decide +kernel⟩
/-- The same, where the effect is too long to be compared here. -/
def MayDo (E : Env → Instr → State → Prop) (i : Instr) (f : State → State) : Prop :=
  ∃ u, E (env i f) i u ∧ beginsB i (world i f) = true
theorem wit_fcfg_grow : MayDo QueryEffect (.fcfg 1 2 3) (priv ∘ target 0x80 ∘ withA 3 tailWin ∘ withA 2 poolWin) :=
  ⟨_, .fcfgGrow _ _ _ _ _ _ _ _ _ _ _ _ _ rfl rfl rfl (by decide +kernel) (by decide +kernel) (by decide +kernel) rfl rfl (by decide +kernel) (by decide +kernel) (by decide +kernel) (described_of (by decide +kernel)) rfl rfl (reached_of (by decide +kernel)) (by decide +kernel) (by decide +kernel) (by decide +kernel) (done_of (by decide +kernel)), by decide +kernel⟩
theorem wit_fcfg_target : Does QueryEffect (.fcfg 2 0 3) (priv ∘ target 0 ∘ withA 3 memWin) := by
  refine ⟨_, .fcfgTarget _ _ _ _ _ _ _ _ _ _ _ _ _ rfl rfl ?_ ?_ rfl ?_ (described_of ?_) rfl rfl (reached_of ?_) (described_of ?_) ?_ ?_ ?_ ?_ ?_ ?_ ?_ ?_ ?_ ?_ ?_ ?_ (done_of ?_), ?_⟩ <;> decide +kernel
/-! ### System words -/

def onCtx (f : Ctx → Ctx) (s : State) : State := { s with ctxs := s.ctxs.map f }
theorem wit_gate : Does SystemEffect (.gate 9 1) priv := ⟨_, .gate _ _ _ rfl, by decide +kernel⟩
theorem wit_srd : Does SystemEffect (.srd 9 3) (priv ∘ onCtx fun c => { c with lease := 77 }) := ⟨_, .srd _ _ (.inl (by decide +kernel)), by decide +kernel⟩
def elsewhere (s : State) : State := { onHoist (fun h => { h with role := .ensign, ctxsel := 9 }) s with blocks := [] }
theorem wit_srd_open : MayDo SystemEffect (.srd 9 3) elsewhere := ⟨_, .srdOpen _ _ (by decide +kernel) (by decide), by decide +kernel⟩
theorem wit_swr : Does SystemEffect (.swr 9 3) (priv ∘ withS 9 65535) := ⟨_, .swr _ _ (by decide +kernel), by decide +kernel⟩
theorem wit_swr_mode : Does SystemEffect (.swr 9 1) (priv ∘ withS 9 2) := ⟨_, .swr _ _ (by decide +kernel), by decide +kernel⟩
def mirror0 : Mirror := (State.reset.dock 0).mirror 0
theorem wit_ckpt_none : Does SystemEffect .ckpt priv := ⟨_, .ckptNone (by decide +kernel) (by decide +kernel), by decide +kernel⟩
theorem wit_ckpt : Does SystemEffect .ckpt (priv ∘ onCtx fun c => { c with mirror := some mirror0 }) := ⟨_, .ckpt mirror0 (by decide +kernel) (by decide +kernel) (by decide +kernel), by decide +kernel⟩
theorem wit_tlbi : Does SystemEffect (.tlbi 0 1 8 9) (priv ∘ withS 9 65536) := by
  refine ⟨_, .tlbi _ _ _ _ _ _ rfl rfl ?_ ?_ ?_ ?_, ?_⟩ <;> decide +kernel
theorem wit_hostsig : Does SystemEffect (.hostsig 9 10) (withS 9 31 ∘ withS 10 7) :=
  ⟨_, .hostsig _ _ _ (by decide +kernel) (by decide +kernel) (by decide +kernel) rfl (.inl (by decide +kernel)) (by decide +kernel), by decide +kernel⟩
theorem wit_hostsig_held : Does SystemEffect (.hostsig 9 10) (withS 9 31 ∘ onCtx fun c => { c with mirror := some mirror0 }) :=
  ⟨_, .hostsigHeld _ _ _ (by decide +kernel) (by decide +kernel) (by decide +kernel) rfl (by decide +kernel) (by decide +kernel) (by decide +kernel), by decide +kernel⟩
def sysWin : AReg := ⟨0x3000000, 0x8000, 0, 0x9F, 0⟩
theorem wit_ctxsv_none : Does SystemEffect (.ctxsv 9 3 10) (priv ∘ withA 3 sysWin ∘ withS 10 63) := by
  refine ⟨_, .ctxsvNone _ _ _ ?_ ?_ ?_ ?_ ?_ ?_, ?_⟩ <;> decide +kernel
/-- A second block of the context, one hoist in slot 5. -/
def neighbour : Block := { placedBlock 77 with width := 16, segSize := 0, vcnt := 4, vregs := 4, prologue := 4 }
def beside (s : State) : State := { s with
  blocks := s.blocks ++ [neighbour]
  hoists := s.hoists ++ [Hoist.start 5 77 0 16 4 0x1000040] }
theorem wit_ctxsv : MayDo SystemEffect (.ctxsv 9 3 10) (beside ∘ withMem (0x10000 + 192) (natLe 4 0x8000) ∘ priv ∘ withA 3 sysWin ∘ withS 10 5) := by
  refine ⟨_, .ctxsv _ _ _ _ { neighbour with residency := .running } _ { neighbour with residency := .stopping 6 } _ _ _ ?_ rfl ?_ ?_ ?_ ?_ ?_ rfl ?_ ?_ ?_ rfl ?_ ?_ (range_of ?_), ?_⟩ <;> decide +kernel
theorem wit_ctxrs : Does SystemEffect (.ctxrs 9 3) (priv ∘ withA 3 sysWin ∘ withMem 0x3000013 [9]) :=
  ⟨_, .ctxrs _ _ _ _ _ _ rfl (by decide +kernel) (spans_mem (by decide +kernel)) (span_of (by decide +kernel)) (by decide +kernel) (by decide +kernel), by decide +kernel⟩
/-- A word that begins in its world and jumps as a statement says. -/
def JumpsTo (E : Env → State → Prop) (i : Instr) (f : State → State) : Prop :=
  ∃ u, E (env i f) u ∧ beginsB i (world i f) = true ∧ endsB i (world i f) true u = true
def inHandler (slices : Nat) (s : State) : State := withA 15 segWin (withS 93 0x100 (onHoist (fun h => { h with regs := { h.regs with depth := 1 } })
  (onBlock (fun b => { b with scratch := b.scratch.writeBytes 0x1100 (natLe 9 0x1000080 ++ natLe 3 0 ++ natLe 4 slices ++ natLe 16 0 ++ natLe 16 0x1234) }) s)))
theorem wit_tret : JumpsTo ReturnEffect .tret (inHandler 15) :=
  ⟨_, .mk _ _ _ (by decide +kernel) (spans_seg (by decide +kernel)) (span_of (by decide +kernel)) (by decide +kernel), by decide +kernel⟩
theorem wit_tret_bad : Traps (fun r i x => x = { cls := .illop } ∧ ∃ u rs f, Clear r ((r.h.areg 15).ranges (((r.h.areg 15).cursor.toNat : Int) + (r.h.sreg 93).toInt) 128) ∧
    Spans r (r.h.areg 15) [permR] .load 1 128 (((r.h.areg 15).cursor.toNat : Int) + (r.h.sreg 93).toInt) u rs ∧
    r.spanBytes (r.h.areg 15) 128 (((r.h.areg 15).cursor.toNat : Int) + (r.h.sreg 93).toInt) rs u = some f ∧
    r.returnable f = false ∧ i = .tret) .tret (inHandler 14) :=
  ⟨_, ⟨rfl, _, _, _, by decide +kernel, spans_seg (by decide +kernel), span_of (by decide +kernel), by decide +kernel, rfl⟩, by decide +kernel⟩

/-! ### Results -/

/-- A word that begins in its world, where a condition holds. -/
def When (P : Env → Prop) (i : Instr) (f : State → State) : Prop := P (env i f) ∧ beginsB i (world i f) = true
theorem wit_exit : When MayExit .exit id := ⟨⟨by decide +kernel, by decide +kernel, by decide +kernel, by decide +kernel⟩, by decide +kernel⟩
theorem wit_vregrp : When (fun r => Regroups r 4 2 true 9 1 ∧ (r.s.hoistsOf r.b.id).filter (fun h => (1 : Word).getLsbD h.index) = [r.h]) (.vregrp 4 1 1 9) (withS 9 1) := by
  refine ⟨⟨⟨?_, ?_, ?_, ?_, ?_, ?_, ?_, ?_, fun h hm hne => absurd hm (by revert h; decide +kernel)⟩, ?_⟩, ?_⟩ <;> decide +kernel
/-- A word begins in its world, and its statement gives it a result there. -/
def resultB (f : State → State) (i : Instr) : Bool :=
  let r := env i f
  beginsB i (world i f) && ((scalarResult r i).isSome || (vectorResult r i).isSome || (predicateResult r i).isSome ||
    (floatResult r i).isSome || (convertResult r i).isSome || (controlResult r i).any (·.1) || (floatCompare i).isSome ||
    (crossResult r i).isSome)
theorem wit_scalar : ([.sadd 4 5 6, .ssub 4 5 6, .smul 4 5 6, .smulh 4 5 6, .smad 4 5 6, .sand 4 5 6, .sor 4 5 6, .sxor 4 5 6,
    .sshl 4 5 6, .sshr 4 5 6, .ssra 4 5 6, .smin 4 5 6, .smax 4 5 6, .sminn 4 5 6, .smaxn 4 5 6, .saddi 3 4 0x80, .smovi 2 0x8000,
    .smovhi 2 0xFFFF, .scmp 4 5 7, .ssel 4 5 6, .spop 4 5, .sclz 4 5, .sbfe 4 5 6, .smov 151 5] : List Instr).all (resultB id) = true := by
  decide +kernel
theorem wit_vector : ([.vadd 4 5 1, .vsub 4 1 2, .vmul 4 1 5, .vmulh 4 5 6, .vmulhn 4 5 6, .vmad 4 1 5, .vand 4 5 6, .vor 4 5 6,
    .vxor 4 5 6, .vshl 4 5 1, .vshr 4 5 6, .vsra 4 5 6, .vmin 4 5 6, .vmax 4 5 6, .vminn 4 5 6, .vmaxn 4 5 6, .vabs 4 9, .vpop 4 9,
    .vclz 4 9, .vbfe 4 5 6, .vbfi 4 5 6, .vmov 4 1, .vmovi 4 0x8000, .vbcast 4 5, .viota 4 5 6, .vaddi 4 1 0x80, .vshli 4 5 31,
    .vcmov 4 1 6] : List Instr).all (resultB id) = true := by decide +kernel
theorem wit_predicate : ([.vcmpEq 4 5 6, .vcmpNe 4 5 6, .vcmpLt 4 5 6, .vcmpLe 4 5 6, .vcmpGt 4 5 6, .vcmpGe 4 5 6, .vcmpLtn 4 5 6,
    .vcmpGen 4 5 6, .pand 4 5 6, .por 4 5 6, .pxor 4 5 6, .pnot 4 5, .pfroms 4 5 0, .vfcmpEq 4 5 6, .vfcmpNe 4 5 6, .vfcmpLt 4 5 6,
    .vfcmpLe 4 5 6, .vfcmpGt 4 5 6, .vfcmpGe 4 5 6, .vfcmpOrd 4 5 6, .vfcmpUno 4 5 6] : List Instr).all (resultB id) = true := by
  decide +kernel
theorem wit_float : ([.vfadd 4 5 6, .vfsub 4 5 6, .vfmul 4 5 6, .vfma 4 5 6, .vfmin 4 5 6, .vfmax 4 5 6, .vhadd 4 5 6, .vhmul 4 5 6,
    .vhfma 4 5 6, .vbadd 4 5 6, .vbmul 4 5 6, .vbfma 4 5 6, .vhdot 4 5 6, .vbdot 4 5 6, .vdadd 4 6 8, .vdmul 4 6 8, .vdfma 4 6 8,
    .vdmin 4 6 8, .vdmax 4 6 8, .vrcp 4 5, .vrsq 4 5, .vsqrt 4 5, .vexp2 4 5, .vlog2 4 5, .vsin 4 5, .vcos 4 5, .vtanh 4 5] :
    List Instr).all (resultB id) = true := by decide +kernel
theorem wit_convert : ([.vcvt 4 6 3 2, .vunpk 4 5 4 2, .vf2i 4 6 1 0, .vf2i 4 6 0 7, .vi2f 4 6 1 6, .vrnd 4 6 1 0, .vpack 4 5 6,
    .vqnt 4 5 6, .vdqnt 4 5 6, .vshfl 4 5 3 1 2, .vbroad 4 5 6] : List Instr).all (resultB id) = true := by decide +kernel
theorem wit_begins : allBegin id [.aget 8 2 4, .ptos 8 2 0, .vballot 8 2 0, .vred 8 4 0, .vaddc 4 6 8, .vmatch 4 5 0, .vote 4 5 0,
    .vfabs 4 5, .vfclass 4 5, .vcbdec 4 5 6, .vperm 4 5 6, .vscan 4 5 0 1 0, .vreord 4 5 1 2, .bra 5, .call 5, .pref 4 3 0, .exit,
    .vfmin 4 5 6, .mpop] = true := by decide +kernel
/-- Lane 0 and lane 4 of the hoist have the bit of p2. -/
theorem wit_vote : When (fun r => voteIs r (r.h.preg 2) 0 true) (.vote 4 2 0) (withP 2 0x11) :=
  ⟨⟨fun _ => ⟨0, by decide +kernel, by decide +kernel⟩, fun _ => rfl⟩, by decide +kernel⟩
theorem wit_ptos : When (fun r => ∀ j, j < 32 → (0x11 : Word).getLsbD j = (r.h.laneIn r.g.id (32 * (0 : BitVec 2).toNat + j) &&
    (r.h.preg 2).getLsbD (32 * (0 : BitVec 2).toNat + j))) (.ptos 8 2 0) (withP 2 0x11) := ⟨by decide +kernel, by decide +kernel⟩
theorem wit_ballot : When (fun r => ∀ j, j < 32 → (0x11 : Word).getLsbD j = (r.h.active r.g.id (32 * (0 : BitVec 2).toNat + j) &&
    (r.h.preg 2).getLsbD (32 * (0 : BitVec 2).toNat + j))) (.vballot 8 2 0) (withP 2 0x11) := ⟨by decide +kernel, by decide +kernel⟩
theorem wit_aget : When (fun r => partRead (r.h.areg 2) 3 0x4000) (.aget 8 2 3) (withA 2 segWin) :=
  ⟨by decide +kernel, by decide +kernel⟩
theorem wit_match : When (fun r => ∃ f : Nat → Word, ∀ l j, j < 32 → (f l).getLsbD j =
    (r.h.active r.g.id (32 * (0 : BitVec 2).toNat + j) && r.h.vword 5 (32 * (0 : BitVec 2).toNat + j) == r.h.vword 5 l)) (.vmatch 4 5 0) id := by
  refine ⟨⟨fun l => (maskOf (fun j => (env (.vmatch 4 5 0) id).h.active (env (.vmatch 4 5 0) id).g.id (32 * (0 : BitVec 2).toNat + j) &&
    (env (.vmatch 4 5 0) id).h.vword 5 (32 * (0 : BitVec 2).toNat + j) == (env (.vmatch 4 5 0) id).h.vword 5 l) 32).extractLsb' 0 32, ?_⟩, by decide +kernel⟩
  intro l j hj
  rw [BitVec.getLsbD_extractLsb', Laws.maskOf_bit _ _ _ (by omega)]
  simp [hj]
theorem wit_perm : When (fun r => r.h.activeLanes r.g.id ≠ []) (.vperm 4 5 6) id := ⟨by decide +kernel, by decide +kernel⟩
theorem wit_reord : When (fun r => r.stacked = false ∧ ¬ ((1 : BitVec 1) = 1 ∧ (5 : BitVec 8).toNat = (8 : BitVec 8).toNat + ((2 : BitVec 6).toNat + 1))) (.vreord 8 5 1 2) id :=
  ⟨by decide +kernel, by decide +kernel⟩
theorem wit_cbdec : When (fun r => ∀ l ∈ r.h.activeLanes r.g.id, cbLegal (r.h.vword 6 l) = true) (.vcbdec 4 5 6) id := ⟨by decide +kernel, by decide +kernel⟩
/-- Lane 0 alone has the bit of p2: its slice takes the branch, the others do not. -/
theorem wit_parts : When (fun r => (∃ n ∈ r.h.groupSlices r.g.id, takesBranch r (r.h.preg 2) false n) ∧
    ∃ n ∈ r.h.groupSlices r.g.id, ¬ takesBranch r (r.h.preg 2) false n) (.brany 2 9) (withP 2 1) := by
  refine ⟨⟨⟨0, by decide +kernel, .inl ⟨⟨0, ?_⟩, iff_of_true rfl ⟨0, ?_, by decide +kernel⟩⟩⟩, ⟨1, by decide +kernel, ?_⟩⟩, by decide +kernel⟩
  · unfold liveIn; decide +kernel
  · unfold liveIn; decide +kernel
  · have live : ∃ l, liveIn (env (.brany 2 9) (withP 2 1)).h 1 l := ⟨4, by decide +kernel⟩
    rintro (⟨_, h⟩ | ⟨h, _⟩)
    · obtain ⟨l, hl, hp⟩ := h.1 rfl
      have : ∀ l, l < 8 → 4 ≤ l → (Hoist.preg (env (.brany 2 9) (withP 2 1)).h 2).getLsbD l = false := by decide +kernel
      rw [this l hl.2.1 hl.1] at hp
      cases hp
    · exact h live

/-! ### Words that wait, trap or are refused -/

/-- The issuing group finds the word in its world, where a condition holds. -/
def found (i : Instr) (f : State → State) : Env := (issuer ((encode i).getD 0) (world i f)).getD (Env.of State.reset)
theorem issues_of {i : Instr} {f : State → State} (h : (issuer ((encode i).getD 0) (world i f)).isSome = true) :
    Issues i (world i f) (found i f) := by
  unfold Issues found
  cases hx : issuer ((encode i).getD 0) (world i f) with
  | none => rw [hx] at h; cases h
  | some e => rfl
theorem wit_ext : ∃ e, Issues (.ext 5) (world (.ext 5) id) e ∧ e.refusal (.ext 5) = none :=
  ⟨_, issues_of (by decide +kernel), by decide +kernel⟩
theorem wit_reserved : ∃ e, Issues (.reservedOpcode 0x0F 5) (world (.reservedOpcode 0x0F 5) id) e ∧ e.g.landing = none :=
  ⟨_, issues_of (by decide +kernel), by decide +kernel⟩
def atTable : State → State := onCtx fun c => { c with emtab := 0x2000000 }
theorem entry_of {r : Env} {o : BitVec 3} {n : Nat} {x : Except RangeFault Runs × State} (hc : Clear r [])
    (hx : r.s.range (r.who .load) r.c .load allRights (r.c.emtab + BitVec.ofNat 72 (8 * o.toNat)) 8 = x) (h1 : x.1.isOk = true)
    (h2 : x.2.runsPoisoned (gotten [] x.1) = false) (h3 : leNat (x.2.loadRuns r.h.src r.b.id (gotten [] x.1)) = n) :
    EmulEntry r o n x.2 := h3 ▸ .mk _ _ hc (hx.trans (range_of h1)) h2
theorem wit_emul : When (fun r => ∃ u, EmulEntry r 3 0x20400 u) (.emul 3 0x123456) (withMem 0x2000018 (natLe 8 0x20400) ∘ atTable) :=
  ⟨⟨_, entry_of (by decide +kernel) rfl (by decide +kernel) (by decide +kernel) (by decide +kernel)⟩, by decide +kernel⟩
theorem wit_emul_none : When (fun r => ∃ u, EmulEntry r 7 0 u) (.emul 7 0) atTable :=
  ⟨⟨_, entry_of (by decide +kernel) rfl (by decide +kernel) (by decide +kernel) (by decide +kernel)⟩, by decide +kernel⟩
theorem wit_pref : When (fun r => (r.h.areg 3).has permR = false ∨ (r.h.areg 3).has permSCR = true) (.pref 4 3 0) (withA 3 segWin) :=
  ⟨.inr (by decide +kernel), by decide +kernel⟩
def flagged : State → State := onHoist fun h => { h with regs := { h.regs with fpx := 0x0101 } }
theorem wit_pending : [Instr.exit, .fence 1 0, .bara 8 9 10, .barw 9].all (fun i => beginsB i (world i flagged) &&
    (env i flagged).s.flights.all (fun f => f.src != (env i flagged).h.src) && fpxPending (env i flagged).h.regs.fpx &&
    decide (((env i flagged).sval 9).toNat ≤ 16)) = true := by decide +kernel
def startsB (i : Instr) (s : State) : Bool := match started i s with | some (_, old) => old.isEmpty | none => false
theorem starts_of {i : Instr} {s : State} (h : startsB i s = true) : Starts i s (heldAt i s) [] := by
  unfold startsB at h
  split at h
  · rename_i e old hs
    have he : heldAt i s = e := by simp [heldAt, hs]
    rw [List.isEmpty_iff] at h
    subst h
    rw [he]
    unfold started at hs
    split at hs
    · rename_i e0 h0
      split at hs
      · rename_i e1 o1 h1
        cases hs
        exact ⟨e0, h0, h1⟩
      · cases hs
    · cases hs
  · cases h
theorem wit_idle : Instr.laneWise (.vld 4 5 6 0) = true ∧ Starts (.vld 4 5 6 0) (world (.vld 4 5 6 0) noLanes) (env (.vld 4 5 6 0) noLanes) [] ∧
    Unhurt (.vld 4 5 6 0) (env (.vld 4 5 6 0) noLanes) ∧ ((env (.vld 4 5 6 0) noLanes).mixed (.vld 4 5 6 0) []).h.activeLanes ((env (.vld 4 5 6 0) noLanes).mixed (.vld 4 5 6 0) []).g.id = [] :=
  ⟨by decide, starts_of (by decide +kernel), ⟨by decide +kernel, by decide +kernel⟩, by decide +kernel⟩
theorem wit_idle_code : encode (.vld 4 5 6 0) = some 0xB0040560 ∧ Instr.wf (.vld 4 5 6 0) = true := by decide
theorem wit_quiet : ∃ e, Issues (.vadd 4 5 6) (world (.vadd 4 5 6) id) e ∧ Quiet (.vadd 4 5 6) e := by
  refine ⟨_, issues_of ?_, ?_, ?_, ?_, ?_, ?_, ?_, ?_⟩ <;> decide +kernel
theorem wit_privileged : ∃ e, Issues (.srd 9 3) (world (.srd 9 3) id) e ∧ Instr.privileged (.srd 9 3) = true ∧ e.h.privileged = false ∧ e.g.landing = none :=
  ⟨_, issues_of (by decide +kernel), rfl, by decide +kernel, by decide +kernel⟩
theorem wit_encodes : encode (.fcfg 2 0 3) = some 0xE6020300 ∧ Instr.wf (.fcfg 2 0 3) = true := by decide
def landed : State → State := onHoist fun h => h.updGroup 0 fun g => { g with landing := some (2, 0x1000004) }
theorem wit_stray : ∃ e, (encode (.pad 1)).isSome = true ∧ Instr.pad 1 ≠ .pad 2 ∧ Issues (.pad 1) (world (.pad 1) landed) e ∧ e.g.landing = some (2, 0x1000004) :=
  ⟨_, rfl, by decide, issues_of (by decide +kernel), by decide +kernel⟩
theorem wit_form : ∃ e, (encode (.sadd 200 5 6)).isSome = true ∧ Instr.formOk (.sadd 200 5 6) = false ∧ Issues (.sadd 200 5 6) (world (.sadd 200 5 6) id) e ∧ e.g.landing = none :=
  ⟨_, rfl, by decide, issues_of (by decide +kernel), by decide +kernel⟩
theorem wit_mpop_payload : ∃ e, issuer (0x1A#8 ++ 5#24) (world .mpop id) = some e ∧ e.g.landing = none := by
  refine ⟨(issuer (0x1A#8 ++ 5#24) (world .mpop id)).getD (Env.of State.reset), ?_, by decide +kernel⟩
  have h : (issuer (0x1A#8 ++ 5#24) (world .mpop id)).isSome = true := by decide +kernel
  obtain ⟨e, he⟩ := Option.isSome_iff_exists.1 h
  rw [he]
  rfl
theorem wit_writes : ∃ v, scalarResult (env .nop id) (.sadd 100 5 6) = some (100, v) ∧ 95 < (100 : BitVec 8).toNat := ⟨_, rfl, by decide⟩
theorem wit_reads : (env .nop id).b.replicated = false ∧ (env .nop id).h.regs.latch = none ∧ 1 ≤ (env .nop id).h.width ∧ (env .nop id).h.width ≤ 128 := by decide +kernel
/-- A stack for trap frames in the block's segment. -/
def stackedFrames : State → State := withA 15 segWin ∘ withS 93 0x200
def writtenOf : FrameWrite → Option State | .written u => some u | _ => none
theorem wit_trap : ∃ u, (env .nop stackedFrames).h.role = .user ∧ (env .nop stackedFrames).cannotEnter { cls := .trap } = false ∧
    (env .nop stackedFrames).writeFrame { cls := .trap } = .written u := by
  have h : (writtenOf ((env .nop stackedFrames).writeFrame { cls := .trap })).isSome = true := by decide +kernel
  revert h
  cases hx : (env .nop stackedFrames).writeFrame { cls := .trap } with
  | written u => exact fun _ => ⟨u, by decide +kernel, by decide +kernel, rfl⟩
  | double => exact fun h => absurd h (by decide)
  | wait w s => exact fun h => by cases h
theorem wit_frame : (env .nop stackedFrames).b.replicated = false ∧ ((env .nop stackedFrames).h.areg 15).has permW = true ∧ ((env .nop stackedFrames).h.areg 15).has permSCR = true ∧
    ((env .nop stackedFrames).h.areg 15).inBounds (env .nop stackedFrames).b.segSize (framePosition (env .nop stackedFrames).h) 128 = true := by decide +kernel
theorem wit_double : (env .nop id).h.role = .user ∧ (env .nop id).s.hoist? (env .nop id).h.src = some (env .nop id).h ∧ mustDouble (env .nop id) { cls := .trap } :=
  ⟨by decide +kernel, by decide +kernel, .inr (.inr (.inr (.inl (by decide +kernel))))⟩
theorem fault_of {α : Type} {x : Except RangeFault α × State} {f : RangeFault} (h : (match x.1 with | .error g => g == f | .ok _ => false) = true) :
    x = (.error f, x.2) := by
  obtain ⟨y, u⟩ := x
  cases y with
  | error g => simp only [beq_iff_eq] at h; rw [h]
  | ok y => cases h
def faultIn {α : Type} (x : Except RangeFault α) : RangeFault := match x with | .error f => f | .ok _ => ⟨.trap, 0, 0, 0, false, false⟩
/-- Trap frames go where no page is. -/
def lostFrames : State → State := withA 15 { memWin with base := 0x800000000000000000 } ∘ withS 93 0x200
theorem wit_double_page : (env .nop lostFrames).h.role = .user ∧ (env .nop lostFrames).s.hoist? (env .nop lostFrames).h.src = some (env .nop lostFrames).h ∧
    mustDouble (env .nop lostFrames) { cls := .trap } := by
  refine ⟨by decide +kernel, by decide +kernel, .inr (.inr (.inr (.inr (.inr ⟨by decide +kernel, by decide +kernel, by decide +kernel,
    faultIn ((env .nop lostFrames).s.range ((env .nop lostFrames).who .store) (env .nop lostFrames).c .store ((env .nop lostFrames).h.areg 15).rights
      (((env .nop lostFrames).h.areg 15).address (framePosition (env .nop lostFrames).h)) 128).1, _, fault_of ?_, ?_, ?_, ?_⟩))))⟩
  all_goals decide +kernel

/-! ### Frames, and work in flight -/

/-- The instruction answers a next state. -/
theorem answers_of {i : Instr} {s : State} (h : (match exec i s with | .next _ => true | _ => false) = true) : ∃ t, Answers i s t := by
  unfold Answers
  cases hx : exec i s with
  | next t => exact ⟨t, rfl⟩
  | fault f => rw [hx] at h; cases h
  | refused r => rw [hx] at h; cases h
/-- The word begins in its world and answers a next state, in a block that is not replicated. -/
def framedB (f : State → State) (i : Instr) : Bool :=
  beginsB i (world i f) && !(env i f).b.replicated && (match exec i (world i f) with | .next _ => true | _ => false)
theorem wit_frames : ([.sadd 4 5 6, .aget 8 2 4, .ptos 8 2 0, .vballot 8 2 0, .vred 8 4 0, .vcmpEq 4 5 6, .vfcmpLt 4 5 6, .vote 4 5 0,
    .vadd 4 5 6, .vaddc 4 6 8, .vmatch 4 5 0, .vfadd 4 5 6, .vcvt 4 6 0 3, .vunpk 4 5 4 2, .vshfl 4 5 3 1 2, .vscan 4 5 0 1 0, .bra 5, .msave 3,
    .amov 2 3] : List Instr).all (framedB id) = true := by decide +kernel
theorem wit_launch : (([.sld 5 6 3 0, .ald 5 6 3 0, .vlds 4 6 3 0, .vsts 5 6 3 4, .sst 5 6 3 0, .ast 5 6 3 0] : List Instr).all fun i =>
    framedB (withA 3 segWin) i && ((env i (withA 3 segWin)).h.areg 3).has permSCR) = true := by decide +kernel
theorem wit_launch_memory : (([.sld 5 6 3 0, .vld 5 6 3 0, .vst 5 6 3 0, .sst 5 6 3 0] : List Instr).all fun i =>
    framedB (withA 3 memWin) i && !((env i (withA 3 memWin)).h.areg 3).has permSCR) = true := by decide +kernel
/-- What OnlyMarked asks of the state before, in a state whose TLBs know an entry. -/
def translated : State := ((env .nop id).s.translate 0 (env .nop id).c 0x2000000).2
theorem wit_marked : translated.coreTlb ≠ [] ∧ Canonical translated ∧ EntriesAligned translated := by
  unfold Canonical EntriesAligned; decide +kernel
/-- A state with pieces of work in flight. -/
def withWork (ws : List Work) (f : State → State) : State :=
  f { world .nop id with flights := ws.mapIdx fun n w => ⟨100 + n, 0, 0, 0, 0, w, []⟩, nextId := 200 }
theorem ripe_of {s : State} {n : Nat} (f : Flight) (h : s.flight? n = some f) (h2 : s.enabled f = true) : Ripe s n f := ⟨h, h2⟩
/-- An event answers the state of its statement. -/
def Happens (E : State → Instr → State → Prop) (s : State) (i : Instr) : Prop :=
  ∃ t, E s i t ∧ (match exec i s with | .next u => u == t | _ => false) = true
/-- The same, where the effect is too long to be compared here. -/
def MayHappen (E : State → Instr → State → Prop) (s : State) (i : Instr) : Prop := ∃ t, E s i t
def acc0 (scr : Bool) (pa n : Nat) : Access := ⟨0, scr, BitVec.ofNat 72 pa, pa, n⟩
theorem wit_load_return : Happens WorkEvent (withWork [.load .g (.v 4 0) [acc0 true 0x10 4]] id) (.loadDataReturn 100) :=
  ⟨_, .load _ _ _ _ _ (ripe_of ⟨100, 0, 0, 0, 0, _, []⟩ rfl (by decide +kernel)) rfl (by decide +kernel), by decide +kernel⟩
def job0 (src dst : AReg) : CopyJob := copyRun 2 src dst none 0 false
theorem got_of {α : Type} {x : Option α} (h : x.isSome = true) : x = some (x.get h) := by simp
theorem pair_of {α β : Type} {x : α × β} : x = (x.1, x.2) := rfl
theorem rip {ws : List Work} {f : State → State} {w : Work} (h : (withWork ws f).flight? 100 = some ⟨100, 0, 0, 0, 0, w, []⟩)
    (h2 : (withWork ws f).enabled ⟨100, 0, 0, 0, 0, w, []⟩ = true) : Ripe (withWork ws f) 100 ⟨100, 0, 0, 0, 0, w, []⟩ := ⟨h, h2⟩
theorem wit_load_dies : Happens WorkEvent (withWork [.load .g (.v 4 0) [acc0 false 0x2000000 4]] fun s => { s with poison := [0x2000000 / 32] }) (.loadDataReturn 100) :=
  ⟨_, .loadDies _ _ _ _ _ _ _ (rip rfl (by decide +kernel)) rfl rfl (by decide +kernel), by decide +kernel⟩
theorem wit_perm_return : Happens WorkEvent (withWork [.perm 4 [(3, 77)]] id) (.loadDataReturn 100) :=
  ⟨_, .perm _ _ _ _ (rip rfl (by decide +kernel)) rfl, by decide +kernel⟩
theorem wit_atomic_return : Happens WorkEvent (withWork [.atomic false 0 (some (.v 4 0)) [⟨acc0 true 0x10 4, 0, 5⟩] 0 false 0] id) (.loadDataReturn 100) :=
  ⟨_, .atomic _ _ _ _ _ _ _ _ _ _ _ (rip rfl (by decide +kernel)) rfl (by decide +kernel) rfl, by decide +kernel⟩
theorem wit_write : Happens WorkEvent (withWork [.store [(acc0 false 0x2000000 4, [1, 2, 3, 4])] false] id) (.writePerformed 100) :=
  ⟨_, .store _ _ _ _ _ (rip rfl (by decide +kernel)) rfl (got_of (by decide +kernel)) (by decide +kernel), by decide +kernel⟩
theorem wit_reduce : Happens WorkEvent (withWork [.atomic true 0 none [⟨acc0 true 0x10 4, 0, 5⟩] 0 false 0] id) (.writePerformed 100) :=
  ⟨_, .reduce _ _ _ _ _ _ _ _ _ _ (rip rfl (by decide +kernel)) rfl (by decide +kernel) rfl, by decide +kernel⟩
theorem wit_copy_complete : Happens WorkEvent (withWork [.copy { job0 segWin memWin with done := [1, 0] }] id) (.copyComplete 100) :=
  ⟨_, .copy _ _ _ (rip rfl (by decide +kernel)) rfl (by decide +kernel) (by decide +kernel), by decide +kernel⟩
theorem wit_element : Happens WorkEvent (withWork [.copy (job0 segWin { segWin with cursor := 8 })] id) (.copyByteArrival 100 1) :=
  ⟨_, .element _ _ _ _ _ (rip rfl (by decide +kernel)) rfl (by decide +kernel) (by decide +kernel) rfl rfl rfl (by decide +kernel) (by decide +kernel) (got_of (by decide +kernel)) (by decide +kernel) (by decide +kernel), by decide +kernel⟩
theorem wit_element_memory : Happens WorkEvent (withWork [.copy (job0 memWin { memWin with cursor := 8 })] (withMem 0x2000001 [9])) (.copyByteArrival 100 1) :=
  ⟨_, .elementMemory _ _ _ _ _ _ _ _ _ (rip rfl (by decide +kernel)) rfl (by decide +kernel) (by decide +kernel) rfl rfl rfl (by decide +kernel) (by decide +kernel) rfl (range_of (by decide +kernel)) (by decide +kernel) (by decide +kernel) (range_of (by decide +kernel)), by decide +kernel⟩
/-- A window over an address that no page maps. -/
def farWin : AReg := ⟨0x80000000000000, 0x4000, 0, 0x1F, 0⟩
def errOf (d : RangeFault) : Except RangeFault Runs → RangeFault | .error e => e | .ok _ => d
theorem err_of {x : Except RangeFault Runs × State} (d : RangeFault) (h : x.1.isOk = false) : x = (.error (errOf d x.1), x.2) := by
  obtain ⟨x, s⟩ := x
  cases x with
  | error e => rfl
  | ok y => cases h
theorem wit_copy_fail : MayHappen WorkEvent (withWork [.copy (job0 farWin segWin)] id) (.copyFail 100) :=
  ⟨_, .copyFail _ _ _ 0 _ _ (rip rfl (by decide +kernel)) rfl rfl (by decide +kernel) (by decide +kernel) (fun i hi => by cases hi) rfl (by decide +kernel)
    (err_of ⟨.xlate, 0, 0, 0, false, false⟩ (by decide +kernel)) (by decide +kernel) (by decide +kernel)⟩
theorem wit_slot_release : Happens WorkEvent (withWork [.slotRelease 1] slotted) (.slotRelease 100) :=
  ⟨_, .release _ _ _ (rip rfl (by decide +kernel)) rfl, by decide +kernel⟩
def pieceOf {α : Type} (d : α) : Pieces α → α | .ok x => x | _ => d
def Pieces.okB {α : Type} : Pieces α → Bool | .ok _ => true | _ => false
theorem piece_of {α : Type} {x : Pieces α} (d : α) (h : Pieces.okB x = true) : x = .ok (pieceOf d x) := by
  cases x <;> first | rfl | cases h
theorem pieces_of {x : Pieces Memory × State} (h : Pieces.okB x.1 = true) : x = (.ok (pieceOf [] x.1), x.2) := by
  rw [← piece_of [] h]
def flight0 (w : Work) : Flight := ⟨100, 0, 0, 0, 0, w, []⟩
def filling : State := withWork [.fill 1 segWin 0 64 0] (slotted ∘ onBlock fun b => { b with scratch := b.scratch.writeBytes 0x1000 [5] })
theorem wit_fill_complete : MayHappen WorkEvent filling (.slotFillComplete 100) :=
  ⟨_, .fill _ (flight0 (.fill 1 segWin 0 64 0)) _ _ _ _ _ _ _ (rip rfl (by decide +kernel)) rfl (pieces_of (by decide +kernel))
    (fun x hx _ hne => absurd ((by decide +kernel : ∀ x ∈ (State.readPieces (flight0 (.fill 1 segWin 0 64 0)) (filling.flightCtx (flight0 (.fill 1 segWin 0 64 0)))
      segWin (slotPieces segWin 0 64) [] filling).2.flights, x.id = 100) x hx) hne)⟩
set_option maxRecDepth 100000 in
theorem wit_slot_store : Happens WorkEvent (withWork [.slotStore 1 segWin 0 64 0] (onBlock fun b => { b with slots := [⟨1, 0, false, [(9, 9)]⟩] })) (.slotStoreComplete 100) :=
  ⟨_, .slotStore _ _ _ _ _ _ _ _ _ (rip rfl (by decide +kernel)) rfl (got_of (by decide +kernel)) (piece_of State.reset (by decide +kernel)), by decide +kernel⟩
def pass0 (granted : Bool) : PassJob := { (env (.mxc 9 10 11) (slotted ∘ withS 9 1 ∘ withS 10 0x0201)).passJob 1 (passWord 0x0201) [] 32
  (world .nop id) with granted := granted }
theorem wit_pass : MayHappen WorkEvent (withWork [.pass (pass0 true)] slotted) (.passComplete 100) :=
  ⟨_, .pass _ _ _ _ _ _ (rip rfl (by decide +kernel)) rfl rfl (got_of (by decide +kernel)) pair_of⟩
theorem wit_promote : MayHappen WorkEvent (withWork [.promote 1] (onBlock fun b => { b with accSize := 8192, tiles := [⟨1, [], [], 3⟩] })) (.tileOrderOperation 100) :=
  ⟨_, .promote _ _ _ _ _ _ (rip rfl (by decide +kernel)) rfl (got_of (by decide +kernel)) (by decide +kernel) pair_of⟩
theorem wit_promote_empty : Happens WorkEvent (withWork [.promote 1] slotted) (.tileOrderOperation 100) :=
  ⟨_, .promoteEmpty _ _ _ _ (rip rfl (by decide +kernel)) rfl (got_of (by decide +kernel)) (by decide +kernel), by decide +kernel⟩
theorem wit_tile_read : Happens WorkEvent (withWork [.tileRead 1 4 2 5 [(0, 0), (3, 19)]] slotted) (.tileOrderOperation 100) :=
  ⟨_, .tileRead _ _ _ _ _ _ _ _ (rip rfl (by decide +kernel)) rfl (got_of (by decide +kernel)), by decide +kernel⟩
theorem wit_tile_write : Happens WorkEvent (withWork [.tileWrite 1 5 [(19, [7, 8])]] slotted) (.tileOrderOperation 100) :=
  ⟨_, .tileWrite _ _ _ _ _ _ _ (rip rfl (by decide +kernel)) rfl (got_of (by decide +kernel)), by decide +kernel⟩
theorem some_of {α : Type} {x : Option α × State} (h : x.1.isSome = true) : x = (some (x.1.get h), x.2) := by
  obtain ⟨x, s⟩ := x
  cases x with
  | some y => rfl
  | none => cases h
theorem wit_trace_complete : Happens WorkEvent (withWork [.trace 4 0 false memWin [(0, List.replicate 8 0)]] id) (.traceComplete 100) :=
  ⟨_, .trace _ _ _ _ _ _ _ _ _ (rip rfl (by decide +kernel)) rfl (some_of (by decide +kernel)), by decide +kernel⟩
theorem wit_hitrd_complete : Happens WorkEvent (withWork [.hitrd 4 4 memWin [(0, 7)]] id) (.hitrdComplete 100) :=
  ⟨_, .hitrd _ _ _ _ _ _ _ _ (rip rfl (by decide +kernel)) rfl (some_of (by decide +kernel)), by decide +kernel⟩
def beam0 (p : Option (List (List Byte))) : BeamJob := ⟨[], memWin, segWin, 0x0C40000000000000, 8, p, 3, 1⟩
theorem wit_beam_complete : Happens WorkEvent (withWork [.beam (beam0 (some []))] id) (.beamComplete 100) :=
  ⟨_, .beam _ _ _ (rip rfl (by decide +kernel)) rfl rfl, by decide +kernel⟩
theorem wit_fragment : Happens WorkEvent (withWork [.beam (beam0 (some [List.replicate 32 7]))] id) (.fragmentPush 100) := by
  refine ⟨_, .fragment _ _ _ _ _ _ (gotten (0, State.reset) ((withWork [.beam (beam0 (some [List.replicate 32 7]))] id).queuePush
    (.scratch 0 0x1000) (queueWord 0x0C40000000000000) [List.replicate 32 7])).2 (rip rfl (by decide +kernel)) rfl rfl rfl ?_, by decide +kernel⟩
  refine (ok_of (0, State.reset) (by decide +kernel)).trans (congrArg Except.ok (Prod.ext ?_ ?_))
  · decide +kernel
  · decide +kernel
theorem wit_grant : Happens WorkEvent (withWork [.pass (pass0 false)] slotted) (.passGrant 0) := by
  have only : ∀ x ∈ (withWork [.pass (pass0 false)] slotted).flights, x = ⟨100, 0, 0, 0, 0, .pass (pass0 false), []⟩ := by decide +kernel
  refine ⟨_, .grant _ ⟨100, 0, 0, 0, 0, .pass (pass0 false), []⟩ (pass0 false) ⟨by decide +kernel, by decide +kernel, by decide +kernel, rfl,
    by decide +kernel, fun x hx _ y hy => ?_, fun x hx _ _ hne => absurd (only x hx) hne⟩ (by decide +kernel), by decide +kernel⟩
  rw [only x hx] at hy
  injection hy with hy
  rw [← hy]
  decide +kernel
theorem wit_service : Happens WorkEvent (withWork [.perm 4 [(3, 77)]] fun s => { s with svcq := [(2, 100)] }) (.atomicServiceRequest 2) :=
  ⟨_, .service _ 100 _ (by decide +kernel) (rip rfl (by decide +kernel)) (by decide +kernel), by decide +kernel⟩
theorem wit_service_gone : Happens WorkEvent (withWork [] fun s => { s with svcq := [(2, 100)] }) (.atomicServiceRequest 2) :=
  ⟨_, .serviceGone _ 100 (by decide +kernel) (by decide +kernel), by decide +kernel⟩

/-! ### Die events -/

def plain (f : State → State) : State := f (world .nop id)
theorem wit_migrate : Happens DieEvent State.reset (.lineMigrate 5 7) := by
  refine ⟨_, .migrate _ _ ?_ ?_ ?_ ?_ ?_, ?_⟩ <;> decide +kernel
theorem wit_migrate_home : Happens DieEvent State.reset (.lineMigrate 5 (homeSlice State.reset.die 5)) := by
  refine ⟨_, .migrateHome _ ?_ ?_ ?_ ?_, ?_⟩ <;> decide +kernel
def watched (cond : Condition) (s : State) : State := { s with monitors := [⟨320, 0x140, 4, cond, 0, 0, 0, none, none⟩] }
theorem wit_migrate_not : Happens DieEvent (watched .changed State.reset) (.lineMigrate 5 7) :=
  ⟨_, .migrateNot _ _ (.inr (by decide +kernel)), by decide +kernel⟩
theorem wit_reread : Happens DieEvent (watched (.cmp 1 0) State.reset) (.hostSnoop 5) :=
  ⟨_, .reread _ _ (.inr rfl) (by decide +kernel), by decide +kernel⟩
theorem wit_wakes : ∃ m ∈ (watched (.cmp 0 0) State.reset).monitors, m.pa / 64 = 5 ∧ m.holds (watched (.cmp 0 0) State.reset).mem = true ∧ m.parked = none := by
  decide +kernel
def tabled : State → State := onBlock fun b => { b with table := some [(3, 3)], tableLoaded := false }
theorem wit_reload : Happens DieEvent (plain tabled) (.codebookReload 0) :=
  ⟨_, .reload _ ((plain tabled).blockOf (env .nop tabled).h) [(3, 3)] (by decide +kernel) (by decide +kernel) (by decide +kernel), by decide +kernel⟩
theorem wit_reloaded : Happens DieEvent (plain id) (.codebookReload 0) :=
  ⟨_, .reloaded _ _ (got_of (by decide +kernel)) (.inl (by decide +kernel)), by decide +kernel⟩
def atRegang : State → State := onHoist fun h => h.updGroup 0 fun g => { g with wait := .regang }
theorem wit_regang_merge : Happens DieEvent (plain atRegang) (.regangMerge 0) :=
  ⟨_, .regang _ _ (got_of (by decide +kernel)) (by decide +kernel) (by decide +kernel) (by decide +kernel), by decide +kernel⟩
def atVregrp : State → State := onHoist fun h => h.updGroup 0 fun g => { g with wait := .vregrp 1 4 2 false 9 }
theorem wit_vregrp_complete : Happens DieEvent (plain atVregrp) (.vregrpComplete 0) :=
  ⟨_, .regroup _ _ 0 ⟨1, 4, 2, false, 9⟩ (got_of (by decide +kernel)) (by decide +kernel) (by decide +kernel), by decide +kernel⟩
theorem wit_lost : Happens DieEvent (plain id) (.hoistLost 0) :=
  ⟨_, .lost _ _ (got_of (by decide +kernel)) (by decide +kernel), by decide +kernel⟩
/-- A hoist of a replica, which offers a release or nothing. -/
def replica (n : Nat) (o : Option (BitVec 64)) : Hoist :=
  { Hoist.start (64 * n) n 0 16 4 0x1000000 with offer := o.map fun x => ⟨0, 0x1000000, x, none⟩ }
/-- Replicas of a block, each with one hoist; one without an offer has been waited for since 0. -/
def replicas (os : List (Option (BitVec 64))) (s : State) : State := { s with
  blocks := os.mapIdx fun n _ => { placedBlock n with width := 16, replicas := os.length, replica := n, core := n }
  hoists := os.mapIdx replica }
def offer0 : Offer := ⟨0, 0x1000000, 5, none⟩
theorem wit_agreed : Happens DieEvent (plain (replicas [some 5, some 5])) (.releaseVote 0) :=
  ⟨_, .agreed _ (replica 0 (some 5)) (replica 0 (some 5)) offer0 [replica 1 (some 5)] (by decide +kernel) (by decide +kernel) (by decide) (by decide +kernel) rfl
    (fun x hx => ⟨offer0, by
      rcases List.mem_cons.1 hx with rfl | hx
      · exact ⟨rfl, rfl, rfl⟩
      · rw [List.mem_singleton.1 hx]; exact ⟨rfl, rfl, rfl⟩⟩) (by decide +kernel), by decide +kernel⟩
theorem wit_minority : Happens DieEvent (plain (replicas [some 5, some 5, some 6])) (.releaseVote 0) := by
  refine ⟨_, .minority _ _ (replica 0 (some 5)) _ (replica 0 (some 5)) (replica 1 (some 5)) (replica 2 (some 6)) offer0 offer0
    ⟨?_, rfl, ?_, .inl ⟨rfl, ?_⟩⟩ (.inl ?_) rfl rfl rfl rfl (fun q hq => .inr ?_) ?_ ?_ rfl rfl ?_, ?_⟩
  case refine_5 => cases hq; decide
  all_goals decide +kernel
theorem wit_disagreed : Happens DieEvent (plain (replicas [some 5, some 6])) (.releaseVote 0) := by
  refine ⟨_, .disagreed _ _ (replica 0 (some 5)) (replica 0 (some 5)) [replica 1 (some 6)] 0 0x1000000
    ⟨?_, ?_, ?_, .inl ⟨rfl, ?_⟩⟩ ?_ (.inr (.inr ⟨⟨?_, ?_⟩, ?_, rfl⟩)) ?_ ?_, ?_⟩
  case refine_5 => exact List.pairwise_pair.2 fun p q hp hq => by cases hp; cases hq; exact .inr (by decide)
  all_goals decide +kernel
theorem wit_replaced : ∃ h, ((plain (replicas [some 5, some 6])).stopHoist 64).hoist? 64 = some h := Option.isSome_iff_exists.1 (by decide +kernel)
/-- What offers nothing has been waited for since 0. -/
def lagging (os : List (Option (BitVec 64))) (time : BitVec 64) (s : State) : State :=
  onHoist (fun h => { h with lateFrom := if h.offer.isNone then some 0 else none }) { replicas os s with time := time }
theorem wit_late : Happens DieEvent (plain (replicas [none, some 5])) (.lateArrival 0) := by
  refine ⟨_, .late _ (replica 0 none) ?_ ?_ ?_ ?_ ?_, ?_⟩ <;> decide +kernel
def late (n : Nat) : Hoist := { replica n none with lateFrom := some 0 }
theorem wit_late_minority : Happens DieEvent (plain (lagging [some 5, some 5, none] 1200000)) (.lateArrival 128) := by
  refine ⟨_, .minority _ _ (late 2) _ (replica 0 (some 5)) (replica 1 (some 5)) (late 2) offer0 offer0
    ⟨?_, rfl, ?_, .inr ⟨rfl, rfl, rfl, ?_, ?_, fun x hx => ?_⟩⟩ (.inl ?_) rfl rfl rfl rfl (fun q hq => by cases hq) ?_ ?_ rfl rfl ?_, ?_⟩
  case refine_5 =>
    have h : ∀ x ∈ (plain (lagging [some 5, some 5, none] 1200000)).replicaHoists (late 2), x.standingOffer.isSome = true ∨ x = late 2 := by decide +kernel
    rcases h x hx with h | rfl
    · exact .inl h
    · exact .inr ⟨rfl, 0, rfl, by decide +kernel⟩
  all_goals decide +kernel
theorem wit_late_disagrees : Happens DieEvent (plain (lagging [some 5, none] 1200000)) (.lateArrival 64) := by
  refine ⟨_, .disagreed _ _ (late 1) (replica 0 (some 5)) [late 1] 2 0x1000000
    ⟨?_, ?_, ?_, .inr ⟨rfl, rfl, rfl, ?_, ?_, fun x hx => ?_⟩⟩ ?_ (.inl ⟨fun h => ?_, rfl⟩) ?_ ?_, ?_⟩
  case refine_6 =>
    rcases List.mem_cons.1 hx with rfl | hx
    · exact .inl rfl
    · exact .inr (List.mem_singleton.1 hx ▸ ⟨rfl, 0, rfl, by decide +kernel⟩)
  case refine_7 => exact List.pairwise_pair.2 fun p q hp hq => by cases hq
  case refine_8 => exact absurd (h.2 (late 1) (by simp)) (by decide)
  all_goals decide +kernel
theorem wit_store_frame : Canonical (withWork [.store [(acc0 false 0x2000000 4, [1, 2, 3, 4])] false] id) ∧
    ∀ b ∈ (withWork [.store [(acc0 false 0x2000000 4, [1, 2, 3, 4])] false] id).blocks, b.scratch.wf = true := by
  unfold Canonical; decide +kernel
theorem wit_written : Canonical State.reset ∧ State.reset.unlinked 0x1000 = false := by decide +kernel

/-! ### Scheduling events -/

def bytesOf (x : Except RangeFault Runs × State) : List Byte := x.2.readRuns (gotten [] x.1)
theorem gets_of {s : State} {core : Nat} {c : Ctx} {va : VAddr} {n : Nat}
    (h : (s.range (.agent core) c .load ⟨true, false⟩ va n).1.isOk = true)
    (h2 : (s.range (.agent core) c .load ⟨true, false⟩ va n).2.runsPoisoned (gotten [] (s.range (.agent core) c .load ⟨true, false⟩ va n).1) = false) :
    Gets s core c va n (bytesOf (s.range (.agent core) c .load ⟨true, false⟩ va n)) (s.range (.agent core) c .load ⟨true, false⟩ va n).2 :=
  ⟨_, range_of h, h2, rfl⟩
theorem puts_of {s : State} {core : Nat} {c : Ctx} {va : VAddr} {b : List Byte}
    (h : (s.range (.agent core) c .store ⟨true, false⟩ va b.length).1.isOk = true) :
    Puts s core c va b ((s.range (.agent core) c .store ⟨true, false⟩ va b.length).2.writeRuns c.id
      (gotten [] (s.range (.agent core) c .store ⟨true, false⟩ va b.length).1) b) := ⟨_, _, range_of h, rfl⟩
theorem got2_of {α β : Type} {x : Option (α × β)} (h : x.isSome = true) : x = some ((x.get h).1, (x.get h).2) := got_of h
/-- A record at 0x2000000 that waits `n` times. -/
def record (n : Nat) : State → State := withMem 0x2000000 (natLe 17 0 ++ [BitVec.ofNat 8 n] ++ natLe 14 0)
theorem wit_join_decrement : Happens ScheduleEvent (plain (record 2)) (.joinDecrement 0 0x2000000) :=
  ⟨_, .join _ _ _ _ _ _ _ (got_of (by decide +kernel)) (.inr ⟨by decide +kernel, rfl⟩) (gets_of (by decide +kernel) (by decide +kernel)) (by decide +kernel) (puts_of (by decide +kernel)), by decide +kernel⟩
theorem wit_join_last : Happens ScheduleEvent (plain (record 1)) (.joinDecrement 0 0x2000000) :=
  ⟨_, .joinLast _ _ _ _ _ _ _ (got_of (by decide +kernel)) (.inr ⟨by decide +kernel, rfl⟩) (gets_of (by decide +kernel) (by decide +kernel)) (by decide +kernel) (puts_of (by decide +kernel)), by decide +kernel⟩
def gone (h : Hoist) : Hoist := { h with regs := { h.regs with slices := h.regs.slices.map fun x => { x with exited := true } } }
/-- A grid entry at 0x2000000 in a state, with a packet of one block of one hoist of 16 lanes. -/
def entry (state vcode : Nat) : State → State :=
  withMem (0x10000 + 176) (natLe 8 0x20000) ∘ withMem 0x2000000 ([0, BitVec.ofNat 8 vcode, 0, 0] ++ natLe 4 0x101 ++ natLe 8 0x10000 ++ natLe 4 1 ++ natLe 4 1 ++ natLe 4 1 ++
    [3, 4] ++ natLe 18 0 ++ natLe 8 0x20100 ++ natLe 24 7 ++ natLe 4 state)
theorem wit_retire_last : Happens ScheduleEvent (plain (entry 2 1 ∘ onHoist gone)) (.hoistRetire 0) :=
  ⟨_, .retireLast _ _ _ _ _ _ _ ⟨_, got_of (by decide +kernel), by decide +kernel, got_of (by decide +kernel), rfl, by decide +kernel⟩ (.inl (by decide +kernel)) (got_of (by decide +kernel)) (gets_of (by decide +kernel) (by decide +kernel)) (puts_of (by decide +kernel))
    (.inl (by decide +kernel)), by decide +kernel⟩
theorem wit_retire_ends : Happens ScheduleEvent (plain (entry 3 1 ∘ onHoist gone)) (.hoistRetire 0) :=
  ⟨_, .retireEnds _ _ _ _ _ _ _ _ ⟨_, got_of (by decide +kernel), by decide +kernel, got_of (by decide +kernel), rfl, by decide +kernel⟩ (.inl (by decide +kernel)) (got_of (by decide +kernel)) (gets_of (by decide +kernel) (by decide +kernel)) (puts_of (by decide +kernel))
    (by decide +kernel) (by decide +kernel) (puts_of (by decide +kernel)), by decide +kernel⟩
theorem wit_retire_replica : Happens ScheduleEvent (plain (onHoist gone ∘ onBlock fun b => { b with replicas := 2 })) (.hoistRetire 0) :=
  ⟨_, .retireReplica _ _ _ ⟨_, got_of (by decide +kernel), by decide +kernel, got_of (by decide +kernel), rfl, by decide +kernel⟩ (by unfold LastReplica; decide +kernel), by decide +kernel⟩
def pairOfHoists (s : State) : State := { s with hoists := [gone (Hoist.start 0 0 0 16 4 0), Hoist.start 1 0 1 16 4 0] }
theorem wit_retire : Happens ScheduleEvent (plain pairOfHoists) (.hoistRetire 0) :=
  ⟨_, .retire _ _ _ _ (got_of (by decide +kernel)) (by decide +kernel) (got_of (by decide +kernel)) rfl (by decide +kernel), by decide +kernel⟩
theorem wit_kill : Happens ScheduleEvent (withWork [.fill 1 farWin 0 64 0] slotted) (.blockKill 100) :=
  ⟨_, .kill _ (flight0 (.fill 1 farWin 0 64 0)) _ _ _ _ _ _ rfl (got2_of (by decide +kernel)) (by decide +kernel) (got_of (by decide +kernel)) (got_of (by decide +kernel)) (by decide +kernel)
    (fun x hx _ j h => by
      have := (by decide +kernel : ∀ x ∈ (withWork [.fill 1 farWin 0 64 0] slotted).flights, x.work = .fill 1 farWin 0 64 0) x hx
      rw [this] at h; cases h) rfl rfl, by decide +kernel⟩
def token0 (r : Bool) : Token := ⟨5, 0, 0, r, false, 0, 0x1234, 0, [], [], []⟩
def asking (r : Bool) (depth : Word) (s : State) : State := { s with tokens := [token0 r], host := { s.host with enable := true, fldepth := depth, flring := 0x3000 } }
theorem wit_request : Happens ScheduleEvent (asking false 4 State.reset) (.translationRequest 5) :=
  ⟨_, .request _ (token0 false) (by decide +kernel) rfl rfl rfl (by decide +kernel), by decide +kernel⟩
theorem wit_request_waits : Happens ScheduleEvent (asking true 4 State.reset) (.translationRequest 5) :=
  ⟨_, .requestWaits _ (token0 true) (by decide +kernel) rfl rfl (.inl rfl), by decide +kernel⟩
theorem wit_ready : Happens ScheduleEvent (plain (entry 1 1)) (.gridReady 0 0) :=
  ⟨_, .ready _ _ _ _ _ _ _ _ _ _ _ _ ⟨got_of (by decide +kernel), gets_of (by decide +kernel) (by decide +kernel), by decide +kernel, by decide +kernel, puts_of (by decide +kernel)⟩ (.inl ⟨by decide +kernel, rfl, rfl⟩)
    (.inl ⟨by decide +kernel, rfl, rfl⟩) (by decide +kernel) (puts_of (by decide +kernel)) (by decide +kernel) (puts_of (by decide +kernel)), by decide +kernel⟩
/-- The packet takes its counts from 0x2000400. -/
def indirect : State → State := withMem 0x2000000 [1] ∘ withMem 0x2000010 (natLe 12 0x2000400)
theorem wit_ready_empty : Happens ScheduleEvent (plain (indirect ∘ entry 1 1)) (.gridReady 0 0) :=
  ⟨_, .readyEmpty _ _ _ _ _ _ _ _ _ _ _ _ ⟨got_of (by decide +kernel), gets_of (by decide +kernel) (by decide +kernel), by decide +kernel, by decide +kernel, puts_of (by decide +kernel)⟩
    (.inr ⟨by decide +kernel, by decide +kernel, _, gets_of (by decide +kernel) (by decide +kernel), rfl⟩) (.inl ⟨by decide +kernel, rfl, rfl⟩) (by decide +kernel) (puts_of (by decide +kernel)) (by decide +kernel) (puts_of (by decide +kernel)), by decide +kernel⟩
theorem wit_ready_bad : Happens ScheduleEvent (plain (entry 1 7)) (.gridReady 0 0) :=
  ⟨_, .readyBad _ _ _ _ _ _ _ _ _ ⟨got_of (by decide +kernel), gets_of (by decide +kernel) (by decide +kernel), by decide +kernel, by decide +kernel, puts_of (by decide +kernel)⟩ (.inl ⟨by decide +kernel, rfl, rfl⟩)
    (by decide +kernel) (by decide +kernel) (puts_of (by decide +kernel)), by decide +kernel⟩
/-- The packet names an argument block at 0x2000400 that asks for nine registers. -/
def badArgs : State → State := withMem 0x2000028 (natLe 8 0x20004) ∘ withMem 0x2000400 [0, 0, 9]
theorem wit_ready_args : Happens ScheduleEvent (plain (badArgs ∘ entry 1 1)) (.gridReady 0 0) :=
  ⟨_, .readyBadArgs _ _ _ _ _ _ _ _ _ _ _ ⟨got_of (by decide +kernel), gets_of (by decide +kernel) (by decide +kernel), by decide +kernel, by decide +kernel, puts_of (by decide +kernel)⟩ (.inl ⟨by decide +kernel, rfl, rfl⟩)
    (.inr ⟨by decide +kernel, _, _, gets_of (by decide +kernel) (by decide +kernel), .inl ⟨by decide +kernel, rfl, rfl⟩⟩) (by decide +kernel) (puts_of (by decide +kernel)), by decide +kernel⟩
def ending : State := plain ((fun s => { s with ends := [⟨0, 0, 0, some 0⟩] }) ∘ entry 4 1)
theorem wit_grid_end : MayHappen ScheduleEvent ending (.gridEnd 0 0) := by
  refine ⟨_, .gridEnd 0 0 _ _ _ ⟨0, 0, 0, some 0⟩ 0 _ _ _ (got_of ?_) ?_ (gets_of ?_ ?_) ?_ rfl ?_ ?_ (puts_of ?_) (puts_of ?_) (puts_of ?_) ?_⟩
  all_goals decide +kernel
theorem wit_evaluate : Happens ScheduleEvent State.reset (.ensignEvaluation 3) :=
  ⟨_, .evaluateNothing _ (by decide +kernel) (by decide +kernel) (by decide +kernel) (by decide +kernel), by decide +kernel⟩
/-- The Ensign of core 0 runs, the context's mask holds that core, and its launch and ready queues are empty. -/
def staffed (s : State) : State := { withMem (0x10000 + 256) (natLe 8 (2 ^ 62 + 2 ^ 60 + 2 ^ 53) ++ natLe 8 0x20080 ++
    natLe 8 (2 ^ 62 + 3 * 2 ^ 58 + 2 ^ 53) ++ natLe 8 0x20040) (onCtx (fun c => { c with coremask := 1 }) s) with
  hoists := s.hoists ++ [Hoist.agent s.die .ensign (ensignSrc 0)] }
/-- The grid of entry 0 is READY; the block that stands on core 0 is of another grid, or leaves it no room. -/
def offered (other : Bool) : State := plain (staffed ∘ entry 2 1 ∘ onBlock fun b => { b with entry := if other then 9 else 0 })
/-- What core 0 finds when it evaluates. -/
abbrev seen (s : State) : List Cand × State := (s.prepare 0).candidatesOf 0
/-- The grid that a candidate names is admitted whole to the core, or has no room there. -/
def gridTakes (u : State) (x : Cand) : Bool :=
  match u.ctx? x.ctx, x.what with
  | some c, .grid e b =>
    let bs := (claimed u c e b 0).map (newNeed (if 1 < (packetOf (b.take 64)).span then 2 else 0))
    let ticket := natLe 8 (entryTicket b + (packetOf (b.take 64)).span)
    let state := sjBytes 0 0 (if entryTicket b + (packetOf (b.take 64)).span < (packetOf (b.take 64)).blocks then 2 else 3)
    u.admits 0 c && bs.length == 1 && bs.all (fun x => u.fits x.1 0 x.2.1 x.2.2) && (packetOf (b.take 64)).argp == 0 &&
      match u.range (.agent 0) c .store ⟨true, false⟩ (u.gridVa c e + 64) ticket.length with
      | (.ok rs, v) =>
        let v := v.writeRuns c.id rs ticket
        (v.range (.agent 0) c .store ⟨true, false⟩ (v.gridVa c e + 80) state.length).1.isOk
      | _ => false
  | _, _ => false
def gridWaits (u : State) (x : Cand) : Bool :=
  match u.ctx? x.ctx, x.what with
  | some c, .grid e b => u.admits 0 c &&
      (u.placeClaim 0 c ((claimed u c e b 0).map (newNeed (if 1 < (packetOf (b.take 64)).span then 2 else 0)))).isNone
  | _, _ => false
theorem placed_one {s : State} {core : Nat} {c : Ctx} {bs : List (Block × Need × Nat)} (h : bs.length = 1)
    (h2 : (bs.all fun x => s.fits x.1 core x.2.1 x.2.2) = true) : Placed s core c bs [core] := by
  match bs with
  | [x] => exact .inl ⟨x, rfl, rfl, by simpa using h2⟩
theorem takes_of {u : State} {x : Cand} (h : gridTakes u x = true) : ∃ v, Admitted u 0 x v := by
  unfold gridTakes at h
  split at h
  · rename_i c e b hc hw
    simp only [Bool.and_eq_true, beq_iff_eq] at h
    obtain ⟨⟨⟨⟨ha, hn⟩, hf⟩, hp⟩, h⟩ := h
    split at h
    · rename_i rs v hr
      exact ⟨_, .grid _ _ _ _ _ _ _ _ _ hc ha hw rfl (placed_one hn hf) ⟨rs, v, hr, rfl⟩ (puts_of h) (.inl ⟨hp, rfl, rfl⟩)⟩
    · cases h
  · cases h
theorem waits_of {u : State} {x : Cand} (h : gridWaits u x = true) : Unfit u 0 x := by
  unfold gridWaits at h
  split at h
  · rename_i c e b hc hw
    simp only [Bool.and_eq_true, Option.isNone_iff_eq_none] at h
    exact ⟨c, e, b, hc, h.1, hw, h.2⟩
  · cases h
/-- A first candidate that waits is remembered. -/
def firstKept (u : State) (x : Cand) : State := State.parkFor { u with
  candidates := ⟨0, x.ctx, x.key, u.firstSince 0 x, false⟩ :: u.candidates.filter (·.core != 0) } 0 x
/-- A core holds admission for nothing. -/
def freeB (s : State) (core : Nat) (xs : List Cand) : Bool :=
  (s.heldFor core xs).isNone && s.candidates.all fun h => h.core != core || !s.hidden core h
theorem free_of_held {s : State} {core : Nat} {xs : List Cand} (h : freeB s core xs = true) : Free s core xs := by
  simp only [freeB, Bool.and_eq_true, Option.isNone_iff_eq_none, List.all_eq_true, Bool.or_eq_true, bne_iff_ne, Bool.not_eq_true'] at h
  exact ⟨h.1, fun x hx hc => (h.2 x hx).elim (fun hn => absurd hc hn) id⟩
/-- Core 0 admits its first candidate; it has one candidate, which waits; it has two, and admits the second; it waits for the
one that it holds admission for. -/
def takesFirst (s : State) : Bool := match seen s with | (x :: xs, u) => freeB u 0 (x :: xs) && gridTakes u x | _ => false
def oneWaits (s : State) : Bool := match seen s with | ([x], u) => freeB u 0 [x] && gridWaits u x | _ => false
def takesSecond (s : State) : Bool :=
  match seen s with
  | ([x, y], u) => freeB u 0 [x, y] && gridWaits u x && gridTakes (firstKept u x) y
  | _ => false
def heldOneWaits (s : State) : Bool := match seen s with | (xs, u) => (u.heldFor 0 xs).any (gridWaits u)
theorem takesFirst_of {s : State} (h : takesFirst s = true) : MayHappen ScheduleEvent s (.ensignEvaluation 0) := by
  unfold takesFirst at h
  split at h
  · rename_i x xs u hx
    simp only [Bool.and_eq_true] at h
    obtain ⟨v, hv⟩ := takes_of h.2
    exact ⟨_, .takes 0 _ u x v hx (.inr ⟨free_of_held h.1, xs, rfl⟩) hv⟩
  · cases h
theorem oneWaits_of {s : State} (h : oneWaits s = true) : MayHappen ScheduleEvent s (.ensignEvaluation 0) := by
  unfold oneWaits at h
  split at h
  · rename_i x u hx
    simp only [Bool.and_eq_true] at h
    exact ⟨_, .firstWaits 0 x u hx (free_of_held h.1) (waits_of h.2)⟩
  · cases h
theorem takesSecond_of {s : State} (h : takesSecond s = true) : MayHappen ScheduleEvent s (.ensignEvaluation 0) := by
  unfold takesSecond at h
  split at h
  · rename_i x y u hx
    simp only [Bool.and_eq_true] at h
    obtain ⟨v, hv⟩ := takes_of h.2
    exact ⟨_, .takesNext 0 x y u _ v hx (free_of_held h.1.1) (waits_of h.1.2) rfl hv⟩
  · cases h
theorem heldOneWaits_of {s : State} (h : heldOneWaits s = true) : MayHappen ScheduleEvent s (.ensignEvaluation 0) := by
  unfold heldOneWaits at h
  split at h
  rename_i xs u hs
  obtain ⟨x, hx, hw⟩ := (Option.any_eq_true _ _).1 h
  exact ⟨_, .heldWaits 0 xs u x hs hx (waits_of hw)⟩
theorem wit_takes : MayHappen ScheduleEvent (offered true) (.ensignEvaluation 0) := takesFirst_of (by decide +kernel)
theorem wit_first_waits : MayHappen ScheduleEvent (offered false) (.ensignEvaluation 0) := oneWaits_of (by decide +kernel)
/-- Core 0 has held admission for the grid of entry 0 for 1 ms. -/
def heldBack : State := { offered false with candidates := [⟨0, 0, Cand.key ⟨0, 0, 0, .grid 0 []⟩, 0, true⟩] }
theorem wit_held_waits : MayHappen ScheduleEvent heldBack (.ensignEvaluation 0) := heldOneWaits_of (by decide +kernel)
/-- The candidate that core 0 holds admission for cannot be seen. -/
def unseen (s : State) : Bool :=
  match seen s with
  | (xs, u) => (u.heldFor 0 xs).isNone && u.candidates.any fun h => h.core == 0 && h.holding && match u.ctx? h.ctx with
    | some c => c.coremask.getLsbD 0 && !c.faulted && !c.destroying && !u.issues c.id
    | none => false
theorem unseen_of {s : State} (h : unseen s = true) : MayHappen ScheduleEvent s (.ensignEvaluation 0) := by
  unfold unseen at h
  split at h
  rename_i xs u hs
  simp only [Bool.and_eq_true, Option.isNone_iff_eq_none, List.any_eq_true, beq_iff_eq] at h
  obtain ⟨hf, x, hx, ⟨hc, hh⟩, hm⟩ := h
  cases hu : u.ctx? x.ctx with
  | none => rw [hu] at hm; cases hm
  | some c =>
    simp only [hu, Bool.and_eq_true, Bool.not_eq_true'] at hm
    exact ⟨_, .heldUnseen 0 xs u x hs hf ⟨hx, hc, hh, c, hu, hm.1.1.1, hm.1.1.2, hm.1.2, hm.2⟩⟩
theorem wit_held_unseen : MayHappen ScheduleEvent (onCtx (fun c => { c with mirror := some { mirror0 with phase := .quiesce } }) heldBack)
    (.ensignEvaluation 0) := unseen_of (by decide +kernel)
/-- A second grid, in entry 1, that came later and has more room. -/
def twoOffered : State := { withMem 0x2000100 ([0, 1, 0, 0] ++ natLe 4 0x7F7F7F ++ natLe 8 0x10000 ++ natLe 4 1 ++ natLe 4 1 ++ natLe 4 1 ++
    [3, 4] ++ natLe 18 0 ++ natLe 8 0x20100 ++ natLe 24 7 ++ natLe 4 2 ++ natLe 12 0 ++ natLe 8 9) (offered false) with time := 100 }
theorem wit_takes_next : MayHappen ScheduleEvent twoOffered (.ensignEvaluation 0) := takesSecond_of (by decide +kernel)
/-- A frame pool of the context with one frame, at 0x2800000. -/
def pool : State → State := withMem (0x10000 + 192) (natLe 4 0x8000) ∘ withMem (0x10000 + 288) (natLe 8 (2 ^ 62 + 2 ^ 58 + 2 ^ 54) ++ natLe 8 0x20000) ∘
  withMem 0x2000000 (natLe 4 0 ++ natLe 4 1 ++ natLe 56 0 ++ natLe 8 0x28000)
def stopping (k : Nat) : State → State := onBlock fun b => { b with residency := .stopping k, segSize := 0 }
theorem push_of {x : Except RangeFault (List (List Byte) × State)} {b : List Byte} (h : x.isOk = true) (hb : (gotten ([], State.reset) x).1 = [b]) :
    x = .ok ([b], (gotten ([], State.reset) x).2) := by
  rw [← hb]
  exact ok_of _ h
theorem wit_save : MayHappen ScheduleEvent (plain (staffed ∘ pool ∘ stopping 1)) (.preemptSave 0) := by
  refine ⟨_, .save _ _ _ 1 _ _ (natLe 8 0x28000) _ _ _ _ (got_of ?_) (got_of ?_) ?_ ?_ ?_ ?_ ?_ ?_ (got2_of ?_) (push_of ?_ ?_) rfl rfl (puts_of ?_)⟩ <;> decide +kernel
def isOk (x : Acted) : Bool := match x with | .ok _ => true | _ => false
def actedOf : Acted → State | .ok s => s | _ => State.reset
theorem acted_of {x : Acted} (h : isOk x = true) : x = .ok (actedOf x) := by
  cases x with
  | ok s => rfl
  | _ => cases h
/-- Bytes that the Ensign of core 0 reads, with the state after. -/
def read0 (s : State) (c : Ctx) (va : VAddr) (n : Nat) : Option (List Byte × State) :=
  match s.range (.agent 0) c .load ⟨true, false⟩ va n with
  | (.ok rs, u) => if u.runsPoisoned rs then none else some (u.readRuns rs, u)
  | _ => none
theorem gets_of_read {s u : State} {c : Ctx} {va : VAddr} {n : Nat} {b : List Byte} (h : read0 s c va n = some (b, u)) : Gets s 0 c va n b u := by
  unfold read0 at h
  split at h
  · rename_i rs v hr
    split at h
    · cases h
    · rename_i hp
      cases h
      exact ⟨rs, hr, by simpa using hp, rfl⟩
  · cases h
/-- A START record of a block without a span is taken. -/
def freshTakes (u : State) (x : Cand) : Bool :=
  match u.ctx? x.ctx, x.what with
  | some c, .record r =>
    let k := recordOf r.2
    let e := u.recordEntry c k
    u.admits 0 c && (k.kind == 0 || k.kind == 5) && decide (k.acls ≤ 2) && k.res == 0 && u.inTable c k &&
    match read0 u c (u.gridVa c e) 256 with
    | some (b, v) =>
      let y : Block := { (packetOf (b.take 64)).block (u.entryWidth c e b) c.id e (k.code % 2 ^ 48) (bitsOf k.code 49 48) with id := u.nextId }
      v == u && !k.entryBad b && (packetOf (b.take 64)).span == 1 && u.fits y 0 (newNeed k.acls y).2.1 0 &&
      match read0 { u with nextId := u.nextId + 1 } c (u.gridVa c e) 256 with
      | some (b', v) => (packetOf (b'.take 64)).argp == 0 &&
          isOk ((arrived v y 0 u.nextId (packetOf (b'.take 64)).entry (argsOf (List.replicate 32 0)) (BitVec.ofNat 32 (entryGen b' * 256 + e))).takeReady
            0 c [r] Act.ok)
      | none => false
    | none => false
  | _, _ => false
theorem fresh_of {u : State} {x : Cand} (h : freshTakes u x = true) : ∃ v, Admitted u 0 x v := by
  unfold freshTakes at h
  split at h
  · rename_i c r hc hw
    simp only [Bool.and_eq_true, decide_eq_true_eq, beq_iff_eq, Bool.or_eq_true] at h
    obtain ⟨⟨⟨⟨⟨ha, hk⟩, hl⟩, hr⟩, ht⟩, h⟩ := h
    split at h
    · rename_i b v hg
      simp only [Bool.and_eq_true, beq_iff_eq, Bool.not_eq_true'] at h
      obtain ⟨⟨⟨⟨rfl, he⟩, hs⟩, hf⟩, h⟩ := h
      split at h
      · rename_i b' w hg'
        simp only [Bool.and_eq_true, beq_iff_eq] at h
        exact ⟨_, .fresh _ _ _ _ _ _ _ _ _ _ _ hc ha hw rfl hk hl hr ht rfl (gets_of_read hg) he hs rfl hf (gets_of_read hg')
          (.inl ⟨h.1, rfl, rfl⟩) (acted_of h.2)⟩
      · cases h
    · cases h
  · cases h
/-- The first candidate of core 0 is a record that it takes. -/
def takesRecord (s : State) : Bool :=
  match seen s with | (x :: xs, u) => freeB u 0 (x :: xs) && freshTakes u x | _ => false
theorem takesRecord_of {s : State} (h : takesRecord s = true) : MayHappen ScheduleEvent s (.ensignEvaluation 0) := by
  unfold takesRecord at h
  split at h
  · rename_i x xs u hx
    simp only [Bool.and_eq_true] at h
    obtain ⟨v, hv⟩ := fresh_of h.2
    exact ⟨_, .takes 0 _ u x v hx (.inr ⟨free_of_held h.1, xs, rfl⟩) hv⟩
  · cases h
/-- The ready queue holds the START record of block 0 of entry 0. -/
def startReady : State := plain (withMem 0x2004000 (natLe 4 0 ++ natLe 4 1 ++ natLe 56 0 ++
    Record.bytes { source := 0, enq := 0, kind := 0, span := 0, acls := 0, prio := 0, ctx := 0, join := 0, frame := 0x20000, code := 0, res := 0 }) ∘
  staffed ∘ entry 3 1 ∘ onBlock fun b => { b with entry := 9 })
theorem wit_takes_record : MayHappen ScheduleEvent startReady (.ensignEvaluation 0) := takesRecord_of (by decide +kernel)
theorem wit_save_waits : Happens ScheduleEvent (withWork [.fill 1 segWin 0 64 0] (stopping 1)) (.preemptSave 0) :=
  ⟨_, .saveWaits _ _ _ (got_of (by decide +kernel)) (got_of (by decide +kernel)) (by decide +kernel) (by decide +kernel), by decide +kernel⟩
def atMonitor : State → State := onHoist fun h => h.updGroup 0 fun g => { g with wait := .monitor }
theorem wit_park : MayHappen ScheduleEvent (plain (staffed ∘ pool ∘ atMonitor ∘ onBlock fun b => { b with segSize := 0 })) (.blockPark 0) :=
  ⟨_, .park _ _ (got_of (by decide +kernel)) (by decide +kernel)⟩
theorem wit_park_not : Happens ScheduleEvent (plain (stopping 1)) (.blockPark 0) :=
  ⟨_, .parkNot _ _ (got_of (by decide +kernel)) (by decide +kernel) (by decide +kernel), by decide +kernel⟩
theorem wit_coremask : Happens ScheduleEvent (plain id) (.coremaskCommit 0 3) :=
  ⟨_, .coremask _ _ _ _ _ (got_of (by decide +kernel)) rfl rfl, by decide +kernel⟩
theorem wit_hold : Happens ScheduleEvent ({ State.reset with candidates := [⟨3, 0, 0, 0, false⟩], time := 1200000 }) (.admissionHold 3) :=
  ⟨_, .hold _, by decide +kernel⟩
theorem wit_resolve_retry : Happens ScheduleEvent (asking true 4 State.reset) (.resolveRetry 0 5) :=
  ⟨_, .resolveRetry _ _ (token0 true) rfl (by decide +kernel), by decide +kernel⟩
theorem wit_resolve_refuse : Happens ScheduleEvent (asking true 4 (plain id)) (.resolveRefuse 0 5) :=
  ⟨_, .resolveRefuse _ _ (token0 true) rfl (by decide +kernel) rfl (by decide +kernel), by decide +kernel⟩
/-- A parked record at 0x2000000 waits for the token. -/
def askingParked : State := { asking true 4 (plain id) with tokens := [{ token0 true with records := [(0x2000000, [0])] }] }
theorem wit_resolve_parked : Happens ScheduleEvent askingParked (.resolveRefuse 0 5) :=
  ⟨_, .resolveRefuseParked _ _ { token0 true with records := [(0x2000000, [0])] } _ _ rfl (by decide +kernel) (got_of (by decide +kernel)) (acted_of (by decide +kernel)), by decide +kernel⟩
theorem wit_resolve_unknown : Happens ScheduleEvent (asking true 4 State.reset) (.resolveRetry 1 5) :=
  ⟨_, .resolveUnknown _ _ _ 0 (.inl ⟨rfl, rfl⟩) rfl (by decide +kernel), by decide +kernel⟩
theorem wit_resolve_disabled : Happens ScheduleEvent State.reset (.resolveRetry 1 5) :=
  ⟨_, .resolveDisabled _ _ _ (.inl rfl) rfl, by decide +kernel⟩

/-! ### Host and power events -/

/-- The part with its host interface enabled and one context in its table, its descriptor at 0x10000. -/
def enabled (s : State) : State := withMem 0x8000 (natLe 8 0x10001) (withMem (0x10000 + 128) (natLe 4 0x10000)
  { s with host := { s.host with configReady := true, barReady := true, enable := true, ctxtab := 0x8000 } })
/-- The launch queue of context 0: 64-byte elements, header at 0x2000000. -/
def launchQueue : State → State := withMem (0x10000 + 256) (natLe 8 (2 ^ 62 + 2 ^ 60 + 2 ^ 53) ++ natLe 8 0x20000)
def served (s : State) : State := launchQueue (enabled (plain fun _ => s))
theorem push2_of {x : Except RangeFault (Nat × State)} {k : Nat} (h : x.isOk = true) (hb : (gotten (0, State.reset) x).1 = k) :
    x = .ok (k, (gotten (0, State.reset) x).2) := by
  rw [← hb]
  exact ok_of _ h
def fullQueue : State → State := withMem 0x2000000 (natLe 4 0 ++ natLe 4 2)
def live (f : State → State) : State := f (launchQueue (enabled (plain id)))
theorem push_to {f : State → State} {data : List Byte} (h : (live f).host.enable = true) (h2 : ((live f).ctx? (0 / 16)).isSome = true)
    (h3 : ((live f).ctxQueue (((live f).ctx? (0 / 16)).get h2).firstCore (((live f).ctx? (0 / 16)).get h2) (0 % 16)).isSome = true)
    (h4 : data.length = (((live f).ctxQueue (((live f).ctx? (0 / 16)).get h2).firstCore (((live f).ctx? (0 / 16)).get h2) (0 % 16)).get h3).2.size ∧
      ((((live f).ctxQueue (((live f).ctx? (0 / 16)).get h2).firstCore (((live f).ctx? (0 / 16)).get h2) (0 % 16)).get h3).2.size = 32 ∨
      (((live f).ctxQueue (((live f).ctx? (0 / 16)).get h2).firstCore (((live f).ctx? (0 / 16)).get h2) (0 % 16)).get h3).2.size = 64)) :
    PushTo (live f) 0 data (((live f).ctxQueue (((live f).ctx? (0 / 16)).get h2).firstCore (((live f).ctx? (0 / 16)).get h2) (0 % 16)).get h3).1
      (((live f).ctxQueue (((live f).ctx? (0 / 16)).get h2).firstCore (((live f).ctx? (0 / 16)).get h2) (0 % 16)).get h3).2 :=
  ⟨h, _, got_of h2, got2_of h3, h4⟩
def data64 : List Byte := List.replicate 64 3
theorem wit_dmwr : Happens HostEvent (live id) (.pushDmwr 0 data64) :=
  ⟨_, .dmwr _ _ _ _ 0 _ (push_to (by decide +kernel) (by decide +kernel) (by decide +kernel) (by decide +kernel)) (push2_of (by decide +kernel) (by decide +kernel)), by decide +kernel⟩
theorem wit_dmwr_full : Happens HostEvent (live fullQueue) (.pushDmwr 0 data64) :=
  ⟨_, .dmwrFull _ _ _ _ _ (push_to (by decide +kernel) (by decide +kernel) (by decide +kernel) (by decide +kernel)) (push2_of (by decide +kernel) (by decide +kernel)), by decide +kernel⟩
theorem wit_dmwr_none : Happens HostEvent (live id) (.pushDmwr 16 data64) := ⟨_, .dmwrNone _ _ (.inr (by decide +kernel)), by decide +kernel⟩
theorem wit_posted : Happens HostEvent (live id) (.pushPosted 0 data64) :=
  ⟨_, .posted _ _ _ _ 0 _ (push_to (by decide +kernel) (by decide +kernel) (by decide +kernel) (by decide +kernel)) (push2_of (by decide +kernel) (by decide +kernel)), by decide +kernel⟩
theorem wit_posted_full : Happens HostEvent (live fullQueue) (.pushPosted 0 data64) :=
  ⟨_, .postedFull _ _ _ _ _ (push_to (by decide +kernel) (by decide +kernel) (by decide +kernel) (by decide +kernel)) (push2_of (by decide +kernel) (by decide +kernel)), by decide +kernel⟩
theorem commands_of {s : State} {cmd : Nat} {n : BitVec 6} {dpa : Nat} (h : s.host.enable = true ∧ s.host.busy = none ∧ s.tableEntry n.toNat = some dpa) :
    Commands s cmd n dpa { s with host := { s.host with cmd := cmd, cmdCtx := n.toNat } } := ⟨h.1, h.2.1, h.2.2, rfl⟩
theorem wit_activate : Happens HostEvent (enabled State.reset) (.activate 0) :=
  ⟨_, .activate _ 0x10000 _ _ (commands_of (by decide +kernel)) (by decide +kernel) rfl (by decide +kernel), by decide +kernel⟩
theorem wit_activate_bad : Happens HostEvent (live id) (.activate 0) :=
  ⟨_, .activateBad _ 0x10000 _ (commands_of (by decide +kernel)) (by decide +kernel), by decide +kernel⟩
theorem wit_refresh : Happens HostEvent (live id) (.refresh 0) :=
  ⟨_, .refresh _ 0x10000 _ _ _ (commands_of (by decide +kernel)) (got_of (by decide +kernel)) rfl (by decide +kernel), by decide +kernel⟩
theorem wit_destroy : Happens HostEvent (live id) (.destroy 0) :=
  ⟨_, .destroy _ 0x10000 _ _ (commands_of (by decide +kernel)) (got_of (by decide +kernel)), by decide +kernel⟩
theorem wit_destroy_none : Happens HostEvent (enabled State.reset) (.destroy 0) :=
  ⟨_, .destroyNone _ 0x10000 _ (commands_of (by decide +kernel)) (by decide +kernel), by decide +kernel⟩
theorem wit_discarded : Happens HostEvent State.reset (.refresh 0) := ⟨_, .discarded _ 0 (.inr (.inl rfl)) rfl, by decide +kernel⟩
theorem wit_expansion : Happens HostEvent (enabled State.reset) (.expansionCommand data64 false) :=
  ⟨_, .expansion _ _ (by decide +kernel) (by decide +kernel) (by decide +kernel), by decide +kernel⟩
def queued8 (s : State) : State := { s with host := { s.host with expq := List.replicate 8 (natLe 64 0) } }
theorem wit_expansion_full : Happens HostEvent (queued8 (enabled State.reset)) (.expansionCommand data64 false) :=
  ⟨_, .expansionFull _ (by decide +kernel) (by decide +kernel) (by decide +kernel), by decide +kernel⟩
/-- One command waits: 14 bytes of source at 0x100, the output at 0x200 within a bound, STATUS at 0x300. -/
def commanded (bound : Nat) (source : List Byte) (s : State) : State := withMem 0x100 source { s with host := { s.host with
  expq := [natLe 8 0x100 ++ natLe 8 source.length ++ natLe 16 0 ++ natLe 8 0x200 ++ natLe 8 bound ++ natLe 16 0x300] } }
/-- A frame of one raw block of one byte, with a Content_Checksum or without (RFC 8878). -/
def frame0 (check : List Byte) : List Byte :=
  [0x28, 0xB5, 0x2F, 0xFD] ++ [if check.isEmpty then 0x20 else 0x24] ++ [1, 9, 0, 0, 0xAA] ++ check
theorem wit_expanded : Happens HostEvent (commanded 1 (frame0 []) (enabled State.reset)) .expansionDone := by
  refine ⟨_, .expanded _ _ 0x100 10 0 0 0x200 1 0x300 _ [0xAA] ⟨rfl, rfl, rfl, rfl, rfl, rfl, rfl, rfl, rfl, ?_⟩ ?_ ?_ ?_ ?_ ?_ ?_ ?_,
    ?_⟩ <;> decide +kernel
theorem wit_expanded_size : MayHappen HostEvent (commanded 0 (frame0 []) (enabled State.reset)) .expansionDone := by
  refine ⟨_, .expandedBad _ _ 0x100 10 0 0 0x200 0 0x300 _ 1 ⟨rfl, rfl, rfl, rfl, rfl, rfl, rfl, rfl, rfl, ?_⟩ ?_
    (.size [0xAA] ?_ ?_ ?_ ?_ ?_ ?_)⟩ <;> decide +kernel
theorem wit_expanded_malformed : MayHappen HostEvent (commanded 1 [1, 2, 3, 4] (enabled State.reset)) .expansionDone := by
  refine ⟨_, .expandedBad _ _ 0x100 4 0 0 0x200 1 0x300 _ 2 ⟨rfl, rfl, rfl, rfl, rfl, rfl, rfl, rfl, rfl, ?_⟩ ?_
    (.malformed ?_ ?_ ?_ ?_ ?_)⟩ <;> decide +kernel
theorem wit_expanded_checksum : MayHappen HostEvent (commanded 1 (frame0 [1, 2, 3, 4]) (enabled State.reset)) .expansionDone := by
  refine ⟨_, .expandedWrong _ _ 0x100 14 0 0 0x200 1 0x300 _ 3 1 ⟨rfl, rfl, rfl, rfl, rfl, rfl, rfl, rfl, rfl, ?_⟩ ?_
    (.checksum 1 ?_ ?_ ?_ ?_ ?_ ?_)⟩ <;> decide +kernel
theorem wit_expanded_access : MayHappen HostEvent ({ commanded 1 (frame0 []) (enabled State.reset) with poison := [8] }) .expansionDone :=
  ⟨_, .expandedBad _ _ 0x100 10 0 0 0x200 1 0x300 _ 4 ⟨rfl, rfl, rfl, rfl, rfl, rfl, rfl, rfl, rfl, by decide +kernel⟩ (by decide +kernel)
    (.access (.inr (.inr (.inl (by decide +kernel)))))⟩
theorem wit_expanded_none : Happens HostEvent State.reset .expansionDone := ⟨_, .expandedNone rfl, by decide +kernel⟩
def ready (depth : Word) (s : State) : State := { s with host := { s.host with configReady := true, barReady := true, evdepth := depth, fldepth := 16 } }
theorem wit_enable : Happens HostEvent (ready 16 State.reset) (.enable 1) :=
  ⟨_, .enable _ rfl rfl (by decide +kernel) (by decide +kernel), by decide +kernel⟩
theorem wit_enable_bad : Happens HostEvent (ready 17 State.reset) (.enable 1) :=
  ⟨_, .enableBad _ rfl rfl (by decide +kernel) (by decide +kernel) (by decide +kernel), by decide +kernel⟩
theorem wit_enable_again : Happens HostEvent (enabled State.reset) (.enable 1) :=
  ⟨_, .enableAgain _ (by decide +kernel) (by decide +kernel), by decide +kernel⟩
theorem wit_cap : Happens HostEvent (ready 16 State.reset) (.registerWrite (telOff + 0x14) (natLe 4 640)) := by
  refine ⟨_, .cap _ rfl ?_ ?_ ?_ ?_, ?_⟩ <;> decide +kernel
theorem wit_register_none : Happens HostEvent State.reset (.registerWrite 0 [1]) := ⟨_, .registerNone _ _ rfl, by decide +kernel⟩
theorem wit_read : Happens HostEvent (ready 16 State.reset) (.hostAccess 0x1000 false (natLe 4 0)) :=
  ⟨_, .read _ _ rfl (by decide +kernel) (by decide +kernel), by decide +kernel⟩
theorem wit_host_write : Happens HostEvent (ready 16 State.reset) (.hostAccess 0x1000 true (natLe 4 77)) :=
  ⟨_, .write _ _ rfl (by decide +kernel) (by decide +kernel), by decide +kernel⟩
theorem wit_read_none : Happens HostEvent (ready 16 State.reset) (.hostAccess (2 ^ 51) false (natLe 4 0)) :=
  ⟨_, .readNone _ _ rfl (by decide +kernel) (by decide +kernel), by decide +kernel⟩
theorem wit_write_none : Happens HostEvent (ready 16 State.reset) (.hostAccess (2 ^ 51) true (natLe 4 0)) :=
  ⟨_, .writeNone _ _ rfl (by decide +kernel) (by decide +kernel), by decide +kernel⟩
theorem wit_config : Happens HostEvent State.reset .configSpaceReady := ⟨_, .configReady (by decide +kernel), by decide +kernel⟩
theorem wit_bar : Happens HostEvent (ready 16 State.reset) .bar0Ready := ⟨_, .barReady rfl, by decide +kernel⟩
theorem wit_d3 : Happens HostEvent State.reset .d3hotEntry := ⟨_, .d3hot rfl, by decide +kernel⟩
theorem wit_d3_not : Happens HostEvent (plain id) .d3hotEntry := ⟨_, .d3hotNot (by decide +kernel), by decide +kernel⟩
theorem wit_gate_clock : Happens HostEvent State.reset (.clusterClockGate 3) :=
  ⟨_, .gateClock _ (by decide +kernel) (by decide +kernel) (by decide +kernel), by decide +kernel⟩
def slowed (mhz : Nat) (s : State) : State := { s with power := { s.power with clockMHz := mhz, causes := 1, throttled := true }, time := 1200000 }
theorem wit_step_down : Happens HostEvent (slowed 450 State.reset) (.clockStepDown 1) :=
  ⟨_, .stepDown _ (by decide) (by decide +kernel) (by decide +kernel), by decide +kernel⟩
theorem wit_step_down_first : MayHappen HostEvent State.reset (.clockStepDown 2) :=
  ⟨_, .stepDownFirst _ _ (by decide) (by decide +kernel) rfl⟩
theorem wit_step_up : Happens HostEvent (slowed 450 State.reset) .clockStepUp := ⟨_, .stepUp (by decide +kernel), by decide +kernel⟩
theorem wit_throttle_end : MayHappen HostEvent (slowed State.reset.die.fullClock State.reset) .throttleEnd :=
  ⟨_, .throttleEnd _ rfl (by decide +kernel) (by decide +kernel) rfl⟩
def failing (dropped : Nat) (s : State) : State := { s with power := { s.power with dropped := dropped } }
theorem wit_ninth : Happens HostEvent (failing 8 State.reset) (.pseudoChannelFailing 79) :=
  ⟨_, .ninth _ rfl (by decide) (by decide +kernel) (by decide +kernel), by decide +kernel⟩
theorem wit_channel : MayHappen HostEvent State.reset (.pseudoChannelFailing 79) :=
  ⟨_, .channel _ _ _ rfl (by decide) (by decide +kernel) (by decide +kernel) rfl rfl⟩
theorem wit_rebuild : Happens HostEvent ({ State.reset with power := { State.reset.power with failing := [3], saving := true } }) (.interleaveRebuild 3) :=
  ⟨_, .rebuild _ _ _ (by decide +kernel) rfl rfl rfl, by decide +kernel⟩

/-! ### Link and checkpoint events -/

/-- The link up on a die. -/
def linked (d : Die) (s : State) : State := { s with die := d, link := { s.link with up := true, dockTable := 0x9000 } }
theorem wit_hello : MayHappen LinkEvent State.reset (.hello 7 0x9000) := ⟨_, .hello _ _ _ rfl rfl rfl⟩
theorem wit_hello_companion : Happens LinkEvent ({ State.reset with die := .companion }) (.hello 7 0x9000) :=
  ⟨_, .helloCompanion _ _ rfl rfl, by decide +kernel⟩
theorem wit_timesync : Happens LinkEvent (linked .tsuord State.reset) (.timesync 9 1) := ⟨_, .timesync _ _ rfl rfl (by decide), by decide +kernel⟩
theorem wit_timesync_ahead : Happens LinkEvent ({ linked .tsuord State.reset with time := 9 }) (.timesync 9 1) :=
  ⟨_, .timesyncAhead _ _ rfl rfl (by decide), by decide +kernel⟩
theorem wit_timesync_behind : Happens LinkEvent (linked .companion State.reset) (.timesync 9 1) :=
  ⟨_, .timesyncBehind _ _ _ rfl rfl rfl (by decide), by decide +kernel⟩
theorem wit_timesync_before : Happens LinkEvent ({ linked .companion State.reset with time := 11 }) (.timesync 9 1) :=
  ⟨_, .timesyncBefore _ _ _ rfl rfl rfl (by decide), by decide +kernel⟩
theorem wit_migrate_busy : Happens LinkEvent (linked .tsuord (enabled State.reset)) (.migrate 0) :=
  ⟨_, .migrateBusy _ rfl rfl (by decide +kernel) (by decide +kernel), by decide +kernel⟩
theorem wit_migrate_bad : Happens LinkEvent (linked .tsuord State.reset) (.migrate 0) :=
  ⟨_, .migrateBad _ rfl rfl (.inl rfl) (.inl rfl), by decide +kernel⟩
/-- A dock entry of context 1 with an empty mirror. -/
def docked (s : State) : State := withMem (0x9000 + 64) (natLe 8 0x10001 ++ natLe 8 companionBase ++ natLe 4 1 ++ [1, 0] ++ natLe 42 0)
  (withMem companionBase (natLe 4 0 ++ [0x80]) s)
theorem wit_migrate_ok : MayHappen LinkEvent (linked .tsuord (docked (enabled State.reset))) (.migrate 1) := by
  refine ⟨_, .migrate _ _ _ _ rfl rfl ?_ ?_ ?_ rfl ?_ ?_ ?_ ?_ ?_ rfl (got_of ?_)⟩ <;> decide +kernel
theorem wit_migack : Happens LinkEvent (linked .companion State.reset) (.migack 3 0) := ⟨_, .migack _ rfl rfl, by decide +kernel⟩
theorem wit_migack_refused : Happens LinkEvent (linked .companion State.reset) (.migack 3 2) := ⟨_, .migackRefused _ _ (by decide), by decide +kernel⟩
/-- Context 0 with a mirror. -/
def mirrored (d : Die) (m : Mirror) : State := linked d (onCtx (fun c => { c with mirror := some m }) (enabled (plain id)))
theorem mirrored_of {d : Die} {m : Mirror} (h : ((mirrored d m).ctx? 0).isSome = true) (h2 : (((mirrored d m).ctx? 0).get h).mirror = some m) :
    Mirrored (mirrored d m) 0 (((mirrored d m).ctx? 0).get h) m := ⟨got_of h, h2⟩
theorem wit_return : Happens LinkEvent (mirrored .tsuord mirror0) (.returnCtx 0) :=
  ⟨_, .return_ _ _ _ rfl rfl (mirrored_of (by decide +kernel) (by decide +kernel)), by decide +kernel⟩
theorem wit_retdone : Happens LinkEvent (linked .companion State.reset) (.retdone 1 5) := ⟨_, .retdone _ _ rfl rfl (by decide +kernel), by decide +kernel⟩
theorem wit_retdone_applied : Happens LinkEvent (linked .companion State.reset) (.retdone 1 0) :=
  ⟨_, .retdoneApplied _ _ _ rfl rfl (by decide +kernel) ⟨_, _, rfl, rfl, rfl⟩, by decide +kernel⟩
/-- The dock entry of context 0 with a home table of one page, 5, in a state. -/
def homed (state : Nat) (s : State) : State := withMem (0x9000 + 20) (natLe 2 0 ++ natLe 2 1 ++ natLe 8 0xA000) (withMem 0xA000 (natLe 7 5 ++ natLe 17 0 ++ natLe 1 state) s)
def mirroredHome (state : Nat) (m : Mirror) : State := homed state (mirrored .tsuord m)
theorem mirrored_home {k : Nat} {m : Mirror} (h : ((mirroredHome k m).ctx? 0).isSome = true) (h2 : (((mirroredHome k m).ctx? 0).get h).mirror = some m) :
    Mirrored (mirroredHome k m) 0 (((mirroredHome k m).ctx? 0).get h) m := ⟨got_of h, h2⟩
theorem wit_homereq : Happens LinkEvent (mirroredHome 2 mirror0) (.homereq true 0 5) :=
  ⟨_, .homereq _ _ _ mirror0 rfl rfl (mirrored_home (by decide +kernel) (by decide +kernel)) (by decide +kernel) rfl, by decide +kernel⟩
def copying0 : Mirror := { mirror0 with phase := .copy }
theorem wit_homereq_later : Happens LinkEvent (mirroredHome 2 copying0) (.homereq true 0 5) :=
  ⟨_, .homereqLater _ _ _ copying0 rfl rfl (mirrored_home (by decide +kernel) (by decide +kernel)) (by decide +kernel) (by decide), by decide +kernel⟩
theorem wit_homereq_elsewhere : Happens LinkEvent (linked .companion State.reset) (.homereq false 0 5) :=
  ⟨_, .homereqElsewhere _ _ rfl rfl (by decide +kernel), by decide +kernel⟩
theorem nothing_of {α : Type} {o : Option α} {P : α → Prop} (h : o = none) : ∀ x, o = some x → P x := fun x hx => by
  rw [h] at hx; cases hx
theorem wit_homereq_served : MayHappen LinkEvent (linked .companion (homed 1 State.reset)) (.homereq false 0 5) :=
  ⟨_, .homereqServed _ _ _ rfl rfl (by decide +kernel) (nothing_of (by decide +kernel)) ⟨_, got_of (by decide +kernel), rfl⟩⟩
theorem wit_homedone_moved : MayHappen LinkEvent (mirroredHome 1 mirror0) (.homedone 0 5 2) :=
  ⟨_, .homedoneMoved _ _ _ rfl rfl (by decide +kernel) (nothing_of (by decide +kernel)) ⟨_, got_of (by decide +kernel), rfl⟩⟩
theorem wit_homedone : Happens LinkEvent (mirroredHome 2 mirror0) (.homedone 0 5 2) :=
  ⟨_, .homedone _ _ _ rfl rfl (by decide +kernel) (by decide +kernel), by decide +kernel⟩
theorem wit_ckmark : Happens LinkEvent (linked .companion State.reset) (.ckmark 1 3 1) := by
  refine ⟨_, .ckmark _ _ _ _ rfl rfl ?_ ?_ rfl ?_, ?_⟩ <;> decide +kernel
theorem wit_ckmark_done : Happens LinkEvent (linked .companion State.reset) (.ckmark 1 0 0) :=
  ⟨_, .ckmarkDone _ _ _ rfl rfl (by decide) (by decide +kernel) (by decide +kernel), by decide +kernel⟩
theorem wit_applied : Happens LinkEvent (mirrored .tsuord mirror0) (.applied 0 3) := ⟨_, .applied _ _ rfl rfl, by decide +kernel⟩
theorem wit_halyard : Happens LinkEvent (linked .tsuord State.reset) (.halyardReservedMessage 11 [1]) :=
  ⟨_, .reserved _ _ rfl (.inr (by decide)), by decide +kernel⟩
theorem wit_ckpt_go : Happens LinkEvent (mirrored .tsuord mirror0) (.ckptGo 0) :=
  ⟨_, .ckptGo _ _ mirror0 (mirrored_of (by decide +kernel) (by decide +kernel)) rfl, by decide +kernel⟩
theorem wit_ckpt_none0 : Happens LinkEvent State.reset (.ckptGo 0) := ⟨_, .ckptNone _ (fun c m h => by cases h.1), by decide +kernel⟩
theorem wit_period : Happens LinkEvent (mirrored .tsuord mirror0) (.checkpointPeriod 0) :=
  ⟨_, .period _ _ mirror0 (mirrored_of (by decide +kernel) (by decide +kernel)) rfl (by decide +kernel), by decide +kernel⟩
theorem wit_quiesce : Happens LinkEvent (mirrored .tsuord mirror0) (.quiesce 0) :=
  ⟨_, .quiesce _ _ mirror0 (mirrored_of (by decide +kernel) (by decide +kernel)) rfl rfl (by decide +kernel), by decide +kernel⟩
/-- The context is to return, and nothing of it is left. -/
def leaving : State := { mirrored .tsuord { mirror0 with returning := true } with blocks := [], hoists := [] }
theorem wit_quiesce_last : Happens LinkEvent leaving (.quiesce 0) :=
  ⟨_, .quiesceLast _ _ { mirror0 with returning := true } ⟨got_of (by decide +kernel), by decide +kernel⟩ rfl (by decide +kernel) (by decide +kernel) (by decide +kernel), by decide +kernel⟩
def quiet0 : Mirror := { mirror0 with phase := .quiesce }
def still : State := onBlock (fun b => { b with residency := .quiesced }) (mirrored .tsuord quiet0)
theorem wit_copy_phase : Happens LinkEvent still (.quiesce 0) :=
  ⟨_, .copy _ _ quiet0 ⟨got_of (by decide +kernel), by decide +kernel⟩ rfl rfl (by decide +kernel) (by decide +kernel), by decide +kernel⟩
def late0 : Mirror := { mirror0 with phase := .copy, generation := 5 }
theorem wit_copy_waits : Happens LinkEvent (mirrored .tsuord late0) (.commitMarker 0) :=
  ⟨_, .copyWaits _ _ late0 (mirrored_of (by decide +kernel) (by decide +kernel)) rfl (by decide), by decide +kernel⟩
def banked0 : Mirror := { copying0 with bankSize := 0x100000 }
/-- A mirrored context without blocks. -/
def hollow (m : Mirror) : State := { mirrored .tsuord m with blocks := [], hoists := [] }
theorem hollow_of {m : Mirror} (h : ((hollow m).ctx? 0).isSome = true) (h2 : (((hollow m).ctx? 0).get h).mirror = some m) :
    Mirrored (hollow m) 0 (((hollow m).ctx? 0).get h) m := ⟨got_of h, h2⟩
theorem wit_bank : MayHappen LinkEvent (hollow banked0) (.commitMarker 0) :=
  ⟨_, .bank _ _ banked0 _ _ _ _ _ _ _ _ (hollow_of (by decide +kernel) (by decide +kernel)) rfl (by decide) ⟨rfl, rfl, rfl, rfl, rfl⟩ (by decide +kernel)
    rfl rfl rfl⟩
theorem wit_bank_small : MayHappen LinkEvent (hollow copying0) (.commitMarker 0) :=
  ⟨_, .bankSmall _ _ copying0 _ _ _ _ _ _ (hollow_of (by decide +kernel) (by decide +kernel)) rfl (by decide) ⟨rfl, rfl, rfl, rfl, rfl⟩ (by decide +kernel) rfl⟩
def commit0 : Mirror := { mirror0 with phase := .commit, generation := 1 }
theorem wit_commit : Happens LinkEvent (mirrored .tsuord commit0) (.commitMarker 0) :=
  ⟨_, .commit _ _ commit0 _ _ (mirrored_of (by decide +kernel) (by decide +kernel)) rfl (.inl rfl) rfl rfl, by decide +kernel⟩
def last0 : Mirror := { commit0 with final := true, returning := true }
theorem wit_commit_last : Happens LinkEvent (mirrored .tsuord last0) (.commitMarker 0) :=
  ⟨_, .commitLast _ _ last0 _ _ (mirrored_of (by decide +kernel) (by decide +kernel)) rfl rfl (fun _ h => by cases h) rfl rfl, by decide +kernel⟩
theorem wit_loss : MayHappen LinkEvent (linked .tsuord State.reset) .linkLoss := ⟨_, .loss _ _ _ (.inl rfl) rfl rfl (by decide +kernel) rfl rfl⟩
theorem wit_loss_none : Happens LinkEvent State.reset .flitTimeout := ⟨_, .lossNone _ (.inr rfl) rfl, by decide +kernel⟩

/-! ### Decoding, ill-formed words, values, and steps -/

/-- The word decodes to the instruction. -/
def reads (x : BitVec 32 × Instr) : Bool := match decode x.1 with | .ok i => i == x.2 | .error _ => false
/-- Words written out from 03_encoding.md R73–R76 and the opcode table, and the instructions that they stand for. -/
theorem test_decode_control : ([(0x04FFFFFD, (.bra (-3))), (0x060A0006, (.brnz 10 6)), (0x0702000A, (.brany 2 10)), (0x0D800000, (.pad 2))] : List (BitVec 32 × Instr)).all reads = true := by decide +kernel
theorem test_decode_integer : ([(0x3C050607, (.vadd 5 6 7)), (0x2B030464, (.saddi 3 4 100)), (0x2C021234, (.smovi 2 0x1234))] : List (BitVec 32 × Instr)).all reads = true := by decide +kernel
theorem test_decode_float : ([(0x73080203, (.vfma 8 2 3)), (0x86040501, (.vcvt 4 5 0 1)), (0x8A060702, (.vunpk 6 7 0 2))] : List (BitVec 32 × Instr)).all reads = true := by decide +kernel
theorem test_decode_cross : ([(0xA1050551, (.vshfl 5 5 2 1 1)), (0xA2040580, (.vred 4 5 8)), (0xA7144306, (.vregrp 20 1 3 6)), (0xA80A0841, (.vreord 10 8 1 1))] : List (BitVec 32 × Instr)).all reads = true := by decide +kernel
theorem test_decode_memory : ([(0xB0050630, (.vld 5 6 3 0)), (0xBA4018F0, (.spill 64 24 15)), (0xBC62030C, (.cpy 6 2 0 3 12))] : List (BitVec 32 × Instr)).all reads = true := by decide +kernel
theorem test_decode_order : ([(0xC8840630, (.atom 2 4 0 0 6 3 0)), (0xCEC24050, (.strel 3 2 1 0 5 0)), (0xCD00000F, (.fence 3 3))] : List (BitVec 32 × Instr)).all reads = true := by decide +kernel
theorem test_decode_cube : ([(0xD9040506, (.mxc 4 5 6)), (0xD7070608, (.slld 7 6 8)), (0xD4000300, (.tcfg 3))] : List (BitVec 32 × Instr)).all reads = true := by decide +kernel
theorem test_decode_query : ([(0xE6013200, (.fcfg 1 3 2)), (0xE4047600, (.fres 4 7 6)), (0xE3040600, (.fins 4 6)), (0xE5040600, (.fclr 4 6)), (0xE21E1905, (.hitrd 30 25 5)), (0xE10A0C0D, (.beam 10 12 13)), (0xE0140804, (.trace 20 8 4))] : List (BitVec 32 × Instr)).all reads = true := by decide +kernel
theorem test_decode_system : ([(0xE7050100, (.gate 5 1)), (0xF3050206, (.ctxsv 5 2 6)), (0xF4050200, (.ctxrs 5 2)), (0xF2000000, .tret), (0xF5000000, .ckpt), (0xF0050003, (.srd 5 3)), (0xF1060001, (.swr 6 1)), (0xF7000405, (.hostsig 4 5))] : List (BitVec 32 × Instr)).all reads = true := by decide +kernel
/-- R74, R76, R78: reserved bits refuse a word, and a reserved opcode is its own instruction. -/
theorem test_decode_reserved : reads (0x1B000000, .reservedOpcode 0x1B 0) = true := by decide +kernel
theorem test_decode_refused : decode 0x00000001 = .error (.reservedBits "NOP") := rfl
/-- Ill-formed terms, which WellFormed refuses: a selector of no register (R45, R52, R53), a hint code of 3 (R66), an odd pair
(R46), a modifier that no form has (09_memory.md R174), a reserved mode (R75), an opcode that is not reserved (R78). -/
theorem test_ill_formed : ([.brz 96 6, .brz 156 6, .brany 96 1, .sadd 128 4 5, .sadd 4 127 5, .amov 16 2,
    .hintH 0 0 0 0 0 0 0 0 0 0 0 3, .vdadd 3 6 8, .vld 5 6 3 14, .mset 6 0, .mset 5 1, .aset 2 5 9, .ald 2 5 3 1,
    .srd 9 0x30, .swr 9 0, .reservedOpcode 0x20 0] : List Instr).all (fun i => !i.wf) = true := by decide
theorem test_well_formed : ([.brz 95 6, .brz 155 6, .brany 95 1, .sadd 155 4 5, .amov 15 2, .hintH 0 0 0 0 0 0 0 0 0 0 0 2, .vdadd 4 6 8,
    .mset 5 0, .aset 2 5 8, .ald 2 0 3 1, .srd 9 4, .reservedOpcode 0x1B 0] : List Instr).all (·.wf) = true := by decide
/-- A register of the issuing hoist after the word has been executed in its world. -/
def sAfter (i : Instr) (f : State → State) (n : Nat) : Option Word :=
  match exec i (world i f) with | .next t => (t.hoist? 0).map (·.sreg n) | _ => none
def vAfter (i : Instr) (f : State → State) (n l : Nat) : Option Word :=
  match exec i (world i f) with | .next t => (t.hoist? 0).map (·.vword n l) | _ => none
def pAfter (i : Instr) (f : State → State) (n : Nat) : Option Mask :=
  match exec i (world i f) with | .next t => (t.hoist? 0).map (·.preg n) | _ => none
/-- A V register of the sixteen lanes. -/
def withV (n : Nat) (g : Nat → Word) : State → State :=
  onHoist fun h => { h with regs := { h.regs with v := h.regs.v.set n ⟨.g, (List.range 16).map g⟩ } }
/-- 05_control.md R117–R122, by hand. -/
theorem test_sadd_wraps : sAfter (.sadd 4 5 6) (withS 5 0xFFFFFFFF ∘ withS 6 2) 4 = some 1 := by decide +kernel
theorem test_ssub_order : sAfter (.ssub 4 5 6) (withS 5 1 ∘ withS 6 3) 4 = some 0xFFFFFFFE := by decide +kernel
theorem test_ssra_sign : sAfter (.ssra 4 5 6) (withS 5 0x80000000 ∘ withS 6 4) 4 = some 0xF8000000 := by decide +kernel
theorem test_saddi_signed : sAfter (.saddi 4 5 0xFF) (withS 5 10) 4 = some 9 := by decide +kernel
theorem test_smovhi_keeps : sAfter (.smovhi 4 0xABCD) (withS 4 0x11112222) 4 = some 0xABCD2222 := by decide +kernel
theorem test_sclz_zero : sAfter (.sclz 4 5) (withS 5 0) 4 = some 32 := by decide +kernel
/-- 07_lanes.md R135, R139: lanes 0 to 15 hold 0, 1, … 15. -/
theorem test_vsub_lane : vAfter (.vsub 4 5 6) (withV 5 (BitVec.ofNat 32) ∘ withV 6 fun _ => 3) 4 1 = some 0xFFFFFFFE := by decide +kernel
theorem test_vcmplt_lanes : pAfter (.vcmpLt 4 5 6) (withV 5 (BitVec.ofNat 32) ∘ withV 6 fun _ => 3) 4 = some 7 := by decide +kernel
/-- 07_lanes.md R145, R148: 0 + 1 + … + 15, and the lane whose number differs in bit 0. -/
theorem test_vred_sum : sAfter (.vred 9 5 0) (withV 5 (BitVec.ofNat 32)) 9 = some 120 := by decide +kernel
theorem test_vshfl_xor : vAfter (.vshfl 4 5 2 0 1) (withV 5 (BitVec.ofNat 32)) 4 6 = some 7 := by decide +kernel
/-- 13_numbers.md: 1.0 + 2.0 is 3.0; 1.0 × 2.0 + 3.0 is 5.0; 1.0 in single precision is 0x3C00 in half precision. -/
theorem test_vfadd : vAfter (.vfadd 4 5 6) (withV 5 (fun _ => 0x3F800000) ∘ withV 6 fun _ => 0x40000000) 4 3 = some 0x40400000 := by
  decide +kernel
theorem test_vfma : vAfter (.vfma 4 5 6) (withV 4 (fun _ => 0x40400000) ∘ withV 5 (fun _ => 0x3F800000) ∘ withV 6 fun _ => 0x40000000) 4 3
    = some 0x40A00000 := by decide +kernel

/-! Witnesses of the statements about decoding, regrouping, steps and reset. -/
/-- A second hoist of the block, not yet at its VREGRP. -/
def paired (s : State) : State := { onBlock (fun b => { b with hoists := 2 }) s with
  hoists := s.hoists ++ s.hoists.map fun h => { h with src := 1, index := 1 } }
theorem wit_vregrp_waits : When (fun r => Regroups r 4 2 true 9 3 ∧ ∃ h ∈ r.s.hoistsOf r.b.id, h.src ≠ r.h.src ∧
    (3 : Word).getLsbD h.index = true ∧ h.regroup = none) (.vregrp 4 1 1 9) (paired ∘ withS 9 3) := by
  refine ⟨⟨⟨?_, ?_, ?_, ?_, ?_, ?_, ?_, ?_, fun h hm _ _ _ hg => absurd (hg.symm.trans ((by decide +kernel :
      ∀ h ∈ (env (.vregrp 4 1 1 9) (paired ∘ withS 9 3)).s.hoistsOf (env (.vregrp 4 1 1 9) (paired ∘ withS 9 3)).b.id, h.regroup = none) h hm)) (by simp)⟩,
    ?_⟩, ?_⟩ <;> decide +kernel
theorem wit_vregrp_illegal : When (fun r => regroupIllegal r 9) (.vregrp 4 1 1 9) (withS 9 2) := ⟨.inl (by decide +kernel), by decide +kernel⟩
/-- The state in which the agenda names the word. -/
def awaited (i : Instr) : State := { world i id with agenda := [.word 0 0] }
theorem wit_turn : (awaited (.vadd 4 5 6)).midPair = none ∧
    (awaited (.vadd 4 5 6)).takeTurn false (awaited (.vadd 4 5 6)).agenda = some (.word 0 0, []) ∧
    State.mayTurn { awaited (.vadd 4 5 6) with agenda := [] } 0 0 = true := by decide +kernel
theorem wit_mid : (onHoist (fun h => h.updGroup 0 fun g => { g with ext := some 5 }) (world .nop id)).midPair = some (0, 0) := by decide +kernel
def fetchedOf : Fetch → Option (BitVec 32 × State) | .word w u => some (w, u) | .other _ => none
theorem fetched_of {x : Fetch} {w : BitVec 32} (h : ((fetchedOf x).map (·.1)) = some w) : ∃ u, x = .word w u := by
  cases x with
  | word v u => exact ⟨u, by cases h; rfl⟩
  | other s => cases h
theorem fetch_of {s : State} {w : BitVec 32} {x : Except DecodeError Instr}
    (h : (match issuer 0 s with | some e => (fetchedOf e.fetch).map (·.1) | none => none) = some w) (hd : decode w = x) :
    ∃ e u, issuer 0 s = some e ∧ e.fetch = .word w u ∧ decode w = x := by
  cases he : issuer 0 s with
  | none => rw [he] at h; cases h
  | some e =>
    rw [he] at h
    obtain ⟨u, hu⟩ := fetched_of h
    exact ⟨e, u, rfl, hu, hd⟩
theorem wit_fetch : ∃ e u, issuer 0 { (world (.vadd 4 5 6) id).openClock 0 with cur := (0, 0) } = some e ∧ e.fetch = .word 0x3C040506 u ∧
    decode 0x3C040506 = .ok (.vadd 4 5 6) := fetch_of (by decide +kernel) rfl
theorem wit_fetch_illegal : ∃ e u, issuer 0 { (State.reset.placeNew 1).openClock 0 with cur := (0, 0) } = some e ∧ e.fetch = .word 1 u ∧
    decode 1 = .error (.reservedBits "NOP") := fetch_of (by decide +kernel) rfl
/-- The group of that word awaits no PAD. -/
theorem wit_fetch_calm : ∀ e u e', issuer 0 { (State.reset.placeNew 1).openClock 0 with cur := (0, 0) } = some e → e.fetch = .word 1 u →
    issuer 1 u = some e' → e'.g.landing = none := by
  have h : (match issuer 0 { (State.reset.placeNew 1).openClock 0 with cur := (0, 0) } with
    | some e => (match e.fetch with | .word _ u => (issuer 1 u).all (·.g.landing.isNone) | .other _ => true)
    | none => true) = true := by decide +kernel
  intro e u e' h1 h2 h3
  simp only [h1, h2, h3, Option.all_some, Option.isNone_iff_eq_none] at h
  exact h
/-- A fetch that finds its bytes: of a line that the hoist does not have, and of one that it has. -/
theorem wit_reach : ∃ pa leaf entry u, (env .nop id).h.rmis = none ∧ (env .nop id).g.owed = false ∧ (env .nop id).ext.isSome = false ∧
    (env .nop id).s.reach (coreOf (env .nop id).h.src) (env .nop id).c (env .nop id).pc .fetch allRights = (.ok pa leaf entry, u) ∧
    u.poisoned pa 4 = false ∧ (∀ x ∈ (env .nop id).h.lines, x.1 ≠ (env .nop id).pc.toNat / 64) ∧
    (u.outsideHold ((env .nop id).who .fetch) (pa / 64)).isSome = false ∧ u.owned ((env .nop id).who .fetch) [(64 * (pa / 64), 64)] = false := by
  have h : (match (env .nop id).s.reach (coreOf (env .nop id).h.src) (env .nop id).c (env .nop id).pc .fetch allRights with
    | (.ok pa _ _, u) => !u.poisoned pa 4 && (u.outsideHold ((env .nop id).who .fetch) (pa / 64)).isNone &&
        !u.owned ((env .nop id).who .fetch) [(64 * (pa / 64), 64)]
    | _ => false) = true := by decide +kernel
  rcases hx : (env .nop id).s.reach (coreOf (env .nop id).h.src) (env .nop id).c (env .nop id).pc .fetch allRights with ⟨r, u⟩
  rw [hx] at h
  cases r with
  | ok pa leaf entry =>
    simp only [Bool.and_eq_true, Bool.not_eq_true', Option.isNone_iff_eq_none] at h
    exact ⟨pa, leaf, entry, u, by decide +kernel, by decide +kernel, by decide +kernel, rfl, h.1.1, by decide +kernel,
      by rw [h.1.2]; rfl, h.2⟩
  | _ => exact absurd h (by simp)
def holding (line : List Byte) : State → State := onHoist fun h => { h with lines := [(placedPc / 64, line)] }
theorem wit_reach_line : (env .nop (holding [1])).h.rmis = none ∧ (env .nop (holding [1])).g.owed = false ∧
    (env .nop (holding [1])).h.lines.find? (·.1 == (env .nop (holding [1])).pc.toNat / 64) = some ((env .nop (holding [1])).pc.toNat / 64, [1]) := by
  decide +kernel
theorem wit_reset_form : Canonical State.reset := by decide
theorem wit_steps : ∃ t, step State.reset = .next t := by
  have h : (match step State.reset with | .next _ => true | _ => false) = true := by decide +kernel
  revert h
  cases step State.reset with
  | next t => exact fun _ => ⟨t, rfl⟩
  | fault f => exact fun h => by cases h
  | refused r => exact fun h => by cases h
theorem wit_value : (1 : Nat) < 2 ^ fp32.width ∧ (fp32.decode 1).isNaN = false := by decide +kernel

end Sys2Proof.Tests
end

/-!
PROOFS. Privileged instructions and privileged hoists (03_encoding.md R77): an instruction's opcode tells whether it is
privileged, and a word that is not legal for its hoist raises ILLOP.
-/

namespace Sys2Proof.Proofs.Privilege

open Sys2Proof Sys2Proof.Machine Sys2Proof.Claims Sys2Proof.Laws

/-! ### Opcodes -/

/-- The opcodes that R76 gives to the instructions of R77: FCFG, GATE, SRD, SWR, TRET, CTXSV, CTXRS, CKPT, TLBI. -/
def opcodes : List (BitVec 8) := [0xE6, 0xE7, 0xF0, 0xF1, 0xF2, 0xF3, 0xF4, 0xF5, 0xF6]

theorem wordOpcode_wordOf (op : BitVec 8) (x : BitVec 24) : wordOpcode (wordOf op x) = op :=
  BitVec.extractLsb'_append_eq_left

/-- A word's opcode is looked up in the table whatever its payload. -/
theorem eq_contains_wordOpcode {b : Bool} {op : BitVec 8} (x : BitVec 24) (h : b = opcodes.contains op) :
    b = opcodes.contains (wordOpcode (wordOf op x)) := by
  rwa [wordOpcode_wordOf]

/-- No opcode of a privileged instruction is reserved (R78). -/
theorem opcodes_not_reserved {op : BitVec 8} (h : reservedOp op = true) : opcodes.contains op = false := by
  have hfree : ∀ op ∈ opcodes, reservedOp op = false := by decide
  cases hc : opcodes.contains op with
  | false => rfl
  | true => exact absurd (h.symm.trans (hfree op (List.contains_iff_mem.mp hc))) (Ne.symm Bool.false_ne_true)

/-- The extension window, 0xF8 to 0xFF, lies above every privileged opcode (R79). -/
theorem opcodes_below_window : ∀ o : BitVec 3, opcodes.contains (0x1F#5 ++ o) = false := by decide

/-- The opcode of a well-formed instruction tells whether it is privileged.  Each instruction but two has an opcode of its
own; those two take theirs from their fields. -/
theorem privileged_eq_contains {i : Instr} {w : BitVec 32} (hw : encode i = some w) (hwf : i.wf = true) :
    i.privileged = opcodes.contains (wordOpcode w) := by
  cases i with
  | reservedOpcode op x =>
    cases hw
    exact eq_contains_wordOpcode x (opcodes_not_reserved hwf).symm
  | emul o x =>
    cases hw
    exact eq_contains_wordOpcode x (opcodes_below_window o).symm
  | _ => cases hw <;> exact eq_contains_wordOpcode _ rfl

theorem privileged_iff_opcode {i : Instr} {w : BitVec 32} (hw : encode i = some w) (hwf : i.wf = true) :
    i.privileged = true ↔ wordOpcode w ∈ opcodes := by
  rw [privileged_eq_contains hw hwf, List.contains_iff_mem]

/-! ### Hoists -/

/-- A hoist is an Ensign agent, a service hoist or a user's, so it is privileged by its role or its handler depth. -/
theorem hoist_privileged_iff (h : Hoist) :
    h.privileged = true ↔ h.role = .ensign ∨ h.role = .service ∨ 0 < h.regs.depth := by
  simp only [Hoist.privileged, Bool.or_eq_true, bne_iff_ne, decide_eq_true_eq]
  cases h.role with
  | user =>
    exact ⟨fun hp => .inr (.inr (hp.resolve_left fun hne => hne rfl)),
      fun hp => .inr ((hp.resolve_left (nomatch ·)).resolve_left (nomatch ·))⟩
  | ensign => exact ⟨fun _ => .inl rfl, fun _ => .inl (nomatch ·)⟩
  | service => exact ⟨fun _ => .inr (.inl rfl), fun _ => .inl (nomatch ·)⟩

/-! ### The ILLOP -/

/-- A privileged instruction is not legal for a hoist that is not privileged. -/
theorem not_legal_of_unprivileged {e : Env} {i : Instr} (hi : i.privileged = true) (hh : e.h.privileged = false) :
    e.legal i = false := by
  simp only [Env.legal, hi, hh, Bool.not_true, Bool.or_self, Bool.and_false, Bool.false_and]

/-- Where no PAD is awaited, the word itself settles an ILLOP when it is not legal (R80). -/
theorem refusal_of_not_legal {e : Env} {i : Instr} (hl : e.g.landing = none) (h : e.legal i = false) :
    e.refusal i = some { cls := .illop } := by
  simp only [Env.refusal, Env.stray, hl, h, Bool.false_and, Bool.false_eq_true, if_false]

/-- What the word itself settles comes before every wait. -/
theorem issue_of_refusal {e : Env} {i : Instr} {t : Trap} (h : e.refusal i = some t) : e.issue i = .trap t e := by
  simp only [Env.issue, h]

/-- Every privileged instruction is a word that makes the checks of R80 before its body. -/
theorem exec_of_privileged {i : Instr} (hi : i.privileged = true) (s : State) : ∃ body, exec i s = runWord i body s := by
  cases i with
  | fcfg m second first => exact ⟨_, rfl⟩
  | gate d m => exact ⟨_, rfl⟩
  | srd d r => exact ⟨_, rfl⟩
  | swr a r => exact ⟨_, rfl⟩
  | tret => exact ⟨_, rfl⟩
  | ctxsv d n b => exact ⟨_, rfl⟩
  | ctxrs d n => exact ⟨_, rfl⟩
  | ckpt => exact ⟨_, rfl⟩
  | tlbi x m a b => exact ⟨_, rfl⟩
  | _ => exact absurd hi Bool.false_ne_true

theorem answers_illop_of_unprivileged {i : Instr} {s : State} {e : Env} (he : Issues i s e) (hi : i.privileged = true)
    (hh : e.h.privileged = false) (hl : e.g.landing = none) : Answers i s (e.takeTrap { cls := .illop }) := by
  obtain ⟨body, hbody⟩ := exec_of_privileged hi s
  have hissue : e.issue i = .trap { cls := .illop } e :=
    issue_of_refusal (refusal_of_not_legal hl (not_legal_of_unprivileged hi hh))
  exact hbody.trans (runWord_of_trap he hissue body)

/-- Settles O24: the opcode of a well-formed instruction tells whether it is privileged, and the check of R80 refuses it to a
hoist that is not. -/
theorem privilegedWords : Obligations.PrivilegedWords :=
  ⟨fun _ _ hw hwf => privileged_iff_opcode hw hwf, hoist_privileged_iff,
    fun _ _ _ he hi hh hl => answers_illop_of_unprivileged he hi hh hl⟩

end Sys2Proof.Proofs.Privilege

/-!
PROOFS. CALL and MPOP (05_control.md R98, R107): the addresses that a branch and a link take, the tops of the rejoin stacks,
and what the payload of each of the two words says.
-/

namespace Sys2Proof.Proofs.ControlFlow

open Sys2Proof Sys2Proof.Machine Sys2Proof.Claims Sys2Proof.Laws Sys2Proof.Proofs.Privilege

/-! ### The end of a word's body -/

section

variable {i : Instr} {s u : State} {e r : Env} {old : List Saved} {body : Env → Res}

theorem completes_of_body (h : Begins i s e r old) (hx : exec i s = runWord i body s) (hb : body r = .done u) :
    Completes i s e old u := by
  rw [Completes, Answers, hx, runWord_of_begins h, hb, Env.conclude]

theorem jumps_of_body (h : Begins i s e r old) (hx : exec i s = runWord i body s) (hb : body r = .jump u) :
    Jumps i s e old u := by
  rw [Jumps, Answers, hx, runWord_of_begins h, hb, Env.conclude]

theorem raises_of_body {t : Trap} (h : Begins i s e r old) (hx : exec i s = runWord i body s)
    (hb : body r = .trap t u) : Raises i s e old t u := by
  rw [Raises, Answers, hx, runWord_of_begins h, hb, Env.conclude]

end

/-! ### Addresses of branches and calls -/

/-- An advance of the pc stays in its region: it adds to bits [31:0] alone (R91). -/
theorem addPc_low (pc : VAddr) (n : BitVec 32) : (addPc pc n).extractLsb' 0 32 = pc.extractLsb' 0 32 + n :=
  BitVec.extractLsb'_append_eq_right

theorem link_eq_nextWord (r : Env) : r.link = nextWord r := by
  rw [Env.link, addPc_low, nextWord, Env.length]
  cases r.ext <;> rfl

theorem target24_low (r : Env) (o : BitVec 24) : (r.target24 o).extractLsb' 0 32 = target24 r o := by
  rw [Env.target24, target24, target]
  cases r.ext <;> exact addPc_low _ _

theorem goto_target24 (r : Env) (o : BitVec 24) (h : Hoist) :
    r.goto (r.target24 o) h = movedTo r (target24 r o) h := by
  rw [Env.goto, target24_low, movedTo]

theorem call_jumps {o : BitVec 24} {s : State} {e r : Env} {old : List Saved} (h : Begins (.call o) s e r old) :
    Jumps (.call o) s e old (r.s.putHoist ((movedTo r (target24 r o) r.h).setS 95 (nextWord r))) :=
  jumps_of_body h rfl <| by rw [goto_target24, link_eq_nextWord, Env.move]

theorem bra_jumps {o : BitVec 24} {s : State} {e r : Env} {old : List Saved} (h : Begins (.bra o) s e r old) :
    Jumps (.bra o) s e old (r.s.putHoist (movedTo r (target24 r o) r.h)) :=
  jumps_of_body h rfl <| by rw [goto_target24, Env.move]

/-! ### Rejoin stacks -/

/-- A slice that the hoist does not have counts as one with an empty stack. -/
theorem top_eq_topOf (h : Hoist) (n : Nat) : h.top n = topOf h n := by
  rw [Hoist.top, Hoist.slice, topOf]
  cases h.regs.slices[n]? <;> rfl

theorem emptyStack_iff (r : Env) :
    r.emptyStack = true ↔ ∃ n ∈ r.h.groupSlices r.g.id, topOf r.h n = none := by
  simp only [Env.emptyStack, Env.slices, List.any_eq_true, Option.isNone_iff_eq_none, top_eq_topOf]

theorem emptyStack_of_stacked {r : Env} (h : Stacked r) : r.emptyStack = false := by
  rw [← Bool.not_eq_true, emptyStack_iff]
  rintro ⟨n, hn, hnone⟩
  exact absurd (h n hn) (by rw [hnone]; exact Bool.false_ne_true)

theorem mpop_completes {s : State} {e r : Env} {old : List Saved} (h : Begins .mpop s e r old) (hst : Stacked r) :
    Completes .mpop s e old (r.s.putHoist (restacked r (fun _ st => st.tail) r.h)) :=
  completes_of_body h rfl <| by rw [emptyStack_of_stacked hst]; rfl

theorem mpop_raises {s : State} {e r : Env} {old : List Saved} {n : Nat} (h : Begins .mpop s e r old)
    (hn : n ∈ r.h.groupSlices r.g.id) (hnone : topOf r.h n = none) : Raises .mpop s e old { cls := .illop } r.s :=
  raises_of_body h rfl <| by rw [(emptyStack_iff r).2 ⟨n, hn, hnone⟩]; rfl

/-! ### Payloads -/

theorem wordPayload_wordOf (op : BitVec 8) (x : BitVec 24) : wordPayload (wordOf op x) = x :=
  BitVec.extractLsb'_append_eq_right

theorem decode_wordOf (op : BitVec 8) (x : BitVec 24) : decode (wordOf op x) = decodeParts op x := by
  rw [decode, wordOpcode_wordOf, wordPayload_wordOf]

theorem decode_call (x : BitVec 24) : decode (wordOf 0x09 x) = .ok (.call x) := by
  rw [decode_wordOf]
  exact congrArg (fun o => Except.ok (Instr.call o)) BitVec.extractLsb'_eq_self

/-- CALL names no V register, needs no privilege and takes every EXT. -/
theorem legal_call (e : Env) (o : BitVec 24) : e.legal (.call o) = true := by
  rw [Env.legal]
  cases e.ext <;> rfl

theorem decode_mpop : decode 0x1A000000 = .ok .mpop := decode_wordOf 0x1A 0

/-- MPOP reserves its whole payload. -/
theorem decode_mpop_of_ne_zero {x : BitVec 24} (hx : x ≠ 0) :
    decode (wordOf 0x1A x) = .error (.reservedBits "MPOP") := by
  rw [decode_wordOf]
  have hand : x &&& 0xFFFFFF = x := BitVec.and_allOnes
  exact if_neg fun h => hx (hand.symm.trans h)

/-- Where no PAD is awaited, a word that no instruction has raises ILLOP. -/
theorem runIllegal_illop {w : BitVec 32} {s : State} {e : Env} (he : issuer w s = some e) (hl : e.g.landing = none) :
    runIllegal w s = .next (e.takeTrap { cls := .illop }) := by
  simp only [runIllegal, he, Env.stray, hl, Option.getD_none]

/-- Settles O26: CALL's body is BRA's with a link, and its word has no reserved bits. -/
theorem callRule : Obligations.CallRule :=
  ⟨fun _ _ _ _ _ => call_jumps, fun _ _ _ _ _ => bra_jumps, decode_call, legal_call⟩

/-- Settles O27: MPOP's one test is for an empty stack, and a payload makes its word none of an instruction. -/
theorem mpopRule : Obligations.MpopRule :=
  ⟨fun _ _ _ _ => mpop_completes, fun _ _ _ _ _ => mpop_raises, decode_mpop,
    fun _ hx => ⟨⟨_, decode_mpop_of_ne_zero hx⟩, fun _ _ => runIllegal_illop⟩⟩

end Sys2Proof.Proofs.ControlFlow

/-!
PROOFS. VREORD (07_lanes.md R155): lanes sorted by key, words written at places, and the hoist that packs its lanes.
-/

namespace Sys2Proof.Proofs.Reorder

open Sys2Proof Sys2Proof.Machine Sys2Proof.Claims Sys2Proof.Laws Sys2Proof.Proofs.ControlFlow

/-! ### Lanes in order of key -/

section

variable (key : Nat → Nat)

/-- The order of R155: by key, ties to the lower lane. -/
def KeyLt (l m : Nat) : Prop := key l < key m ∨ key l = key m ∧ l < m

theorem insertByKey_perm (l : Nat) (xs : List Nat) : (insertByKey key l xs).Perm (l :: xs) := by
  induction xs with
  | nil => exact .refl _
  | cons x xs ih =>
    rw [insertByKey]
    split
    · exact .refl _
    · exact (ih.cons x).trans (.swap l x xs)

/-- A lane above those of the list goes behind the lanes of its own key. -/
theorem insertByKey_pairwise {l : Nat} {xs : List Nat} (hs : xs.Pairwise (KeyLt key)) (hl : ∀ x ∈ xs, x < l) :
    (insertByKey key l xs).Pairwise (KeyLt key) := by
  induction xs with
  | nil => exact List.pairwise_singleton _ _
  | cons x xs ih =>
    obtain ⟨hx, hxs⟩ := List.pairwise_cons.1 hs
    rw [insertByKey]
    split
    next hlt =>
      refine List.pairwise_cons.2 ⟨fun y hy => .inl ?_, hs⟩
      rcases List.mem_cons.1 hy with rfl | hy
      · exact hlt
      · have := hx y hy
        unfold KeyLt at this
        omega
    next hge =>
      have hxl : KeyLt key x l := by
        have := hl x List.mem_cons_self
        unfold KeyLt
        omega
      refine List.pairwise_cons.2 ⟨fun y hy => ?_, ih hxs fun y hy => hl y (List.mem_cons_of_mem x hy)⟩
      rcases List.mem_cons.1 ((insertByKey_perm key l xs).mem_iff.1 hy) with rfl | hy
      · exact hxl
      · exact hx y hy

theorem foldl_insertByKey_perm (ls acc : List Nat) :
    (ls.foldl (fun acc l => insertByKey key l acc) acc).Perm (acc ++ ls) := by
  induction ls generalizing acc with
  | nil => rw [List.append_nil]; exact .refl _
  | cons l ls ih => exact (ih _).trans (((insertByKey_perm key l acc).append_right ls).trans List.perm_middle.symm)

theorem foldl_insertByKey_pairwise {ls acc : List Nat} (hacc : acc.Pairwise (KeyLt key)) (hls : ls.Pairwise (· < ·))
    (hlt : ∀ x ∈ acc, ∀ l ∈ ls, x < l) :
    (ls.foldl (fun acc l => insertByKey key l acc) acc).Pairwise (KeyLt key) := by
  induction ls generalizing acc with
  | nil => exact hacc
  | cons l ls ih =>
    obtain ⟨hl, hls⟩ := List.pairwise_cons.1 hls
    refine ih (insertByKey_pairwise key hacc fun x hx => hlt x hx l List.mem_cons_self) hls fun x hx m hm => ?_
    rcases List.mem_cons.1 ((insertByKey_perm key l acc).mem_iff.1 hx) with rfl | hx
    · exact hl m hm
    · exact hlt x hx m (List.mem_cons_of_mem l hm)

theorem mem_sortByKey {l : Nat} {ls : List Nat} : l ∈ sortByKey key ls ↔ l ∈ ls :=
  (foldl_insertByKey_perm key ls []).mem_iff

theorem sortByKey_pairwise {ls : List Nat} (hls : ls.Pairwise (· < ·)) : (sortByKey key ls).Pairwise (KeyLt key) :=
  foldl_insertByKey_pairwise key .nil hls fun _ hx => absurd hx List.not_mem_nil

end

/-! ### Words written at places -/

/-- The word that a list of places and words gives for a lane. -/
def wordAt (vals : List (Nat × Word)) (l : Nat) : Option Word := (vals.find? (·.1 == l)).map (·.2)

/-- A V register after words were written at places. -/
def placed (x : VReg) (vals : List (Nat × Word)) : VReg := { tag := .g, lanes := writeLanes (wordAt vals) x.lanes }

theorem writeLanes_getElem? (f : Nat → Option Word) (old : List Word) (l : Nat) :
    (writeLanes f old)[l]? = old[l]?.map (f l).getD := List.getElem?_mapIdx

theorem writeLanes_writeLanes (f : Nat → Option Word) (old : List Word) :
    writeLanes f (writeLanes f old) = writeLanes f old := by
  refine List.ext_getElem? fun l => ?_
  rw [writeLanes_getElem?, writeLanes_getElem?, Option.map_map]
  cases f l <;> rfl

theorem placed_placed (x : VReg) (vals : List (Nat × Word)) : placed (placed x vals) vals = placed x vals :=
  congrArg (VReg.mk .g) (writeLanes_writeLanes _ _)

theorem vreg_place (h : Hoist) (n m : Nat) (vals : List (Nat × Word)) :
    (h.place n vals).vreg m = if m = n ∧ n < h.regs.v.length then placed (h.vreg n) vals else h.vreg m :=
  vreg_setV

/-- Registers written at places, one after the other. -/
def placeAll (h : Hoist) (ns : List Nat) (vals : Nat → List (Nat × Word)) : Hoist :=
  ns.foldl (fun h n => h.place n (vals n)) h

section

variable (h : Hoist) (ns : List Nat) (vals : Nat → List (Nat × Word))

theorem placeAll_append (ms : List Nat) : placeAll h (ns ++ ms) vals = placeAll (placeAll h ns vals) ms vals :=
  List.foldl_append

variable {ns vals} in
theorem placeAll_congr {vals' : Nat → List (Nat × Word)} (hv : ∀ n ∈ ns, vals n = vals' n) :
    placeAll h ns vals = placeAll h ns vals' :=
  List.foldl_rel (r := Eq) rfl fun n hn k k' hk => by rw [hk, hv n hn]

/-- Words at places change V registers alone. -/
theorem placeAll_eq_withV :
    placeAll h ns vals = { h with regs := { h.regs with v := (placeAll h ns vals).regs.v } } := by
  induction ns generalizing h with
  | nil => rfl
  | cons n ns ih => exact ih (h.place n (vals n))

theorem vreg_placeAll (m : Nat) : (placeAll h ns vals).vreg m =
    if m ∈ ns ∧ m < h.regs.v.length then placed (h.vreg m) (vals m) else h.vreg m := by
  induction ns generalizing h with
  | nil => simp [placeAll]
  | cons n ns ih =>
    have hlen : (h.place n (vals n)).regs.v.length = h.regs.v.length := List.length_set
    rw [placeAll, List.foldl_cons, ← placeAll, ih, hlen, vreg_place]
    by_cases hmn : m = n
    · subst hmn
      by_cases hm : m < h.regs.v.length
      · simp [hm, placed_placed]
      · simp [hm]
    · simp [hmn]

variable {h ns vals} {n l : Nat}

theorem vword_placeAll_of_wordAt {x : Word} (hn : n ∈ ns) (hlen : n < h.regs.v.length) (hl : l < (h.vreg n).lanes.length)
    (hx : wordAt (vals n) l = some x) : (placeAll h ns vals).vword n l = x := by
  rw [Hoist.vword, vreg_placeAll, if_pos ⟨hn, hlen⟩, placed, writeLanes_getElem?, hx, List.getElem?_eq_getElem hl]
  rfl

theorem vword_placeAll_of_wordAt_none (hx : wordAt (vals n) l = none) : (placeAll h ns vals).vword n l = h.vword n l := by
  rw [Hoist.vword, vreg_placeAll]
  split
  · rw [placed, writeLanes_getElem?, hx, Hoist.vword]
    cases (h.vreg n).lanes[l]? <;> rfl
  · rfl

end

/-! ### The words of packed lanes -/

/-- The word that goes to the place numbered `j`: that of the lane of this rank, zero past the last. -/
def rankWord (seq : List Nat) (f : Nat → Word) (j : Nat) : Word := match seq[j]? with | some l => f l | none => 0

/-- Each place with the word that goes there. -/
def atPlaces (pos seq : List Nat) (f : Nat → Word) : List (Nat × Word) := pos.mapIdx fun j p => (p, rankWord seq f j)

theorem wordAt_atPlaces {pos : List Nat} (hpos : pos.Nodup) (seq : List Nat) (f : Nat → Word) {j p : Nat}
    (hj : pos[j]? = some p) : wordAt (atPlaces pos seq f) p = some (rankWord seq f j) := by
  obtain ⟨hlt, rfl⟩ := List.getElem?_eq_some_iff.1 hj
  have hfind : (atPlaces pos seq f).find? (·.1 == pos[j]) = some (pos[j], rankWord seq f j) := by
    refine List.find?_eq_some_iff_getElem.2 ⟨beq_self_eq_true _, j, by simpa [atPlaces] using hlt, by simp [atPlaces], ?_⟩
    intro i hi
    have hne : pos[i] ≠ pos[j] := fun h => Nat.ne_of_lt hi ((List.getElem_inj hpos).1 h)
    simpa [atPlaces] using hne
  rw [wordAt, hfind, Option.map_some]

theorem wordAt_atPlaces_of_not_mem {pos : List Nat} (seq : List Nat) (f : Nat → Word) {l : Nat} (hl : l ∉ pos) :
    wordAt (atPlaces pos seq f) l = none := by
  rw [wordAt, Option.map_eq_none_iff, List.find?_eq_none]
  intro x hx heq
  obtain ⟨i, hi, rfl⟩ := List.mem_mapIdx.1 hx
  exact hl (beq_iff_eq.1 heq ▸ List.getElem_mem hi)

/-! ### EXEC at the places -/

theorem execAt_bit (h : Hoist) (on off : List Nat) {l : Nat} (hl : l < 128) :
    (h.execAt on off).regs.exec.getLsbD l =
      (decide (l < h.width) && ((on.contains l || (!off.contains l && h.regs.exec.getLsbD l)) && !h.regs.dead.getLsbD l)) := by
  rw [Hoist.execAt, setExec_bit _ _ _ hl, maskOf_bit _ _ _ hl]
  cases decide (l < h.width) <;> rfl

/-- Of distinct places the first `n` are those numbered below `n`. -/
theorem mem_take_iff_of_nodup {pos : List Nat} (hpos : pos.Nodup) {j p : Nat} (hj : pos[j]? = some p) (n : Nat) :
    p ∈ pos.take n ↔ j < n := by
  obtain ⟨hlt, rfl⟩ := List.getElem?_eq_some_iff.1 hj
  rw [List.mem_take_iff_getElem]
  constructor
  · rintro ⟨i, hi, heq⟩
    have : i = j := (List.getElem_inj hpos).1 heq
    omega
  · exact fun hjn => ⟨j, by omega, rfl⟩

theorem execAt_take_drop_bit (h : Hoist) {pos : List Nat} (hpos : pos.Nodup) {j p : Nat} (hj : pos[j]? = some p) (n : Nat)
    (hp : p < 128) (hw : p < h.width) (hd : h.regs.dead.getLsbD p = false) :
    (h.execAt (pos.take n) (pos.drop n)).regs.exec.getLsbD p = decide (j < n) := by
  have htake := mem_take_iff_of_nodup hpos hj n
  rw [execAt_bit _ _ _ hp, hd, decide_eq_true hw]
  by_cases hjn : j < n
  · simp [hjn, htake.2 hjn]
  · have hmem : p ∈ pos.take n ∨ p ∈ pos.drop n := by
      rw [← List.mem_append, List.take_append_drop]
      exact List.mem_of_getElem? hj
    have hdrop : p ∈ pos.drop n := hmem.resolve_left fun h => hjn (htake.1 h)
    simp [hjn, mt htake.1 hjn, hdrop]

/-! ### The hoist after a VREORD -/

theorem groupLanes_nodup (h : Hoist) (g : Nat) : (h.groupLanes g).Nodup := List.nodup_range.filter _

theorem activeLanes_pairwise (h : Hoist) (g : Nat) : (h.activeLanes g).Pairwise (· < ·) :=
  List.pairwise_lt_range.filter _

theorem lt_width_of_mem_groupLanes {h : Hoist} {g l : Nat} (hl : l ∈ h.groupLanes g) : l < h.width :=
  List.mem_range.1 (List.mem_filter.1 hl).1

theorem not_dead_of_mem_groupLanes {h : Hoist} {g l : Nat} (hl : l ∈ h.groupLanes g) : h.regs.dead.getLsbD l = false := by
  obtain ⟨-, h2⟩ := List.mem_filter.1 hl
  rw [Bool.and_eq_true, Bool.not_eq_true'] at h2
  exact h2.2

/-- The participating lanes in ascending order of key. -/
def laneOrder (e : Env) (a : Nat) : List Nat :=
  sortByKey (fun l => (e.h.vword a l).toNat) (e.h.activeLanes e.g.id)

/-- The registers whose lanes move with the key. -/
def movedRegs (d a cnt : Nat) : List Nat := (a :: (List.range cnt).map (d + ·)).eraseDups

/-- The registers that a VREORD writes. -/
def writtenRegs (d a cnt : Nat) (idx : Bool) : List Nat := movedRegs d a cnt ++ if idx then [d + cnt] else []

/-- What a lane takes to its new place in a register: its own number in the index register, its word in another. -/
def carried (h : Hoist) (i : Nat) (idx : Bool) (n : Nat) : Nat → Word :=
  if idx = true ∧ n = i then BitVec.ofNat 32 else h.vword n

/-- The words that a VREORD writes to a register. -/
def packedWords (e : Env) (d a cnt : Nat) (idx : Bool) (n : Nat) : List (Nat × Word) :=
  atPlaces (e.h.groupLanes e.g.id) (laneOrder e a) (carried e.h (d + cnt) idx n)

theorem mem_movedRegs {d a cnt n : Nat} : n ∈ movedRegs d a cnt ↔ n = a ∨ d ≤ n ∧ n < d + cnt := by
  simp only [movedRegs, List.mem_eraseDups, List.mem_cons, List.mem_map, List.mem_range]
  refine or_congr_right ⟨?_, fun ⟨h1, h2⟩ => ⟨n - d, by omega, by omega⟩⟩
  rintro ⟨k, hk, rfl⟩
  omega

theorem mem_writtenRegs {d a cnt n : Nat} {idx : Bool} :
    n ∈ writtenRegs d a cnt idx ↔ n = a ∨ d ≤ n ∧ n < d + cnt ∨ idx = true ∧ n = d + cnt := by
  rw [writtenRegs, List.mem_append, mem_movedRegs, or_assoc]
  cases idx <;> simp

theorem carried_of_moved {h : Hoist} {d a cnt n : Nat} {idx : Bool} (hidx : ¬ (idx = true ∧ a = d + cnt))
    (hn : n = a ∨ d ≤ n ∧ n < d + cnt) : carried h (d + cnt) idx n = h.vword n :=
  if_neg fun ⟨hi, hd⟩ => hidx ⟨hi, by omega⟩

theorem carried_index {h : Hoist} {i : Nat} {idx : Bool} (hidx : idx = true) : carried h i idx i = BitVec.ofNat 32 :=
  if_pos ⟨hidx, rfl⟩

/-- The key register is not the index register (R154): each register that a VREORD writes is written once. -/
theorem reorder_eq {e : Env} {d a cnt : Nat} {idx : Bool} (hidx : ¬ (idx = true ∧ a = d + cnt)) :
    e.reorder d a idx cnt = (placeAll e.h (writtenRegs d a cnt idx) (packedWords e d a cnt idx)).execAt
      ((e.h.groupLanes e.g.id).take (laneOrder e a).length) ((e.h.groupLanes e.g.id).drop (laneOrder e a).length) := by
  have hmoved : placeAll e.h (movedRegs d a cnt) (packedWords e d a cnt idx) =
      placeAll e.h (movedRegs d a cnt) fun n => atPlaces (e.h.groupLanes e.g.id) (laneOrder e a) (e.h.vword n) :=
    placeAll_congr e.h fun n hn => by rw [packedWords, carried_of_moved hidx (mem_movedRegs.1 hn)]
  rw [writtenRegs, placeAll_append, hmoved]
  cases hi : idx with
  | false => rfl
  | true =>
    rw [if_pos rfl, placeAll, List.foldl_cons, List.foldl_nil, packedWords, carried_index rfl]
    rfl

section

variable {e : Env} {d a cnt n : Nat} {idx : Bool} (hidx : ¬ (idx = true ∧ a = d + cnt))

include hidx

theorem reorder_frame : SameRegs e.h (e.reorder d a idx cnt)
    { v := fun n => n = a ∨ d ≤ n ∧ n < d + cnt ∨ idx = true ∧ n = d + cnt, exec := True } := by
  have hv : ∀ n, ¬ (n = a ∨ d ≤ n ∧ n < d + cnt ∨ idx = true ∧ n = d + cnt) →
      (placeAll e.h (writtenRegs d a cnt idx) (packedWords e d a cnt idx)).vreg n = e.h.vreg n := fun n hn => by
    rw [vreg_placeAll, if_neg fun h => hn (mem_writtenRegs.1 h.1)]
  rw [reorder_eq hidx]
  rw [placeAll_eq_withV] at hv ⊢
  exact { v := hv, s := fun _ _ => rfl, p := fun _ _ => rfl, a := fun _ _ => rfl, exec := fun h => absurd trivial h,
          fpx := fun _ => rfl, xprog := fun _ => rfl, slices := fun _ => rfl, counters := fun _ => rfl, dead := rfl,
          ssig := rfl, batch := rfl, depth := rfl, region := rfl, hregion := rfl }

theorem vword_reorder_at (hn : n = a ∨ d ≤ n ∧ n < d + cnt ∨ idx = true ∧ n = d + cnt) (hlen : n < e.h.regs.v.length)
    {j p : Nat} (hj : (e.h.groupLanes e.g.id)[j]? = some p) (hp : p < (e.h.vreg n).lanes.length) :
    (e.reorder d a idx cnt).vword n p = rankWord (laneOrder e a) (carried e.h (d + cnt) idx n) j := by
  rw [reorder_eq hidx]
  exact vword_placeAll_of_wordAt (mem_writtenRegs.2 hn) hlen hp (wordAt_atPlaces (groupLanes_nodup _ _) _ _ hj)

theorem vword_reorder_off {l : Nat} (hl : l ∉ e.h.groupLanes e.g.id) :
    (e.reorder d a idx cnt).vword n l = e.h.vword n l := by
  rw [reorder_eq hidx]
  exact vword_placeAll_of_wordAt_none (wordAt_atPlaces_of_not_mem _ _ hl)

theorem tag_reorder (hn : n = a ∨ d ≤ n ∧ n < d + cnt ∨ idx = true ∧ n = d + cnt) (hlen : n < e.h.regs.v.length) :
    ((e.reorder d a idx cnt).vreg n).tag = .g := by
  have hvreg := vreg_placeAll e.h (writtenRegs d a cnt idx) (packedWords e d a cnt idx) n
  rw [if_pos ⟨mem_writtenRegs.2 hn, hlen⟩] at hvreg
  rw [reorder_eq hidx]
  exact congrArg VReg.tag hvreg

theorem exec_reorder {j p : Nat} (hj : (e.h.groupLanes e.g.id)[j]? = some p) (hp : p < 128) :
    (e.reorder d a idx cnt).regs.exec.getLsbD p = decide (j < (laneOrder e a).length) := by
  have hmem : p ∈ e.h.groupLanes e.g.id := List.mem_of_getElem? hj
  rw [reorder_eq hidx, placeAll_eq_withV]
  exact execAt_take_drop_bit _ (groupLanes_nodup _ _) hj _ hp (lt_width_of_mem_groupLanes hmem)
    (not_dead_of_mem_groupLanes hmem)

theorem reorder_packed : Packed e d a cnt idx (laneOrder e a) (e.reorder d a idx cnt) where
  members _ := mem_sortByKey _
  sorted := sortByKey_pairwise _ (activeLanes_pairwise _ _)
  words n hlen hn j p hj hp := by
    rw [vword_reorder_at hidx (hn.imp_right .inl) hlen hj hp, carried_of_moved hidx hn]
    rfl
  index hi hlen j p hj hp := by
    rw [vword_reorder_at hidx (.inr (.inr ⟨hi, rfl⟩)) hlen hj hp, carried_index hi]
    rfl
  exec _ _ hj hp := exec_reorder hidx hj hp
  others _ _ _ hl := vword_reorder_off hidx hl
  tags _ hlen hn := tag_reorder hidx hn hlen
  frame := reorder_frame hidx

end

theorem vreord_completes {d a : BitVec 8} {x : BitVec 1} {c : BitVec 6} {s : State} {e r : Env} {old : List Saved}
    (h : Begins (.vreord d a x c) s e r old) (hst : r.stacked = false) :
    Completes (.vreord d a x c) s e old (r.s.putHoist (r.reorder d.toNat a.toNat (x == 1) (c.toNat + 1))) :=
  completes_of_body h rfl <| by rw [hst]; rfl

/-- Settles O17: the order is the model's sort by key, and the hoist after the word packs its lanes in that order. -/
theorem reorderPacks : Obligations.ReorderPacks :=
  fun _ _ _ _ _ _ _ _ hb hst hidx =>
    ⟨_, _, reorder_packed fun h => hidx ⟨beq_iff_eq.1 h.1, h.2⟩, vreord_completes hb hst⟩

end Sys2Proof.Proofs.Reorder

/-!
PROOFS. The home slice of a line (09_memory.md R164): the model's recursions, which shift the line number down group by group
and bit by bit, against the groups and the bits at their places in the line number.
-/

namespace Sys2Proof.Proofs.HomeSlice

open Sys2Proof Sys2Proof.Machine

variable {w : Nat}

theorem toNat_group (l : BitVec w) (k : Nat) : (l.extractLsb' (5 * k) 5).toNat = (l.toNat >>> (5 * k)) % 32 :=
  BitVec.extractLsb'_toNat ..

/-- The groups from place `k` on, folded into an accumulator. -/
theorem toNat_foldl_groups (l : BitVec w) (n k : Nat) (acc : BitVec 5) :
    ((List.range' k n).foldl (fun x k => x ^^^ l.extractLsb' (5 * k) 5) acc).toNat =
      acc.toNat ^^^ xorGroups n (l.toNat >>> (5 * k)) := by
  induction n generalizing k acc with
  | zero => exact (Nat.xor_zero _).symm
  | succ n ih =>
    have hnext : l.toNat >>> (5 * (k + 1)) = l.toNat >>> (5 * k) / 32 := by
      rw [Nat.mul_succ, Nat.shiftRight_add, Nat.shiftRight_eq_div_pow _ 5]
    rw [List.range'_succ, List.foldl_cons, ih, BitVec.toNat_xor, toNat_group, hnext, Nat.xor_assoc]
    rfl

theorem xorGroups_toNat (l : BitVec w) (n : Nat) :
    xorGroups n l.toNat = ((List.range n).foldl (fun x k => x ^^^ l.extractLsb' (5 * k) 5) (0 : BitVec 5)).toNat := by
  rw [List.range_eq_range', toNat_foldl_groups]
  exact (Nat.zero_xor _).symm

theorem bit_eq_ite_getLsbD (l : BitVec w) (k : Nat) : (l.toNat >>> k) % 2 = if l.getLsbD k then 1 else 0 := by
  rw [Nat.shiftRight_eq_div_pow, ← Nat.toNat_testBit, BitVec.getLsbD]
  cases l.toNat.testBit k <;> rfl

theorem parity_lt_two (n l : Nat) : parity n l < 2 := by
  induction n generalizing l with
  | zero => exact Nat.two_pos
  | succ n ih => exact Nat.xor_lt_two_pow (n := 1) (Nat.mod_lt _ Nat.two_pos) (ih _)

theorem parity_succ (n l : Nat) : parity (n + 1) l = (l % 2 + parity n (l / 2)) % 2 := by
  have hone := Nat.xor_mod_two_eq_one (a := l % 2) (b := parity n (l / 2))
  have hlt := parity_lt_two (n + 1) l
  rw [parity] at hlt ⊢
  omega

/-- The bits from place `k` on. -/
theorem parity_shiftRight (l : BitVec w) (n k : Nat) :
    parity n (l.toNat >>> k) = (List.range' k n).countP l.getLsbD % 2 := by
  induction n generalizing k with
  | zero => rfl
  | succ n ih =>
    rw [parity_succ, ← Nat.shiftRight_succ, ih, bit_eq_ite_getLsbD, List.range'_succ, List.countP_cons, Nat.add_mod_mod,
      Nat.add_comm]

theorem parity_toNat (l : BitVec w) (n : Nat) : parity n l.toNat = (List.range n).countP l.getLsbD % 2 := by
  rw [List.range_eq_range', ← parity_shiftRight]
  rfl

theorem toNat_lineOf (pa : BitVec 52) : (pa.extractLsb' 6 46).toNat = pa.toNat / 64 := by
  rw [BitVec.extractLsb'_toNat, Nat.shiftRight_eq_div_pow]
  omega

/-- Settles O28: the model's recursion over groups is their exclusive or, its recursion over bits is the parity of their
number, and PA[51:6] is the address divided by 64. -/
theorem homeSlice : Obligations.HomeSlice := by
  intro pa l
  rw [← xorGroups_toNat, ← parity_toNat, toNat_lineOf]
  exact ⟨rfl, rfl⟩

end Sys2Proof.Proofs.HomeSlice

/-!
PROOFS. FP32 patterns and VFCLASS (13_numbers.md R242 to R244, R259): what a pattern decodes to, told by its sign and magnitude,
and the class that follows.
-/

namespace Sys2Proof.Proofs.FloatPatterns

open Sys2Proof Sys2Proof.Machine Sys2Proof.Claims Sys2Proof.Proofs.ControlFlow

/-! ### The fields of a pattern -/

theorem magnitude32_eq (a : Word) : magnitude32 a = a.toNat % 2 ^ 31 := by
  rw [magnitude32, BitVec.extractLsb'_toNat, Nat.shiftRight_zero]

/-- The fraction. -/
theorem toNat_mod_fraction (a : Word) : a.toNat % 2 ^ 23 = magnitude32 a % 2 ^ 23 := by
  rw [magnitude32_eq]
  omega

/-- The exponent field. -/
theorem toNat_exponent (a : Word) : a.toNat / 2 ^ 23 % 2 ^ 8 = magnitude32 a / 2 ^ 23 := by
  rw [magnitude32_eq]
  omega

/-- Bit `k` as the model's decoder and the claims read it. -/
theorem div_mod_two_beq_one (a : Word) (k : Nat) : (a.toNat / 2 ^ k % 2 == 1) = a.getLsbD k := by
  rw [Bool.eq_iff_iff, beq_iff_eq, BitVec.getLsbD, Nat.testBit_eq_decide_div_mod_eq, decide_eq_true_iff]

theorem getLsbD_31_iff (a : Word) : a.getLsbD 31 = true ↔ 2 ^ 31 ≤ a.toNat := by
  rw [← div_mod_two_beq_one, beq_iff_eq]
  omega

/-- The quiet bit (R244) is the top bit of the fraction. -/
theorem quietBit_iff (a : Word) : a.getLsbD 22 = true ↔ 2 ^ 22 ≤ magnitude32 a % 2 ^ 23 := by
  rw [← div_mod_two_beq_one, beq_iff_eq, magnitude32_eq]
  omega

/-- A pattern is its sign and its magnitude. -/
theorem eq_of_sign_magnitude {a b : Word} (hs : a.getLsbD 31 = b.getLsbD 31) (hm : magnitude32 a = magnitude32 b) :
    a = b := by
  have hsign := getLsbD_31_iff a
  rw [hs, getLsbD_31_iff] at hsign
  rw [magnitude32_eq, magnitude32_eq] at hm
  exact BitVec.eq_of_toNat_eq (by omega)

theorem nan32_iff {a : Word} : nan32 a = true ↔ 0x7F800000 < magnitude32 a := decide_eq_true_iff

theorem not_nan32_iff {a : Word} : nan32 a = false ↔ magnitude32 a ≤ 0x7F800000 := by
  rw [← Bool.not_eq_true, nan32_iff, Nat.not_lt]

/-! ### What a pattern decodes to -/

/-- The decoder of FP32 (R242, R243) by sign and magnitude. -/
theorem decode_toNat (a : Word) : fp32.decode a.toNat =
    if magnitude32 a / 2 ^ 23 = 0 then .num (a.getLsbD 31) (magnitude32 a % 2 ^ 23) (-149)
    else if magnitude32 a / 2 ^ 23 = 255 then
      (if magnitude32 a % 2 ^ 23 = 0 then .inf (a.getLsbD 31) else .nan (decide (magnitude32 a % 2 ^ 23 < 2 ^ 22)))
    else .num (a.getLsbD 31) (magnitude32 a % 2 ^ 23 + 2 ^ 23) ((magnitude32 a / 2 ^ 23 : Nat) - 127 - 23) := by
  rw [← toNat_exponent, ← toNat_mod_fraction, ← div_mod_two_beq_one]
  simp only [Format.decode, fp32, reduceCtorEq, and_true, and_false, false_and, if_false]
  rfl

theorem decode_of_nan {a : Word} (h : nan32 a = true) : fp32.decode a.toNat = .nan (!a.getLsbD 22) := by
  have hm : magnitude32 a < 2 ^ 31 := BitVec.isLt _
  rw [nan32_iff] at h
  have hquiet : decide (magnitude32 a % 2 ^ 23 < 2 ^ 22) = !a.getLsbD 22 := by
    rw [Bool.eq_iff_iff, decide_eq_true_iff, Bool.not_eq_true', ← Bool.not_eq_true, quietBit_iff, Nat.not_le]
  rw [decode_toNat, ← hquiet, if_neg (by omega), if_pos (by omega), if_neg (by omega)]

theorem decode_of_inf {a : Word} (h : magnitude32 a = 0x7F800000) : fp32.decode a.toNat = .inf (a.getLsbD 31) := by
  rw [decode_toNat, h]
  rfl

theorem decode_of_subnormal {a : Word} (h : magnitude32 a < 2 ^ 23) :
    fp32.decode a.toNat = .num (a.getLsbD 31) (magnitude32 a) (-149) := by
  rw [decode_toNat, if_pos (by omega), Nat.mod_eq_of_lt h]

theorem decode_of_normal {a : Word} (hl : 2 ^ 23 ≤ magnitude32 a) (hu : magnitude32 a < 0x7F800000) :
    fp32.decode a.toNat =
      .num (a.getLsbD 31) (magnitude32 a % 2 ^ 23 + 2 ^ 23) ((magnitude32 a / 2 ^ 23 : Nat) - 127 - 23) := by
  rw [decode_toNat, if_neg (by omega), if_neg (by omega)]

/-! ### VFCLASS -/

theorem fClass_toNat (a : Word) : fClass fp32 a.toNat = 2 ^ classBit32 a := by
  rcases Nat.lt_trichotomy (magnitude32 a) 0x7F800000 with hlt | heq | hgt
  · have hnan : ¬ 0x7F800000 < magnitude32 a := by omega
    have hinf : magnitude32 a ≠ 0x7F800000 := by omega
    rcases Nat.lt_or_ge (magnitude32 a) (2 ^ 23) with hsub | hnorm
    · have hsmall : ¬ 0x00800000 ≤ magnitude32 a := by omega
      rw [fClass, decode_of_subnormal hsub]
      simp only [classBit32, if_neg hnan, if_neg hinf, if_neg hsmall, apply_ite (2 ^ ·)]
      rw [if_pos (show _ < 2 ^ fp32.mbits from hsub)]
    · rw [fClass, decode_of_normal hnorm hlt]
      have hz : magnitude32 a % 2 ^ 23 + 2 ^ 23 ≠ 0 := by omega
      have hfrac : ¬ magnitude32 a % 2 ^ 23 + 2 ^ 23 < 2 ^ fp32.mbits := Nat.not_lt.2 (Nat.le_add_left ..)
      simp only [classBit32, if_neg hnan, if_neg hinf, if_pos (show 0x00800000 ≤ _ from hnorm), apply_ite (2 ^ ·)]
      rw [if_neg hz, if_neg hfrac]
  · rw [fClass, decode_of_inf heq, classBit32, heq]
    cases a.getLsbD 31 <;> rfl
  · rw [fClass, decode_of_nan (nan32_iff.2 hgt), classBit32]
    simp only [if_pos hgt]
    cases a.getLsbD 22 <;> rfl

theorem classBit32_le_nine (a : Word) : classBit32 a ≤ 9 := by
  simp only [classBit32]
  repeat' split
  all_goals decide

theorem vfclass_completes {d a : BitVec 8} {s : State} {e r : Env} {old : List Saved} (h : Begins (.vfclass d a) s e r old) :
    Completes (.vfclass d a) s e old (r.s.putHoist (r.h.putV r.g.id d.toNat .g fun l =>
      BitVec.ofNat 32 (2 ^ classBit32 (r.h.vword a.toNat l)))) :=
  completes_of_body h rfl <| by simp only [Env.lanes1, Env.lanes, fClass_toNat]

/-- Settles O30: the class of a pattern follows from its decoding, and its bit is one of ten. -/
theorem classRule : Obligations.ClassRule :=
  ⟨fun _ _ _ _ _ _ => vfclass_completes, classBit32_le_nine⟩

end Sys2Proof.Proofs.FloatPatterns

/-!
PROOFS. Minimum and maximum of FP32 patterns (13_numbers.md R258): the order of exact values against the order of patterns by
rank, NaN operands, and the steps of reductions and atomics (07_lanes.md R147, 11_ordering.md R229).
-/

namespace Sys2Proof.Proofs.MinMax

open Sys2Proof Sys2Proof.Machine Sys2Proof.Claims Sys2Proof.Proofs.ControlFlow Sys2Proof.Proofs.FloatPatterns

/-! ### The order of patterns -/

/-- A magnitude below infinity in units of 2^(-149), the spacing of the subnormal numbers. -/
def scaled (m : Nat) : Nat := if m < 2 ^ 23 then m else (m % 2 ^ 23 + 2 ^ 23) * 2 ^ (m / 2 ^ 23 - 1)

theorem scaled_of_subnormal {m : Nat} (h : m < 2 ^ 23) : scaled m = m := if_pos h

theorem scaled_of_normal {m : Nat} (h : 2 ^ 23 ≤ m) : scaled m = (m % 2 ^ 23 + 2 ^ 23) * 2 ^ (m / 2 ^ 23 - 1) :=
  if_neg (Nat.not_lt.2 h)

/-- One more in the magnitude is one more in the fraction, or the smallest number of the next exponent. -/
theorem scaled_lt_succ (m : Nat) : scaled m < scaled (m + 1) := by
  rcases Nat.lt_or_ge m (2 ^ 23) with hsub | hnorm
  · rw [scaled_of_subnormal hsub]
    rcases Nat.lt_or_ge (m + 1) (2 ^ 23) with hsub' | hnorm'
    · rw [scaled_of_subnormal hsub']
      exact Nat.lt_succ_self m
    · obtain rfl : m = 2 ^ 23 - 1 := by omega
      decide
  · have hpow : 0 < 2 ^ (m / 2 ^ 23 - 1) := Nat.two_pow_pos _
    rw [scaled_of_normal hnorm, scaled_of_normal (by omega)]
    rcases Nat.lt_or_ge (m % 2 ^ 23 + 1) (2 ^ 23) with hfrac | hcarry
    · have hexp : (m + 1) / 2 ^ 23 = m / 2 ^ 23 := by omega
      have hmod : (m + 1) % 2 ^ 23 = m % 2 ^ 23 + 1 := by omega
      rw [hexp, hmod]
      exact Nat.mul_lt_mul_of_pos_right (by omega) hpow
    · have hexp : (m + 1) / 2 ^ 23 - 1 = m / 2 ^ 23 - 1 + 1 := by omega
      have hmod : (m + 1) % 2 ^ 23 = 0 := by omega
      have hfull : m % 2 ^ 23 + 2 ^ 23 < 2 ^ 23 * 2 := by omega
      rw [hexp, hmod, Nat.zero_add, Nat.pow_succ' (n := m / 2 ^ 23 - 1), ← Nat.mul_assoc]
      exact Nat.mul_lt_mul_of_pos_right hfull hpow

theorem scaled_lt_of_lt {m n : Nat} (h : m < n) : scaled m < scaled n := by
  induction h with
  | refl => exact scaled_lt_succ m
  | step _ ih => exact Nat.lt_trans ih (scaled_lt_succ _)

theorem scaled_lt_iff {m n : Nat} : scaled m < scaled n ↔ m < n := by
  refine ⟨fun h => ?_, scaled_lt_of_lt⟩
  rcases Nat.lt_trichotomy m n with hlt | rfl | hgt
  · exact hlt
  · exact absurd h (Nat.lt_irrefl _)
  · exact absurd h (Nat.lt_asymm (scaled_lt_of_lt hgt))

theorem scaled_eq_zero_iff {m : Nat} : scaled m = 0 ↔ m = 0 := by
  have hpos : 0 < scaled m ↔ 0 < m := scaled_lt_iff (m := 0)
  omega

/-- The value of a pattern below infinity in units of 2^(-149). -/
def scaledValue (a : Word) : Int := if a.getLsbD 31 then -(scaled (magnitude32 a) : Int) else scaled (magnitude32 a)

/-- A magnitude below infinity decodes to a number, whose mantissa brought to the spacing 2^(-149) is the scaled magnitude. -/
theorem decode_of_finite {a : Word} (h : magnitude32 a < 0x7F800000) :
    ∃ k e, fp32.decode a.toNat = .num (a.getLsbD 31) k e ∧ -149 ≤ e ∧
      k * 2 ^ (e + 149).toNat = scaled (magnitude32 a) := by
  rcases Nat.lt_or_ge (magnitude32 a) (2 ^ 23) with hsub | hnorm
  · exact ⟨_, _, decode_of_subnormal hsub, Int.le_refl _, by rw [scaled_of_subnormal hsub]; exact Nat.mul_one _⟩
  · have hexp : (((magnitude32 a / 2 ^ 23 : Nat) : Int) - 127 - 23 + 149).toNat = magnitude32 a / 2 ^ 23 - 1 := by omega
    exact ⟨_, _, decode_of_normal hnorm h, by omega, by rw [hexp, scaled_of_normal hnorm]⟩

/-- A mantissa in units of 2^u, brought to the spacing 2^(-149), is the scaled value. -/
theorem units_mul_pow {a : Word} {k : Nat} {e u : Int} (hk : k * 2 ^ (e + 149).toNat = scaled (magnitude32 a))
    (hu : -149 ≤ u) (hue : u ≤ e) :
    (FVal.num (a.getLsbD 31) k e).units u * (2 ^ (u + 149).toNat : Nat) = scaledValue a := by
  have hsplit : (e + 149).toNat = (e - u).toNat + (u + 149).toNat := by omega
  rw [hsplit, Nat.pow_add, ← Nat.mul_assoc] at hk
  rw [scaledValue, ← hk, FVal.units]
  cases a.getLsbD 31
  · rfl
  · exact Int.neg_mul ..

/-- The model's order by value with its rule for zeros is the order by rank. -/
theorem rank32_lt_iff_scaledValue (a b : Word) : rank32 a < rank32 b ↔ scaledValue a < scaledValue b ∨
    scaledValue a = scaledValue b ∧ magnitude32 a = 0 ∧ a.getLsbD 31 = true ∧ b.getLsbD 31 = false := by
  have hlt := scaled_lt_iff (m := magnitude32 a) (n := magnitude32 b)
  have hgt := scaled_lt_iff (m := magnitude32 b) (n := magnitude32 a)
  have ha := scaled_eq_zero_iff (m := magnitude32 a)
  rw [rank32, rank32, scaledValue, scaledValue]
  -- by sign: a negative pattern is below the others, and of two negative ones the greater magnitude is below
  cases a.getLsbD 31 <;> cases b.getLsbD 31 <;>
    simp only [Bool.false_eq_true, reduceCtorEq, if_true, if_false, and_true, and_false, or_false] <;> omega

theorem lt_of_finite {a b : Word} (ha : magnitude32 a < 0x7F800000) (hb : magnitude32 b < 0x7F800000) :
    (fp32.decode a.toNat).lt (fp32.decode b.toNat) = decide (rank32 a < rank32 b) := by
  obtain ⟨k, e, hx, he, hk⟩ := decode_of_finite ha
  obtain ⟨n, g, hy, hg, hn⟩ := decode_of_finite hb
  have hlow : -149 ≤ min e g := Int.le_min.2 ⟨he, hg⟩
  have hi := units_mul_pow hk hlow (Int.min_le_left e g)
  have hj := units_mul_pow hn hlow (Int.min_le_right e g)
  have hpow : (0 : Int) < (2 ^ (min e g + 149).toNat : Nat) := Int.natCast_pos.2 (Nat.two_pow_pos _)
  have hzero : k = 0 ↔ magnitude32 a = 0 := by
    rw [← scaled_eq_zero_iff (m := magnitude32 a), ← hk, Nat.mul_eq_zero, or_iff_left (Nat.ne_of_gt (Nat.two_pow_pos _))]
  rw [hx, hy, Bool.eq_iff_iff, decide_eq_true_iff, rank32_lt_iff_scaledValue, ← hi, ← hj, Int.mul_lt_mul_right hpow,
    Int.mul_eq_mul_right_iff (Int.ne_of_gt hpow), ← hzero]
  simp only [FVal.lt, Bool.or_eq_true, Bool.and_eq_true, decide_eq_true_iff, beq_iff_eq, Bool.not_eq_true', and_assoc]

theorem inf_lt_inf (s t : Bool) : (FVal.inf s).lt (.inf t) = (s && !t) := by
  cases s <;> cases t <;> rfl

theorem inf_lt_num (s n : Bool) (m : Nat) (e : Int) : (FVal.inf s).lt (.num n m e) = s := by
  cases s <;> rfl

theorem num_lt_inf (s n : Bool) (m : Nat) (e : Int) : (FVal.num n m e).lt (.inf s) = !s := by
  cases s <;> rfl

/-- A bound of the magnitude bounds the rank on both sides. -/
theorem rank32_bounds {a : Word} {n : Nat} (h : magnitude32 a ≤ n) : -1 - (n : Int) ≤ rank32 a ∧ rank32 a ≤ n := by
  rw [rank32]
  split <;> omega

theorem rank32_of_inf {a : Word} (h : magnitude32 a = 0x7F800000) :
    rank32 a = if a.getLsbD 31 then -1 - 0x7F800000 else 0x7F800000 := by
  rw [rank32, h]
  rfl

theorem lt_of_finite_inf {a b : Word} (ha : magnitude32 a < 0x7F800000) (hb : magnitude32 b = 0x7F800000) :
    (fp32.decode a.toNat).lt (fp32.decode b.toNat) = decide (rank32 a < rank32 b) := by
  obtain ⟨k, e, hx, -, -⟩ := decode_of_finite ha
  obtain ⟨hlo, hhi⟩ := rank32_bounds (Nat.le_pred_of_lt ha)
  rw [hx, decode_of_inf hb, num_lt_inf, rank32_of_inf hb]
  cases b.getLsbD 31 with
  | false => exact (decide_eq_true (Int.lt_of_le_of_lt hhi (by decide))).symm
  | true => exact (decide_eq_false (Int.not_lt.2 (Int.le_trans (by decide) hlo))).symm

theorem lt_of_inf_finite {a b : Word} (ha : magnitude32 a = 0x7F800000) (hb : magnitude32 b < 0x7F800000) :
    (fp32.decode a.toNat).lt (fp32.decode b.toNat) = decide (rank32 a < rank32 b) := by
  obtain ⟨n, g, hy, -, -⟩ := decode_of_finite hb
  obtain ⟨hlo, hhi⟩ := rank32_bounds (Nat.le_pred_of_lt hb)
  rw [hy, decode_of_inf ha, inf_lt_num, rank32_of_inf ha]
  cases a.getLsbD 31 with
  | false => exact (decide_eq_false (Int.not_lt.2 (Int.le_trans hhi (by decide)))).symm
  | true => exact (decide_eq_true (Int.lt_of_lt_of_le (by decide) hlo)).symm

theorem lt_of_inf_inf {a b : Word} (ha : magnitude32 a = 0x7F800000) (hb : magnitude32 b = 0x7F800000) :
    (fp32.decode a.toNat).lt (fp32.decode b.toNat) = decide (rank32 a < rank32 b) := by
  rw [decode_of_inf ha, decode_of_inf hb, inf_lt_inf, rank32_of_inf ha, rank32_of_inf hb]
  cases a.getLsbD 31 <;> cases b.getLsbD 31 <;> rfl

/-- The model's order of exact values is the order of the patterns by rank (R258). -/
theorem lt_decode {a b : Word} (ha : nan32 a = false) (hb : nan32 b = false) :
    (fp32.decode a.toNat).lt (fp32.decode b.toNat) = decide (rank32 a < rank32 b) := by
  rcases Nat.lt_or_eq_of_le (not_nan32_iff.1 ha) with ha | ha
  · rcases Nat.lt_or_eq_of_le (not_nan32_iff.1 hb) with hb | hb
    · exact lt_of_finite ha hb
    · exact lt_of_finite_inf ha hb
  · rcases Nat.lt_or_eq_of_le (not_nan32_iff.1 hb) with hb | hb
    · exact lt_of_inf_finite ha hb
    · exact lt_of_inf_inf ha hb

theorem rank32_neg_iff (a : Word) : rank32 a < 0 ↔ a.getLsbD 31 = true := by
  rw [rank32]
  cases a.getLsbD 31 with
  | false => exact iff_of_false (Int.not_lt.2 (Int.natCast_nonneg _)) Bool.false_ne_true
  | true => exact iff_of_true (by rw [if_pos rfl]; omega) rfl

theorem rank32_injective {a b : Word} (h : rank32 a = rank32 b) : a = b := by
  have hs : a.getLsbD 31 = b.getLsbD 31 := by
    rw [Bool.eq_iff_iff, ← rank32_neg_iff, ← rank32_neg_iff, h]
  rw [rank32, rank32, hs] at h
  refine eq_of_sign_magnitude hs ?_
  split at h <;> omega

/-! ### NaNs and their flag -/

theorem isNaN_decode (a : Word) : (fp32.decode a.toNat).isNaN = nan32 a := by
  cases h : nan32 a with
  | true => exact congrArg FVal.isNaN (decode_of_nan h)
  | false =>
    rcases Nat.lt_or_eq_of_le (not_nan32_iff.1 h) with hlt | heq
    · obtain ⟨k, e, hx, -, -⟩ := decode_of_finite hlt
      exact congrArg FVal.isNaN hx
    · exact congrArg FVal.isNaN (decode_of_inf heq)

theorem sigFlag_of_not_isNaN {x : FVal} (h : x.isNaN = false) : x.sigFlag = 0 := by
  cases x with
  | nan s => exact absurd h (Ne.symm Bool.false_ne_true)
  | inf n => rfl
  | num n m e => rfl

theorem signalling32_of_not_nan {a : Word} (h : nan32 a = false) : signalling32 a = false := by
  rw [signalling32, h, Bool.false_and]

theorem sigFlag_decode (a : Word) : (fp32.decode a.toNat).sigFlag = invalidIf (signalling32 a) := by
  cases h : nan32 a with
  | true =>
    rw [decode_of_nan h, signalling32, h, Bool.true_and]
    cases a.getLsbD 22 <;> rfl
  | false =>
    rw [sigFlag_of_not_isNaN (by rw [isNaN_decode, h]), signalling32_of_not_nan h]
    rfl

theorem invalidIf_or (c d : Bool) : invalidIf c ||| invalidIf d = invalidIf (c || d) := by
  cases c <;> cases d <;> rfl

/-! ### Minimum and maximum -/

theorem minMax32_of_not_nan {a b : Word} (ha : nan32 a = false) (hb : nan32 b = false) (larger : Bool) :
    minMax32 larger a b = (if rank32 a ≤ rank32 b then (if larger then b else a) else if larger then a else b, 0) := by
  rw [minMax32, signalling32_of_not_nan ha, signalling32_of_not_nan hb, ha, hb]
  cases larger <;> rfl

section

variable {a b : Word} (ha : nan32 a = false) (hb : nan32 b = false) (larger : Bool)

include ha hb

theorem minMax32_of_rank_le (h : rank32 a ≤ rank32 b) : minMax32 larger a b = (if larger then b else a, 0) := by
  rw [minMax32_of_not_nan ha hb, if_pos h]

theorem minMax32_of_rank_ge (h : rank32 b ≤ rank32 a) : minMax32 larger a b = (if larger then a else b, 0) := by
  rcases Int.lt_or_eq_of_le h with hlt | heq
  · rw [minMax32_of_not_nan ha hb, if_neg (Int.not_le.2 hlt)]
  · obtain rfl := rank32_injective heq
    rw [minMax32_of_not_nan ha hb, if_pos (Int.le_refl _)]

end

/-- The model's minimum and maximum of FP32 patterns are those of R258. -/
theorem fMinMax_toNat (larger : Bool) (a b : Word) :
    fMinMax fp32 larger a.toNat b.toNat = ((minMax32 larger a b).1.toNat, (minMax32 larger a b).2) := by
  simp only [fMinMax, isNaN_decode, sigFlag_decode, invalidIf_or]
  cases ha : nan32 a with
  | true =>
    rw [minMax32, ha]
    cases hb : nan32 b <;> rfl
  | false =>
    cases hb : nan32 b with
    | true =>
      rw [minMax32, ha, hb]
      rfl
    | false =>
      rw [lt_decode ha hb, signalling32_of_not_nan ha, signalling32_of_not_nan hb]
      rcases Int.lt_or_le (rank32 a) (rank32 b) with hlt | hge
      · rw [minMax32_of_rank_le ha hb larger (Int.le_of_lt hlt), decide_eq_true hlt]
        cases larger <;> rfl
      · rw [minMax32_of_rank_ge ha hb larger hge, decide_eq_false (Int.not_lt.2 hge)]
        cases larger <;> rfl

/-! ### Reductions and atomics -/

/-- The number of an operation of VRED and VSCAN: .fmin or .fmax (R147). -/
def redOp (larger : Bool) : Nat := if larger then 10 else 9

/-- The number of an operation of atomics: .fmin or .fmax (R229). -/
def atomOp (larger : Bool) : Nat := if larger then 11 else 10

theorem redStep_redOp (larger : Bool) (x y : Word) : redStep (redOp larger) x y =
    if x = redIdentity (redOp larger) ∧ nan32 y = false then (y, 0)
    else if y = redIdentity (redOp larger) ∧ nan32 x = false then (x, 0)
    else (BitVec.ofNat 32 (fMinMax fp32 larger x.toNat y.toNat).1, (fMinMax fp32 larger x.toNat y.toNat).2) := by
  rw [← isNaN_decode x, ← isNaN_decode y]
  cases larger <;> rfl

theorem redIdentity_not_nan (larger : Bool) : nan32 (redIdentity (redOp larger)) = false := by
  cases larger <;> decide

/-- The identity on one side of a minimum or maximum gives the other side (R147). -/
theorem minMax32_redIdentity_left (larger : Bool) {y : Word} (h : nan32 y = false) :
    minMax32 larger (redIdentity (redOp larger)) y = (y, 0) := by
  obtain ⟨hlo, hhi⟩ := rank32_bounds (not_nan32_iff.1 h)
  cases larger with
  | false => exact minMax32_of_rank_ge (redIdentity_not_nan false) h false hhi
  | true => exact minMax32_of_rank_le (redIdentity_not_nan true) h true hlo

theorem minMax32_redIdentity_right (larger : Bool) {x : Word} (h : nan32 x = false) :
    minMax32 larger x (redIdentity (redOp larger)) = (x, 0) := by
  obtain ⟨hlo, hhi⟩ := rank32_bounds (not_nan32_iff.1 h)
  cases larger with
  | false => exact minMax32_of_rank_le h (redIdentity_not_nan false) false hhi
  | true => exact minMax32_of_rank_ge h (redIdentity_not_nan true) true hlo

theorem redStep_eq_minMax32 (larger : Bool) (x y : Word) : redStep (redOp larger) x y = minMax32 larger x y := by
  rw [redStep_redOp]
  split
  next hx => rw [hx.1, minMax32_redIdentity_left larger hx.2]
  next =>
    split
    next hy => rw [hy.1, minMax32_redIdentity_right larger hy.2]
    next => rw [fMinMax_toNat, BitVec.ofNat_toNat, BitVec.setWidth_eq]

theorem atomResult_eq_minMax32 (larger : Bool) (x y : Word) :
    atomResult (atomOp larger) x.toNat y.toNat = (minMax32 larger x y).1.toNat := by
  cases larger <;> exact congrArg Prod.fst (fMinMax_toNat _ x y)

/-! ### VFMIN and VFMAX -/

/-- What VFMIN and VFMAX leave of their hoist. -/
def minMaxHoist (r : Env) (larger : Bool) (d a b : BitVec 8) : Hoist :=
  (r.h.putV r.g.id d.toNat .g fun l => (minMax32 larger (r.h.vword a.toNat l) (r.h.vword b.toNat l)).1).raise
    (flagsOver (r.h.activeLanes r.g.id) fun l => (minMax32 larger (r.h.vword a.toNat l) (r.h.vword b.toNat l)).2)

theorem floats_fMinMax (r : Env) (larger : Bool) (d a b : BitVec 8) :
    (r.floats d fun l => fMinMax fp32 larger (r.vnat a l) (r.vnat b l)) =
      .done (r.s.putHoist (minMaxHoist r larger d a b)) := by
  simp only [Env.floats, Env.vnat, fMinMax_toNat, BitVec.ofNat_toNat, BitVec.setWidth_eq, minMaxHoist]

/-- Settles O29: the model's order of exact values is the order of the patterns by rank, and the identities of
reductions are its two ends. -/
theorem minMaxRule : Obligations.MinMaxRule :=
  ⟨fun d a b _ _ r _ h => completes_of_body h rfl (floats_fMinMax r false d a b),
    fun d a b _ _ r _ h => completes_of_body h rfl (floats_fMinMax r true d a b),
    fun x y => ⟨redStep_eq_minMax32 false x y, redStep_eq_minMax32 true x y⟩,
    fun x y => ⟨atomResult_eq_minMax32 false x y, atomResult_eq_minMax32 true x y⟩⟩

end Sys2Proof.Proofs.MinMax

/-!
PROOFS. The encoding tables (03_encoding.md R73–R78): fields of a payload and the two directions between words and
instructions.
-/

namespace Sys2Proof.Proofs.Encoding

open Sys2Proof Sys2Proof.Proofs.Privilege Sys2Proof.Proofs.ControlFlow

-- One declaration after another: at once, each would wait in a thread of its own for the equations of `encode`.
set_option Elab.async false

/-! ### Fields of a payload -/

/-- The payload with ones in `len` bits from `lo` up. -/
def field (lo len : Nat) : BitVec 24 := (BitVec.allOnes len).setWidth 24 <<< lo

theorem and_field_eq_zero (x : BitVec 24) {lo len : Nat} (h : lo + len ≤ 24) :
    x &&& field lo len = 0 ↔ bits x lo len = 0 := by
  simp only [BitVec.eq_of_getLsbD_eq_iff, field, bits, BitVec.getLsbD_and, BitVec.getLsbD_shiftLeft,
    BitVec.getLsbD_setWidth, BitVec.getLsbD_allOnes, BitVec.getLsbD_extractLsb']
  constructor
  · intro hx j hj
    have := hx (lo + j) (by omega)
    grind
  · intro hx j hj
    have := hx (j - lo)
    grind

theorem and_fields_eq_zero (x : BitVec 24) {lo len lo' len' : Nat} (h : lo + len ≤ 24) (h' : lo' + len' ≤ 24) :
    x &&& (field lo len ||| field lo' len') = 0 ↔ bits x lo len = 0 ∧ bits x lo' len' = 0 := by
  have hor : x &&& (field lo len ||| field lo' len') = x &&& field lo len ||| x &&& field lo' len' := by
    ext i
    simp [Bool.and_or_distrib_left]
  rw [hor, ← and_field_eq_zero x h, ← and_field_eq_zero x h']
  exact BitVec.or_eq_zero_iff

/-- A field holds the bits of a payload from `lo` up. -/
def IsField {len : Nat} (a : BitVec len) (x : BitVec 24) (lo : Nat) : Prop := a = bits x lo len

theorem isField_append {m n : Nat} (a : BitVec m) (b : BitVec n) (x : BitVec 24) (lo : Nat) :
    IsField (a ++ b) x lo ↔ IsField a x (lo + n) ∧ IsField b x lo := by
  constructor
  · intro h
    constructor
    · have ha : (a ++ b).extractLsb' n m = a := BitVec.extractLsb'_append_eq_left
      rw [IsField, ← ha, h]
      ext j hj
      simp only [bits, BitVec.getElem_extractLsb', BitVec.getLsbD_extractLsb']
      grind
    · have hb : (a ++ b).extractLsb' 0 n = b := BitVec.extractLsb'_append_eq_right
      rw [IsField, ← hb, h]
      ext j hj
      simp only [bits, BitVec.getElem_extractLsb', BitVec.getLsbD_extractLsb']
      grind
  · rintro ⟨ha, hb⟩
    rw [ha, hb]
    exact BitVec.extractLsb'_append_extractLsb'_eq_extractLsb' rfl

theorem isField_bits (x : BitVec 24) (lo len : Nat) : IsField (bits x lo len) x lo := rfl

theorem isField_zero (x : BitVec 24) (lo len : Nat) : IsField (0#len) x lo ↔ bits x lo len = 0 := eq_comm

/-- A payload is its only field of 24 bits. -/
theorem eq_of_isField {x y : BitVec 24} (h : IsField y x 0) : y = x := Eq.trans h BitVec.extractLsb'_eq_self

/-! ### The reserved bits of the formats (R74) -/

section

variable (x : BitVec 24)

theorem reserved_000003 : x &&& 0x000003 = 0 ↔ bits x 0 2 = 0 :=
  and_field_eq_zero x (lo := 0) (len := 2) (by decide)
theorem reserved_000008 : x &&& 0x000008 = 0 ↔ bits x 3 1 = 0 :=
  and_field_eq_zero x (lo := 3) (len := 1) (by decide)
theorem reserved_00000F : x &&& 0x00000F = 0 ↔ bits x 0 4 = 0 :=
  and_field_eq_zero x (lo := 0) (len := 4) (by decide)
theorem reserved_000080 : x &&& 0x000080 = 0 ↔ bits x 7 1 = 0 :=
  and_field_eq_zero x (lo := 7) (len := 1) (by decide)
theorem reserved_0000C0 : x &&& 0x0000C0 = 0 ↔ bits x 6 2 = 0 :=
  and_field_eq_zero x (lo := 6) (len := 2) (by decide)
theorem reserved_0000E0 : x &&& 0x0000E0 = 0 ↔ bits x 5 3 = 0 :=
  and_field_eq_zero x (lo := 5) (len := 3) (by decide)
theorem reserved_0000F0 : x &&& 0x0000F0 = 0 ↔ bits x 4 4 = 0 :=
  and_field_eq_zero x (lo := 4) (len := 4) (by decide)
theorem reserved_0000F8 : x &&& 0x0000F8 = 0 ↔ bits x 3 5 = 0 :=
  and_field_eq_zero x (lo := 3) (len := 5) (by decide)
theorem reserved_0000FC : x &&& 0x0000FC = 0 ↔ bits x 2 6 = 0 :=
  and_field_eq_zero x (lo := 2) (len := 6) (by decide)
theorem reserved_0000FF : x &&& 0x0000FF = 0 ↔ bits x 0 8 = 0 :=
  and_field_eq_zero x (lo := 0) (len := 8) (by decide)
theorem reserved_008000 : x &&& 0x008000 = 0 ↔ bits x 15 1 = 0 :=
  and_field_eq_zero x (lo := 15) (len := 1) (by decide)
theorem reserved_00F000 : x &&& 0x00F000 = 0 ↔ bits x 12 4 = 0 :=
  and_field_eq_zero x (lo := 12) (len := 4) (by decide)
theorem reserved_00F0FF : x &&& 0x00F0FF = 0 ↔ bits x 0 8 = 0 ∧ bits x 12 4 = 0 :=
  and_fields_eq_zero x (lo := 0) (len := 8) (lo' := 12) (len' := 4) (by decide) (by decide)
theorem reserved_00FFFF : x &&& 0x00FFFF = 0 ↔ bits x 0 16 = 0 :=
  and_field_eq_zero x (lo := 0) (len := 16) (by decide)
theorem reserved_3FFFFF : x &&& 0x3FFFFF = 0 ↔ bits x 0 22 = 0 :=
  and_field_eq_zero x (lo := 0) (len := 22) (by decide)
theorem reserved_F00000 : x &&& 0xF00000 = 0 ↔ bits x 20 4 = 0 :=
  and_field_eq_zero x (lo := 20) (len := 4) (by decide)
theorem reserved_FF0000 : x &&& 0xFF0000 = 0 ↔ bits x 16 8 = 0 :=
  and_field_eq_zero x (lo := 16) (len := 8) (by decide)
theorem reserved_FF00FF : x &&& 0xFF00FF = 0 ↔ bits x 0 8 = 0 ∧ bits x 16 8 = 0 :=
  and_fields_eq_zero x (lo := 0) (len := 8) (lo' := 16) (len' := 8) (by decide) (by decide)
theorem reserved_FFF000 : x &&& 0xFFF000 = 0 ↔ bits x 12 12 = 0 :=
  and_field_eq_zero x (lo := 12) (len := 12) (by decide)
theorem reserved_FFFFF0 : x &&& 0xFFFFF0 = 0 ↔ bits x 4 20 = 0 :=
  and_field_eq_zero x (lo := 4) (len := 20) (by decide)
theorem reserved_FFFFFF : x &&& 0xFFFFFF = 0 ↔ bits x 0 24 = 0 :=
  and_field_eq_zero x (lo := 0) (len := 24) (by decide)

end


/-! ### A word from its instruction -/

/-- The opcodes of R78. -/
def reservedOps : List (BitVec 8) :=
  [0x1B, 0x3B, 0x6F, 0x85, 0x8F, 0xD1, 0xD2, 0xD3, 0xDF, 0x98, 0x99, 0x9A, 0x9B, 0x9C, 0x9D, 0x9E, 0x9F, 0xAA, 0xAB, 0xAC,
    0xAD, 0xAE, 0xAF, 0xE8, 0xE9, 0xEA, 0xEB, 0xEC, 0xED, 0xEE, 0xEF]

theorem mem_reservedOps : ∀ op, reservedOp op = true → op ∈ reservedOps := by decide

theorem decode_reservedOp {op : BitVec 8} (x : BitVec 24) (h : reservedOp op = true) :
    decode (wordOf op x) = .ok (.reservedOpcode op x) := by
  have hall : ∀ op ∈ reservedOps, decodeParts op x = .ok (.reservedOpcode op x) := by
    simp only [reservedOps, List.forall_mem_cons]
    exact ⟨rfl, rfl, rfl, rfl, rfl, rfl, rfl, rfl, rfl, rfl, rfl, rfl, rfl, rfl, rfl, rfl, rfl, rfl, rfl, rfl, rfl, rfl,
      rfl, rfl, rfl, rfl, rfl, rfl, rfl, rfl, rfl, List.forall_mem_nil _⟩
  exact (decode_wordOf op x).trans (hall op (mem_reservedOps op h))

theorem decode_emul (o : BitVec 3) (x : BitVec 24) : decode (wordOf (0x1F#5 ++ o) x) = .ok (.emul o x) := by
  have hall : ∀ o : BitVec 3, o ∈ [0#3, 1#3, 2#3, 3#3, 4#3, 5#3, 6#3, 7#3] := by decide
  have hdec : ∀ o ∈ [0#3, 1#3, 2#3, 3#3, 4#3, 5#3, 6#3, 7#3], decodeParts (0x1F#5 ++ o) x = .ok (.emul o x) := by
    simp only [List.forall_mem_cons]
    exact ⟨rfl, rfl, rfl, rfl, rfl, rfl, rfl, rfl, List.forall_mem_nil _⟩
  exact (decode_wordOf _ x).trans (hdec o (hall o))

theorem decode_encode {i : Instr} {w : BitVec 32} (hw : encode i = some w) (hwf : i.wf = true) : decode w = .ok i := by
  cases i with
  | reservedOpcode op x =>
    cases hw
    exact decode_reservedOp x hwf
  | emul o x =>
    cases hw
    exact decode_emul o x
  | _ =>
    cases hw <;>
      (rw [decode_wordOf]
       simp only [decodeParts, decodeGroup0, decodeGroup1, decodeGroup2, decodeGroup3, decodeGroup4, decodeGroup5,
         decodeGroup6, decodeGroup7, decodeGroup8, decodeGroup9, decodeGroupA, decodeGroupB, decodeGroupC, decodeGroupD,
         decodeGroupE, decodeGroupF, BitVec.reduceExtractLsb', BitVec.reduceEq, BitVec.reduceToNat, if_true, if_false]
       simp (disch := decide) only [reserved_000003, reserved_000008, reserved_00000F, reserved_000080, reserved_0000C0,
         reserved_0000E0, reserved_0000F0, reserved_0000F8, reserved_0000FC, reserved_0000FF, reserved_008000,
         reserved_00F000, reserved_00F0FF, reserved_00FFFF, reserved_3FFFFF, reserved_F00000, reserved_FF0000,
         reserved_FF00FF, reserved_FFF000, reserved_FFFFF0, reserved_FFFFFF, bits, BitVec.extractLsb'_append_eq_of_le,
         BitVec.extractLsb'_append_eq_of_add_le, Nat.reduceSub, BitVec.reduceEq,
         BitVec.extractLsb'_eq_self, if_true, and_self])


/-! ### An instruction from its word -/

/-- What a decoder answers for the word of `op` and `x` is an instruction of that word. -/
def Encodes (op : BitVec 8) (x : BitVec 24) (r : Except DecodeError Instr) : Prop :=
  ∀ i, r = .ok i → encode i = some (wordOf op x)

theorem encodes_ok (op : BitVec 8) (x : BitVec 24) (i : Instr) :
    Encodes op x (.ok i) ↔ encode i = some (wordOf op x) :=
  ⟨fun h => h i rfl, by rintro h _ ⟨⟩; exact h⟩

/-- A format with reserved bits (R74). -/
theorem encodes_if (op : BitVec 8) (x : BitVec 24) (c : Prop) [Decidable c] (i : Instr) (e : DecodeError) :
    Encodes op x (if c then .ok i else .error e) ↔ (c → Encodes op x (.ok i)) := by
  split
  next h => exact ⟨fun hi _ => hi, fun hi => hi h⟩
  next h => exact ⟨fun _ hm => absurd hm h, fun _ _ hr => nomatch hr⟩

/-- A row of the table: the opcode `k`, or a later row. -/
theorem encodes_row {op k : BitVec 8} {x : BitVec 24} {a b : Except DecodeError Instr} (ha : Encodes k x a)
    (hb : Encodes op x b) : Encodes op x (if op = k then a else b) := by
  split
  next h => exact h ▸ ha
  next => exact hb

/-- The extension window (R79). -/
theorem encodes_emul (op : BitVec 8) (x : BitVec 24) {b : Except DecodeError Instr} (hb : Encodes op x b) :
    Encodes op x (if 0xF8 ≤ op then .ok (.emul (op.extractLsb' 0 3) x) else b) := by
  have hop : ∀ op : BitVec 8, 0xF8 ≤ op → 0x1F#5 ++ op.extractLsb' 0 3 = op := by decide
  split
  next h => exact (encodes_ok _ _ _).2 (congrArg (fun o => some (wordOf o x)) (hop op h))
  next => exact hb

theorem some_wordOf_eq_iff (op : BitVec 8) (x y : BitVec 24) : some (wordOf op y) = some (wordOf op x) ↔ IsField y x 0 := by
  constructor
  · intro h
    have hx : wordPayload (wordOf op y) = wordPayload (wordOf op x) := congrArg wordPayload (Option.some.inj h)
    rw [wordPayload_wordOf, wordPayload_wordOf] at hx
    exact hx.trans BitVec.extractLsb'_eq_self.symm
  · intro h
    rw [eq_of_isField h]

theorem encodes_decodeGroup0 (op : BitVec 8) (x : BitVec 24) : Encodes op x (decodeGroup0 op x) := by
  unfold decodeGroup0
  repeat' refine encodes_row ?_ ?_
  all_goals
    simp only [encodes_if, encodes_ok, encode, some_wordOf_eq_iff, isField_append]
  all_goals
    simp +contextual only [isField_bits, isField_zero, reserved_3FFFFF, reserved_FF00FF, reserved_FFFFFF, and_self,
      implies_true, Nat.reduceAdd]

theorem encodes_decodeGroup1 (op : BitVec 8) (x : BitVec 24) : Encodes op x (decodeGroup1 op x) := by
  unfold decodeGroup1
  repeat' refine encodes_row ?_ ?_
  all_goals
    simp only [encodes_if, encodes_ok, encode, some_wordOf_eq_iff, isField_append]
  all_goals
    simp +contextual only [isField_bits, isField_zero, reserved_0000FF, reserved_00FFFF, reserved_FF0000,
      reserved_FF00FF, reserved_FFFFFF, and_self, implies_true, Nat.reduceAdd]

theorem encodes_decodeGroup2 (op : BitVec 8) (x : BitVec 24) : Encodes op x (decodeGroup2 op x) := by
  unfold decodeGroup2
  repeat' refine encodes_row ?_ ?_
  all_goals
    simp only [encodes_if, encodes_ok, encode, some_wordOf_eq_iff, isField_append]
  all_goals
    simp +contextual only [isField_bits, isField_zero, reserved_0000F8, and_self, implies_true, Nat.reduceAdd]

theorem encodes_decodeGroup3 (op : BitVec 8) (x : BitVec 24) : Encodes op x (decodeGroup3 op x) := by
  unfold decodeGroup3
  repeat' refine encodes_row ?_ ?_
  all_goals
    simp only [encodes_if, encodes_ok, encode, some_wordOf_eq_iff, isField_append]
  all_goals
    simp +contextual only [isField_bits, isField_zero, reserved_0000FF, and_self, implies_true, Nat.reduceAdd]

theorem encodes_decodeGroup4 (op : BitVec 8) (x : BitVec 24) : Encodes op x (decodeGroup4 op x) := by
  unfold decodeGroup4
  repeat' refine encodes_row ?_ ?_
  all_goals
    simp only [encodes_if, encodes_ok, encode, some_wordOf_eq_iff, isField_append]
  all_goals
    simp +contextual only [isField_bits, isField_zero, reserved_0000FF, and_self, implies_true, Nat.reduceAdd]

theorem encodes_decodeGroup5 (op : BitVec 8) (x : BitVec 24) : Encodes op x (decodeGroup5 op x) := by
  unfold decodeGroup5
  repeat' refine encodes_row ?_ ?_
  all_goals
    simp only [encodes_if, encodes_ok, encode, some_wordOf_eq_iff, isField_append]
  all_goals
    simp +contextual only [isField_bits, isField_zero, reserved_0000E0, reserved_0000FF, and_self, implies_true,
      Nat.reduceAdd]

theorem encodes_decodeGroup6 (op : BitVec 8) (x : BitVec 24) : Encodes op x (decodeGroup6 op x) := by
  unfold decodeGroup6
  repeat' refine encodes_row ?_ ?_
  all_goals
    simp only [encodes_if, encodes_ok, encode, some_wordOf_eq_iff, isField_append]
  all_goals
    simp +contextual only [isField_bits, isField_zero, reserved_0000FC, reserved_0000FF, and_self, implies_true,
      Nat.reduceAdd]

theorem encodes_decodeGroup7 (op : BitVec 8) (x : BitVec 24) : Encodes op x (decodeGroup7 op x) := by
  unfold decodeGroup7
  repeat' refine encodes_row ?_ ?_
  all_goals
    simp only [encodes_if, encodes_ok, encode, some_wordOf_eq_iff, isField_append]
  all_goals
    simp +contextual only [isField_bits, isField_zero, reserved_0000FF, and_self, implies_true, Nat.reduceAdd]

theorem encodes_decodeGroup8 (op : BitVec 8) (x : BitVec 24) : Encodes op x (decodeGroup8 op x) := by
  unfold decodeGroup8
  repeat' refine encodes_row ?_ ?_
  all_goals
    simp only [encodes_if, encodes_ok, encode, some_wordOf_eq_iff, isField_append]
  all_goals
    simp +contextual only [isField_bits, isField_zero, reserved_000008, reserved_0000C0, reserved_0000E0,
      reserved_0000F0, and_self, implies_true, Nat.reduceAdd]

theorem encodes_decodeGroup9 (op : BitVec 8) (x : BitVec 24) : Encodes op x (decodeGroup9 op x) := by
  unfold decodeGroup9
  repeat' refine encodes_row ?_ ?_
  all_goals
    simp only [encodes_if, encodes_ok, encode, some_wordOf_eq_iff, isField_append]
  all_goals
    simp +contextual only [isField_bits, isField_zero, reserved_0000FF, and_self, implies_true, Nat.reduceAdd]

theorem encodes_decodeGroupA (op : BitVec 8) (x : BitVec 24) : Encodes op x (decodeGroupA op x) := by
  unfold decodeGroupA
  repeat' refine encodes_row ?_ ?_
  all_goals
    simp only [encodes_if, encodes_ok, encode, some_wordOf_eq_iff, isField_append]
  all_goals
    simp +contextual only [isField_bits, isField_zero, reserved_000003, reserved_00000F, reserved_000080,
      reserved_0000FC, reserved_008000, and_self, implies_true, Nat.reduceAdd]

theorem encodes_decodeGroupB (op : BitVec 8) (x : BitVec 24) : Encodes op x (decodeGroupB op x) := by
  unfold decodeGroupB
  repeat' refine encodes_row ?_ ?_
  all_goals
    simp only [encodes_if, encodes_ok, encode, some_wordOf_eq_iff, isField_append]
  all_goals
    simp +contextual only [isField_bits, isField_zero, reserved_00000F, reserved_FF0000, reserved_FF00FF,
      reserved_FFFFFF, and_self, implies_true, Nat.reduceAdd]

theorem encodes_decodeGroupC (op : BitVec 8) (x : BitVec 24) : Encodes op x (decodeGroupC op x) := by
  unfold decodeGroupC
  repeat' refine encodes_row ?_ ?_
  all_goals
    simp only [encodes_if, encodes_ok, encode, some_wordOf_eq_iff, isField_append]
  all_goals
    simp +contextual only [isField_bits, isField_zero, reserved_008000, reserved_FF0000, reserved_FF00FF,
      reserved_FFFFF0, reserved_FFFFFF, and_self, implies_true, Nat.reduceAdd]

theorem encodes_decodeGroupD (op : BitVec 8) (x : BitVec 24) : Encodes op x (decodeGroupD op x) := by
  unfold decodeGroupD
  repeat' refine encodes_row ?_ ?_
  all_goals
    simp only [encodes_if, encodes_ok, encode, some_wordOf_eq_iff, isField_append]
  all_goals
    simp +contextual only [isField_bits, isField_zero, reserved_0000FF, reserved_00F000, reserved_FF00FF,
      reserved_FFF000, and_self, implies_true, Nat.reduceAdd]

theorem encodes_decodeGroupE (op : BitVec 8) (x : BitVec 24) : Encodes op x (decodeGroupE op x) := by
  unfold decodeGroupE
  repeat' refine encodes_row ?_ ?_
  all_goals
    simp only [encodes_if, encodes_ok, encode, some_wordOf_eq_iff, isField_append]
  all_goals
    simp +contextual only [isField_bits, isField_zero, reserved_0000FF, reserved_00F0FF, and_self, implies_true,
      Nat.reduceAdd]

theorem encodes_decodeGroupF (op : BitVec 8) (x : BitVec 24) : Encodes op x (decodeGroupF op x) := by
  unfold decodeGroupF
  repeat' refine encodes_row ?_ ?_
  rotate_right
  · exact encodes_emul op x ((encodes_ok _ _ _).2 rfl)
  all_goals
    simp only [encodes_if, encodes_ok, encode, some_wordOf_eq_iff, isField_append]
  all_goals
    simp +contextual only [isField_bits, isField_zero, reserved_00F000, reserved_00F0FF, reserved_F00000,
      reserved_FF0000, reserved_FFFFFF, and_self, implies_true, Nat.reduceAdd]

theorem encodes_decodeParts (op : BitVec 8) (x : BitVec 24) : Encodes op x (decodeParts op x) := by
  unfold decodeParts
  split
  · exact encodes_decodeGroup0 op x
  · exact encodes_decodeGroup1 op x
  · exact encodes_decodeGroup2 op x
  · exact encodes_decodeGroup3 op x
  · exact encodes_decodeGroup4 op x
  · exact encodes_decodeGroup5 op x
  · exact encodes_decodeGroup6 op x
  · exact encodes_decodeGroup7 op x
  · exact encodes_decodeGroup8 op x
  · exact encodes_decodeGroup9 op x
  · exact encodes_decodeGroupA op x
  · exact encodes_decodeGroupB op x
  · exact encodes_decodeGroupC op x
  · exact encodes_decodeGroupD op x
  · exact encodes_decodeGroupE op x
  · exact encodes_decodeGroupF op x

theorem encode_decode {w : BitVec 32} {i : Instr} (h : decode w = .ok i) : encode i = some w := by
  have hw : wordOf (wordOpcode w) (wordPayload w) = w :=
    BitVec.extractLsb'_append_extractLsb'_eq_extractLsb' rfl |>.trans BitVec.extractLsb'_eq_self
  rw [encodes_decodeParts _ _ i h, hw]

/-- Settles O54: an instruction's opcode picks its row of the decoder's table, and its fields are read back from where the
word has them. -/
theorem decodesEncodings : Obligations.DecodesEncodings := fun _ _ => decode_encode

/-- Settles O55: what a row reads and what it requires to be zero make the whole payload. -/
theorem encodesDecodings : Obligations.EncodesDecodings := fun _ _ => encode_decode

end Sys2Proof.Proofs.Encoding

/-!
PROOFS. Integer arithmetic of one word (05_control.md R117–R122, 07_lanes.md R135–R139): each function of the model is the
arithmetic that the manual gives.
-/

namespace Sys2Proof.Proofs.Arithmetic

open Sys2Proof Sys2Proof.Machine Sys2Proof.Claims

/-! ### Shifts -/

theorem shl32_eq (a b : Word) : shl32 a b = shiftLeft a b := by
  unfold shl32 shiftLeft
  apply BitVec.eq_of_toNat_eq
  split
  next => simp [Nat.shiftLeft_eq]
  next h =>
    obtain ⟨k, hk⟩ := Nat.exists_eq_add_of_le (Nat.le_of_not_lt h)
    have : a.toNat * 2 ^ b.toNat = 2 ^ 32 * (a.toNat * 2 ^ k) := by
      rw [hk, Nat.pow_add, Nat.mul_left_comm]
    simp [this]

theorem shr32_eq (a b : Word) : shr32 a b = shiftRight a b := by
  unfold shr32 shiftRight
  apply BitVec.eq_of_toNat_eq
  have ha := a.isLt
  have hle : a.toNat / 2 ^ b.toNat < 2 ^ 32 := Nat.lt_of_le_of_lt (Nat.div_le_self _ _) ha
  split
  next => rw [BitVec.toNat_ushiftRight, BitVec.toNat_ofNat, Nat.mod_eq_of_lt hle, Nat.shiftRight_eq_div_pow]
  next h =>
    have hz : a.toNat / 2 ^ b.toNat = 0 :=
      Nat.div_eq_of_lt (Nat.lt_of_lt_of_le ha (Nat.pow_le_pow_right (by decide) (Nat.le_of_not_lt h)))
    simp [hz]

/-- From 32 places on a signed shift leaves the sign. -/
theorem toInt_ediv_pow (a : Word) {n : Nat} (h : 32 ≤ n) : a.toInt / (2 ^ n : Nat) = a.toInt / (2 ^ 32 : Nat) := by
  have hlo := a.le_toInt
  have hhi := a.toInt_lt
  have hp : (2 ^ 32 : Nat) ≤ 2 ^ n := Nat.pow_le_pow_right (by decide) h
  generalize 2 ^ n = p at hp ⊢
  rcases Int.lt_or_le a.toInt 0 with hneg | hpos
  · rw [Int.ediv_eq_neg_one_of_neg_of_le hneg (by omega), Int.ediv_eq_neg_one_of_neg_of_le hneg (by omega)]
  · rw [Int.ediv_eq_zero_of_lt hpos (by omega), Int.ediv_eq_zero_of_lt hpos (by omega)]

theorem sra32_eq (a b : Word) : sra32 a b = shiftSigned a b := by
  unfold sra32 shiftSigned
  rw [← BitVec.ofInt_toInt (x := a.sshiftRight _), BitVec.toInt_sshiftRight, Int.shiftRight_eq_div_pow]
  congr 1
  rcases Nat.lt_or_ge b.toNat 32 with h | h
  · rw [Nat.min_eq_left (Nat.le_of_lt h)]
  · rw [Nat.min_eq_right h, toInt_ediv_pow a h]

/-! ### Products -/

theorem signExtend_eq_ofInt (a : Word) (n : Nat) : a.signExtend n = BitVec.ofInt n a.toInt := rfl

theorem mulh32_eq (a b : Word) : mulh32 a b = highSigned a b := by
  unfold mulh32 highSigned
  rw [signExtend_eq_ofInt, signExtend_eq_ofInt, ← BitVec.ofInt_mul]
  apply BitVec.eq_of_toNat_eq
  rw [BitVec.toNat_ofInt, BitVec.extractLsb'_toNat, BitVec.toNat_ofInt, Nat.shiftRight_eq_div_pow]
  generalize a.toInt * b.toInt = p
  omega

theorem mulhu32_eq (a b : Word) : mulhu32 a b = highUnsigned a b := by
  unfold mulhu32 highUnsigned
  apply BitVec.eq_of_toNat_eq
  have ha := a.isLt
  have hb := b.isLt
  have hlt : a.toNat * b.toNat < 2 ^ 32 * 2 ^ 32 := Nat.mul_lt_mul'' ha hb
  simp only [BitVec.toNat_ofNat, BitVec.extractLsb'_toNat, BitVec.toNat_mul, BitVec.truncate_eq_setWidth,
    BitVec.toNat_setWidth, Nat.shiftRight_eq_div_pow]
  rw [Nat.mod_eq_of_lt (a := a.toNat) (by omega), Nat.mod_eq_of_lt (a := b.toNat) (by omega),
    Nat.mod_eq_of_lt (a := a.toNat * b.toNat) (by omega)]

/-! ### Minimum and maximum -/

theorem min32_eq (a b : Word) : min32 a b = smallerSigned a b := by
  unfold min32 smallerSigned
  split
  next h => rw [Int.min_eq_right (Int.le_of_lt h), BitVec.ofInt_toInt]
  next h => rw [Int.min_eq_left (Int.not_lt.1 h), BitVec.ofInt_toInt]

theorem max32_eq (a b : Word) : max32 a b = largerSigned a b := by
  unfold max32 largerSigned
  split
  next h => rw [Int.max_eq_right (Int.le_of_lt h), BitVec.ofInt_toInt]
  next h => rw [Int.max_eq_left (Int.not_lt.1 h), BitVec.ofInt_toInt]

theorem minu32_eq (a b : Word) : minu32 a b = smallerUnsigned a b := by
  unfold minu32 smallerUnsigned
  split
  next h => rw [Nat.min_eq_right (Nat.le_of_lt h), BitVec.ofNat_toNat, BitVec.setWidth_eq]
  next h => rw [Nat.min_eq_left (Nat.not_lt.1 h), BitVec.ofNat_toNat, BitVec.setWidth_eq]

theorem maxu32_eq (a b : Word) : maxu32 a b = largerUnsigned a b := by
  unfold maxu32 largerUnsigned
  split
  next h => rw [Nat.max_eq_right (Nat.le_of_lt h), BitVec.ofNat_toNat, BitVec.setWidth_eq]
  next h => rw [Nat.max_eq_left (Nat.not_lt.1 h), BitVec.ofNat_toNat, BitVec.setWidth_eq]

theorem abs32_eq (a : Word) : abs32 a = magnitude a := by
  unfold abs32 magnitude
  rw [← BitVec.ofInt_natCast]
  split
  next h => rw [Int.ofNat_natAbs_of_nonpos (Int.le_of_lt h), BitVec.ofInt_neg, BitVec.ofInt_toInt]
  next h => rw [Int.natAbs_of_nonneg (Int.not_lt.1 h), BitVec.ofInt_toInt]

/-! ### Counts of bits -/

theorem popNat_eq (n v : Nat) : popNat n v = (List.range n).countP v.testBit := by
  induction n generalizing v with
  | zero => rfl
  | succ n ih =>
    rw [popNat, ih, List.range_succ_eq_map, List.countP_cons, List.countP_map, Nat.add_comm]
    congr 1
    · apply List.countP_congr
      intro i _
      simp [Nat.testBit_succ]
    · rw [Nat.testBit_zero]
      rcases Nat.mod_two_eq_zero_or_one v with h | h <;> simp [h]

theorem popWord_eq (a : Word) : popWord a = onesIn a := by
  unfold popWord onesIn
  rw [popNat_eq]
  rfl

theorem clzFrom_eq (a : Word) (ha : a ≠ 0) (n : Nat) (h : a.toNat < 2 ^ n) : clzFrom a n = n - 1 - a.toNat.log2 := by
  have hne : a.toNat ≠ 0 := fun hz => ha (BitVec.eq_of_toNat_eq hz)
  induction n with
  | zero => omega
  | succ n ih =>
    rw [clzFrom]
    have hlog : a.toNat.log2 < n + 1 := (Nat.log2_lt hne).2 h
    rcases Nat.lt_or_ge a.toNat (2 ^ n) with hlt | hge
    · have hbit : a.getLsbD n = false := by rw [BitVec.getLsbD, Nat.testBit_lt_two_pow hlt]
      have hlog' : a.toNat.log2 < n := (Nat.log2_lt hne).2 hlt
      rw [hbit, ih hlt, if_neg Bool.false_ne_true]
      omega
    · have hlog' : n ≤ a.toNat.log2 := (Nat.le_log2 hne).2 hge
      have hbit : a.getLsbD n = true := by
        rw [BitVec.getLsbD, Nat.testBit_eq_decide_div_mod_eq, decide_eq_true_eq]
        have : a.toNat / 2 ^ n = 1 := Nat.div_eq_of_lt_le (by omega) (by omega)
        rw [this]
      rw [hbit, if_pos rfl]
      omega

theorem clzFrom_zero (n : Nat) : clzFrom 0 n = n := by
  induction n with
  | zero => rfl
  | succ n ih => rw [clzFrom, ih]; simp

theorem clzWord_eq (a : Word) : clzWord a = zerosAbove a := by
  unfold clzWord zerosAbove
  split
  next h => rw [h, clzFrom_zero]; rfl
  next h => rw [clzFrom_eq a h 32 a.isLt]

/-! ### Compares -/

theorem compare32_eq (c : Nat) (a b : Word) : compare32 c a b = holds c a b := by
  unfold compare32 holds
  split <;> simp [BitVec.slt, BitVec.sle, BitVec.ult, BitVec.ule]

/-! ### Fields -/

/-- The position and length that a control word gives (R122). -/
theorem bitsOf_control (b : Word) :
    bitsOf b.toNat 4 0 = (b.extractLsb' 0 5).toNat ∧ bitsOf b.toNat 13 8 = (b.extractLsb' 8 6).toNat := by
  simp [bitsOf, Nat.shiftRight_eq_div_pow]

theorem field_toNat (a : Word) {pos len : Nat} (h : len ≤ 32) :
    ((a >>> pos) &&& BitVec.ofNat 32 (2 ^ len - 1)).toNat = a.toNat / 2 ^ pos % 2 ^ len := by
  have hp : 2 ^ len ≤ 2 ^ 32 := Nat.pow_le_pow_right (by decide) h
  have h1 : 0 < 2 ^ len := Nat.two_pow_pos len
  rw [BitVec.toNat_and, BitVec.toNat_ushiftRight, BitVec.toNat_ofNat, Nat.mod_eq_of_lt (by omega),
    Nat.and_two_pow_sub_one_eq_mod, Nat.shiftRight_eq_div_pow]

/-- The top bit of a field. -/
theorem field_top {f len : Nat} (hf : f < 2 ^ len) (hl : 0 < len) : f.testBit (len - 1) = decide (2 ^ (len - 1) ≤ f) := by
  obtain ⟨n, rfl⟩ := Nat.exists_eq_succ_of_ne_zero (Nat.ne_of_gt hl)
  rw [Nat.succ_sub_one, Nat.testBit_eq_decide_div_mod_eq]
  have hlt : f / 2 ^ n < 2 := Nat.div_lt_of_lt_mul hf
  have hle : 2 ^ n ≤ f ↔ 1 ≤ f / 2 ^ n := by rw [Nat.le_div_iff_mul_le (Nat.two_pow_pos n), Nat.one_mul]
  simp only [hle]
  generalize f / 2 ^ n = q at hlt
  congr 1
  apply propext
  omega

theorem ones_shiftLeft (len : Nat) : 0xFFFFFFFF#32 <<< len = BitVec.ofInt 32 (-(2 ^ len)) := by
  have hone : 0xFFFFFFFF#32 = BitVec.ofInt 32 (-1) := rfl
  have htwo : BitVec.twoPow 32 len = BitVec.ofInt 32 (2 ^ len) := by
    apply BitVec.eq_of_toNat_eq
    rw [BitVec.toNat_twoPow, BitVec.toNat_ofInt]
    norm_cast
  rw [BitVec.shiftLeft_eq_mul_twoPow, hone, htwo, ← BitVec.ofInt_mul, Int.neg_one_mul]

/-- A field with its sign above it. -/
theorem or_signs {f : Word} {len : Nat} (hf : f.toNat < 2 ^ len) :
    f ||| (0xFFFFFFFF#32 <<< len) = BitVec.ofInt 32 ((f.toNat : Int) - 2 ^ len) := by
  have hdisj : f &&& (0xFFFFFFFF#32 <<< len) = 0 := by
    apply BitVec.eq_of_getLsbD_eq
    intro i hi
    rw [BitVec.getLsbD_and, BitVec.getLsbD_shiftLeft]
    rcases Nat.lt_or_ge i len with hlt | hge
    · simp [hlt]
    · have hz : f.getLsbD i = false :=
        Nat.testBit_lt_two_pow (Nat.lt_of_lt_of_le hf (Nat.pow_le_pow_right (by decide) hge))
      rw [hz, Bool.false_and]
      exact BitVec.getLsbD_zero.symm
  rw [← BitVec.add_eq_or_of_and_eq_zero _ _ hdisj, ones_shiftLeft, Int.sub_eq_add_neg, BitVec.ofInt_add, BitVec.ofInt_natCast,
    BitVec.ofNat_toNat, BitVec.setWidth_eq]

theorem bfe32_eq (a b : Word) : bfe32 a b = fieldOf a b := by
  unfold bfe32 fieldOf
  dsimp only
  rw [(bitsOf_control b).1, (bitsOf_control b).2]
  generalize (b.extractLsb' 0 5).toNat = pos
  have hlen : min (b.extractLsb' 8 6).toNat (32 - pos) ≤ 32 := by omega
  generalize min (b.extractLsb' 8 6).toNat (32 - pos) = len at hlen ⊢
  have hf := field_toNat a (pos := pos) hlen
  generalize (a >>> pos) &&& BitVec.ofNat 32 (2 ^ len - 1) = f at hf ⊢
  have hlt : f.toNat < 2 ^ len := by rw [hf]; exact Nat.mod_lt _ (Nat.two_pow_pos len)
  rw [← hf, or_signs hlt, BitVec.ofNat_toNat, BitVec.setWidth_eq]
  congr 1
  simp only [Bool.and_eq_true, decide_eq_true_eq, eq_iff_iff, and_assoc]
  refine and_congr_right fun _ => and_congr_right fun hl => ?_
  rw [BitVec.getLsbD, field_top hlt hl, decide_eq_true_eq]

theorem bfi32_eq (d a b : Word) : bfi32 d a b = insertOf d a b := by
  unfold bfi32 insertOf
  rw [(bitsOf_control b).1, (bitsOf_control b).2]
  have hm (len pos : Nat) : BitVec.ofNat 32 ((2 ^ len - 1) * 2 ^ pos) = BitVec.ofNat 32 (2 ^ len - 1) <<< pos := by
    apply BitVec.eq_of_toNat_eq
    simp [Nat.shiftLeft_eq]
  simp only [hm]

end Sys2Proof.Proofs.Arithmetic

/-!
PROOFS. Words whose result is one register (05_control.md R117–R127, 07_lanes.md R135–R152): scalar, vector and predicate
instructions.
-/

namespace Sys2Proof.Proofs.Results

open Sys2Proof Sys2Proof.Machine Sys2Proof.Claims Sys2Proof.Laws Sys2Proof.Proofs.ControlFlow Sys2Proof.Proofs.Arithmetic

/-! ### Masks -/

theorem maskOf_congr {f g : Nat → Bool} {w : Nat} (h : ∀ l, l < w → f l = g l) : maskOf f w = maskOf g w := by
  induction w with
  | zero => rfl
  | succ n ih => rw [maskOf, maskOf, h n (Nat.lt_succ_self n), ih fun l hl => h l (Nat.lt_succ_of_lt hl)]

theorem quarter_bit (q : Nat) (f : Nat → Bool) {j : Nat} (hj : j < 32) : (quarter q f).getLsbD j = f (32 * q + j) := by
  rw [quarter, BitVec.getLsbD_extractLsb', maskOf_bit _ _ _ (by omega)]
  simp [hj]

theorem eq_quarter {q : Nat} {f : Nat → Bool} {v : Word} (h : ∀ j, j < 32 → v.getLsbD j = f (32 * q + j)) :
    quarter q f = v :=
  BitVec.eq_of_getLsbD_eq fun j hj => (quarter_bit q f hj).trans (h j hj).symm

/-- A write of a P register depends on the lanes that it writes alone. -/
theorem putP_congr {h : Hoist} {d : Nat} {sel sel' f f' : Nat → Bool} (hs : ∀ l, sel l = sel' l)
    (hf : ∀ l, sel' l = true → f l = f' l) : h.putP d sel f = h.putP d sel' f' := by
  unfold Hoist.putP
  rw [maskOf_congr fun l _ => ?_]
  rw [hs]
  split
  next hl => exact hf l hl
  next => rfl

/-! ### Scalar words -/

/-- The body of a word that writes an S destination. -/
theorem scalar_body {r : Env} {i : Instr} {d : BitVec 8} {v : Word} (h : scalarResult r i = some (d, v)) :
    ∃ body : Env → Res, (∀ s, exec i s = runWord i body s) ∧ body r = r.scalar d v := by
  cases i <;> cases h <;> exact ⟨_, fun _ => rfl, by
    simp only [Env.scalar2, flagWord, shl32_eq, shr32_eq, sra32_eq, mulh32_eq, min32_eq, max32_eq, minu32_eq, maxu32_eq,
      popWord_eq, clzWord_eq, compare32_eq, bfe32_eq]⟩

/-! ### Vector words -/

theorem tagSum_eq (x y : Tag) : tagSum x y = tagOr (x == .u && y == .u) (Tag.simple x && Tag.simple y) := by
  cases x <;> cases y <;> rfl

theorem tagProduct_eq (x y : Tag) :
    tagProduct x y = tagOr (x == .u && y == .u) ((x == .u && y == .a) || (x == .a && y == .u)) := by
  cases x <;> cases y <;> rfl

theorem tagShift_eq (x y : Tag) : tagShift x y = tagOr (y == .u && x == .u) (y == .u && x == .a) := by
  cases x <;> cases y <;> rfl

theorem tagMad_eq (d x y : Tag) : tagMad d x y = tagOr (x == .u && y == .u && d == .u)
    (((x == .u && Tag.simple y) || (y == .u && Tag.simple x)) && Tag.simple d) := by
  cases d <;> cases x <;> cases y <;> rfl

theorem shiftLeft_const (x : Word) (n : Nat) : x <<< n = BitVec.ofNat 32 (x.toNat * 2 ^ n) := by
  apply BitVec.eq_of_toNat_eq
  simp [Nat.shiftLeft_eq]

/-- The body of an integer word that writes a V destination. -/
theorem vector_body {r : Env} {i : Instr} {d : BitVec 8} {t : Tag} {f : Nat → Word}
    (h : vectorResult r i = some (d, t, f)) :
    ∃ body : Env → Res, (∀ s, exec i s = runWord i body s) ∧ body r = r.lanes d t f := by
  cases i <;> cases h <;> exact ⟨_, fun _ => rfl, by
    simp only [Env.lanes1, Env.lanes2, Env.tag, tagSum_eq, tagProduct_eq, tagShift_eq, tagMad_eq, shl32_eq, shr32_eq, sra32_eq,
      mulh32_eq, mulhu32_eq, min32_eq, max32_eq, minu32_eq, maxu32_eq, abs32_eq, popWord_eq, clzWord_eq, bfe32_eq, bfi32_eq,
      shiftLeft_const]⟩

/-! ### Predicate words -/

/-- The body of a word that writes lanes of a P register, where no lane has died in the word. -/
theorem predicate_body {r : Env} {i : Instr} {d : BitVec 8} {sel f : Nat → Bool} (hr : r.felled = [])
    (h : predicateResult r i = some (d, sel, f)) :
    ∃ body : Env → Res, (∀ s, exec i s = runWord i body s) ∧ body r = .done (r.s.putHoist (r.h.putP d.toNat sel f)) := by
  cases i with
  | pfroms d a q =>
    cases h
    refine ⟨_, fun _ => rfl, ?_⟩
    rw [putP_congr (sel' := fun l => r.h.laneIn r.g.id l && decide (32 * q.toNat ≤ l) && decide (l < 32 * q.toNat + 32))
      (f' := fun l => (r.sval a).getLsbD (l - 32 * q.toNat))]
    · intro l
      rw [Bool.and_assoc]
      congr 1
      rw [← Bool.decide_and]
      exact Bool.eq_iff_iff.2 (by rw [decide_eq_true_iff, beq_iff_eq]; omega)
    · intro l hl
      simp only [Bool.and_eq_true, decide_eq_true_eq] at hl
      congr 1
      omega
  | pxor d a b =>
    cases h
    exact ⟨_, fun _ => rfl, by simp only [Env.predicate, Env.pbit, hr, List.contains_nil, Bool.not_false, Bool.and_true]⟩
  | _ =>
    cases h <;> exact ⟨_, fun _ => rfl, by
      simp only [Env.compareLanes, Env.predicate, Env.pbit, compare32_eq, hr, List.contains_nil, Bool.not_false, Bool.and_true]⟩

theorem mem_activeLanes {h : Hoist} {g l : Nat} : l ∈ h.activeLanes g ↔ h.active g l = true := by
  rw [Hoist.activeLanes, List.mem_filter, List.mem_range, and_iff_right_iff_imp]
  intro hl
  simp only [Hoist.active, Hoist.laneIn, Bool.and_eq_true, decide_eq_true_eq] at hl
  exact hl.1.1.1

/-- The vote over the bits of the live active lanes (R150). -/
theorem voteIs_iff {r : Env} {a : BitVec 8} {m : Nat} {v : Bool} :
    voteIs r (r.h.preg a.toNat) m v ↔ voteOf m ((r.h.activeLanes r.g.id).map (r.pbit a)) = v := by
  have hv : voteIs r (r.h.preg a.toNat) m (voteOf m ((r.h.activeLanes r.g.id).map (r.pbit a))) := by
    unfold voteIs voteOf
    split
    next => simp [mem_activeLanes, Env.pbit]
    next => simp [mem_activeLanes, Env.pbit]
    next h0 h1 =>
      rw [if_neg h0, if_neg h1]
      simp only [Bool.or_eq_true, List.all_map, List.all_eq_true, mem_activeLanes, Function.comp, id, Env.pbit,
        Bool.not_eq_true']
      constructor
      · rintro (h | h) l k hl hk
        · rw [h l hl, h k hk]
        · rw [h l hl, h k hk]
      · intro h
        by_cases hall : ∀ l, r.h.active r.g.id l = true → (r.h.preg a.toNat).getLsbD l = true
        · exact .inl hall
        · obtain ⟨k, hall⟩ := Classical.not_forall.1 hall
          obtain ⟨hk, hf⟩ := Classical.not_imp.1 hall
          exact .inr fun l hl => (h l k hl hk).trans (Bool.eq_false_iff.2 hf)
  constructor
  · intro h
    exact Bool.eq_iff_iff.2 (hv.trans h.symm)
  · rintro rfl
    exact hv

/-! ### Parts of an A register (05_control.md R125, R127) -/

theorem bitsOfA_bit (x : AReg) (k : Nat) : (bitsOfA x).getLsbD k =
    if k < 72 then x.base.getLsbD k else if k < 120 then x.extent.getLsbD (k - 72)
    else if k < 168 then x.cursor.getLsbD (k - 120) else if k < 176 then x.perm.getLsbD (k - 168)
    else x.step.getLsbD (k - 176) := by
  simp only [bitsOfA, BitVec.getLsbD_append]
  grind

theorem part_bit (x : AReg) (sel : Nat) {k : Nat} (hk : k < 32) : (x.part sel).getLsbD k =
    (decide (k < (partOfA sel).2) && (bitsOfA x).getLsbD ((partOfA sel).1 + k)) := by
  unfold AReg.part partOfA
  split <;> simp only [bitsOfA_bit, BitVec.getLsbD_extractLsb', BitVec.truncate_eq_setWidth, BitVec.getLsbD_setWidth] <;> grind

theorem eq_part {x : AReg} {sel : Nat} {v : Word} (h : partRead x sel v) : x.part sel = v :=
  BitVec.eq_of_getLsbD_eq fun k hk => (part_bit x sel hk).trans (h k hk).symm

/-! ### The statements -/

/-- A word that begins reads its operands where no lane has died in the word. -/
theorem felled_of_begins {i : Instr} {s : State} {e r : Env} {old : List Saved} (h : Begins i s e r old) : r.felled = [] :=
  (begins_sound h).felled

theorem ptos_body {r : Env} (hr : r.felled = []) (d a : BitVec 8) (q : BitVec 2) :
    (r.drawn.scalar d (quarter q.toNat fun l => r.h.laneIn r.g.id l &&
      if r.felled.contains l then (Config.freeWord r.s.fresh).getLsbD (l % 32) else r.pbit a l)) =
    r.scalar d (quarter q.toNat fun l => r.h.laneIn r.g.id l && r.pbit a l) := by
  simp only [Env.drawn, hr, List.contains_nil, if_true, Bool.false_eq_true, if_false]

/-- Settles O1: each operation of the model is the manual's arithmetic, and each bit of PTOS, VBALLOT and AGET is the bit
named. -/
theorem scalarResults : Obligations.ScalarResults := by
  refine ⟨fun i s e r old d v hi h => ?_, fun d a sel s e r old v h hv => ?_, fun d a q s e r old v h hv => ?_,
    fun d a q s e r old v h hv => ?_, fun d a o s e r old h => completes_of_body h rfl rfl⟩
  · obtain ⟨body, hx, hb⟩ := scalar_body hi
    exact completes_of_body h (hx s) hb
  · exact completes_of_body h rfl (by rw [eq_part hv, Env.scalar])
  · exact completes_of_body h rfl (by rw [ptos_body (felled_of_begins h), eq_quarter (v := v) hv, Env.scalar])
  · exact completes_of_body h rfl (by rw [eq_quarter (v := v) hv, Env.scalar])

/-- Settles O2: each operation of the model is the manual's arithmetic, lane by lane, with the tag of R57. -/
theorem vectorResults : Obligations.VectorResults := by
  refine ⟨fun i s e r old d t f hi h => ?_, fun d a b s e r old h => completes_of_body h rfl ?_,
    fun d a q s e r old f h hf => completes_of_body h rfl ?_⟩
  · obtain ⟨body, hx, hb⟩ := vector_body hi
    exact completes_of_body h (hx s) hb
  · simp only [← BitVec.ofNat_add_ofNat, BitVec.ofNat_toNat, BitVec.setWidth_eq]
  · rw [Env.lanes, funext fun l => eq_quarter (hf l)]

/-- Settles O3: each compare of the model is the condition that the manual gives, and a vote is over the live active lanes. -/
theorem predicateResults : Obligations.PredicateResults := by
  refine ⟨fun i s e r old d sel f hi h => ?_, fun d a m s e r old v h hv => completes_of_body h rfl ?_⟩
  · obtain ⟨body, hx, hb⟩ := predicate_body (felled_of_begins h) hi
    exact completes_of_body h (hx s) hb
  · dsimp only
    rw [voteIs_iff.1 hv]

end Sys2Proof.Proofs.Results

/-!
PROOFS. Words of the spec, and the machine after reset (00_scope.md R4, 03_encoding.md R74–R76, 27_host.md R441).
-/

namespace Sys2Proof.Proofs.FixedValues

open Sys2Proof Sys2Proof.Machine Sys2Proof.Claims Sys2Proof.Laws Sys2Proof.Proofs.Encoding

/-- Settles O53: each word is the word of its instruction, and its opcode picks that instruction's row. -/
theorem decodesWords : Obligations.DecodesWords := by
  unfold Obligations.DecodesWords
  exact ⟨decode_encode rfl rfl, decode_encode rfl rfl, decode_encode rfl rfl, decode_encode rfl rfl, decode_encode rfl rfl,
    decode_encode rfl rfl, decode_encode rfl rfl, decode_encode rfl rfl, decode_encode rfl rfl, decode_encode rfl rfl,
    decode_encode rfl rfl, decode_encode rfl rfl⟩

/-- Settles O56: reset leaves every list empty and every switch off. -/
theorem resetState : Obligations.ResetState :=
  ⟨rfl, rfl, rfl, rfl, rfl, rfl, rfl, rfl, rfl, rfl, rfl, canonical_reset⟩

end Sys2Proof.Proofs.FixedValues

/-!
PROOFS. Exact sums and products (13_numbers.md R250, R251, R255): what the model adds and multiplies is the exact result, with
the flags of its NaNs and infinities.
-/

namespace Sys2Proof.Proofs.ExactResults

open Sys2Proof Sys2Proof.Machine Sys2Proof.Claims

/-! ### NaNs and infinities of a sum -/

theorem sigFlag_eq (x : FVal) : x.sigFlag = if x = .nan true then flagIV else 0 := by
  cases x with
  | nan s => cases s <;> rfl
  | inf n => rfl
  | num n m e => rfl

/-- A flag raised by two causes. -/
theorem flagIf_or (p q : Prop) [Decidable p] [Decidable q] (f : Flags) :
    (if p then f else 0) ||| (if q then f else 0) = if p ∨ q then f else 0 := by
  by_cases hp : p <;> by_cases hq : q <;> simp [hp, hq]

theorem foldl_sigFlag (ts : List FVal) (f : Flags) :
    ts.foldl (fun f t => f ||| t.sigFlag) f = f ||| if .nan true ∈ ts then flagIV else 0 := by
  induction ts generalizing f with
  | nil => simp
  | cons t ts ih =>
    rw [List.foldl_cons, ih, sigFlag_eq, BitVec.or_assoc, flagIf_or]
    simp only [List.mem_cons, eq_comm]

/-! ### Numbers in common units -/

/-- The term of a sum in units of 2^u: nothing for a zero. -/
def termIn (u : Int) (t : FVal) : Int := match t with | .num _ 0 _ => 0 | x => x.units u

theorem foldl_add_eq_sum (g : FVal → Int) (ts : List FVal) (a : Int) :
    ts.foldl (fun a t => a + g t) a = a + (ts.map g).sum := by
  induction ts generalizing a with
  | nil => simp
  | cons t ts ih => rw [List.foldl_cons, ih, List.map_cons, List.sum_cons, Int.add_assoc]

theorem minExp_le (ts : List FVal) (u : Int) : minExp ts u ≤ u := by
  induction ts generalizing u with
  | nil => exact Int.le_refl u
  | cons t ts ih =>
    cases t with
    | num n m e =>
      rw [minExp]
      exact Int.le_trans (ih _) (by split <;> omega)
    | nan s => exact ih u
    | inf n => exact ih u

/-- The common unit is no larger than that of any term but a zero. -/
theorem minExp_le_of_mem {ts : List FVal} {n : Bool} {m : Nat} {e : Int} (h : .num n m e ∈ ts) (hm : m ≠ 0) (u : Int) :
    minExp ts u ≤ e := by
  induction ts generalizing u with
  | nil => exact absurd h List.not_mem_nil
  | cons t ts ih =>
    rcases List.mem_cons.1 h with rfl | hts
    · rw [minExp, if_neg hm]
      exact Int.le_trans (minExp_le ts _) (Int.min_le_left e u)
    · cases t with
      | num n' m' e' => exact ih hts _
      | nan s => exact ih hts _
      | inf n => exact ih hts _

/-- What bounds every written exponent bounds the common unit. -/
theorem le_minExp {ts : List FVal} {u v : Int} (hv : u ≤ v) (h : ∀ x ∈ ts, u ≤ writtenAt x) : u ≤ minExp ts v := by
  induction ts generalizing v with
  | nil => exact hv
  | cons t ts ih =>
    have hts : ∀ x ∈ ts, u ≤ writtenAt x := fun x hx => h x (List.mem_cons_of_mem t hx)
    have ht : u ≤ writtenAt t := h t List.mem_cons_self
    cases t with
    | num n m e =>
      refine ih ?_ hts
      split
      · exact hv
      · exact Int.le_min.2 ⟨ht, hv⟩
    | nan s => exact ih hv hts
    | inf n => exact ih hv hts

theorem scaled_num (u : Int) (n : Bool) (m : Nat) (e : Int) :
    scaled u (.num n m e) = (if n then -1 else 1) * ((m : Int) * 2 ^ (e - u).toNat) := by
  rw [Claims.scaled]
  push_cast
  rfl

/-- A finer unit multiplies the number of units. -/
theorem scaled_finer {u v : Int} (huv : u ≤ v) (n : Bool) (m : Nat) {e : Int} (hv : v ≤ e) :
    scaled u (.num n m e) = scaled v (.num n m e) * 2 ^ (v - u).toNat := by
  rw [scaled_num, scaled_num, show (e - u).toNat = (e - v).toNat + (v - u).toNat by omega, Int.pow_add]
  simp only [Int.mul_assoc]

theorem termIn_num {u : Int} {n : Bool} {m : Nat} {e : Int} : termIn u (.num n m e) = scaled u (.num n m e) := by
  cases m with
  | zero => simp [termIn, Claims.scaled]
  | succ m =>
    simp only [termIn, FVal.units, Claims.scaled]
    cases n <;> simp

/-- The sum of the terms in the common unit, brought to a finer one. -/
theorem sum_scaled {ts : List FVal} {u v : Int} (huv : u ≤ v) (hnum : ∀ x ∈ ts, ∃ a b c, x = .num a b c)
    (hv : ∀ n m e, .num n m e ∈ ts → m ≠ 0 → v ≤ e) :
    (ts.map (scaled u)).sum = (ts.map (termIn v)).sum * 2 ^ (v - u).toNat := by
  induction ts with
  | nil => simp
  | cons t ts ih =>
    obtain ⟨n, m, e, rfl⟩ := hnum t List.mem_cons_self
    have ht : scaled u (.num n m e) = termIn v (.num n m e) * 2 ^ (v - u).toNat := by
      rw [termIn_num]
      by_cases hm : m = 0
      · simp [hm, Claims.scaled]
      · exact scaled_finer huv n m (hv n m e List.mem_cons_self hm)
    rw [List.map_cons, List.sum_cons, List.map_cons, List.sum_cons, Int.add_mul, ht,
      ih (fun x hx => hnum x (List.mem_cons_of_mem _ hx)) fun n m e hx => hv n m e (List.mem_cons_of_mem _ hx)]

/-! ### Sums -/

/-- Whether a term is a negative zero. -/
def negZero (t : FVal) : Bool := match t with | .num n m _ => n && m == 0 | _ => false

theorem negZero_iff (t : FVal) : negZero t = true ↔ ∃ c, t = .num true 0 c := by
  cases t with
  | num n m e => cases n <;> simp [negZero]
  | nan s => simp [negZero]
  | inf n => simp [negZero]

/-- The number that is the sum of numbers, as the model gives it. -/
def numberSum (ts : List FVal) : FVal :=
  let k := (ts.map (termIn (minExp ts 0))).sum
  if k = 0 then .num (ts.all negZero) 0 0 else .num (decide (k < 0)) k.natAbs (minExp ts 0)

theorem sumExact_eq (ts : List FVal) : sumExact ts =
    let iv : Flags := if .nan true ∈ ts ∨ (.inf true ∈ ts ∧ .inf false ∈ ts) then flagIV else 0
    if (∃ x ∈ ts, x.isNaN = true) ∨ (.inf true ∈ ts ∧ .inf false ∈ ts) then (.nan false, iv)
    else if .inf false ∈ ts then (.inf false, iv)
    else if .inf true ∈ ts then (.inf true, iv)
    else (numberSum ts, iv) := by
  have hiv : (ts.foldl (fun f t => f ||| t.sigFlag) 0 ||| flagIf (ts.contains (.inf false) && ts.contains (.inf true)) flagIV) =
      if .nan true ∈ ts ∨ (.inf true ∈ ts ∧ .inf false ∈ ts) then flagIV else 0 := by
    rw [foldl_sigFlag, flagIf, ← flagIf_or]
    simp only [Bool.and_eq_true, List.contains_iff_mem, and_comm]
    simp
  unfold sumExact
  dsimp only
  rw [hiv]
  simp only [foldl_add_eq_sum, Int.zero_add, Bool.or_eq_true, List.any_eq_true, Bool.and_eq_true, List.contains_iff_mem,
    and_comm (a := FVal.inf false ∈ ts)]
  refine ite_congr rfl (fun _ => rfl) fun _ => ite_congr rfl (fun _ => rfl) fun _ => ite_congr rfl (fun _ => rfl) fun _ => ?_
  exact (apply_ite (fun z : FVal => (z, (_ : Flags))) _ _ _).symm

theorem exactSum_sumExact (ts : List FVal) : ExactSum ts (sumExact ts).1 (sumExact ts).2 := by
  rw [sumExact_eq]
  dsimp only
  split
  next h => exact .nan h
  next h =>
    have hnan (x : FVal) (hx : x ∈ ts) : ¬ x.isNaN = true := fun hn => h (.inl ⟨x, hx, hn⟩)
    have hinf (ht : .inf true ∈ ts) (hf : .inf false ∈ ts) : False := h (.inr ⟨ht, hf⟩)
    have hsig : .nan true ∉ ts := fun hm => hnan _ hm rfl
    have hiv : ¬ (.nan true ∈ ts ∨ (.inf true ∈ ts ∧ .inf false ∈ ts)) := fun hc =>
      hc.elim hsig fun hb => hinf hb.1 hb.2
    rw [if_neg hiv]
    have hnan' : ∀ x ∈ ts, x.isNaN = false := fun x hx => Bool.eq_false_iff.2 (hnan x hx)
    split
    next hp => exact .inf false hnan' hp fun hn => hinf hn hp
    next hp =>
      split
      next hn => exact .inf true hnan' hn hp
      next hn =>
        have hnum : ∀ x ∈ ts, ∃ a b c, x = .num a b c := by
          intro x hx
          cases x with
          | num n m e => exact ⟨n, m, e, rfl⟩
          | nan s => exact absurd rfl (hnan _ hx)
          | inf n => cases n <;> contradiction
        have hsum (u : Int) (hu : u ≤ minExp ts 0) : (ts.map (scaled u)).sum =
            (ts.map (termIn (minExp ts 0))).sum * 2 ^ (minExp ts 0 - u).toNat :=
          sum_scaled hu hnum fun n m e hx hm => minExp_le_of_mem hx hm 0
        dsimp only [numberSum]
        split
        next hk =>
          refine .num _ 0 0 hnum (fun u hu hall => ?_) fun _ => ?_
          · rw [hsum u (le_minExp hu hall), hk]
            simp [Claims.scaled]
          · simp only [List.all_eq_true, negZero_iff]
        next hk =>
          refine .num _ _ _ hnum (fun u hu hall => ?_) fun hz => absurd (Int.natAbs_eq_zero.1 hz) hk
          rw [hsum u hu, scaled_num]
          rcases Int.lt_or_gt_of_ne hk with hlt | hgt
          · rw [decide_eq_true hlt, if_pos rfl, Int.ofNat_natAbs_of_nonpos (Int.le_of_lt hlt), Int.neg_mul,
              Int.neg_mul, Int.one_mul, Int.neg_neg]
          · rw [decide_eq_false (by omega), if_neg Bool.false_ne_true, Int.natAbs_of_nonneg (Int.le_of_lt hgt),
              Int.one_mul]

/-! ### Products -/

theorem sign_mul (a b : Bool) :
    (if (a != b) = true then (-1 : Int) else 1) = (if a = true then -1 else 1) * (if b = true then -1 else 1) := by
  cases a <;> cases b <;> rfl

theorem exactProduct_mul (x y : FVal) : ExactProduct x y (x.mul y).1 (x.mul y).2 := by
  have hflag : x.sigFlag ||| y.sigFlag = if x = .nan true ∨ y = .nan true then flagIV else 0 := by
    rw [sigFlag_eq, sigFlag_eq, flagIf_or]
  unfold FVal.mul
  split
  next s => rw [hflag]; exact .nan _ _ (.inl rfl)
  next s _ => rw [hflag]; exact .nan _ _ (.inr rfl)
  next a b => exact .infs a b
  next a b m e =>
    split
    next hm => subst hm; exact .zeroInf _ _ a b e (.inl ⟨rfl, rfl⟩)
    next hm => exact .inf _ _ a b m e (.inl ⟨rfl, rfl⟩) hm
  next a m e b =>
    split
    next hm => subst hm; exact .zeroInf _ _ b a e (.inr ⟨rfl, rfl⟩)
    next hm =>
      rw [show (a != b) = (b != a) by cases a <;> cases b <;> rfl]
      exact .inf _ _ b a m e (.inr ⟨rfl, rfl⟩) hm
  next a m e b n g =>
    refine .num a m e b n g _ _ _ rfl (fun u v hu hv huv => ?_) Nat.mul_eq_zero
    rw [scaled_num, scaled_num, scaled_num, show (e + g - (u + v)).toNat = (e - u).toNat + (g - v).toNat by omega, Int.pow_add,
      Int.natCast_mul, sign_mul]
    ac_rfl

/-! ### Delivery -/

theorem delivered_deliver (f : Format) (x : FVal × Flags) : Delivered f x.1 x.2 (deliver f x) := rfl

theorem fAdd_exact (f : Format) (a b : Nat) :
    ∃ z g, ExactSum [f.decode a, f.decode b] z g ∧ Delivered f z g (fAdd f a b) :=
  ⟨_, _, exactSum_sumExact _, delivered_deliver f _⟩

theorem fSub_exact (f : Format) (a b : Nat) :
    ∃ z g, ExactSum [f.decode a, (f.decode b).negate] z g ∧ Delivered f z g (fSub f a b) :=
  ⟨_, _, exactSum_sumExact _, delivered_deliver f _⟩

theorem fMul_exact (f : Format) (a b : Nat) :
    ∃ z g, ExactProduct (f.decode a) (f.decode b) z g ∧ Delivered f z g (fMul f a b) :=
  ⟨_, _, exactProduct_mul _ _, delivered_deliver f _⟩

theorem fFma_exact (f : Format) (a b c : Nat) :
    ∃ p g z k, ExactProduct (f.decode a) (f.decode b) p g ∧ ExactSum [p, f.decode c] z k ∧
      Delivered f z (g ||| k) (fFma f a b c) :=
  ⟨_, _, _, _, exactProduct_mul _ _, exactSum_sumExact _, rfl⟩

end Sys2Proof.Proofs.ExactResults

/-!
PROOFS. Floating-point words (13_numbers.md R255–R273, 07_lanes.md R140): arithmetic, conversions, control words and compares.
-/

namespace Sys2Proof.Proofs.FloatWords

open Sys2Proof Sys2Proof.Machine Sys2Proof.Claims Sys2Proof.Laws Sys2Proof.Proofs.ControlFlow
open Sys2Proof.Proofs.FloatPatterns Sys2Proof.Proofs.MinMax Sys2Proof.Proofs.ExactResults

/-! ### Arithmetic -/

/-- The body of an arithmetic word. -/
theorem float_body {r : Env} {i : Instr} {x : FloatResult} (h : floatResult r i = some x) :
    ∃ body : Env → Res, (∀ s, exec i s = runWord i body s) ∧ body r = .done (r.s.putHoist (x.hoist r)) := by
  cases i <;> cases h <;> exact ⟨_, fun _ => rfl, rfl⟩

/-! ### Conversions -/

theorem cvtFormat_eq (n : Nat) : cvtFormat n = wideFormat n := by
  unfold cvtFormat wideFormat
  split
  · rfl
  · rfl
  · rfl
  next h0 h1 h2 => rw [if_neg h0, if_neg h1, if_neg h2]

theorem intFormat_eq (t : BitVec 4) : intFormat t.toNat = intCode t.toNat := by
  have hall : ∀ t : BitVec 4, intFormat t.toNat = intCode t.toNat := by decide
  exact hall t

theorem wideResult_eq (r : Env) (f : Format) (d : BitVec 8) (g : Nat → Nat × Flags) :
    r.wideResult f d g = .done (r.s.putHoist (FloatResult.hoist ⟨d, f.width == 64, g⟩ r)) := by
  unfold Env.wideResult FloatResult.hoist
  by_cases h : f.width = 64 <;> simp only [h, if_true, if_false, beq_self_eq_true, beq_iff_eq] <;> rfl

theorem integerOf_eq (f : IntFormat) (v : Nat) :
    (if f.signed then signedOf f.bits (v % 2 ^ f.bits) else ((v % 2 ^ f.bits : Nat) : Int)) = integerOf f v := by
  unfold integerOf signedOf
  rw [Nat.mod_mod]
  cases f.signed with
  | false => simp
  | true =>
    simp only [if_true, true_and]
    split
    next h => rw [if_neg (Nat.not_le.2 h)]
    next h => rw [if_pos (Nat.not_lt.1 h)]

/-- The body of a conversion. -/
theorem convert_body {r : Env} {i : Instr} {x : FloatResult} (h : convertResult r i = some x) :
    ∃ body : Env → Res, (∀ s, exec i s = runWord i body s) ∧ body r = .done (r.s.putHoist (x.hoist r)) := by
  cases i with
  | vcvt d a src dst =>
    cases h
    refine ⟨_, fun _ => rfl, ?_⟩
    dsimp only
    rw [wideResult_eq, cvtFormat_eq, cvtFormat_eq]
    rfl
  | vunpk d a f k => cases h; exact ⟨_, fun _ => rfl, rfl⟩
  | vf2i d a w t =>
    cases h
    refine ⟨_, fun _ => rfl, ?_⟩
    dsimp only
    rw [intFormat_eq]
    unfold FloatResult.hoist
    by_cases hb : (intCode t.toNat).bits = 64 <;>
      simp only [hb, if_true, if_false, beq_self_eq_true, beq_iff_eq] <;> rfl
  | vi2f d a t src =>
    cases h
    refine ⟨_, fun _ => rfl, ?_⟩
    dsimp only
    rw [wideResult_eq]
    simp only [intFormat_eq, integerOf_eq]
    have ht : ∀ t : BitVec 2, t = 0 ∨ t = 1 ∨ t = 2 ∨ t = 3 := by decide
    rcases ht t with rfl | rfl | rfl | rfl <;> rfl
  | vrnd d a w m =>
    cases h
    refine ⟨_, fun _ => rfl, ?_⟩
    exact wideResult_eq _ _ _ _
  | _ => cases h

/-! ### Element control words (R264) -/

theorem elemControl_eq (c : Word) : elemControl c = (controlK c, controlFmt c, controlScale c) := by
  simp [elemControl, bitsOf, controlK, controlFmt, controlScale, Nat.shiftRight_eq_div_pow]

theorem elemLegal_eq (pack : Bool) (c : Word) : elemLegal pack c = (controlLegal c && (!pack || controlScale c == 0)) := by
  have hres : (bitsOf c.toNat 31 15 == 0) = (c.extractLsb' 15 17 == 0) := by
    rw [Bool.eq_iff_iff, beq_iff_eq, beq_iff_eq, ← BitVec.toNat_inj]
    simp [bitsOf, Nat.shiftRight_eq_div_pow]
  unfold elemLegal controlLegal
  rw [elemControl_eq, hres]

/-- The body of a word with legal control words. -/
theorem control_body {r : Env} {i : Instr} {x : FloatResult} (h : controlResult r i = some (true, x)) :
    ∃ body : Env → Res, (∀ s, exec i s = runWord i body s) ∧ body r = .done (r.s.putHoist (x.hoist r)) := by
  cases i with
  | vpack d a b =>
    obtain ⟨hl, rfl⟩ := Prod.mk.inj (Option.some.inj h)
    refine ⟨_, fun _ => rfl, ?_⟩
    have hlegal : elemLegal true (r.sval b) = true := by rw [elemLegal_eq]; exact hl
    dsimp only
    rw [hlegal, elemControl_eq]
    rfl
  | vqnt d a b =>
    obtain ⟨hl, rfl⟩ := Prod.mk.inj (Option.some.inj h)
    refine ⟨_, fun _ => rfl, ?_⟩
    have hlegal : r.controlsOk b (elemLegal false) = true := by
      simpa only [Env.controlsOk, elemLegal_eq, Bool.not_false, Bool.true_or, Bool.and_true] using hl
    dsimp only
    rw [hlegal]
    simp only [quantize, elemControl_eq]
    rfl
  | vdqnt d a b =>
    obtain ⟨hl, rfl⟩ := Prod.mk.inj (Option.some.inj h)
    refine ⟨_, fun _ => rfl, ?_⟩
    have hlegal : r.controlsOk b (elemLegal false) = true := by
      simpa only [Env.controlsOk, elemLegal_eq, Bool.not_false, Bool.true_or, Bool.and_true] using hl
    dsimp only
    rw [hlegal]
    simp only [dequantize, elemControl_eq]
    rfl
  | _ => cases h

/-! ### Compares (07_lanes.md R140) -/

theorem value32_of_inf {a : Word} (h : magnitude32 a = 0x7F800000) :
    value32 a = if a.getLsbD 31 then -0x7F800000 else 0x7F800000 := by
  rw [value32, h]
  rfl

theorem value32_bounds {a : Word} (h : magnitude32 a < 0x7F800000) : -0x7F800000 < value32 a ∧ value32 a < 0x7F800000 := by
  rw [value32]
  split <;> omega

/-- Two patterns below infinity have one value when their scaled values agree. -/
theorem value32_eq_iff_scaledValue (a b : Word) : value32 a = value32 b ↔ scaledValue a = scaledValue b := by
  have hlt := scaled_lt_iff (m := magnitude32 a) (n := magnitude32 b)
  have hgt := scaled_lt_iff (m := magnitude32 b) (n := magnitude32 a)
  have ha := scaled_eq_zero_iff (m := magnitude32 a)
  have hb := scaled_eq_zero_iff (m := magnitude32 b)
  rw [value32, value32, scaledValue, scaledValue]
  cases a.getLsbD 31 <;> cases b.getLsbD 31 <;> simp only [Bool.false_eq_true, if_true, if_false] <;> omega

theorem eqv_of_finite {a b : Word} (ha : magnitude32 a < 0x7F800000) (hb : magnitude32 b < 0x7F800000) :
    (fp32.decode a.toNat).eqv (fp32.decode b.toNat) = (value32 a == value32 b) := by
  obtain ⟨k, e, hx, he, hk⟩ := decode_of_finite ha
  obtain ⟨n, g, hy, hg, hn⟩ := decode_of_finite hb
  have hlow : -149 ≤ min e g := Int.le_min.2 ⟨he, hg⟩
  have hi := units_mul_pow hk hlow (Int.min_le_left e g)
  have hj := units_mul_pow hn hlow (Int.min_le_right e g)
  have hpow : (0 : Int) < (2 ^ (min e g + 149).toNat : Nat) := Int.natCast_pos.2 (Nat.two_pow_pos _)
  rw [hx, hy, Bool.eq_iff_iff, beq_iff_eq, value32_eq_iff_scaledValue, ← hi, ← hj,
    Int.mul_eq_mul_right_iff (Int.ne_of_gt hpow)]
  exact beq_iff_eq

/-- The model's equality of exact values is that of the patterns by value. -/
theorem eqv_decode {a b : Word} (ha : nan32 a = false) (hb : nan32 b = false) :
    (fp32.decode a.toNat).eqv (fp32.decode b.toNat) = (value32 a == value32 b) := by
  rcases Nat.lt_or_eq_of_le (not_nan32_iff.1 ha) with ha | ha <;> rcases Nat.lt_or_eq_of_le (not_nan32_iff.1 hb) with hb | hb
  · exact eqv_of_finite ha hb
  · obtain ⟨k, e, hx, -, -⟩ := decode_of_finite ha
    obtain ⟨hlo, hhi⟩ := value32_bounds ha
    have hne : value32 a ≠ value32 b := by rw [value32_of_inf hb]; split <;> omega
    rw [hx, decode_of_inf hb, beq_eq_false_iff_ne.2 hne]
    rfl
  · obtain ⟨k, e, hx, -, -⟩ := decode_of_finite hb
    obtain ⟨hlo, hhi⟩ := value32_bounds hb
    have hne : value32 a ≠ value32 b := by rw [value32_of_inf ha]; split <;> omega
    rw [hx, decode_of_inf ha, beq_eq_false_iff_ne.2 hne]
    rfl
  · rw [decode_of_inf ha, decode_of_inf hb, value32_of_inf ha, value32_of_inf hb]
    cases a.getLsbD 31 <;> cases b.getLsbD 31 <;> rfl

/-- Without the zeros' order, an order by rank is one by value. -/
theorem rank_lt_and_ne (a b : Word) :
    (decide (rank32 a < rank32 b) && !(value32 a == value32 b)) = decide (value32 a < value32 b) := by
  rw [Bool.eq_iff_iff]
  simp only [Bool.and_eq_true, decide_eq_true_eq, Bool.not_eq_true', beq_eq_false_iff_ne]
  rw [rank32, rank32, value32, value32]
  cases a.getLsbD 31 <;> cases b.getLsbD 31 <;> simp only [Bool.false_eq_true, if_true, if_false] <;> omega

theorem lt_or_beq (x y : Int) : (decide (x < y) || (x == y)) = decide (x ≤ y) := by
  rw [Bool.eq_iff_iff]
  simp only [Bool.or_eq_true, decide_eq_true_eq, beq_iff_eq]
  omega

theorem lt_or_beq' (x y : Int) : (decide (y < x) || (x == y)) = decide (y ≤ x) := by
  rw [Bool.beq_comm, lt_or_beq]

theorem fcompare_eq (c : Nat) (a b : Word) : fcompare c a b = floatHolds c a b := by
  have hquiet : (fp32.decode a.toNat).sigFlag ||| (fp32.decode b.toNat).sigFlag =
      invalidIf (signalling32 a || signalling32 b) := by
    rw [sigFlag_decode, sigFlag_decode, invalidIf_or]
  have hloud (n : Bool) : flagIf n flagIV = invalidIf n := by cases n <;> rfl
  unfold fcompare floatHolds
  dsimp only
  rw [hquiet, isNaN_decode, isNaN_decode, hloud]
  cases hn : nan32 a || nan32 b with
  | true => split <;> simp
  | false =>
    obtain ⟨ha, hb⟩ := Bool.or_eq_false_iff.1 hn
    have hgt : (decide (rank32 b < rank32 a) && !(value32 a == value32 b)) = decide (value32 b < value32 a) := by
      rw [Bool.beq_comm, rank_lt_and_ne]
    simp only [Bool.not_false, Bool.true_and, Bool.false_or, eqv_decode ha hb, lt_decode ha hb, lt_decode hb ha,
      rank_lt_and_ne, hgt, lt_or_beq, lt_or_beq', bne] <;> rfl

/-- The body of a floating-point compare. -/
theorem floatCompare_body {i : Instr} {d a b : BitVec 8} {cc : Nat} (h : floatCompare i = some (d, a, b, cc)) (r : Env) :
    ∃ body : Env → Res, (∀ s, exec i s = runWord i body s) ∧ body r = .done (r.s.putHoist
      ((r.h.putP d.toNat (r.h.active r.g.id) fun l => (floatHolds cc (r.h.vword a.toNat l) (r.h.vword b.toNat l)).1).raise
        (flagsOver (r.h.activeLanes r.g.id) fun l => (floatHolds cc (r.h.vword a.toNat l) (r.h.vword b.toNat l)).2))) := by
  cases i <;> cases h <;> exact ⟨_, fun _ => rfl, by simp only [Env.fcompareLanes, fcompare_eq]⟩

/-! ### VFABS and VCBDEC -/

theorem and_eq_magnitude32 (a : Word) : a &&& 0x7FFFFFFF#32 = BitVec.ofNat 32 (magnitude32 a) := by
  apply BitVec.eq_of_toNat_eq
  have hones : (0x7FFFFFFF#32).toNat = 2 ^ 31 - 1 := rfl
  rw [BitVec.toNat_and, hones, magnitude32_eq, BitVec.toNat_ofNat,
    Nat.and_two_pow_sub_one_eq_mod]
  omega

/-- Settles O4: each operation of the model is the one that the manual gives, and its sums and products are exact before the
one conversion. -/
theorem floatResults : Obligations.FloatResults := by
  refine ⟨fun i s e r old x hi h => ?_, fun i s e r old d a b cc hi h => ?_,
    fun d a s e r old h => completes_of_body h rfl ?_, fun d a b s e r old h hl => completes_of_body h rfl ?_,
    fAdd_exact, fSub_exact, fMul_exact, fFma_exact⟩
  · rcases hi with hi | hi | hi
    · obtain ⟨body, hx, hb⟩ := float_body hi
      exact completes_of_body h (hx s) hb
    · obtain ⟨body, hx, hb⟩ := convert_body hi
      exact completes_of_body h (hx s) hb
    · obtain ⟨body, hx, hb⟩ := control_body hi
      exact completes_of_body h (hx s) hb
  · obtain ⟨body, hx, hb⟩ := floatCompare_body hi r
    exact completes_of_body h (hx s) hb
  · simp only [Env.lanes1, Env.lanes, and_eq_magnitude32]
  · have hlegal : r.controlsOk b cbLegal = true := List.all_eq_true.2 hl
    dsimp only
    rw [hlegal]
    rfl

end Sys2Proof.Proofs.FloatWords

/-!
PROOFS. Cross-lane words (07_lanes.md R133, R144–R149, R155): a lane receives its source lane's word, zero from a dead lane,
and its own word from any other place.
-/

namespace Sys2Proof.Proofs.CrossLanes

open Sys2Proof Sys2Proof.Machine Sys2Proof.Claims Sys2Proof.Laws Sys2Proof.Proofs.ControlFlow Sys2Proof.Proofs.Results

theorem shflSource_eq (mode w l k : Nat) : shflSource mode w l k = shuffleSource mode w l k := by
  unfold shflSource shuffleSource
  split
  next => rfl
  next => rfl
  next => rfl
  next => simp only [Nat.reduceEqDiff, if_false, if_true, Int.natCast_emod, Int.natCast_add]
  next h0 h1 h2 h3 => rw [if_neg h0, if_neg h1, if_neg h2, if_neg h3]

/-- What a lane reads of another, where no lane has died in the word. -/
theorem srcval_eq {r : Env} (hr : r.felled = []) (l : Nat) (src : Int) (n : BitVec 8) :
    r.srcval l src n.toNat = received r n l src := by
  unfold Env.srcval Env.sourceLane received
  simp only [hr, List.contains_nil, Bool.or_false]
  by_cases hin : 0 ≤ src ∧ src < r.h.width
  · obtain ⟨h0, hw⟩ := hin
    simp only [h0, hw, true_and, and_self, if_true]
    cases r.h.active r.g.id src.toNat
    · cases r.h.regs.dead.getLsbD src.toNat <;> rfl
    · rfl
  · rw [if_neg hin, if_neg fun h => hin ⟨h.1, h.2.1⟩, if_neg fun h => hin ⟨h.1, h.2.1⟩]

/-- The body of a shuffle or a broadcast. -/
theorem cross_body {r : Env} {i : Instr} {d : BitVec 8} {f : Nat → Word × Bool} (hr : r.felled = [])
    (h : crossResult r i = some (d, f)) :
    ∃ body : Env → Res, (∀ s, exec i s = runWord i body s) ∧ body r = .done (r.s.putHoist
      ((r.h.putV r.g.id d.toNat .g fun l => (f l).1).raise
        (if (r.h.activeLanes r.g.id).any fun l => (f l).2 then flagDeadRead else 0))) := by
  cases i <;> cases h <;> exact ⟨_, fun _ => rfl, by
    simp only [Env.shuffle, Env.deadReads, flagIf, srcval_eq hr, shflSource_eq]⟩

/-- One more piece of work in flight is the work last of all, counted. -/
theorem launched_eq_inFlight (r : Env) (k : Counter) (w : Work) (u : State) : launched r k w u = r.inFlight k w u := rfl

/-- Settles O5: the model's source lane of each mode is the manual's, and what a lane receives from it. -/
theorem crossLaneResults : Obligations.CrossLaneResults := by
  refine ⟨fun i s e r old d f hi h => ?_, fun d a b s e r old h hl => completes_of_body h rfl ?_,
    fun d a o incl rev s e r old h => completes_of_body h rfl rfl,
    fun d a x c s e r old h hs => completes_of_body h rfl ?_⟩
  · obtain ⟨body, hx, hb⟩ := cross_body (felled_of_begins h) hi
    exact completes_of_body h (hx s) hb
  · simp only [launched_eq_inFlight, Env.deadReads, flagIf, srcval_eq (felled_of_begins h), if_neg hl]
  · rw [hs]
    rfl

end Sys2Proof.Proofs.CrossLanes

/-!
PROOFS. The end of a word (01_machine.md R13, 03_encoding.md R65, R71), and the frame of a word whose effect stands in its own
hoist: the rest of the machine, memory, the other hoists and the registers that it does not name are as they were.
-/

namespace Sys2Proof.Proofs.Endings

open Sys2Proof Sys2Proof.Machine Sys2Proof.Claims Sys2Proof.Laws

/-! ### What stays the same -/

theorem sameMachine_refl (s : State) : SameMachine s s :=
  ⟨rfl, rfl, rfl, rfl, rfl, rfl, rfl, rfl, rfl, rfl, rfl, rfl, rfl, rfl, rfl, rfl, rfl, rfl⟩

theorem sameMachine_trans {s t u : State} (h : SameMachine s t) (k : SameMachine t u) : SameMachine s u where
  die := k.die.trans h.die
  mem := k.mem.trans h.mem
  poison := k.poison.trans h.poison
  coreTlb := k.coreTlb.trans h.coreTlb
  clusterTlb := k.clusterTlb.trans h.clusterTlb
  pins := k.pins.trans h.pins
  migrated := k.migrated.trans h.migrated
  holds := k.holds.trans h.holds
  monitors := k.monitors.trans h.monitors
  blocks := k.blocks.trans h.blocks
  gates := k.gates.trans h.gates
  ctxs := k.ctxs.trans h.ctxs
  cubes := k.cubes.trans h.cubes
  flights := k.flights.trans h.flights
  tokens := k.tokens.trans h.tokens
  host := k.host.trans h.host
  power := k.power.trans h.power
  link := k.link.trans h.link

theorem sameMemory_of_machine {s t : State} (h : SameMachine s t) : SameMemory s t :=
  ⟨fun a => by rw [h.mem], h.poison⟩

theorem sameRegs_refl (h : Hoist) (x : Touched) : SameRegs h h x where
  v _ _ := rfl
  s _ _ := rfl
  p _ _ := rfl
  a _ _ := rfl
  exec _ := rfl
  fpx _ := rfl
  xprog _ := rfl
  slices _ := rfl
  counters _ := rfl
  dead := rfl
  ssig := rfl
  batch := rfl
  depth := rfl
  region := rfl
  hregion := rfl

/-- What two words together touch is what either touches. -/
theorem sameRegs_trans {h k j : Hoist} {x : Touched} (a : SameRegs h k x) (b : SameRegs k j x) : SameRegs h j x where
  v n hn := (b.v n hn).trans (a.v n hn)
  s n hn := (b.s n hn).trans (a.s n hn)
  p n hn := (b.p n hn).trans (a.p n hn)
  a n hn := (b.a n hn).trans (a.a n hn)
  exec hn := (b.exec hn).trans (a.exec hn)
  fpx hn := (b.fpx hn).trans (a.fpx hn)
  xprog hn := (b.xprog hn).trans (a.xprog hn)
  slices hn := (b.slices hn).trans (a.slices hn)
  counters hn := (b.counters hn).trans (a.counters hn)
  dead := b.dead.trans a.dead
  ssig := b.ssig.trans a.ssig
  batch := b.batch.trans a.batch
  depth := b.depth.trans a.depth
  region := b.region.trans a.region
  hregion := b.hregion.trans a.hregion

theorem sameRegs_of_regs {h k : Hoist} {x : Touched} (hr : k.regs = h.regs) (hc : k.counters = h.counters) :
    SameRegs h k x where
  v _ _ := by rw [Hoist.vreg, hr]; rfl
  s _ _ := by rw [Hoist.sreg, hr]; rfl
  p _ _ := by rw [Hoist.preg, hr]; rfl
  a _ _ := by rw [Hoist.areg, hr]; rfl
  exec _ := by rw [hr]
  fpx _ := by rw [hr]
  xprog _ := by rw [hr]
  slices _ := by rw [hr]
  counters _ := hc
  dead := by rw [hr]
  ssig := by rw [hr]
  batch := by rw [hr]
  depth := by rw [hr]
  region := by rw [hr]
  hregion := by rw [hr]

/-- A word that touches nothing touches no more than any other. -/
theorem sameRegs_widen {h k : Hoist} (a : SameRegs h k {}) (x : Touched) : SameRegs h k x where
  v n _ := a.v n id
  s n _ := a.s n id
  p n _ := a.p n id
  a n _ := a.a n id
  exec _ := a.exec id
  fpx _ := a.fpx id
  xprog _ := a.xprog id
  slices _ := a.slices id
  counters _ := a.counters id
  dead := a.dead
  ssig := a.ssig
  batch := a.batch
  depth := a.depth
  region := a.region
  hregion := a.hregion

/-! ### Slices -/

theorem getElem?_updSliceList (h : Hoist) (ns : List Nat) (f : Nat → Slice → Slice) (n : Nat) :
    (h.updSliceList ns f).regs.slices[n]? = h.regs.slices[n]?.map fun x => if ns.contains n then f n x else x := by
  rw [Hoist.updSliceList, List.getElem?_mapIdx]

/-- Changes of the program counters and signatures of slices leave their shapes. -/
theorem shapes_updSliceList (h : Hoist) (ns : List Nat) (f : Nat → Slice → Slice) (hf : ∀ n x, shapeOf (f n x) = shapeOf x) :
    (h.updSliceList ns f).regs.slices.map shapeOf = h.regs.slices.map shapeOf := by
  apply List.ext_getElem?
  intro n
  rw [List.getElem?_map, List.getElem?_map, getElem?_updSliceList]
  cases h.regs.slices[n]? with
  | none => rfl
  | some x =>
    rw [Option.map_some, Option.map_some]
    split
    · rw [hf]; rfl
    · rfl

/-! ### The end of a word -/

/-- The hoist at the end of its word. -/
def endOf (e : Env) (i : Instr) (taken : Bool) (h : Hoist) : Hoist := (e.hoistAfter i taken h).snapshotAfter e.g.id

theorem snapshotAfter_regs (h : Hoist) (g : Nat) : (h.snapshotAfter g).regs = h.regs := by
  unfold Hoist.snapshotAfter
  split
  · split <;> rfl
  · rfl

theorem snapshotAfter_counters (h : Hoist) (g : Nat) : (h.snapshotAfter g).counters = h.counters := by
  unfold Hoist.snapshotAfter
  split
  · split <;> rfl
  · rfl

theorem snapshotAfter_src (h : Hoist) (g : Nat) : (h.snapshotAfter g).src = h.src := by
  unfold Hoist.snapshotAfter
  split
  · split <;> rfl
  · rfl

theorem endOf_src (e : Env) (i : Instr) (taken : Bool) (h : Hoist) : (endOf e i taken h).src = h.src :=
  snapshotAfter_src _ _

/-- In a hoist that is not replicated a word forwards nothing, so its end changes its own hoist alone. -/
theorem complete_eq {e : Env} (hr : e.b.replicated = false) (i : Instr) (taken : Bool) (u : State) :
    e.complete i taken u = (u.updHoist e.h.src (endOf e i taken)).spend e.h.src := by
  simp only [Env.complete, Env.forwardWord, Env.sendsReads, Env.leads, hr, Bool.false_and, Bool.false_eq_true, if_false]
  rfl

theorem snapshotAfter_sameRegs (h : Hoist) (g : Nat) : SameRegs h (h.snapshotAfter g) {} :=
  sameRegs_of_regs (snapshotAfter_regs h g) (snapshotAfter_counters h g)

theorem hoistAfter_sameRegs (e : Env) (i : Instr) (taken : Bool) (h : Hoist) : SameRegs h (e.hoistAfter i taken h) {} where
  v _ _ := rfl
  s _ _ := rfl
  p _ _ := rfl
  a _ _ := rfl
  exec _ := rfl
  fpx _ := rfl
  xprog _ := rfl
  slices _ := shapes_updSliceList h _ _ fun _ _ => rfl
  counters _ := rfl
  dead := rfl
  ssig := rfl
  batch := rfl
  depth := rfl
  region := rfl
  hregion := rfl

/-- The end of a word moves program counters, signatures and its group alone. -/
theorem endOf_sameRegs (e : Env) (i : Instr) (taken : Bool) (h : Hoist) : SameRegs h (endOf e i taken h) {} :=
  sameRegs_trans (hoistAfter_sameRegs e i taken h) (snapshotAfter_sameRegs _ _)

/-- Where a slice is after the word: past it and its EXT, unless its effect has set the program counters. -/
theorem endOf_pc (e : Env) (i : Instr) (taken : Bool) (h : Hoist) {n : Nat} {x : Slice} (hx : h.regs.slices[n]? = some x) :
    ∃ y, (endOf e i taken h).regs.slices[n]? = some y ∧
      y.pc = if n ∈ e.h.groupSlices e.g.id ∧ taken = false then x.pc + (if e.ext.isSome then 8 else 4) else x.pc := by
  have hlen : e.length = if e.ext.isSome then 8 else 4 := by rw [Env.length]; cases e.ext <;> rfl
  refine ⟨_, by
    rw [endOf, snapshotAfter_regs]
    exact (getElem?_updSliceList h _ _ n).trans (by rw [hx]; rfl), ?_⟩
  dsimp only
  by_cases hn : n ∈ e.h.groupSlices e.g.id
  · rw [if_pos (List.contains_iff_mem.2 hn)]
    cases taken
    · simp only [hn, hlen, and_self, if_true, Bool.false_eq_true, if_false]
    · simp only [reduceCtorEq, and_false, if_true, if_false]
  · rw [if_neg (mt List.contains_iff_mem.1 hn), if_neg fun h => hn h.1]

theorem complete_sameMachine {e : Env} (hr : e.b.replicated = false) (i : Instr) (taken : Bool) (u : State) :
    SameMachine u (e.complete i taken u) := by
  rw [complete_eq hr]
  exact ⟨rfl, rfl, rfl, rfl, rfl, rfl, rfl, rfl, rfl, rfl, rfl, rfl, rfl, rfl, rfl, rfl, rfl, rfl⟩

theorem complete_sameOthers {e : Env} (hr : e.b.replicated = false) (i : Instr) (taken : Bool) (u : State) :
    SameOthers e.h.src u (e.complete i taken u) := by
  intro n hn
  rw [complete_eq hr]
  exact hoist?_updHoist_other (endOf_src e i taken) hn

theorem hoist?_complete {e : Env} (hr : e.b.replicated = false) (i : Instr) (taken : Bool) {u : State} {h : Hoist}
    (hu : u.hoist? e.h.src = some h) : (e.complete i taken u).hoist? e.h.src = some (endOf e i taken h) := by
  rw [complete_eq hr]
  exact (hoist?_updHoist (endOf_src e i taken)).trans (by rw [hu]; rfl)

/-- Settles O40: the end of a word forwards nothing in a hoist that is not replicated, and moves its own hoist alone. -/
theorem wordEnds : Obligations.WordEnds := by
  intro e i taken u h hr hu
  refine ⟨by rw [complete_eq hr]; rfl, by rw [complete_eq hr]; rfl, complete_sameMachine hr i taken u,
    complete_sameOthers hr i taken u, _, hoist?_complete hr i taken hu, endOf_sameRegs e i taken h, fun n x hx => ?_⟩
  exact endOf_pc e i taken h hx

/-! ### The frame of a word that acts on its own hoist -/

/-- An effect that stands in one hoist: the rest of the machine and the other hoists are as they were, and the hoist has
become `k`. -/
structure ActsOn (src : Nat) (s u : State) (k : Hoist) : Prop where
  machine : SameMachine s u
  others : SameOthers src s u
  own : u.hoist? src = some k

theorem actsOn_self {r : Env} (hr : Sound r) : ActsOn r.h.src r.s r.s r.h :=
  ⟨sameMachine_refl _, fun _ _ => rfl, hr.found⟩

theorem actsOn_putHoist {r : Env} (hr : Sound r) {k : Hoist} (hk : k.src = r.h.src) :
    ActsOn r.h.src r.s (r.s.putHoist k) k where
  machine := ⟨rfl, rfl, rfl, rfl, rfl, rfl, rfl, rfl, rfl, rfl, rfl, rfl, rfl, rfl, rfl, rfl, rfl, rfl⟩
  others _ hn := hoist?_putHoist_other (by rwa [hk])
  own := by
    have hfound : (r.s.hoist? k.src).isSome := by rw [hk, hr.found]; rfl
    rw [← hk]
    exact hoist?_putHoist hfound

theorem actsOn_updHoist {r : Env} (hr : Sound r) {f : Hoist → Hoist} (hf : ∀ h, (f h).src = h.src) :
    ActsOn r.h.src r.s (r.s.updHoist r.h.src f) (f r.h) where
  machine := ⟨rfl, rfl, rfl, rfl, rfl, rfl, rfl, rfl, rfl, rfl, rfl, rfl, rfl, rfl, rfl, rfl, rfl, rfl⟩
  others _ hn := hoist?_updHoist_other hf hn
  own := by rw [hoist?_updHoist hf, hr.found]; rfl

theorem asRead_nil (e : Env) : e.asRead [] = e := rfl

theorem unmix_nil (e : Env) (i : Instr) (u : State) : e.unmix i [] u = u := rfl

theorem answers_of_completes {i : Instr} {s u : State} {e : Env} (h : Completes i s e [] u) :
    Answers i s (e.complete i false u) := by
  rwa [Completes, asRead_nil, unmix_nil] at h

theorem answers_of_jumps {i : Instr} {s u : State} {e : Env} (h : Jumps i s e [] u) :
    Answers i s (e.complete i true u) := by
  rwa [Jumps, asRead_nil, unmix_nil] at h

theorem next_inj {i : Instr} {s t u : State} (h : Answers i s t) (k : Answers i s u) : t = u := by
  injection h.symm.trans k

/-- A word that ends after an effect on its own hoist leaves the rest. -/
theorem frame_of_actsOn {e : Env} {i : Instr} {s t u : State} {k : Hoist} {jump : Bool} {x : Touched}
    (hr : e.b.replicated = false) (hc : Answers i s (e.complete i jump u)) (ht : Answers i s t)
    (ha : ActsOn e.h.src e.s u k) (hk : SameRegs e.h k x) : Frame e t x := by
  obtain rfl := next_inj ht hc
  have hm := sameMachine_trans ha.machine (complete_sameMachine hr i jump u)
  refine ⟨hm, sameMemory_of_machine hm, fun n hn => ?_, _, hoist?_complete hr i jump ha.own,
    sameRegs_trans hk (sameRegs_widen (endOf_sameRegs e i jump k) x)⟩
  exact (complete_sameOthers hr i jump u n hn).trans (ha.others n hn)

end Sys2Proof.Proofs.Endings

/-!
PROOFS. Branches on P (05_control.md R97): what each slice decides, which slices of the group take the branch, and the two
groups into which a group parts.
-/

namespace Sys2Proof.Proofs.Branches

open Sys2Proof Sys2Proof.Machine Sys2Proof.Claims Sys2Proof.Laws Sys2Proof.Proofs.ControlFlow Sys2Proof.Proofs.Endings

/-! ### Targets -/

theorem target16_low (r : Env) (o : BitVec 16) : (r.target16 o).extractLsb' 0 32 = target16 r o := by
  rw [Env.target16, target16, target]
  cases r.ext <;> exact addPc_low _ _

theorem goto_target16 (r : Env) (o : BitVec 16) (h : Hoist) :
    r.goto (r.target16 o) h = movedTo r (target16 r o) h := by
  rw [Env.goto, target16_low, movedTo]

/-! ### The decision of a slice -/

theorem mem_liveOf {h : Hoist} {n l : Nat} : l ∈ h.liveOf n ↔ liveIn h n l := by
  simp only [Hoist.liveOf, List.mem_filter, List.mem_cons, List.not_mem_nil, or_false, Bool.and_eq_true, Bool.not_eq_true',
    liveIn]
  constructor
  · rintro ⟨h1, h2, h3⟩
    exact ⟨by omega, by omega, h2, h3⟩
  · rintro ⟨h1, h2, h3, h4⟩
    exact ⟨by omega, h3, h4⟩

theorem decides_eq_none {h : Hoist} {p : Mask} {all : Bool} {n : Nat} :
    h.decides p all n = none ↔ ¬ ∃ l, liveIn h n l := by
  simp only [← mem_liveOf]
  unfold Hoist.decides
  split
  next hnil => simp [hnil]
  next hcons =>
    obtain ⟨l, hl⟩ := List.exists_mem_of_ne_nil _ hcons
    exact ⟨nofun, fun hno => absurd ⟨l, hl⟩ hno⟩

theorem decides_eq_some {h : Hoist} {p : Mask} {all b : Bool} {n : Nat} :
    h.decides p all n = some b ↔ decidesTo h p all n b := by
  unfold decidesTo
  simp only [← mem_liveOf]
  unfold Hoist.decides
  split
  next hnil => simp [hnil]
  next hcons =>
    rw [and_iff_right (List.exists_mem_of_ne_nil _ hcons), Option.some.injEq]
    cases all
    · simp only [Bool.false_eq_true, if_false, ← List.any_eq_true]
      exact ⟨fun h => h ▸ Iff.rfl, fun h => (Bool.eq_iff_iff.2 h).symm⟩
    · simp only [if_true, ← List.all_eq_true]
      exact ⟨fun h => h ▸ Iff.rfl, fun h => (Bool.eq_iff_iff.2 h).symm⟩

/-! ### The slices that take the branch -/

theorem groupSlices_sorted (h : Hoist) (g : Nat) : (h.groupSlices g).Pairwise (· < ·) :=
  List.Pairwise.filter _ List.pairwise_lt_range

/-- In an ascending list the first answer is that of the least place that has one. -/
theorem findSome?_sorted {β : Type} {l : List Nat} {f : Nat → Option β} {b : β} (hl : l.Pairwise (· < ·)) :
    l.findSome? f = some b ↔ ∃ m ∈ l, f m = some b ∧ ∀ k ∈ l, k < m → f k = none := by
  induction l with
  | nil => simp
  | cons x xs ih =>
    obtain ⟨hx, hxs⟩ := List.pairwise_cons.1 hl
    rw [List.findSome?_cons]
    cases hf : f x with
    | some c =>
      constructor
      · rintro ⟨⟩
        refine ⟨x, List.mem_cons_self, hf, fun k hk hlt => ?_⟩
        rcases List.mem_cons.1 hk with rfl | hk
        · omega
        · exact absurd (hx k hk) (by omega)
      · rintro ⟨m, hm, hb, hno⟩
        rcases List.mem_cons.1 hm with rfl | hm
        · exact hf.symm.trans hb
        · rw [hno x List.mem_cons_self (hx m hm)] at hf
          cases hf
    | none =>
      refine (ih hxs).trans ⟨fun ⟨m, hm, hb, hno⟩ => ⟨m, List.mem_cons_of_mem x hm, hb, fun k hk hlt => ?_⟩,
        fun ⟨m, hm, hb, hno⟩ => ?_⟩
      · rcases List.mem_cons.1 hk with rfl | hk
        · exact hf
        · exact hno k hk hlt
      · rcases List.mem_cons.1 hm with rfl | hm
        · rw [hf] at hb
          cases hb
        · exact ⟨m, hm, hb, fun k hk => hno k (List.mem_cons_of_mem x hk)⟩

/-- What the slices without a live lane do: as the lowest slice that has one, and else by the kind of the branch. -/
theorem firstDecision_iff (r : Env) (p : Mask) (all : Bool) :
    (r.slices.findSome? (r.h.decides p all)).getD all = true ↔
      (∃ m ∈ r.h.groupSlices r.g.id, decidesTo r.h p all m true ∧
        ∀ k ∈ r.h.groupSlices r.g.id, k < m → ¬ ∃ l, liveIn r.h k l) ∨
      (all = true ∧ ∀ k ∈ r.h.groupSlices r.g.id, ¬ ∃ l, liveIn r.h k l) := by
  have hsome (b : Bool) := findSome?_sorted (f := r.h.decides p all) (b := b) (groupSlices_sorted r.h r.g.id)
  simp only [decides_eq_some, decides_eq_none] at hsome
  have hnone : r.slices.findSome? (r.h.decides p all) = none ↔ ∀ k ∈ r.h.groupSlices r.g.id, ¬ ∃ l, liveIn r.h k l := by
    simp only [List.findSome?_eq_none_iff, decides_eq_none, Env.slices]
  rw [← hsome true, ← hnone]
  change Option.getD _ all = true ↔ r.slices.findSome? _ = some true ∨ _
  cases r.slices.findSome? (r.h.decides p all) with
  | none => simp
  | some b => simp

theorem mem_takers {r : Env} {p : Mask} {all : Bool} {n : Nat} :
    n ∈ r.takers p all ↔ n ∈ r.h.groupSlices r.g.id ∧ takesBranch r p all n := by
  rw [Env.takers, List.mem_filter]
  refine and_congr_right fun _ => ?_
  rw [takesBranch, ← firstDecision_iff, ← decides_eq_some, ← decides_eq_none (p := p) (all := all)]
  cases r.h.decides p all n with
  | none => simp
  | some b => simp

theorem takers_eq_slices {r : Env} {p : Mask} {all : Bool} (h : ∀ n ∈ r.h.groupSlices r.g.id, takesBranch r p all n) :
    r.takers p all = r.slices := by
  refine List.filter_eq_self.2 fun n hn => ?_
  have hmem : n ∈ r.takers p all := mem_takers.2 ⟨hn, h n hn⟩
  exact (List.mem_filter.1 hmem).2

theorem takers_eq_nil {r : Env} {p : Mask} {all : Bool} (h : ∀ n ∈ r.h.groupSlices r.g.id, ¬ takesBranch r p all n) :
    r.takers p all = [] :=
  List.eq_nil_iff_forall_not_mem.2 fun n hn => h n (mem_takers.1 hn).1 (mem_takers.1 hn).2

/-! ### The words -/

/-- The body of BRANY and BRALL. -/
theorem sliceBranch_body {i : Instr} {p : BitVec 8} {o : BitVec 16} {all : Bool} (h : sliceBranch i = some (p, o, all)) :
    ∀ s, exec i s = runWord i (fun e => e.branchSlices p o all) s := by
  cases i <;> cases h <;> exact fun _ => rfl

theorem branchSlices_all {r : Env} {p : BitVec 8} {o : BitVec 16} {all : Bool} (hne : r.h.groupSlices r.g.id ≠ [])
    (h : ∀ n ∈ r.h.groupSlices r.g.id, takesBranch r (r.h.preg p.toNat) all n) :
    r.branchSlices p o all = .jump (r.s.putHoist (movedTo r (target16 r o) r.h)) := by
  have hs : r.slices ≠ [] := hne
  rw [Env.branchSlices, takers_eq_slices h, goto_target16, if_neg hs, if_pos rfl, Env.move]

theorem branchSlices_none {r : Env} {p : BitVec 8} {o : BitVec 16} {all : Bool}
    (h : ∀ n ∈ r.h.groupSlices r.g.id, ¬ takesBranch r (r.h.preg p.toNat) all n) :
    r.branchSlices p o all = .done r.s := by
  rw [Env.branchSlices, takers_eq_nil h, if_pos rfl]

theorem branchSlices_parts {r : Env} {p : BitVec 8} {o : BitVec 16} {all : Bool}
    (hsome : ∃ n ∈ r.h.groupSlices r.g.id, takesBranch r (r.h.preg p.toNat) all n)
    (hnot : ∃ n ∈ r.h.groupSlices r.g.id, ¬ takesBranch r (r.h.preg p.toNat) all n) :
    r.branchSlices p o all =
      .jump (r.s.putHoist (r.part (r.takers (r.h.preg p.toNat) all) (r.target16 o))) := by
  obtain ⟨n, hn, ht⟩ := hsome
  obtain ⟨m, hm, hf⟩ := hnot
  have hnil : r.takers (r.h.preg p.toNat) all ≠ [] := List.ne_nil_of_mem (mem_takers.2 ⟨hn, ht⟩)
  have hall : r.takers (r.h.preg p.toNat) all ≠ r.slices := fun heq =>
    hf (mem_takers.1 (heq ▸ show m ∈ r.slices from hm)).2
  rw [Env.branchSlices, if_neg hnil, if_neg hall, Env.move]

/-! ### The parted group -/

theorem contains_beq_iff {l : List Nat} {a b : Nat} : (l.contains a == l.contains b) = true ↔ (a ∈ l ↔ b ∈ l) := by
  rw [beq_iff_eq, Bool.eq_iff_iff, List.contains_iff_mem, List.contains_iff_mem]

/-- A slice of the hoist whose group has parted. -/
theorem slices_part (r : Env) (taken : List Nat) (t : VAddr) {n : Nat} {x : Slice} (hx : r.h.regs.slices[n]? = some x) :
    (r.part taken t).regs.slices[n]? = some
      (if n ∈ r.h.groupSlices r.g.id then
        { x with
          pc := if n ∈ taken then t.extractLsb' 0 32 else nextWord r
          group := if (n ∈ taken ↔ (r.h.groupSlices r.g.id).headD 0 ∈ taken) then r.g.id else r.h.newGroup }
      else x) := by
  have hget : (r.part taken t).regs.slices[n]? = _ := getElem?_updSliceList r.h r.slices _ n
  rw [hget, hx, Option.map_some, ← link_eq_nextWord]
  simp only [Env.slices, List.contains_iff_mem, Env.link]
  by_cases hn : n ∈ r.h.groupSlices r.g.id
  · simp only [if_pos hn, contains_beq_iff, apply_ite (BitVec.extractLsb' 0 32)]
  · simp only [if_neg hn]

theorem part_sameRegs (r : Env) (taken : List Nat) (t : VAddr) : SameRegs r.h (r.part taken t) { slices := True } where
  v _ _ := rfl
  s _ _ := rfl
  p _ _ := rfl
  a _ _ := rfl
  exec _ := rfl
  fpx _ := rfl
  xprog _ := rfl
  slices h := absurd trivial h
  counters _ := rfl
  dead := rfl
  ssig := rfl
  batch := rfl
  depth := rfl
  region := rfl
  hregion := rfl

theorem headD_mem {l : List Nat} (h : l ≠ []) : l.headD 0 ∈ l := by
  cases l with
  | nil => exact absurd rfl h
  | cons x xs => exact List.mem_cons_self

theorem ite_eq_left_or_right {c : Prop} [Decidable c] (a b : Nat) : (if c then a else b) = a ∨ (if c then a else b) = b := by
  split
  · exact .inl rfl
  · exact .inr rfl

/-- Settles O8: the side that holds the group's lowest slice keeps the number, the other gets a new one. -/
theorem branchParts : Obligations.BranchParts := by
  intro i s e r old p o all hi h hsome hnot
  refine ⟨_, jumps_of_body h (sliceBranch_body hi s) (branchSlices_parts hsome hnot), rfl, fun n x hx =>
    ⟨_, slices_part r _ _ hx, ?_⟩, part_sameRegs r _ _⟩
  obtain ⟨m, hm, -⟩ := hsome
  have hhead := headD_mem (List.ne_nil_of_mem hm)
  have htaken {k : Nat} (hk : k ∈ r.h.groupSlices r.g.id) :
      k ∈ r.takers (r.h.preg p.toNat) all ↔ takesBranch r (r.h.preg p.toNat) all k :=
    mem_takers.trans (and_iff_right hk)
  split
  next hn =>
    refine ⟨fun ht => by rw [if_pos ((htaken hn).2 ht), target16_low], fun ht => by rw [if_neg (mt (htaken hn).1 ht)], ?_, ?_⟩
    · exact ite_eq_left_or_right _ _
    · rw [← htaken hn, ← htaken hhead]
      by_cases hsame : n ∈ r.takers (r.h.preg p.toNat) all ↔
          (r.h.groupSlices r.g.id).headD 0 ∈ r.takers (r.h.preg p.toNat) all
      · simp only [hsame, or_true, if_true]
      · simp only [hsame, or_false, if_false]
  next hn => rfl

end Sys2Proof.Proofs.Branches

/-!
PROOFS. Hint, control-flow, mask and address words (03_encoding.md R66–R71, 05_control.md R96–R115, R125–R131): their effects on
the issuing hoist, their traps and their frames.
-/

namespace Sys2Proof.Proofs.ControlWords

open Sys2Proof Sys2Proof.Machine Sys2Proof.Claims Sys2Proof.Laws Sys2Proof.Proofs.ControlFlow Sys2Proof.Proofs.Endings
  Sys2Proof.Proofs.Branches Sys2Proof.Proofs.Results Sys2Proof.Proofs.FloatWords

/-! ### Code pointers -/

/-- A target in the group's region is its low bits. -/
theorem goto_region (r : Env) (v : Word) (h : Hoist) : r.goto (r.pc.extractLsb' 32 40 ++ v) h = movedTo r v h := by
  rw [Env.goto, BitVec.extractLsb'_append_eq_right, movedTo]

theorem aligned_iff (v : Word) : v.extractLsb' 0 2 = 0#2 ↔ v.toNat % 4 = 0 := by
  rw [← BitVec.toNat_inj, BitVec.extractLsb'_toNat, Nat.shiftRight_zero]
  exact Iff.rfl

theorem codeJump_body {i : Instr} {a : BitVec 8} {kind : BitVec 2} {link : Bool} (h : codeJump i = some (a, kind, link)) :
    ∀ s, exec i s = runWord i (fun e => e.jumpVia a kind link) s := by
  cases i <;> cases h <;> exact fun _ => rfl

theorem jumpVia_aligned {r : Env} {a : BitVec 8} (kind : BitVec 2) (link : Bool) (h : (r.sval a).toNat % 4 = 0) :
    r.jumpVia a kind link = .jump (r.s.putHoist
      ((if link then (movedTo r (r.sval a) r.h).setS 95 (nextWord r) else movedTo r (r.sval a) r.h).updGroup r.g.id
        fun x => { x with landing := some (kind, r.pc) })) := by
  rw [Env.jumpVia, goto_region, link_eq_nextWord]
  exact if_neg fun hne => hne ((aligned_iff _).2 h)

theorem jumpVia_misaligned {r : Env} {a : BitVec 8} (kind : BitVec 2) (link : Bool) (h : (r.sval a).toNat % 4 ≠ 0) :
    r.jumpVia a kind link = r.raise .illop := by
  rw [Env.jumpVia]
  exact if_pos fun heq => h ((aligned_iff _).1 heq)

/-! ### Rejoin stacks -/

theorem slice_of_getElem? {h : Hoist} {n : Nat} {x : Slice} (hx : h.regs.slices[n]? = some x) : h.slice n = x := by
  rw [Hoist.slice, hx, Option.getD_some]

/-- A slice of a group is one of the hoist's. -/
theorem getElem?_of_mem_groupSlices {h : Hoist} {g n : Nat} (hn : n ∈ h.groupSlices g) :
    h.regs.slices[n]? = some (h.slice n) := by
  have hlt : n < h.regs.slices.length := List.mem_range.1 (List.mem_filter.1 hn).1
  rw [Hoist.slice, List.getElem?_eq_getElem hlt, Option.getD_some]

/-- Some stack of the group is full (R104). -/
theorem fullStack_iff (r : Env) : (r.slices.any fun n => decide (32 ≤ (r.h.slice n).stack.length)) = true ↔
    ∃ n ∈ r.h.groupSlices r.g.id, ∃ x, r.h.regs.slices[n]? = some x ∧ 32 ≤ x.stack.length := by
  simp only [List.any_eq_true, decide_eq_true_eq, Env.slices]
  constructor
  · rintro ⟨n, hn, hx⟩
    exact ⟨n, hn, _, getElem?_of_mem_groupSlices hn, hx⟩
  · rintro ⟨n, hn, x, hx, hlen⟩
    exact ⟨n, hn, by rwa [slice_of_getElem? hx]⟩

theorem topBit_eq (h : Hoist) (l : Nat) : h.topBit l = topBit h l := by
  rw [Hoist.topBit, topBit, top_eq_topOf]
  cases topOf h (l / 4) <;> rfl

theorem wordPc_of_no_ext {r : Env} (h : r.ext = none) : r.wordPc = r.pc := by rw [Env.wordPc, h]

/-- What a JOIN must find on a stack (R106). -/
theorem joinOk_iff {r : Env} (hx : r.ext = none) (n : Nat) : r.joinOk n = true ↔
    ∃ t, topOf r.h n = some t ∧ t.maskn = ~~~t.mask ∧ t.rj = r.pc.extractLsb' 2 30 := by
  rw [Env.joinOk, top_eq_topOf, wordPc_of_no_ext hx]
  cases topOf r.h n with
  | none => exact ⟨nofun, nofun⟩
  | some t => simp only [Bool.and_eq_true, beq_iff_eq, Option.some.injEq, exists_eq_left']

/-! ### Masks -/

/-- EXEC set lane by lane over the group, where no lane has died in the word. -/
theorem execWith_eq {r : Env} {f : Nat → Bool} {x : Mask} (hr : r.felled = []) (h : execSet r f x) :
    r.execWith f = { r.h with regs := { r.h.regs with exec := x } } := by
  have hx : (r.execWith f).regs.exec = x := by
    refine BitVec.eq_of_getLsbD_eq fun l hl => ?_
    rw [Env.execWith, setExec_bit _ _ _ hl, maskOf_bit _ _ _ hl, h l hl, hr]
    simp only [List.contains_nil, Bool.not_false, Bool.and_true]
    cases decide (l < r.h.width) <;> simp only [Bool.false_and, Bool.true_and, Bool.and_comm]
  rw [← hx]
  rfl

theorem msetBit_eq (m : Nat) (top exec p : Bool) : msetBit m top exec p = maskBit m top exec p := by
  unfold msetBit maskBit
  split <;> simp_all

theorem msetNeedsTop_false {m : Nat} (h : m = 2 ∨ m = 3) : msetNeedsTop m = false := by
  rcases h with rfl | rfl <;> rfl

/-- The tops that a mode of MSET reads are there. -/
theorem mset_ready {r : Env} {m : Nat} (h : m = 2 ∨ m = 3 ∨ Stacked r) : (msetNeedsTop m && r.emptyStack) = false := by
  rcases h with h | h | h
  · rw [msetNeedsTop_false (.inl h), Bool.false_and]
  · rw [msetNeedsTop_false (.inr h), Bool.false_and]
  · rw [emptyStack_of_stacked h, Bool.and_false]

/-! ### Effects -/

/-- How a body ends with its state. -/
def ends (jump : Bool) (u : State) : Res := if jump then .jump u else .done u

/-- The body of a word of 05_control.md R95–R115 acts on its own hoist, which becomes what the manual gives it. -/
theorem control_body {r : Env} {i : Instr} {jump : Bool} {k : Hoist} (hs : Sound r) (h : ControlEffect r i jump k) :
    ∃ body u, (∀ s, exec i s = runWord i body s) ∧ body r = ends jump u ∧ ActsOn r.h.src r.s u k := by
  have hput {k : Hoist} (hk : k.src = r.h.src) := actsOn_putHoist hs hk
  cases h with
  | nop => exact ⟨_, _, fun _ => rfl, rfl, actsOn_self hs⟩
  | hintS => exact ⟨_, _, fun _ => rfl, rfl, hput rfl⟩
  | hintH => exact ⟨_, _, fun _ => rfl, rfl, hput rfl⟩
  | bra o => exact ⟨_, _, fun _ => rfl, by rw [goto_target24]; rfl, hput rfl⟩
  | brzTaken a o hv => exact ⟨_, _, fun _ => rfl, by rw [if_pos hv, goto_target16]; rfl, hput rfl⟩
  | brzNot a o hv => exact ⟨_, _, fun _ => rfl, if_neg hv, actsOn_self hs⟩
  | brnzTaken a o hv => exact ⟨_, _, fun _ => rfl, by rw [if_pos hv, goto_target16]; rfl, hput rfl⟩
  | brnzNot a o hv => exact ⟨_, _, fun _ => rfl, if_neg fun hne => hne hv, actsOn_self hs⟩
  | sliceAll _ p o all hi hne ht => exact ⟨_, _, sliceBranch_body hi, branchSlices_all hne ht, hput rfl⟩
  | sliceNone _ p o all hi ht => exact ⟨_, _, sliceBranch_body hi, branchSlices_none ht, actsOn_self hs⟩
  | call o => exact ⟨_, _, fun _ => rfl, by rw [goto_target24, link_eq_nextWord]; rfl, hput rfl⟩
  | codeJump _ a kind link hi hv =>
    refine ⟨_, _, codeJump_body hi, jumpVia_aligned kind link hv, hput ?_⟩
    cases link <;> rfl
  | pad => exact ⟨_, _, fun _ => rfl, rfl, hput rfl⟩
  | mark o hlen =>
    refine ⟨_, _, fun _ => rfl, ?_, hput rfl⟩
    have hroom : ¬ (r.slices.any fun n => decide (32 ≤ (r.h.slice n).stack.length)) = true := by
      rw [fullStack_iff]
      rintro ⟨n, hn, x, hx, hfull⟩
      exact absurd (hlen n hn x hx) (Nat.not_lt.2 hfull)
    have hrj : (r.target24 o).extractLsb' 2 30 = (target24 r o).extractLsb' 2 30 := by
      rw [← target24_low, BitVec.extractLsb'_extractLsb'_of_le (by omega)]
    dsimp only
    rw [if_neg hroom, hrj]
    rfl
  | mset m a x hm hx =>
    refine ⟨_, _, fun _ => rfl, ?_, hput rfl⟩
    have hexec := execWith_eq hs.felled hx
    simp only [← msetBit_eq, ← topBit_eq] at hexec
    rw [mset_ready hm, hexec]
    rfl
  | join x htop hext hx =>
    refine ⟨_, _, fun _ => rfl, ?_, hput rfl⟩
    have hst : Stacked r := fun n hn => by
      obtain ⟨t, ht, -⟩ := htop n hn
      rw [ht]
      rfl
    have hok : r.slices.all r.joinOk = true := List.all_eq_true.2 fun n hn => (joinOk_iff hext n).2 (htop n hn)
    rw [emptyStack_of_stacked hst, hok, funext (topBit_eq r.h), execWith_eq hs.felled hx]
    rfl
  | mpop hst => exact ⟨_, _, fun _ => rfl, by rw [emptyStack_of_stacked hst]; rfl, hput rfl⟩
  | msave => exact ⟨_, _, fun _ => rfl, rfl, hput rfl⟩
  | mrest a x hx => exact ⟨_, _, fun _ => rfl, by rw [execWith_eq hs.felled hx]; rfl, hput rfl⟩
  | regang hall hext =>
    refine ⟨_, _, fun _ => rfl, ?_, hput rfl⟩
    have hwhole : (List.range r.h.regs.slices.length).all (fun n => r.h.absent n || r.h.sliceIn r.g.id n) = true :=
      List.all_eq_true.2 fun n hn => by rw [Bool.or_eq_true]; exact hall n (List.mem_range.1 hn)
    have hnext : r.goto (addPc r.pc 4) r.h = movedTo r (nextWord r) r.h := by
      rw [Env.goto, addPc_low, nextWord, hext, movedTo]
      rfl
    rw [hwhole, hnext]
    rfl
  | yield => exact ⟨_, _, fun _ => rfl, rfl, hput rfl⟩
  | chk c hd hsig =>
    refine ⟨_, _, fun _ => rfl, ?_, hput rfl⟩
    have hall : r.slices.all (fun n => (r.h.slice n).cfs == r.imm16z c) = true := List.all_eq_true.2 fun n hn => by
      have hc := hsig n hn
      rw [getElem?_of_mem_groupSlices hn] at hc
      exact beq_iff_eq.2 (Option.some.inj hc)
    rw [if_neg (Classical.not_not.2 hd), hall]
    rfl
  | chkHandler c hd => exact ⟨_, _, fun _ => rfl, if_pos hd, actsOn_self hs⟩
  | isync hw =>
    refine ⟨_, _, fun _ => rfl, ?_, actsOn_updHoist (f := fun h => { h with lines := [] }) hs fun _ => rfl⟩
    rw [Env.waitCounters, hw]
    rfl
  | waitc g s w x hg hsr hw hx =>
    refine ⟨_, _, fun _ => rfl, ?_, actsOn_self hs⟩
    rw [Env.waitCounters, decide_eq_true hg, decide_eq_true hsr, decide_eq_true hw, decide_eq_true hx]
    rfl

/-! ### Traps -/

/-- An illegal control word traps. -/
theorem control_traps {r : Env} {i : Instr} {x : FloatResult} (h : controlResult r i = some (false, x)) :
    ∃ body : Env → Res, (∀ s, exec i s = runWord i body s) ∧ body r = .trap { cls := .illop } r.s := by
  cases i with
  | vpack d a b =>
    have hlegal : elemLegal true (r.sval b) = false := by
      rw [elemLegal_eq]
      exact (Prod.mk.inj (Option.some.inj h)).1
    exact ⟨_, fun _ => rfl, if_pos hlegal⟩
  | vqnt d a b =>
    have hlegal : r.controlsOk b (elemLegal false) = false := by
      simpa only [Env.controlsOk, elemLegal_eq, Bool.not_false, Bool.true_or, Bool.and_true] using
        (Prod.mk.inj (Option.some.inj h)).1
    exact ⟨_, fun _ => rfl, if_pos hlegal⟩
  | vdqnt d a b =>
    have hlegal : r.controlsOk b (elemLegal false) = false := by
      simpa only [Env.controlsOk, elemLegal_eq, Bool.not_false, Bool.true_or, Bool.and_true] using
        (Prod.mk.inj (Option.some.inj h)).1
    exact ⟨_, fun _ => rfl, if_pos hlegal⟩
  | _ => cases h

/-- The body of a word that a value of its operands makes trap. -/
theorem trap_body {r : Env} {i : Instr} {x : Trap} (h : ControlTrap r i x) :
    ∃ body : Env → Res, (∀ s, exec i s = runWord i body s) ∧ body r = .trap x r.s := by
  cases h with
  | codeJump _ a kind link hi hv => exact ⟨_, codeJump_body hi, jumpVia_misaligned kind link hv⟩
  | mark o n x hn hx hlen => exact ⟨_, fun _ => rfl, if_pos ((fullStack_iff r).2 ⟨n, hn, x, hx, hlen⟩)⟩
  | mset m a n h2 h3 hn hnone =>
    refine ⟨_, fun _ => rfl, if_pos ?_⟩
    rw [(emptyStack_iff r).2 ⟨n, hn, hnone⟩, Bool.and_true, msetNeedsTop, Bool.and_eq_true, bne_iff_ne, bne_iff_ne]
    exact ⟨h2, h3⟩
  | joinEmpty n hn hnone => exact ⟨_, fun _ => rfl, if_pos ((emptyStack_iff r).2 ⟨n, hn, hnone⟩)⟩
  | joinBad n t hst hn ht hbad hext =>
    refine ⟨_, fun _ => rfl, ?_⟩
    have hno : ¬ r.slices.all r.joinOk = true := fun hall => by
      obtain ⟨u, hu, hmask, hrj⟩ := (joinOk_iff hext n).1 (List.all_eq_true.1 hall n hn)
      obtain rfl := Option.some.inj (ht.symm.trans hu)
      exact hbad.elim (fun hne => hne hmask) fun hne => hne hrj
    rw [emptyStack_of_stacked hst, if_neg Bool.false_ne_true, if_neg hno]
    rfl
  | mpop n hn hnone => exact ⟨_, fun _ => rfl, if_pos ((emptyStack_iff r).2 ⟨n, hn, hnone⟩)⟩
  | trap => exact ⟨_, fun _ => rfl, rfl⟩
  | chk c n x hd hn hx hne =>
    refine ⟨_, fun _ => rfl, ?_⟩
    have hno : ¬ r.slices.all (fun n => (r.h.slice n).cfs == r.imm16z c) = true := fun hall => by
      have hc := List.all_eq_true.1 hall n hn
      rw [slice_of_getElem? hx] at hc
      exact hne (beq_iff_eq.1 hc)
    rw [if_neg (Classical.not_not.2 hd), if_neg hno]
    rfl
  | aset d a sel hsel hsys hpriv => exact ⟨_, fun _ => rfl, if_pos ⟨hsel, hsys, hpriv⟩⟩
  | aadv d a m hout => exact ⟨_, fun _ => rfl, if_pos hout⟩
  | arestr d a b hout => exact ⟨_, fun _ => rfl, if_pos hout⟩
  | control _ y hi => exact control_traps hi

/-- Settles O7: each of these words tests its operands before it does anything. -/
theorem operandTraps : Obligations.OperandTraps := by
  intro i s e r old x hx h
  obtain ⟨body, hexec, hb⟩ := trap_body hx
  exact raises_of_body h (hexec s) hb

/-! ### Address registers -/

/-- The fields of an A register are places of its bits. -/
theorem fields_of_bitsOfA (x : AReg) :
    x.base = (bitsOfA x).extractLsb' 0 72 ∧ x.extent = (bitsOfA x).extractLsb' 72 48 ∧
    x.cursor = (bitsOfA x).extractLsb' 120 48 ∧ x.perm = (bitsOfA x).extractLsb' 168 8 ∧
    x.step = (bitsOfA x).extractLsb' 176 24 := by
  refine ⟨?_, ?_, ?_, ?_, ?_⟩ <;> refine BitVec.eq_of_getLsbD_eq fun k hk => ?_ <;>
    rw [BitVec.getLsbD_extractLsb', bitsOfA_bit] <;> grind

theorem bitsOfA_inj {x y : AReg} (h : bitsOfA x = bitsOfA y) : x = y := by
  obtain ⟨hb, he, hc, hp, hs⟩ := fields_of_bitsOfA x
  obtain ⟨kb, ke, kc, kp, ks⟩ := fields_of_bitsOfA y
  rw [← h] at kb ke kc kp ks
  obtain ⟨xb, xe, xc, xp, xs⟩ := x
  obtain ⟨yb, ye, yc, yp, ys⟩ := y
  congr 1
  · exact hb.trans kb.symm
  · exact he.trans ke.symm
  · exact hc.trans kc.symm
  · exact hp.trans kp.symm
  · exact hs.trans ks.symm

/-- A write of one part of an A register, bit by bit (R125). -/
theorem setPart_bit (x : AReg) {sel : Nat} (v : Word) {k : Nat} (hk : k < 200) :
    (bitsOfA (x.setPart sel v)).getLsbD k =
      if (partOfA sel).1 ≤ k ∧ k < (partOfA sel).1 + (partOfA sel).2 then v.getLsbD (k - (partOfA sel).1)
      else (bitsOfA x).getLsbD k := by
  unfold AReg.setPart partOfA
  split <;> simp only [bitsOfA_bit, BitVec.getLsbD_append, BitVec.getLsbD_extractLsb'] <;> grind

theorem setPart_eq {x y : AReg} {sel : Nat} {v : Word} (h : withPart x y sel v) : x.setPart sel v = y :=
  bitsOfA_inj (BitVec.eq_of_getLsbD_eq fun k hk => (setPart_bit x v hk).trans (h k hk).symm)

/-- The body of a word that writes an A register. -/
theorem address_body {r : Env} {i : Instr} {d : BitVec 8} {y : AReg} (h : AddressEffect r i d y) :
    ∃ body : Env → Res, (∀ s, exec i s = runWord i body s) ∧ body r = .done (r.s.putHoist (r.h.setA d.toNat y)) := by
  cases h with
  | aset _ a sel _ hsel hsys hy =>
    refine ⟨_, fun _ => rfl, ?_⟩
    have hok : ¬ (sel = 7 ∧ (r.sval a).getLsbD 7 = true ∧ r.h.privileged = false) := fun ⟨h7, hbit, hpriv⟩ =>
      Bool.false_ne_true (hpriv.symm.trans (hsys h7 hbit))
    rw [if_neg hok, setPart_eq hy]
    rfl
  | aadv _ a m c hc hlo hhi =>
    refine ⟨_, fun _ => rfl, ?_⟩
    dsimp only
    rw [← hc, if_neg (by omega)]
    rfl
  | arestr _ a b hle => exact ⟨_, fun _ => rfl, if_neg (Nat.not_lt.2 hle)⟩
  | amov => exact ⟨_, fun _ => rfl, rfl⟩

/-- Settles O9: each word writes its A register whole, ASET with one part changed. -/
theorem addressResults : Obligations.AddressResults := by
  intro i s e r old d y hy h
  obtain ⟨body, hexec, hb⟩ := address_body hy
  exact completes_of_body h (hexec s) hb

/-! ### Frames -/

theorem setA_sameRegs {h : Hoist} {x : Touched} {n : Nat} (y : AReg) (hx : x.a n) : SameRegs h (h.setA n y) x where
  v _ _ := rfl
  s _ _ := rfl
  p _ _ := rfl
  a m hm := by
    rw [areg_setA, if_neg]
    rintro ⟨rfl, -⟩
    exact hm hx
  exec _ := rfl
  fpx _ := rfl
  xprog _ := rfl
  slices _ := rfl
  counters _ := rfl
  dead := rfl
  ssig := rfl
  batch := rfl
  depth := rfl
  region := rfl
  hregion := rfl

theorem setS_sameRegs {h : Hoist} {x : Touched} {n : Nat} (v : Word) (hx : x.s n) : SameRegs h (h.setS n v) x where
  v _ _ := rfl
  s m hm := by
    rw [sreg_setS, if_neg]
    rintro ⟨rfl, -⟩
    exact hm hx
  p _ _ := rfl
  a _ _ := rfl
  exec _ := rfl
  fpx _ := rfl
  xprog _ := rfl
  slices _ := rfl
  counters _ := rfl
  dead := rfl
  ssig := rfl
  batch := rfl
  depth := rfl
  region := rfl
  hregion := rfl

theorem putP_sameRegs {h : Hoist} {x : Touched} {d : Nat} (sel f : Nat → Bool) (hx : x.p d) :
    SameRegs h (h.putP d sel f) x where
  v _ _ := rfl
  s _ _ := rfl
  p m hm := by
    rw [Hoist.putP, preg_setP, if_neg]
    rintro ⟨rfl, -⟩
    exact hm hx
  a _ _ := rfl
  exec _ := rfl
  fpx _ := rfl
  xprog _ := rfl
  slices _ := rfl
  counters _ := rfl
  dead := rfl
  ssig := rfl
  batch := rfl
  depth := rfl
  region := rfl
  hregion := rfl

/-- Changes of a hoist's groups, program counters and signatures are no change of its registers. -/
theorem slices_sameRegs {h k : Hoist} {gs : List Group} {ss : List Slice} (hc : k.counters = h.counters)
    (hk : k.regs = { h.regs with groups := gs, slices := ss }) (hs : ss.map shapeOf = h.regs.slices.map shapeOf) :
    SameRegs h k {} where
  v _ _ := by rw [Hoist.vreg, hk]; rfl
  s _ _ := by rw [Hoist.sreg, hk]; rfl
  p _ _ := by rw [Hoist.preg, hk]; rfl
  a _ _ := by rw [Hoist.areg, hk]; rfl
  exec _ := by rw [hk]
  fpx _ := by rw [hk]
  xprog _ := by rw [hk]
  slices _ := by rw [hk, hs]
  counters _ := hc
  dead := by rw [hk]
  ssig := by rw [hk]
  batch := by rw [hk]
  depth := by rw [hk]
  region := by rw [hk]
  hregion := by rw [hk]

theorem movedTo_sameRegs (r : Env) (t : Word) (h : Hoist) : SameRegs h (movedTo r t h) {} :=
  slices_sameRegs rfl rfl (shapes_updSliceList h _ _ fun _ _ => rfl)

theorem updGroup_sameRegs (h : Hoist) (g : Nat) (f : Group → Group) : SameRegs h (h.updGroup g f) {} :=
  slices_sameRegs rfl rfl rfl

/-- A word that names EXEC or the rejoin stacks alone. -/
theorem masks_sameRegs (h : Hoist) (m : Mask) (ss : List Slice) {x : Touched} (hm : m = h.regs.exec ∨ x.exec)
    (hs : ss = h.regs.slices ∨ x.slices) : SameRegs h { h with regs := { h.regs with exec := m, slices := ss } } x where
  v _ _ := rfl
  s _ _ := rfl
  p _ _ := rfl
  a _ _ := rfl
  exec hn := hm.resolve_right hn
  fpx _ := rfl
  xprog _ := rfl
  slices hn := congrArg _ (hs.resolve_right hn)
  counters _ := rfl
  dead := rfl
  ssig := rfl
  batch := rfl
  depth := rfl
  region := rfl
  hregion := rfl

theorem codeJump_sameRegs {r : Env} {i : Instr} {a : BitVec 8} {kind : BitVec 2} {link : Bool}
    (h : codeJump i = some (a, kind, link)) : SameRegs r.h
      ((if link then (movedTo r (r.sval a) r.h).setS 95 (nextWord r) else movedTo r (r.sval a) r.h).updGroup r.g.id
        fun x => { x with landing := some (kind, r.pc) }) (controlTouch i) := by
  have hmoved := movedTo_sameRegs r (r.sval a) r.h
  cases i <;> cases h
  case calli =>
    exact sameRegs_trans (sameRegs_trans (sameRegs_widen hmoved _) (setS_sameRegs _ rfl))
      (sameRegs_widen (updGroup_sameRegs _ _ _) _)
  case jmpi => exact sameRegs_trans hmoved (updGroup_sameRegs _ _ _)
  case ret => exact sameRegs_trans hmoved (updGroup_sameRegs _ _ _)

/-- What each word touches of its hoist besides program counters. -/
theorem control_sameRegs {r : Env} {i : Instr} {jump : Bool} {k : Hoist} (h : ControlEffect r i jump k) :
    SameRegs r.h k (controlTouch i) := by
  cases h with
  | nop => exact sameRegs_refl _ _
  | hintS => exact updGroup_sameRegs _ _ _
  | hintH => exact updGroup_sameRegs _ _ _
  | bra o => exact movedTo_sameRegs r _ _
  | brzTaken a o hv => exact movedTo_sameRegs r _ _
  | brzNot a o hv => exact sameRegs_refl _ _
  | brnzTaken a o hv => exact movedTo_sameRegs r _ _
  | brnzNot a o hv => exact sameRegs_refl _ _
  | sliceAll _ p o all hi hne ht => exact sameRegs_widen (movedTo_sameRegs r _ _) _
  | sliceNone _ p o all hi ht => exact sameRegs_refl _ _
  | call o => exact sameRegs_trans (sameRegs_widen (movedTo_sameRegs r _ _) _) (setS_sameRegs _ rfl)
  | codeJump _ a kind link hi hv => exact codeJump_sameRegs hi
  | pad => exact updGroup_sameRegs _ _ _
  | mark o hlen => exact masks_sameRegs _ _ _ (.inl rfl) (.inr trivial)
  | mset m a x hm hx => exact masks_sameRegs _ _ _ (.inr trivial) (.inl rfl)
  | join x htop hext hx => exact masks_sameRegs _ _ _ (.inr trivial) (.inr trivial)
  | mpop hst => exact masks_sameRegs _ _ _ (.inl rfl) (.inr trivial)
  | msave => exact putP_sameRegs _ _ rfl
  | mrest a x hx => exact masks_sameRegs _ _ _ (.inr trivial) (.inl rfl)
  | regang hall hext => exact sameRegs_trans (movedTo_sameRegs r _ _) (sameRegs_of_regs rfl rfl)
  | yield => exact updGroup_sameRegs _ _ _
  | chk c hd hsig => exact slices_sameRegs rfl rfl (shapes_updSliceList r.h _ _ fun _ _ => rfl)
  | chkHandler c hd => exact sameRegs_refl _ _
  | isync hw => exact sameRegs_of_regs rfl rfl
  | waitc g s w x hg hsr hw hx => exact sameRegs_refl _ _

theorem ends_answers {i : Instr} {s u : State} {e : Env} {jump : Bool} {body : Env → Res} (h : Begins i s e e [])
    (hx : exec i s = runWord i body s) (hb : body e = ends jump u) : Answers i s (e.complete i jump u) := by
  cases jump
  · exact answers_of_completes (completes_of_body h hx hb)
  · exact answers_of_jumps (jumps_of_body h hx hb)

/-- Settles O43: each word acts on its own hoist, and its end moves program counters and signatures alone. -/
theorem controlFrames : Obligations.ControlFrames := by
  refine ⟨fun i s e jump k t hk h hr ht => ?_, fun i s e d y t hy h hr ht => ?_⟩
  · obtain ⟨body, u, hx, hb, hu⟩ := control_body (begins_sound h) hk
    exact frame_of_actsOn hr (ends_answers h (hx s) hb) ht hu (control_sameRegs hk)
  · obtain ⟨body, hx, hb⟩ := address_body hy
    exact frame_of_actsOn hr (answers_of_completes (completes_of_body h (hx s) hb)) ht (actsOn_putHoist (begins_sound h) rfl)
      (setA_sameRegs y rfl)

end Sys2Proof.Proofs.ControlWords

/-!
PROOFS. A state whose list names two hoists in one slot: replacing the slot's hoist by itself overwrites the second, where a
word without an effect leaves it.
-/

namespace Sys2Proof.Proofs.Twins

open Sys2Proof Sys2Proof.Machine Sys2Proof.Claims Sys2Proof.Laws Sys2Proof.Proofs.ControlFlow Sys2Proof.Proofs.Endings

/-- A hoist of sixteen lanes in slot 0, with its index in the block. -/
def twin (index : Nat) : Hoist := Hoist.start 0 0 index 16 0 0

/-- Two hoists in slot 0; the first is the one that issues. -/
def twins : State := { State.reset with cur := (0, 0), hoists := [twin 0, twin 1] }

/-- The first twin's group at a NOP. -/
def nopEnv : Env :=
  ⟨twins, twin 0, Group.start 0 0 false, twins.blockOf (twin 0), twins.ctxOf (twin 0), (encode .nop).getD 0, none, 0, []⟩

theorem nop_begins : Begins .nop twins nopEnv nopEnv [] := ⟨⟨nopEnv, rfl, rfl⟩, rfl, rfl, rfl, rfl, rfl⟩

/-- The hoists' indices in their block. -/
def indices (s : State) : List Nat := s.hoists.map (·.index)

/-- Refutes O6: the statement gives NOP the effect of putting its own hoist into its slot, so with two hoists in the slot it
would make the second a copy of the first; NOP leaves it. -/
theorem not_controlResults : ¬ Obligations.ControlResults := by
  intro h
  have hput : Completes .nop twins nopEnv [] (twins.putHoist (twin 0)) :=
    h .nop twins nopEnv nopEnv [] false (twin 0) .nop nop_begins
  have hkept : Completes .nop twins nopEnv [] twins := completes_of_body nop_begins rfl rfl
  have hindices := congrArg indices (next_inj hkept hput)
  exact absurd hindices (by decide)

end Sys2Proof.Proofs.Twins

/-!
PROOFS. The frames of words with one S, P or V destination (05_control.md R117–R122, 07_lanes.md R135–R152, 13_numbers.md
R255–R273): a write of a register and a raise of flags change nothing else of their hoist.
-/

namespace Sys2Proof.Proofs.Frames

open Sys2Proof Sys2Proof.Machine Sys2Proof.Claims Sys2Proof.Laws Sys2Proof.Proofs.ControlFlow Sys2Proof.Proofs.Results
  Sys2Proof.Proofs.FloatWords Sys2Proof.Proofs.CrossLanes Sys2Proof.Proofs.Endings Sys2Proof.Proofs.ControlWords

/-! ### Writes of registers -/

section

variable {h : Hoist} {x : Touched}

theorem setV_sameRegs {d : Nat} (y : VReg) (hx : x.v d) : SameRegs h (h.setV d y) x where
  v n hn := by
    rw [vreg_setV, if_neg]
    rintro ⟨rfl, -⟩
    exact hn hx
  s _ _ := rfl
  p _ _ := rfl
  a _ _ := rfl
  exec _ := rfl
  fpx _ := rfl
  xprog _ := rfl
  slices _ := rfl
  counters _ := rfl
  dead := rfl
  ssig := rfl
  batch := rfl
  depth := rfl
  region := rfl
  hregion := rfl

theorem putV_sameRegs (g : Nat) {d : Nat} (t : Tag) (f : Nat → Word) (hx : x.v d) : SameRegs h (h.putV g d t f) x := by
  rw [Hoist.putV]
  split
  · exact sameRegs_refl h x
  · exact setV_sameRegs _ hx

theorem putVPair_sameRegs (g : Nat) {d : Nat} (t : Tag) (f : Nat → BitVec 64) (hx : x.v d) (hx' : x.v (d + 1)) :
    SameRegs h (h.putVPair g d t f) x :=
  sameRegs_trans (putV_sameRegs g t _ hx) (putV_sameRegs g t _ hx')

theorem raise_sameRegs (f : Flags) (hx : x.fpx) : SameRegs h (h.raise f) x where
  v _ _ := rfl
  s _ _ := rfl
  p _ _ := rfl
  a _ _ := rfl
  exec _ := rfl
  fpx hn := absurd hx hn
  xprog _ := rfl
  slices _ := rfl
  counters _ := rfl
  dead := rfl
  ssig := rfl
  batch := rfl
  depth := rfl
  region := rfl
  hregion := rfl

/-- A write of %fpx or %xprog. -/
theorem special_sameRegs (v w : Word) (hf : v = h.regs.fpx ∨ x.fpx) (hp : w = h.regs.xprog ∨ x.xprog) :
    SameRegs h { h with regs := { h.regs with fpx := v, xprog := w } } x where
  v _ _ := rfl
  s _ _ := rfl
  p _ _ := rfl
  a _ _ := rfl
  exec _ := rfl
  fpx hn := hf.resolve_right hn
  xprog hn := hp.resolve_right hn
  slices _ := rfl
  counters _ := rfl
  dead := rfl
  ssig := rfl
  batch := rfl
  depth := rfl
  region := rfl
  hregion := rfl

/-- A write of an S destination changes the register, %fpx, %xprog or nothing (R53). -/
theorem writeS_sameRegs (d : BitVec 8) (v : Word) (hs : x.s d.toNat) (hf : d = 151 → x.fpx) (hp : d = 152 → x.xprog) :
    SameRegs h (h.writeS d v) x := by
  rw [Hoist.writeS]
  split
  · exact setS_sameRegs v hs
  split
  next hd => exact special_sameRegs _ _ (.inr (hf hd)) (.inl rfl)
  split
  next hd => exact special_sameRegs _ _ (.inl rfl) (.inr (hp hd))
  · exact sameRegs_refl h x

end

/-! ### A write leaves the hoist in its slot -/

theorem writeS_src (h : Hoist) (d : BitVec 8) (v : Word) : (h.writeS d v).src = h.src := by
  rw [Hoist.writeS]
  split
  · rfl
  split
  · rfl
  split <;> rfl

theorem putV_src (h : Hoist) (g d : Nat) (t : Tag) (f : Nat → Word) : (h.putV g d t f).src = h.src := by
  rw [Hoist.putV]
  split <;> rfl

theorem putVPair_src (h : Hoist) (g d : Nat) (t : Tag) (f : Nat → BitVec 64) : (h.putVPair g d t f).src = h.src := by
  rw [Hoist.putVPair, putV_src, putV_src]

theorem floatHoist_src (r : Env) (y : FloatResult) : (y.hoist r).src = r.h.src := by
  rw [FloatResult.hoist, raise_src]
  split
  · exact putVPair_src _ _ _ _ _
  · exact putV_src _ _ _ _ _

theorem floatHoist_sameRegs (r : Env) (y : FloatResult) {x : Touched} (hf : x.fpx) (hv : x.v y.d.toNat)
    (hpair : y.pair = true → x.v (y.d.toNat + 1)) : SameRegs r.h (y.hoist r) x := by
  rw [FloatResult.hoist]
  split
  next hp => exact sameRegs_trans (putVPair_sameRegs _ _ _ hv (hpair hp)) (raise_sameRegs _ hf)
  next hp => exact sameRegs_trans (putV_sameRegs _ _ _ hv) (raise_sameRegs _ hf)

/-! ### The frames -/

/-- The frame of a word that completes with its own hoist written. -/
theorem frame_of_put {e : Env} {i : Instr} {s t : State} {k : Hoist} {x : Touched} (h : Begins i s e e [])
    (hr : e.b.replicated = false) (ht : Answers i s t) (hc : Completes i s e [] (e.s.putHoist k)) (hsrc : k.src = e.h.src)
    (hk : SameRegs e.h k x) : Frame e t x :=
  frame_of_actsOn hr (answers_of_completes hc) ht (actsOn_putHoist (begins_sound h) hsrc) hk

theorem writeS_frame {e : Env} {i : Instr} {s t : State} {d : BitVec 8} {v : Word} (h : Begins i s e e [])
    (hr : e.b.replicated = false) (ht : Answers i s t) (hc : Completes i s e [] (e.s.putHoist (e.h.writeS d v))) :
    Frame e t (touchS d) :=
  frame_of_put h hr ht hc (writeS_src _ _ _) (writeS_sameRegs d v rfl id id)

/-- Settles O41: each of these words completes with one register of its hoist written. -/
theorem scalarFrames : Obligations.ScalarFrames := by
  obtain ⟨hscalar, haget, hptos, hballot, hred⟩ := scalarResults
  obtain ⟨hpred, hvote⟩ := predicateResults
  refine ⟨fun i s e d v t hi h hr ht => writeS_frame h hr ht (hscalar i s e e [] d v hi h), fun i s e d t hi h hr ht => ?_,
    fun d a o s e t h hr ht => ?_, fun i s e d sel f t hi h hr ht => ?_, fun i s e d a b cc t hi h hr ht => ?_,
    fun d a m s e t h hr ht => ?_⟩
  · rcases hi with ⟨a, sel, rfl⟩ | ⟨a, q, rfl⟩ | ⟨a, q, rfl⟩
    · exact writeS_frame h hr ht (haget d a sel s e e [] _ h fun k hk => part_bit _ _ hk)
    · exact writeS_frame h hr ht (hptos d a q s e e [] _ h fun j hj => quarter_bit q.toNat
        (fun l => e.h.laneIn e.g.id l && (e.h.preg a.toNat).getLsbD l) hj)
    · exact writeS_frame h hr ht (hballot d a q s e e [] _ h fun j hj => quarter_bit q.toNat
        (fun l => e.h.active e.g.id l && (e.h.preg a.toNat).getLsbD l) hj)
  · exact frame_of_put h hr ht (hred d a o s e e [] h) (writeS_src _ _ _)
      (sameRegs_trans (raise_sameRegs _ trivial) (writeS_sameRegs d _ rfl (fun _ => trivial) id))
  · exact frame_of_put h hr ht (hpred i s e e [] d sel f hi h) rfl (putP_sameRegs _ _ rfl)
  · exact frame_of_put h hr ht (floatResults.2.1 i s e e [] d a b cc hi h) rfl
      (sameRegs_trans (putP_sameRegs _ _ rfl) (raise_sameRegs _ trivial))
  · exact frame_of_put h hr ht (hvote d a m s e e [] _ h (voteIs_iff.2 rfl)) rfl (putP_sameRegs _ _ rfl)

/-- Settles O42: each of these words completes with its V destination written and its flags raised. -/
theorem vectorFrames : Obligations.VectorFrames := by
  obtain ⟨hvector, hcarry, hmatch⟩ := vectorResults
  obtain ⟨hcross, -, hscan, -⟩ := crossLaneResults
  obtain ⟨hfloat, -⟩ := floatResults
  refine ⟨fun i s e d tag f t hi h hr ht => ?_, fun d a b s e t h hr ht => ?_, fun d a q s e t h hr ht => ?_,
    fun i s e x t hi h hr ht => ?_, fun i s e d f t hi h hr ht => ?_, fun d a o incl rev s e t h hr ht => ?_⟩
  · exact frame_of_put h hr ht (hvector i s e e [] d tag f hi h) (putV_src _ _ _ _ _) (putV_sameRegs _ _ _ rfl)
  · exact frame_of_put h hr ht (hcarry d a b s e e [] h) (putVPair_src _ _ _ _ _)
      (putVPair_sameRegs _ _ _ (.inl rfl) (.inr rfl))
  · exact frame_of_put h hr ht (hmatch d a q s e e [] _ h fun l j hj => quarter_bit q.toNat
      (fun m => e.h.active e.g.id m && e.h.vword a.toNat m == e.h.vword a.toNat l) hj) (putV_src _ _ _ _ _)
      (putV_sameRegs _ _ _ rfl)
  · exact frame_of_put h hr ht (hfloat i s e e [] x hi h) (floatHoist_src e x)
      (floatHoist_sameRegs e x trivial (.inl rfl) fun hp => .inr ⟨hp, rfl⟩)
  · exact frame_of_put h hr ht (hcross i s e e [] d f hi h) (putV_src _ _ _ _ _)
      (sameRegs_trans (putV_sameRegs _ _ _ rfl) (raise_sameRegs _ trivial))
  · exact frame_of_put h hr ht (hscan d a o incl rev s e e [] h) (putV_src _ _ _ _ _)
      (sameRegs_trans (putV_sameRegs _ _ _ rfl) (raise_sameRegs _ trivial))

end Sys2Proof.Proofs.Frames

/-!
PROOFS. What a write of a register leaves, what a special register reads, and the new value of an atomic (03_encoding.md R52, R53,
R57, 11_ordering.md R229, R232, 13_numbers.md R253).
-/

namespace Sys2Proof.Proofs.Values

open Sys2Proof Sys2Proof.Machine Sys2Proof.Claims Sys2Proof.Laws Sys2Proof.Proofs.Arithmetic Sys2Proof.Proofs.Results

/-! ### S destinations -/

theorem writeS_low {h : Hoist} {d : BitVec 8} {v : Word} (hd : d.toNat ≤ 95) : h.writeS d v = h.setS d.toNat v :=
  if_pos hd

/-- No scalar word has another selector as its destination (R53). -/
theorem formOk_of_scalarResult {r : Env} {i : Instr} {d : BitVec 8} {v : Word} (h : scalarResult r i = some (d, v))
    (hd : sDest d = false) : i.formOk = false := by
  cases i <;> cases h <;> simp only [Instr.formOk, hd, Bool.false_and]

theorem sDest_false {d : BitVec 8} (hlow : 95 < d.toNat) (hf : d ≠ 151) (hp : d ≠ 152) (hz : d ≠ 155) : sDest d = false := by
  simp only [sDest, Bool.or_eq_false_iff, beq_eq_false_iff_ne, decide_eq_false_iff_not, Nat.not_le]
  exact ⟨⟨⟨hlow, hf⟩, hp⟩, hz⟩

/-! ### V registers -/

theorem active_lt {h : Hoist} {g l : Nat} (ha : h.active g l = true) : l < h.width := by
  simp only [Hoist.active, Hoist.laneIn, Bool.and_eq_true, decide_eq_true_eq] at ha
  exact ha.1.1.1

theorem activeLanes_eq_nil {h : Hoist} {g : Nat} : h.activeLanes g = [] ↔ ∀ l < h.width, ¬ h.active g l = true := by
  rw [List.eq_nil_iff_forall_not_mem]
  simp only [mem_activeLanes]
  exact ⟨fun hn l _ => hn l, fun hn l ha => hn l (active_lt ha) ha⟩

theorem fullWrite_iff {h : Hoist} {g : Nat} :
    h.fullWrite g = true ↔ ∀ m < h.width, h.regs.dead.getLsbD m = true ∨ h.active g m = true := by
  simp only [Hoist.fullWrite, List.all_eq_true, List.mem_range, Bool.or_eq_true]

theorem tagAfter_ne_g {h : Hoist} {g : Nat} {t : Tag} :
    (h.tagAfter g t != .g) = true ↔ t ≠ .g ∧ ∀ m < h.width, h.regs.dead.getLsbD m = true ∨ h.active g m = true := by
  rw [Hoist.tagAfter, ← fullWrite_iff, bne_iff_ne]
  split
  next hf => simp only [ne_eq, hf, and_true]
  next hf => simp only [ne_eq, not_true_eq_false, hf, Bool.false_eq_true, and_false]

/-- A V register after a write, when some lane is live and active. -/
theorem vreg_putV {h : Hoist} {g d : Nat} (t : Tag) (f : Nat → Word) (hd : d < h.regs.v.length) (ha : h.activeLanes g ≠ []) :
    (h.putV g d t f).vreg d =
      { tag := h.tagAfter g t
        lanes := writeLanes (fun l => if h.active g l || h.tagAfter g t != .g then some (f l) else none) (h.vreg d).lanes } := by
  rw [Hoist.putV, if_neg ha, vreg_setV, if_pos ⟨rfl, hd⟩]

theorem writeLanes_getElem? (f : Nat → Option Word) (old : List Word) (l : Nat) :
    (writeLanes f old)[l]? = old[l]?.map fun w => (f l).getD w := by
  rw [writeLanes, List.getElem?_mapIdx]

/-- The lanes that a write changes (R56, R57). -/
theorem vword_putV {h : Hoist} {g d : Nat} (t : Tag) (f : Nat → Word) (hd : d < h.regs.v.length) {l : Nat}
    (hl : l < (h.vreg d).lanes.length) : (h.putV g d t f).vword d l =
      if h.active g l = true ∨ (t ≠ .g ∧ (∃ m, m < h.width ∧ h.active g m = true) ∧
        ∀ m, m < h.width → h.regs.dead.getLsbD m = true ∨ h.active g m = true) then f l else h.vword d l := by
  by_cases ha : h.activeLanes g = []
  · have hno := activeLanes_eq_nil.1 ha
    rw [Hoist.putV, if_pos ha, if_neg]
    rintro (hl | ⟨-, ⟨m, hm, hact⟩, -⟩)
    · exact hno l (active_lt hl) hl
    · exact hno m hm hact
  · have hsome : ∃ m, m < h.width ∧ h.active g m = true := by
      obtain ⟨m, hm⟩ := List.exists_mem_of_ne_nil _ ha
      exact ⟨m, active_lt (mem_activeLanes.1 hm), mem_activeLanes.1 hm⟩
    have hsel : (h.active g l || h.tagAfter g t != .g) = true ↔ h.active g l = true ∨ (t ≠ .g ∧
        (∃ m, m < h.width ∧ h.active g m = true) ∧ ∀ m, m < h.width → h.regs.dead.getLsbD m = true ∨ h.active g m = true) := by
      simp only [Bool.or_eq_true, tagAfter_ne_g, hsome, true_and]
    rw [Hoist.vword, vreg_putV t f hd ha, writeLanes_getElem?, List.getElem?_eq_getElem hl]
    by_cases hw : (h.active g l || h.tagAfter g t != .g) = true
    · rw [if_pos (hsel.1 hw), if_pos hw]
      rfl
    · rw [if_neg (mt hsel.2 hw), if_neg hw, Hoist.vword, List.getElem?_eq_getElem hl]
      rfl

/-- The tag that a write leaves (R57). -/
theorem tag_putV {h : Hoist} {g d : Nat} (t : Tag) (f : Nat → Word) (hd : d < h.regs.v.length) :
    ((h.putV g d t f).vreg d).tag =
      (if ∀ l < h.width, ¬ h.active g l then (h.vreg d).tag
        else if ∀ l < h.width, h.regs.dead.getLsbD l ∨ h.active g l then t else .g) := by
  by_cases ha : h.activeLanes g = []
  · rw [if_pos (activeLanes_eq_nil.1 ha), Hoist.putV, if_pos ha]
  · rw [if_neg (mt activeLanes_eq_nil.2 ha), vreg_putV t f hd ha]
    simp only [Hoist.tagAfter, fullWrite_iff]

theorem vreg_putV_other {h : Hoist} {g d n : Nat} (t : Tag) (f : Nat → Word) (hn : n ≠ d) :
    (h.putV g d t f).vreg n = h.vreg n := by
  rw [Hoist.putV]
  split
  · rfl
  · rw [vreg_setV, if_neg fun h => hn h.1]

/-! ### Flags -/

theorem raise_bit (h : Hoist) (f : Flags) {k : Nat} (hk : k < 32) :
    (h.raise f).regs.fpx.getLsbD k = (h.regs.fpx.getLsbD k || (decide (k < 6) && f.getLsbD k)) := by
  have hf : k ≥ 6 → f.getLsbD k = false := fun h6 => BitVec.getLsbD_of_ge f k h6
  simp only [Hoist.raise, fpxOr, BitVec.getLsbD_or, BitVec.getLsbD_setWidth, hk, decide_true, Bool.true_and]
  by_cases h6 : k < 6
  · rw [decide_eq_true h6, Bool.true_and]
  · rw [hf (Nat.not_lt.1 h6), Bool.and_false]

theorem foldl_or_bit (ls : List Nat) (f : Nat → Flags) (a : Flags) (k : Nat) :
    (ls.foldl (fun a l => a ||| f l) a).getLsbD k = (a.getLsbD k || ls.any fun l => (f l).getLsbD k) := by
  induction ls generalizing a with
  | nil => rw [List.foldl_nil, List.any_nil, Bool.or_false]
  | cons l ls ih => rw [List.foldl_cons, ih, BitVec.getLsbD_or, List.any_cons, Bool.or_assoc]

theorem flagsOver_bit (ls : List Nat) (f : Nat → Flags) (k : Nat) :
    (flagsOver ls f).getLsbD k = ls.any fun l => (f l).getLsbD k := by
  rw [flagsOver, foldl_or_bit]
  simp only [BitVec.ofNat_eq_ofNat, BitVec.getLsbD_zero, Bool.false_or]

/-- Settles O31: a V write covers the live active lanes, and under a shape tag every lane; the other writes are one field. -/
theorem registerWrites : Obligations.RegisterWrites :=
  ⟨fun _ _ _ => ⟨writeS_low, rfl, rfl, rfl⟩,
    fun _ _ _ _ h hlow hf hp hz => formOk_of_scalarResult h (sDest_false hlow hf hp hz),
    fun _ _ _ t f hd => ⟨fun _ hl => vword_putV t f hd hl, tag_putV t f hd, fun _ hn => vreg_putV_other t f hn⟩,
    fun h f _ hk => raise_bit h f hk, flagsOver_bit⟩

/-! ### Special registers -/

/-- In a hoist that is not replicated a special register is read on the spot. -/
theorem sval_special {r : Env} (hr : r.b.replicated = false) {sel : BitVec 8} (hs : 95 < sel.toNat) :
    r.sval sel = r.special r.h.regs.latch sel.toNat := by
  have htakes : r.takes = false := by rw [Env.takes, Env.follows, hr]; rfl
  rw [Env.sval, Env.svalAfter, if_neg (Nat.not_le.2 hs), htakes]
  rfl

theorem groupBits_bit (r : Env) (m : Mask) {q k : Nat} (hk : k < 32) (hw : 32 * q + k < r.h.width) (h128 : 32 * q + k < 128) :
    (r.groupBits m q).getLsbD k = (r.h.laneIn r.g.id (32 * q + k) && m.getLsbD (32 * q + k)) := by
  rw [Env.groupBits, BitVec.getLsbD_extractLsb', maskOf_bit _ _ _ h128, decide_eq_true hk, decide_eq_true hw,
    Bool.true_and, Bool.true_and, Bool.and_comm]

theorem special_exec (r : Env) (latch : Option Word) {q : Nat} (hq : q < 4) :
    r.special latch (BitVec.ofNat 8 (140 + q)).toNat = r.groupBits r.h.regs.exec q ∧
    r.special latch (BitVec.ofNat 8 (144 + q)).toNat = r.groupBits r.h.regs.dead q := by
  match q, hq with
  | 0, _ => exact ⟨rfl, rfl⟩
  | 1, _ => exact ⟨rfl, rfl⟩
  | 2, _ => exact ⟨rfl, rfl⟩
  | 3, _ => exact ⟨rfl, rfl⟩

theorem selector_gt {n : Nat} (h : 95 < n) (h' : n < 256) : 95 < (BitVec.ofNat 8 n).toNat := by
  rw [BitVec.toNat_ofNat, Nat.mod_eq_of_lt h']
  exact h

/-- Settles O32: each selector reads the field that the manual names. -/
theorem specialReads : Obligations.SpecialReads := by
  intro r hr
  have hread {sel : BitVec 8} (hs : 95 < sel.toNat) := sval_special hr hs
  refine ⟨hread (by decide), hread (by decide), hread (by decide), hread (by decide), hread (by decide), hread (by decide),
    hread (by decide), hread (by decide), fun hlatch => ?_, hread (by decide), fun q k hq hk hw h128 => ?_, ?_,
    hread (by decide), hread (by decide), hread (by decide), hread (by decide)⟩
  · rw [hread (by decide), hlatch]
    rfl
  · obtain ⟨hexec, hdead⟩ := special_exec r r.h.regs.latch hq
    rw [hread (selector_gt (by omega) (by omega)), hread (selector_gt (by omega) (by omega)), hexec, hdead]
    exact ⟨groupBits_bit r _ hk hw h128, groupBits_bit r _ hk hw h128⟩
  · rw [hread (by decide), hread (by decide)]
    exact BitVec.extractLsb'_append_extractLsb'_eq_extractLsb' rfl |>.trans BitVec.extractLsb'_eq_self

/-! ### Atomics -/

theorem signedOf_toNat (x : Word) : signedOf 32 x.toNat = x.toInt := by
  have hx := x.isLt
  rw [signedOf, BitVec.toInt_eq_toNat_cond, Nat.mod_eq_of_lt hx]
  split <;> split <;> omega

theorem atomMin_eq (x y : Word) : atomResult 1 x.toNat y.toNat = (smallerSigned x y).toNat := by
  rw [← min32_eq, min32, apply_ite BitVec.toNat, ← signedOf_toNat x, ← signedOf_toNat y]
  rfl

theorem atomMax_eq (x y : Word) : atomResult 2 x.toNat y.toNat = (largerSigned x y).toNat := by
  rw [← max32_eq, max32, apply_ite BitVec.toNat, ← signedOf_toNat x, ← signedOf_toNat y]
  rfl

theorem atomMinUnsigned_eq (x y : Word) : atomResult 3 x.toNat y.toNat = (smallerUnsigned x y).toNat := by
  have hlt : min x.toNat y.toNat < 2 ^ 32 := Nat.lt_of_le_of_lt (Nat.min_le_left _ _) x.isLt
  rw [smallerUnsigned, BitVec.toNat_ofNat, Nat.mod_eq_of_lt hlt]
  rfl

theorem atomMaxUnsigned_eq (x y : Word) : atomResult 4 x.toNat y.toNat = (largerUnsigned x y).toNat := by
  have hlt : max x.toNat y.toNat < 2 ^ 32 := Nat.max_lt.2 ⟨x.isLt, y.isLt⟩
  rw [largerUnsigned, BitVec.toNat_ofNat, Nat.mod_eq_of_lt hlt]
  rfl

/-- Settles O33: the model computes on the numbers of the old bytes and of the operand. -/
theorem atomicValues : Obligations.AtomicValues := by
  refine ⟨fun x y => ⟨(BitVec.toNat_add x y).symm, atomMin_eq x y, atomMax_eq x y, atomMinUnsigned_eq x y,
    atomMaxUnsigned_eq x y, (BitVec.toNat_and x y).symm, (BitVec.toNat_or x y).symm, (BitVec.toNat_xor x y).symm, rfl, rfl⟩,
    fun x y => ⟨(BitVec.toNat_add x y).symm, rfl, rfl, rfl⟩, fun _ _ _ => rfl⟩

end Sys2Proof.Proofs.Values

/-!
PROOFS. How words start and what holds them (03_encoding.md R68, R70–R72, R78, R80, 05_control.md R101, R110, 07_lanes.md R446,
13_numbers.md R254): what the word itself settles, what nothing outstanding lets start, and what comes before an effect.
-/

namespace Sys2Proof.Proofs.Starting

open Sys2Proof Sys2Proof.Machine Sys2Proof.Claims Sys2Proof.Laws Sys2Proof.Proofs.ControlFlow Sys2Proof.Proofs.Privilege
  Sys2Proof.Proofs.Endings

/-! ### Which instructions are words -/

/-- An instruction is an event, a word that makes the checks of R80 before its body, an EXT, or an unassigned opcode. -/
theorem exec_cases (i : Instr) :
    encode i = none ∨ (∃ body, ∀ s, exec i s = runWord i body s) ∨ (∃ x, i = .ext x) ∨ ∃ op x, i = .reservedOpcode op x := by
  cases i with
  | ext x => exact .inr (.inr (.inl ⟨x, rfl⟩))
  | reservedOpcode op x => exact .inr (.inr (.inr ⟨op, x, rfl⟩))
  | joinDecrement | hoistRetire | regangMerge | vregrpComplete | loadDataReturn | writePerformed | copyComplete
  | slotRelease | slotFillComplete | passComplete | slotStoreComplete | blockKill | traceComplete | beamComplete
  | hitrdComplete | tileOrderOperation | translationRequest | gridReady | gridEnd | releaseVote | ensignEvaluation
  | preemptSave | quiesce | commitMarker | blockPark | copyFail | passGrant | fragmentPush | atomicServiceRequest
  | lineMigrate | copyByteArrival | hostLineReread | codebookReload | coremaskCommit | hoistLost | admissionHold
  | lateArrival | pseudoChannelFailing | interleaveRebuild | pushDmwr | pushPosted | activate | refresh | destroy
  | resolveRetry | resolveRefuse | expansionCommand | expansionDone | enable | registerWrite | hostAccess | hostSnoop
  | ckptGo | perstDeassert | configSpaceReady | bar0Ready | functionLevelReset | hotReset | upstreamLinkDown | d3hotEntry
  | d3coldEntry | clusterClockGate | clockStepDown | throttleEnd | thermtrip | hello | timesync | migrate | migack
  | returnCtx | retdone | homereq | homedone | ckmark | applied | halyardReservedMessage | checkpointPeriod | flitTimeout
  | linkLoss | clockStepUp => exact .inl rfl
  | _ => exact .inr (.inl ⟨_, fun _ => rfl⟩)

/-! ### What the word itself settles (R80) -/

/-- A word whose checks refuse it takes the trap that they settle. -/
theorem answers_of_refusal {i : Instr} {s : State} {e : Env} {t : Trap} (hi : Issues i s e) (hx : (encode i).isSome = true)
    (hno : ∀ op x, i ≠ .reservedOpcode op x) (ht : e.refusal i = some t) : Answers i s (e.takeTrap t) := by
  rcases exec_cases i with hnone | ⟨body, hbody⟩ | ⟨x, rfl⟩ | ⟨op, x, rfl⟩
  · rw [hnone] at hx
    cases hx
  · exact (hbody s).trans (runWord_of_trap hi (issue_of_refusal ht) body)
  · have hissuer : issuer ((encode (.ext x)).getD 0) s = some e := hi
    rw [Answers, show exec (.ext x) s = execExt x s from rfl, execExt, hissuer]
    dsimp only
    rw [ht]
  · exact absurd rfl (hno op x)

/-- A word of an unassigned opcode takes its trap where it issues. -/
theorem answers_reserved {op : BitVec 8} {x : BitVec 24} {s : State} {e : Env} (hi : Issues (.reservedOpcode op x) s e) :
    Answers (.reservedOpcode op x) s (e.takeTrap ((e.stray (.ext 0)).getD { cls := .illop })) := by
  have hissuer : issuer ((encode (.reservedOpcode op x)).getD 0) s = some e := hi
  have hexec : exec (.reservedOpcode op x) s = runIllegal ((encode (.reservedOpcode op x)).getD 0) s := rfl
  rw [Answers, hexec, runIllegal, hissuer]

theorem padKind_ne {i : Instr} {k : BitVec 2} (h : i ≠ .pad k) : padKind i ≠ some k := by
  cases i with
  | pad j => exact fun hk => h (congrArg Instr.pad (Option.some.inj hk))
  | _ => exact nofun

theorem stray_of_landing {e : Env} {i : Instr} {k : BitVec 2} {src : VAddr} (hl : e.g.landing = some (k, src))
    (hi : i ≠ .pad k) : e.stray i = some { cls := .cfi, info := (src.extractLsb' 0 32).zeroExtend 64 } := by
  simp only [Env.stray, hl, if_neg (padKind_ne hi)]

theorem stray_of_pad {e : Env} {k : BitVec 2} {src : VAddr} (hl : e.g.landing = some (k, src)) : e.stray (.pad k) = none := by
  simp only [Env.stray, hl, padKind, if_true]

theorem stray_of_no_landing {e : Env} (hl : e.g.landing = none) (i : Instr) : e.stray i = none := by
  simp only [Env.stray, hl]

theorem refusal_of_stray {e : Env} {i : Instr} {t : Trap} (h : e.stray i = some t) : e.refusal i = some t := by
  simp only [Env.refusal, h]

theorem not_legal_of_form {e : Env} {i : Instr} (h : i.formOk = false) : e.legal i = false := by
  simp only [Env.legal, h, Bool.false_and]

/-- Settles O25: CFI, then ILLOP, before anything else of a word. -/
theorem refusedWords : Obligations.RefusedWords := by
  refine ⟨fun i s e k src hx hne hi hl => ?_, fun e k src hl => stray_of_pad hl, fun i s e hx hform hi hl => ?_⟩
  · by_cases hres : ∃ op x, i = .reservedOpcode op x
    · obtain ⟨op, x, rfl⟩ := hres
      have h := answers_reserved hi
      rwa [stray_of_landing (i := .ext 0) hl nofun] at h
    · exact answers_of_refusal hi hx (fun op x h => hres ⟨op, x, h⟩) (refusal_of_stray (stray_of_landing hl hne))
  · by_cases hres : ∃ op x, i = .reservedOpcode op x
    · obtain ⟨op, x, rfl⟩ := hres
      have h := answers_reserved hi
      rwa [stray_of_no_landing hl] at h
    · exact answers_of_refusal hi hx (fun op x h => hres ⟨op, x, h⟩) (refusal_of_not_legal hl (not_legal_of_form hform))

/-! ### Words that act for live lanes (R446) -/

/-- The opcodes of VLD, VST, VLDS, VSTS, PREF, PIN, UNPIN, CFLUSH, QPUSH, QPOP, ATOM, RED, ACAS, MWAIT, STREL, LDACQ, MXC, MXRD,
MXWR, TRACE, BEAM, HITRD, FINS, FRES and FCLR. -/
def laneOpcodes : List (BitVec 8) := [0xB0, 0xB1, 0xB2, 0xB3, 0xB6, 0xB7, 0xB8, 0xB9, 0xC4, 0xC5, 0xC8, 0xC9, 0xCA, 0xCC, 0xCE,
  0xCF, 0xD9, 0xDB, 0xDC, 0xE0, 0xE1, 0xE2, 0xE3, 0xE4, 0xE5]

theorem eq_laneOpcodes_wordOpcode {b : Bool} {op : BitVec 8} (x : BitVec 24) (h : b = laneOpcodes.contains op) :
    b = laneOpcodes.contains (wordOpcode (wordOf op x)) := by
  rwa [wordOpcode_wordOf]

theorem laneOpcodes_not_reserved {op : BitVec 8} (h : reservedOp op = true) : laneOpcodes.contains op = false := by
  have hfree : ∀ op ∈ laneOpcodes, reservedOp op = false := by decide
  cases hc : laneOpcodes.contains op with
  | false => rfl
  | true => exact absurd (h.symm.trans (hfree op (List.contains_iff_mem.mp hc))) (Ne.symm Bool.false_ne_true)

theorem laneOpcodes_below_window : ∀ o : BitVec 3, laneOpcodes.contains (0x1F#5 ++ o) = false := by decide

theorem laneWise_eq_contains {i : Instr} {w : BitVec 32} (hw : encode i = some w) (hwf : i.wf = true) :
    i.laneWise = laneOpcodes.contains (wordOpcode w) := by
  cases i with
  | reservedOpcode op x =>
    cases hw
    exact eq_laneOpcodes_wordOpcode x (laneOpcodes_not_reserved hwf).symm
  | emul o x =>
    cases hw
    exact eq_laneOpcodes_wordOpcode x (laneOpcodes_below_window o).symm
  | _ => cases hw <;> exact eq_laneOpcodes_wordOpcode _ rfl

theorem exec_of_laneWise {i : Instr} (hi : i.laneWise = true) : ∃ body, ∀ s, exec i s = runWord i body s := by
  cases i with
  | vld | vst | vlds | vsts | pref | pin | unpin | cflush | qpush | qpop | atom | red | acas | mwait | strel | ldacq | mxc
  | mxrd | mxwr | trace | beam | hitrd | fins | fres | fclr => exact ⟨_, fun _ => rfl⟩
  | _ => exact absurd hi Bool.false_ne_true

/-- Settles O22: the rule is one test before the body. -/
theorem idleWords : Obligations.IdleWords := by
  refine ⟨fun i w hw hwf => ?_, fun i s e old hi hs hu hnone => ?_⟩
  · rw [laneWise_eq_contains hw hwf, List.contains_iff_mem]
    exact Iff.rfl
  · obtain ⟨body, hbody⟩ := exec_of_laneWise hi
    have hidle : (e.mixed i old).idle i = true := by rw [Env.idle, hi, hnone]; rfl
    exact (hbody s).trans (runWord_of_idle hs hu hidle body)

/-! ### A word with nothing outstanding (R68, R72) -/

section

variable {e : Env} {i : Instr}

theorem any_flights_false (h : ∀ f ∈ e.s.flights, f.src ≠ e.h.src) {p : Flight → Bool} (hp : ∀ f, p f = true → f.src = e.h.src) :
    e.s.flights.any p = false := by
  rw [List.any_eq_false]
  exact fun f hf hpf => h f hf (hp f hpf)

theorem pendingAt_nil (h : ∀ b ∈ e.h.busy, b.settles ≤ e.s.clock) (xs : List RegSpan) : e.h.pendingAt xs e.s.clock = [] := by
  refine List.filter_eq_nil_iff.2 fun b hb hp => ?_
  rw [Bool.and_eq_true, decide_eq_true_eq] at hp
  exact absurd (h b hb) (Nat.not_le.2 hp.1)

theorem startAt_now (e : Env) : e.startAt e.s.clock = e := by
  rw [Env.startAt, Nat.sub_self, advance_zero]

theorem interlockOn_quiet (hq : Quiet i e) (hh : e.here = true) (xs : List RegSpan) : e.interlockOn xs = .ready e [] := by
  have hmine : e.s.flights.any (fun f => f.src == e.h.src && (f.work.loadsA || f.holdsUp xs)) = false :=
    any_flights_false hq.noFlight fun f hf => by
      rw [Bool.and_eq_true, beq_iff_eq] at hf
      exact hf.1
  have hlatest : latest e.s.clock (e.h.pendingAt xs e.s.clock) = e.s.clock := by rw [pendingAt_nil hq.settled]; rfl
  simp only [Env.interlockOn, hmine, hh, hlatest, startAt_now, Bool.false_eq_true, if_false, Bool.not_true]

theorem operands_quiet (hq : Quiet i e) (hh : e.here = true) : e.operands i = .ready e [] := by
  have hsome (xs : List RegSpan) := interlockOn_quiet hq hh xs
  simp only [Env.operands, hq.uncovered, Env.interlock, hsome, ite_self]

theorem fenced_quiet (hq : Quiet i e) : e.fenced = false := by
  rw [Env.fenced, Bool.and_eq_false_iff]
  by_cases hf : e.h.regs.groups.any (fun g => g.id != e.g.id && g.wait == .fence) = true
  · obtain ⟨g, hg, hw⟩ := List.any_eq_true.1 hf
    rw [Bool.and_eq_true, bne_iff_ne, beq_iff_eq] at hw
    exact .inr (hq.unfenced g hg hw.1 hw.2)
  · exact .inl (Bool.eq_false_iff.2 hf)

theorem starved_quiet (hq : Quiet i e) : e.starved i = false := by
  simp only [Env.starved, Env.follows, Env.sendsReads, Env.leads, hq.single, Bool.false_and, Bool.or_self, Bool.and_false]

theorem afterAtomics_quiet (hq : Quiet i e) (hh : e.here = true) : e.afterAtomics i = .ready e [] := by
  have hbefore : e.s.flights.any (e.atomicsBefore i) = false := any_flights_false hq.noFlight fun f hf => by
    simp only [Env.atomicsBefore, Bool.and_eq_true, beq_iff_eq] at hf
    exact hf.1.1
  simp only [Env.afterAtomics, hbefore, hh, Bool.false_eq_true, if_false, Bool.not_true]

theorem countRoom_quiet (hq : Quiet i e) : e.countRoom i = .ready e [] := by
  obtain ⟨hg, hs, hw, hx⟩ := hq.counters
  have hroom (k : Counter) : (e.h.counters.get k == 63) = false := by
    rw [beq_eq_false_iff_ne]
    cases k <;> simp only [Counters.get] <;> omega
  have hfull : e.counterFull i = false := by
    rw [Env.counterFull]
    cases i.counter with
    | none => exact Bool.and_false _
    | some k => dsimp only; rw [hroom, Bool.and_false]
  rw [Env.countRoom, hfull]
  rfl

end

/-- Settles O23: with nothing outstanding no check and no wait holds the word. -/
theorem quietStarts : Obligations.QuietStarts := by
  intro i s e hi hq
  have hh : e.here = true := (issuer_sound hi).here
  refine ⟨e, hi, ?_⟩
  simp only [Env.issue, hq.legal, fenced_quiet hq, operands_quiet hq hh, starved_quiet hq, afterAtomics_quiet hq hh,
    countRoom_quiet hq, Bool.false_eq_true, if_false, ite_self]

/-! ### A pending FPX (R254) -/

/-- With nothing of the hoist in flight its flags are final. -/
theorem fpxFirst_settled {e : Env} (hs : Sound e) (hf : ∀ f ∈ e.s.flights, f.src ≠ e.h.src) (k : Env → Res) :
    e.fpxFirst k = if fpxPending e.h.regs.fpx then e.raise .fpx else k e := by
  have hsettle : e.settleFlags = e := by
    rw [Env.settleFlags, any_flights_false hf fun f h => beq_iff_eq.1 h, if_neg Bool.false_ne_true]
  have hopen : e.flagsOpen = false := any_flights_false hf fun f h => by
    rw [Bool.and_eq_true] at h
    exact beq_iff_eq.1 h.1
  simp only [Env.fpxFirst, hsettle, hs.here, hopen, Bool.not_true, Bool.false_eq_true, if_false]

theorem fpxFirst_pending {e : Env} (hs : Sound e) (hf : ∀ f ∈ e.s.flights, f.src ≠ e.h.src)
    (hp : fpxPending e.h.regs.fpx = true) (k : Env → Res) : e.fpxFirst k = .trap { cls := .fpx } e.s := by
  rw [fpxFirst_settled hs hf, if_pos hp, Env.raise]

/-- The body of a word that takes a pending FPX first. -/
theorem fpx_body {r : Env} {i : Instr} (hi : takesFpx r i) :
    ∃ (body : Env → Res) (k : Env → Res), (∀ s, exec i s = runWord i body s) ∧ body r = r.fpxFirst k := by
  cases i with
  | exit => exact ⟨_, _, fun _ => rfl, rfl⟩
  | fence k sc => exact ⟨_, _, fun _ => rfl, rfl⟩
  | bara d a b => exact ⟨_, _, fun _ => rfl, if_neg (Nat.not_lt.2 hi)⟩
  | barw a => exact ⟨_, _, fun _ => rfl, if_neg (Nat.not_lt.2 hi)⟩
  | _ => exact hi.elim

/-- Settles O21: with nothing in flight the test for a pending FPX is the body's first. -/
theorem pendingFlags : Obligations.PendingFlags := by
  intro i s e r old hi h hf hp
  obtain ⟨body, k, hx, hb⟩ := fpx_body hi
  exact raises_of_body h (hx s) (hb.trans (fpxFirst_pending (begins_sound h) hf hp k))

end Sys2Proof.Proofs.Starting

/-!
PROOFS. EXIT, EXT, the extension opcodes and the unassigned ones (03_encoding.md R70, R71, R78, R79, 05_control.md R110).
-/

namespace Sys2Proof.Proofs.Exits

open Sys2Proof Sys2Proof.Machine Sys2Proof.Claims Sys2Proof.Laws Sys2Proof.Proofs.ControlFlow Sys2Proof.Proofs.Endings
  Sys2Proof.Proofs.Starting

/-! ### The hoist after an EXIT -/

/-- The hoist that EXIT puts back: with no slice left it has no copy failure to report. -/
def exitOf (r : Env) : Hoist := if r.exited.gone then { r.exited with fails := [] } else r.exited

theorem exitOf_regs (r : Env) : (exitOf r).regs = r.exited.regs := by
  rw [exitOf]
  split <;> rfl

theorem exitOf_src (r : Env) : (exitOf r).src = r.h.src := by
  have hsrc : r.exited.src = r.h.src := by rw [Env.exited]; split <;> rfl
  rw [exitOf]
  split <;> exact hsrc

/-- The slices of a group are told by the registers of its hoist. -/
theorem groupSlices_of_regs {h k : Hoist} (hr : k.regs = h.regs) (g : Nat) : k.groupSlices g = h.groupSlices g := by
  have hin : k.sliceIn g = h.sliceIn g := by
    funext n
    rw [Hoist.sliceIn, Hoist.sliceIn, Hoist.sliceDead, Hoist.sliceDead, hr]
  rw [Hoist.groupSlices, Hoist.groupSlices, hin, hr]

theorem exitOf_exited (r : Env) : Exited r (exitOf r) := by
  by_cases hd : r.h.regs.depth ≠ 0
  · have hk : (exitOf r).regs = r.h.exitAll.regs := by rw [exitOf_regs, Env.exited, if_pos hd]
    refine ⟨fun n => ?_, fun g hg => ?_, ?_, ?_⟩
    · rw [hk, Hoist.exitAll, List.getElem?_map]
      exact congrArg (Option.map · _) (funext fun x => (if_pos (.inl hd)).symm)
    · rw [hk] at hg
      cases hg
    · rw [hk]
      exact ⟨rfl, rfl, rfl, rfl, rfl, rfl⟩
    · rw [hk]
      rfl
  · have hk : (exitOf r).regs =
        (r.h.updSliceList r.slices fun _ x => { x with exited := true, stack := [] }).prune.regs := by
      rw [exitOf_regs, Env.exited, if_neg hd]
    refine ⟨fun n => ?_, fun g hg => ?_, ?_, ?_⟩
    · rw [hk]
      refine (getElem?_updSliceList r.h r.slices _ n).trans ?_
      simp only [hd, false_or, List.contains_iff_mem, Env.slices]
    · rw [hk] at hg
      rw [groupSlices_of_regs hk]
      have hne := (List.mem_filter.1 hg).2
      rwa [bne_iff_ne] at hne
    · rw [hk]
      exact ⟨rfl, rfl, rfl, rfl, rfl, rfl⟩
    · rw [hk]
      exact Classical.not_not.1 hd

/-! ### EXIT -/

/-- A batch is closed on nothing when the hoist has no work in flight and is then replaced. -/
theorem closeBatch_putHoist {s : State} {src seq : Nat} {k : Hoist} (hf : ∀ f ∈ s.flights, f.src ≠ src) (hk : k.src = src) :
    (s.closeBatch src seq).putHoist k = s.putHoist k := by
  subst hk
  have hflights : (s.closeBatch k.src seq).flights = s.flights := by
    refine (List.map_congr_left fun f hm => ?_).trans (List.map_id _)
    exact if_pos (bne_iff_ne.2 (hf f hm))
  have hhoists : ((s.closeBatch k.src seq).putHoist k).hoists = (s.putHoist k).hoists := by
    refine (List.map_map ..).trans (List.map_congr_left fun x _ => ?_)
    rw [Function.comp_apply]
    split <;> rfl
  have hput : (s.closeBatch k.src seq).putHoist k =
      { s with
        hoists := ((s.closeBatch k.src seq).putHoist k).hoists
        flights := (s.closeBatch k.src seq).flights } := rfl
  rw [hput, hhoists, hflights]
  rfl

/-- Settles O16: with nothing in flight and nothing to report EXIT puts its hoist back with the group's slices exited. -/
theorem exitWords : Obligations.ExitWords := by
  intro s e r old hm h
  refine ⟨exitOf r, exitOf_exited r, jumps_of_body h rfl ?_⟩
  dsimp only
  rw [fpxFirst_settled (begins_sound h) hm.settled, if_neg (Bool.eq_false_iff.1 hm.calm)]
  simp only [Env.reportCopies, hm.reported, List.find?_nil, Env.release, hm.single, Bool.not_false, if_true]
  rw [exitOf]
  split
  next hgone => rw [closeBatch_putHoist hm.settled (by rw [← exitOf_src r, exitOf, if_pos hgone])]
  next => rfl

/-! ### EXT -/

/-- A hoist of sixteen lanes whose group has just yielded. -/
def yielder : Hoist :=
  { Hoist.start 0 0 0 16 0 0 with
    regs := { (Hoist.start 0 0 0 16 0 0).regs with groups := [{ Group.start 0 0 false with yielded := true }] } }

/-- The machine after reset with that hoist about to issue. -/
def yielded : State := { State.reset with cur := (0, 0), hoists := [yielder] }

/-- The group at an EXT. -/
def extEnv : Env :=
  ⟨yielded, yielder, { Group.start 0 0 false with yielded := true }, yielded.blockOf yielder, yielded.ctxOf yielder,
    (encode (.ext 0)).getD 0, none, 0, []⟩

theorem ext_issues : Issues (.ext 0) yielded extEnv := rfl

/-- Refutes O19: an EXT ends the group's last YIELD, which the statement's group keeps: after a YIELD the two differ. -/
theorem not_extensionWords : ¬ Obligations.ExtensionWords := by
  intro h
  have hstated := h.1 0 yielded extEnv ext_issues rfl
  have hexec : Answers (.ext 0) yielded
      ((extEnv.s.updHoist extEnv.h.src fun h => h.updGroup extEnv.g.id (extEnv.latchExt 0)).spend extEnv.h.src) := rfl
  have hyield := congrArg (fun s => s.hoists.map fun h => h.regs.groups.map (·.yielded)) (next_inj hstated hexec)
  exact absurd hyield (by decide)

end Sys2Proof.Proofs.Exits

/-!
PROOFS. Reductions and scans on integers (07_lanes.md R147–R149): the operations are associative with their identities, so the
tree of VRED and the doubling steps of VSCAN combine exactly the lanes of their range.
-/

namespace Sys2Proof.Proofs.Reductions

open Sys2Proof Sys2Proof.Machine Sys2Proof.Claims Sys2Proof.Proofs.Arithmetic

/-! ### The operations -/

theorem toInt_smallerSigned (a b : Word) : (smallerSigned a b).toInt = min a.toInt b.toInt := by
  rw [← min32_eq, min32]
  split <;> omega

theorem toInt_largerSigned (a b : Word) : (largerSigned a b).toInt = max a.toInt b.toInt := by
  rw [← max32_eq, max32]
  split <;> omega

theorem toNat_smallerUnsigned (a b : Word) : (smallerUnsigned a b).toNat = min a.toNat b.toNat := by
  rw [← minu32_eq, minu32]
  split <;> omega

theorem toNat_largerUnsigned (a b : Word) : (largerUnsigned a b).toNat = max a.toNat b.toNat := by
  rw [← maxu32_eq, maxu32]
  split <;> omega

theorem combine_assoc {op : Nat} (hop : op ≤ 7) (x y z : Word) :
    combine op (combine op x y) z = combine op x (combine op y z) := by
  match op, hop with
  | 0, _ => exact BitVec.add_assoc x y z
  | 1, _ => exact BitVec.eq_of_toInt_eq (by simp only [combine, toInt_smallerSigned, Int.min_assoc])
  | 2, _ => exact BitVec.eq_of_toInt_eq (by simp only [combine, toInt_largerSigned, Int.max_assoc])
  | 3, _ => exact BitVec.eq_of_toNat_eq (by simp only [combine, toNat_smallerUnsigned, Nat.min_assoc])
  | 4, _ => exact BitVec.eq_of_toNat_eq (by simp only [combine, toNat_largerUnsigned, Nat.max_assoc])
  | 5, _ => exact BitVec.and_assoc x y z
  | 6, _ => exact BitVec.or_assoc x y z
  | 7, _ => exact BitVec.xor_assoc x y z

theorem combine_comm (op : Nat) (x y : Word) : combine op x y = combine op y x := by
  unfold combine
  split
  · exact BitVec.add_comm x y
  · exact BitVec.eq_of_toInt_eq (by simp only [toInt_smallerSigned, Int.min_comm])
  · exact BitVec.eq_of_toInt_eq (by simp only [toInt_largerSigned, Int.max_comm])
  · exact BitVec.eq_of_toNat_eq (by simp only [toNat_smallerUnsigned, Nat.min_comm])
  · exact BitVec.eq_of_toNat_eq (by simp only [toNat_largerUnsigned, Nat.max_comm])
  · exact BitVec.and_comm x y
  · exact BitVec.or_comm x y
  · exact BitVec.xor_comm x y

theorem combine_identity {op : Nat} (hop : op ≤ 7) (x : Word) : combine op x (identityOf op) = x := by
  have hlo := BitVec.le_toInt x
  have hhi := BitVec.toInt_lt (x := x)
  have hlt := x.isLt
  match op, hop with
  | 0, _ => exact BitVec.add_zero x
  | 1, _ =>
    refine BitVec.eq_of_toInt_eq ((toInt_smallerSigned _ _).trans (Int.min_eq_left ?_))
    change x.toInt ≤ 2 ^ 31 - 1
    omega
  | 2, _ =>
    refine BitVec.eq_of_toInt_eq ((toInt_largerSigned _ _).trans (Int.max_eq_left ?_))
    change -2 ^ 31 ≤ x.toInt
    omega
  | 3, _ =>
    refine BitVec.eq_of_toNat_eq ((toNat_smallerUnsigned _ _).trans (Nat.min_eq_left ?_))
    change x.toNat ≤ 2 ^ 32 - 1
    omega
  | 4, _ => exact BitVec.eq_of_toNat_eq ((toNat_largerUnsigned _ _).trans (Nat.max_eq_left (Nat.zero_le _)))
  | 5, _ => exact BitVec.and_allOnes
  | 6, _ => exact BitVec.or_zero
  | 7, _ => exact BitVec.xor_zero

theorem identity_combine {op : Nat} (hop : op ≤ 7) (x : Word) : combine op (identityOf op) x = x := by
  rw [combine_comm, combine_identity hop]

theorem redStep_eq_combine {op : Nat} (hop : op ≤ 7) (x y : Word) : redStep op x y = (combine op x y, 0) := by
  match op, hop with
  | 0, _ | 5, _ | 6, _ | 7, _ => rfl
  | 1, _ => exact congrArg (·, 0) (min32_eq x y)
  | 2, _ => exact congrArg (·, 0) (max32_eq x y)
  | 3, _ => exact congrArg (·, 0) (minu32_eq x y)
  | 4, _ => exact congrArg (·, 0) (maxu32_eq x y)

theorem redIdentity_eq {op : Nat} (hop : op ≤ 7) : redIdentity op = identityOf op := by
  match op, hop with
  | 0, _ | 1, _ | 2, _ | 3, _ | 4, _ | 5, _ | 6, _ | 7, _ => rfl

/-! ### Words gathered over a range -/

/-- The combination of `n` words of a sequence from place `l` up. -/
def gather (op : Nat) (f : Nat → Word) : Nat → Nat → Word
  | _, 0 => identityOf op
  | l, n + 1 => combine op (f l) (gather op f (l + 1) n)

theorem gathered_eq (r : Env) (op : Nat) (v : BitVec 8) (l n : Nat) :
    gathered r op v l n = gather op (contribution r op v) l n := by
  induction n generalizing l with
  | zero => rfl
  | succ n ih => rw [gathered, gather, ih]

section

variable {op : Nat} (f : Nat → Word)

theorem gather_append (hop : op ≤ 7) (l m n : Nat) :
    combine op (gather op f l m) (gather op f (l + m) n) = gather op f l (m + n) := by
  induction m generalizing l with
  | zero => rw [gather, identity_combine hop, Nat.add_zero, Nat.zero_add]
  | succ m ih =>
    rw [Nat.add_right_comm m 1 n, gather, gather, combine_assoc hop, ← ih (l + 1), Nat.add_right_comm l 1 m, Nat.add_assoc l m 1]

theorem gather_one (hop : op ≤ 7) (l : Nat) : gather op f l 1 = f l := combine_identity hop _

theorem gather_congr {g : Nat → Word} {l n : Nat} (h : ∀ i, l ≤ i → i < l + n → f i = g i) :
    gather op f l n = gather op g l n := by
  induction n generalizing l with
  | zero => rfl
  | succ n ih => rw [gather, gather, h l (Nat.le_refl l) (by omega), ih fun i hi hn => h i (by omega) (by omega)]

theorem gather_shift (l n : Nat) : gather op (fun i => f (i + 1)) l n = gather op f (l + 1) n := by
  induction n generalizing l with
  | zero => rfl
  | succ n ih => rw [gather, gather, ih]

theorem gather_eq_foldr (l n : Nat) : gather op f l n = ((List.range' l n).map f).foldr (combine op) (identityOf op) := by
  induction n generalizing l with
  | zero => rfl
  | succ n ih => rw [gather, ih, List.range'_succ, List.map_cons, List.foldr_cons]

end

/-! ### The tree of VRED -/

theorem redLevel_words {op : Nat} (hop : op ≤ 7) (x y : Word) (xs : List Word) :
    (redLevel op (x :: y :: xs)).1 = combine op x y :: (redLevel op xs).1 := by
  rw [redLevel, redStep_eq_combine hop]

/-- A level combines to the same word, with half as many. -/
theorem redLevel_fold {op : Nat} (hop : op ≤ 7) (xs : List Word) :
    (redLevel op xs).1.foldr (combine op) (identityOf op) = xs.foldr (combine op) (identityOf op) ∧
      (redLevel op xs).1.length = (xs.length + 1) / 2 := by
  match xs with
  | [] => exact ⟨rfl, rfl⟩
  | [x] => simp [redLevel]
  | x :: y :: xs =>
    have ih := redLevel_fold hop xs
    rw [redLevel_words hop, List.foldr_cons, ih.1, List.foldr_cons, List.foldr_cons, combine_assoc hop, List.length_cons, ih.2,
      List.length_cons, List.length_cons]
    exact ⟨rfl, by omega⟩

theorem redTree_succ (op n : Nat) (xs : List Word) : (redTree op (n + 1) xs).1 = (redTree op n (redLevel op xs).1).1 := rfl

/-- `n` levels leave one word of 2^n or fewer, the combination of them all. -/
theorem redTree_headD {op : Nat} (hop : op ≤ 7) (n : Nat) (xs : List Word) (h1 : 1 ≤ xs.length) (hn : xs.length ≤ 2 ^ n) :
    (redTree op n xs).1.headD 0 = xs.foldr (combine op) (identityOf op) := by
  induction n generalizing xs with
  | zero =>
    obtain ⟨x, rfl⟩ := List.length_eq_one_iff.1 (Nat.le_antisymm hn h1)
    exact (combine_identity hop x).symm
  | succ n ih =>
    obtain ⟨hfold, hlen⟩ := redLevel_fold hop xs
    rw [redTree_succ, ih _ (by omega) (by rw [Nat.pow_succ] at hn; omega), hfold]

/-! ### The steps of VSCAN -/

/-- Two partial words of a scan combined: `k` places down, or up in reverse. -/
def scanned (op w k : Nat) (rev : Bool) (g : Nat → Word) (i : Nat) : Word :=
  if rev then (if i + k < w then combine op (g i) (g (i + k)) else g i)
  else if k ≤ i then combine op (g (i - k)) (g i) else g i

theorem getElem?_words (w : Nat) (g : Nat → Word) (j : Nat) :
    ((List.range w).map g)[j]? = if j < w then some (g j) else none := by
  rw [List.getElem?_map]
  split
  next hj => rw [List.getElem?_range hj, Option.map_some]
  next hj => rw [List.getElem?_eq_none (by rw [List.length_range]; omega), Option.map_none]

theorem scanStep_words {op : Nat} (hop : op ≤ 7) (w k : Nat) (rev : Bool) (g : Nat → Word) :
    (scanStep op k rev ((List.range w).map g)).map (·.1) = (List.range w).map (scanned op w k rev g) := by
  apply List.ext_getElem?
  intro i
  rw [scanStep, List.getElem?_map, List.getElem?_mapIdx, getElem?_words w (scanned op w k rev g) i, getElem?_words w g i]
  by_cases hi : i < w
  · rw [if_pos hi, if_pos hi, Option.map_some, Option.map_some, getElem?_words, getElem?_words, scanned]
    cases rev
    · by_cases hk : k ≤ i
      · simp only [Bool.false_eq_true, if_false, hk, if_true, redStep_eq_combine hop, if_pos (show i - k < w by omega),
          Option.getD_some]
      · simp only [Bool.false_eq_true, if_false, hk]
    · by_cases hk : i + k < w
      · simp only [if_true, hk, redStep_eq_combine hop]
      · simp only [if_true, hk, if_false]
  · rw [if_neg hi, if_neg hi]
    rfl

/-- What a place holds once places `k` away have been combined. -/
def partly (op w k : Nat) (rev : Bool) (f : Nat → Word) (i : Nat) : Word :=
  if rev then gather op f i (min k (w - i)) else gather op f (i + 1 - min k (i + 1)) (min k (i + 1))

/-- A step doubles what a place holds. -/
theorem scanned_partly {op : Nat} (hop : op ≤ 7) {w k i : Nat} (rev : Bool) (f : Nat → Word) (hi : i < w) :
    scanned op w k rev (partly op w k rev f) i = partly op w (2 * k) rev f i := by
  cases rev
  · simp only [scanned, partly, Bool.false_eq_true, if_false]
    by_cases hk : k ≤ i
    · have hlow : i - k + 1 - min k (i - k + 1) = i + 1 - min (2 * k) (i + 1) := by omega
      have hup : i + 1 - min k (i + 1) = i + 1 - min (2 * k) (i + 1) + min k (i - k + 1) := by omega
      have hn : min (2 * k) (i + 1) = min k (i - k + 1) + min k (i + 1) := by omega
      rw [if_pos hk, hlow, hup, gather_append f hop, hn]
    · rw [if_neg hk]
      congr 1 <;> omega
  · simp only [scanned, partly, if_true]
    by_cases hk : i + k < w
    · have hmin : min k (w - i) = k := by omega
      have hn : min (2 * k) (w - i) = k + min k (w - (i + k)) := by omega
      rw [if_pos hk, hmin, gather_append f hop, hn]
    · rw [if_neg hk]
      congr 1
      omega

/-- Steps that reach every place leave each with the whole of its range. -/
theorem scanSteps_words {op : Nat} (hop : op ≤ 7) (rev : Bool) (f : Nat → Word) {w : Nat} (n k : Nat) (hn : w ≤ 2 ^ n * k) :
    (scanSteps op rev n k ((List.range w).map (partly op w k rev f))).1 =
      (List.range w).map (partly op w (2 ^ n * k) rev f) := by
  induction n generalizing k with
  | zero => rw [scanSteps, Nat.pow_zero, Nat.one_mul]
  | succ n ih =>
    rw [scanSteps, List.length_map, List.length_range]
    split
    next hk =>
      refine List.map_congr_left fun i hi => ?_
      have hlt := List.mem_range.1 hi
      have hmin (m : Nat) (hm : m ≤ w) : min k m = min (2 ^ (n + 1) * k) m := by
        have hle : w ≤ 2 ^ (n + 1) * k := hn
        omega
      simp only [partly, hmin (i + 1) (by omega), hmin (w - i) (by omega)]
    next hk =>
      have hstep : (scanStep op k rev ((List.range w).map (partly op w k rev f))).map (·.1) =
          (List.range w).map (partly op w (2 * k) rev f) :=
        (scanStep_words hop w k rev _).trans (List.map_congr_left fun i hi => scanned_partly hop rev f (List.mem_range.1 hi))
      dsimp only
      rw [hstep, ih (2 * k) (by rwa [Nat.pow_succ, Nat.mul_assoc] at hn), Nat.pow_succ, Nat.mul_assoc]

/-- At the start a place holds its own word. -/
theorem partly_one {op : Nat} (hop : op ≤ 7) {w i : Nat} (rev : Bool) (f : Nat → Word) (hi : i < w) :
    partly op w 1 rev f i = f i := by
  have hmin : min 1 (w - i) = 1 := by omega
  have hmin' : min 1 (i + 1) = 1 := by omega
  simp only [partly, hmin, hmin', Nat.add_sub_cancel, gather_one f hop, ite_self]

/-- The words of a scan of 128 lanes or fewer. -/
theorem scan_getD {op : Nat} (hop : op ≤ 7) (rev : Bool) (f : Nat → Word) {w l : Nat} (hw : w ≤ 128) (hl : l < w) :
    (scanSteps op rev 7 1 ((List.range w).map f)).1.getD l 0 =
      if rev then gather op f l (w - l) else gather op f 0 (l + 1) := by
  have hstart : (List.range w).map f = (List.range w).map (partly op w 1 rev f) :=
    List.map_congr_left fun i hi => (partly_one hop rev f (List.mem_range.1 hi)).symm
  have hmin : min (2 ^ 7 * 1) (w - l) = w - l := by omega
  have hmin' : min (2 ^ 7 * 1) (l + 1) = l + 1 := by omega
  rw [hstart, scanSteps_words hop rev f 7 1 (by omega), List.getD_eq_getElem?_getD, getElem?_words, if_pos hl,
    Option.getD_some, partly, hmin, hmin', Nat.sub_self]

/-! ### The shift of an exclusive scan -/

/-- The words of an exclusive scan before its steps. -/
def shifted (op w : Nat) (rev : Bool) (f : Nat → Word) (i : Nat) : Word :=
  if rev then (if i + 1 < w then f (i + 1) else identityOf op) else if i = 0 then identityOf op else f (i - 1)

theorem scanShift_words {op : Nat} (hop : op ≤ 7) (rev : Bool) (f : Nat → Word) {w : Nat} (hw : 1 ≤ w) :
    scanShift op rev ((List.range w).map f) = (List.range w).map (shifted op w rev f) := by
  obtain ⟨n, rfl⟩ := Nat.exists_eq_add_of_le' hw
  cases rev
  · rw [scanShift, if_neg Bool.false_ne_true, List.range_succ, List.map_append, List.map_singleton, List.dropLast_concat,
      ← List.range_succ, List.range_succ_eq_map, List.map_cons, List.map_map, redIdentity_eq hop]
    rfl
  · rw [scanShift, if_pos rfl, List.range_succ_eq_map, List.map_cons, List.tail_cons, List.map_map, ← List.range_succ_eq_map,
      List.range_succ, List.map_append, List.map_singleton, redIdentity_eq hop]
    congr 1
    · refine List.map_congr_left fun i hi => ?_
      have hlt := List.mem_range.1 hi
      rw [shifted, if_pos rfl, if_pos (by omega)]
      rfl
    · rw [shifted, if_pos rfl, if_neg (by omega)]

theorem gather_shifted {op : Nat} (hop : op ≤ 7) (f : Nat → Word) {w l : Nat} (hl : l < w) :
    gather op (shifted op w false f) 0 (l + 1) = gather op f 0 l ∧
      gather op (shifted op w true f) l (w - l) = gather op f (l + 1) (w - l - 1) := by
  constructor
  · rw [gather, ← gather_shift]
    exact identity_combine hop _
  · obtain ⟨n, hn⟩ := Nat.exists_eq_add_of_lt hl
    have hsplit : w - l = n + 1 := by omega
    have hlast : shifted op w true f (l + n) = identityOf op := by rw [shifted, if_pos rfl, if_neg (by omega)]
    rw [hsplit, Nat.add_sub_cancel, ← gather_append _ hop l n 1, gather_one _ hop, hlast, combine_identity hop, ← gather_shift]
    refine gather_congr _ fun i _ hi => ?_
    rw [shifted, if_pos rfl, if_pos (by omega)]

/-! ### The statement -/

theorem participants_eq {r : Env} {op : Nat} (hop : op ≤ 7) (a : BitVec 8) :
    r.participants op a.toNat = (List.range r.h.width).map (contribution r op a) := by
  rw [Env.participants, redIdentity_eq hop]
  rfl

/-- Settles O34: every level of the tree and every step of a scan keeps the combination of the words that it joins. -/
theorem reductionFolds : Obligations.ReductionFolds := by
  intro r op a hop h1 h128
  rw [participants_eq hop]
  refine ⟨?_, fun incl rev l hl => ?_⟩
  · rw [redTree_headD hop 7 _ (by rwa [List.length_map, List.length_range]) (by rwa [List.length_map, List.length_range]),
      gathered_eq, gather_eq_foldr, List.range_eq_range']
  · rw [gathered_eq]
    cases incl
    · rw [if_neg Bool.false_ne_true, scanShift_words hop rev _ h1, scan_getD hop rev _ h128 hl]
      obtain ⟨hdown, hup⟩ := gather_shifted hop (contribution r op a) hl
      cases rev
      · exact hdown
      · exact hup
    · rw [if_pos rfl, scan_getD hop rev _ h128 hl]
      cases rev <;> rfl

end Sys2Proof.Proofs.Reductions

/-!
PROOFS. Exact conversions (13_numbers.md R242, R243, R250): a number that a wide format holds lies on the format's own spacing, so
rounding it to that format gives its pattern back.
-/

namespace Sys2Proof.Proofs.ExactFormats

open Sys2Proof Sys2Proof.Machine

section

variable {f : Format}

/-! ### The fields of a pattern -/

/-- The fraction, the exponent field and the sign of a pattern. -/
def fraction (f : Format) (v : Nat) : Nat := v % 2 ^ f.mbits
def exponent (f : Format) (v : Nat) : Nat := v / 2 ^ f.mbits % 2 ^ f.ebits
def sign (f : Format) (v : Nat) : Bool := v / 2 ^ (f.mbits + f.ebits) % 2 == 1

/-- A pattern is its sign, its exponent and its fraction. -/
theorem fields_sum {v : Nat} (hv : v < 2 ^ f.width) :
    f.signBit (sign f v) + (exponent f v * 2 ^ f.mbits + fraction f v) = v := by
  have htop : v / 2 ^ (f.mbits + f.ebits) < 2 := by
    refine Nat.div_lt_of_lt_mul ?_
    rwa [Format.width, Nat.add_assoc, Nat.add_comm 1, Nat.add_comm f.ebits, Nat.pow_succ] at hv
  have hsign : f.signBit (sign f v) = v / 2 ^ (f.mbits + f.ebits) * 2 ^ (f.mbits + f.ebits) := by
    rw [Format.signBit, sign, Nat.mod_eq_of_lt htop, Nat.add_comm f.ebits]
    rcases Nat.le_one_iff_eq_zero_or_eq_one.1 (Nat.lt_succ_iff.1 htop) with h | h <;> rw [h] <;> simp
  have hlow : exponent f v * 2 ^ f.mbits + fraction f v = v % 2 ^ (f.mbits + f.ebits) := by
    rw [exponent, fraction, Nat.pow_add, Nat.mod_mul, Nat.add_comm, Nat.mul_comm]
  rw [hsign, hlow, Nat.mul_comm]
  exact Nat.div_add_mod v _

theorem decode_eq (hf : f.top = .ieee) (v : Nat) : f.decode v =
    if exponent f v = 0 then .num (sign f v) (fraction f v) (1 - f.bias - f.mbits)
    else if exponent f v = 2 ^ f.ebits - 1 then
      (if fraction f v = 0 then .inf (sign f v) else .nan (decide (fraction f v < 2 ^ (f.mbits - 1))))
    else .num (sign f v) (fraction f v + 2 ^ f.mbits) (exponent f v - f.bias - f.mbits) := by
  simp only [Format.decode, hf, and_true, reduceCtorEq, false_and, and_false, if_false]
  rfl

/-! ### Numbers on the spacing of the format -/

/-- A number whose spacing is its own exponent converts without a flag. -/
theorem convert_on_spacing (neg : Bool) {m : Nat} {e : Int} (hm : m ≠ 0) (hs : f.spacing m e = e)
    (hfit : f.assemble m e ≤ f.largest) : convert f (.num neg m e) = (f.signBit neg + f.assemble m e, 0) := by
  have hunits : toUnits f.narrow m e e = (m, true) := by
    simp only [Sys2Proof.Machine.toUnits, Int.le_refl, if_true, Int.sub_self, Int.toNat_zero, Nat.pow_zero, Nat.mul_one]
  rw [convert, if_neg hm]
  simp only [hs, hunits]
  rw [if_neg (Nat.not_lt.2 hfit)]
  simp only [flagIf, Bool.not_true, Bool.false_and, Bool.false_eq_true, if_false, BitVec.or_self]

theorem largest_eq (hf : f.top = .ieee) : f.largest = (2 ^ f.ebits - 1) * 2 ^ f.mbits - 1 := by
  rw [Format.largest, hf]

theorem fraction_lt (v : Nat) : fraction f v < 2 ^ f.mbits := Nat.mod_lt _ (Nat.two_pow_pos _)

/-- A pattern below the all-ones exponent is no larger than the largest finite one. -/
theorem le_largest (hf : f.top = .ieee) {e m : Nat} (he : e < 2 ^ f.ebits - 1) (hm : m < 2 ^ f.mbits) :
    e * 2 ^ f.mbits + m ≤ f.largest := by
  rw [largest_eq hf]
  have hmul : (e + 1) * 2 ^ f.mbits ≤ (2 ^ f.ebits - 1) * 2 ^ f.mbits := Nat.mul_le_mul_right _ he
  rw [Nat.add_mul, Nat.one_mul] at hmul
  omega

theorem convert_subnormal (hf : f.top = .ieee) (he : 1 < f.ebits) (neg : Bool) {m : Nat} (hm : m < 2 ^ f.mbits) :
    convert f (.num neg m (1 - f.bias - f.mbits)) = (f.signBit neg + m, 0) := by
  by_cases hzero : m = 0
  · rw [convert, if_pos hzero, hzero, Nat.add_zero]
  · have hlog : Nat.log2 m < f.mbits := (Nat.log2_lt hzero).2 hm
    have hs : f.spacing m (1 - f.bias - f.mbits) = 1 - f.bias - f.mbits := by
      rw [Format.spacing]
      omega
    have hy : f.assemble m (1 - f.bias - f.mbits) = m := by rw [Format.assemble]; exact if_pos hm
    have hones : 0 < 2 ^ f.ebits - 1 := by
      have hpow := Nat.lt_two_pow_self (n := f.ebits)
      omega
    have hfit : m ≤ f.largest := by
      have hle := le_largest hf hones hm
      omega
    rw [convert_on_spacing neg hzero hs (by rwa [hy]), hy]

theorem convert_normal (hf : f.top = .ieee) (neg : Bool) {e m : Nat} (h1 : e ≠ 0) (he : e < 2 ^ f.ebits - 1)
    (hm : m < 2 ^ f.mbits) :
    convert f (.num neg (m + 2 ^ f.mbits) (e - f.bias - f.mbits)) = (f.signBit neg + (e * 2 ^ f.mbits + m), 0) := by
  have hpos : m + 2 ^ f.mbits ≠ 0 := by
    have hpow := Nat.two_pow_pos f.mbits
    omega
  have hlog : Nat.log2 (m + 2 ^ f.mbits) = f.mbits := by
    rw [Nat.log2_eq_iff hpos, Nat.pow_succ]
    omega
  have hs : f.spacing (m + 2 ^ f.mbits) (e - f.bias - f.mbits) = e - f.bias - f.mbits := by
    rw [Format.spacing, hlog]
    omega
  have hsteps : ((e : Int) - f.bias - f.mbits - (1 - f.bias - f.mbits)).toNat = e - 1 := by omega
  have hy : f.assemble (m + 2 ^ f.mbits) (e - f.bias - f.mbits) = e * 2 ^ f.mbits + m := by
    rw [Format.assemble, hsteps, if_neg (by omega)]
    obtain ⟨n, rfl⟩ := Nat.exists_eq_succ_of_ne_zero h1
    rw [Nat.succ_sub_one, Nat.succ_mul]
    omega
  rw [convert_on_spacing neg hpos hs (by rw [hy]; exact le_largest hf he hm), hy]

/-- A pattern of a format with infinities, no NaN, is what its value converts to. -/
theorem convert_decode (hf : f.top = .ieee) (he : 1 < f.ebits) {v : Nat} (hv : v < 2 ^ f.width)
    (hnan : (f.decode v).isNaN = false) : convert f (f.decode v) = (v, 0) := by
  have hsum := fields_sum hv
  rw [decode_eq hf] at hnan ⊢
  split
  next h0 =>
    rw [h0, Nat.zero_mul, Nat.zero_add] at hsum
    rw [convert_subnormal hf he _ (fraction_lt v), hsum]
  next h0 =>
    split
    next hones =>
      rw [if_neg h0, if_pos hones] at hnan
      split at hnan
      next hzero =>
        rw [hones, hzero, Nat.add_zero] at hsum
        rw [if_pos hzero, convert, hf]
        exact Prod.ext hsum rfl
      next hfrac => cases hnan
    next hones =>
      have hlt : exponent f v < 2 ^ f.ebits - 1 := by
        have hmod : exponent f v < 2 ^ f.ebits := Nat.mod_lt _ (Nat.two_pow_pos _)
        omega
      rw [convert_normal hf _ h0 hlt (fraction_lt v), hsum]

end

/-- Settles O35: the four formats spend their all-ones exponent as IEEE 754 does. -/
theorem formatsExact : Obligations.FormatsExact := by
  rintro f (rfl | rfl | rfl | rfl) v hv hnan <;> exact convert_decode rfl (by decide) hv hnan

end Sys2Proof.Proofs.ExactFormats

/-!
PROOFS. The bytes of a trap frame (19_faults.md R338): little-endian fields one behind the other, each read back at its place.
-/

namespace Sys2Proof.Proofs.TrapFrames

open Sys2Proof Sys2Proof.Machine Sys2Proof.Claims

/-! ### Little-endian fields -/

theorem natLe_length (n v : Nat) : (natLe n v).length = n := by
  induction n generalizing v with
  | zero => rfl
  | succ n ih => rw [natLe, List.length_cons, ih]

theorem leNat_natLe (n v : Nat) : leNat (natLe n v) = v % 256 ^ n := by
  induction n generalizing v with
  | zero => rw [natLe, leNat, Nat.pow_zero, Nat.mod_one]
  | succ n ih => rw [natLe, leNat, ih, BitVec.toNat_ofNat, show (2 : Nat) ^ 8 = 256 from rfl, Nat.pow_succ', Nat.mod_mul]

theorem natLe_zero (n : Nat) : natLe n 0 = List.replicate n 0 := by
  induction n with
  | zero => rfl
  | succ n ih => rw [natLe, Nat.zero_div, ih]; rfl

/-- A field further on is one of what follows. -/
theorem segment_skip {n o : Nat} (h : n ≤ o) (v k : Nat) (rest : List Byte) :
    segment (natLe n v ++ rest) o k = segment rest (o - n) k := by
  rw [Sys2Proof.Machine.segment, List.drop_append, List.drop_of_length_le (by rwa [natLe_length]), natLe_length]
  rfl

theorem segment_here (n v : Nat) (rest : List Byte) : segment (natLe n v ++ rest) 0 n = natLe n v := by
  rw [Sys2Proof.Machine.segment, List.drop_zero, List.take_append_of_le_length (Nat.le_of_eq (natLe_length n v).symm),
    List.take_of_length_le (Nat.le_of_eq (natLe_length n v))]

theorem segment_last (n v : Nat) : segment (natLe n v) 0 n = natLe n v := by
  rw [Sys2Proof.Machine.segment, List.drop_zero, List.take_of_length_le (Nat.le_of_eq (natLe_length n v))]

/-! ### The fields of a frame -/

/-- The FLAGS byte of a frame. -/
def flagsOf (e : Env) (t : Trap) : Nat :=
  bitAt t.resumeNext 0 + bitAt (if t.cls = .emul then e.ext else none).isSome 1 + bitAt t.va.isSome 2 + bitAt t.copy 3 +
    bitAt t.cpys 4

/-- The EXT word that a frame of an EMUL names. -/
def extOf (e : Env) (t : Trap) : Nat :=
  match if t.cls = .emul then e.ext else none with
  | some x => (0x03#8 ++ x).toNat
  | none => 0

/-- The address that a frame names. -/
def vaOf (t : Trap) : Nat := match t.va with | some a => a.toNat | none => 0

theorem frame_eq (e : Env) (t : Trap) (time : BitVec 64) : e.frame t time =
    natLe 9 (e.named t).1.toNat ++ (natLe 1 t.cls.code ++ (natLe 1 (flagsOf e t) ++ (natLe 1 t.detail ++
    (natLe 4 ((e.h.groupSlices e.g.id).foldl (fun a n => a + 2 ^ n) 0) ++ (natLe 16 t.lanes.toNat ++
    (natLe 16 e.h.regs.exec.toNat ++ (natLe 4 (e.named t).2.toNat ++ (natLe 4 (extOf e t) ++ (natLe 9 (vaOf t) ++
    (natLe 1 t.key ++ (natLe 2 0 ++ (natLe 4 e.h.regs.xprog.toNat ++ (natLe 8 t.info.toNat ++
    (natLe 4 (e.h.sreg 93).toNat ++ (natLe 4 0 ++ (natLe 8 time.toNat ++ natLe 32 0)))))))))))))))) := by
  simp only [← List.append_assoc]
  rfl

theorem code_lt (c : TrapClass) : c.code < 256 ^ 1 := by cases c <;> decide

theorem flagsOf_lt (e : Env) (t : Trap) : flagsOf e t < 256 ^ 1 := by
  have hbit (b : Bool) (n : Nat) : bitAt b n ≤ 2 ^ n := by cases b <;> simp [bitAt]
  have h0 := hbit t.resumeNext 0
  have h1 := hbit (if t.cls = .emul then e.ext else none).isSome 1
  have h2 := hbit t.va.isSome 2
  have h3 := hbit t.copy 3
  have h4 := hbit t.cpys 4
  rw [flagsOf]
  omega

theorem flagsOf_eq (e : Env) (t : Trap) : flagsOf e t = (if t.resumeNext then 1 else 0) +
    (if t.cls = .emul ∧ e.ext.isSome = true then 2 else 0) + (if t.va.isSome then 4 else 0) + (if t.copy then 8 else 0) +
    (if t.cpys then 16 else 0) := by
  by_cases hc : t.cls = .emul
  · simp only [flagsOf, bitAt, hc, if_true, true_and] <;> rfl
  · simp only [flagsOf, bitAt, hc, if_false, false_and] <;> rfl

theorem extOf_lt (e : Env) (t : Trap) : extOf e t < 256 ^ 4 := by
  unfold extOf
  split
  · exact BitVec.isLt _
  · decide

theorem vaOf_lt (t : Trap) : vaOf t < 256 ^ 9 := by
  unfold vaOf
  split
  · exact BitVec.isLt _
  · decide

theorem foldl_pow_eq (ns : List Nat) (a : Nat) : ns.foldl (fun a n => a + 2 ^ n) a = a + (ns.map fun n => 2 ^ n).sum := by
  induction ns generalizing a with
  | nil => rfl
  | cons n ns ih => rw [List.foldl_cons, ih, List.map_cons, List.sum_cons, Nat.add_assoc]

/-- An EXT word is its opcode above its payload. -/
theorem extWord_toNat (x : BitVec 24) : (0x03#8 ++ x).toNat = 0x03000000 + x.toNat := by
  rw [BitVec.toNat_append, ← Nat.shiftLeft_add_eq_or_of_lt x.isLt]
  rfl

/-- Settles O37: each field is read back from its own bytes. -/
theorem frameBytes : Obligations.FrameBytes := by
  intro e t time
  have hword (x : Word) : x.toNat < 256 ^ 4 := x.isLt
  constructor <;> rw [frame_eq] <;>
    simp only [segment_skip, segment_here, segment_last, Nat.reduceLeDiff, Nat.reduceSub, leNat_natLe,
      List.length_append, natLe_length]
  case named => exact Nat.mod_eq_of_lt (BitVec.isLt _)
  case cls => exact Nat.mod_eq_of_lt (code_lt t.cls)
  case flags => rw [Nat.mod_eq_of_lt (flagsOf_lt e t), flagsOf_eq]
  case slices => exact congrArg (· % 2 ^ 32) ((foldl_pow_eq _ 0).trans (Nat.zero_add _))
  case lanes => exact Nat.mod_eq_of_lt (BitVec.isLt _)
  case exec => exact Nat.mod_eq_of_lt (BitVec.isLt _)
  case word => exact Nat.mod_eq_of_lt (hword _)
  case ext =>
    intro x hc hx
    rw [Nat.mod_eq_of_lt (extOf_lt e t), extOf]
    simp only [hc, hx, if_true]
    exact extWord_toNat x
  case noExt =>
    intro h
    rw [Nat.mod_eq_of_lt (extOf_lt e t), extOf]
    rcases h with h | h
    · rw [if_neg h]
    · simp only [h, ite_self]
  case va =>
    intro a ha
    rw [Nat.mod_eq_of_lt (vaOf_lt t), vaOf, ha]
  case noVa =>
    intro ha
    rw [vaOf, ha]
    rfl
  case xprog => exact Nat.mod_eq_of_lt (hword _)
  case info => exact Nat.mod_eq_of_lt (BitVec.isLt _)
  case oldsp => exact Nat.mod_eq_of_lt (hword _)
  case time => exact Nat.mod_eq_of_lt (BitVec.isLt _)
  case reserved => exact ⟨natLe_zero 2, natLe_zero 4, natLe_zero 32⟩
  -- DETAIL and KEY are their own bytes.
  all_goals rfl

end Sys2Proof.Proofs.TrapFrames

/-!
PROOFS. Waiters that are woken (11_ordering.md R239): a wake ends waits of issue groups and changes nothing else of a hoist; so do the
writes and records that wake.
-/

namespace Sys2Proof.Proofs.Waking

open Sys2Proof Sys2Proof.Machine Sys2Proof.Claims Sys2Proof.Laws Sys2Proof.Proofs.Endings

/-! ### A hoist whose groups have stopped waiting -/

/-- The groups of a hoist changed one by one, each keeping its number, and nothing else of it. -/
def Released (h k : Hoist) : Prop :=
  ∃ f : Group → Group, (∀ g, (f g).id = g.id) ∧ k = { h with regs := { h.regs with groups := h.regs.groups.map f } }

theorem released_refl (h : Hoist) : Released h h := ⟨id, fun _ => rfl, by rw [List.map_id]⟩

theorem released_trans {h k j : Hoist} (a : Released h k) (b : Released k j) : Released h j := by
  obtain ⟨f, hf, rfl⟩ := a
  obtain ⟨g, hg, rfl⟩ := b
  exact ⟨g ∘ f, fun x => (hg _).trans (hf _), by rw [← List.map_map]⟩

theorem released_src {h k : Hoist} (a : Released h k) : k.src = h.src := by
  obtain ⟨f, -, rfl⟩ := a
  rfl

theorem released_sameRegs {h k : Hoist} (a : Released h k) (x : Touched) : SameRegs h k x := by
  obtain ⟨f, -, rfl⟩ := a
  exact { v := fun _ _ => rfl, s := fun _ _ => rfl, p := fun _ _ => rfl, a := fun _ _ => rfl, exec := fun _ => rfl,
          fpx := fun _ => rfl, xprog := fun _ => rfl, slices := fun _ => rfl, counters := fun _ => rfl, dead := rfl, ssig := rfl,
          batch := rfl, depth := rfl, region := rfl, hregion := rfl }

/-- A hoist without a group has nothing to wake. -/
theorem released_of_no_groups {h k : Hoist} (hg : h.regs.groups = []) (a : Released h k) : k = h := by
  obtain ⟨f, -, rfl⟩ := a
  rw [hg, List.map_nil, ← hg]

theorem released_release (h : Hoist) (g : Nat) (p : Wait → Bool) : Released h (h.release g p) := by
  refine ⟨_, fun x => ?_, rfl⟩
  dsimp only
  split
  · split <;> rfl
  · rfl

/-- A change of state that does no more to a hoist than end waits of its groups. -/
def Wakes (s t : State) : Prop := ∀ n h, s.hoist? n = some h → ∃ k, t.hoist? n = some k ∧ Released h k

theorem wakes_of_hoists {s t : State} (h : t.hoists = s.hoists) : Wakes s t := by
  intro n x hx
  refine ⟨x, ?_, released_refl x⟩
  rw [State.hoist?, h]
  exact hx

theorem wakes_refl (s : State) : Wakes s s := wakes_of_hoists rfl

theorem wakes_trans {s t u : State} (a : Wakes s t) (b : Wakes t u) : Wakes s u := by
  intro n h hn
  obtain ⟨k, hk, hr⟩ := a n h hn
  obtain ⟨j, hj, hr'⟩ := b n k hk
  exact ⟨j, hj, released_trans hr hr'⟩

theorem wakes_foldl {α : Type} {f : State → α → State} (hf : ∀ s x, Wakes s (f s x)) (xs : List α) (s : State) :
    Wakes s (xs.foldl f s) := by
  induction xs generalizing s with
  | nil => exact wakes_refl s
  | cons x xs ih => exact wakes_trans (hf s x) (ih (f s x))

theorem wakes_updHoist (s : State) (n : Nat) {f : Hoist → Hoist} (hf : ∀ h, Released h (f h)) : Wakes s (s.updHoist n f) := by
  intro m h hm
  have hsrc (x : Hoist) : (f x).src = x.src := released_src (hf x)
  by_cases hmn : m = n
  · subst hmn
    exact ⟨f h, by rw [hoist?_updHoist hsrc, hm]; rfl, hf h⟩
  · exact ⟨h, by rw [hoist?_updHoist_other hsrc hmn, hm], released_refl h⟩

/-! ### Monitors, writes and records -/

theorem wakes_wakeMonitor (s : State) (m : Monitor) : Wakes s (s.wakeMonitor m) := by
  rw [State.wakeMonitor]
  split
  · exact wakes_updHoist s _ fun h => released_release h _ _
  · exact wakes_of_hoists rfl

theorem wakes_wakeWhere (s : State) (p : Monitor → Bool) : Wakes s (s.wakeWhere p) := by
  rw [State.wakeWhere]
  refine wakes_trans ?_ (wakes_foldl wakes_wakeMonitor _ _)
  exact wakes_of_hoists rfl

theorem wakes_wakeWritten (s : State) (pa n : Nat) : Wakes s (s.wakeWritten pa n) := by
  rw [State.wakeWritten]
  split
  · exact wakes_refl s
  · exact wakes_wakeWhere s _

theorem wakes_writePhys (s : State) (pa : Nat) (bytes : List Byte) : Wakes s (s.writePhys pa bytes) := by
  rw [State.writePhys]
  split
  · exact wakes_refl s
  · refine wakes_trans ?_ (wakes_wakeWritten _ _ _)
    exact wakes_of_hoists rfl

theorem wakes_raiseMsi (s : State) (v : Nat) : Wakes s (s.raiseMsi v) := by
  refine wakes_of_hoists ?_
  rw [State.raiseMsi]
  split
  · rfl
  · split <;> rfl

theorem wakes_ringAppend (s : State) (ring depth : Nat) (rec : List Byte) : Wakes s (s.ringAppend ring depth rec) :=
  wakes_trans (wakes_writePhys _ _ _) (wakes_writePhys _ _ _)

theorem wakes_logEvent (s : State) (cls src : Nat) (ctx : Option Nat) (aux : Nat) (data : List Byte) :
    Wakes s (s.logEvent cls src ctx aux data) := by
  unfold State.logEvent
  dsimp only
  split
  · exact wakes_refl s
  · split
    · exact wakes_trans (wakes_ringAppend s _ _ _) (wakes_raiseMsi _ _)
    · exact wakes_writePhys s _ _

theorem hoists_evalBars (s : State) (id : Nat) : (s.evalBars id).hoists = s.hoists := by
  rw [State.evalBars]
  split
  · simp only [State.evalSpanBar, apply_ite State.hoists, ite_self]
    rfl
  · rfl

/-! ### A line that is read again -/

/-- What the end of a monitor's wait makes of a group. -/
theorem mem_release_monitor {h : Hoist} {n : Nat} {g : Group} (hg : g ∈ (h.release n fun w => w == .monitor).regs.groups) :
    g.wait ≠ .monitor ∨ g ∈ h.regs.groups ∧ g.id ≠ n := by
  obtain ⟨x, hx, rfl⟩ := List.mem_map.1 hg
  dsimp only
  split
  · split
    · exact .inl nofun
    · next hw => exact .inl fun hm => hw (beq_iff_eq.2 hm)
  · next hx' => exact .inr ⟨hx, fun hid => hx' (beq_iff_eq.2 hid)⟩

/-- A group that does not wait for a monitor is not made to. -/
theorem release_not_monitor (h : Hoist) (g' : Nat) {n : Nat}
    (hn : ∀ g ∈ h.regs.groups, g.id = n → g.wait ≠ .monitor) :
    ∀ g ∈ (h.release g' fun w => w == .monitor).regs.groups, g.id = n → g.wait ≠ .monitor :=
  fun g hg hid => (mem_release_monitor hg).elim id fun hm => hn g hm.1 hid

/-- The group whose wait ends no longer waits. -/
theorem release_monitor (h : Hoist) (n : Nat) :
    ∀ g ∈ (h.release n fun w => w == .monitor).regs.groups, g.id = n → g.wait ≠ .monitor :=
  fun _ hg hid => (mem_release_monitor hg).elim id fun hm => absurd hid hm.2

/-- The hoist in a slot has a group of which no one waits for a monitor. -/
def Unwatched (src group : Nat) (s : State) : Prop :=
  ∀ h, s.hoist? src = some h → ∀ g ∈ h.regs.groups, g.id = group → g.wait ≠ .monitor

theorem hoist?_wakeMonitor (s : State) (m : Monitor) (n : Nat) : (s.wakeMonitor m).hoist? n =
    if m.parked = none ∧ m.src = n then (s.hoist? n).map (·.release m.group fun w => w == .monitor) else s.hoist? n := by
  rw [State.wakeMonitor]
  split
  next hp =>
    by_cases hn : m.src = n
    · subst hn
      rw [if_pos ⟨hp, rfl⟩]
      exact hoist?_updHoist fun _ => rfl
    · rw [if_neg fun h => hn h.2]
      exact hoist?_updHoist_other (fun _ => rfl) (Ne.symm hn)
  next hp => rw [hp, if_neg fun h => nomatch h.1]; rfl

theorem unwatched_wakeMonitor {src group : Nat} {s : State} (m : Monitor) (h : Unwatched src group s) :
    Unwatched src group (s.wakeMonitor m) := by
  intro k hk
  rw [hoist?_wakeMonitor] at hk
  split at hk
  · obtain ⟨x, hx, rfl⟩ := Option.map_eq_some_iff.1 hk
    exact release_not_monitor x _ (h x hx)
  · exact h k hk

theorem unwatched_foldl {src group : Nat} (ms : List Monitor) {s : State} (h : Unwatched src group s) :
    Unwatched src group (ms.foldl State.wakeMonitor s) := by
  induction ms generalizing s with
  | nil => exact h
  | cons m ms ih => exact ih (unwatched_wakeMonitor m h)

/-- A monitor of the list wakes its waiter. -/
theorem unwatched_of_mem {ms : List Monitor} {m : Monitor} (hm : m ∈ ms) (hp : m.parked = none) (s : State) :
    Unwatched m.src m.group (ms.foldl State.wakeMonitor s) := by
  induction ms generalizing s with
  | nil => cases hm
  | cons x ms ih =>
    rcases List.mem_cons.1 hm with rfl | hm
    · refine unwatched_foldl ms fun k hk => ?_
      rw [hoist?_wakeMonitor, if_pos ⟨hp, rfl⟩] at hk
      obtain ⟨y, hy, rfl⟩ := Option.map_eq_some_iff.1 hk
      exact release_monitor y _
    · exact ih hm _

/-- A hoist for which no monitor of the list stands is not touched. -/
theorem hoist?_foldl_wakeMonitor {ms : List Monitor} {n : Nat} (h : ∀ m ∈ ms, m.parked ≠ none ∨ m.src ≠ n) (s : State) :
    (ms.foldl State.wakeMonitor s).hoist? n = s.hoist? n := by
  induction ms generalizing s with
  | nil => rfl
  | cons m ms ih =>
    rw [List.foldl_cons, ih fun x hx => h x (List.mem_cons_of_mem m hx), hoist?_wakeMonitor, if_neg]
    rintro ⟨hp, hs⟩
    exact (h m List.mem_cons_self).elim (fun hne => hne hp) fun hne => hne hs

theorem monitors_foldl_wakeMonitor (ms : List Monitor) (s : State) :
    (ms.foldl State.wakeMonitor s).monitors = s.monitors := by
  induction ms generalizing s with
  | nil => rfl
  | cons m ms ih =>
    rw [List.foldl_cons, ih, State.wakeMonitor]
    split <;> rfl

theorem keptFrom_iff (s : State) (m : Monitor) : s.keptFrom m = true ↔ ∃ x ∈ s.holds, x.line = m.pa / 64 ∧
    ¬ (m.parked = none ∧ ∃ h b, s.hoist? m.src = some h ∧ s.block? h.block = some b ∧
      x.holder = if x.wide then b.span else b.id) := by
  have hin (x : ScopeHold) : (m.parked.isNone && match (s.hoist? m.src).bind fun h => s.block? h.block with
      | some b => if x.wide then x.holder == b.span else x.holder == b.id
      | none => false) = true ↔ m.parked = none ∧ ∃ h b, s.hoist? m.src = some h ∧ s.block? h.block = some b ∧
        x.holder = if x.wide then b.span else b.id := by
    rw [Bool.and_eq_true, Option.isNone_iff_eq_none]
    refine and_congr_right fun _ => ?_
    cases hh : s.hoist? m.src with
    | none => simp
    | some h =>
      cases hb : s.block? h.block with
      | none => simp [hb]
      | some b => cases hw : x.wide <;> simp [hb]
  rw [State.keptFrom, Bool.and_eq_true, List.any_eq_true, Bool.not_eq_true', List.isEmpty_eq_false_iff_exists_mem]
  constructor
  · rintro ⟨-, x, hx, hk⟩
    rw [Bool.and_eq_true, beq_iff_eq, Bool.not_eq_true'] at hk
    exact ⟨x, hx, hk.1, fun hout => Bool.false_ne_true (hk.2.symm.trans ((hin x).2 hout))⟩
  · rintro ⟨x, hx, hl, hk⟩
    refine ⟨⟨x, hx⟩, x, hx, ?_⟩
    rw [Bool.and_eq_true, beq_iff_eq, Bool.not_eq_true']
    exact ⟨hl, Bool.eq_false_iff.2 fun hout => hk ((hin x).1 hout)⟩

/-- Settles O52: the line's waiters whose condition holds, that no hold keeps, are the ones woken, one after the other. -/
theorem watchedLineWakes : Obligations.WatchedLineWakes := by
  refine ⟨fun i s line hi => ⟨s.rereadLine line, ?_, mem_wakeWhere s _, monitors_foldl_wakeMonitor _ _, ?_, ?_⟩, keptFrom_iff⟩
  · rcases hi with rfl | rfl <;> rfl
  · intro m hm hl hh hk hp h hsome
    obtain ⟨k, hk', -⟩ := wakes_wakeWhere s _ m.src h hsome
    refine ⟨k, hk', unwatched_of_mem (List.mem_filter.2 ⟨hm, ?_⟩) hp _ k hk'⟩
    simp only [hl, hh, hk, beq_self_eq_true, Bool.not_false, Bool.and_self]
  · intro n h hsome hno
    refine (hoist?_foldl_wakeMonitor (fun m hm => ?_) _).trans hsome
    obtain ⟨hm, hp⟩ := List.mem_filter.1 hm
    simp only [Bool.and_eq_true, beq_iff_eq, Bool.not_eq_true'] at hp
    obtain ⟨⟨hl, hh⟩, hk⟩ := hp
    by_cases hs : m.src = n
    · rcases hno m hm hs with h | h | h | h
      · exact absurd hl h
      · exact absurd hh (by rw [h]; exact Bool.false_ne_true)
      · exact absurd hk (by rw [h]; exact Bool.noConfusion)
      · exact .inl h
    · exact .inr hs

end Sys2Proof.Proofs.Waking

/-!
PROOFS. Trap entry and the double fault (19_faults.md R335–R338).
-/

namespace Sys2Proof.Proofs.TrapEntries

open Sys2Proof Sys2Proof.Machine Sys2Proof.Claims Sys2Proof.Laws Sys2Proof.Proofs.Endings Sys2Proof.Proofs.Waking

/-! ### What settles nothing -/

theorem upToLast_nil {p : Flight → Bool} {fs : List Flight} (h : fs.any p = false) : upToLast p fs = [] := by
  cases fs with
  | nil => rfl
  | cons f fs => rw [upToLast, h, if_neg Bool.false_ne_true]

/-- With no work in flight to wait for, nothing completes. -/
theorem settle_of_none {s : State} {p : Flight → Bool} (h : s.flights.any p = false) : s.settle p = s := by
  rw [State.settle, upToLast_nil h, State.completeList]

theorem settleAccess_of_clear {s : State} {src ctx : Nat} {ranges : List (Int × Int)}
    (h : s.accessBlocked src ctx ranges = false) : s.settleAccess src ctx ranges = s := settle_of_none h

/-! ### Slots and numbers that a change keeps -/

/-- A search by a key finds in a list whose elements keep their keys what has become of what it found. -/
theorem find?_map_key {α : Type} {key : α → Nat} {f : α → α} (hf : ∀ x, key (f x) = key x) (xs : List α) (n : Nat) :
    (xs.map f).find? (key · == n) = (xs.find? (key · == n)).map f := by
  rw [List.find?_map, show ((key · == n) ∘ f) = (key · == n) from funext fun x => congrArg (· == n) (hf x)]

theorem hoist?_of_map {s t : State} {f : Hoist → Hoist} (ht : t.hoists = s.hoists.map f) (hf : ∀ h, (f h).src = h.src) (n : Nat) :
    t.hoist? n = (s.hoist? n).map f := by
  rw [State.hoist?, ht, find?_map_key hf, ← State.hoist?]

theorem block?_updBlock {s : State} {n : Nat} {f : Block → Block} (hf : ∀ b, (f b).id = b.id) {b : Block} (hb : s.block? n = some b) :
    (s.updBlock n f).block? n = some (f b) := by
  have hid : (b.id == n) = true := List.find?_some (p := fun x : Block => x.id == n) hb
  rw [State.block?, State.updBlock, find?_map_key (key := Block.id) (fun x => by split <;> simp [hf]), ← State.block?, hb,
    Option.map_some, if_pos hid]

/-! ### The hoist after a trap entry -/

theorem sreg_setS (h : Hoist) (m : Nat) (v : Word) (n : Nat) :
    (h.setS m v).sreg n = if n = m ∧ m < h.regs.s.length then v else h.sreg n := by
  simp only [Hoist.sreg, Hoist.setS, List.getElem?_set]
  by_cases hnm : m = n
  · subst hnm
    by_cases hm : m < h.regs.s.length
    · simp [hm]
    · simp [hm]
  · simp [hnm, Ne.symm hnm]

theorem slice_of_mem {h : Hoist} {ns : List Nat} {n : Nat} (hn : n ∈ ns) (f : Nat → Slice → Slice) {x : Slice}
    (hx : h.regs.slices[n]? = some x) : (h.updSliceList ns f).regs.slices[n]? = some (f n x) := by
  rw [getElem?_updSliceList, hx, Option.map_some, if_pos (List.contains_iff_mem.2 hn)]

theorem slice_of_not_mem {h : Hoist} {ns : List Nat} {n : Nat} (hn : n ∉ ns) (f : Nat → Slice → Slice) {x : Slice}
    (hx : h.regs.slices[n]? = some x) : (h.updSliceList ns f).regs.slices[n]? = some x := by
  rw [getElem?_updSliceList, hx, Option.map_some, if_neg (mt List.contains_iff_mem.1 hn)]

theorem trapTaken_hoistTrapped (e : Env) (t : Trap) (h : Hoist) : TrapTaken e (e.vector t) h (e.hoistTrapped t h) where
  depth := rfl
  stack hl := (sreg_setS h 93 _ 93).trans (if_pos ⟨rfl, hl⟩)
  exec l hw hl := by
    refine (setExec_bit (h.setS 93 (h.sreg 93 - 128)) _ l hl).trans ?_
    have hw' : decide (l < (h.setS 93 (h.sreg 93 - 128)).width) = true := decide_eq_true hw
    rw [maskOf_bit _ _ _ hl, hw', Bool.true_and, Bool.true_and, Bool.and_comm, Bool.if_true_left, Bool.decide_eq_true]
    rfl
  pcs n x hx := by
    by_cases hn : n ∈ e.h.groupSlices e.g.id
    · exact ⟨_, slice_of_mem hn _ hx, rfl, by rw [if_pos hn]; exact ⟨rfl, rfl⟩⟩
    · exact ⟨x, slice_of_not_mem hn _ hx, rfl, if_neg hn ▸ rfl⟩
  region := rfl
  pad g hg hid := by
    obtain ⟨x, -, rfl⟩ := List.mem_map.1 hg
    by_cases hx : (x.id == e.g.id) = true
    · rw [if_pos hx]
      exact ⟨rfl, rfl, rfl, rfl, rfl⟩
    · rw [if_neg hx] at hid
      exact absurd (beq_iff_eq.2 hid) hx
  holds := rfl
  registers := ⟨rfl, rfl, rfl, rfl, rfl, rfl, fun n hn => (sreg_setS h 93 _ n).trans (if_neg fun h => hn h.1)⟩
  counters := rfl

theorem takeTrap_of_written {e : Env} {t : Trap} {reads : List Word} {u : State} (was : Hoist) (hr : e.h.role = .user)
    (hc : e.cannotEnter t = false) (hw : e.writeFrame t reads = .written u) :
    e.takeTrap t was reads = (u.updHoist e.h.src fun h => (e.hoistTrapped t h).entered e.g.id).spend e.h.src := by
  rw [Env.takeTrap, if_neg (not_not_intro hr), if_neg (Bool.eq_false_iff.1 hc), hw]

/-! ### A frame in a scratchpad window -/

theorem position_eq (h : Hoist) : (h.areg 15).position (h.sreg 93).toInt (-128) = framePosition h := rfl

section
variable {e : Env} {reads : List Word} (hr : e.b.replicated = false)
include hr

theorem follows_of_not_replicated : e.follows = false := by rw [Env.follows, hr, Bool.false_and]

theorem leads_of_not_replicated : e.leads = false := by rw [Env.leads, hr, Bool.false_and]

theorem shareReads_of_not_replicated (s : State) : e.shareReads reads s = s := by
  rw [Env.shareReads, leads_of_not_replicated hr, Bool.false_and, Bool.false_and, if_neg Bool.false_ne_true]

theorem shareTime_of_not_replicated (time : BitVec 64) (s : State) :
    ∃ f : Hoist → Hoist, e.shareTime reads time s = s.updHoist e.h.src f := by
  rw [Env.shareTime, shareReads_of_not_replicated hr, leads_of_not_replicated hr]
  exact ⟨_, rfl⟩

theorem writeFrame_scratch {t : Trap} (hw : (e.h.areg 15).has permW = true)
    (hb : (e.h.areg 15).inBounds e.b.segSize (framePosition e.h) 128 = true) (hs : (e.h.areg 15).has permSCR = true) :
    e.writeFrame t reads = .written (e.shareTime reads e.s.time (e.s.writeScratch e.b.id
      ((e.h.areg 15).base.toNat + framePosition e.h).toNat (e.frame t e.s.time))) := by
  have hb' : (e.h.areg 15).inBounds e.b.segSize ((e.h.areg 15).position (e.h.sreg 93).toInt (-128)) 128 = true := hb
  unfold Env.writeFrame
  simp only [follows_of_not_replicated hr, leads_of_not_replicated hr, hw, hb', hs, Bool.not_true, Bool.or_false, Bool.false_and,
    if_true, if_false, Bool.false_eq_true]
  rfl

end

theorem block?_writeScratch {s : State} {n : Nat} {b : Block} (hb : s.block? n = some b) (off : Nat) (bytes : List Byte) :
    ∃ c, (s.writeScratch n off bytes).block? n = some c ∧ c.scratch = b.scratch.writeBytes off bytes := by
  rw [State.writeScratch]
  exact ⟨_, block?_updBlock (by exact fun _ => rfl) hb, rfl⟩

/-- Settles O36: each part by the model's function that makes it; a scratchpad window puts the frame in the block's segment. -/
theorem trapEntry : Obligations.TrapEntry := by
  refine ⟨fun e t was reads u hr hc hw => takeTrap_of_written was hr hc hw,
    fun h g => ⟨rfl, snapshotAfter_regs h g, snapshotAfter_counters h g⟩, trapTaken_hoistTrapped,
    fun e t ht => by rw [Env.vector, ht], rfl, fun e t reads hr hw hs hb => ⟨_, writeFrame_scratch hr hw hb hs, ?_, ?_⟩⟩
  · obtain ⟨f, hf⟩ := shareTime_of_not_replicated (reads := reads) hr e.s.time
      (e.s.writeScratch e.b.id ((e.h.areg 15).base.toNat + framePosition e.h).toNat (e.frame t e.s.time))
    rw [hf]
    exact ⟨fun _ => rfl, rfl⟩
  · intro b hb
    obtain ⟨f, hf⟩ := shareTime_of_not_replicated (reads := reads) hr e.s.time
      (e.s.writeScratch e.b.id ((e.h.areg 15).base.toNat + framePosition e.h).toNat (e.frame t e.s.time))
    rw [hf]
    exact block?_writeScratch hb _ _

/-! ### The double fault -/

theorem writeFrame_double {e : Env} {t : Trap} {reads : List Word}
    (h : (e.h.areg 15).has permW = false ∨ (e.h.areg 15).inBounds e.b.segSize (framePosition e.h) 128 = false) :
    e.writeFrame t reads = .double := by
  have hb : (!(e.h.areg 15).has permW ||
      !(e.h.areg 15).inBounds e.b.segSize ((e.h.areg 15).position (e.h.sreg 93).toInt (-128)) 128) = true := by
    rcases h with h | h
    · rw [h]; rfl
    · rw [position_eq, h, Bool.not_false, Bool.or_true]
  unfold Env.writeFrame
  dsimp only
  rw [if_pos hb]

theorem writeFrame_pageFault {e : Env} {t : Trap} {reads : List Word} (h : framePageFault e) :
    e.writeFrame t reads = .double := by
  obtain ⟨hs, hr, hc, f, u, hf, -, hst, hfw⟩ := h
  have hc' := settleAccess_of_clear hc
  have hfw' : (f.forward && !e.g.refused) = false := by rcases hfw with h | h <;> simp [h]
  by_cases hw : (!(e.h.areg 15).has permW ||
      !(e.h.areg 15).inBounds e.b.segSize ((e.h.areg 15).position (e.h.sreg 93).toInt (-128)) 128) = true
  · unfold Env.writeFrame
    dsimp only
    rw [if_pos hw]
  · unfold Env.writeFrame
    dsimp only
    rw [if_neg hw]
    rw [if_neg (Bool.eq_false_iff.1 hs), hr, Bool.false_and, if_neg Bool.false_ne_true]
    rw [position_eq, hc', hf]
    dsimp only
    rw [if_neg (Bool.eq_false_iff.1 hst), if_neg (Bool.eq_false_iff.1 hfw')]

theorem cannotEnter_iff (e : Env) (t : Trap) : e.cannotEnter t = true ↔
    (e.h.sreg 93).toNat % 16 ≠ 0 ∨ 15 ≤ e.h.regs.depth ∨ (t.cls = .cfi ∧ ∃ src, e.g.landing = some (3, src)) := by
  rw [Env.cannotEnter, Bool.or_eq_true, Bool.or_eq_true, Bool.and_eq_true, bne_iff_ne, decide_eq_true_iff, beq_iff_eq, or_assoc]
  refine or_congr_right (or_congr_right (and_congr_right fun _ => ?_))
  rcases e.g.landing with _ | ⟨k, src⟩ <;> simp

theorem takeTrap_of_mustDouble {e : Env} {t : Trap} (was : Hoist) (reads : List Word) (hr : e.h.role = .user)
    (h : mustDouble e t) : e.takeTrap t was reads = ({ e with s := e.shareReads reads e.s } : Env).doubleFault t := by
  rw [Env.takeTrap, if_neg (not_not_intro hr)]
  by_cases hc : e.cannotEnter t = true
  · rw [if_pos hc]
  · rw [if_neg hc]
    have hw : e.writeFrame t reads = .double := by
      rw [cannotEnter_iff] at hc
      rcases h with h | h | h | h | h | h
      · exact absurd (.inl h) hc
      · exact absurd (.inr (.inl h)) hc
      · exact absurd (.inr (.inr h)) hc
      · exact writeFrame_double (.inl h)
      · exact writeFrame_double (.inr h)
      · exact writeFrame_pageFault h
    rw [hw]

/-- Values that are forwarded leave a hoist's registers. -/
theorem hoist?_shareReads {e : Env} (reads : List Word) {s : State} {n : Nat} {h : Hoist} (hn : s.hoist? n = some h) :
    ∃ k, (e.shareReads reads s).hoist? n = some k ∧ k.regs = h.regs := by
  rw [Env.shareReads]
  split
  · rw [Env.forward, hoist?_of_map (s := s) rfl (fun x => by split <;> rfl), hn]
    exact ⟨_, rfl, by dsimp only; split <;> rfl⟩
  · exact ⟨h, hn, rfl⟩

theorem exitAll_gone (h : Hoist) : h.exitAll.gone = true := by
  rw [Hoist.gone, List.all_eq_true]
  intro n _
  rw [Hoist.absent, Hoist.exitAll]
  dsimp only
  rw [List.getElem?_map]
  cases h.regs.slices[n]? <;> rfl

theorem src_of_hoist? {s : State} {n : Nat} {h : Hoist} (hn : s.hoist? n = some h) : h.src = n := by
  have := List.find?_some hn
  exact beq_iff_eq.1 this

/-- A lost hoist has exited. -/
theorem hoist?_loseHoist {s : State} {n : Nat} {h : Hoist} (hn : s.hoist? n = some h) (aux : Nat) (named : List Byte) :
    (s.loseHoist n aux named).hoist? n = some h.exitAll := by
  have hput : (s.putHoist h.exitAll).hoist? n = some h.exitAll := by
    have hs := src_of_hoist? hn
    subst hs
    exact hoist?_putHoist (h := h.exitAll) (by rw [show h.exitAll.src = h.src from rfl, hn]; rfl)
  rw [State.loseHoist, hn]
  dsimp only
  rw [State.hoist?, hoists_evalBars, ← State.hoist?]
  obtain ⟨k, hk, hrel⟩ := wakes_logEvent ({ s.putHoist h.exitAll with
    monitors := (s.putHoist h.exitAll).monitors.filter fun m => m.src != n || m.parked.isSome }) 2 n
    ((s.block? h.block).map (·.ctx)) aux named n _ hput
  rwa [released_of_no_groups rfl hrel] at hk

/-- Settles O38: each cause leads to the double fault, after which every slice of the hoist has exited. -/
theorem doubleFault : Obligations.DoubleFault := by
  intro e t was reads hr hh hm
  obtain ⟨k, hk, hregs⟩ := hoist?_shareReads (e := e) reads hh
  refine ⟨k.exitAll, ?_, exitAll_gone k, rfl, rfl, ?_, ?_, ?_⟩
  · rw [takeTrap_of_mustDouble was reads hr hm]
    exact hoist?_loseHoist hk _ _
  · exact congrArg Regs.v (a₁ := k.regs) hregs
  · exact congrArg Regs.s (a₁ := k.regs) hregs
  · exact congrArg Regs.a (a₁ := k.regs) hregs

end Sys2Proof.Proofs.TrapEntries

/-!
PROOFS. Accesses that start (05_control.md R124, 09_memory.md R173, 11_ordering.md R211): checks that pass, and work that nothing
earlier holds back, lead on to the word's effect.
-/

namespace Sys2Proof.Proofs.Accesses

open Sys2Proof Sys2Proof.Machine Sys2Proof.Claims Sys2Proof.Laws Sys2Proof.Proofs.TrapEntries

/-! ### Checks that have passed -/

section
variable {r : Env}

theorem inOrder_of_clear (hh : r.here = true) {ranges : List (Int × Int)} (hc : Clear r ranges) (k : Env → Res) :
    r.inOrder ranges k = k r := by
  simp only [Env.inOrder, show r.s.accessBlocked r.h.src r.c.id ranges = false from hc, hh, Bool.not_true, Bool.false_eq_true,
    if_false]

theorem inOrderAt_of_clear (hh : r.here = true) {acc : List Access} (hc : Clear r (accessRanges acc))
    (ho : r.s.owned (r.who .load) (accessRuns acc) = false) (k : Env → Res) : r.inOrderAt acc k = k r := by
  rw [Env.inOrderAt, inOrder_of_clear hh hc, ho, if_neg Bool.false_ne_true]

theorem reachSpan_of_spans {a : AReg} {need : List Nat} {use : PageUse} {align n : Nat} {pos : Int} {u : State}
    {rs : Option Runs} (h : Spans r a need use align n pos u rs) (k : State → Option Runs → Res) :
    r.reachSpan a need use align n pos k = k u rs := by
  cases h with
  | segment hn ha hs => rw [Env.reachSpan, hn, ha, hs]; rfl
  | memory u rs hn ha hs hf hr => rw [Env.reachSpan, hn, ha, hs, hf, hr]; rfl

theorem checked_of_passes {use : PageUse} {x : Access'} {u : State} {acc : List Access} (h : Passes r use x u acc)
    (k : State → List Access → Res) :
    r.checked use (r.check x.window x.need x.scr use x.perLane x.align x.bytes x.positions) k = k u acc := by
  rw [show r.check x.window x.need x.scr use x.perLane x.align x.bytes x.positions = .pass u acc from h, Env.checked]

theorem ownLines_of_ownsLines (hh : r.here = true) {w : Work} (h : OwnsLines r w) (k : Env → Res) : r.ownLines w k = k r := by
  obtain ⟨hf, ho⟩ := h
  have hany : (r.s.flights.any fun f => (accessRuns f.work.accesses).any fun x =>
      (r.s.unwritten ⟨r.s.nextId, r.h.src, r.g.id, r.b.id, r.c.id, w, []⟩).any (shareLine x)) = false := by
    rw [List.any_eq_false]
    intro f hm
    rw [Bool.not_eq_true, List.any_eq_false]
    intro x hx
    rw [Bool.not_eq_true, List.any_eq_false]
    exact fun y hy => Bool.eq_false_iff.1 (hf f hm x hx y hy)
  simp only [Env.ownLines, hany, hh, ho, Bool.not_true, Bool.false_eq_true, if_false, Bool.or_self]

theorem startLoad_of_clean {k : Counter} {t : Target} {u : State} {acc : List Access} (h : Clean r u acc) :
    r.startLoad k t acc u = .done (launched r k (.load k t acc) u) := by
  have hany : acc.any (u.accessPoisoned r.b.id) = false := List.any_eq_false.2 fun x hx => Bool.eq_false_iff.1 (h x hx)
  rw [Env.startLoad, hany, Bool.not_false, if_pos rfl]
  rfl

theorem startStore_of_not_replicated (hr : r.b.replicated = false) (kind modifier : Nat) (ws : List (Access × List Byte))
    (u : State) : r.startStore kind modifier ws u = .done (launched r .w (.store ws false) u) := by
  rw [Env.startStore, hr, if_neg Bool.false_ne_true]
  rfl

end

/-! ### The fields of a frame in its number -/

theorem leNat_drop (f : List Byte) (o : Nat) : leNat (f.drop o) = leNat f / 256 ^ o := by
  induction o generalizing f with
  | zero => rw [List.drop_zero, Nat.pow_zero, Nat.div_one]
  | succ o ih =>
    cases f with
    | nil => rw [List.drop_nil, leNat, Nat.zero_div]
    | cons b bs =>
      rw [List.drop_succ_cons, ih, leNat, Nat.pow_succ', ← Nat.div_div_eq_div_mul, Nat.add_mul_div_left _ _ (by decide),
        Nat.div_eq_of_lt b.isLt, Nat.zero_add]

theorem leNat_take (f : List Byte) (k : Nat) : leNat (f.take k) = leNat f % 256 ^ k := by
  induction k generalizing f with
  | zero => rw [List.take_zero, leNat, Nat.pow_zero, Nat.mod_one]
  | succ k ih =>
    cases f with
    | nil => rw [List.take_nil, leNat, Nat.zero_mod]
    | cons b bs =>
      rw [List.take_succ_cons, leNat, leNat, ih, Nat.pow_succ', Nat.mod_mul, Nat.add_mul_mod_self_left,
        Nat.mod_eq_of_lt b.isLt, Nat.add_mul_div_left _ _ (by decide), Nat.div_eq_of_lt b.isLt, Nat.zero_add]

/-- A segment of bytes is a field of whole bytes of their number. -/
theorem leNat_segment (f : List Byte) (o k : Nat) : leNat (Sys2Proof.Machine.segment f o k) = leNat f / 256 ^ o % 256 ^ k := by
  rw [Sys2Proof.Machine.segment, leNat_take, leNat_drop]

theorem bitsOf_bytes (f : List Byte) (o k : Nat) : leNat f / 2 ^ (8 * o) % 2 ^ (8 * k) = leNat (Sys2Proof.Machine.segment f o k) := by
  rw [leNat_segment, Nat.pow_mul, Nat.pow_mul]

end Sys2Proof.Proofs.Accesses

/-!
PROOFS. TRET (19_faults.md R339): the frame that it reads, the checks of a frame, and the hoist after it.
-/

namespace Sys2Proof.Proofs.Returns

open Sys2Proof Sys2Proof.Machine Sys2Proof.Claims Sys2Proof.Laws Sys2Proof.Proofs.Endings Sys2Proof.Proofs.ControlFlow
  Sys2Proof.Proofs.TrapFrames Sys2Proof.Proofs.TrapEntries Sys2Proof.Proofs.Accesses

/-! ### The fields of a frame -/

theorem bitsOf_field (f : List Byte) (hi lo o k : Nat) (hlo : lo = 8 * o) (hk : hi + 1 - lo = 8 * k) :
    bitsOf (leNat f) hi lo = leNat (Sys2Proof.Machine.segment f o k) := by
  rw [bitsOf, hk, hlo, bitsOf_bytes]

theorem frameReserved_iff (f : List Byte) : frameReserved f = true ↔ leNat (Sys2Proof.Machine.segment f 10 1) / 32 = 0 ∧
    leNat (Sys2Proof.Machine.segment f 66 2) = 0 ∧ leNat (Sys2Proof.Machine.segment f 84 4) = 0 ∧
    leNat (Sys2Proof.Machine.segment f 96 32) = 0 := by
  have h85 : bitsOf (leNat f) 87 85 = leNat (Sys2Proof.Machine.segment f 10 1) / 32 := by
    rw [leNat_segment, bitsOf]
    generalize leNat f = v
    simp only [Nat.reducePow, Nat.reduceAdd, Nat.reduceSub]
    omega
  rw [frameReserved, h85, bitsOf_field f 543 528 66 2 rfl rfl, bitsOf_field f 703 672 84 4 rfl rfl, bitsOf_field f 1023 768 96 32 rfl rfl]
  simp only [Bool.and_eq_true, beq_iff_eq, and_assoc]

theorem returnable_iff (e : Env) (f : List Byte) : e.returnable f = true ↔ FrameGood e f := by
  have hlow : bitsOf (leNat f) 1 0 = leNat (Sys2Proof.Machine.segment f 0 1) % 4 := by
    rw [leNat_segment, bitsOf]
    generalize leNat f = v
    simp only [Nat.reducePow, Nat.reduceAdd, Nat.reduceSub]
    omega
  rw [Env.returnable, FrameGood, Bool.and_eq_true, Bool.and_eq_true, frameReserved_iff, hlow, bitsOf_field f 127 96 12 4 rfl rfl,
    foldl_pow_eq, Nat.zero_add, beq_iff_eq, beq_iff_eq, and_assoc]

/-- The resume point by the bits that TRET reads. -/
theorem resumePoint_eq (f : List Byte) : (if bitsOf (leNat f) 80 80 = 0 then (BitVec.ofNat 72 (bitsOf (leNat f) 71 0) : VAddr)
      else addPc (BitVec.ofNat 72 (bitsOf (leNat f) 71 0)) (if bitsOf (leNat f) 415 408 = 3 then 8 else 4)) = resumePoint f := by
  have hflag : bitsOf (leNat f) 80 80 = leNat (Sys2Proof.Machine.segment f 10 1) % 2 := by
    rw [leNat_segment, bitsOf]
    generalize leNat f = v
    simp only [Nat.reducePow, Nat.reduceAdd, Nat.reduceSub]
    omega
  rw [hflag, bitsOf_field f 71 0 0 9 rfl rfl, bitsOf_field f 415 408 51 1 rfl rfl, resumePoint]
  split
  · rfl
  · rw [addPc]
    split <;> rfl

/-! ### The hoist after TRET -/

theorem returned_hoistReturned (e : Env) (f : List Byte) (h : Hoist) : Returned e f h (e.hoistReturned f h) where
  depth := rfl
  pcs n x hx := by
    rw [← resumePoint_eq]
    by_cases hn : n ∈ e.h.groupSlices e.g.id
    · exact ⟨_, slice_of_mem hn _ hx, rfl, by rw [if_pos hn]⟩
    · exact ⟨x, slice_of_not_mem hn _ hx, rfl, if_neg hn ▸ rfl⟩
  exec l hw hl := by
    refine (setExec_bit h _ l hl).trans ?_
    have hw' : decide (l < h.width) = true := decide_eq_true hw
    rw [maskOf_bit _ _ _ hl, hw', Bool.true_and, Bool.true_and, Bool.and_comm, bitsOf_field f 383 256 32 16 rfl rfl]
  xprog := congrArg (BitVec.ofNat 32) (bitsOf_field f 575 544 68 4 rfl rfl)
  stack hl := by
    refine (sreg_setS _ 93 _ 93).trans ((if_pos ⟨rfl, hl⟩).trans ?_)
    exact congrArg (BitVec.ofNat 32) (bitsOf_field f 671 640 80 4 rfl rfl)
  registers := ⟨rfl, rfl, rfl, rfl, rfl, fun n hn => (sreg_setS _ 93 _ n).trans (if_neg fun h => hn h.1)⟩

/-! ### The word -/

theorem position_zero (h : Hoist) :
    (h.areg 15).position (h.sreg 93).toInt 0 = ((h.areg 15).cursor.toNat : Int) + (h.sreg 93).toInt := by
  rw [AReg.position, Int.add_zero]

theorem tret_jumps {s u : State} {e r : Env} {old : List Saved} {rs : Option Runs} {f : List Byte} (hb : Begins .tret s e r old)
    (hc : Clear r ((r.h.areg 15).ranges (((r.h.areg 15).cursor.toNat : Int) + (r.h.sreg 93).toInt) 128))
    (hs : Spans r (r.h.areg 15) [permR] .load 1 128 (((r.h.areg 15).cursor.toNat : Int) + (r.h.sreg 93).toInt) u rs)
    (hf : r.spanBytes (r.h.areg 15) 128 (((r.h.areg 15).cursor.toNat : Int) + (r.h.sreg 93).toInt) rs u = some f)
    (hg : r.returnable f = true) : Jumps .tret s e old (u.updHoist r.h.src (r.hoistReturned f)) :=
  jumps_of_body hb rfl <| by
    dsimp only
    rw [position_zero, inOrder_of_clear (begins_sound hb).here hc, reachSpan_of_spans hs, hf]
    dsimp only
    rw [hg, if_pos rfl]

theorem tret_raises {s u : State} {e r : Env} {old : List Saved} {rs : Option Runs} {f : List Byte} (hb : Begins .tret s e r old)
    (hc : Clear r ((r.h.areg 15).ranges (((r.h.areg 15).cursor.toNat : Int) + (r.h.sreg 93).toInt) 128))
    (hs : Spans r (r.h.areg 15) [permR] .load 1 128 (((r.h.areg 15).cursor.toNat : Int) + (r.h.sreg 93).toInt) u rs)
    (hf : r.spanBytes (r.h.areg 15) 128 (((r.h.areg 15).cursor.toNat : Int) + (r.h.sreg 93).toInt) rs u = some f)
    (hg : r.returnable f = false) : Raises .tret s e old { cls := .illop } u :=
  raises_of_body hb rfl <| by
    dsimp only
    rw [position_zero, inOrder_of_clear (begins_sound hb).here hc, reachSpan_of_spans hs, hf]
    dsimp only
    rw [hg, if_neg Bool.false_ne_true]

/-- Settles O39: the word reads its frame, whose fields are bits of one number. -/
theorem returnWords : Obligations.ReturnWords := by
  refine ⟨?_, fun s e r old u rs f hb hc hs hf hg => tret_raises hb hc hs hf hg, fun e f _ => returnable_iff e f,
    fun e f h _ => returned_hoistReturned e f h⟩
  rintro s e r old _ ⟨u, rs, f, hc, hs, hf, hg⟩ hb
  exact tret_jumps hb hc hs hf hg

end Sys2Proof.Proofs.Returns

/-!
PROOFS. A write of the die order (11_ordering.md R210, 21_reliability.md R358): its bytes are read back, others and the poison of
sectors not written whole stay.
-/

namespace Sys2Proof.Proofs.Writes

open Sys2Proof Sys2Proof.Machine Sys2Proof.Claims Sys2Proof.Laws

theorem poison_wakeMonitor (s : State) (m : Monitor) : (s.wakeMonitor m).poison = s.poison := by
  rw [State.wakeMonitor]
  split <;> rfl

theorem poison_foldl_wakeMonitor (ms : List Monitor) (s : State) : (ms.foldl State.wakeMonitor s).poison = s.poison := by
  induction ms generalizing s with
  | nil => rfl
  | cons m ms ih => rw [List.foldl_cons, ih, poison_wakeMonitor]

theorem poison_wakeWritten (s : State) (pa n : Nat) : (s.wakeWritten pa n).poison = s.poison := by
  rw [State.wakeWritten]
  split
  · rfl
  · exact poison_foldl_wakeMonitor _ _

section
variable {s : State} {pa : Nat} (hu : s.unlinked pa = false)
include hu

theorem mem_writePhys (bytes : List Byte) : (s.writePhys pa bytes).mem = s.mem.writeBytes pa bytes := by
  rw [State.writePhys, hu, if_neg Bool.false_ne_true, mem_wakeWritten]

theorem poison_writePhys (bytes : List Byte) :
    (s.writePhys pa bytes).poison = s.poison.filter fun k => !wholeSector pa bytes.length k := by
  rw [State.writePhys, hu, if_neg Bool.false_ne_true, poison_wakeWritten]

end

/-- Settles O58: wakes touch neither memory nor poison, so a write is the memory's own. -/
theorem writesAreRead : Obligations.WritesAreRead := by
  intro s pa bytes hc hu
  refine ⟨?_, fun x hx => ?_, canonical_writePhys hc, fun k => ?_⟩
  · rw [mem_writePhys hu]
    exact readBytes_writeBytes hc
  · rw [mem_writePhys hu]
    exact read_writeBytes_other hc hx
  · rw [poison_writePhys hu, List.mem_filter, Bool.not_eq_true', wholeSector, Bool.and_eq_false_iff, decide_eq_false_iff_not,
      decide_eq_false_iff_not, ← Classical.not_and_iff_not_or_not]

end Sys2Proof.Proofs.Writes

/-!
PROOFS. Resets (27_host.md R441): what each kind keeps and clears.
-/

namespace Sys2Proof.Proofs.Resetting

open Sys2Proof Sys2Proof.Machine Sys2Proof.Claims Sys2Proof.Laws

/-- A memory of which only some addresses are kept reads zero at the others. -/
theorem read_filter {m : Memory} {lo : Nat} (h : m.wfFrom lo = true) (q : Nat → Bool) (a : Nat) :
    Memory.read (m.filter fun c => q c.1) a = if q a then m.read a else 0 := by
  induction m generalizing lo with
  | nil => exact (ite_self _).symm
  | cons c m ih =>
    obtain ⟨k, b⟩ := c
    obtain ⟨-, hm⟩ := Bool.and_eq_true_iff.1 (show (_ && Memory.wfFrom (k + 1) m) = true from h)
    by_cases hq : q k = true
    · rw [List.filter_cons_of_pos (p := fun c : Host.Cell => q c.1) hq, Memory.read, Memory.read, ih hm]
      by_cases hk : k = a
      · subst hk
        simp only [hq, if_true]
      · simp only [hk, if_false]
        split <;> split <;> rfl
    · rw [List.filter_cons_of_neg (p := fun c : Host.Cell => q c.1) hq, Memory.read]
      rcases Nat.lt_trichotomy a k with hlt | rfl | hgt
      · rw [read_below (wfFrom_filter _ hm) (Nat.lt_succ_of_lt hlt), if_pos hlt, ite_self]
      · rw [read_below (wfFrom_filter _ hm) (Nat.lt_succ_self a), if_neg hq]
      · rw [ih hm, if_neg (Nat.not_lt_of_gt hgt), if_neg (Nat.ne_of_lt hgt)]

theorem functionReset_functionReset (s : State) : FunctionReset s s.functionReset :=
  ⟨rfl, rfl, rfl, ⟨rfl, rfl, rfl, rfl, rfl, rfl, rfl, rfl, rfl, rfl⟩, ⟨rfl, rfl, rfl, rfl, rfl, rfl⟩, rfl, ⟨rfl, rfl⟩⟩

theorem coldReset_cold {s : State} (hc : Canonical s) (powered : Bool) : ColdReset s (s.cold powered) where
  die := rfl
  mem a ha := (read_filter hc (fun a => !homedHere s.die a) a).trans (by rw [ha]; rfl)
  other a ha := (read_filter hc (fun a => !homedHere s.die a) a).trans (by rw [ha]; rfl)
  time := rfl
  clean := ⟨rfl, rfl, rfl, rfl, rfl, rfl, rfl, rfl, rfl, rfl, rfl⟩
  host := ⟨rfl, rfl, rfl⟩
  link := rfl

/-- Settles O51: the three resets of the function are one, and so are a cold reset and the two ways in which power goes. -/
theorem resets : Obligations.Resets := by
  refine ⟨fun i s hi => ⟨s.functionReset, ?_, functionReset_functionReset s⟩, fun i s hi hc => ?_⟩
  · rcases hi with rfl | rfl | rfl <;> exact rfl
  · rcases hi with rfl | rfl | rfl
    · exact ⟨_, rfl, coldReset_cold hc true⟩
    · exact ⟨_, rfl, coldReset_cold hc false⟩
    · exact ⟨_, rfl, coldReset_cold hc false⟩

end Sys2Proof.Proofs.Resetting

/-!
PROOFS. Nothing stops the machine (19_faults.md R341, 01_machine.md R17): every event answers, a word answers where it issues, and a
fetch leaves the group that it is for.
-/

namespace Sys2Proof.Proofs.Progress

open Sys2Proof Sys2Proof.Machine Sys2Proof.Claims Sys2Proof.Laws Sys2Proof.Proofs.Endings Sys2Proof.Proofs.Starting
  Sys2Proof.Proofs.Waking Sys2Proof.Proofs.TrapEntries Sys2Proof.Proofs.Encoding

/-! ### What an instruction answers -/

theorem event_answers {i : Instr} (h : encode i = none) (s : State) : ∃ t, exec i s = .next t := by
  cases i with
  | joinDecrement | hoistRetire | regangMerge | vregrpComplete | loadDataReturn | writePerformed | copyComplete
  | slotRelease | slotFillComplete | passComplete | slotStoreComplete | blockKill | traceComplete | beamComplete
  | hitrdComplete | tileOrderOperation | translationRequest | gridReady | gridEnd | releaseVote | ensignEvaluation
  | preemptSave | quiesce | commitMarker | blockPark | copyFail | passGrant | fragmentPush | atomicServiceRequest
  | lineMigrate | copyByteArrival | hostLineReread | codebookReload | coremaskCommit | hoistLost | admissionHold
  | lateArrival | pseudoChannelFailing | interleaveRebuild | pushDmwr | pushPosted | activate | refresh | destroy
  | resolveRetry | resolveRefuse | expansionCommand | expansionDone | enable | registerWrite | hostAccess | hostSnoop
  | ckptGo | perstDeassert | configSpaceReady | bar0Ready | functionLevelReset | hotReset | upstreamLinkDown | d3hotEntry
  | d3coldEntry | clusterClockGate | clockStepDown | throttleEnd | thermtrip | hello | timesync | migrate | migack
  | returnCtx | retdone | homereq | homedone | ckmark | applied | halyardReservedMessage | checkpointPeriod | flitTimeout
  | linkLoss | clockStepUp => exact ⟨_, rfl⟩
  | _ => exact nomatch h

theorem runIllegal_answers {w : BitVec 32} {s : State} (h : (issuer w s).isSome) : ∃ t, runIllegal w s = .next t := by
  obtain ⟨e, he⟩ := Option.isSome_iff_exists.1 h
  rw [runIllegal, he]
  exact ⟨_, rfl⟩

/-- A word answers where a group issues. -/
theorem word_answers {i : Instr} {w : BitVec 32} (hw : encode i = some w) {s : State} (h : (issuer w s).isSome) :
    ∃ t, exec i s = .next t := by
  have hget : (encode i).getD 0 = w := by rw [hw, Option.getD_some]
  rcases exec_cases i with hnone | ⟨body, hbody⟩ | ⟨x, rfl⟩ | ⟨op, x, rfl⟩
  · rw [hnone] at hw
    cases hw
  · obtain ⟨e, he⟩ := Option.isSome_iff_exists.1 h
    rw [hbody, runWord, hget, he]
    exact ⟨_, rfl⟩
  · obtain ⟨e, he⟩ := Option.isSome_iff_exists.1 h
    rw [show exec (.ext x) s = execExt x s from rfl, execExt, hget, he]
    dsimp only
    split <;> exact ⟨_, rfl⟩
  · rw [show exec (.reservedOpcode op x) s = runIllegal ((encode (.reservedOpcode op x)).getD 0) s from rfl, hget]
    exact runIllegal_answers h

theorem word_without_group {i : Instr} {w : BitVec 32} (hw : encode i = some w) {s : State} (h : issuer w s = none) :
    exec i s = .fault .noIssuingGroup := by
  have hget : (encode i).getD 0 = w := by rw [hw, Option.getD_some]
  rcases exec_cases i with hnone | ⟨body, hbody⟩ | ⟨x, rfl⟩ | ⟨op, x, rfl⟩
  · rw [hnone] at hw
    cases hw
  · rw [hbody, runWord, hget, h]
  · rw [show exec (.ext x) s = execExt x s from rfl, execExt, hget, h]
  · rw [show exec (.reservedOpcode op x) s = runIllegal ((encode (.reservedOpcode op x)).getD 0) s from rfl, hget, runIllegal, h]

theorem exec_answers (i : Instr) (s : State) : (∃ t, exec i s = .next t) ∨
    (exec i s = .fault .noIssuingGroup ∧ issuer ((encode i).getD 0) s = none ∧ (encode i).isSome = true) := by
  cases hw : encode i with
  | none => exact .inl (event_answers hw s)
  | some w =>
    cases he : issuer w s with
    | none => exact .inr ⟨word_without_group hw he, he, rfl⟩
    | some e => exact .inl (word_answers hw (by rw [he]; rfl))

/-! ### A fetch leaves its group -/

/-- A change of state that leaves the group that issues, and at most wakes hoists. -/
def Fetched (s t : State) : Prop := Wakes s t ∧ t.cur = s.cur

theorem fetched_of_fields {s t : State} (hh : t.hoists = s.hoists) (hc : t.cur = s.cur) : Fetched s t := ⟨wakes_of_hoists hh, hc⟩

theorem cur_foldl_wakeMonitor (ms : List Monitor) (s : State) : (ms.foldl State.wakeMonitor s).cur = s.cur := by
  induction ms generalizing s with
  | nil => rfl
  | cons m ms ih =>
    rw [List.foldl_cons, ih, State.wakeMonitor]
    split <;> rfl

theorem cur_writePhys (s : State) (pa : Nat) (bytes : List Byte) : (s.writePhys pa bytes).cur = s.cur := by
  rw [State.writePhys]
  split
  · rfl
  · rw [State.wakeWritten]
    split
    · rfl
    · exact cur_foldl_wakeMonitor _ _

theorem fetched_writePhys (s : State) (pa : Nat) (bytes : List Byte) : Fetched s (s.writePhys pa bytes) :=
  ⟨wakes_writePhys s pa bytes, cur_writePhys s pa bytes⟩

theorem fetched_refl (s : State) : Fetched s s := fetched_of_fields rfl rfl

theorem fetched_trans {s t u : State} (a : Fetched s t) (b : Fetched t u) : Fetched s u :=
  ⟨wakes_trans a.1 b.1, b.2.trans a.2⟩

theorem fetched_translate (s : State) (core : Nat) (c : Ctx) (va : Nat) : Fetched s (s.translate core c va).2 := by
  rw [State.translate]
  split
  · exact fetched_refl s
  · split
    · exact fetched_refl s
    · split
      · exact fetched_refl s
      · dsimp only
        split
        · exact fetched_of_fields rfl rfl
        · exact fetched_trans (fetched_writePhys s _ _) (fetched_of_fields rfl rfl)

theorem fetched_tsuordWants (s : State) (c : Ctx) (m : Mirror) (page : BitVec 56) : Fetched s (s.tsuordWants c m page) := by
  rw [State.tsuordWants]
  dsimp only
  split
  · exact fetched_refl s
  · split <;> exact fetched_of_fields rfl rfl

theorem fetched_companionWants (s : State) (ctx : Nat) (page : BitVec 56) : Fetched s (s.companionWants ctx page) := by
  rw [State.companionWants]
  split
  · exact fetched_refl s
  · exact fetched_of_fields rfl rfl

theorem fetched_askHome {s t : State} {c : Ctx} {va : VAddr} {pa : Nat} {use : PageUse} {b : Bool}
    (h : s.askHome c va pa use = some (b, t)) : Fetched s t := by
  unfold State.askHome at h
  dsimp only at h
  split at h
  · split at h
    · cases h
    · split at h
      · cases h
        exact fetched_tsuordWants _ _ _ _
      · cases h
  · split at h
    · split at h
      · cases h
        exact fetched_companionWants _ _ _
      · cases h
    · cases h

theorem fetched_reach (s : State) (core : Nat) (c : Ctx) (va : VAddr) (use : PageUse) (r : Rights) :
    Fetched s (s.reach core c va use r).2 := by
  have ht := fetched_translate s core c va.toNat
  rw [State.reach]
  split
  next heq => rw [heq] at ht; exact ht
  next heq => rw [heq] at ht; exact ht
  next u heq =>
    rw [heq] at ht
    split
    · exact ht
    · split
      next ha => exact fetched_trans ht (fetched_askHome ha)
      next ha => exact fetched_trans ht (fetched_askHome ha)
      · exact ht

theorem codeLine_state (e : Env) (va : VAddr) (pa : Nat) (s : State) :
    ∃ f : Hoist → Hoist, (∀ h, (f h).src = h.src ∧ (f h).regs = h.regs) ∧
      ((e.codeLine va pa s).2 = s ∨ (e.codeLine va pa s).2 = s.updHoist e.h.src f) := by
  rw [Env.codeLine]
  dsimp only
  split
  · exact ⟨id, fun _ => ⟨rfl, rfl⟩, .inl rfl⟩
  · refine ⟨_, ?_, .inr rfl⟩
    exact fun _ => ⟨rfl, rfl⟩

/-- The slots that stand for a group: its hoist, the group and a slice of it. -/
theorem issuer_isSome_iff (w : BitVec 32) (s : State) : (issuer w s).isSome = true ↔
    ∃ h g, s.hoist? s.cur.1 = some h ∧ h.group? s.cur.2 = some g ∧ h.groupSlices g.id ≠ [] := by
  rw [issuer]
  cases hh : s.hoist? s.cur.1 with
  | none => simp
  | some h =>
    cases hg : h.group? s.cur.2 with
    | none => simp [hg]
    | some g => by_cases hs : h.groupSlices g.id = [] <;> simp [hg, hs]

theorem group?_released {h k : Hoist} (a : Released h k) {n : Nat} {g : Group} (hg : h.group? n = some g) :
    ∃ g', k.group? n = some g' ∧ g'.id = g.id ∧ k.groupSlices g'.id = h.groupSlices g.id := by
  obtain ⟨f, hf, rfl⟩ := a
  refine ⟨f g, ?_, hf g, by rw [hf g]; rfl⟩
  rw [Hoist.group?] at hg ⊢
  rw [find?_map_key hf, hg, Option.map_some]

theorem issues_of_fetched {s t : State} (a : Fetched s t) {w w' : BitVec 32} (h : (issuer w s).isSome = true) :
    (issuer w' t).isSome = true := by
  obtain ⟨h, g, hh, hg, hne⟩ := (issuer_isSome_iff w s).1 h
  obtain ⟨k, hk, hrel⟩ := a.1 _ h hh
  obtain ⟨g', hg', -, hs⟩ := group?_released hrel hg
  rw [issuer_isSome_iff, a.2]
  exact ⟨k, g', hk, hg', by rwa [hs]⟩

theorem issues_of_updHoist {s : State} {n : Nat} {f : Hoist → Hoist} (hf : ∀ h, (f h).src = h.src ∧ (f h).regs = h.regs)
    {w w' : BitVec 32} (h : (issuer w s).isSome = true) : (issuer w' (s.updHoist n f)).isSome = true := by
  obtain ⟨h, g, hh, hg, hne⟩ := (issuer_isSome_iff w s).1 h
  rw [issuer_isSome_iff]
  by_cases hn : s.cur.1 = n
  · refine ⟨f h, g, ?_, ?_, ?_⟩
    · rw [updHoist_cur, hn, hoist?_updHoist fun x => (hf x).1, ← hn, hh, Option.map_some]
    · rwa [updHoist_cur, Hoist.group?, (hf h).2, ← Hoist.group?]
    · rwa [Exits.groupSlices_of_regs (hf h).2]
  · refine ⟨h, g, ?_, hg, hne⟩
    rwa [updHoist_cur, hoist?_updHoist_other (fun x => (hf x).1) hn]

theorem issues_of_fetch {e : Env} {w : BitVec 32} {u : State} (hf : e.fetch = .word w u) {w₀ : BitVec 32}
    (h : (issuer w₀ e.s).isSome = true) (w' : BitVec 32) : (issuer w' u).isSome = true := by
  have hr := fetched_reach e.s (coreOf e.h.src) e.c e.fetchAddr .fetch allRights
  unfold Env.fetch at hf
  dsimp only at hf
  split at hf
  · cases hf
  · split at hf
    · cases hf
    · split at hf
      · cases hf
      · split at hf <;> cases hf
      · next v heq =>
        rw [heq] at hr
        split at hf
        · cases hf
        · split at hf
          · cases hf
          · obtain ⟨f, hf', hs | hs⟩ := codeLine_state e e.fetchAddr _ v
            · injection hf with _ hu
              rw [← hu, hs]
              exact issues_of_fetched hr h
            · injection hf with _ hu
              rw [← hu, hs]
              exact issues_of_updHoist hf' (issues_of_fetched (w' := w₀) hr h)

theorem issuer_state {w : BitVec 32} {s : State} {e : Env} (h : issuer w s = some e) : e.s = s := by
  rw [issuer] at h
  split at h
  · cases h
  · split at h
    · cases h
    · split at h <;> cases h
      rfl

theorem stepWord_answers (src group : Nat) (s : State) : ∃ t, stepWord src group s = .next t := by
  rw [stepWord]
  split
  · exact ⟨s, rfl⟩
  next e he =>
    have hs : e.s = { s.openClock src with cur := (src, group) } := issuer_state he
    split
    · exact ⟨_, rfl⟩
    next w u hf =>
      have hu := issues_of_fetch hf (w₀ := 0) (by rw [hs, he]; rfl)
      split
      next i hd => exact word_answers (encode_decode hd) (hu w)
      · exact runIllegal_answers (hu w)

theorem stepTurn_answers (t : Turn) (s : State) : ∃ u, stepTurn t s = .next u := by
  cases t with
  | event i =>
    rw [stepTurn, stepEvent]
    split
    next h => exact event_answers h s
    · exact ⟨s, rfl⟩
  | push slot data posted => cases posted <;> exact ⟨_, rfl⟩
  | word src g =>
    rw [stepTurn]
    split
    · exact stepWord_answers src g s
    · exact ⟨s, rfl⟩
  | _ => exact ⟨_, rfl⟩

theorem stepDue_answers (d : Due) (s : State) : ∃ u, stepDue d s = .next u := by
  cases d with
  | turn t => exact stepTurn_answers t s
  | _ => exact ⟨_, rfl⟩

/-- Settles O60: a step is a word, a turn or what is due, and each of them answers. -/
theorem stepsGoOn : Obligations.StepsGoOn := by
  refine ⟨fun s => ?_, exec_answers⟩
  rw [step]
  split
  · exact stepWord_answers _ _ s
  · split
    · exact stepTurn_answers _ _
    · exact stepDue_answers _ _

end Sys2Proof.Proofs.Progress

/-!
PROOFS. A step at a word (03_encoding.md R65, R71, 19_faults.md R341): the fetch from a line of code, the decoding, and the execution.
-/

namespace Sys2Proof.Proofs.Fetching

open Sys2Proof Sys2Proof.Machine Sys2Proof.Claims Sys2Proof.Laws Sys2Proof.Proofs.Endings Sys2Proof.Proofs.Starting
  Sys2Proof.Proofs.Progress

/-! ### The step of a word -/

theorem step_of_word {s : State} {src g : Nat} {rest : List Turn} (hm : s.midPair = none)
    (ht : s.takeTurn false s.agenda = some (.word src g, rest)) (hy : State.mayTurn { s with agenda := rest } src g = true) :
    step s = stepWord src g { s with agenda := rest } := by
  rw [step, hm]
  dsimp only
  rw [ht]
  dsimp only
  rw [stepTurn, if_pos hy]

theorem step_of_midPair {s : State} {src g : Nat} (hm : s.midPair = some (src, g)) : step s = stepWord src g s := by
  rw [step, hm]

section
variable {s : State} {src g : Nat} {e : Env} {w : BitVec 32} {u : State}
  (he : issuer 0 { s.openClock src with cur := (src, g) } = some e) (hf : e.fetch = .word w u)
include he hf

theorem stepWord_of_decoded {i : Instr} (hd : decode w = .ok i) : stepWord src g s = exec i u := by
  rw [stepWord, he]
  dsimp only
  rw [hf]
  dsimp only
  rw [hd]

theorem stepWord_of_undecoded {err : DecodeError} (hd : decode w = .error err) : stepWord src g s = runIllegal w u := by
  rw [stepWord, he]
  dsimp only
  rw [hf]
  dsimp only
  rw [hd]

end

theorem runIllegal_of_no_landing {w : BitVec 32} {u : State} {e : Env} (he : issuer w u = some e) (hl : e.g.landing = none) :
    runIllegal w u = .next (e.takeTrap { cls := .illop }) := by
  rw [runIllegal, he]
  dsimp only
  rw [stray_of_no_landing hl, Option.getD_none]

/-! ### The fetch -/

/-- The address of the next word: behind an EXT that has been read, its word's. -/
theorem fetchAddr_eq (e : Env) : e.fetchAddr =
    if e.ext.isSome then e.pc.extractLsb' 32 40 ++ (e.pc.extractLsb' 0 32 + 4) else e.pc := by
  rw [Env.fetchAddr, Env.wordPc]
  cases e.ext <;> rfl

/-- A hoist that holds a line of code, with those of its lines in which a group is. -/
def holdLine (e : Env) (line : Nat) (bytes : List Byte) (h : Hoist) : Hoist :=
  { h with lines := (line, bytes) :: h.lines.filter fun x => e.h.regs.groups.any fun g =>
      (e.h.groupPc g.id).toNat / 64 == x.1 || (addPc (e.h.groupPc g.id) 4).toNat / 64 == x.1 }

section
variable {e : Env} {pa leaf entry : Nat} {u : State} (hm : e.h.rmis = none) (ho : e.g.owed = false)
  (hr : e.s.reach (coreOf e.h.src) e.c e.fetchAddr .fetch allRights = (.ok pa leaf entry, u)) (hp : u.poisoned pa 4 = false)
include hm ho hr hp

/-- With nothing owed and its page there, a fetch reads a word of a line, for which nothing waits. -/
theorem fetch_of_reach (hw : e.codeWaits e.fetchAddr pa u = false) : e.fetch =
    .word (wordOfLine (e.codeLine e.fetchAddr pa u).1 e.fetchAddr) (e.codeLine e.fetchAddr pa u).2 := by
  unfold Env.fetch
  rw [hm]
  dsimp only
  rw [ho, if_neg Bool.false_ne_true, hr]
  dsimp only
  rw [hp, if_neg Bool.false_ne_true, hw, if_neg Bool.false_ne_true]

theorem fetch_of_held_line {line : List Byte}
    (hl : e.h.lines.find? (·.1 == e.fetchAddr.toNat / 64) = some (e.fetchAddr.toNat / 64, line)) :
    e.fetch = .word (BitVec.ofNat 32 (leNat (Sys2Proof.Machine.segment line (e.fetchAddr.toNat % 64) 4))) u := by
  have hany : (e.h.lines.any fun x => x.1 == e.fetchAddr.toNat / 64) = true :=
    List.any_eq_true.2 ⟨_, List.mem_of_find?_eq_some hl, beq_self_eq_true _⟩
  have hline : e.codeLine e.fetchAddr pa u = (line, u) := by
    rw [Env.codeLine]
    dsimp only
    rw [hl]
  rw [fetch_of_reach hm ho hr hp (by rw [Env.codeWaits, hany, Bool.not_true, Bool.false_and]), hline, wordOfLine]

/-- A line that no one waits for and that the hoist does not hold is read from the die order, and held. -/
theorem fetch_of_new_line (hn : ∀ x ∈ e.h.lines, x.1 ≠ e.fetchAddr.toNat / 64)
    (hh : (u.outsideHold (e.who .fetch) (pa / 64)).isSome = false)
    (hw : u.owned (e.who .fetch) [(64 * (pa / 64), 64)] = false) :
    e.fetch = .word (BitVec.ofNat 32 (leNat (Sys2Proof.Machine.segment (u.readMem (64 * (pa / 64)) 64)
      (e.fetchAddr.toNat % 64) 4)))
      (u.updHoist e.h.src (holdLine e (e.fetchAddr.toNat / 64) (u.readMem (64 * (pa / 64)) 64))) := by
  have hfind : e.h.lines.find? (·.1 == e.fetchAddr.toNat / 64) = none :=
    List.find?_eq_none.2 fun x hx h => hn x hx (beq_iff_eq.1 h)
  have hwaits : e.codeWaits e.fetchAddr pa u = false := by rw [Env.codeWaits, hh, hw, Bool.or_self, Bool.and_false]
  have hline : e.codeLine e.fetchAddr pa u = (u.readMem (64 * (pa / 64)) 64,
      u.updHoist e.h.src (holdLine e (e.fetchAddr.toNat / 64) (u.readMem (64 * (pa / 64)) 64))) := by
    rw [Env.codeLine]
    dsimp only
    rw [hfind]
    rfl
  rw [fetch_of_reach hm ho hr hp hwaits, hline, wordOfLine]

end

/-- Settles O59: each part is a branch of the step or of the fetch. -/
theorem stepRunsDecoded : Obligations.StepRunsDecoded := by
  refine ⟨fun _ _ _ _ hm ht hy => step_of_word hm ht hy, fun _ _ _ hm => step_of_midPair hm,
    fun _ _ _ _ _ _ _ he hf hd => stepWord_of_decoded he hf hd, fun _ _ _ _ _ _ _ he hf hd =>
    ⟨stepWord_of_undecoded he hf hd, fun e' he' hl => (stepWord_of_undecoded he hf hd).trans (runIllegal_of_no_landing he' hl)⟩,
    fun e va pa leaf entry u line hm ho hva hr hp hn hh hw hline => ?_, fun e va pa leaf entry u line hm ho hva hr hp hl => ?_⟩
  · obtain rfl := hva.trans (fetchAddr_eq e).symm
    obtain rfl := hline
    refine ⟨_, fetch_of_new_line hm ho hr hp hn hh hw,
      ⟨rfl, rfl, rfl, rfl, rfl, rfl, rfl, rfl, rfl, rfl, rfl, rfl, rfl, rfl, rfl, rfl, rfl, rfl⟩,
      fun h hsome => ⟨holdLine e _ _ h, ?_, sameRegs_of_regs rfl rfl, rfl⟩⟩
    rw [hoist?_updHoist (by exact fun _ => rfl), hsome, Option.map_some]
  · obtain rfl := hva.trans (fetchAddr_eq e).symm
    exact fetch_of_held_line hm ho hr hp hl

end Sys2Proof.Proofs.Fetching

/-!
PROOFS. Loads, stores, pins, flushes, SPILL and FILL (09_memory.md R173–R183): each word through the checks that its effect takes for
granted.
-/

namespace Sys2Proof.Proofs.AccessWords

open Sys2Proof Sys2Proof.Machine Sys2Proof.Claims Sys2Proof.Laws Sys2Proof.Proofs.ControlFlow Sys2Proof.Proofs.TrapEntries
  Sys2Proof.Proofs.Accesses

/-! ### Sizes and positions -/

theorem loadBytes_toNat : ∀ m : BitVec 4, loadBytes m.toNat = loadSize m := by decide

theorem storeBytes_toNat : ∀ m : BitVec 4, storeBytes m.toNat = storeSize m := by decide

theorem groupSize_eq : ∀ m : BitVec 4, groupSize m = moves m := by decide

theorem volatile_toNat : ∀ m : BitVec 4, volatile m.toNat = (m == 10 || m == 11) := by decide

/-! ### Loads and stores -/

section
variable {r : Env} {u : State} {acc : List Access}

/-- A load whose checks have passed goes in flight. -/
theorem load_of_passes {i : Instr} {k : Counter} {t : Target} {a : AReg} {scr : Option Bool} {m : BitVec 4} {reqs : List (Nat × Int)}
    (hp : Passes r .load ⟨a, [permR], scr, t.perLane, loadSize m, loadSize m, reqs⟩ u acc) (hc : Clean r u acc)
    (hv : (m == 10 || m == 11) = true → r.b.replicated = false) :
    r.load i k t a scr m reqs = .done (launched r k (.load k t acc) u) := by
  have hrep : (volatile m.toNat && r.b.replicated) = false := by
    rw [volatile_toNat]
    cases hm : (m == 10 || m == 11) with
    | false => rfl
    | true => rw [hv hm, Bool.and_false]
  rw [Env.load, loadBytes_toNat]
  refine (checked_of_passes hp _).trans ?_
  rw [hrep, if_neg Bool.false_ne_true, startLoad_of_clean hc]

/-- A store whose checks have passed goes in flight with the bytes of its registers. -/
theorem store_of_passes {a : AReg} {scr : Option Bool} {perLane : Bool} {m : BitVec 4} {reqs : List (Nat × Int)}
    (data : Nat → List Byte) (hp : Passes r .store ⟨a, [permW], scr, perLane, storeSize m, storeSize m, reqs⟩ u acc)
    (hr : r.b.replicated = false) :
    r.store a scr perLane m reqs data = .done (launched r .w (.store (acc.map fun y => (y, data y.lane)) false) u) := by
  rw [Env.store, storeBytes_toNat]
  exact (checked_of_passes hp _).trans (startStore_of_not_replicated hr _ _ _ _)

end

theorem load_completes {i : Instr} {s u : State} {e r : Env} {old : List Saved} {k : Counter} {t : Target} {x : Access'} {v : Bool}
    {acc : List Access} (h : Begins i s e r old) (hl : loadOf r i = some (k, t, x, v)) (hp : Passes r .load x u acc)
    (hc : Clean r u acc) (hv : v = true → r.b.replicated = false) : Completes i s e old (launched r k (.load k t acc) u) := by
  cases i with
  | vld d o n m =>
    cases hl
    exact completes_of_body h rfl (load_of_passes (t := .v d.toNat m.toNat) hp hc hv)
  | vlds d o n m =>
    cases hl
    exact completes_of_body h rfl (load_of_passes (t := .v d.toNat m.toNat) hp hc hv)
  | sld d o n m =>
    cases hl
    exact completes_of_body h rfl (load_of_passes (t := .s d.toNat m.toNat) hp hc hv)
  | ald d o n m =>
    cases hl
    exact completes_of_body h rfl ((checked_of_passes hp _).trans (startLoad_of_clean hc))
  | _ => exact nomatch hl

theorem store_completes {i : Instr} {s u : State} {e r : Env} {old : List Saved} {x : Access'} {data : Nat → List Byte}
    {acc : List Access} (h : Begins i s e r old) (hs : storeOf r i = some (x, data)) (hp : Passes r .store x u acc)
    (hr : r.b.replicated = false) :
    Completes i s e old (launched r .w (.store (acc.map fun y => (y, data y.lane)) false) u) := by
  cases i with
  | vst d o n m =>
    cases hs
    refine completes_of_body h rfl ((store_of_passes _ hp hr).trans ?_)
    simp only [Hoist.vbytes, groupSize_eq, storeBytes_toNat]
  | vsts d o n m =>
    cases hs
    refine completes_of_body h rfl ((store_of_passes _ hp hr).trans ?_)
    simp only [Hoist.vbytes, groupSize_eq, storeBytes_toNat]
  | sst d o n m =>
    cases hs
    refine completes_of_body h rfl ((store_of_passes _ hp hr).trans ?_)
    simp only [Hoist.sbytes, groupSize_eq, storeBytes_toNat]
  | ast d o n m =>
    cases hs
    exact completes_of_body h rfl ((checked_of_passes hp _).trans (startStore_of_not_replicated hr _ _ _ _))
  | _ => exact nomatch hs

/-! ### Lines that are named -/

section
variable {r : Env} {u : State} {acc : List Access} {o : BitVec 8} {n m : BitVec 4}

theorem named1_of_passes (hp : Passes r .load ⟨r.h.areg n.toNat, [permR], some false, true, 1, 1,
      lanePositions r (r.h.areg n.toNat) (noOffset m) o.toNat⟩ u acc) (k : State → List Access → Res) : r.named1 o n m k = k u acc :=
  checked_of_passes hp k

end

/-! ### SPILL and FILL -/

theorem spillFill_of_through {r : Env} (hs : Sound r) {f c : Nat} {n : BitVec 4} {store : Bool} {u : State}
    (hl : r.h.groupLanes r.g.id ≠ []) (ha : (r.h.areg n.toNat).has (if store then permW else permR) = true)
    (hb : (r.h.areg n.toNat).inBounds r.b.segSize (spillAt r (r.h.areg n.toNat) 0) (4 * r.h.width * c) = true)
    (hal : ((r.h.areg n.toNat).base.toNat + spillAt r (r.h.areg n.toNat) 0) % 4 = 0)
    (hc : r.s.accessBlocked r.h.src r.c.id (if (r.h.areg n.toNat).has permSCR then [] else
      [((r.h.areg n.toNat).base.toNat + spillAt r (r.h.areg n.toNat) 0,
        (r.h.areg n.toNat).base.toNat + spillAt r (r.h.areg n.toNat) 0 + (4 * r.h.width * c : Nat))]) = false)
    (hr : r.b.replicated = false)
    (ht : spillRegs (r.h.areg n.toNat) f store (c - if r.g.resumed then min c r.h.regs.xprog.toNat else 0)
      (if r.g.resumed then min c r.h.regs.xprog.toNat else 0) (r.at r.s) = .through u) :
    r.spillFill f c n store = .done (u.updHoist r.h.src fun h => h.setXprog 0) := by
  have hset := settle_of_none hc
  have hself : r.at r.s = r := at_self hs
  rw [hself] at ht
  unfold Env.spillFill
  dsimp only
  rw [if_neg hl, ha, hb, hal, Env.settle, hset, hself, hs.here, hc, hr, ht]
  simp only [Bool.not_true, Bool.false_eq_true, if_false, Bool.and_false, Bool.false_and, bne_self_eq_false, Bool.or_self]

/-- Settles O10: each effect by the form of its word. -/
theorem accessWords : Obligations.AccessWords := by
  intro i s e r old u hu h
  cases hu with
  | load i k t x v u acc hl hp hc hv => exact load_completes h hl hp hc hv
  | store i x data u acc hs hp hr => exact store_completes h hs hp hr
  | pin p o n m u acc t hp ht =>
    subst ht
    exact completes_of_body h rfl (named1_of_passes hp _)
  | unpin o n m u acc hp => exact completes_of_body h rfl (named1_of_passes hp _)
  | cflush o n m u acc hp hc hh ho =>
    refine completes_of_body h rfl ((named1_of_passes hp _).trans ((inOrderAt_of_clear hh hc ho _).trans ?_))
    exact (apply_ite Res.done _ _ _).symm
  | spillFill i f c n store a u hi ha hl hw hb hal hc hr ht =>
    subst ha
    rcases hi with ⟨rfl, rfl⟩ | ⟨rfl, rfl⟩
    · exact completes_of_body h rfl (spillFill_of_through (begins_sound h) hl hw hb hal hc hr ht)
    · exact completes_of_body h rfl (spillFill_of_through (begins_sound h) hl hw hb hal hc hr ht)

end Sys2Proof.Proofs.AccessWords

/-!
PROOFS. Copies, batches, barriers, queues and allotments (09_memory.md R185–R209): each word through the checks that its effect takes
for granted.
-/

namespace Sys2Proof.Proofs.UnitWords

open Sys2Proof Sys2Proof.Machine Sys2Proof.Claims Sys2Proof.Laws Sys2Proof.Proofs.ControlFlow Sys2Proof.Proofs.Starting
  Sys2Proof.Proofs.TrapFrames Sys2Proof.Proofs.TrapEntries Sys2Proof.Proofs.Accesses

/-! ### What the units' words share -/

section
variable {r : Env}

theorem src_at (u : State) : (r.at u).h.src = r.h.src := by
  rw [Env.at]
  dsimp only
  cases hu : u.hoist? r.h.src with
  | none => rfl
  | some h => exact TrapEntries.src_of_hoist? hu

theorem group_at (u : State) : (r.at u).g.id = r.g.id := by
  rw [Env.at]
  dsimp only
  generalize (u.hoist? r.h.src).getD _ = h
  cases hg : h.group? r.g.id with
  | none => rfl
  | some g => exact beq_iff_eq.1 (List.find?_some (p := fun x : Group => x.id == r.g.id) hg)

theorem position_zero (a : AReg) (v : Int) : a.position v 0 = a.cursor.toNat + v := by
  rw [AReg.position, Int.add_zero]

theorem withRoom_of_not_replicated (hr : r.b.replicated = false) (n : Nat) (k : Env → Res) : r.withRoom n k = k r := by
  rw [Env.withRoom, Env.bufferFits, hr, Bool.not_false, Bool.true_or, if_pos rfl]

theorem release_of_not_replicated (hr : r.b.replicated = false) (ssig : BitVec 64) (k : Env → Bool → Res) :
    r.release ssig k = k r true := by
  rw [Env.release, hr, Bool.not_false, if_pos rfl]

theorem reportCopies_of_none {covers : Option Nat → Bool} (h : ∀ x ∈ r.h.fails, covers x.batch = false) (k : Env → Res) :
    r.reportCopies covers k = k r := by
  rw [Env.reportCopies, List.find?_eq_none.2 fun x hx => Bool.eq_false_iff.1 (h x hx)]

theorem reportCopies_of_nil (h : r.h.fails = []) (covers : Option Nat → Bool) (k : Env → Res) :
    r.reportCopies covers k = k r :=
  reportCopies_of_none (by rw [h]; exact nofun) k

/-! ### Copies -/

theorem startCopy_of_may (hh : r.here = true) {j : CopyJob} (h : CopyMay r j) : r.startCopy j = .done (copying r j) := by
  obtain ⟨hs, hd, hb, hi, hc, hn, ho⟩ := h
  have hbar : j.bar.filter (fun a => !a.has permATOM && !a.has permSCR) = none := by
    cases hj : j.bar with
    | none => rfl
    | some a => rcases hb a hj with h | h <;> simp [Option.filter, h]
  have hn' : ¬ 64 ≤ (r.s.copiesOf r.h.src).length := Nat.not_le.2 hn
  unfold Env.startCopy
  rw [hs, hd, hbar, hi, hc]
  simp only [Bool.not_true, Bool.false_eq_true, if_false, hn', hh]
  exact ownLines_of_ownsLines hh ho _

theorem bitsOf_low {v : Nat} (hv : v < 32) : bitsOf v 31 5 = 0 ∧ (bitsOf v 4 4 = 1 ↔ 16 ≤ v) ∧ bitsOf v 3 0 = v % 16 := by
  simp only [bitsOf, Nat.reducePow, Nat.reduceAdd, Nat.reduceSub]
  omega

/-! ### Queues -/

/-- The checks of a queue instruction lead on to where its queue lies. -/
theorem queueChecks_of_queueAt (hh : r.here = true) {a : AReg} {w : BitVec 64} {regs : QueueWord → Bool} {need : Bool → List Nat}
    {use : PageUse} {wants : QueueWord → Nat → Nat → List (Nat × Nat)} {e : Env} {p : QueuePlace}
    (hq : QueueAt r a (queueWord w) need use (wants (queueWord w)) e p) (hregs : regs (queueWord w) = true) :
    ∃ va pa, ∀ k : Env → QueueUse → Res, r.queueChecks a w regs need use wants k = k e ⟨queueWord w, p, va, pa⟩ := by
  have hpos : a.position (queueWord w).off 0 = a.cursor.toNat + (queueWord w).off := position_zero a _
  cases hq with
  | segment pos hp hv hs hn ha hc =>
    subst hp
    have hc' : Clear r (a.ranges (a.cursor.toNat + (queueWord w).off) (queueWord w).area) := by
      rw [AReg.ranges, hs, if_pos rfl]
      exact hc
    refine ⟨a.address (a.cursor.toNat + (queueWord w).off), none, fun k => ?_⟩
    unfold Env.queueChecks
    dsimp only
    rw [hpos, hs, hv, hregs, hn, ha, inOrder_of_clear hh hc']
    rfl
  | memory pos p rs u hp hv hs hn ha hc hpl hr hf =>
    subst hp
    subst hpl
    refine ⟨a.address (a.cursor.toNat + (queueWord w).off),
      u.physical (coreOf r.h.src) r.c (a.address (a.cursor.toNat + (queueWord w).off)), fun k => ?_⟩
    unfold Env.queueChecks
    dsimp only
    rw [hpos, hs, hv, hregs, hn, ha, inOrder_of_clear hh hc]
    simp only [Bool.not_true, Bool.false_eq_true, if_false, Bool.or_self]
    rw [hr]
    dsimp only
    rw [hf, if_neg Bool.false_ne_true]

end

section
variable {e : Env} {x : QueueUse} {m : BitVec 4} {lanes : List Nat} {f : Nat} {ssig : BitVec 64}

/-- A push that serves some lane, or need not wait for one. -/
theorem queueDo_push {xs : List (List Byte)} {k : Nat} {t : State} (hp : e.s.queuePush x.place x.q xs = .ok (k, t))
    (hk : m = 1 → k ≠ 0) : e.queueDo x (m == 1) (some xs) lanes f false ssig =
      .done ((t.unregister e.h.src e.g.id).updHoist e.h.src fun h => (h.served f lanes k (x.q.size / 4) []).setSsig ssig) := by
  have hpark : (m == 1 && k == 0) = false := by
    rw [Bool.and_eq_false_imp, beq_iff_eq]
    exact fun hm => beq_false_of_ne (hk hm)
  unfold Env.queueDo
  dsimp only
  rw [hp]
  dsimp only
  rw [hpark, if_neg Bool.false_ne_true]
  rfl

/-- A pop of elements that hold no error. -/
theorem queueDo_pop {xs : List (List Byte)} {t : State} (hp : e.s.queuePop x.place x.q lanes.length = .ok (xs, t))
    (hk : m = 1 → xs ≠ []) (hs : e.s.spoiledLanes x.place x.q lanes xs.length = []) :
    e.queueDo x (m == 1) none lanes f false ssig =
      .done ((t.unregister e.h.src e.g.id).updHoist e.h.src fun h =>
        (h.served f lanes xs.length (x.q.size / 4) (xs.map (elemWords (x.q.size / 4)))).setSsig ssig) := by
  have hpark : (m == 1 && xs.length == 0) = false := by
    rw [Bool.and_eq_false_imp, beq_iff_eq]
    exact fun hm => beq_false_of_ne (mt List.length_eq_zero_iff.1 (hk hm))
  unfold Env.queueDo
  dsimp only
  rw [hp]
  dsimp only
  rw [hpark, if_neg Bool.false_ne_true, hs, ite_self]
  rfl

end

/-! ### The words -/

section
variable {i : Instr} {s : State} {e r : Env} {old : List Saved}

theorem cpy_completes {d src c q : BitVec 4} {b : BitVec 8} {u : State} {rs : Option Runs} {bytes : List Byte}
    (h : Begins (.cpy d src c q b) s e r old)
    (hc : Clear r ((r.h.areg q.toNat).ranges (((r.h.areg q.toNat).cursor.toNat : Int) + (r.sval b).toInt) 256))
    (hs : Spans r (r.h.areg q.toNat) [permR] .load 64 256 (((r.h.areg q.toNat).cursor.toNat : Int) + (r.sval b).toInt) u rs)
    (hb : r.spanBytes (r.h.areg q.toNat) 256 (((r.h.areg q.toNat).cursor.toNat : Int) + (r.sval b).toInt) rs u = some bytes)
    (hbad : copyHeaderBad bytes = false) {j : CopyJob}
    (hj : j = copyOf bytes ((r.at u).h.areg src.toNat) ((r.at u).h.areg d.toNat) ((r.at u).h.areg c.toNat)
      ((r.h.areg q.toNat).address (((r.h.areg q.toNat).cursor.toNat : Int) + (r.sval b).toInt)) (r.at u).h.privileged)
    (hn : j.total * 2 ^ j.esz ≤ 2 ^ 36) (hm : CopyMay (r.at u) j) (hh : (r.at u).here = true) (hr : r.b.replicated = false) :
    Completes (.cpy d src c q b) s e old (copying (r.at u) j) :=
  completes_of_body h rfl <| by
    dsimp only
    rw [position_zero, hr, Bool.false_and, if_neg Bool.false_ne_true, inOrder_of_clear (begins_sound h).here hc,
      reachSpan_of_spans hs, hb]
    dsimp only
    rw [hbad, if_neg Bool.false_ne_true, ← hj, if_neg (Nat.not_lt.2 hn), startCopy_of_may hh hm]

theorem cpys_completes {d src : BitVec 4} {a b : BitVec 8} (h : Begins (.cpys d src a b) s e r old)
    (hlow : (r.sval2 a b).toNat < 32) {j : CopyJob} (hj : j = copyRun (r.sval a).toNat (r.h.areg src.toNat) (r.h.areg d.toNat)
      (if 16 ≤ (r.sval2 a b).toNat then some (r.h.areg ((r.sval2 a b).toNat % 16)) else none) r.w r.h.privileged)
    (hm : CopyMay r j) (hr : r.b.replicated = false) : Completes (.cpys d src a b) s e old (copying r j) :=
  completes_of_body h rfl <| by
    obtain ⟨h31, h4, h3⟩ := bitsOf_low hlow
    dsimp only
    rw [if_neg (by rw [h31, hr]; simp), h3]
    simp only [h4]
    rw [← hj, startCopy_of_may (begins_sound h).here hm]

theorem batch_completes (h : Begins .batch s e r old) : Completes .batch s e old
    ((r.s.closeBatch r.h.src (r.h.regs.batch + 1).toNat).updHoist r.h.src fun h =>
      { h with regs := { h.regs with batch := r.h.regs.batch + 1 } }) :=
  completes_of_body h rfl <| by dsimp only

theorem waitb_completes {a : BitVec 8} (h : Begins (.waitb a) s e r old)
    (hf : ∀ x ∈ r.h.fails, coversBatch (r.sval a).toNat x.batch = false)
    (hc : ∀ f ∈ r.s.flights, coveredCopy r.h.src (r.sval a).toNat f = false) : Completes (.waitb a) s e old r.s :=
  completes_of_body h rfl <| by
    have hany : r.s.flights.any (coveredCopy r.h.src (r.sval a).toNat) = false :=
      List.any_eq_false.2 fun f hm => Bool.eq_false_iff.1 (hc f hm)
    dsimp only
    rw [reportCopies_of_none hf, hany]
    simp only [Bool.false_eq_true, if_false, (begins_sound h).here, Bool.not_true]
    exact (reportCopies_of_none hf _).trans (by rw [hany, if_neg Bool.false_ne_true])

theorem bara_completes {d a b : BitVec 8} {t : Word} (h : Begins (.bara d a b) s e r old) (hn : (r.sval a).toNat ≤ 16)
    (hp : fpxPending r.h.regs.fpx = false) (hf : r.h.fails = []) (hw : NoWork r) (hc : Clear r []) (hr : r.b.replicated = false)
    (ha : (r.b.bar (r.sval a).toNat).arrived &&& r.arrivalBits = 0)
    (ht : r.s.openPhase r.b (r.sval a).toNat = some t ∧ (r.arrivalBits = 0 ∨ t = r.sval2 a b) ∨
      r.s.openPhase r.b (r.sval a).toNat = none ∧ t = r.sval2 a b) :
    Completes (.bara d a b) s e old
      (r.arrive (r.sval a).toNat t (r.s.putHoist (r.h.writeS d (r.b.bar (r.sval a).toNat).phase))) :=
  completes_of_body h rfl <| by
    have hs := begins_sound h
    dsimp only
    rw [if_neg (Nat.not_lt.2 hn), fpxFirst_settled hs hw, hp, if_neg Bool.false_ne_true, reportCopies_of_nil hf,
      release_of_not_replicated hr, inOrder_of_clear hs.here hc, if_neg (not_not_intro ha)]
    rcases ht with ⟨ho, ht⟩ | ⟨ho, rfl⟩
    · rw [ho]
      exact if_neg fun hne => ht.elim hne.1 hne.2
    · rw [ho]

theorem barw_completes {a : BitVec 8} (h : Begins (.barw a) s e r old) (hn : (r.sval a).toNat ≤ 16)
    (hp : fpxPending r.h.regs.fpx = false) (hf : r.h.fails = []) (hw : NoWork r)
    (ha : (r.b.bar (r.sval a).toNat).arrived &&& r.arrivalBits = 0) : Completes (.barw a) s e old r.s :=
  completes_of_body h rfl <| by
    dsimp only
    rw [if_neg (Nat.not_lt.2 hn), fpxFirst_settled (begins_sound h) hw, hp, if_neg Bool.false_ne_true, reportCopies_of_nil hf,
      if_neg (not_not_intro ha)]

theorem bcarr_completes {d a b : BitVec 8} {u : State} {rs : Option Runs} {bytes : List Byte} (h : Begins (.bcarr d a b) s e r old)
    (hc : Clear r ((r.h.areg a.toNat).ranges (r.h.areg a.toNat).cursor.toNat 16))
    (hs : Spans r (r.h.areg a.toNat) (if (r.h.areg a.toNat).has permATOM then [permATOM] else [permSCR, permW]) .atomic 16 16
      (r.h.areg a.toNat).cursor.toNat u rs)
    (hb : r.spanBytes (r.h.areg a.toNat) 16 (r.h.areg a.toNat).cursor.toNat rs u = some bytes)
    (hn : (byteBarOf bytes).expb + (r.sval b).toNat < 2 ^ 48) (hr : r.b.replicated = false) :
    Completes (.bcarr d a b) s e old
      ((r.writeSpan (r.h.areg a.toNat) (r.h.areg a.toNat).cursor.toNat rs ((byteBarOf bytes).arm (r.sval b).toNat).bytes u).updHoist
        r.h.src fun h => h.writeS d (BitVec.ofNat 32 (byteBarOf bytes).phase)) :=
  completes_of_body h rfl <| by
    have hlt : ¬ 2 ^ 48 - 1 < (byteBarOf bytes).expb + (r.sval b).toNat := by omega
    dsimp only
    rw [position_zero, Int.add_zero, inOrder_of_clear (begins_sound h).here hc, reachSpan_of_spans hs, hb]
    dsimp only
    rw [if_neg hlt, withRoom_of_not_replicated hr, Env.armBar]
    exact fun _ _ _ _ hrep => Bool.false_ne_true (hr.symm.trans hrep)

theorem bcwait_completes {a b : BitVec 8} {u : State} {rs : Option Runs} {bytes : List Byte} (h : Begins (.bcwait a b) s e r old)
    (hc : Clear r ((r.h.areg a.toNat).ranges (r.h.areg a.toNat).cursor.toNat 16))
    (hs : Spans r (r.h.areg a.toNat) [permR] .load 16 16 (r.h.areg a.toNat).cursor.toNat u rs) (hf : (r.at u).h.fails = [])
    (hb : (r.at u).spanBytes (r.h.areg a.toNat) 16 (r.h.areg a.toNat).cursor.toNat rs (r.at u).s = some bytes)
    (hp : phasePassed (byteBarOf bytes).phase (r.sval b).toNat = true) :
    Completes (.bcwait a b) s e old (u.unregister r.h.src r.g.id) :=
  completes_of_body h rfl <| by
    dsimp only
    rw [position_zero, Int.add_zero, inOrder_of_clear (begins_sound h).here hc, reachSpan_of_spans hs, reportCopies_of_nil hf, hb]
    dsimp only
    rw [hp, if_pos rfl, src_at, group_at]
    rfl

theorem qpush_completes {f b : BitVec 8} {m n : BitVec 4} {x : Env} {p : QueuePlace} {k : Nat} {t : State}
    (h : Begins (.qpush f m n b) s e r old) (hl : f.toNat + elementWords (queueWord (r.h.spair b.toNat)) ≤ r.vLimit)
    (hq : QueueAt r (r.h.areg n.toNat) (queueWord (r.h.spair b.toNat)) queueNeeds .atomic (fun head tail =>
      (queueWord (r.h.spair b.toNat)).parts tail
        (min (r.h.activeLanes r.g.id).length ((queueWord (r.h.spair b.toNat)).depth - queueCount head tail))) x p)
    (hr : x.b.replicated = false) (hp : x.s.queuePush p (queueWord (r.h.spair b.toNat))
      ((x.h.activeLanes x.g.id).map (x.h.vbytes f.toNat (elementWords (queueWord (r.h.spair b.toNat)))
        (queueWord (r.h.spair b.toNat)).size)) = .ok (k, t)) (hk : m = 1 → k ≠ 0) :
    Completes (.qpush f m n b) s e old ((t.unregister x.h.src x.g.id).updHoist x.h.src fun h =>
      (h.served f.toNat (x.h.activeLanes x.g.id) k (elementWords (queueWord (r.h.spair b.toNat))) []).setSsig x.h.regs.ssig) :=
  completes_of_body h rfl <| by
    obtain ⟨va, pa, hgo⟩ := queueChecks_of_queueAt (begins_sound h).here
      (wants := fun q head tail => q.parts tail (min (r.h.activeLanes r.g.id).length (q.depth - queueCount head tail)))
      (regs := fun q => decide (f.toNat + q.size / 4 ≤ r.vLimit)) hq (decide_eq_true hl)
    refine (hgo _).trans ?_
    dsimp only
    rw [hr, Bool.not_false, Bool.true_or, if_pos rfl, if_pos rfl]
    exact queueDo_push hp hk

theorem qpop_completes {f b : BitVec 8} {m n : BitVec 4} {x : Env} {p : QueuePlace} {xs : List (List Byte)} {t : State}
    (h : Begins (.qpop f m n b) s e r old) (hl : f.toNat + elementWords (queueWord (r.h.spair b.toNat)) ≤ r.vLimit)
    (hq : QueueAt r (r.h.areg n.toNat) (queueWord (r.h.spair b.toNat)) queueNeeds .atomic (fun head tail =>
      (queueWord (r.h.spair b.toNat)).parts head (min (r.h.activeLanes r.g.id).length (queueCount head tail))) x p)
    (hr : x.b.replicated = false)
    (hp : x.s.queuePop p (queueWord (r.h.spair b.toNat)) (x.h.activeLanes x.g.id).length = .ok (xs, t)) (hk : m = 1 → xs ≠ [])
    (hs : x.s.spoiledLanes p (queueWord (r.h.spair b.toNat)) (x.h.activeLanes x.g.id) xs.length = []) :
    Completes (.qpop f m n b) s e old ((t.unregister x.h.src x.g.id).updHoist x.h.src fun h =>
      (h.served f.toNat (x.h.activeLanes x.g.id) xs.length (elementWords (queueWord (r.h.spair b.toNat)))
        (xs.map (elemWords (elementWords (queueWord (r.h.spair b.toNat)))))).setSsig x.h.regs.ssig) :=
  completes_of_body h rfl <| by
    obtain ⟨va, pa, hgo⟩ := queueChecks_of_queueAt (begins_sound h).here
      (wants := fun q head tail => q.parts head (min (r.h.activeLanes r.g.id).length (queueCount head tail)))
      (regs := fun q => decide (f.toNat + q.size / 4 ≤ r.vLimit)) hq (decide_eq_true hl)
    refine (hgo _).trans ?_
    dsimp only
    rw [hr, Bool.not_false, Bool.true_or, if_pos rfl, if_neg Bool.false_ne_true]
    exact queueDo_pop hp hk hs

theorem qcfg_completes {a b : BitVec 8} {x : Env} {p : QueuePlace} {t : State} {ts : Option Runs}
    (h : Begins (.qcfg a b) s e r old)
    (hq : QueueAt r (r.h.areg a.toNat) (queueWord (r.h.spair b.toNat)) (fun _ => [permW]) .store (fun _ _ => [(0, 64)]) x p)
    (hs : Spans x (r.h.areg a.toNat) [permW] .store 64 64
      (((r.h.areg a.toNat).cursor.toNat : Int) + (queueWord (r.h.spair b.toNat)).off) t ts) (hr : x.b.replicated = false) :
    Completes (.qcfg a b) s e old (x.writeSpan (r.h.areg a.toNat)
      (((r.h.areg a.toNat).cursor.toNat : Int) + (queueWord (r.h.spair b.toNat)).off) ts (List.replicate 64 0) t) :=
  completes_of_body h rfl <| by
    obtain ⟨va, pa, hgo⟩ := queueChecks_of_queueAt (begins_sound h).here (wants := fun _ _ _ => [(0, 64)])
      (regs := fun _ => true) hq rfl
    refine (hgo _).trans ?_
    dsimp only
    rw [withRoom_of_not_replicated hr, position_zero, reachSpan_of_spans hs, natLe_zero]

/-! ### Allotments -/

theorem acq_completes_full (h : Begins .acq s e r old) (hf : r.b.full = true) : Completes .acq s e old r.s :=
  completes_of_body h rfl <| by
    dsimp only
    rw [if_pos hf]

theorem acq_completes_takes (h : Begins .acq s e r old) (hf : r.b.full = false)
    (hn : r.b.reserved = true ∨ needFits r.b.core r.b.ctx r.b.entry r.b.pword
      ((r.s.blocksOn r.b.core).filter fun b => b.id != r.b.id) r.b.fullNeed = true) :
    Completes .acq s e old (r.s.grantFull r.b.id) :=
  completes_of_body h rfl <| by
    dsimp only
    rw [if_neg (Bool.eq_false_iff.1 hf), if_pos (Bool.or_eq_true_iff.2 hn)]

theorem rela_completes {x a : BitVec 8} (h : Begins (.rela x a) s e r old) (hf : r.b.full = true) {n : Nat}
    (hn : n = if x = 0 then max 4 ((((r.sval a).toNat + 3) / 4) * 4) else (r.sval a).toNat)
    (hle : n ≤ (match x.toNat with | 0 => r.b.vcnt | 1 => r.b.segSize | _ => r.b.accSize))
    (hw : ∀ f ∈ r.s.flights, relaWaits r.b.id x.toNat f = false) :
    Completes (.rela x a) s e old ((r.s.shrink r.b x.toNat n).roomChanged r.b.core) :=
  completes_of_body h rfl <| by
    have hany : r.s.flights.any (relaWaits r.b.id x.toNat) = false :=
      List.any_eq_false.2 fun f hm => Bool.eq_false_iff.1 (hw f hm)
    have hn' : (if x = 0 then max 4 (roundUp (r.sval a).toNat 4) else (r.sval a).toNat) = n := hn.symm
    have hcur : decide ((match x.toNat with | 0 => r.b.vcnt | 1 => r.b.segSize | _ => r.b.accSize) < n) = false :=
      decide_eq_false (Nat.not_lt.2 hle)
    dsimp only
    rw [hn', hf]
    refine (if_neg (by rw [Bool.not_true, Bool.false_or]; exact Bool.eq_false_iff.1 hcur)).trans ?_
    rw [hany]
    simp only [Bool.false_eq_true, if_false, (begins_sound h).here, Bool.not_true]
    rw [if_neg (Bool.eq_false_iff.1 hany)]

end

/-- Settles O11: each effect by the word that has it. -/
theorem unitWords : Obligations.UnitWords := by
  intro i s e r old u hu h
  cases hu with
  | cpy d src c q b a pos u rs bytes j ha hpos hc hs hb hbad hj hn hm hh hr =>
    subst ha
    subst hpos
    exact cpy_completes h hc hs hb hbad hj hn hm hh hr
  | cpys d src a b j hlow hj hm hr => exact cpys_completes h hlow hj hm hr
  | batch => exact batch_completes h
  | waitb a hf hc => exact waitb_completes h hf hc
  | bara d a b t hn hp hf hw hc hr ha ht => exact bara_completes h hn hp hf hw hc hr ha ht
  | barw a hn hp hf hw ha => exact barw_completes h hn hp hf hw ha
  | bcarr d a b x u rs bytes hx hc hs hb hn hr =>
    subst hx
    exact bcarr_completes h hc hs hb hn hr
  | bcwait a b x u rs bytes hx hc hs hf hb hp =>
    subst hx
    exact bcwait_completes h hc hs hf hb hp
  | qpush f m n b q x p k t hq hl hat hr hp hk =>
    subst hq
    exact qpush_completes h hl hat hr hp hk
  | qpop f m n b q x p xs t hq hl hat hr hp hk hs =>
    subst hq
    exact qpop_completes h hl hat hr hp hk hs
  | qcfg a b y q x p t ts hy hq hat hs hr =>
    subst hy
    subst hq
    exact qcfg_completes h hat hs hr
  | acqFull hf => exact acq_completes_full h hf
  | acqTakes hf hn => exact acq_completes_takes h hf hn
  | rela x a n hf hn hle hw => exact rela_completes h hf hn hle hw

end Sys2Proof.Proofs.UnitWords

/-!
PROOFS. Atomics, releases, acquires, fences and MWAIT (11_ordering.md R216–R238): each word through the checks and waits that its effect
takes for granted.
-/

namespace Sys2Proof.Proofs.OrderWords

open Sys2Proof Sys2Proof.Machine Sys2Proof.Claims Sys2Proof.Laws Sys2Proof.Proofs.ControlFlow Sys2Proof.Proofs.Starting
  Sys2Proof.Proofs.TrapEntries Sys2Proof.Proofs.Accesses Sys2Proof.Proofs.UnitWords

/-! ### Releases and scopes -/

section
variable {e : Env}

theorem releaseAt_of_released {scope : Nat} (h : Claims.Released e scope) (k : Env → Res) (w : Wait) :
    e.releaseAt scope k w = k (e.at (e.s.endHolds e.b scope)) := by
  rw [Env.releaseAt]
  split
  next h3 =>
    obtain ⟨hc, hh, hp, hq⟩ := h h3
    rw [inOrder_of_clear hh hc, if_neg fun hne => hne.elim (absurd hp) (absurd hq)]
  · rfl

theorem scopeLines_of_unshut {scope : Nat} {acc : List Access} (h : Unshut e scope acc) (k : Env → Res) :
    e.scopeLines scope acc k = k (taken e scope acc) := by
  obtain ⟨hh, hw⟩ := h
  have hnew : (e.s.flights.any fun f => (if 2 ≤ scope then [] else
      ((acc.filter (e.mayHold (scope == 1))).map fun x => x.pa / 64).eraseDups).any fun line => e.holdWaits line f) = false := by
    rw [List.any_eq_false]
    intro f hf
    rw [Bool.not_eq_true, List.any_eq_false]
    intro line hl
    split at hl
    · cases hl
    · next hs =>
      obtain ⟨x, hx, rfl⟩ := List.mem_map.1 (List.mem_eraseDups.1 hl)
      obtain ⟨hx, hm⟩ := List.mem_filter.1 hx
      exact Bool.eq_false_iff.1 (hw (Nat.not_le.1 hs) x hx hm f hf)
  unfold Env.scopeLines
  dsimp only
  rw [if_neg (Bool.eq_false_iff.1 hnew), hh, Bool.not_true, if_neg Bool.false_ne_true, hnew, if_neg Bool.false_ne_true, taken]

/-! ### Atomics -/

theorem startAtomic_launched {u : AtomUse} {home : Nat} {acc : List Access} {cmp op : Nat → Nat} (hne : acc ≠ [])
    (hseq : ∀ f ∈ e.s.flights, e.otherSequence home f = true → u.ordered = false)
    (hfull : e.s.serviceFull (e.serviceClusters u.scope (acc.map fun y => ⟨y, cmp y.lane, op y.lane⟩)) = false)
    (hh : e.here = true) (hc : ∀ y ∈ acc, e.s.accessPoisoned e.b.id y = false) :
    e.startAtomic u home (acc.map fun y => ⟨y, cmp y.lane, op y.lane⟩) =
      .done (queued (e.serviceClusters u.scope (acc.map fun y => ⟨y, cmp y.lane, op y.lane⟩))
        (launched e (if u.ret.isSome then .g else .w)
          (.atomic u.cas u.m u.ret (acc.map fun y => ⟨y, cmp y.lane, op y.lane⟩) u.scope u.ordered home) e.s) e.s.nextId) := by
  have hord : (u.ordered && e.s.flights.any (e.otherSequence home)) = false := by
    rw [Bool.and_eq_false_imp]
    intro ho
    rw [List.any_eq_false]
    exact fun f hf hs => Bool.false_ne_true ((hseq f hf hs).symm.trans ho)
  have hbad : (acc.map fun y => (⟨y, cmp y.lane, op y.lane⟩ : AtomLane)).filter
      (fun x => e.s.accessPoisoned e.b.id x.access) = [] := by
    rw [List.filter_eq_nil_iff]
    intro x hx
    obtain ⟨y, hy, rfl⟩ := List.mem_map.1 hx
    exact Bool.eq_false_iff.1 (hc y hy)
  unfold Env.startAtomic
  dsimp only
  simp only [hord, hfull, hh, hbad, Bool.false_eq_true, if_false, Bool.not_true, Bool.or_self, if_true,
    if_neg (mt List.map_eq_nil_iff.1 hne)]
  rfl

end

/-- An atomic word after its checks: the release at its scope, the lines taken by the scope, the operation in flight. -/
theorem atomic_launched {r : Env} {i : Instr} {u : AtomUse} {a : AReg} {perLane : Bool} {reqs : List (Nat × Int)}
    {cmp op : Nat → Nat} {v : State} {acc : List Access} {e : Env} {home : Nat} {cs : List Nat}
    (hord : u.ordered = true → a.has permSCR = false)
    (hp : Passes r .atomic ⟨a, [permATOM], none, perLane, u.n, u.n, reqs⟩ v acc) (hne : acc ≠ [])
    (hr : (r.at v).b.replicated = false) (hrel : Claims.Released (r.at v) ((r.at v).s.releaseScope u.scope acc))
    (hun : Unshut (released r v u.scope acc) u.scope acc) (he : e = taken (released r v u.scope acc) u.scope acc)
    (hhome : home = if u.ordered then e.sequencing a else 0)
    (hseq : ∀ f ∈ e.s.flights, e.otherSequence home f = true → u.ordered = false)
    (hcs : cs = e.serviceClusters u.scope (acc.map fun y => ⟨y, cmp y.lane, op y.lane⟩)) (hfull : e.s.serviceFull cs = false)
    (hh : e.here = true) (hc : ∀ y ∈ acc, e.s.accessPoisoned e.b.id y = false) :
    r.atomic i u a perLane reqs cmp op = .done (queued cs (launched e (if u.ret.isSome then .g else .w)
      (.atomic u.cas u.m u.ret (acc.map fun y => ⟨y, cmp y.lane, op y.lane⟩) u.scope u.ordered home) e.s) e.s.nextId) := by
  have hscr : (u.ordered && a.has permSCR) = false := by
    rw [Bool.and_eq_false_imp]
    exact hord
  subst hcs
  rw [Env.atomic, hscr, if_neg Bool.false_ne_true]
  refine (checked_of_passes hp _).trans ?_
  dsimp only
  rw [hr, Bool.false_and, if_neg Bool.false_ne_true, releaseAt_of_released hrel]
  refine (scopeLines_of_unshut hun _).trans ?_
  rw [← he, ← hhome, startAtomic_launched hne hseq hfull hh hc]

/-! ### Operands -/

theorem acas_compare (h : Hoist) (d : Nat) (m : BitVec 4) : h.voperand d (if m = 1 then 8 else 4) =
    fun l => if m = 1 then (h.vpair d l).toNat else (h.vword d l).toNat := by
  funext l
  split <;> rfl

theorem acas_operand (h : Hoist) (d : Nat) (m : BitVec 4) :
    h.voperand (d + (if m = 1 then 8 else 4) / 4) (if m = 1 then 8 else 4) =
      fun l => if m = 1 then (h.vpair (d + 2) l).toNat else (h.vword (d + 1) l).toNat := by
  funext l
  split <;> rfl

theorem satomBytes_toNat : ∀ m : BitVec 4, satomBytes m.toNat = if m = 13 then 4 else atomBytes m.toNat := by decide

/-- Where the operand of a SATOM begins: behind the compare value in its compare-and-swaps. -/
theorem satom_operand (m : BitVec 4) (d k : Nat) :
    (if (m == 13 || m == 15) = true then d + k / 4 else d) = if m = 13 ∨ m = 15 then d + k / 4 else d := by
  simp only [Bool.or_eq_true, beq_iff_eq]

/-! ### The words -/

/-- MWAIT of a hoist that is not replicated whose every condition holds. -/
theorem mwaitEval_done {e : Env} {t : Target} {cc n : Nat} {d z : Nat} (ht : t = .v d z) {acc : List Access} (hh : e.here = true)
    (hc : ∀ y ∈ acc, e.s.accessPoisoned e.b.id y = false)
    (hk : ∀ y ∈ acc, compareCond cc n (e.h.voperand d n y.lane) (leNat (e.s.readAccess e.h.src e.b.id y)) = true) :
    e.mwaitEval t cc n false acc = .done ((e.s.unregister e.h.src e.g.id).updHoist e.h.src fun h =>
      h.deliver t (acc.map fun y => (y.lane, e.s.readAccess e.h.src e.b.id y))) := by
  have hsplit : e.s.splitPoison e.b.id acc = (acc, []) := by
    rw [State.splitPoison]
    exact Prod.ext (List.filter_eq_self.2 fun y hy => by rw [hc y hy]; rfl)
      (List.filter_eq_nil_iff.2 fun y hy => Bool.eq_false_iff.1 (hc y hy))
  have hfails : acc.filter (fun x => !compareCond cc n (e.h.voperand d n x.lane) (leNat (e.s.readAccess e.h.src e.b.id x))) = [] :=
    List.filter_eq_nil_iff.2 fun y hy => by rw [hk y hy]; exact Bool.false_ne_true
  subst ht
  unfold Env.mwaitEval
  rw [hsplit]
  simp only [if_true, hh, Bool.not_true, Bool.false_eq_true, if_false, hfails, Bool.false_and]
  rfl

/-- Settles O12: each effect by the word that has it. -/
theorem orderWords : Obligations.OrderWords := by
  intro i s e r old t ht h
  cases ht with
  | atomic _ u x cmp op v acc e home cs ha hord hp hne hr hr' hrel hun he hhome hseq hcs hfull hh hc =>
    cases i with
    | atom sc d q y o n m =>
      cases ha
      exact completes_of_body h rfl (atomic_launched hord hp hne hr' hrel hun he hhome hseq hcs hfull hh hc)
    | red sc d q y o n m =>
      cases ha
      exact completes_of_body h rfl (atomic_launched hord hp hne hr' hrel hun he hhome hseq hcs hfull hh hc)
    | acas sc d q y o n m =>
      cases ha
      exact completes_of_body h rfl ((congr (congrArg (r.atomic _ _ _ true _) (acas_compare r.h d.toNat m))
        (acas_operand r.h d.toNat m)).trans (atomic_launched hord hp hne hr' hrel hun he hhome hseq hcs hfull hh hc))
    | satom sc d q y o n m =>
      cases ha
      refine completes_of_body h rfl ?_
      dsimp only
      rw [satomBytes_toNat, satom_operand]
      exact atomic_launched hord hp hne hr' hrel hun he hhome hseq hcs hfull hh hc
    | _ => exact nomatch ha
  | strel sc d x o n m k a v acc e hk ha hp hr hrel hh hun he =>
    subst hk ha
    refine completes_of_body h rfl ((checked_of_passes hp _).trans ?_)
    dsimp only
    rw [hr, if_neg Bool.false_ne_true, releaseAt_of_released hrel]
    refine (scopeLines_of_unshut hun _).trans ?_
    rw [← he]
    rfl
  | ldacq sc d x o n m k a v acc e hk ha hp hun he hc =>
    subst hk ha
    refine completes_of_body h rfl ((checked_of_passes hp _).trans ((scopeLines_of_unshut hun _).trans ?_))
    rw [← he, startLoad_of_clean hc]
  | fenceAcq sc hp hw =>
    refine completes_of_body h rfl ?_
    rw [fpxFirst_settled (begins_sound h) hw, hp, if_neg Bool.false_ne_true, if_pos rfl]
  | fenceRel k sc hk hp hw hr hc hrel =>
    refine completes_of_body h rfl ?_
    rw [fpxFirst_settled (begins_sound h) hw, hp, if_neg Bool.false_ne_true, if_neg hk, release_of_not_replicated hr,
      inOrder_of_clear (begins_sound h).here hc, releaseAt_of_released hrel]
    rfl
  | mwait sc d x o n z c k a v acc e hk ha hp hr hc hh ho hun he hh' hr' hcl hcond =>
    subst hk ha
    refine completes_of_body h rfl ((checked_of_passes hp _).trans ((inOrderAt_of_clear hh hc ho _).trans ?_))
    rw [follows_of_not_replicated hr, if_neg Bool.false_ne_true]
    refine (scopeLines_of_unshut hun _).trans ?_
    rw [← he, leads_of_not_replicated hr', follows_of_not_replicated hr', Bool.false_and, if_neg Bool.false_ne_true,
      mwaitEval_done rfl hh' hcl hcond]

end Sys2Proof.Proofs.OrderWords

/-!
PROOFS. Cube words (15_cube.md R276–R299): slots, passes, promotions, tile elements and the codebook.
-/

namespace Sys2Proof.Proofs.CubeWords

open Sys2Proof Sys2Proof.Machine Sys2Proof.Claims Sys2Proof.Laws Sys2Proof.Proofs.ControlFlow Sys2Proof.Proofs.Accesses
  Sys2Proof.Proofs.UnitWords

/-! ### Fields of operands -/

theorem bitsOf_eq_zero {v hi lo : Nat} (h : v / 2 ^ lo = 0) : bitsOf v hi lo = 0 := by rw [bitsOf, h, Nat.zero_mod]

theorem slotWord_of_lt {w : Word} {n : Nat} (hn : w.toNat = n) (hlt : n < 128) : slotWord w = some n := by
  have h7 : bitsOf w.toNat 31 7 = 0 := bitsOf_eq_zero (by rw [hn]; exact Nat.div_eq_of_lt hlt)
  rw [slotWord, if_pos h7, bitsOf, hn, Nat.pow_zero, Nat.div_one, Nat.mod_eq_of_lt (by exact hlt)]

/-- A single bit as a field. -/
theorem bitsOf_bit (w : Word) (n : Nat) : bitsOf w.toNat n n = 1 ↔ w.getLsbD n = true := by
  rw [bitsOf, Nat.add_sub_cancel_left, Nat.pow_one, BitVec.getLsbD, Nat.testBit_eq_decide_div_mod_eq, decide_eq_true_iff]

/-! ### Slots -/

section
variable {i : Instr} {s : State} {e r : Env} {old : List Saved}

/-- SLCL with no release of its slot under way. -/
theorem slcl_body {d a : BitVec 8} {n : Nat} (hh : r.here = true) (hn : (r.sval a).toNat = n) (hlt : n < 128)
    (hf : ∀ f ∈ r.s.flights, releasing r.b.id n f = false) {u : State}
    (hu : (if (r.b.slot? n).isSome then .done (r.s.putHoist (r.h.writeS d 1))
      else match r.s.freeSlot r.b.core with
        | some p => .done ((r.s.putHoist (r.h.writeS d 1)).updBlock r.b.id fun b => { b with slots := b.slots ++ [⟨n, p, false, []⟩] })
        | none => .done (r.s.putHoist (r.h.writeS d 0))) = Res.done u) (h : Begins (.slcl d a) s e r old) :
    Completes (.slcl d a) s e old u :=
  completes_of_body h rfl <| by
    have hany : r.s.flights.any (releasing r.b.id n) = false := List.any_eq_false.2 fun f hm => Bool.eq_false_iff.1 (hf f hm)
    dsimp only
    rw [slotWord_of_lt hn hlt]
    dsimp only
    rw [if_neg (Bool.eq_false_iff.1 hany), hh, Bool.not_true, if_neg Bool.false_ne_true, hany, if_neg Bool.false_ne_true]
    exact hu

theorem slrl_completes_none {a : BitVec 8} {n : Nat} (h : Begins (.slrl a) s e r old) (hn : (r.sval a).toNat = n) (hlt : n < 128)
    (hc : r.claimed n = false) : Completes (.slrl a) s e old r.s :=
  completes_of_body h rfl <| by
    rw [slotWord_of_lt hn hlt]
    dsimp only
    rw [hc, Bool.not_false, if_pos rfl]

theorem slrl_completes_now {a : BitVec 8} {n : Nat} (h : Begins (.slrl a) s e r old) (hn : (r.sval a).toNat = n) (hlt : n < 128)
    (hc : r.claimed n = true) (hf : ∀ f ∈ r.s.flights, onSlot r.b.id n f = false) :
    Completes (.slrl a) s e old (r.s.updBlock r.b.id fun b => { b with slots := b.slots.filter (·.local_ != n) }) :=
  completes_of_body h rfl <| by
    have hany : r.s.flights.any (onSlot r.b.id n) = false := List.any_eq_false.2 fun f hm => Bool.eq_false_iff.1 (hf f hm)
    rw [slotWord_of_lt hn hlt]
    dsimp only
    rw [hc, Bool.not_true, if_neg Bool.false_ne_true, hany, if_neg Bool.false_ne_true]

theorem slrl_completes_later {a : BitVec 8} {n : Nat} {f : Flight} (h : Begins (.slrl a) s e r old) (hn : (r.sval a).toNat = n)
    (hlt : n < 128) (hc : r.claimed n = true) (hm : f ∈ r.s.flights) (hf : onSlot r.b.id n f = true) :
    Completes (.slrl a) s e old (r.s.addFlight r.h.src r.g.id r.b.id r.c.id (.slotRelease n)) :=
  completes_of_body h rfl <| by
    have hany : r.s.flights.any (onSlot r.b.id n) = true := List.any_eq_true.2 ⟨f, hm, hf⟩
    rw [slotWord_of_lt hn hlt]
    dsimp only
    rw [hc, Bool.not_true, if_neg Bool.false_ne_true, hany, if_pos rfl]

theorem slz_completes {a : BitVec 8} {n : Nat} (h : Begins (.slz a) s e r old) (hn : (r.sval a).toNat = n) (hlt : n < 128)
    (hc : r.claimed n = true) (hf : ∀ f ∈ r.s.flights, onSlot r.b.id n f = false) :
    Completes (.slz a) s e old (r.s.updBlock r.b.id fun b => b.updSlot n fun x => { x with data := [] }) :=
  completes_of_body h rfl <| by
    have hany : r.s.flights.any (onSlot r.b.id n) = false := List.any_eq_false.2 fun f hm => Bool.eq_false_iff.1 (hf f hm)
    dsimp only
    rw [slotWord_of_lt hn hlt]
    dsimp only
    rw [hc, Bool.not_true, if_neg Bool.false_ne_true, if_neg (Bool.eq_false_iff.1 hany), (begins_sound h).here, Bool.not_true,
      if_neg Bool.false_ne_true, hany, if_neg Bool.false_ne_true]

/-- The checks of SLLD and SLST lead on to the slot and its pitch. -/
theorem slotMove_of_claimed {sl b : BitVec 8} {n : BitVec 4} {need slot pitch : Nat} (hp : slotPitch (r.sval sl) = some (slot, pitch))
    (hc : r.claimed slot = true) (hw : (r.h.areg n.toNat).has need = true)
    (hl : linesOk (r.h.areg n.toNat) r.b.segSize (r.sval2 sl b).toInt pitch = true) (k : Nat → Nat → Int → Res) :
    r.slotMove sl n b need k = k slot pitch (r.sval2 sl b).toInt := by
  rw [Env.slotMove, hp]
  dsimp only
  rw [hc, hw, hl]
  rfl

theorem slst_completes {sl b : BitVec 8} {n : BitVec 4} {slot pitch : Nat} (h : Begins (.slst sl n b) s e r old)
    (hp : slotPitch (r.sval sl) = some (slot, pitch)) (hc : r.claimed slot = true)
    (hr : r.b.replicated = true → (r.h.areg n.toNat).has permSCR = true) (hw : (r.h.areg n.toNat).has permW = true)
    (hl : linesOk (r.h.areg n.toNat) r.b.segSize (r.sval2 sl b).toInt pitch = true)
    (ho : OwnsLines r (.slotStore slot (r.h.areg n.toNat) (r.sval2 sl b).toInt pitch r.wordPc)) :
    Completes (.slst sl n b) s e old
      (launched r .w (.slotStore slot (r.h.areg n.toNat) (r.sval2 sl b).toInt pitch r.wordPc) r.s) :=
  completes_of_body h rfl <| by
    have hscr : (r.b.replicated && !(r.h.areg n.toNat).has permSCR) = false := by
      rw [Bool.and_eq_false_imp]
      intro hrep
      rw [hr hrep]
      rfl
    rw [hscr, if_neg Bool.false_ne_true, slotMove_of_claimed hp hc hw hl, ownLines_of_ownsLines (begins_sound h).here ho]
    rfl

/-! ### Passes -/

theorem mxc_completes {t p f : BitVec 8} {w : PassWord} {off kp : Nat} {block : List Byte} {u : State}
    (h : Begins (.mxc t p f) s e r old) (hw : w = passWord (r.sval2 t p)) (hoff : off = (r.svalAfter [t.toNat, p.toNat] f).toNat)
    (hres : w.resOk = true) (ha : r.claimed w.as = true) (hb : r.claimed w.bs = true) (hcs : w.mode = 0 ∨ r.claimed w.cs = true)
    (ht : (r.sval t).toNat < r.b.tileCount) (hal : off % 64 = 0) (hseg : off + 64 ≤ r.b.segSize) (hc : Clear r [])
    (hp : r.s.accessPoisoned r.b.id ⟨0, true, 0, off, 64⟩ = false)
    (hblock : block = r.s.readAccess r.h.src r.b.id ⟨0, true, 0, off, 64⟩)
    (hkp : kp = (if r.b.cubecfg.getLsbD 8 then 1 else 2) * (cubeTk (fmtDesc block 0).fmt).getD 0)
    (hl : formatsLegal block w kp r.claimed = true)
    (hs : ∀ k, k < 2 → (fmtDesc block k).scl = true → (fmtDesc block k).soff + scaleBytes (fmtDesc block k) kp ≤ r.b.segSize)
    (hn : (r.s.reservations (clusterOf r.h.src)).length < 64) (hu : u = r.s.reloadTable r.b.id) :
    Completes (.mxc t p f) s e old (launched r .x (.pass (r.passJob (r.sval t).toNat w block kp u)) u) :=
  completes_of_body h rfl <| by
    have hcs' : (w.mode == 0 || r.claimed w.cs) = true := by
      rcases hcs with h | h <;> simp [h]
    have hbound : (decide (r.b.tileCount ≤ (r.sval t).toNat) || off % 64 != 0 || decide (r.b.segSize < off + 64)) = false := by
      rw [decide_eq_false (Nat.not_le.2 ht), hal, decide_eq_false (Nat.not_lt.2 hseg)]
      rfl
    have hfits (k : Nat) (hk : k < 2) :
        (!(fmtDesc block k).scl || decide ((fmtDesc block k).soff + scaleBytes (fmtDesc block k) kp ≤ r.b.segSize)) = true := by
      cases hscl : (fmtDesc block k).scl with
      | false => rfl
      | true => exact decide_eq_true (hs k hk hscl)
    dsimp only
    rw [← hw, ← hoff, hres, ha, hb, hcs', hbound]
    simp only [Bool.not_true, Bool.or_self, Bool.false_eq_true, if_false]
    rw [inOrder_of_clear (begins_sound h).here hc, hp, if_neg Bool.false_ne_true, ← hblock]
    simp only [bitsOf_bit]
    rw [← hkp, hl, hfits 0 (by decide), hfits 1 (by decide)]
    simp only [Bool.not_true, Bool.or_self, Bool.false_eq_true, if_false]
    rw [if_neg (Nat.not_le.2 hn), ← hu]
    rfl

theorem mxp_completes {a : BitVec 8} (h : Begins (.mxp a) s e r old) (ht : (r.sval a).toNat < r.b.tileCount) :
    Completes (.mxp a) s e old (r.s.addFlight r.h.src r.g.id r.b.id r.c.id (.promote (r.sval a).toNat)) :=
  completes_of_body h rfl <| by
    dsimp only
    rw [if_neg (Nat.not_le.2 ht)]

/-! ### Tile elements -/

/-- The checks of MXRD and MXWR lead on to the tile, the registers, the first column and the rows. -/
theorem tileMove_of_legal {d a b : BitVec 8} {c n j0 half : Nat} (hc : c = (r.sval2 a b).toNat) (hn : n = c / 2 ^ 8 % 4 + 1)
    (hj : j0 = c % 32) (hhalf : half = c / 2 ^ 5 % 2) (hlt : c < 2 ^ 10) (hres : c / 2 ^ 6 % 4 = 0) (hcol : j0 + n ≤ 32)
    (hw : half = 1 → r.h.width = 16) (hv : d.toNat + n ≤ r.vLimit) (ht : (r.sval a).toNat < r.b.tileCount)
    (k : Nat → Nat → Nat → List (Nat × Nat) → Res) : r.tileMove d a b k = k (r.sval a).toNat n j0
      (((r.h.activeLanes r.g.id).filter (· < 32)).map fun l => (l, l + 16 * half)) := by
  have h31 : bitsOf c 31 10 = 0 := bitsOf_eq_zero (Nat.div_eq_of_lt hlt)
  have hn' : bitsOf c 9 8 + 1 = n := hn.symm
  have hj' : bitsOf c 4 0 = j0 := (congrArg (· % 2 ^ 5) (Nat.div_one c)).trans hj.symm
  have hhalf' : bitsOf c 5 5 = half := hhalf.symm
  have hres' : bitsOf c 7 6 = 0 := hres
  unfold Env.tileMove
  dsimp only
  rw [← hc, h31, hn', hj', hhalf', hres', if_neg, if_neg (Nat.not_le.2 ht)]
  rintro (h | h | h | h | h)
  · exact h rfl
  · exact h rfl
  · exact absurd hcol (Nat.not_le.2 h)
  · exact h.2 (hw h.1)
  · exact absurd hv (Nat.not_le.2 h)

/-! ### The codebook -/

theorem cbld_completes {n : BitVec 4} {b : BitVec 8} {u : State} {rs : Option Runs} {bytes : List Byte}
    (h : Begins (.cbld n b) s e r old)
    (hc : Clear r ((r.h.areg n.toNat).ranges (((r.h.areg n.toNat).cursor.toNat : Int) + (r.sval b).toInt) 1024))
    (hs : Spans r (r.h.areg n.toNat) [permR] .load 64 1024 (((r.h.areg n.toNat).cursor.toNat : Int) + (r.sval b).toInt) u rs)
    (hb : r.spanBytes (r.h.areg n.toNat) 1024 (((r.h.areg n.toNat).cursor.toNat : Int) + (r.sval b).toInt) rs u = some bytes) :
    Completes (.cbld n b) s e old ((u.loadTable (clusterOf r.h.src) r.c.id (Memory.writeBytes [] 0 bytes)).updBlock r.b.id
      fun b => { b with table := some (Memory.writeBytes [] 0 bytes), tableLoaded := true }) :=
  completes_of_body h rfl <| by
    dsimp only
    rw [position_zero, inOrder_of_clear (begins_sound h).here hc, reachSpan_of_spans hs, hb]

end

/-- Settles O13: each effect by the word that has it. -/
theorem cubeWords : Obligations.CubeWords := by
  intro i s e r old u hu h
  have hh := (begins_sound h).here
  cases hu with
  | tcfg a h9 h6 hs =>
    refine completes_of_body h rfl ((if_neg ?_).trans (if_neg (not_not_intro hs)))
    exact not_or.2 ⟨not_not_intro (bitsOf_eq_zero h9), not_not_intro h6⟩
  | slclHeld d a n hn hlt hf hs => exact slcl_body hh hn hlt hf (if_pos hs) h
  | slclTakes d a n p hn hlt hf hs hp => exact slcl_body hh hn hlt hf (by rw [hs, hp]; rfl) h
  | slclNone d a n hn hlt hf hs hp => exact slcl_body hh hn hlt hf (by rw [hs, hp]; rfl) h
  | slrlNone a n hn hlt hc => exact slrl_completes_none h hn hlt hc
  | slrlNow a n hn hlt hc hf => exact slrl_completes_now h hn hlt hc hf
  | slrlLater a n f hn hlt hc hm hf => exact slrl_completes_later h hn hlt hc hm hf
  | slz a n hn hlt hc hf => exact slz_completes h hn hlt hc hf
  | slld sl n b slot pitch hp hc hw hl => exact completes_of_body h rfl (slotMove_of_claimed hp hc hw hl _)
  | slst sl n b slot pitch hp hc hr hw hl ho => exact slst_completes h hp hc hr hw hl ho
  | mxc t p f w off block kp u hw hoff hres ha hb hcs ht hal hseg hc hp hblock hkp hl hs hn hu =>
    exact mxc_completes h hw hoff hres ha hb hcs ht hal hseg hc hp hblock hkp hl hs hn hu
  | mxp a ht => exact mxp_completes h ht
  | mxrd d a b c n j0 half hc hn hj hhalf hlt hres hcol hw hv ht =>
    exact completes_of_body h rfl (tileMove_of_legal hc hn hj hhalf hlt hres hcol hw hv ht _)
  | mxwr d a b c n j0 half hc hn hj hhalf hlt hres hcol hw hv ht =>
    refine completes_of_body h rfl ((tileMove_of_legal hc hn hj hhalf hlt hres hcol hw hv ht _).trans ?_)
    dsimp only
    rw [List.map_map]
    rfl
  | cbld n b a pos u rs bytes ha hpos hc hs hb =>
    subst ha
    subst hpos
    exact cbld_completes h hc hs hb

end Sys2Proof.Proofs.CubeWords

/-!
PROOFS. Query, beam and layer words (23_rendering.md R381–R403): each word through the checks and steps that its effect takes for
granted.
-/

namespace Sys2Proof.Proofs.QueryWords

open Sys2Proof Sys2Proof.Machine Sys2Proof.Claims Sys2Proof.Laws Sys2Proof.Proofs.ControlFlow Sys2Proof.Proofs.TrapFrames
  Sys2Proof.Proofs.Accesses Sys2Proof.Proofs.UnitWords Sys2Proof.Proofs.CubeWords

/-! ### Windows and fields -/

theorem notBvh_of_bvhWindow {a : AReg} (h : bvhWindow a) : notBvh a = false := by rw [notBvh, h.1, h.2]; rfl

theorem position_cursor (a : AReg) : a.position 0 0 = (a.cursor.toNat : Int) := by rw [position_zero, Int.add_zero]

theorem bitsOf_low_field {v hi k : Nat} (hk : hi + 1 = k) : bitsOf v hi 0 = v % 2 ^ k := by
  rw [bitsOf, Nat.pow_zero, Nat.div_one, Nat.sub_zero, hk]

section
variable {i : Instr} {s : State} {e r : Env} {old : List Saved}

/-! ### TRACE, HITRD and BEAM -/

theorem trace_completes {d a b : BitVec 8} {c : Nat} (h : Begins (.trace d a b) s e r old) (hc : c = (r.sval b).toNat)
    (hlt : c < 2 ^ 7) (hm : c / 2 ^ 4 % 4 < 2) (hw : bvhWindow (r.h.areg (c % 16))) :
    Completes (.trace d a b) s e old (launched r .x (.trace d.toNat (c / 2 ^ 4 % 4) (c / 2 ^ 6 % 2 == 1) (r.h.areg (c % 16))
      ((r.h.activeLanes r.g.id).map fun l => (l, (List.range 8).map fun i => r.h.vword (a.toNat + i) l))) r.s) :=
  completes_of_body h rfl <| by
    have h31 : bitsOf c 31 7 = 0 := bitsOf_eq_zero (Nat.div_eq_of_lt hlt)
    have hm' : bitsOf c 5 4 = c / 2 ^ 4 % 4 := rfl
    dsimp only
    rw [← hc, bitsOf_low_field (v := c) (k := 4) rfl, h31, hm', if_neg (not_or.2 ⟨not_not_intro rfl, Nat.not_le.2 hm⟩)]
    rw [show c % 2 ^ 4 = c % 16 from rfl, notBvh_of_bvhWindow hw, if_neg Bool.false_ne_true]
    rfl

theorem hitrd_completes {d a b : BitVec 8} {c : Nat} (h : Begins (.hitrd d a b) s e r old) (hc : c = (r.sval b).toNat)
    (hlt : c < 2 ^ 7) (hm : c / 2 ^ 4 % 8 < 5) (hv : d.toNat + attrCount (c / 2 ^ 4 % 8) ≤ r.vLimit)
    (hw : bvhWindow (r.h.areg (c % 16))) :
    Completes (.hitrd d a b) s e old (launched r .x (.hitrd d.toNat (c / 2 ^ 4 % 8) (r.h.areg (c % 16))
      ((r.h.activeLanes r.g.id).map fun l => (l, (r.h.vword a.toNat l).toNat))) r.s) :=
  completes_of_body h rfl <| by
    have h31 : bitsOf c 31 7 = 0 := bitsOf_eq_zero (Nat.div_eq_of_lt hlt)
    have hm' : bitsOf c 6 4 = c / 2 ^ 4 % 8 := rfl
    dsimp only
    rw [← hc, bitsOf_low_field (v := c) (k := 4) rfl, h31, hm',
      if_neg (not_or.2 ⟨not_not_intro rfl, not_or.2 ⟨Nat.not_le.2 hm, Nat.not_lt.2 hv⟩⟩)]
    rw [show c % 2 ^ 4 = c % 16 from rfl, notBvh_of_bvhWindow hw, if_neg Bool.false_ne_true]
    rfl

theorem startBeam_gated {r : Env} (job : BeamJob) (hg : r.s.gateClosed (coreOf r.h.src) r.c.id = true → r.h.gate = true) :
    r.startBeam job = .done (launched r .x (.beam job) (gated r)) := by
  have hclosed : (r.s.gateClosed (coreOf r.h.src) r.c.id && !r.h.gate) = false := by
    rw [Bool.and_eq_false_imp]
    intro hc
    rw [hg hc]
    rfl
  rw [Env.startBeam, hclosed, if_neg Bool.false_ne_true]
  rfl

theorem beam_completes {d a b : BitVec 8} {c : Nat} {bvh dw qw : AReg} {q : QueueWord} {desc : List Byte}
    (h : Begins (.beam d a b) s e r old) (hg : r.g.beam = none) (hc : c = (r.sval b).toNat) (hlt : c < 2 ^ 12)
    (hbvh : bvh = r.h.areg (c % 16)) (hdw : dw = r.h.areg (c / 2 ^ 4 % 16)) (hqw : qw = r.h.areg (c / 2 ^ 8 % 16))
    (hq : q = queueWord (r.h.spair a.toNat)) (hw : bvhWindow bvh) (hd1 : dw.has permR = true) (hd2 : dw.has permSCR = true)
    (hq1 : qw.has permR = true) (hq2 : qw.has permW = true) (hq3 : qw.has permSCR = true) (hv : q.valid true = true)
    (hesz : q.esz = 3) (hda : dw.accessOk r.b.segSize 64 64 dw.cursor.toNat = true)
    (hqa : qw.accessOk r.b.segSize 64 q.area ((qw.cursor.toNat : Int) + q.off) = true) (hcl : Clear r [])
    (hb : r.spanBytes dw 64 dw.cursor.toNat none r.s = some desc) (hl : beamLegal desc = true)
    (hgate : r.s.gateClosed (coreOf r.h.src) r.c.id = true → r.h.gate = true) : Completes (.beam d a b) s e old
      (launched r .x (.beam ⟨desc, bvh, qw, r.h.spair a.toNat, d.toNat, none, 0, 0⟩) (gated r)) :=
  completes_of_body h rfl <| by
    have h31 : bitsOf c 31 12 = 0 := bitsOf_eq_zero (Nat.div_eq_of_lt hlt)
    have hbvh' : r.h.areg (bitsOf c 3 0) = bvh := (congrArg r.h.areg (bitsOf_low_field (k := 4) rfl)).trans hbvh.symm
    have hdw' : r.h.areg (bitsOf c 7 4) = dw := hdw.symm
    have hqw' : r.h.areg (bitsOf c 11 8) = qw := hqw.symm
    dsimp only
    rw [hg]
    dsimp only
    rw [← hc, hbvh', hdw', hqw', ← hq, position_cursor dw, position_zero qw, h31, notBvh_of_bvhWindow hw, hd1, hd2, hq1, hq2, hq3, hv,
      hesz, hda, hqa]
    simp only [ne_eq, not_true_eq_false, if_false, Bool.false_eq_true, Bool.not_true, Bool.or_self, bne_self_eq_false]
    rw [inOrder_of_clear (begins_sound h).here hcl, hb]
    dsimp only
    rw [hl, Bool.not_true, if_neg Bool.false_ne_true, startBeam_gated _ hgate]

theorem beam_completes_waited {d a b : BitVec 8} {job : BeamJob} (h : Begins (.beam d a b) s e r old) (hg : r.g.beam = some job)
    (hgate : r.s.gateClosed (coreOf r.h.src) r.c.id = true → r.h.gate = true) :
    Completes (.beam d a b) s e old (launched r .x (.beam job) (gated r)) :=
  completes_of_body h rfl <| by
    dsimp only
    rw [hg]
    exact startBeam_gated job hgate

end

/-! ### The checks of the layer words (R397) -/

theorem unrefused_self {r : Env} (h : r.g.refused = false) : { r with g := { r.g with refused := false } } = r := by
  rw [← h]

theorem readTarget_of_spans {r : Env} (h : r.g.refused = false) {a : AReg} {pos : Int} {u : State} {rs : Option Runs}
    (hs : Spans r a [permR] .load 256 64 pos u rs) (k : State → Option Runs → Res) : r.readTarget a pos k = k u rs := by
  unfold Env.readTarget
  rw [h]
  dsimp only
  rw [unrefused_self h, reachSpan_of_spans hs]

theorem layered_of_layers {r : Env} (hh : r.here = true) {v : Nat} {a : AReg} {out : Option AReg} {e : Env} {t : Target3}
    {pool : List Byte} (h : Layers r v a out e t pool) (k : Env → Target3 → List Byte → Res) :
    r.layered v a out k = k e t pool := by
  obtain ⟨u, rs, desc, _, v', _, hr, hscr, hout, hacc, hc, hs, hb, hg, ht, hd, hp, hpix, hf, hst, href⟩ := h
  have hbar : out.filter (fun o => !o.has permW || o.has permSCR) = none := by
    cases out with
    | none => rfl
    | some o =>
      obtain ⟨h1, h2⟩ := hout o rfl
      simp [Option.filter, h1, h2]
  have href' : r.g.refused = false := by
    cases hs with
    | segment _ _ hsc => exact absurd (hscr.symm.trans hsc) Bool.false_ne_true
    | memory _ _ _ _ _ href' => exact href'
  have hfind : ((r.at u).headReaches v t u).find? (fun x => x.reach == .stall) = none :=
    List.find?_eq_none.2 fun x hx he => hst x hx (beq_iff_eq.1 he)
  subst ht
  unfold Env.layered
  dsimp only
  rw [position_cursor, hr, hscr, hbar]
  simp only [Bool.not_true, Bool.or_self, Bool.false_eq_true, if_false]
  rw [hacc, Bool.not_true, if_neg Bool.false_ne_true, inOrder_of_clear hh hc, readTarget_of_spans href' hs, hb]
  dsimp only
  rw [hg]
  dsimp only
  simp only [hd, hp, hpix, href, hf, hfind, Bool.not_true, Bool.or_self, Bool.false_eq_true, if_false, ne_eq, not_true_eq_false,
    Bool.false_and]

/-! ### FINS, FRES and FCLR -/

theorem fins_completes {s : State} {e r : Env} {old : List Saved} {v : BitVec 8} {n : BitVec 4} {x : Env} {t : Target3} {pool : List Byte}
    {k m : Nat} {ns : List Nat} {rest : Nat} {s1 s2 u : State} {w : List Nat} (h : Begins (.fins v n) s e r old)
    (hl : Layers r v.toNat (r.h.areg n.toNat) none x t pool) (hk : k = min (x.h.activeLanes x.g.id).length x.firstStep)
    (hm : m = (((x.h.activeLanes x.g.id).drop k).filter fun l => !nan32 (x.h.vword (v.toNat + 1) l)).length)
    (hfree : m ≤ (poolFree pool).2) (hns : x.freeList t m (poolFree pool).1 x.s = .ok (ns, rest, s1))
    (hcommit : x.commitStep [freeWrite t rest ((poolFree pool).2 - m)] s1 = .ok s2)
    (hsteps : x.finsSteps v.toNat t ((x.h.activeLanes x.g.id).drop k) k ns s2 = (none, w, u)) :
    Completes (.fins v n) s e old (x.progress 0 u) :=
  completes_of_body h rfl <| by
    refine (layered_of_layers (begins_sound h).here hl _).trans ?_
    dsimp only
    simp only [Sys2Proof.Proofs.MinMax.isNaN_decode]
    rw [← hk, ← hm, if_neg (Nat.not_lt.2 hfree), hns]
    dsimp only
    rw [hcommit]
    dsimp only
    rw [hsteps]
    rfl

/-- A group that owns no lines any more is where it was, with the registers of its hoist. -/
theorem disown_kept {r : Env} (hs : Sound r) : r.disown.here = true ∧ r.disown.h.regs.a = r.h.regs.a := by
  rw [Env.disown]
  split
  · exact ⟨hs.here, rfl⟩
  · have hfound : (r.s.updHoist r.h.src fun h => h.updGroup r.g.id fun g => { g with outs := [] }).hoist? r.h.src =
        some (r.h.updGroup r.g.id fun g => { g with outs := [] }) := by
      rw [hoist?_updHoist (by exact fun _ => rfl), hs.found, Option.map_some]
    have hat : (r.at (r.s.updHoist r.h.src fun h => h.updGroup r.g.id fun g => { g with outs := [] })).h =
        r.h.updGroup r.g.id fun g => { g with outs := [] } := by
      rw [Env.at]
      dsimp only
      rw [hfound]
      rfl
    refine ⟨?_, by rw [hat]; rfl⟩
    rw [Env.here, group_at, hat]
    exact hs.here

theorem fres_completes {s : State} {e r : Env} {old : List Saved} {v : BitVec 8} {o n : BitVec 4} {x : Env} {t : Target3}
    {pool : List Byte} {k : Nat} {u : State} (h : Begins (.fres v o n) s e r old)
    (hl : Layers r.disown v.toNat (r.h.areg n.toNat) (some (r.h.areg o.toNat)) x t pool) (hx : x.here = true)
    (hc : Clear x ((x.h.activeLanes x.g.id).map fun l =>
      (((outputAt x v.toNat (r.h.areg o.toNat) t l).toNat : Int), ((outputAt x v.toNat (r.h.areg o.toNat) t l).toNat : Int) + 8)))
    (hk : k = min (x.h.activeLanes x.g.id).length x.firstStep)
    (ho : x.s.owned (x.who .store) ((((x.h.activeLanes x.g.id).map (outputAt x v.toNat (r.h.areg o.toNat) t)).drop k).filterMap fun a =>
      (x.s.physical (coreOf x.h.src) x.c a).map fun pa => (pa, 8)) = false)
    (hsteps : runSteps (fun l s => x.fresStep t (outputAt x v.toNat (r.h.areg o.toNat) t l) (r.h.areg o.toNat).rights
        (x.pixel v.toNat l).1 (x.pixel v.toNat l).2
        (natLe 4 (x.h.vword (v.toNat + 1) l).toNat ++ natLe 4 (x.h.vword (v.toNat + 2) l).toNat) s)
      ((x.h.activeLanes x.g.id).drop k) k x.s = (none, u)) :
    Completes (.fres v o n) s e old (x.progress 0 u) :=
  completes_of_body h rfl <| by
    obtain ⟨hh, ha⟩ := disown_kept (begins_sound h)
    have hareg (n : Nat) : r.disown.h.areg n = r.h.areg n := by rw [Hoist.areg, ha, ← Hoist.areg]
    have hranges : ((x.h.activeLanes x.g.id).map (outputAt x v.toNat (r.h.areg o.toNat) t)).map
        (fun a => ((a.toNat : Int), (a.toNat : Int) + 8)) = (x.h.activeLanes x.g.id).map fun l =>
        (((outputAt x v.toNat (r.h.areg o.toNat) t l).toNat : Int),
          ((outputAt x v.toNat (r.h.areg o.toNat) t l).toNat : Int) + 8) := by
      rw [List.map_map]
      rfl
    dsimp only
    rw [hareg]
    refine (layered_of_layers hh hl _).trans ((inOrder_of_clear hx (by rw [← hranges] at hc; exact hc) _).trans ?_)
    rw [← hk]
    refine (if_neg (Bool.eq_false_iff.1 ho)).trans ?_
    simp only [outputAt] at hsteps
    rw [hsteps]
    rfl

theorem fclr_completes {s : State} {e r : Env} {old : List Saved} {v : BitVec 8} {n : BitVec 4} {x : Env} {t : Target3}
    {pool : List Byte} {k : Nat} {u : State} (h : Begins (.fclr v n) s e r old)
    (hl : Layers r v.toNat (r.h.areg n.toNat) none x t pool) (hk : k = min (x.h.activeLanes x.g.id).length x.firstStep)
    (hsteps : runSteps (fun l s => x.fclrStep t (x.pixel v.toNat l).1 (x.pixel v.toNat l).2 s)
      ((x.h.activeLanes x.g.id).drop k) k x.s = (none, u)) : Completes (.fclr v n) s e old (x.progress 0 u) :=
  completes_of_body h rfl <| by
    refine (layered_of_layers (begins_sound h).here hl _).trans ?_
    dsimp only
    rw [← hk, hsteps]
    rfl

/-! ### FCFG -/

section
variable {r : Env}

theorem descriptor_of_described {va : VAddr} {x : Env} {desc : List Byte} (h : Described r va x desc) (k : Env → List Byte → Res) :
    r.descriptor va k = k x desc := by
  obtain ⟨pa, leaf, lv, entry, u, ht, hh, ho, hp⟩ := h
  unfold Env.descriptor
  rw [ht]
  dsimp only
  rw [hh]
  dsimp only
  rw [ho, if_neg Bool.false_ne_true, hp, if_neg Bool.false_ne_true]

theorem ranges_of_reached {xs : List (PageUse × Rights × VAddr × Nat)} {x : Env} (h : Reached r xs x) (k : Env → Res) :
    r.ranges xs k = k x := by
  obtain ⟨us, u, hu, hf, hr⟩ := h
  rw [Env.ranges, hu]
  dsimp only
  rw [hr, if_neg Bool.false_ne_true, hf]

theorem configure_of_not_replicated (hr : r.b.replicated = false) (ws : List (Rights × VAddr × List Byte)) :
    r.configure ws = r.vputAll ws r.s := by
  rw [Env.configure, hr, Bool.false_and, if_neg Bool.false_ne_true, withRoom_of_not_replicated hr]

end

section
variable {s : State} {e r : Env} {old : List Saved} {m : BitVec 8} {second first : BitVec 4} {a b : AReg}

/-- The bytes of an empty pool whose reserved bytes are zero. -/
theorem emptyPool_bytes (map maxp : Nat) :
    natLe 8 map ++ natLe 4 0 ++ natLe 4 maxp ++ natLe 4 0 ++ natLe 4 0 ++ natLe 39 0 ++ [0x80#8] =
      natLe 8 map ++ natLe 4 0 ++ natLe 4 maxp ++ List.replicate 47 0 ++ [0x80#8] := by
  simp only [natLe_zero, List.append_assoc]
  rfl

theorem fcfg_completes_pool {x : Env} {maxp : Nat} {t : State} (h : Begins (.fcfg m second first) s e r old) (hm : m.toNat = 0)
    (ha : a = r.h.areg first.toNat) (hb : b = r.h.areg second.toNat) (hwa : layerWindow a) (hwb : layerWindow b)
    (hacc : a.accessOk r.b.segSize 256 64 a.cursor.toNat = true) (hal : (b.address b.cursor.toNat).toNat % 256 = 0)
    (hc : Clear r []) (hmax : maxp = min 65536 ((b.extent.toNat - b.cursor.toNat) / 8))
    (hre : Reached r [(.store, a.rights, a.address a.cursor.toNat, 64),
      (.store, b.rights, b.address b.cursor.toNat, 8 * maxp)] x) (hr : x.b.replicated = false)
    (hput : x.vputAll [(a.rights, a.address a.cursor.toNat, natLe 8 ((b.address b.cursor.toNat).toNat / 256) ++ natLe 4 0 ++
      natLe 4 maxp ++ List.replicate 47 0 ++ [0x80#8])] x.s = .done t) : Completes (.fcfg m second first) s e old t :=
  completes_of_body h rfl <| by
    obtain ⟨ha1, ha2, ha3⟩ := hwa
    obtain ⟨hb1, hb2, hb3⟩ := hwb
    have hm0 : m = 0 := BitVec.eq_of_toNat_eq hm
    have hm1 : (m == 1) = false := by rw [hm0]; rfl
    dsimp only
    simp only [← ha, ← hb, position_cursor, ha1, ha2, ha3, hb1, hb2, hb3, hacc, hal, hm1, Bool.not_true, Bool.not_false,
      Bool.and_self, Bool.and_false,
      Bool.false_and, bne_self_eq_false, Bool.or_self, Bool.false_eq_true, if_false]
    rw [inOrder_of_clear (begins_sound h).here hc, if_pos hm0, hm, ← hmax]
    refine (ranges_of_reached hre _).trans ?_
    rw [configure_of_not_replicated hr, emptyPool_bytes, hput]

theorem fcfg_completes_grow {x y : Env} {desc : List Byte} {np one : Nat} {t : State} (h : Begins (.fcfg m second first) s e r old)
    (hm : m.toNat = 1) (ha : a = r.h.areg first.toNat) (hb : b = r.h.areg second.toNat) (hwa : layerWindow a) (hwb : layerWindow b)
    (hacc : a.accessOk r.b.segSize 256 64 a.cursor.toNat = true) (hal : (b.address b.cursor.toNat).toNat % 4096 = 0)
    (hroom : 4096 ≤ b.extent.toNat - b.cursor.toNat) (hc : Clear r []) (hd : Described r (a.address a.cursor.toNat) y desc)
    (hnp : np = leNat (Sys2Proof.Machine.segment desc 8 4)) (hone : one = if np = 0 then 1 else 0)
    (hre : Reached y [(.store, a.rights, a.address a.cursor.toNat, 64),
      (.store, a.rights, field8 desc 0 + BitVec.ofNat 72 (8 * np), 8),
      (.store, b.rights, b.address b.cursor.toNat, 4096)] x) (hv : descValid desc = true)
    (hlt : np < leNat (Sys2Proof.Machine.segment desc 12 4)) (hr : x.b.replicated = false)
    (hput : x.vputAll [(a.rights, field8 desc 0 + BitVec.ofNat 72 (8 * np), natLe 8 ((b.address b.cursor.toNat).toNat / 4096)),
      (b.rights, b.address b.cursor.toNat, pageLinks np (poolFree desc).1), (a.rights, a.address a.cursor.toNat + 8, natLe 4 (np + 1)),
      (a.rights, a.address a.cursor.toNat + 16,
        natLe 4 (256 * np + one) ++ natLe 4 ((poolFree desc).2 + 256 - one))] x.s = .done t) :
    Completes (.fcfg m second first) s e old t :=
  completes_of_body h rfl <| by
    obtain ⟨ha1, ha2, ha3⟩ := hwa
    obtain ⟨hb1, hb2, hb3⟩ := hwb
    have hm1 : m = 1 := BitVec.eq_of_toNat_eq hm
    have hm0 : (m == 0) = false := by rw [hm1]; rfl
    have hroom' : decide (b.extent.toNat - b.cursor.toNat < 4096) = false := decide_eq_false (Nat.not_lt.2 hroom)
    dsimp only
    simp only [← ha, ← hb, position_cursor, ha1, ha2, ha3, hb1, hb2, hb3, hacc, hal, hm0, hroom', Bool.not_true,
      Bool.not_false, Bool.and_self, Bool.and_false,
      Bool.false_and, bne_self_eq_false, Bool.or_self, Bool.false_eq_true, if_false]
    rw [inOrder_of_clear (begins_sound h).here hc, if_neg (beq_eq_false_iff_ne.1 hm0), descriptor_of_described hd, hm, ← hnp,
      ranges_of_reached hre, hv, decide_eq_false (Nat.not_le.2 hlt), Bool.not_true, Bool.or_self,
      if_neg Bool.false_ne_true, configure_of_not_replicated hr, ← hone, hput]
    rfl

theorem fcfg_completes_target {x y z : Env} {desc pool : List Byte} {w hgt : Nat} {t : State}
    (h : Begins (.fcfg m second first) s e r old) (hm : m.toNat = 2) (ha : a = r.h.areg first.toNat) (hwa : layerWindow a)
    (hacc : a.accessOk r.b.segSize 256 64 a.cursor.toNat = true) (hc : Clear r []) (hd : Described r (a.address a.cursor.toNat) y desc)
    (hw : w = leNat (Sys2Proof.Machine.segment desc 8 2)) (hh : hgt = leNat (Sys2Proof.Machine.segment desc 10 2))
    (hre : Reached y [(.store, a.rights, a.address a.cursor.toNat, 64), (.store, a.rights, field8 desc 0, 4 * w * hgt),
      (.load, a.rights, field8 desc 16, 64)] x) (hd' : Described x (field8 desc 16) z pool) (hv : descValid desc = false)
    (hk : 2 ≤ nodeByte desc 12 % 16) (hrule : nodeByte desc 12 < 64) (hw1 : 1 ≤ w) (hw2 : w ≤ 16384) (hh1 : 1 ≤ hgt)
    (hh2 : hgt ≤ 16384) (hz1 : zeroBytes desc 13 3 = true) (hz2 : zeroBytes desc 24 39 = true)
    (hz3 : nodeByte desc 63 % 128 = 0) (hvp : descValid pool = true) (hr : z.b.replicated = false)
    (hput : z.vputAll [(a.rights, field8 desc 0, natLe (4 * w * hgt) 0), (a.rights, a.address a.cursor.toNat + 63, [0x80#8])] z.s =
      .done t) : Completes (.fcfg m second first) s e old t :=
  completes_of_body h rfl <| by
    obtain ⟨ha1, ha2, ha3⟩ := hwa
    have hm2 : m = 2 := BitVec.eq_of_toNat_eq hm
    have hm2' : (m != 2) = false := by rw [hm2]; rfl
    have hm0 : (m == 0) = false := by rw [hm2]; rfl
    have hm1 : (m == 1) = false := by rw [hm2]; rfl
    dsimp only
    simp only [← ha, position_cursor, ha1, ha2, ha3, hacc, hm0, hm1, hm2', Bool.not_true, Bool.not_false, Bool.and_self,
      Bool.false_and, Bool.or_self,
      Bool.false_eq_true, if_false]
    rw [inOrder_of_clear (begins_sound h).here hc, if_neg (beq_eq_false_iff_ne.1 hm0), descriptor_of_described hd, hm, ← hw,
      ← hh, ranges_of_reached hre, descriptor_of_described hd', hv, decide_eq_false (Nat.not_lt.2 hk),
      decide_eq_false (Nat.ne_of_gt hw1), decide_eq_false (Nat.not_lt.2 hw2), decide_eq_false (Nat.ne_of_gt hh1),
      decide_eq_false (Nat.not_lt.2 hh2), decide_eq_false (Nat.not_le.2 hrule), hz1, hz2, hz3, hvp]
    exact (configure_of_not_replicated hr _).trans hput

end

/-- Settles O14: each effect by the word that has it. -/
theorem queryWords : Obligations.QueryWords := by
  intro i s e r old u hu h
  cases hu with
  | trace d a b c hc hlt hm hw => exact trace_completes h hc hlt hm hw
  | hitrd d a b c hc hlt hm hv hw => exact hitrd_completes h hc hlt hm hv hw
  | beam d a b c bvh dw qw q desc hg hc hlt hbvh hdw hqw hq hw hd1 hd2 hq1 hq2 hq3 hv hesz hda hqa hcl hb hl hgate =>
    exact beam_completes h hg hc hlt hbvh hdw hqw hq hw hd1 hd2 hq1 hq2 hq3 hv hesz hda hqa hcl hb hl hgate
  | beamWaited d a b job hg hgate => exact beam_completes_waited h hg hgate
  | fins v n x t pool k m ns rest s1 s2 u w hl hk hm hfree hns hcommit hsteps =>
    exact fins_completes h hl hk hm hfree hns hcommit hsteps
  | fres v o n x t pool k u hl hx hc hk ho hsteps => exact fres_completes h hl hx hc hk ho hsteps
  | fclr v n x t pool k u hl hk hsteps => exact fclr_completes h hl hk hsteps
  | fcfgPool m second first a b ra rb maxp x t hm ha hb hwa hwb hacc hra hrb hal hc hh hmax hre hr hput =>
    subst hra hrb
    exact fcfg_completes_pool h hm ha hb hwa hwb hacc hal hc hmax hre hr hput
  | fcfgGrow m second first a b ra rb y desc x np one t hm ha hb hwa hwb hacc hra hrb hal hroom hc hd hnp hone hre hv hlt hr hput =>
    subst hra hrb
    exact fcfg_completes_grow h hm ha hb hwa hwb hacc hal hroom hc hd hnp hone hre hv hlt hr hput
  | fcfgTarget m second first a ra y desc x z pool w hgt t hm ha hwa hacc hra hc hd hw hh hre hd' hv hk hrule hw1 hw2 hh1 hh2 hz1
      hz2 hz3 hvp hr hput =>
    subst hra
    exact fcfg_completes_target h hm ha hwa hacc hc hd hw hh hre hd' hv hk hrule hw1 hw2 hh1 hh2 hz1 hz2 hz3 hvp hr hput

end Sys2Proof.Proofs.QueryWords

/-!
PROOFS. System words (17_scheduling.md R308, R331, R352, 19_faults.md R345, R346, 23_rendering.md R391, 27_host.md R434): each word
through the checks that its effect takes for granted.
-/

namespace Sys2Proof.Proofs.SystemWords

open Sys2Proof Sys2Proof.Machine Sys2Proof.Claims Sys2Proof.Laws Sys2Proof.Proofs.ControlFlow Sys2Proof.Proofs.Accesses
  Sys2Proof.Proofs.UnitWords Sys2Proof.Proofs.OrderWords Sys2Proof.Proofs.QueryWords Sys2Proof.Proofs.Progress
  Sys2Proof.Proofs.TrapEntries Sys2Proof.Proofs.Waking

/-! ### A range that is reached leaves the hoists -/

theorem fetched_markDirty (s : State) (leaf pa : Nat) : Fetched s (s.markDirty leaf pa).2 := by
  unfold State.markDirty
  split
  · exact fetched_refl s
  · split
    · exact fetched_refl s
    · dsimp only
      split
      · exact fetched_of_fields rfl rfl
      · dsimp only
        split
        · exact fetched_of_fields rfl rfl
        · exact fetched_trans (fetched_writePhys s _ _) (fetched_of_fields rfl rfl)

theorem fetched_dirtied (x : Reach) (c : Ctx) (va : VAddr) (use : PageUse) (s : State) : Fetched s (x.dirtied c va use s).2 := by
  unfold Reach.dirtied
  split
  next pa leaf entry =>
    have hm := fetched_markDirty s leaf entry
    split
    · split <;> (next heq => rw [heq] at hm; exact hm)
    · exact fetched_refl s
  · exact fetched_refl s

theorem fetched_dirtyUnits (c : Ctx) (use : PageUse) (xs : List UnitReach) (s : State) : Fetched s (dirtyUnits c use xs s).2 := by
  induction xs generalizing s with
  | nil => exact fetched_refl s
  | cons x xs ih => exact fetched_trans (fetched_dirtied x.reach c x.va use s) (ih _)

theorem fetched_reachUnits (core : Nat) (c : Ctx) (use : PageUse) (r : Rights) (t : Bool) (fuel : Nat) (va : VAddr) (n : Nat)
    (s : State) : Fetched s (State.reachUnits core c use r t fuel va n s).2 := by
  induction fuel generalizing va n s with
  | zero => exact fetched_refl s
  | succ fuel ih =>
    rw [State.reachUnits]
    split
    · exact fetched_refl s
    · exact fetched_trans (fetched_reach s core c va use r) (ih _ _ _)

theorem fetched_checkUnits (w : Who) (c : Ctx) (use : PageUse) (va : VAddr) (xs : List UnitReach) (s : State) :
    Fetched s (s.checkUnits w c use va xs).2 := by
  have hd := fetched_dirtyUnits c use xs s
  unfold State.checkUnits
  dsimp only
  split
  · exact fetched_refl s
  · split
    · exact fetched_refl s
    · split
      · exact fetched_refl s
      · split <;> exact hd

theorem fetched_range (s : State) (w : Who) (c : Ctx) (use : PageUse) (r : Rights) (va : VAddr) (n : Nat) :
    Fetched s (s.range w c use r va n).2 := by
  have hf (s : State) := fetched_trans (fetched_reachUnits w.core c use r false (unitsOf n) va n s)
    (fetched_checkUnits w c use va (State.reachUnits w.core c use r false (unitsOf n) va n s).1 _)
  unfold State.range State.reachRange State.seenBy
  split
  · exact hf s
  · exact fetched_trans (fetched_of_fields rfl rfl) (fetched_trans (hf { s with flights := s.ownersFor w }) (fetched_of_fields rfl rfl))

theorem fetched_of_spans {r : Env} {a : AReg} {need : List Nat} {use : PageUse} {align n : Nat} {pos : Int} {u : State}
    {rs : Option Runs} (h : Spans r a need use align n pos u rs) : Fetched r.s u := by
  cases h with
  | segment => exact fetched_refl r.s
  | memory u rs _ _ _ _ hr =>
    have hf := fetched_range r.s (r.who use) r.c use a.rights (a.address pos) n
    rw [hr] at hf
    exact hf

theorem isSome_hoist?_of_fetched {s t : State} {n : Nat} (h : Fetched s t) (hs : (s.hoist? n).isSome) : (t.hoist? n).isSome := by
  obtain ⟨x, hx⟩ := Option.isSome_iff_exists.1 hs
  obtain ⟨k, hk, -⟩ := h.1 n x hx
  rw [hk]
  rfl

theorem spanBytes_at_at {r : Env} {u t : State} (ht : (t.hoist? r.h.src).isSome) (a : AReg) (n : Nat) (pos : Int)
    (rs : Option Runs) (s : State) : ((r.at u).at t).spanBytes a n pos rs s = (r.at t).spanBytes a n pos rs s := by
  obtain ⟨k, hk⟩ := Option.isSome_iff_exists.1 ht
  have hu : t.hoist? (r.at u).h.src = some k := by rw [src_at, hk]
  have hat (x : Env) (hx : t.hoist? x.h.src = some k) : (x.at t).h = k := by
    rw [Env.at, hx]
    rfl
  have hh : ((r.at u).at t).h = (r.at t).h := (hat _ hu).trans (hat r hk).symm
  have hb : ((r.at u).at t).b = (r.at t).b := congrArg (State.blockOf t) hh
  unfold Env.spanBytes
  rw [hh, hb]

/-! ### Control registers, gates, checkpoints and invalidation -/

section
variable {s : State} {e r : Env} {old : List Saved}

theorem gate_completes {d m : BitVec 8} (h : Begins (.gate d m) s e r old) {u : State}
    (hu : u = if m = 0 then r.s else r.s.setGate (coreOf r.h.src) r.h.ctxsel (m == 1)) :
    Completes (.gate d m) s e old
      (u.updHoist r.h.src fun h => h.writeS d (BitVec.ofNat 32 (u.members (coreOf r.h.src) r.h.ctxsel))) :=
  completes_of_body h rfl <| by
    have hm : (match m.toNat with
        | 0 => r.s
        | 1 => r.s.setGate (coreOf r.h.src) r.h.ctxsel true
        | _ => r.s.setGate (coreOf r.h.src) r.h.ctxsel false) = u := by
      rw [hu]
      split
      next h0 => rw [if_pos (BitVec.eq_of_toNat_eq h0)]
      next h1 =>
        rw [BitVec.eq_of_toNat_eq (y := 1#8) h1]
        rfl
      next h0 h1 =>
        rw [if_neg fun hm => h0 (congrArg BitVec.toNat hm), beq_false_of_ne fun hm => h1 (congrArg BitVec.toNat hm)]
    subst hm
    rfl

theorem srd_completes {d : BitVec 8} {n : BitVec 16} (h : Begins (.srd d n) s e r old) (hn : r.reaches = true ∨ n = 0x20) :
    Completes (.srd d n) s e old (r.s.updHoist r.h.src fun h => h.writeS d (r.crValue n.toNat 0)) :=
  completes_of_body h rfl <| by
    have hc : (r.reaches || n == 0x20) = true := by simpa using hn
    dsimp only
    rw [hc, if_pos rfl]

theorem srd_completes_open {d : BitVec 8} {n : BitVec 16} (h : Begins (.srd d n) s e r old) (hr : r.reaches = false)
    (hn : n ≠ 0x20) : Completes (.srd d n) s e old ({ r.s with fresh := r.s.fresh + 1 }.updHoist r.h.src fun h =>
      h.writeS d (r.crValue n.toNat (Config.freeWord r.s.fresh))) :=
  completes_of_body h rfl <| by
    dsimp only
    rw [hr, Bool.false_or, beq_false_of_ne hn, if_neg Bool.false_ne_true]
    rfl

theorem swr_completes {a : BitVec 8} {n : BitVec 16} (h : Begins (.swr a n) s e r old)
    (hc : r.crRefuses n.toNat (r.sval a) = false) : Completes (.swr a n) s e old (r.crWrite n.toNat (r.sval a)) :=
  completes_of_body h rfl <| by
    rw [hc, if_neg Bool.false_ne_true]

theorem ckpt_completes_none (h : Begins .ckpt s e r old) (hr : r.b.replicated = false) (hm : r.c.mirror = none) :
    Completes .ckpt s e old r.s :=
  completes_of_body h rfl <| by
    rw [release_of_not_replicated hr, hm]
    rfl

theorem ckpt_completes (h : Begins .ckpt s e r old) (hr : r.b.replicated = false) {m : Mirror} (hm : r.c.mirror = some m)
    (hp : m.phase = .idle) : Completes .ckpt s e old (r.s.requestGeneration r.c.id) :=
  completes_of_body h rfl <| by
    rw [release_of_not_replicated hr, hm]
    dsimp only
    rw [hp]
    rfl

theorem tlbi_completes {x : BitVec 1} {m : BitVec 3} {a b : BitVec 8} {n : Nat} {u : TlbiUse} (h : Begins (.tlbi x m a b) s e r old)
    (hn : n = if m = 1 ∨ m = 2 then (r.sval b).toNat else 0)
    (hu : u = ⟨m.toNat, r.ctxNumber, if m.toNat ≤ 1 then 256 * (r.h.spair a.toNat).toNat else 0, n, n⟩)
    (h1 : m = 1 → n ≠ 0) (h2 : m = 2 → n < 256) (hf : ∀ f ∈ r.s.flights, throughDropped (r.s.tlbiDrops u) f = false)
    (hw : r.s.bufferedThrough (r.s.tlbiDrops u) = false) : Completes (.tlbi x m a b) s e old (r.s.invalidate u) :=
  completes_of_body h rfl <| by
    have hlegal : ¬((m = 1 ∧ n = 0) ∨ (m = 2 ∧ 256 ≤ n)) := by
      rintro (⟨hm, hz⟩ | ⟨hm, hz⟩)
      · exact h1 hm hz
      · exact absurd (h2 hm) (Nat.not_lt.2 hz)
    have hany : r.s.flights.any (throughDropped (r.s.tlbiDrops u)) = false :=
      List.any_eq_false.2 fun f hm => Bool.eq_false_iff.1 (hf f hm)
    dsimp only
    rw [← hn, ← hu, if_neg hlegal]
    simp only [hany, hw, (begins_sound h).here, Bool.false_eq_true, Bool.not_true, Bool.or_self, if_false]

/-! ### HOSTSIG -/

theorem hostsig_completes {a b : BitVec 8} {x : Env} (h : Begins (.hostsig a b) s e r old) (ha : (r.sval a).toNat < 32)
    (hr : r.b.replicated = false) (hrel : Claims.Released r 3) (hx : x = r.at (r.s.endHolds r.b 3))
    (hm : x.c.mirror = none ∨ x.s.die = .companion) (hroom : x.s.signalRoom = true) :
    Completes (.hostsig a b) s e old (x.s.signal x.h.src x.c.id (r.sval a).toNat (r.sval2 a b)) :=
  completes_of_body h rfl <| by
    have hheld : (x.c.mirror.isSome && x.s.die == .tsuord) = false := by
      rcases hm with hm | hm
      · rw [hm]
        rfl
      · rw [hm]
        exact Bool.and_false _
    dsimp only
    rw [if_neg (Nat.not_le.2 ha), release_of_not_replicated hr, releaseAt_of_released hrel, ← hx]
    simp only [hheld, hroom, Bool.not_true, Bool.false_eq_true, if_false, if_true]

theorem hostsig_completes_held {a b : BitVec 8} {x : Env} (h : Begins (.hostsig a b) s e r old) (ha : (r.sval a).toNat < 32)
    (hr : r.b.replicated = false) (hrel : Claims.Released r 3) (hx : x = r.at (r.s.endHolds r.b 3))
    (hm : x.c.mirror.isSome = true) (hd : x.s.die = .tsuord) (hfit : x.s.egressBytes + 32 ≤ 4194304) :
    Completes (.hostsig a b) s e old (x.s.hold x.c.id (.signal x.h.src (r.sval a).toNat (r.sval2 a b))) :=
  completes_of_body h rfl <| by
    have hheld : (x.c.mirror.isSome && x.s.die == .tsuord) = true := by rw [hm, hd]; rfl
    dsimp only
    rw [if_neg (Nat.not_le.2 ha), release_of_not_replicated hr, releaseAt_of_released hrel, ← hx]
    simp only [hheld, hfit, Bool.not_true, Bool.false_eq_true, if_false, if_true]

/-! ### CTXSV and CTXRS (R352) -/

theorem ctxsv_completes_none {d b : BitVec 8} {n : BitVec 4} (h : Begins (.ctxsv d n b) s e r old) (hb : (r.sval b).toNat < 64)
    (hw : (r.h.areg n.toNat).has permW = true) (hsys : (r.h.areg n.toNat).has permSYS = true)
    (hscr : (r.h.areg n.toNat).has permSCR = false)
    (hacc : (r.h.areg n.toNat).accessOk r.b.segSize 256 2752 (r.h.areg n.toNat).cursor.toNat = true)
    (ht : r.targetBlock (r.sval b).toNat = none) :
    Completes (.ctxsv d n b) s e old (r.s.updHoist r.h.src fun h => h.writeS d 3) :=
  completes_of_body h rfl <| by
    dsimp only
    rw [if_neg (Nat.not_le.2 hb), hw, hsys, hscr, position_cursor, hacc, ht]
    rfl

theorem ctxsv_completes {d b : BitVec 8} {n : BitVec 4} {a : AReg} {blk x : Block} {y : Env} {bytes : List Byte} {rs : Runs}
    {u : State} (h : Begins (.ctxsv d n b) s e r old) (hb : (r.sval b).toNat < 64) (ha : a = r.h.areg n.toNat)
    (hw : a.has permW = true) (hsys : a.has permSYS = true) (hscr : a.has permSCR = false)
    (hacc : a.accessOk r.b.segSize 256 2752 a.cursor.toNat = true) (ht : r.targetBlock (r.sval b).toNat = some blk)
    (hy : y = r.at (r.s.updBlock blk.id fun x => { x with residency := .stopping 6 }))
    (hf : ∀ f ∈ y.s.flights, f.block ≠ blk.id) (hx : y.s.block? blk.id = some x) (hd : y.s.drained x = true)
    (hbytes : bytes = (x.frameBytes (y.s.allHoists x) (zeros 32)).drop 32) (hlen : bytes.length + 32 ≤ y.s.frameSize y.c)
    (hin : a.inBounds 0 a.cursor.toNat (bytes.length + 32) = true)
    (hr : y.s.range (y.who .store) y.c .store a.rights (a.address (a.cursor.toNat + 32)) bytes.length = (.ok rs, u)) :
    Completes (.ctxsv d n b) s e old
      ((State.removeBlock { u.writeRuns y.c.id rs bytes with
          aside := (u.writeRuns y.c.id rs bytes).asideOf x (a.address a.cursor.toNat) none ::
            (u.writeRuns y.c.id rs bytes).aside } x.id).updHoist y.h.src fun h => h.writeS d 0) :=
  completes_of_body h rfl <| by
    have hany : (y.s.flights.any fun f => f.block == blk.id) = false :=
      List.any_eq_false.2 fun f hm => Bool.eq_false_iff.1 (beq_false_of_ne (hf f hm))
    dsimp only
    rw [if_neg (Nat.not_le.2 hb), ← ha, hw, hsys, hscr, position_cursor, hacc, ht]
    dsimp only
    rw [← hy, hany]
    simp only [Bool.false_eq_true, if_false, Bool.and_self, Bool.not_true, Bool.or_self]
    rw [hx]
    dsimp only
    rw [hd, ← hbytes, if_neg (Nat.not_lt.2 hlen), hin, hr]
    rfl

theorem frameAt_of_short {a : AReg} {pos : Int} {u : State} {rs : Option Runs} {head : List Byte}
    (hs : Spans r a [permR, permSYS] .load 256 2752 pos u rs) (hb : (r.at u).spanBytes a 2752 pos rs u = some head)
    (hl : (frameHead head).total < 2752) (k : State → List Byte → Res) : r.frameAt a pos k = k u head := by
  rw [Env.frameAt, reachSpan_of_spans hs, hb]
  exact if_pos hl

theorem frameAt_of_whole (hh : (r.s.hoist? r.h.src).isSome) {a : AReg} {pos : Int} {u t : State} {rs ts : Option Runs} {head bytes : List Byte}
    (hs : Spans r a [permR, permSYS] .load 256 2752 pos u rs) (hb : (r.at u).spanBytes a 2752 pos rs u = some head)
    (hl : 2752 ≤ (frameHead head).total) (hin : a.inBounds r.b.segSize pos (frameHead head).total = true)
    (hs2 : Spans (r.at u) a [permR, permSYS] .load 256 (frameHead head).total pos t ts)
    (hb2 : ((r.at u).at t).spanBytes a (frameHead head).total pos ts t = some bytes) (k : State → List Byte → Res) :
    r.frameAt a pos k = k t bytes := by
  have ht : (t.hoist? r.h.src).isSome :=
    isSome_hoist?_of_fetched (fetched_trans (fetched_of_spans hs) (fetched_of_spans hs2)) hh
  rw [spanBytes_at_at ht] at hb2
  rw [Env.frameAt, reachSpan_of_spans hs, hb]
  dsimp only
  rw [if_neg (Nat.not_lt.2 hl), hin, Bool.not_true, if_neg Bool.false_ne_true, reachSpan_of_spans hs2, hb2]

theorem ctxrs_completes {d : BitVec 8} {n : BitVec 4} {a : AReg} {u : State} {rs : Option Runs} {head : List Byte}
    (h : Begins (.ctxrs d n) s e r old) (ha : a = r.h.areg n.toNat) (hc : Clear r (a.ranges a.cursor.toNat 2752))
    (hs : Spans r a [permR, permSYS] .load 256 2752 a.cursor.toNat u rs)
    (hb : (r.at u).spanBytes a 2752 a.cursor.toNat rs u = some head) (hl : (frameHead head).total < 2752)
    (hno : u.ctx? (recordOf (head.take 32)).ctx = none) :
    Completes (.ctxrs d n) s e old (u.updHoist r.h.src fun h => h.writeS d 2) :=
  completes_of_body h rfl <| by
    dsimp only
    rw [← ha, position_cursor, inOrder_of_clear (begins_sound h).here hc, frameAt_of_short hs hb hl, hno]

theorem ctxrs_completes_block {d : BitVec 8} {n : BitVec 4} {a : AReg} {u t v' v : State} {rs ts : Option Runs}
    {head bytes : List Byte} {c : Ctx} {b : Block} {aside : Option Aside} (h : Begins (.ctxrs d n) s e r old)
    (ha : a = r.h.areg n.toNat) (hc : Clear r (a.ranges a.cursor.toNat 2752))
    (hs : Spans r a [permR, permSYS] .load 256 2752 a.cursor.toNat u rs)
    (hb : (r.at u).spanBytes a 2752 a.cursor.toNat rs u = some head) (hl : 2752 ≤ (frameHead head).total)
    (hin : a.inBounds r.b.segSize a.cursor.toNat (frameHead head).total = true)
    (hs2 : Spans (r.at u) a [permR, permSYS] .load 256 (frameHead head).total a.cursor.toNat t ts)
    (hb2 : ((r.at u).at t).spanBytes a (frameHead head).total a.cursor.toNat ts t = some bytes)
    (hctx : t.ctx? (recordOf (bytes.take 32)).ctx = some c) (hi : t.issues c.id = true)
    (hblk : t.blockOfFrame (coreOf r.h.src) c (a.address a.cursor.toNat) (recordOf (bytes.take 32)) bytes = .ok (some (b, aside), v'))
    (hre : v'.restoreBlock (coreOf r.h.src) b aside (recordOf (bytes.take 32)).acls b.span bytes = .ok v) :
    Completes (.ctxrs d n) s e old (v.updHoist r.h.src fun h => h.writeS d 0) :=
  completes_of_body h rfl <| by
    have hsome : (r.s.hoist? r.h.src).isSome := by rw [(begins_sound h).found]; rfl
    dsimp only
    rw [← ha, position_cursor, inOrder_of_clear (begins_sound h).here hc, frameAt_of_whole hsome hs hb hl hin hs2 hb2, hctx]
    dsimp only
    rw [hi, hblk]
    dsimp only
    rw [hre]
    rfl

end

/-- Settles O15: every system word through its checks. -/
theorem systemWords : Obligations.SystemWords := by
  intro i s e r old u hu h
  cases hu with
  | gate d m u hu => exact gate_completes h hu
  | srd d n hn => exact srd_completes h hn
  | srdOpen d n hr hn => exact srd_completes_open h hr hn
  | swr a n hc => exact swr_completes h hc
  | ckptNone hr hm => exact ckpt_completes_none h hr hm
  | ckpt m hr hm hp => exact ckpt_completes h hr hm hp
  | tlbi x m a b n u hn hu h1 h2 hf hw => exact tlbi_completes h hn hu h1 h2 hf hw
  | hostsig a b e ha hr hrel he hm hroom => exact hostsig_completes h ha hr hrel he hm hroom
  | hostsigHeld a b e ha hr hrel he hm hd hfit => exact hostsig_completes_held h ha hr hrel he hm hd hfit
  | ctxsvNone d n b hb hw hsys hscr hacc ht => exact ctxsv_completes_none h hb hw hsys hscr hacc ht
  | ctxsv d n b a blk e x bytes rs u hb ha hw hsys hscr hacc ht he hf hx hd hbytes hlen hin hr =>
    exact ctxsv_completes h hb ha hw hsys hscr hacc ht he hf hx hd hbytes hlen hin hr
  | ctxrs d n a u rs head ha hc hs hb hl hno => exact ctxrs_completes h ha hc hs hb hl hno
  | ctxrsBlock d n a u rs head t ts bytes c b aside v' v ha hc hs hb hl hin hs2 hb2 hctx hi hblk hre =>
    exact ctxrs_completes_block h ha hc hs hb hl hin hs2 hb2 hctx hi hblk hre

end Sys2Proof.Proofs.SystemWords

/-!
PROOFS. What stays while work in flight completes (03_encoding.md R72, 09_memory.md R173): a property of memory, of the entries that
TLBs know, or of the groups of hoists is kept by every operation that a completion uses, hence by settling.
-/

namespace Sys2Proof.Proofs.Keeping

open Sys2Proof Sys2Proof.Machine Sys2Proof.Claims Sys2Proof.Laws Sys2Proof.Proofs.Endings Sys2Proof.Proofs.Waking
  Sys2Proof.Proofs.TrapEntries

/-! ### What is kept -/

/-- A hoist that keeps its number, gains no slice of a group, and keeps every group that has a slice. -/
def Stands (h k : Hoist) : Prop :=
  k.src = h.src ∧ ∀ g, k.groupSlices g ≠ [] → h.groupSlices g ≠ [] ∧ ((h.group? g).isSome → (k.group? g).isSome)

/-- Every entry that the TLBs know is one that they knew before, or stands at an address of eight bytes. -/
def KnownFrom (s t : State) : Prop :=
  ∀ x ∈ t.coreTlb ++ t.clusterTlb, ∀ e ∈ x.2,
    e.entryPa % 8 = 0 ∨ ∃ y ∈ s.coreTlb ++ s.clusterTlb, ∃ e' ∈ y.2, e.entryPa = e'.entryPa

/-- A property of memory, of the TLBs' entries and of the hoists that outlasts writes of the die order, translations and changes of
hoists that keep their groups. -/
structure Lasting (P : State → Prop) : Prop where
  known : ∀ {s t}, P s → t.mem = s.mem → KnownFrom s t → t.hoists = s.hoists → P t
  write : ∀ {s} (pa : Nat) (bs : List Byte), P s → P (s.writePhys pa bs)
  hoist : ∀ {s} (n : Nat) {f : Hoist → Hoist}, (∀ h, Stands h (f h)) → P s → P (s.updHoist n f)
  changed : ∀ {s} {h k : Hoist}, s.hoist? k.src = some h → Stands h k → P s → P (s.putHoist k)

theorem knownFrom_of_eq {s t : State} (hc : t.coreTlb = s.coreTlb) (hl : t.clusterTlb = s.clusterTlb) : KnownFrom s t := by
  intro x hx e he
  rw [hc, hl] at hx
  exact .inr ⟨x, hx, e, he, rfl⟩

/-! ### Hoists that stand -/

theorem groupSlices_of_slices {h k : Hoist} (hs : k.regs.slices = h.regs.slices) (hd : k.regs.dead = h.regs.dead) (g : Nat) :
    k.groupSlices g = h.groupSlices g := by
  have hin (n : Nat) : k.sliceIn g n = h.sliceIn g n := by simp only [Hoist.sliceIn, Hoist.sliceDead, hs, hd]
  rw [Hoist.groupSlices, hs, funext hin]
  rfl

theorem stands_of_groups {h k : Hoist} (hn : k.src = h.src) (hs : k.regs.slices = h.regs.slices) (hd : k.regs.dead = h.regs.dead)
    (hg : ∀ g, (h.group? g).isSome → (k.group? g).isSome) : Stands h k :=
  ⟨hn, fun g hne => ⟨groupSlices_of_slices hs hd g ▸ hne, hg g⟩⟩

theorem stands_of_regs {h k : Hoist} (hn : k.src = h.src) (hs : k.regs.slices = h.regs.slices) (hd : k.regs.dead = h.regs.dead)
    (hg : k.regs.groups = h.regs.groups) : Stands h k :=
  stands_of_groups hn hs hd fun g h1 => by
    rw [Hoist.group?, hg]
    exact h1

theorem stands_refl (h : Hoist) : Stands h h := stands_of_regs rfl rfl rfl rfl

theorem stands_trans {h k j : Hoist} (a : Stands h k) (b : Stands k j) : Stands h j :=
  ⟨b.1.trans a.1, fun g hne => ⟨(a.2 g (b.2 g hne).1).1, fun h1 => (b.2 g hne).2 ((a.2 g (b.2 g hne).1).2 h1)⟩⟩

theorem stands_of_released {h k : Hoist} (hr : Released h k) : Stands h k := by
  obtain ⟨f, hf, rfl⟩ := hr
  refine stands_of_groups rfl rfl rfl fun g h1 => ?_
  rw [Hoist.group?] at h1 ⊢
  rw [find?_map_key (key := Group.id) hf]
  simpa using h1

theorem not_here_exitAll (h : Hoist) (g : Nat) : h.exitAll.groupSlices g = [] := by
  refine List.filter_eq_nil_iff.2 fun n _ => ?_
  rw [Hoist.sliceIn, Hoist.exitAll]
  dsimp only
  rw [List.getElem?_map]
  cases h.regs.slices[n]? <;> simp

theorem stands_exitAll (h : Hoist) : Stands h h.exitAll := ⟨rfl, fun g hne => absurd (not_here_exitAll h g) hne⟩

theorem stands_prune (h : Hoist) : Stands h h.prune := by
  refine ⟨rfl, fun g hne => ⟨hne, fun h1 => ?_⟩⟩
  obtain ⟨x, hx⟩ := Option.isSome_iff_exists.1 h1
  have hid : x.id = g := by simpa using List.find?_some hx
  rw [Hoist.group?, List.find?_isSome]
  refine ⟨x, List.mem_filter.2 ⟨List.mem_of_find?_eq_some hx, ?_⟩, by simpa using hid⟩
  rw [hid]
  exact bne_iff_ne.2 hne

theorem stands_of_dead {h k : Hoist} (hn : k.src = h.src) (hs : k.regs.slices = h.regs.slices)
    (hd : ∀ l, h.regs.dead.getLsbD l = true → k.regs.dead.getLsbD l = true) (hg : k.regs.groups = h.regs.groups) : Stands h k := by
  refine ⟨hn, fun g hne => ⟨fun he => hne (List.filter_eq_nil_iff.2 fun n hm => ?_), fun h1 => ?_⟩⟩
  · have hin : h.sliceIn g n = false := by
      rw [hs] at hm
      simpa using List.filter_eq_nil_iff.1 he n hm
    have hdead (hx : h.sliceDead n = true) : k.sliceDead n = true := by
      simp only [Hoist.sliceDead, Bool.and_eq_true] at hx ⊢
      obtain ⟨⟨⟨h0, h1⟩, h2⟩, h3⟩ := hx
      exact ⟨⟨⟨hd _ h0, hd _ h1⟩, hd _ h2⟩, hd _ h3⟩
    rw [Hoist.sliceIn, hs]
    rw [Hoist.sliceIn] at hin
    cases hget : h.regs.slices[n]? with
    | none => simp
    | some x =>
      rw [hget] at hin
      dsimp only at hin ⊢
      cases hdn : h.sliceDead n with
      | true => simp [hdead hdn]
      | false =>
        rw [hdn, Bool.not_false, Bool.and_true] at hin
        simp [hin]
  · rw [Hoist.group?, hg]
    exact h1

/-! ### Deliveries leave the groups -/

/-- Two hoists with the same slices, dead lanes and groups. -/
def SameGroups (h k : Hoist) : Prop :=
  k.src = h.src ∧ k.regs.slices = h.regs.slices ∧ k.regs.dead = h.regs.dead ∧ k.regs.groups = h.regs.groups

theorem SameGroups.stands {h k : Hoist} (a : SameGroups h k) : Stands h k := stands_of_regs a.1 a.2.1 a.2.2.1 a.2.2.2

theorem SameGroups.trans {h k j : Hoist} (a : SameGroups h k) (b : SameGroups k j) : SameGroups h j :=
  ⟨b.1.trans a.1, b.2.1.trans a.2.1, b.2.2.1.trans a.2.2.1, b.2.2.2.trans a.2.2.2⟩

theorem sameGroups_writeS (h : Hoist) (d : BitVec 8) (v : Word) : SameGroups h (h.writeS d v) := by
  rw [Hoist.writeS]
  split
  · exact ⟨rfl, rfl, rfl, rfl⟩
  · split
    · exact ⟨rfl, rfl, rfl, rfl⟩
    · split <;> exact ⟨rfl, rfl, rfl, rfl⟩

theorem sameGroups_fillV (h : Hoist) (d : Nat) (vals : List (Nat × List Word)) (n : Nat) : SameGroups h (h.fillV d vals n) := by
  induction n with
  | zero => exact ⟨rfl, rfl, rfl, rfl⟩
  | succ n ih =>
    rw [Hoist.fillV]
    dsimp only
    split
    · exact ih
    · exact ih.trans ⟨rfl, rfl, rfl, rfl⟩

theorem sameGroups_foldl {α : Type} {f : Hoist → α → Hoist} (hf : ∀ h x, SameGroups h (f h x)) (xs : List α) (h : Hoist) :
    SameGroups h (xs.foldl f h) := by
  induction xs generalizing h with
  | nil => exact ⟨rfl, rfl, rfl, rfl⟩
  | cons x xs ih => exact (hf h x).trans (ih _)

theorem sameGroups_deliver (h : Hoist) (t : Target) (vals : List (Nat × List Byte)) : SameGroups h (h.deliver t vals) := by
  cases t with
  | v d m => exact sameGroups_fillV h d _ _
  | s d m =>
    have hs := sameGroups_foldl (f := fun h i => h.setS (d + i) ((loadWords m ((vals.head?.map (·.2)).getD [])).getD i 0))
      (fun _ _ => ⟨rfl, rfl, rfl, rfl⟩) (List.range (Target.s d m).count) h
    exact hs.trans ⟨rfl, rfl, rfl, rfl⟩
  | a d p => exact ⟨rfl, rfl, rfl, rfl⟩

end Sys2Proof.Proofs.Keeping

/-!
PROOFS. Settling keeps what is `Lasting`: writes, translations, losses, and every completion of work in flight (09_memory.md R173,
R187–R195, 15_cube.md R286–R297, 21_reliability.md R358–R361, 23_rendering.md R381–R389).
-/

namespace Sys2Proof.Proofs.Keeping

open Sys2Proof Sys2Proof.Machine Sys2Proof.Claims Sys2Proof.Laws

-- One declaration after another: at once, each would wait in a thread of its own for the ones before it.
set_option Elab.async false

section
variable {P : State → Prop} {s : State}

/-! ### Fields, writes and records -/

theorem Lasting.same {t : State} (L : Lasting P) (h : P s) (hm : t.mem = s.mem := by rfl)
    (hc : t.coreTlb = s.coreTlb := by rfl) (hl : t.clusterTlb = s.clusterTlb := by rfl)
    (hh : t.hoists = s.hoists := by rfl) : P t :=
  L.known h hm (knownFrom_of_eq hc hl) hh

theorem Lasting.foldl {α : Type} {f : State → α → State} (hf : ∀ s x, P s → P (f s x)) (xs : List α) (h : P s) :
    P (xs.foldl f s) := by
  induction xs generalizing s with
  | nil => exact h
  | cons x xs ih => exact ih (hf s x h)

theorem Lasting.dropFlight (L : Lasting P) (n : Nat) (h : P s) : P (s.dropFlight n) := L.same h

theorem Lasting.dropCount (L : Lasting P) (n : Nat) (k : Counter) (h : P s) : P (s.dropCount n k) :=
  L.hoist n (fun _ => stands_of_regs rfl rfl rfl rfl) h

theorem Lasting.agentWrite (L : Lasting P) (ctx pa : Nat) (bs : List Byte) (h : P s) : P (s.agentWrite ctx pa bs) := by
  rw [State.agentWrite]
  split
  · exact L.same h
  · exact L.write pa bs h

theorem Lasting.writeRuns (L : Lasting P) (ctx : Nat) (rs : Runs) (bs : List Byte) (h : P s) : P (s.writeRuns ctx rs bs) := by
  induction rs generalizing s bs with
  | nil => exact h
  | cons r rs ih => exact ih _ (L.agentWrite ctx r.1 _ h)

theorem Lasting.raiseMsi (L : Lasting P) (v : Nat) (h : P s) : P (s.raiseMsi v) := by
  rw [State.raiseMsi]
  split
  · exact h
  · split <;> exact L.same h

theorem Lasting.ringAppend (L : Lasting P) (ring depth : Nat) (rec : List Byte) (h : P s) : P (s.ringAppend ring depth rec) :=
  L.write _ _ (L.write _ _ h)

theorem Lasting.logEvent (L : Lasting P) (cls src : Nat) (ctx : Option Nat) (aux : Nat) (data : List Byte) (h : P s) :
    P (s.logEvent cls src ctx aux data) := by
  unfold State.logEvent
  dsimp only
  split
  · exact h
  · split
    · exact L.raiseMsi _ (L.ringAppend _ _ _ h)
    · exact L.write _ _ h

theorem Lasting.poisonSector (L : Lasting P) (k src : Nat) (h : P s) : P (s.poisonSector k src) := by
  unfold State.poisonSector
  split
  · exact h
  · exact L.logEvent _ _ _ _ _ (L.same h)

theorem Lasting.poisonRuns (L : Lasting P) (src : Nat) (rs : Runs) (h : P s) : P (s.poisonRuns src rs) := by
  refine Lasting.foldl (fun s r h => Lasting.foldl (fun s i h => ?_) _ h) rs h
  dsimp only
  split
  · exact L.poisonSector _ _ h
  · exact h

theorem Lasting.writeScratch (L : Lasting P) (b off : Nat) (bs : List Byte) (h : P s) : P (s.writeScratch b off bs) :=
  L.same h

theorem Lasting.evalBars (L : Lasting P) (id : Nat) (h : P s) : P (s.evalBars id) := by
  rw [State.evalBars]
  split
  · exact iteInduction (motive := P) (fun _ => L.same h) fun _ => L.same h
  · exact L.same h

theorem Lasting.wakeMonitor (L : Lasting P) (m : Monitor) (h : P s) : P (s.wakeMonitor m) := by
  rw [State.wakeMonitor]
  split
  · exact L.hoist _ (fun h => stands_of_released (Waking.released_release h _ _)) h
  · exact L.same h

theorem Lasting.wakeWhere (L : Lasting P) (p : Monitor → Bool) (h : P s) : P (s.wakeWhere p) := by
  rw [State.wakeWhere]
  exact Lasting.foldl (fun _ m => L.wakeMonitor m) _ (L.same h)

theorem Lasting.writeShared (L : Lasting P) (src ctx pa : Nat) (bs : List Byte) (h : P s) : P (s.writeShared src ctx pa bs) := by
  rw [State.writeShared]
  refine L.agentWrite _ _ _ ?_
  split
  · refine L.hoist _ (fun x => ?_) h
    rw [State.posts]
    split
    · split <;> exact stands_of_regs rfl rfl rfl rfl
    · exact stands_refl x
  · exact h

theorem Lasting.writeAccess (L : Lasting P) (src block ctx : Nat) (x : Access) (bs : List Byte) (h : P s) :
    P (s.writeAccess src block ctx x bs) := by
  unfold State.writeAccess
  split
  · exact L.writeScratch _ _ _ h
  · split
    · split
      · exact L.hoist _ (fun _ => stands_of_regs rfl rfl rfl rfl) h
      · exact L.writeShared _ _ _ _ h
    · exact L.writeShared _ _ _ _ h

theorem Lasting.unpoison (L : Lasting P) (rs : List (Nat × Nat)) (h : P s) : P (s.unpoison rs) := by
  rw [State.unpoison]
  split
  · exact h
  · exact L.same h

/-! ### Lanes and hoists that leave -/

theorem Lasting.loseHoist (L : Lasting P) (src aux : Nat) (named : List Byte) (h : P s) : P (s.loseHoist src aux named) := by
  unfold State.loseHoist
  split
  · exact h
  next k hk =>
    have hsrc : k.exitAll.src = src := (TrapEntries.src_of_hoist? hk : k.src = src)
    exact L.evalBars _ (L.logEvent _ _ _ _ _ (L.same (L.changed (hsrc.symm ▸ hk) (stands_exitAll k) h)))

theorem Lasting.killLanes (L : Lasting P) (src : Nat) (lanes : List (Nat × Nat)) (named : List Byte) (h : P s) :
    P (s.killLanes src lanes named) := by
  unfold State.killLanes
  split
  · exact h
  next k hk =>
    dsimp only
    split
    · exact h
    · have hsrc : k.src = src := TrapEntries.src_of_hoist? hk
      have hdead (m e : Mask) : Stands k ({ k with regs := { k.regs with dead := k.regs.dead ||| m, exec := e } } : Hoist).prune := by
        refine stands_trans ?_ (stands_prune _)
        exact stands_of_dead rfl rfl (fun l hl => BitVec.getLsbD_or.trans (by rw [hl, Bool.true_or])) rfl
      have hlog (u : State) (hu : P u) (ls : List (Nat × Nat)) : P (State.evalBars (ls.foldl (fun s l =>
          s.logEvent 1 src ((u.block? k.block).map (·.ctx)) l.1 (natLe 16 l.2)) u) k.block) :=
        L.evalBars k.block (Lasting.foldl (fun _ _ h => L.logEvent _ _ _ _ _ h) ls hu)
      have hput (m e : Mask) := hlog _ (L.changed (s := s) (hsrc.symm ▸ hk) (hdead m e) h)
      exact iteInduction (motive := P) (fun _ => L.loseHoist _ _ _ (hput _ _ _)) fun _ => hput _ _ _

/-! ### Translations and ranges -/

theorem mem_tlbOf {l : List (Nat × List TlbEntry)} {n : Nat} {e : TlbEntry} (h : e ∈ tlbOf l n) : ∃ x ∈ l, e ∈ x.2 := by
  rw [tlbOf] at h
  cases hf : l.find? (·.1 == n) with
  | none =>
    rw [hf] at h
    exact absurd h List.not_mem_nil
  | some x =>
    rw [hf] at h
    exact ⟨x, List.mem_of_find?_eq_some hf, h⟩

theorem mem_tlbAdd {l : List (Nat × List TlbEntry)} {n size : Nat} {t e : TlbEntry} {x : Nat × List TlbEntry}
    (hx : x ∈ tlbAdd l n size t) (he : e ∈ x.2) : e = t ∨ ∃ y ∈ l, e ∈ y.2 := by
  rcases List.mem_cons.1 hx with rfl | hx
  · rcases List.mem_append.1 (List.mem_of_mem_drop he) with he | he
    · exact .inr (mem_tlbOf (List.mem_filter.1 he).1)
    · exact .inl (List.mem_singleton.1 he)
  · exact .inr ⟨x, (List.mem_filter.1 hx).1, he⟩

/-- The leaf that a walk finds stands at an address of eight bytes: tables stand at addresses of 64 KiB (R342). -/
theorem walkFrom_leaf_aligned {m : Memory} {va : Nat} {hm : Bool} {ls : List (Nat × Nat)} {table level pa e : Nat}
    (ht : table % 8 = 0) (h : walkFrom m va hm ls table = .leaf level pa e) : pa % 8 = 0 := by
  induction ls generalizing table with
  | nil => cases h
  | cons l ls ih =>
    have hpa (n : Nat) : (table + 8 * n) % 8 = 0 := by omega
    unfold walkFrom at h
    dsimp only at h
    split at h
    · cases h
    · split at h
      · split at h
        · cases h
        · cases h
          exact hpa _
      · split at h
        · cases h
        · exact ih (by rw [entryPage]; omega) h

theorem walk_leaf_aligned {m : Memory} {c : Ctx} {va level pa e : Nat} (h : walk m c va = .leaf level pa e) : pa % 8 = 0 := by
  unfold walk at h
  dsimp only at h
  split at h
  · cases h
  · split at h
    · cases h
    · exact walkFrom_leaf_aligned (by rw [entryPage]; omega) h

theorem knownFrom_filled {t : State} {core size size' cluster : Nat} {e : TlbEntry} (he : e.entryPa % 8 = 0)
    (hc : t.coreTlb = tlbAdd s.coreTlb core size e) (hl : t.clusterTlb = tlbAdd s.clusterTlb cluster size' e) : KnownFrom s t := by
  intro x hx x' hx'
  rw [hc, hl] at hx
  have hold : x' = e ∨ ∃ y ∈ s.coreTlb ++ s.clusterTlb, x' ∈ y.2 := by
    rcases List.mem_append.1 hx with hx | hx
    · exact (mem_tlbAdd hx hx').imp_right fun ⟨y, hy, hm⟩ => ⟨y, List.mem_append_left _ hy, hm⟩
    · exact (mem_tlbAdd hx hx').imp_right fun ⟨y, hy, hm⟩ => ⟨y, List.mem_append_right _ hy, hm⟩
  rcases hold with rfl | ⟨y, hy, hm⟩
  · exact .inl he
  · exact .inr ⟨y, hy, x', hm, rfl⟩

/-- TLBs whose lists change, each entry going or keeping its place. -/
theorem knownFrom_map {t : State} {f : List TlbEntry → List TlbEntry} (hf : ∀ es, ∀ e ∈ f es, ∃ e' ∈ es, e.entryPa = e'.entryPa)
    (hc : t.coreTlb = s.coreTlb.map fun x => (x.1, f x.2)) (hl : t.clusterTlb = s.clusterTlb.map fun x => (x.1, f x.2)) :
    KnownFrom s t := by
  intro x hx e he
  rw [hc, hl, ← List.map_append] at hx
  obtain ⟨y, hy, rfl⟩ := List.mem_map.1 hx
  obtain ⟨e', he', hpa⟩ := hf y.2 e he
  exact .inr ⟨y, hy, e', he', hpa⟩

theorem Lasting.translate (L : Lasting P) (core : Nat) (c : Ctx) (va : Nat) (h : P s) : P (s.translate core c va).2 := by
  unfold State.translate
  split
  · exact h
  · split
    · exact h
    · split
      · exact h
      next level pa e hw =>
        have hf (u : State) (hu : P u) := L.known (t := { u with
          coreTlb := tlbAdd u.coreTlb core 2048 ⟨c.id, level, va / 2 ^ pageShift level, BitVec.ofNat 64 (leafAccessed e), pa⟩
          clusterTlb := tlbAdd u.clusterTlb (core / 4) 16384
            ⟨c.id, level, va / 2 ^ pageShift level, BitVec.ofNat 64 (leafAccessed e), pa⟩ }) hu rfl
          (knownFrom_filled (walk_leaf_aligned hw) rfl rfl) rfl
        exact hf _ (iteInduction (motive := P) (fun _ => h) fun _ => L.write _ _ h)

theorem Lasting.forgetLeaf (L : Lasting P) (pa : Nat) (h : P s) : P (s.forgetLeaf pa) :=
  L.known h rfl (knownFrom_map (f := fun es => es.filter (·.entryPa != pa))
    (fun _ e he => ⟨e, (List.mem_filter.1 he).1, rfl⟩) rfl rfl) rfl

theorem Lasting.markDirty (L : Lasting P) (leaf pa : Nat) (h : P s) : P (s.markDirty leaf pa).2 := by
  have hset (u : State) (hu : P u) : P { u with
      coreTlb := u.coreTlb.map fun x => (x.1, x.2.map fun t => if t.entryPa == pa then { t with leaf := t.leaf ||| 0x800#64 } else t)
      clusterTlb := u.clusterTlb.map fun x =>
        (x.1, x.2.map fun t => if t.entryPa == pa then { t with leaf := t.leaf ||| 0x800#64 } else t) } := by
    refine L.known hu rfl (knownFrom_map (f := fun es => es.map fun t =>
      if t.entryPa == pa then { t with leaf := t.leaf ||| 0x800#64 } else t) (fun es e he => ?_) rfl rfl) rfl
    obtain ⟨t, ht, rfl⟩ := List.mem_map.1 he
    exact ⟨t, ht, by split <;> rfl⟩
  unfold State.markDirty
  split
  · exact h
  · split
    · exact h
    · dsimp only
      split
      · exact L.forgetLeaf pa h
      · exact hset _ (iteInduction (motive := P) (fun _ => h) fun _ => L.write _ _ h)

theorem Lasting.tsuordWants (L : Lasting P) (c : Ctx) (m : Mirror) (page : BitVec 56) (h : P s) : P (s.tsuordWants c m page) := by
  unfold State.tsuordWants
  dsimp only
  split
  · exact h
  · split <;> exact L.same h

theorem Lasting.companionWants (L : Lasting P) (ctx : Nat) (page : BitVec 56) (h : P s) : P (s.companionWants ctx page) := by
  unfold State.companionWants
  split
  · exact h
  · exact L.same h

theorem Lasting.askHome (L : Lasting P) {c : Ctx} {va : VAddr} {pa : Nat} {use : PageUse} {b : Bool} {t : State}
    (ha : s.askHome c va pa use = some (b, t)) (h : P s) : P t := by
  unfold State.askHome at ha
  dsimp only at ha
  split at ha
  · split at ha
    · cases ha
    · split at ha
      · cases ha
        exact L.tsuordWants _ _ _ h
      · cases ha
  · split at ha
    · split at ha
      · cases ha
        exact L.companionWants _ _ h
      · cases ha
    · cases ha

theorem Lasting.reach (L : Lasting P) (core : Nat) (c : Ctx) (va : VAddr) (use : PageUse) (r : Rights) (h : P s) :
    P (s.reach core c va use r).2 := by
  have ht := L.translate core c va.toNat h
  unfold State.reach
  split
  next heq => rw [heq] at ht; exact ht
  next heq => rw [heq] at ht; exact ht
  next u heq =>
    rw [heq] at ht
    split
    · exact ht
    · split
      next ha => exact L.askHome ha ht
      next ha => exact L.askHome ha ht
      · exact ht

theorem Lasting.dirtied (L : Lasting P) (x : Reach) (c : Ctx) (va : VAddr) (use : PageUse) (h : P s) :
    P (x.dirtied c va use s).2 := by
  unfold Reach.dirtied
  split
  next pa leaf entry =>
    have hm := L.markDirty leaf entry h
    split
    · split <;> (next heq => rw [heq] at hm; exact hm)
    · exact h
  · exact h

theorem Lasting.dirtyUnits (L : Lasting P) (c : Ctx) (use : PageUse) (xs : List UnitReach) (h : P s) :
    P (Machine.dirtyUnits c use xs s).2 := by
  induction xs generalizing s with
  | nil => exact h
  | cons x xs ih => exact ih (L.dirtied x.reach c x.va use h)

theorem Lasting.reachUnits (L : Lasting P) (core : Nat) (c : Ctx) (use : PageUse) (r : Rights) (t : Bool) (fuel : Nat) (va : VAddr)
    (n : Nat) (h : P s) : P (State.reachUnits core c use r t fuel va n s).2 := by
  induction fuel generalizing s va n with
  | zero => exact h
  | succ fuel ih =>
    rw [State.reachUnits]
    split
    · exact h
    · exact ih _ _ (L.reach core c va use r h)

theorem Lasting.checkUnits (L : Lasting P) (w : Who) (c : Ctx) (use : PageUse) (va : VAddr) (xs : List UnitReach) (h : P s) :
    P (s.checkUnits w c use va xs).2 := by
  have hd := L.dirtyUnits c use xs h
  unfold State.checkUnits
  dsimp only
  split
  · exact h
  · split
    · exact h
    · split
      · exact h
      · split <;> exact hd

theorem Lasting.seenBy {α : Type} (L : Lasting P) (w : Who) {f : State → α × State} (hf : ∀ s, P s → P (f s).2) (h : P s) :
    P (s.seenBy w f).2 := by
  unfold State.seenBy
  split
  · exact hf s h
  · exact L.same (hf { s with flights := s.ownersFor w } (L.same h))

theorem Lasting.reachRange (L : Lasting P) (w : Who) (c : Ctx) (use : PageUse) (r : Rights) (t : Bool) (fuel : Nat) (va : VAddr)
    (n : Nat) (h : P s) : P (State.reachRange w c use r t fuel va n s).2 :=
  L.seenBy w (fun _ h => L.checkUnits w c use va _ (L.reachUnits w.core c use r t fuel va n h)) h

theorem Lasting.range (L : Lasting P) (w : Who) (c : Ctx) (use : PageUse) (r : Rights) (va : VAddr) (n : Nat) (h : P s) :
    P (s.range w c use r va n).2 := L.reachRange w c use r false (unitsOf n) va n h

end

end Sys2Proof.Proofs.Keeping

/-!
PROOFS. Completions keep what is `Lasting`: copies (09_memory.md R187–R201), the cube engine (15_cube.md R286–R297), queues (09_memory.md
R203–R207), queries and beams (23_rendering.md R381–R389), hence settling.
-/

namespace Sys2Proof.Proofs.Keeping

open Sys2Proof Sys2Proof.Machine Sys2Proof.Claims Sys2Proof.Laws

-- One declaration after another: at once, each would wait in a thread of its own for the ones before it.
set_option Elab.async false

section
variable {P : State → Prop} {s : State}

/-! ### Loads, stores and atomics -/

theorem Lasting.completeLoad (L : Lasting P) (f : Flight) (k : Counter) (t : Target) (acc : List Access) (h : P s) :
    P (s.completeLoad f k t acc) := by
  have hd (data : List (Nat × List Byte)) : P ((s.updHoist f.src fun h => h.deliver t data).dropCount f.src k) :=
    L.dropCount _ _ (L.hoist _ (fun x => (sameGroups_deliver x t data).stands) h)
  unfold State.completeLoad
  dsimp only
  split
  · exact hd _
  · split
    · exact L.killLanes _ _ _ (hd _)
    · exact L.loseHoist _ _ _ (hd _)

theorem Lasting.performWrites (L : Lasting P) (src block ctx : Nat) (ws : List (Access × List Byte)) (h : P s) :
    P (s.performWrites src block ctx ws) := by
  have ht : P (ws.foldl (fun s w => s.writeAccess src block ctx w.1 w.2) s) :=
    Lasting.foldl (P := P) (fun _ w h => L.writeAccess _ _ _ w.1 w.2 h) ws h
  unfold State.performWrites
  dsimp only
  split
  · split
    · exact L.hoist _ (fun _ => stands_of_regs rfl rfl rfl rfl) ht
    · exact ht
  · exact L.unpoison _ ht

theorem Lasting.performAtomic (L : Lasting P) (src block ctx : Nat) (op : AtomicOp) (xs : List AtomLane) (h : P s) :
    P (State.performAtomic src block ctx op xs s).2 := by
  induction xs generalizing s with
  | nil => exact h
  | cons x xs ih =>
    refine ih ?_
    split
    · split
      · exact L.writeScratch _ _ _ h
      · exact L.writeShared _ _ _ _ h
    · exact h

theorem Lasting.completeAtomic (L : Lasting P) (f : Flight) (cas : Bool) (m : Nat) (ret : Option Target) (lanes : List AtomLane)
    (h : P s) : P (s.completeAtomic f cas m ret lanes) := by
  have hp (xs : List AtomLane) := L.performAtomic f.src f.block f.ctx (if cas then .cas else .rmw m) xs h
  unfold State.completeAtomic
  dsimp only
  cases ret with
  | none =>
    have hd (xs : List AtomLane) := L.dropCount f.src .w (hp xs)
    split
    · exact L.same (hd _)
    · exact L.killLanes _ _ _ (L.same (hd _))
  | some t =>
    have hd (xs : List AtomLane) (olds : List (Nat × List Byte)) := L.dropCount f.src .g
      (L.hoist f.src (fun x => (sameGroups_deliver x t olds).stands) (hp xs))
    split
    · exact L.same (hd _ _)
    · split
      · exact L.loseHoist _ _ _ (L.same (hd _ _))
      · exact L.killLanes _ _ _ (L.same (hd _ _))

/-! ### Engines -/

theorem Lasting.engineRead (L : Lasting P) (f : Flight) (c : Ctx) (a : AReg) (e : Int) (n : Nat) (h : P s) :
    P (s.engineRead f c a e n).2 := by
  have hr := L.range (s.engine f) c .load a.rights (a.address e) n h
  unfold State.engineRead
  split
  · dsimp only
    split <;> exact h
  · split <;> (next heq => rw [heq] at hr; exact hr)

theorem Lasting.engineWrite (L : Lasting P) {f : Flight} {src : Nat} {c : Ctx} {a : AReg} {e : Int} {bs : List Byte}
    {poisoned tierOk : Bool} {t : State} (ht : s.engineWrite f src c a e bs poisoned tierOk = .ok t) (h : P s) : P t := by
  have hr := L.reachRange (s.engine f) c .store a.rights tierOk (unitsOf bs.length) (a.address e) bs.length h
  unfold State.engineWrite at ht
  split at ht
  · cases ht
    exact iteInduction (motive := P) (fun _ => L.same h) fun _ => L.writeScratch _ _ _ h
  · split at ht
    next heq =>
      rw [heq] at hr
      cases ht
      exact iteInduction (motive := P) (fun _ => L.poisonRuns _ _ (L.writeRuns _ _ _ hr)) fun _ => L.writeRuns _ _ _ hr
    · cases ht

theorem Lasting.arriveBytes (L : Lasting P) {f : Flight} {c : Ctx} {a : AReg} {n : Nat} {t : State}
    (ht : s.arriveBytes f c a n = .ok t) (h : P s) : P t := by
  have hr := L.range (s.engine f) c .atomic a.rights (a.address (a.cursor.toNat : Int)) 16 h
  unfold State.arriveBytes at ht
  dsimp only at ht
  split at ht
  · split at ht
    · cases ht
      exact L.writeScratch _ _ _ h
    · cases ht
      exact h
  · split at ht
    next heq =>
      rw [heq] at hr
      cases ht
      exact L.writeRuns _ _ _ hr
    · cases ht

theorem Lasting.freeWhere (L : Lasting P) (marks : List Bool) (bs : List Byte) (h : P s) : P (s.freeWhere marks bs).2 := by
  unfold State.freeWhere
  split
  · exact L.same h
  · exact h

theorem Lasting.engineAsks (L : Lasting P) (f : Flight) (c : Ctx) (a : AReg) (e : Int) (use : PageUse) (h : P s) :
    P (s.engineAsks f c a e use) := L.seenBy _ (fun _ h => L.reach _ _ _ _ _ h) h

/-! ### Copies -/

/-- Every state that the move of an element may end in has a property. -/
def MovedTo (P : State → Prop) : Moved → Prop
  | .ok s => P s
  | .fail _ _ s => P s
  | .stall s => P s

theorem Lasting.moveElement (L : Lasting P) (f : Flight) (c : Ctx) (j : CopyJob) (dst : List (Nat × Nat)) (k : Nat) (h : P s) :
    MovedTo P (s.moveElement f c j dst k) := by
  have hread : P (if (j.zfill && !j.src.inBounds ((s.block? f.block).getD Block.none).segSize (j.srcPos k) (2 ^ j.esz)) = true then
      ((.ok (natLe (2 ^ j.esz) 0, false), s) : Except RangeFault (List Byte × Bool) × State)
      else s.engineRead f c j.src (j.srcPos k) (2 ^ j.esz)).2 :=
    iteInduction (motive := fun x : Except RangeFault (List Byte × Bool) × State => P x.2) (fun _ => h)
      fun _ => L.engineRead f c j.src _ _ h
  unfold State.moveElement
  dsimp only
  generalize (if (j.zfill && !j.src.inBounds ((s.block? f.block).getD Block.none).segSize (j.srcPos k) (2 ^ j.esz)) = true then
      ((.ok (natLe (2 ^ j.esz) 0, false), s) : Except RangeFault (List Byte × Bool) × State)
      else s.engineRead f c j.src (j.srcPos k) (2 ^ j.esz)) = x at hread ⊢
  split
  · split <;> exact hread
  next bs poisoned _ =>
    have hfree (marks : List Bool) (b : Bool) : P (if b = true then (bs, x.2) else x.2.freeWhere marks bs).2 :=
      iteInduction (motive := fun y : List Byte × State => P y.2) (fun _ => hread) fun _ => L.freeWhere marks bs hread
    split
    · split
      · exact L.engineAsks _ _ _ _ _ (hfree _ _)
      · exact hfree _ _
    next hw =>
      have hwrite := L.engineWrite hw (hfree _ _)
      cases hb : j.bar with
      | none => exact L.same hwrite
      | some a =>
        dsimp only [Option.elim]
        split
        · split
          · exact L.engineAsks _ _ _ _ _ (hfree _ _)
          · exact hfree _ _
        next ha => exact L.same (L.arriveBytes ha hwrite)

theorem Lasting.moveEach (L : Lasting P) (f : Flight) (c : Ctx) (j : CopyJob) (dst : List (Nat × Nat)) {was : State} (hw : P was)
    (ks : List Nat) (h : P s) : MovedTo P (State.moveEach f c j dst was ks s) := by
  induction ks generalizing s with
  | nil => exact h
  | cons k ks ih =>
    have hm := L.moveElement f c j dst k h
    rw [State.moveEach]
    split
    next heq => rw [heq] at hm; exact ih hm
    · exact hw
    · exact hw

theorem Lasting.moveAll (L : Lasting P) (f : Flight) (c : Ctx) (j : CopyJob) (dst : List (Nat × Nat)) (ks : List Nat) (h : P s) :
    MovedTo P (State.moveAll f c j dst ks s) := by
  unfold State.moveAll
  split
  · exact L.moveElement f c j dst _ h
  · cases hs : ks.findSome? (s.moveStopped f c j dst) with
    | none => exact L.moveEach f c j dst h ks h
    | some m =>
      obtain ⟨k, -, hk⟩ := List.exists_of_findSome?_eq_some hs
      have hm := L.moveElement f c j dst k h
      unfold State.moveStopped at hk
      split at hk
      · cases hk
      · cases hk
        exact hm

theorem Lasting.scrambleCopy (L : Lasting P) (f : Flight) (c : Ctx) (j : CopyJob) (ks : List Nat) (h : P s) :
    P (State.scrambleCopy f c j ks s) := by
  induction ks generalizing s with
  | nil => exact h
  | cons k ks ih =>
    refine ih ?_
    split
    next heq => exact L.engineWrite heq (L.same h)
    · exact h

theorem Lasting.failCopy (L : Lasting P) (f : Flight) (j : CopyJob) (e : RangeFault) (h : P s) : P (s.failCopy f j e) :=
  L.hoist _ (fun _ => stands_of_regs rfl rfl rfl rfl) (L.same (L.scrambleCopy f _ j _ h))

theorem Lasting.joinToken (L : Lasting P) {core ctx : Nat} {va : VAddr} {kind : Nat} {f : Token → Token} {n : Nat} {t : State}
    (hj : s.joinToken core ctx va kind f = some (n, t)) (h : P s) : P t := by
  unfold State.joinToken at hj
  dsimp only at hj
  split at hj
  · cases hj
    exact L.same h
  · obtain ⟨id, -, he⟩ := Option.map_eq_some_iff.1 hj
    cases he
    exact L.same h

theorem Lasting.tokenWait (L : Lasting P) (src ctx : Nat) (va : VAddr) (kind : Nat) (h : P s) : P (s.tokenWait src ctx va kind).2 := by
  unfold State.tokenWait
  split
  next hj => exact L.joinToken hj h
  · exact h

theorem Lasting.copyFault (L : Lasting P) (f : Flight) (j : CopyJob) (e : RangeFault) (kind : Nat) (h : P s) :
    P (s.copyFault f j e kind) := by
  unfold State.copyFault
  split
  · split
    next hj => exact L.same (L.joinToken hj h)
    · exact h
  · exact L.failCopy f j e h

theorem Lasting.moveElements (L : Lasting P) (f : Flight) (dst : List (Nat × Nat)) (ks : List Nat) (h : P s) :
    P (State.moveElements f dst ks s) := by
  induction ks generalizing s with
  | nil => exact h
  | cons k ks ih =>
    rw [State.moveElements]
    split
    next j _ _ =>
      split
      · exact h
      · split
        · exact ih h
        · have hm := L.moveAll f (s.flightCtx f) j dst (j.together k) h
          split
          next heq => rw [heq] at hm; exact ih hm
          next heq => rw [heq] at hm; exact L.copyFault _ _ _ _ hm
          next heq => rw [heq] at hm; exact hm
    · exact h

theorem Lasting.postedCopy (L : Lasting P) (f : Flight) (h : P s) : P (s.postedCopy f) := by
  unfold State.postedCopy
  split
  · exact h
  · exact L.hoist _ (fun _ => stands_of_regs rfl rfl rfl rfl) h

theorem Lasting.endCopy (L : Lasting P) (f : Flight) (h : P s) : P (s.endCopy f) := by
  unfold State.endCopy
  split
  · split
    · exact L.same (iteInduction (motive := P) (fun _ => h) fun _ => L.postedCopy f h)
    · exact h
  · exact h

/-! ### The cube engine -/

theorem Lasting.completePass (L : Lasting P) (f : Flight) (job : PassJob) (h : P s) : P (s.completePass f job) := by
  unfold State.completePass
  split
  · exact h
  · dsimp only
    exact L.dropCount _ _ (L.hoist _ (fun _ => stands_of_regs rfl rfl rfl rfl) (L.same h))

theorem Lasting.completePromote (L : Lasting P) (f : Flight) (tile : Nat) (h : P s) : P (s.completePromote f tile) := by
  unfold State.completePromote
  split
  · exact h
  · dsimp only
    split
    · exact h
    · exact L.hoist _ (fun _ => stands_of_regs rfl rfl rfl rfl) (L.same h)

theorem Lasting.completeTileRead (L : Lasting P) (f : Flight) (tile d n j0 : Nat) (rows : List (Nat × Nat)) (h : P s) :
    P (s.completeTileRead f tile d n j0 rows) := by
  unfold State.completeTileRead
  split
  · exact h
  · exact L.dropCount _ _ (L.hoist _ (fun x => (sameGroups_fillV x _ _ _).stands) h)

theorem Lasting.readPieces (L : Lasting P) (f : Flight) (c : Ctx) (win : AReg) (ps : List (Int × Nat)) (m : Memory) (h : P s) :
    P (State.readPieces f c win ps m s).2 := by
  induction ps generalizing s m with
  | nil => exact h
  | cons p ps ih =>
    have hr := L.engineRead f c win p.1 16 h
    rw [State.readPieces]
    split
    next heq => rw [heq] at hr; exact ih _ hr
    next heq => rw [heq] at hr; exact hr
    next heq => rw [heq] at hr; exact hr

theorem Lasting.writePieces (L : Lasting P) {f : Flight} {src : Nat} {c : Ctx} {win : AReg} {m : Memory} {ps : List (Int × Nat)}
    {t : State} (ht : State.writePieces f src c win m ps s = .ok t) (h : P s) : P t := by
  induction ps generalizing s with
  | nil =>
    cases ht
    exact h
  | cons p ps ih =>
    rw [State.writePieces] at ht
    split at ht
    next heq => exact ih ht (L.engineWrite heq h)
    · split at ht <;> cases ht

theorem Lasting.askKill (L : Lasting P) (f : Flight) (h : P s) : P (s.askKill f) := by
  unfold State.askKill
  split
  · exact h
  · exact L.same h

theorem Lasting.completeFill (L : Lasting P) (f : Flight) (slot : Nat) (win : AReg) (off : Int) (pitch : Nat) (h : P s) :
    P (s.completeFill f slot win off pitch) := by
  have hr := L.readPieces f (s.flightCtx f) win (slotPieces win off pitch) [] h
  unfold State.completeFill
  split
  next heq => rw [heq] at hr; exact L.same hr
  next heq => rw [heq] at hr; exact hr
  next heq => rw [heq] at hr; exact L.askKill f hr

theorem Lasting.completeSlotStore (L : Lasting P) (f : Flight) (slot : Nat) (win : AReg) (off : Int) (pitch : Nat) (h : P s) :
    P (s.completeSlotStore f slot win off pitch) := by
  unfold State.completeSlotStore
  split
  · exact L.same h
  · split
    next heq => exact L.same (L.dropCount f.src .w (L.unpoison _ (L.writePieces heq h)))
    · exact h
    · exact L.askKill f h

/-! ### Queues -/

theorem Lasting.queueRead (L : Lasting P) (p : QueuePlace) (off n : Nat) (use : PageUse) (h : P s) :
    P (s.queueRead p off n use).2 := by
  unfold State.queueRead
  split
  · dsimp only
    split <;> exact h
  next w c va r =>
    have hr := L.range w c use r (va + BitVec.ofNat 72 off) n h
    split
    next heq =>
      rw [heq] at hr
      split <;> exact hr
    next heq => rw [heq] at hr; exact hr

theorem Lasting.queueWrite (L : Lasting P) {p : QueuePlace} {off : Nat} {bs : List Byte} {use : PageUse} {t : State}
    (ht : s.queueWrite p off bs use = .ok t) (h : P s) : P t := by
  unfold State.queueWrite at ht
  split at ht
  · cases ht
    exact L.writeScratch _ _ _ h
  next w c va r =>
    have hr := L.range w c use r (va + BitVec.ofNat 72 off) bs.length h
    split at ht
    next heq =>
      rw [heq] at hr
      cases ht
      exact L.writeRuns _ _ _ hr
    · cases ht

theorem Lasting.wakeQueue (L : Lasting P) (p : QueuePlace) (h : P s) : P (s.wakeQueue p) := by
  unfold State.wakeQueue
  split
  · exact h
  next w c va r =>
    have hr := L.range w c .load r va 64 h
    generalize s.range w c .load r va 64 = x at hr ⊢
    split
    · exact L.wakeWhere _ hr
    · exact hr

theorem Lasting.queueEnds (L : Lasting P) (p : QueuePlace) (h : P s) : P (s.queueEnds p).2 := by
  unfold State.queueEnds
  split
  next b off =>
    have hr := L.queueRead (.scratch b off) 0 8 .atomic h
    split <;> (next heq => rw [heq] at hr; exact hr)
  next w c va r =>
    have hr := L.reach w.core c va .load r h
    generalize s.reach w.core c va .load r = x at hr ⊢
    split <;> exact hr

theorem Lasting.queueReach (L : Lasting P) (p : QueuePlace) (use : PageUse) (parts : List (Nat × Nat)) (h : P s) :
    P (s.queueReach p use parts).2 := by
  unfold State.queueReach
  split
  · exact h
  next w c va r =>
    refine L.checkUnits w c use va _ ?_
    refine List.foldlRecOn (motive := fun x : List UnitReach × State => P x.2) parts _ h fun x hx part _ => ?_
    exact L.reachUnits w.core c use r false _ _ _ hx

theorem Lasting.queuePut (L : Lasting P) {p : QueuePlace} {q : QueueWord} {use : PageUse} {i : Nat} {xs : List (List Byte)}
    {t : State} (ht : State.queuePut p q use i xs s = .ok t) (h : P s) : P t := by
  induction xs generalizing s i with
  | nil =>
    cases ht
    exact h
  | cons x xs ih =>
    rw [State.queuePut] at ht
    split at ht
    next heq => exact ih ht (L.queueWrite heq h)
    · cases ht

theorem Lasting.queuePush (L : Lasting P) {p : QueuePlace} {q : QueueWord} {xs : List (List Byte)} {use : PageUse} {k : Nat}
    {t : State} (ht : s.queuePush p q xs use = .ok (k, t)) (h : P s) : P t := by
  have hends := L.queueEnds p h
  unfold State.queuePush at ht
  split at ht
  · cases ht
  next head tail _ heq1 =>
    rw [heq1] at hends
    dsimp only at ht
    split at ht
    · cases ht
    next heq2 =>
      have hreach := L.queueReach p use (q.parts tail (min xs.length (q.depth - queueCount head tail))) hends
      rw [heq2] at hreach
      split at ht
      · cases ht
      next heq3 =>
        have hread := L.queueRead p 0 8 use hreach
        rw [heq3] at hread
        split at ht
        · cases ht
          exact hread
        · split at ht
          · cases ht
          next heq4 =>
            split at ht
            · cases ht
            next heq5 =>
              cases ht
              exact L.wakeQueue p (L.queueWrite heq5 (L.queuePut heq4 hread))

theorem Lasting.queueGet (L : Lasting P) (p : QueuePlace) (q : QueueWord) (i k : Nat) (h : P s) : P (State.queueGet p q i k s).2 := by
  induction k generalizing s i with
  | zero => exact h
  | succ k ih =>
    have hr := L.queueRead p (q.elemOff i) q.size .atomic h
    rw [State.queueGet]
    split
    next heq => rw [heq] at hr; exact hr
    next heq =>
      rw [heq] at hr
      have hg := ih (i + 1) hr
      split <;> (next heq => rw [heq] at hg; exact hg)

theorem Lasting.queuePop (L : Lasting P) {p : QueuePlace} {q : QueueWord} {n : Nat} {xs : List (List Byte)} {t : State}
    (ht : s.queuePop p q n = .ok (xs, t)) (h : P s) : P t := by
  have hends := L.queueEnds p h
  unfold State.queuePop at ht
  split at ht
  · cases ht
  next head tail _ heq1 =>
    rw [heq1] at hends
    dsimp only at ht
    split at ht
    · cases ht
    next heq2 =>
      have hreach := L.queueReach p .atomic (q.parts head (min n (queueCount head tail))) hends
      rw [heq2] at hreach
      split at ht
      · cases ht
      next heq3 =>
        have hread := L.queueRead p 0 8 .atomic hreach
        rw [heq3] at hread
        split at ht
        · cases ht
          exact hread
        · split at ht
          · cases ht
          next heq4 =>
            have hget := L.queueGet p q head (min n (queueCount head tail)) hread
            rw [heq4] at hget
            split at ht
            · cases ht
            next heq5 =>
              cases ht
              exact L.wakeQueue p (L.queueWrite heq5 hget)

/-! ### Queries and beams -/

theorem Lasting.fetchNode (L : Lasting P) (f : Flight) (c : Ctx) (bvh : AReg) (i : Nat) (h : P s) : P (s.fetchNode f c bvh i).2 := by
  have hr := L.range (s.engine f) c .load bvh.rights (bvh.address (bvh.position (64 * i : Nat) 0)) 64 h
  unfold State.fetchNode
  dsimp only
  split
  · exact h
  · split
    next heq => rw [heq] at hr; exact hr
    next heq =>
      rw [heq] at hr
      split <;> exact hr

theorem Lasting.traverse (L : Lasting P) (f : Flight) (c : Ctx) (bvh : AReg) (r : Option ERay) (cull any : Bool) (fuel : Nat)
    (ns : List (Nat × Nat)) (best : Option Hit) (h : P s) : P (Machine.traverse f c bvh r cull any fuel ns best s).2 := by
  induction fuel generalizing s ns best with
  | zero => cases ns <;> exact h
  | succ fuel ih =>
    cases ns with
    | nil => exact h
    | cons x rest =>
      have hf := L.fetchNode f c bvh x.1 h
      rw [Machine.traverse]
      split
      · exact h
      · split
        next heq => rw [heq] at hf; exact hf
        next heq => rw [heq] at hf; exact hf
        next heq => rw [heq] at hf; exact hf
        next heq =>
          rw [heq] at hf
          split
          · exact hf
          · split
            · exact hf
            · split
              · split
                · split
                  · exact hf
                  · exact ih _ _ hf
                · exact ih _ _ hf
                · exact ih _ _ hf
              · exact ih _ _ hf

theorem Lasting.query (L : Lasting P) (f : Flight) (c : Ctx) (bvh : AReg) (r : Option ERay) (cull any : Bool) (h : P s) :
    P (s.query f c bvh r cull any).2 := L.traverse f c bvh r cull any _ _ _ h

theorem Lasting.traceLanes (L : Lasting P) (f : Flight) (c : Ctx) (bvh : AReg) (cull any : Bool) (rays : List (Nat × Ray)) (h : P s) :
    P (State.traceLanes f c bvh cull any rays s).2 := by
  induction rays generalizing s with
  | nil => exact h
  | cons x rays ih =>
    have hq := L.query f c bvh (rayOf (x.2.map (·.toNat))) cull any h
    rw [State.traceLanes]
    split
    next heq => rw [heq] at hq; exact hq
    next heq => rw [heq] at hq; exact ih hq

theorem Lasting.filled (L : Lasting P) (n : Nat) (k : Counter) (d m : Nat) (vals : List (Nat × List Word)) (h : P s) :
    P ((s.updHoist n fun h => h.fillV d vals m).dropCount n k) :=
  L.dropCount _ _ (L.hoist _ (fun x => (sameGroups_fillV x _ _ _).stands) h)

theorem Lasting.completeTrace (L : Lasting P) (f : Flight) (d mode : Nat) (cull : Bool) (bvh : AReg) (rays : List (Nat × Ray))
    (h : P s) : P (s.completeTrace f d mode cull bvh rays) := by
  have hl := L.traceLanes f (s.flightCtx f) bvh cull (mode == 1) rays h
  unfold State.completeTrace
  split
  next heq => rw [heq] at hl; exact L.same (L.filled _ _ _ _ _ hl)
  next heq => rw [heq] at hl; exact hl

theorem Lasting.hitrdLanes (L : Lasting P) (f : Flight) (c : Ctx) (bvh : AReg) (attr : Nat) (ns : List (Nat × Nat)) (h : P s) :
    P (State.hitrdLanes f c bvh attr ns s).2 := by
  induction ns generalizing s with
  | nil => exact h
  | cons x ns ih =>
    have hf := L.fetchNode f c bvh x.2 h
    rw [State.hitrdLanes]
    split
    next heq => rw [heq] at hf; exact hf
    next heq => rw [heq] at hf; exact ih hf

theorem Lasting.completeHitrd (L : Lasting P) (f : Flight) (d attr : Nat) (bvh : AReg) (ns : List (Nat × Nat)) (h : P s) :
    P (s.completeHitrd f d attr bvh ns) := by
  have hl := L.hitrdLanes f (s.flightCtx f) bvh attr ns h
  unfold State.completeHitrd
  split
  next heq => rw [heq] at hl; exact L.same (L.filled _ _ _ _ _ hl)
  next heq => rw [heq] at hl; exact hl

theorem Lasting.beamPixels (L : Lasting P) (f : Flight) (c : Ctx) (job : BeamJob) (ps : List (Nat × Nat)) (h : P s) :
    P (State.beamPixels f c job ps s).2 := by
  induction ps generalizing s with
  | nil => exact h
  | cons p ps ih =>
    have hq := L.query f c job.bvh (beamRay job.desc p.1 p.2) (nodeByte job.desc 57 % 2 == 1) false h
    rw [State.beamPixels]
    dsimp only
    split
    next heq => rw [heq] at hq; exact hq
    next heq => rw [heq] at hq; exact hq
    next heq => rw [heq] at hq; exact hq
    next heq => rw [heq] at hq; exact ih hq

theorem Lasting.resolveBeam (L : Lasting P) (f : Flight) (job : BeamJob) (h : P s) : P (s.resolveBeam f job).2 := by
  have hb := L.beamPixels f (s.flightCtx f) job (beamTile job.desc) h
  unfold State.resolveBeam
  split
  · exact h
  · split <;> (next heq => rw [heq] at hb; exact hb)

theorem Lasting.pushFragments (L : Lasting P) (place : QueuePlace) (q : QueueWord) (fuel : Nat) (job : BeamJob) (h : P s) :
    P (State.pushFragments place q fuel job s).2 := by
  induction fuel generalizing s job with
  | zero => exact h
  | succ fuel ih =>
    rw [State.pushFragments]
    split
    · split
      next heq => exact ih _ (L.queuePush heq h)
      · exact h
    · exact h

theorem Lasting.advanceBeam (L : Lasting P) (f : Flight) (job : BeamJob) (n : Nat) (h : P s) : P (s.advanceBeam f job n) :=
  L.same (L.pushFragments _ _ n _ (L.resolveBeam f job h))

theorem Lasting.endBeam (L : Lasting P) (f : Flight) (h : P s) : P (s.endBeam f) := by
  unfold State.endBeam
  split
  · split
    · exact L.same (L.dropCount f.src .x (L.hoist f.src (fun x => (sameGroups_writeS x _ _).stands) h))
    · exact h
  · exact h

/-! ### Completion and settling -/

theorem Lasting.completeFlight (L : Lasting P) (f : Flight) (h : P s) : P (s.completeFlight f) := by
  unfold State.completeFlight
  split
  · exact L.dropFlight _ (L.completeLoad f _ _ _ h)
  · exact L.dropFlight _ (L.dropCount f.src .w (L.performWrites f.src f.block f.ctx _ h))
  · exact L.dropFlight _ (L.completeAtomic f _ _ _ _ h)
  · exact L.dropFlight _ (L.filled f.src .s _ 1 _ h)
  · exact L.endCopy f (L.moveElements f _ _ h)
  · exact L.completeFill f _ _ _ _ h
  · exact L.completeSlotStore f _ _ _ _ h
  · exact L.dropFlight _ (L.same h)
  · exact L.dropFlight _ (L.completePass f _ h)
  · exact L.dropFlight _ (L.completePromote f _ h)
  · exact L.dropFlight _ (L.completeTileRead f _ _ _ _ _ h)
  · exact L.same h
  · exact L.completeTrace f _ _ _ _ _ h
  · exact L.completeHitrd f _ _ _ _ h
  · exact L.endBeam f (L.advanceBeam f _ _ h)
  · exact h

theorem Lasting.completeList (L : Lasting P) (ns : List Nat) (h : P s) : P (State.completeList ns s) := by
  induction ns generalizing s with
  | nil => exact h
  | cons n ns ih =>
    rw [State.completeList]
    split
    · exact ih (iteInduction (motive := P) (fun _ => L.completeFlight _ h) fun _ => h)
    · exact ih h

theorem Lasting.settle (L : Lasting P) (p : Flight → Bool) (h : P s) : P (s.settle p) := L.completeList _ h

end

end Sys2Proof.Proofs.Keeping

/-!
PROOFS. A word that starts (03_encoding.md R68, R72, R80): the checks before it keep what is `Lasting`, and its group has its place
among the groups of its hoist.
-/

namespace Sys2Proof.Proofs.Keeping

open Sys2Proof Sys2Proof.Machine Sys2Proof.Claims Sys2Proof.Laws Sys2Proof.Proofs.UnitWords

/-! ### A word starts in a state that earlier work left -/

section
variable {P : State → Prop}

/-- An environment of the hoist `n` and its group `g` whose state has a property. -/
def EnvOf (P : State → Prop) (n g : Nat) (e : Env) : Prop := P e.s ∧ e.h.src = n ∧ e.g.id = g

/-- Every state that the checks before a word may end in has a property. -/
def IssueTo (P : State → Prop) (n g : Nat) : Issue → Prop
  | .ready e _ => EnvOf P n g e
  | .trap _ e => EnvOf P n g e
  | .wait e => EnvOf P n g e
  | .gone s => P s

variable {n g : Nat} {e : Env}

theorem Lasting.envSettle (L : Lasting P) (p : Flight → Bool) (h : EnvOf P n g e) : EnvOf P n g (e.settle p) :=
  ⟨L.settle p h.1, (src_at (r := e) _).trans h.2.1, (group_at (r := e) _).trans h.2.2⟩

theorem Lasting.envSettleIf (L : Lasting P) (c : Bool) (p : Flight → Bool) (h : EnvOf P n g e) :
    EnvOf P n g (if c = true then e.settle p else e) :=
  iteInduction (motive := EnvOf P n g) (fun _ => L.envSettle p h) fun _ => h

theorem Lasting.startAt (L : Lasting P) (k : Nat) (h : EnvOf P n g e) : EnvOf P n g (e.startAt k) := ⟨L.same h.1, h.2⟩

theorem Lasting.interlockOn (L : Lasting P) (xs : List RegSpan) (h : EnvOf P n g e) : IssueTo P n g (e.interlockOn xs) := by
  unfold Env.interlockOn
  extract_lets mine e1
  have h1 : EnvOf P n g e1 := L.envSettleIf _ mine h
  split
  · exact h1.1
  · split
    · exact h1
    · exact L.startAt _ h1

theorem Lasting.interlock (L : Lasting P) (i : Instr) (h : EnvOf P n g e) : IssueTo P n g (e.interlock i) := by
  have hx := L.interlockOn i.spans h
  unfold Env.interlock
  generalize e.interlockOn i.spans = x at hx ⊢
  split
  · split
    · exact hx
    · exact L.interlockOn _ hx
  · exact hx

theorem Lasting.trusted (L : Lasting P) (i : Instr) (c : Nat) (check : Bool) (h : EnvOf P n g e) :
    IssueTo P n g (e.trusted i c check) := by
  unfold Env.trusted
  extract_lets xs other e1 start foreign e2 own busy spans old e3
  have h1 : EnvOf P n g e1 := L.envSettleIf _ other h
  have h2 : EnvOf P n g e2 := L.startAt _ h1
  have h3 : EnvOf P n g e3 := L.envSettle own h2
  split
  · exact h1.1
  · split
    · exact h1
    · split
      · exact h2
      · split
        · exact h2
        · split
          · exact h3.1
          · split
            · exact h3
            · exact h3

theorem Lasting.operands (L : Lasting P) (i : Instr) (h : EnvOf P n g e) : IssueTo P n g (e.operands i) := by
  unfold Env.operands
  split
  · exact L.trusted i _ _ h
  · exact L.interlock i h

theorem Lasting.afterAtomics (L : Lasting P) (i : Instr) (h : EnvOf P n g e) : IssueTo P n g (e.afterAtomics i) := by
  unfold Env.afterAtomics
  extract_lets e1
  have h1 : EnvOf P n g e1 := L.envSettleIf _ _ h
  split
  · exact h1.1
  · split
    · exact h1
    · exact h1

theorem Lasting.countRoom (L : Lasting P) (i : Instr) (h : EnvOf P n g e) : IssueTo P n g (e.countRoom i) := by
  unfold Env.countRoom
  split
  · have h1 := L.envSettle (fun f => f.src == e.h.src) h
    dsimp only
    split
    · exact h1.1
    · split
      · exact h1
      · exact h1
  · exact h

theorem Lasting.issue (L : Lasting P) (i : Instr) (h : EnvOf P n g e) : IssueTo P n g (e.issue i) := by
  unfold Env.issue
  split
  · exact h
  · split
    · exact h
    · have ho := L.operands i h
      generalize e.operands i = x at ho ⊢
      split
      next e1 old =>
        split
        · exact ho
        · split
          · exact ho
          · have ha := L.afterAtomics i ho
            generalize e1.afterAtomics i = y at ha ⊢
            split
            next e2 _ =>
              have hc := L.countRoom i ha
              generalize e2.countRoom i = z at hc ⊢
              split
              · exact hc
              · exact hc
            · exact ha
      · exact ho

end

/-! ### The group of a word that starts -/

/-- The hoist in slot `n` stands, and its group `g` is among its groups while it has a slice. -/
def Rooted (n g : Nat) (s : State) : Prop :=
  ∃ h, s.hoist? n = some h ∧ (h.groupSlices g ≠ [] → (h.group? g).isSome)

theorem rooted_of_stands {n g : Nat} {s t : State} {h : Hoist} (hr : Rooted n g s)
    (ht : s.hoist? n = some h → ∃ k, t.hoist? n = some k ∧ Stands h k) (hn : s.hoist? n = some h) : Rooted n g t := by
  obtain ⟨x, hx, hg⟩ := hr
  obtain ⟨k, hk, hs⟩ := ht hn
  cases hx.symm.trans hn
  exact ⟨k, hk, fun hne => (hs.2 g hne).2 (hg (hs.2 g hne).1)⟩

theorem lasting_rooted (n g : Nat) : Lasting (Rooted n g) where
  known hr _ _ hh := by
    obtain ⟨h, hn, hg⟩ := hr
    refine ⟨h, ?_, hg⟩
    rw [State.hoist?, hh]
    exact hn
  write pa bs hr := by
    obtain ⟨h, hn, hg⟩ := id hr
    refine rooted_of_stands hr (fun hn => ?_) hn
    obtain ⟨k, hk, hrel⟩ := Waking.wakes_writePhys _ pa bs n h hn
    exact ⟨k, hk, stands_of_released hrel⟩
  hoist {s} m f hf hr := by
    obtain ⟨h, hn, hg⟩ := id hr
    refine rooted_of_stands hr (fun hn => ?_) hn
    by_cases hm : n = m
    · subst hm
      exact ⟨f h, (hoist?_updHoist fun x => (hf x).1).trans (congrArg (Option.map f) hn), hf h⟩
    · exact ⟨h, (hoist?_updHoist_other (fun x => (hf x).1) hm).trans hn, stands_refl h⟩
  changed {s h k} hh hs hr := by
    obtain ⟨x, hn, hg⟩ := id hr
    refine rooted_of_stands hr (fun hn => ?_) hn
    by_cases hm : n = k.src
    · subst hm
      cases hh.symm.trans hn
      exact ⟨k, hoist?_putHoist (by rw [hh]; rfl), hs⟩
    · exact ⟨x, (hoist?_putHoist_other hm).trans hn, stands_refl x⟩

theorem rooted_of_issuer {w : BitVec 32} {s : State} {e : Env} (h : issuer w s = some e) : EnvOf (Rooted e.h.src e.g.id) e.h.src e.g.id e := by
  have hs := issuer_sound h
  refine ⟨⟨e.h, hs.found, fun _ => ?_⟩, rfl, rfl⟩
  unfold issuer at h
  split at h
  · cases h
  · split at h
    · cases h
    next g hg =>
      split at h
      · cases h
      · cases h
        dsimp only
        rw [group?_id hg, hg]
        rfl

theorem group?_of_begins {i : Instr} {s : State} {e r : Env} {old : List Saved} (h : Begins i s e r old) :
    (r.h.group? r.g.id).isSome := by
  obtain ⟨e0, hi, hready⟩ := h.starts
  have hissue := (lasting_rooted e0.h.src e0.g.id).issue i (rooted_of_issuer hi)
  rw [hready] at hissue
  obtain ⟨⟨k, hk, hgroup⟩, hsrc, hid⟩ := hissue
  have hs := starts_sound h.starts
  have he : e.h = k := Option.some.inj (hs.found.symm.trans (hsrc ▸ hk))
  subst he
  have hroot : (e.h.group? e.g.id).isSome := hid ▸ hgroup (hid ▸ (here_iff e).1 hs.here)
  rw [h.reads, Env.mixed]
  dsimp only
  split
  · exact hroot
  · obtain ⟨v, s', p, hm⟩ := mixAll_shape (e.sources i old) e.s.fresh e.h
    rw [hm]
    exact hroot

end Sys2Proof.Proofs.Keeping

/-!
PROOFS. VREGRP (07_lanes.md R157, R158): a hoist that is regrouped alone packs its live lanes; the wait for another hoist, and the ILLOP.
-/

namespace Sys2Proof.Proofs.Regroups

open Sys2Proof Sys2Proof.Machine Sys2Proof.Claims Sys2Proof.Laws Sys2Proof.Proofs.ControlFlow Sys2Proof.Proofs.Reorder
  Sys2Proof.Proofs.TrapEntries Sys2Proof.Proofs.Keeping

/-! ### A hoist regrouped alone -/

/-- The live active lanes of a hoist's places, in order. -/
def liveLanes (h : Hoist) : List Nat := (places h).filter h.regs.exec.getLsbD

theorem filter_lt_mapIdx (i n m : Nat) (pos : List Nat) :
    ((pos.mapIdx fun j l => (j + m, (i, l))).filter (fun x => decide (x.1 < n))).map (·.2.2) = pos.take (n - m) := by
  induction pos generalizing m with
  | nil => simp
  | cons p pos ih =>
    have hs : (fun j (l : Nat) => (j + 1 + m, (i, l))) = fun j l => (j + (m + 1), (i, l)) := by
      funext j l
      rw [Nat.add_assoc, Nat.add_comm 1 m]
    rw [List.mapIdx_cons, hs, Nat.zero_add, List.filter_cons]
    by_cases hm : m < n
    · obtain ⟨k, rfl⟩ : ∃ k, n = m + 1 + k := ⟨n - (m + 1), by omega⟩
      rw [if_pos (decide_eq_true hm), List.map_cons, ih, show m + 1 + k - m = k + 1 by omega, Nat.add_sub_cancel_left]
      rfl
    · rw [if_neg (by simpa using hm), ih, show n - (m + 1) = 0 by omega, show n - m = 0 by omega, List.take_zero, List.take_zero]

theorem filter_ge_mapIdx (i n m : Nat) (pos : List Nat) :
    ((pos.mapIdx fun j l => (j + m, (i, l))).filter (fun x => decide (n ≤ x.1))).map (·.2.2) = pos.drop (n - m) := by
  induction pos generalizing m with
  | nil => simp
  | cons p pos ih =>
    have hs : (fun j (l : Nat) => (j + 1 + m, (i, l))) = fun j l => (j + (m + 1), (i, l)) := by
      funext j l
      rw [Nat.add_assoc, Nat.add_comm 1 m]
    rw [List.mapIdx_cons, hs, Nat.zero_add, List.filter_cons]
    by_cases hm : n ≤ m
    · rw [if_pos (decide_eq_true hm), List.map_cons, ih, show n - (m + 1) = 0 by omega, show n - m = 0 by omega]
      rfl
    · obtain ⟨k, rfl⟩ : ∃ k, n = m + 1 + k := ⟨n - (m + 1), by omega⟩
      rw [if_neg (by simpa using hm), ih, show m + 1 + k - m = k + 1 by omega, Nat.add_sub_cancel_left]
      rfl

/-- The registers that a VREGRP packs, and the word that a register gives for a lane. -/
def regroupedRegs (q : Regroup) : List Nat :=
  (List.range q.cnt).map (q.d + ·) ++ if q.idx then [q.d + q.cnt] else []

def regroupedWord (h : Hoist) (q : Regroup) (n l : Nat) : Word :=
  if n = q.d + q.cnt then BitVec.ofNat 32 (h.index * h.width + l) else h.vword n l

def regroupedWords (h : Hoist) (q : Regroup) (n : Nat) : List (Nat × Word) :=
  atPlaces (places h) (liveLanes h) (regroupedWord h q n)

/-- The places of a hoist among those of all, each with its number. -/
def minePlaces (pos : List (Nat × Nat)) (h : Hoist) : List (Nat × Nat × Nat) :=
  (pos.mapIdx fun j p => (j, p)).filter fun x => x.2.1 == h.index

/-- The words that go to a hoist's places. -/
def packedAt (pos seq : List (Nat × Nat)) (h : Hoist) (f : Nat × Nat → Word) : List (Nat × Word) :=
  (minePlaces pos h).map fun x => (x.2.2, match seq[x.1]? with | some p => f p | none => 0)

/-- The word of a register at a lane of one of some hoists. -/
def wordIn (all : List Hoist) (n : Nat) (p : Nat × Nat) : Word :=
  match all.find? (·.index == p.1) with
  | some x => x.vword n p.2
  | none => 0

theorem regroupHoist_eq (all : List Hoist) (pos seq : List (Nat × Nat)) (q : Regroup) (h : Hoist) :
    regroupHoist all pos seq q h =
      (if q.idx then ((List.range q.cnt).foldl (fun k i => k.place (q.d + i) (packedAt pos seq h (wordIn all (q.d + i)))) h).place
          (q.d + q.cnt) (packedAt pos seq h fun p => BitVec.ofNat 32 (p.1 * h.width + p.2))
        else (List.range q.cnt).foldl (fun k i => k.place (q.d + i) (packedAt pos seq h (wordIn all (q.d + i)))) h).execAt
        (((minePlaces pos h).filter (·.1 < seq.length)).map (·.2.2))
        (((minePlaces pos h).filter fun x => decide (seq.length ≤ x.1)).map (·.2.2)) := rfl

section
variable (h : Hoist)

theorem minePlaces_alone : minePlaces ((places h).map fun l => (h.index, l)) h =
    (places h).mapIdx fun j l => (j + 0, (h.index, l)) := by
  have hmap : (((places h).map fun l => (h.index, l)).mapIdx fun j p => (j, p)) =
      (places h).mapIdx fun j l => (j + 0, (h.index, l)) := by
    refine List.ext_getElem? fun j => ?_
    simp only [List.getElem?_mapIdx, List.getElem?_map, Option.map_map]
    rfl
  rw [minePlaces, hmap, List.filter_eq_self.2]
  intro x hx
  obtain ⟨j, hj, rfl⟩ := List.mem_mapIdx.1 hx
  exact beq_self_eq_true _

theorem packedAt_alone (f : Nat × Nat → Word) :
    packedAt ((places h).map fun l => (h.index, l)) ((liveLanes h).map fun l => (h.index, l)) h f =
      atPlaces (places h) (liveLanes h) fun l => f (h.index, l) := by
  rw [packedAt, minePlaces_alone]
  refine List.ext_getElem? fun j => ?_
  simp only [atPlaces, List.getElem?_mapIdx, List.getElem?_map, Option.map_map]
  refine congrArg (fun g => Option.map g (places h)[j]?) (funext fun l => ?_)
  simp only [Function.comp_apply, Nat.add_zero, rankWord]
  cases (liveLanes h)[j]? <;> rfl

theorem wordIn_alone (n l : Nat) : wordIn [h] n (h.index, l) = h.vword n l := by
  rw [wordIn, List.find?_cons, beq_self_eq_true]

/-- Packed alone, a hoist has its live lanes' words at its first places. -/
theorem regroupHoist_alone (q : Regroup) :
    regroupHoist [h] ((places h).map fun l => (h.index, l)) ((liveLanes h).map fun l => (h.index, l)) q h =
      (placeAll h (regroupedRegs q) (regroupedWords h q)).execAt ((places h).take (liveLanes h).length)
        ((places h).drop (liveLanes h).length) := by
  have hmoved : (List.range q.cnt).foldl (fun k i => k.place (q.d + i) (atPlaces (places h) (liveLanes h) (h.vword (q.d + i)))) h =
      placeAll h ((List.range q.cnt).map (q.d + ·)) (regroupedWords h q) := by
    refine List.foldl_map.symm.trans (placeAll_congr (vals := fun n => atPlaces (places h) (liveLanes h) (h.vword n)) h fun n hn => ?_)
    obtain ⟨i, hi, rfl⟩ := List.mem_map.1 hn
    have hne : q.d + i ≠ q.d + q.cnt := by
      have := List.mem_range.1 hi
      omega
    exact congrArg (atPlaces _ _) (funext fun l => (if_neg hne).symm)
  rw [regroupHoist_eq]
  simp only [packedAt_alone, minePlaces_alone, wordIn_alone, List.length_map, filter_lt_mapIdx, filter_ge_mapIdx, Nat.sub_zero]
  refine congrArg (fun k => Hoist.execAt k _ _) ?_
  rw [hmoved, regroupedRegs]
  cases q.idx with
  | false => simp
  | true =>
    rw [if_pos rfl, if_pos rfl, placeAll_append]
    refine congrArg (Hoist.place _ _) ?_
    exact congrArg (atPlaces _ _) (funext fun l => (if_pos rfl).symm)

end

theorem places_nodup (h : Hoist) : (places h).Nodup := List.nodup_range.filter _

theorem lt_width_of_mem_places {h : Hoist} {l : Nat} (hl : l ∈ places h) : l < h.width :=
  List.mem_range.1 (List.mem_filter.1 hl).1

theorem not_dead_of_mem_places {h : Hoist} {l : Nat} (hl : l ∈ places h) : h.regs.dead.getLsbD l = false := by
  obtain ⟨-, h2⟩ := List.mem_filter.1 hl
  rw [Bool.and_eq_true, Bool.not_eq_true'] at h2
  exact h2.1

/-- A hoist whose registers are packed, with EXEC, the count and its group's wait as they are left. -/
def settled (r : Env) (pos : List Nat) (n b : Nat) (w : Wait) (k : Hoist) : Hoist :=
  ((k.execAt (pos.take n) (pos.drop n)).setS b (BitVec.ofNat 32 n)).updGroup r.g.id fun g => { g with wait := w }

section
variable (r : Env) (pos : List Nat) (m b : Nat) (w : Wait) (k : Hoist)

theorem vword_settled (n l : Nat) : (settled r pos m b w k).vword n l = k.vword n l := rfl

theorem exec_settled : (settled r pos m b w k).regs.exec = (k.execAt (pos.take m) (pos.drop m)).regs.exec := rfl

theorem sreg_settled (hb : b < k.regs.s.length) : (settled r pos m b w k).sreg b = BitVec.ofNat 32 m :=
  (sreg_setS (k.execAt (pos.take m) (pos.drop m)) b _ b).trans (if_pos ⟨rfl, hb⟩)

end

/-- The issuing hoist while its group waits. -/
def waiting (r : Env) (w : Wait) : Hoist := r.h.updGroup r.g.id fun g => { g with wait := w }

/-- The issuing hoist after it is regrouped alone. -/
def regroupedAlone (r : Env) (w : Wait) (q : Regroup) : Hoist :=
  settled r (places r.h) (liveLanes r.h).length q.b r.g.wait
    (placeAll (waiting r w) (regroupedRegs q) (regroupedWords (waiting r w) q))

section
variable {r : Env} {q : Regroup} {w : Wait}

theorem vword_regroupedAlone {n : Nat} (hn : n ∈ regroupedRegs q) (hlen : n < r.h.regs.v.length) {j p : Nat}
    (hj : (places r.h)[j]? = some p) (hp : p < (r.h.vreg n).lanes.length) :
    (regroupedAlone r w q).vword n p = rankWord (liveLanes r.h) (regroupedWord r.h q n) j :=
  (vword_settled _ _ _ _ _ _ _ _).trans (vword_placeAll_of_wordAt (h := waiting r w) hn hlen hp
    (wordAt_atPlaces (places_nodup r.h) (liveLanes r.h) (regroupedWord r.h q n) hj))

theorem regroupedAlone_packs : RegroupedAlone r q.d q.cnt q.idx q.b (regroupedAlone r w q) where
  words n hd hlt hlen j p hj hp := by
    have hmem : n ∈ regroupedRegs q := List.mem_append_left _ (List.mem_map.2 ⟨n - q.d, List.mem_range.2 (by omega), by omega⟩)
    have hne : n ≠ q.d + q.cnt := by omega
    rw [vword_regroupedAlone hmem hlen hj hp, show regroupedWord r.h q n = r.h.vword n from funext fun l => if_neg hne]
    rfl
  index hi hlen j p hj hp := by
    have hmem : q.d + q.cnt ∈ regroupedRegs q := by
      rw [regroupedRegs, if_pos hi]
      exact List.mem_append_right _ (List.mem_singleton.2 rfl)
    rw [vword_regroupedAlone hmem hlen hj hp, show regroupedWord r.h q (q.d + q.cnt) =
      fun l => BitVec.ofNat 32 (r.h.index * r.h.width + l) from funext fun l => if_pos rfl]
    rfl
  exec j p hj hp := by
    have hmem : p ∈ places r.h := List.mem_of_getElem? hj
    rw [regroupedAlone, exec_settled, placeAll_eq_withV]
    exact execAt_take_drop_bit _ (places_nodup r.h) hj _ hp (lt_width_of_mem_places hmem) (not_dead_of_mem_places hmem)
  count hb := by
    rw [regroupedAlone, placeAll_eq_withV]
    exact sreg_settled _ _ _ _ _ _ hb

end

/-! ### The hoists of the block -/

section
variable {s : State} {n b : Nat} {f : Hoist → Hoist}

theorem hoistsOf_updHoist (hf : ∀ h, (f h).role = h.role ∧ (f h).block = h.block ∧ (f h).retired = h.retired) :
    (s.updHoist n f).hoistsOf b = (s.hoistsOf b).map fun x => if x.src == n then f x else x := by
  have hkeep : ((fun h : Hoist => h.role == .user && h.block == b && !h.retired) ∘ fun x => if x.src == n then f x else x) =
      fun h => h.role == .user && h.block == b && !h.retired := by
    funext x
    obtain ⟨h1, h2, h3⟩ := hf x
    rw [Function.comp_apply]
    split
    · rw [h1, h2, h3]
    · rfl
  rw [State.hoistsOf, State.updHoist, List.filter_map, hkeep]
  rfl

theorem updHoist_putHoist {k : Hoist} (hf : ∀ x, (f x).src = x.src) (hk : k.src = n) :
    (s.updHoist n f).putHoist k = s.putHoist k := by
  refine congrArg (fun hs => { s with hoists := hs }) ?_
  rw [State.updHoist, List.map_map]
  refine List.map_congr_left fun x _ => ?_
  rw [Function.comp_apply]
  by_cases hx : x.src = n
  · simp [hx, hk, hf x]
  · simp [hx, hk]

theorem putHoist_updHoist {k : Hoist} (hk : k.src = n) (hf : (f k).src = n) :
    (s.putHoist k).updHoist n f = s.putHoist (f k) := by
  refine congrArg (fun hs => { s with hoists := hs }) ?_
  rw [State.putHoist, List.map_map]
  refine List.map_congr_left fun x _ => ?_
  rw [Function.comp_apply]
  by_cases hx : x.src = n
  · simp [hx, hk, hf]
  · simp [hx, hk, hf]

end

section
variable {r : Env} {q : Regroup}

/-- The wait of a group at a VREGRP. -/
def Regroup.wait (q : Regroup) : Wait := .vregrp q.mask q.d q.cnt q.idx q.b

/-- The state in which the issuing group waits. -/
def waits (r : Env) (q : Regroup) : State := r.s.updHoist r.h.src fun h => h.updGroup r.g.id fun g => { g with wait := Regroup.wait q }

theorem hoistsOf_waits (b : Nat) : (waits r q).hoistsOf b = (r.s.hoistsOf b).map fun x =>
    if x.src == r.h.src then x.updGroup r.g.id fun g => { g with wait := Regroup.wait q } else x :=
  hoistsOf_updHoist fun _ => ⟨rfl, rfl, rfl⟩

theorem regroup_waiting (hg : (r.h.group? r.g.id).isSome) (hfirst : r.h.regroup = none) :
    (waiting r (Regroup.wait q)).regroup = some (r.g.id, q) := by
  obtain ⟨x, hx⟩ := Option.isSome_iff_exists.1 hg
  obtain ⟨hid, as, bs, hsplit, has⟩ := List.find?_eq_some_iff_append.1 hx
  have hnone (y : Group) (hy : y ∈ r.h.regs.groups) : (y.regroup.map fun q => (y.id, q)) = none := List.findSome?_eq_none_iff.1 hfirst y hy
  have hbefore : (as.map fun y => if y.id == r.g.id then { y with wait := Regroup.wait q } else y) = as := by
    refine (List.map_congr_left fun y hy => ?_).trans (List.map_id _)
    exact if_neg (by simpa using has y hy)
  rw [Hoist.regroup, waiting, Hoist.updGroup]
  dsimp only
  rw [hsplit, List.map_append, hbefore, List.findSome?_append,
    List.findSome?_eq_none_iff.2 fun y hy => hnone y (by rw [hsplit]; exact List.mem_append_left _ hy), List.map_cons, if_pos hid,
    List.findSome?_cons, Option.none_or]
  have hxid : x.id = r.g.id := beq_iff_eq.1 hid
  rw [← hxid]
  rfl

theorem filter_waits (p : Hoist → Bool) (hp : ∀ h f, p (h.updGroup r.g.id f) = p h)
    (hr : (r.s.hoistsOf r.b.id).filter p = [r.h]) :
    ((waits r q).hoistsOf r.b.id).filter p = [waiting r (Regroup.wait q)] := by
  have hkeep : (p ∘ fun x : Hoist => if x.src == r.h.src then x.updGroup r.g.id fun g => { g with wait := Regroup.wait q } else x) = p := by
    funext x
    rw [Function.comp_apply]
    split
    · exact hp x _
    · rfl
  rw [hoistsOf_waits, List.filter_map, hkeep, hr, List.map_singleton, if_pos (beq_self_eq_true _)]
  rfl

theorem regroupComplete_waits (hg : (r.h.group? r.g.id).isSome) (hfirst : r.h.regroup = none)
    (hr : (r.s.hoistsOf r.b.id).filter (fun h => q.mask.getLsbD h.index) = [r.h]) :
    (waits r q).regroupComplete r.b.id q = true := by
  rw [State.regroupComplete, List.all_eq_true]
  intro h hh
  cases hm : q.mask.getLsbD h.index with
  | false => rfl
  | true =>
    have hmem : h ∈ ((waits r q).hoistsOf r.b.id).filter fun h => q.mask.getLsbD h.index := List.mem_filter.2 ⟨hh, hm⟩
    rw [filter_waits _ (fun _ _ => rfl) hr, List.mem_singleton] at hmem
    rw [hmem, regroup_waiting hg hfirst]
    simp [Regroup.same]

theorem regroupers_waits (hown : q.mask.getLsbD r.h.index = true)
    (hr : (r.s.hoistsOf r.b.id).filter (fun h => q.mask.getLsbD h.index) = [r.h]) :
    (waits r q).regroupers r.b.id q = [waiting r (Regroup.wait q)] := by
  have hlt : r.h.index < 32 := Nat.lt_of_not_le fun hge =>
    Bool.false_ne_true ((BitVec.getLsbD_of_ge _ _ hge).symm.trans hown)
  have hfind (i : Nat) : [waiting r (Regroup.wait q)].find? (fun h => h.index == i) =
      if i = r.h.index then some (waiting r (Regroup.wait q)) else none := by
    rw [List.find?_singleton]
    by_cases hi : i = r.h.index
    · rw [if_pos hi, if_pos]
      exact beq_iff_eq.2 hi.symm
    · rw [if_neg hi, if_neg]
      exact fun h => hi (beq_iff_eq.1 h).symm
  rw [State.regroupers, filter_waits _ (fun _ _ => rfl) hr]
  simp only [hfind]
  obtain ⟨k, hk⟩ : ∃ k, 32 = r.h.index + 1 + k := ⟨32 - (r.h.index + 1), by omega⟩
  rw [hk, List.range_add, List.range_succ]
  simp only [List.filterMap_append, List.filterMap_cons, List.filterMap_nil, List.filterMap_map, if_true]
  rw [List.filterMap_eq_nil_iff.2, List.filterMap_eq_nil_iff.2]
  · rfl
  · intro i hi
    exact if_neg (by dsimp only [Function.comp_apply]; omega)
  · intro i hi
    exact if_neg (Nat.ne_of_lt (List.mem_range.1 hi))

theorem regroupLanes_waiting (w : Wait) : (waiting r w).regroupLanes = (places r.h, liveLanes r.h) := rfl

/-- The packing of a hoist alone, with its group's wait as the word found it. -/
theorem regroup_waits (hg : (r.h.group? r.g.id).isSome) (hfirst : r.h.regroup = none) (hown : q.mask.getLsbD r.h.index = true)
    (hr : (r.s.hoistsOf r.b.id).filter (fun h => q.mask.getLsbD h.index) = [r.h]) :
    ((waits r q).regroup r.b.id q).updHoist r.h.src (fun h => h.updGroup r.g.id fun g => { g with wait := r.g.wait }) =
      r.s.putHoist (regroupedAlone r (Regroup.wait q) q) := by
  have hcount : (((places r.h).map fun l => (r.h.index, l)).take (liveLanes r.h).length).filter (fun p => p.1 == r.h.index) =
      ((places r.h).map fun l => (r.h.index, l)).take (liveLanes r.h).length := by
    refine List.filter_eq_self.2 fun p hp => ?_
    obtain ⟨l, -, rfl⟩ := List.mem_map.1 (List.mem_of_mem_take hp)
    exact beq_self_eq_true _
  have hlen : min (liveLanes r.h).length (places r.h).length = (liveLanes r.h).length :=
    Nat.min_eq_left (List.length_filter_le _ _)
  have halone := regroupHoist_alone (waiting r (Regroup.wait q)) q
  rw [show places (waiting r (Regroup.wait q)) = places r.h from rfl, show liveLanes (waiting r (Regroup.wait q)) = liveLanes r.h from rfl,
    show (waiting r (Regroup.wait q)).index = r.h.index from rfl] at halone
  rw [State.regroup, regroupers_waits hown hr]
  simp only [List.flatMap_cons, List.flatMap_nil, List.append_nil, List.foldl_cons, List.foldl_nil, regroupLanes_waiting,
    show (waiting r (Regroup.wait q)).index = r.h.index from rfl, halone, regroup_waiting hg hfirst, List.length_map, hcount,
    List.length_take, hlen]
  generalize hk : ((placeAll (waiting r (Regroup.wait q)) (regroupedRegs q) (regroupedWords (waiting r (Regroup.wait q)) q)).execAt
    ((places r.h).take (liveLanes r.h).length) ((places r.h).drop (liveLanes r.h).length)).setS q.b
      (BitVec.ofNat 32 (liveLanes r.h).length) = k
  have hsrc : k.src = r.h.src := by
    rw [← hk, placeAll_eq_withV]
    rfl
  rw [waits, updHoist_putHoist (by exact fun _ => rfl) hsrc, putHoist_updHoist hsrc (by exact hsrc), ← hk]
  rfl

end

/-! ### The word -/

theorem stays_of_body {i : Instr} {s u : State} {e r : Env} {old : List Saved} {body : Env → Res} {w : Wait} (h : Begins i s e r old)
    (hx : exec i s = runWord i body s) (hb : body r = .wait w u) : Stays i s e old w u := by
  rw [Stays, Answers, hx, runWord_of_begins h, hb, Env.conclude]

section
variable {d b : BitVec 8} {x : BitVec 1} {c : BitVec 6} {s : State} {e r : Env} {old : List Saved} {mask : Word}

/-- The operands of the word. -/
def operation (mask : Word) (d : BitVec 8) (x : BitVec 1) (c : BitVec 6) (b : BitVec 8) : Regroup :=
  ⟨mask, d.toNat, c.toNat + 1, x == 1, b.toNat⟩

theorem legal_of_regroups (hr : Regroups r d (c.toNat + 1) (x == 1) b mask) :
    (decide (2 ^ r.b.hoists ≤ mask.toNat) || !mask.getLsbD r.h.index ||
      !((List.range r.h.regs.slices.length).all fun n => r.h.absent n || r.h.sliceIn r.g.id n) || r.anyStacked) = false := by
  have hwhole : ((List.range r.h.regs.slices.length).all fun n => r.h.absent n || r.h.sliceIn r.g.id n) = true :=
    List.all_eq_true.2 fun n hn => by
      rw [Bool.or_eq_true]
      exact hr.whole n (List.mem_range.1 hn)
  rw [decide_eq_false (Nat.not_le.2 hr.hoists), hr.own, hwhole, hr.flat]
  rfl

/-- Counters that read zero: nothing of the hoist is settled. -/
theorem counted_of_regroups (hr : Regroups r d (c.toNat + 1) (x == 1) b mask) :
    (if r.h.counters.g = 0 ∧ r.h.counters.s = 0 then r else r.settle fun f => f.src == r.h.src) = r :=
  if_pos ⟨hr.loads, hr.lanes⟩

theorem illegal_of_regroupIllegal (h : regroupIllegal r b) :
    (decide (2 ^ r.b.hoists ≤ (r.h.sreg b.toNat).toNat) || !(r.h.sreg b.toNat).getLsbD r.h.index ||
      !((List.range r.h.regs.slices.length).all fun n => r.h.absent n || r.h.sliceIn r.g.id n) || r.anyStacked) = true := by
  rcases h with h | h | ⟨n, hn, ha, hi⟩ | h
  · rw [decide_eq_true h, Bool.true_or, Bool.true_or, Bool.true_or]
  · rw [h, Bool.not_false, Bool.or_true, Bool.true_or, Bool.true_or]
  · have hall : ((List.range r.h.regs.slices.length).all fun n => r.h.absent n || r.h.sliceIn r.g.id n) = false :=
      List.all_eq_false.2 ⟨n, List.mem_range.2 hn, by rw [ha, hi]; exact Bool.false_ne_true⟩
    rw [hall, Bool.not_false, Bool.or_true, Bool.true_or]
  · rw [h, Bool.or_true]

/-- Another hoist's VREGRP that conflicts with that of a hoist. -/
def isFoe (r : Env) (q : Regroup) (h : Hoist) : Bool :=
  match h.regroup with
  | some (_, p) => regroupConflict r.h.index q h.index p
  | none => false

/-- No other hoist of the block waits in a VREGRP that conflicts. -/
theorem foes_of_regroups (hr : Regroups r d (c.toNat + 1) (x == 1) b mask) :
    (r.s.hoistsOf r.b.id).filter (fun h => h.src != r.h.src && isFoe r (operation mask d x c b) h) = [] := by
  refine List.filter_eq_nil_iff.2 fun h hm => ?_
  rw [Bool.not_eq_true, Bool.and_eq_false_imp]
  intro hsrc
  rw [isFoe]
  cases hg : h.regroup with
  | none => rfl
  | some gq =>
    refine Bool.and_eq_false_imp.2 fun hc => ?_
    obtain ⟨h1, h2, h3, h4⟩ := hr.friends h hm (bne_iff_ne.1 hsrc) gq.1 gq.2 hg (by simpa [operation] using hc)
    simp [Regroup.same, operation, h1, h2, h3, h4]

theorem vregrp_completes (h : Begins (.vregrp d x c b) s e r old) (hr : Regroups r d (c.toNat + 1) (x == 1) b mask)
    (halone : (r.s.hoistsOf r.b.id).filter (fun h => mask.getLsbD h.index) = [r.h]) :
    Completes (.vregrp d x c b) s e old
      (r.s.putHoist (regroupedAlone r (Regroup.wait (operation mask d x c b)) (operation mask d x c b))) :=
  completes_of_body h rfl <| by
    have hg := group?_of_begins h
    dsimp only
    rw [← hr.operand, legal_of_regroups hr, if_neg Bool.false_ne_true, counted_of_regroups hr, (begins_sound h).here,
      Bool.not_true, if_neg Bool.false_ne_true, if_neg (not_or.2 ⟨not_not_intro hr.loads, not_not_intro hr.lanes⟩)]
    refine (if_neg (by rw [bne_iff_ne]; exact not_not_intro (foes_of_regroups hr))).trans ?_
    refine (if_pos (regroupComplete_waits (q := operation mask d x c b) hg hr.first halone)).trans ?_
    refine congrArg Res.done ?_
    rw [← regroup_waits (q := operation mask d x c b) hg hr.first hr.own halone]
    refine congrArg (fun t => State.updHoist t _ _) ?_
    refine (congrArg (fun hs => State.regroupFinish r.h.src hs _) (regroupers_waits (q := operation mask d x c b) hr.own halone)).trans ?_
    rw [State.regroupFinish, regroup_waiting hg hr.first]
    exact congrArg (State.regroupFinish r.h.src []) (if_pos rfl)

theorem vregrp_stays (hb : Begins (.vregrp d x c b) s e r old) (hr : Regroups r d (c.toNat + 1) (x == 1) b mask) {h : Hoist}
    (hm : h ∈ r.s.hoistsOf r.b.id) (hsrc : h.src ≠ r.h.src) (hbit : mask.getLsbD h.index = true) (hnone : h.regroup = none) :
    Stays (.vregrp d x c b) s e old (.vregrp mask d.toNat (c.toNat + 1) (x == 1) b.toNat) r.s := by
  have hwait : (waits r (operation mask d x c b)).regroupComplete r.b.id (operation mask d x c b) = false := by
    rw [State.regroupComplete, List.all_eq_false]
    refine ⟨h, ?_, ?_⟩
    · rw [hoistsOf_waits]
      exact List.mem_map.2 ⟨h, hm, if_neg (by rw [beq_iff_eq]; exact hsrc)⟩
    · rw [hnone, Bool.or_false, Bool.not_eq_true, Bool.not_eq_false']
      exact hbit
  refine stays_of_body hb rfl ?_
  dsimp only
  rw [← hr.operand, legal_of_regroups hr, if_neg Bool.false_ne_true, counted_of_regroups hr, (begins_sound hb).here,
    Bool.not_true, if_neg Bool.false_ne_true, if_neg (not_or.2 ⟨not_not_intro hr.loads, not_not_intro hr.lanes⟩)]
  refine (if_neg (by rw [bne_iff_ne]; exact not_not_intro (foes_of_regroups hr))).trans ?_
  exact if_neg (fun ht => Bool.false_ne_true (hwait.symm.trans ht))

theorem vregrp_raises (h : Begins (.vregrp d x c b) s e r old) (hi : regroupIllegal r b) :
    Raises (.vregrp d x c b) s e old { cls := .illop } r.s :=
  raises_of_body h rfl <| if_pos (illegal_of_regroupIllegal hi)

end

/-- Settles O18: a hoist alone is packed; another that has not come is waited for; an illegal place raises ILLOP. -/
theorem regroupWords : Obligations.RegroupWords :=
  ⟨fun _ _ _ _ _ _ _ _ _ h hr halone => ⟨_, regroupedAlone_packs (q := operation _ _ _ _ _), vregrp_completes h hr halone⟩,
    fun _ _ _ _ _ _ _ _ _ _ h hr hm hsrc hbit hnone => vregrp_stays h hr hm hsrc hbit hnone,
    fun _ _ _ _ _ _ _ _ h hi => vregrp_raises h hi⟩

end Sys2Proof.Proofs.Regroups

/-!
PROOFS. A store that is performed and data that return (09_memory.md R173, R176): what they leave of memory, of the blocks' segments
and of the hoists.
-/

namespace Sys2Proof.Proofs.StoreFrames

open Sys2Proof Sys2Proof.Machine Sys2Proof.Claims Sys2Proof.Laws Sys2Proof.Proofs.Endings Sys2Proof.Proofs.Waking
  Sys2Proof.Proofs.TrapEntries

/-! ### Work that completes -/

theorem completeWhen_of_ripe {s : State} {n : Nat} {f : Flight} (h : Ripe s n f) {kind : Work → Bool} (hk : kind f.work = true) :
    s.completeWhen n kind = s.completeFlight f := by
  rw [State.completeWhen, h.found]
  dsimp only
  rw [hk, h.enabled, Bool.and_self, if_pos rfl]

/-! ### Fields that a wake leaves -/

theorem field_foldl_wakeMonitor {α : Type} {π : State → α} (hπ : ∀ s m, π (s.wakeMonitor m) = π s) (ms : List Monitor) (s : State) :
    π (ms.foldl State.wakeMonitor s) = π s := by
  induction ms generalizing s with
  | nil => rfl
  | cons m ms ih => rw [List.foldl_cons, ih, hπ]

theorem blocks_wakeMonitor (s : State) (m : Monitor) : (s.wakeMonitor m).blocks = s.blocks := by
  rw [State.wakeMonitor]
  split <;> rfl

theorem blocks_writePhys (s : State) (pa : Nat) (bs : List Byte) : (s.writePhys pa bs).blocks = s.blocks := by
  rw [State.writePhys]
  split
  · rfl
  · rw [State.wakeWritten]
    split
    · rfl
    · exact field_foldl_wakeMonitor blocks_wakeMonitor _ _

theorem block?_updBlock_other {s : State} {n m : Nat} {f : Block → Block} (hf : ∀ b, (f b).id = b.id) (hn : m ≠ n) {b : Block}
    (hb : s.block? m = some b) : (s.updBlock n f).block? m = some b := by
  have hid : b.id = m := beq_iff_eq.1 (List.find?_some (p := fun x : Block => x.id == m) hb)
  rw [State.block?, State.updBlock, find?_map_key (key := Block.id) (fun x => by split <;> simp [hf]), ← State.block?, hb,
    Option.map_some, if_neg fun h => hn (hid.symm.trans (beq_iff_eq.1 h))]

/-! ### What a store may change -/

/-- A byte that no store of a list to memory, or to the segment, covers. -/
def Spared (scr : Bool) (ws : List (Access × List Byte)) (a : Nat) : Prop :=
  ∀ w ∈ ws, w.1.scr = !scr ∨ a < w.1.pa ∨ w.1.pa + w.2.length ≤ a

/-- Some writes of a block's hoist are performed between two states: every byte that they spare is as it was, and so are the registers
of all hoists. -/
structure Stores (block : Nat) (ws : List (Access × List Byte)) (s t : State) : Prop where
  mem : Canonical s → Canonical t ∧ ∀ a, Spared false ws a → t.mem.read a = s.mem.read a
  scratch : (∀ b ∈ s.blocks, b.scratch.wf = true) → (∀ b ∈ t.blocks, b.scratch.wf = true) ∧
    ∀ b x, s.block? b = some x → ∃ y, t.block? b = some y ∧
      ∀ a, (b ≠ block ∨ Spared true ws a) → y.scratch.read a = x.scratch.read a
  hoists : ∀ m h, s.hoist? m = some h → ∃ k, t.hoist? m = some k ∧ SameRegs h k { counters := True }

section
variable {block : Nat} {ws vs : List (Access × List Byte)} {s t u : State}

theorem stores_trans (h1 : Stores block ws s t) (h2 : Stores block vs t u) : Stores block (ws ++ vs) s u where
  mem hc :=
    ⟨(h2.mem (h1.mem hc).1).1, fun a ha => ((h2.mem (h1.mem hc).1).2 a fun w hw => ha w (List.mem_append_right _ hw)).trans
      ((h1.mem hc).2 a fun w hw => ha w (List.mem_append_left _ hw))⟩
  scratch hw := by
    obtain ⟨hw', h1'⟩ := h1.scratch hw
    obtain ⟨hw'', h2'⟩ := h2.scratch hw'
    refine ⟨hw'', fun b x hx => ?_⟩
    obtain ⟨y, hy, hxy⟩ := h1' b x hx
    obtain ⟨z, hz, hyz⟩ := h2' b y hy
    exact ⟨z, hz, fun a ha => (hyz a (ha.imp_right fun hs w hm => hs w (List.mem_append_right _ hm))).trans
      (hxy a (ha.imp_right fun hs w hm => hs w (List.mem_append_left _ hm)))⟩
  hoists m h hm := by
    obtain ⟨k, hk, hr⟩ := h1.hoists m h hm
    obtain ⟨j, hj, hr'⟩ := h2.hoists m k hk
    exact ⟨j, hj, sameRegs_trans hr hr'⟩

/-- A step after the writes that writes nothing. -/
theorem stores_then (h1 : Stores block ws s t) (h2 : Stores block [] t u) : Stores block ws s u :=
  List.append_nil ws ▸ stores_trans h1 h2

/-- Neither memory nor a segment changes, and no register. -/
theorem stores_of_same (hm : t.mem = s.mem) (hb : t.blocks = s.blocks)
    (hh : ∀ m h, s.hoist? m = some h → ∃ k, t.hoist? m = some k ∧ SameRegs h k { counters := True }) : Stores block ws s t where
  mem hc := ⟨by rw [Canonical, hm]; exact hc, fun a _ => by rw [hm]⟩
  scratch hw := ⟨by rw [hb]; exact hw, fun b x hx => ⟨x, by rw [State.block?, hb]; exact hx, fun _ _ => rfl⟩⟩
  hoists := hh

theorem hoists_updHoist (s : State) (n : Nat) {f : Hoist → Hoist} (hf : ∀ h, (f h).src = h.src)
    (hr : ∀ h, SameRegs h (f h) { counters := True }) :
    ∀ m h, s.hoist? m = some h → ∃ k, (s.updHoist n f).hoist? m = some k ∧ SameRegs h k { counters := True } := by
  intro m h hm
  by_cases hmn : m = n
  · subst hmn
    exact ⟨f h, (hoist?_updHoist hf).trans (congrArg (Option.map f) hm), hr h⟩
  · exact ⟨h, (hoist?_updHoist_other hf hmn).trans hm, sameRegs_refl h _⟩

theorem hoists_of_wakes (hw : Wakes s t) :
    ∀ m h, s.hoist? m = some h → ∃ k, t.hoist? m = some k ∧ SameRegs h k { counters := True } := fun m h hm => by
  obtain ⟨k, hk, hr⟩ := hw m h hm
  exact ⟨k, hk, released_sameRegs hr _⟩

theorem stores_updHoist (s : State) (n : Nat) {f : Hoist → Hoist} (hf : ∀ h, (f h).src = h.src)
    (hr : ∀ h, SameRegs h (f h) { counters := True }) : Stores block ws s (s.updHoist n f) :=
  stores_of_same rfl rfl (hoists_updHoist s n hf hr)

theorem spared_cons {scr : Bool} {w : Access × List Byte} {a : Nat} (h : Spared scr (w :: ws) a) (hw : w.1.scr = scr) :
    a < w.1.pa ∨ w.1.pa + w.2.length ≤ a :=
  (h w List.mem_cons_self).resolve_left fun he => by
    rw [hw] at he
    cases scr <;> cases he

theorem stores_writePhys (s : State) (x : Access) (hx : x.scr = false) (bs : List Byte) : Stores block [(x, bs)] s (s.writePhys x.pa bs) where
  mem hc := by
    refine ⟨canonical_writePhys hc, fun a ha => ?_⟩
    cases hu : s.unlinked x.pa with
    | true => rw [State.writePhys, hu, if_pos rfl]
    | false =>
      rw [Writes.mem_writePhys hu]
      exact read_writeBytes_other hc (spared_cons ha hx)
  scratch hw :=
    ⟨by rw [blocks_writePhys]; exact hw, fun b y hy => ⟨y, by rw [State.block?, blocks_writePhys]; exact hy, fun _ _ => rfl⟩⟩
  hoists := hoists_of_wakes (wakes_writePhys s _ _)

theorem stores_agentWrite (s : State) (ctx : Nat) (x : Access) (hx : x.scr = false) (bs : List Byte) :
    Stores block [(x, bs)] s (s.agentWrite ctx x.pa bs) := by
  rw [State.agentWrite]
  split
  · exact stores_of_same rfl rfl fun m h hm => ⟨h, hm, sameRegs_refl h _⟩
  · exact stores_writePhys s x hx bs

theorem stores_writeShared (s : State) (src ctx : Nat) (x : Access) (hx : x.scr = false) (bs : List Byte) :
    Stores block [(x, bs)] s (s.writeShared src ctx x.pa bs) := by
  have hposts (h : Hoist) : (s.posts ctx (decide (companionBase ≤ x.pa)) h).src = h.src ∧
      SameRegs h (s.posts ctx (decide (companionBase ≤ x.pa)) h) { counters := True } := by
    rw [State.posts]
    split
    · split <;> exact ⟨rfl, sameRegs_of_regs rfl rfl⟩
    · exact ⟨rfl, sameRegs_refl h _⟩
  rw [State.writeShared]
  have hs : Stores block [] s (if s.holdsWrite ctx x.pa = true then s.updHoist src (s.posts ctx (decide (companionBase ≤ x.pa)))
      else s) := iteInduction (motive := Stores block [] s)
    (fun _ => stores_updHoist s src (fun h => (hposts h).1) fun h => (hposts h).2)
    fun _ => stores_of_same rfl rfl fun m h hm => ⟨h, hm, sameRegs_refl h _⟩
  exact stores_trans (ws := []) hs (stores_agentWrite _ ctx x hx bs)

theorem stores_writeScratch (s : State) (x : Access) (hx : x.scr = true) (bs : List Byte) :
    Stores block [(x, bs)] s (s.writeScratch block x.pa bs) where
  mem hc := ⟨hc, fun _ _ => rfl⟩
  scratch hw := by
    refine ⟨fun b hb => ?_, fun b y hy => ?_⟩
    · obtain ⟨y, hy, rfl⟩ := List.mem_map.1 hb
      split
      · exact wf_writeBytes (hw y hy)
      · exact hw y hy
    · by_cases hb : b = block
      · subst hb
        obtain ⟨z, hz, hscr⟩ := block?_writeScratch hy x.pa bs
        refine ⟨z, hz, fun a ha => ?_⟩
        rw [hscr]
        exact read_writeBytes_other (hw y (List.mem_of_find?_eq_some hy)) (spared_cons (ha.resolve_left (not_not_intro rfl)) hx)
      · exact ⟨y, block?_updBlock_other (by exact fun _ => rfl) hb hy, fun _ _ => rfl⟩
  hoists m h hm := ⟨h, hm, sameRegs_refl h _⟩

theorem stores_writeAccess (s : State) (src ctx : Nat) (w : Access × List Byte) :
    Stores block [w] s (s.writeAccess src block ctx w.1 w.2) := by
  unfold State.writeAccess
  split
  next hscr => exact stores_writeScratch s w.1 hscr w.2
  next hscr =>
    have hx : w.1.scr = false := Bool.eq_false_iff.2 hscr
    split
    · split
      · exact stores_updHoist s src (by exact fun _ => rfl) fun _ => sameRegs_of_regs rfl rfl
      · exact stores_writeShared s src ctx w.1 hx w.2
    · exact stores_writeShared s src ctx w.1 hx w.2

theorem stores_foldl_writeAccess (src ctx : Nat) (ws : List (Access × List Byte)) (s : State) :
    Stores block ws s (ws.foldl (fun s w => s.writeAccess src block ctx w.1 w.2) s) := by
  induction ws generalizing s with
  | nil => exact stores_of_same rfl rfl fun m h hm => ⟨h, hm, sameRegs_refl h _⟩
  | cons w ws ih => exact stores_trans (ws := [w]) (stores_writeAccess s src ctx w) (ih _)

theorem stores_unpoison (s : State) (rs : List (Nat × Nat)) : Stores block ws s (s.unpoison rs) := by
  rw [State.unpoison]
  split <;> exact stores_of_same rfl rfl fun m h hm => ⟨h, hm, sameRegs_refl h _⟩

theorem stores_performWrites (s : State) (src ctx : Nat) (ws : List (Access × List Byte)) :
    Stores block ws s (s.performWrites src block ctx ws) := by
  have hf := stores_foldl_writeAccess (block := block) src ctx ws s
  unfold State.performWrites
  dsimp only
  split
  · split
    · exact stores_then hf (stores_updHoist _ _ (f := fun x => { x with wbuf := _ }) (by exact fun _ => rfl)
        fun _ => sameRegs_of_regs rfl rfl)
    · exact hf
  · exact stores_then hf (stores_unpoison _ _)

theorem stores_completeFlight {f : Flight} {dev : Bool} (hw : f.work = .store ws dev) : Stores f.block ws s (s.completeFlight f) := by
  have hcount (n : Nat) (k : Counter) (u : State) : Stores f.block [] u (u.dropCount n k) :=
    stores_updHoist u n (by exact fun _ => rfl) fun h => { sameRegs_refl h { counters := True } with
      counters := fun hn => absurd trivial hn }
  rw [State.completeFlight, hw]
  refine stores_then (stores_then (stores_performWrites s f.src f.ctx ws) (hcount f.src .w _)) ?_
  exact stores_of_same rfl rfl fun m h hm => ⟨h, hm, sameRegs_refl h _⟩

end

theorem store_completes {s t : State} {n : Nat} {f : Flight} {ws : List (Access × List Byte)} {dev : Bool} (h : Ripe s n f)
    (hw : f.work = .store ws dev) (ha : Answers (.writePerformed n) s t) : t = s.completeFlight f := by
  have hk := completeWhen_of_ripe h (kind := fun w => match w with
    | .store _ _ => true
    | .atomic _ _ none _ _ _ _ => true
    | _ => false) (by rw [hw])
  injection (ha.symm.trans (congrArg Host.Outcome.next hk))

theorem load_completes {s t : State} {n : Nat} {f : Flight} {k : Counter} {tg : Target} {acc : List Access} (h : Ripe s n f)
    (hw : f.work = .load k tg acc) (ha : Answers (.loadDataReturn n) s t) : t = s.completeFlight f := by
  have hk := completeWhen_of_ripe h (kind := Work.returns) (by rw [hw]; rfl)
  injection (ha.symm.trans (congrArg Host.Outcome.next hk))

theorem completeLoad_of_clean {s : State} {f : Flight} {acc : List Access} (h : ∀ x ∈ acc, s.accessPoisoned f.block x = false)
    (k : Counter) (tg : Target) : s.completeLoad f k tg acc =
      (s.updHoist f.src fun h => h.deliver tg (acc.map fun x => (x.lane, s.readAccess f.src f.block x))).dropCount f.src k := by
  have hgood : acc.filter (fun x => !s.accessPoisoned f.block x) = acc :=
    List.filter_eq_self.2 fun x hx => by rw [h x hx]; rfl
  have hbad : acc.filter (fun x => s.accessPoisoned f.block x) = [] :=
    List.filter_eq_nil_iff.2 fun x hx => by rw [h x hx]; exact Bool.false_ne_true
  unfold State.completeLoad State.splitPoison
  rw [hgood, hbad]
  rfl

theorem deliver_src (h : Hoist) (tg : Target) (vals : List (Nat × List Byte)) : (h.deliver tg vals).src = h.src :=
  (Keeping.sameGroups_deliver h tg vals).1

/-- Settles O45: the writes of a store one after the other, each within its bytes; a load writes its hoist alone. -/
theorem storeFrames : Obligations.StoreFrames := by
  refine ⟨fun s n f ws dev t hc hw h hwork ha => ?_, fun s n f k tg acc t h hwork hclean ha => ?_⟩
  · rw [store_completes h hwork ha]
    have hst := stores_completeFlight (s := s) hwork
    refine ⟨fun a ho => (hst.mem hc).2 a ho, fun b x hx => ?_, hst.hoists⟩
    exact (hst.scratch hw).2 b x hx
  · rw [load_completes h hwork ha, State.completeFlight, hwork]
    dsimp only
    rw [completeLoad_of_clean hclean]
    refine ⟨⟨fun _ => rfl, rfl⟩, rfl, fun m hm => ?_⟩
    have hd := hoist?_updHoist_other (s := s) (f := fun h => h.deliver tg (acc.map fun x => (x.lane, s.readAccess f.src f.block x)))
      (fun h => deliver_src h _ _) hm
    exact (hoist?_updHoist_other (by exact fun _ => rfl) hm).trans hd

end Sys2Proof.Proofs.StoreFrames

/-!
PROOFS. Completion events (09_memory.md R173–R201, 11_ordering.md R230–R235, 15_cube.md R286–R301, 23_rendering.md R382–R388): each kind of
work in flight completes with its effect.
-/

namespace Sys2Proof.Proofs.WorkEvents

open Sys2Proof Sys2Proof.Machine Sys2Proof.Claims Sys2Proof.Laws Sys2Proof.Proofs.UnitWords Sys2Proof.Proofs.StoreFrames Sys2Proof.Proofs.TrapEntries

section
variable {s u : State} {n : Nat} {f : Flight}

theorem id_of_ripe (h : Ripe s n f) : f.id = n := beq_iff_eq.1 (List.find?_some (p := fun x : Flight => x.id == n) h.found)

/-! ### Loads, stores and atomics -/

theorem completeFlight_load {k : Counter} {t : Target} {acc : List Access} (hw : f.work = .load k t acc)
    (hc : ∀ x ∈ acc, s.accessPoisoned f.block x = false) : s.completeFlight f =
      finished (s.updHoist f.src fun h => h.deliver t (acc.map fun x => (x.lane, s.readAccess f.src f.block x))) f k := by
  rw [State.completeFlight, hw]
  dsimp only
  rw [completeLoad_of_clean hc]
  rfl

theorem completeFlight_load_poisoned {k : Counter} {d m : Nat} {acc bad : List Access} (hw : f.work = .load k (.v d m) acc)
    (hb : bad = acc.filter fun x => s.accessPoisoned f.block x) (hne : bad ≠ []) : s.completeFlight f =
      (((s.updHoist f.src fun h => h.deliver (.v d m) ((acc.filter fun x => !s.accessPoisoned f.block x).map
        fun x => (x.lane, s.readAccess f.src f.block x))).dropCount f.src k).killLanes f.src
          (bad.map fun x => (x.lane, x.va.toNat)) f.named).dropFlight f.id := by
  rw [State.completeFlight, hw]
  dsimp only
  unfold State.completeLoad State.splitPoison
  rw [← hb]
  dsimp only
  rw [if_neg hne]
  rfl

theorem filters_of_clean {lanes : List AtomLane} (h : ∀ x ∈ lanes, s.accessPoisoned f.block x.access = false) :
    lanes.filter (fun x => !s.accessPoisoned f.block x.access) = lanes ∧
      lanes.filter (fun x => s.accessPoisoned f.block x.access) = [] :=
  ⟨List.filter_eq_self.2 fun x hx => by rw [h x hx]; rfl,
    List.filter_eq_nil_iff.2 fun x hx => by rw [h x hx]; exact Bool.false_ne_true⟩

theorem completeFlight_atomic {cas ord : Bool} {m scope : Nat} {ret : Option Target} {lanes : List AtomLane} {home : Nat}
    {olds : List (Nat × List Byte)} (hw : f.work = .atomic cas m ret lanes scope ord home)
    (hc : ∀ x ∈ lanes, s.accessPoisoned f.block x.access = false)
    (hp : State.performAtomic f.src f.block f.ctx (if cas then .cas else .rmw m) lanes s = (olds, u)) : s.completeFlight f =
      { (match ret with
          | some t => (u.updHoist f.src fun h => h.deliver t olds).dropCount f.src .g
          | none => u.dropCount f.src .w) with svcq := u.svcq.filter (·.2 != f.id) }.dropFlight f.id := by
  obtain ⟨hg, hb⟩ := filters_of_clean hc
  rw [State.completeFlight, hw]
  dsimp only
  unfold State.completeAtomic
  rw [hg, hb]
  dsimp only
  rw [hp]
  cases ret <;> rfl

theorem completeFlight_store {ws : List (Access × List Byte)} {dev : Bool} {b : Block} (hw : f.work = .store ws dev)
    (hb : s.block? f.block = some b) (hr : b.replicated = false) : s.completeFlight f =
      finished ((ws.foldl (fun s w => s.writeAccess f.src f.block f.ctx w.1 w.2) s).unpoison
        ((ws.filter fun w => !w.1.scr && !s.holdsWrite f.ctx w.1.pa).map fun w => (w.1.pa, w.2.length))) f .w := by
  rw [State.completeFlight, hw]
  dsimp only
  rw [State.performWrites, hb, Option.getD_some, hr]
  rfl

/-! ### Copies -/

theorem moveElements_of_done {j : CopyJob} (hf : s.flight? f.id = some f) (hw : f.work = .copy j) (dst : List (Nat × Nat)) {ks : List Nat}
    (hd : ∀ k ∈ ks, k ∈ j.done) : State.moveElements f dst ks s = s := by
  obtain ⟨id, src, group, block, ctx, work, named⟩ := f
  cases hw
  induction ks with
  | nil => rfl
  | cons k ks ih =>
    rw [State.moveElements, hf]
    dsimp only
    rw [List.contains_iff_mem.2 (hd k List.mem_cons_self), if_pos rfl, ih fun k' h' => hd k' (List.mem_cons_of_mem _ h')]
    exact ite_self _

theorem endCopy_of_done {j : CopyJob} (hf : s.flight? f.id = some f) (hw : f.work = .copy j) (hd : j.done.length = j.total) :
    s.endCopy f = (if j.dst.has permSCR then s else s.postedCopy f).dropFlight f.id := by
  obtain ⟨id, src, group, block, ctx, work, named⟩ := f
  cases hw
  rw [State.endCopy, hf]
  exact if_pos hd

theorem moveElements_singleton {j : CopyJob} {k : Nat} (hf : s.flight? f.id = some f) (hw : f.work = .copy j) (ht : j.token = none)
    (hk : k ∉ j.done) {dst : List (Nat × Nat)} (hm : State.moveAll f (s.flightCtx f) j dst (j.together k) s = .ok u) :
    State.moveElements f dst [k] s = u := by
  obtain ⟨id, src, group, block, ctx, work, named⟩ := f
  cases hw
  have hnot : j.done.contains k = false := Bool.eq_false_iff.2 fun h => hk (List.contains_iff_mem.1 h)
  rw [State.moveElements, hf]
  dsimp only
  rw [ht, hnot, hm]
  rfl

theorem freeWhere_of_none {marks : List Bool} (h : marks.any id = false) (bs : List Byte) : s.freeWhere marks bs = (bs, s) := by
  rw [State.freeWhere, h, if_neg Bool.false_ne_true]

/-- An element moves when it is read whole, not poisoned, and written. -/
theorem moveElement_of_read {c : Ctx} {j : CopyJob} {dst : List (Nat × Nat)} {k : Nat} {bs : List Byte} {v : State} (hz : j.zfill = false)
    (hbar : j.bar = none) (hr : s.engineRead f c j.src (j.srcPos k) (2 ^ j.esz) = (.ok (bs, false), u))
    (hs : (u.selfRead f c j dst k).any id = false)
    (hw : u.engineWrite f (0x3000 + clusterOf f.src) c j.dst (j.dstPos k) bs false j.privileged = .ok v) :
    s.moveElement f c j dst k = .ok (elementDone v f.id k) := by
  unfold State.moveElement
  dsimp only
  rw [hz, Bool.false_and, if_neg Bool.false_ne_true, hr]
  dsimp only
  rw [if_neg Bool.false_ne_true, freeWhere_of_none hs]
  dsimp only
  rw [hw, hbar]
  rfl

theorem moveElement_of_fault {c : Ctx} {j : CopyJob} {dst : List (Nat × Nat)} {k : Nat} {e : RangeFault} (hz : j.zfill = false)
    (hr : s.engineRead f c j.src (j.srcPos k) (2 ^ j.esz) = (.error e, u)) (he : e.stall = false) :
    s.moveElement f c j dst k = .fail e 4 u := by
  unfold State.moveElement
  dsimp only
  rw [hz, Bool.false_and, if_neg Bool.false_ne_true, hr]
  dsimp only
  rw [he, if_neg Bool.false_ne_true]

/-- Within a segment whether an element reads what its copy writes depends on the copy alone. -/
theorem selfRead_within {c : Ctx} {j : CopyJob} (hs : j.src.has permSCR = true) (hd : j.dst.has permSCR = true) (dst : List (Nat × Nat))
    (k : Nat) : s.selfRead f c j dst k =
      (List.range (2 ^ j.esz)).map fun i => overlaps dst (((j.src.base.toNat : Int) + j.srcPos k).toNat + i) := by
  unfold State.selfRead
  rw [hs, hd, if_neg (by decide)]
  exact List.map_congr_left fun i _ => if_pos rfl

theorem srcPos_eq (j : CopyJob) (k : Nat) : j.srcPos k = (elementAt j k).1 := by
  rw [CopyJob.srcPos, position_zero, elementAt, Int.add_assoc]

theorem dstPos_eq (j : CopyJob) (k : Nat) : j.dstPos k = (elementAt j k).2 := by
  rw [CopyJob.dstPos, position_zero, elementAt]
  exact (Int.add_assoc ..).symm

theorem moveElement_within {c : Ctx} {j : CopyJob} {dst : List (Nat × Nat)} {k : Nat} {b : Block} (hz : j.zfill = false)
    (hbar : j.bar = none) (hs : j.src.has permSCR = true) (hd : j.dst.has permSCR = true) (hb : s.block? f.block = some b)
    (hp : b.poison = []) (hself : (s.selfRead f c j dst k).any id = false) :
    s.moveElement f c j dst k = .ok (elementDone (s.writeScratch f.block (j.dst.base.toNat + (elementAt j k).2).toNat
      (b.scratch.readBytes (j.src.base.toNat + (elementAt j k).1).toNat (2 ^ j.esz))) f.id k) := by
  refine moveElement_of_read (u := s) (bs := b.scratch.readBytes (j.src.base.toNat + (elementAt j k).1).toNat (2 ^ j.esz)) hz hbar ?_
    hself ?_
  · unfold State.engineRead
    rw [hs, if_pos rfl, hb, srcPos_eq]
    dsimp only [Option.getD_some]
    rw [hp]
    rfl
  · unfold State.engineWrite
    rw [hd, if_pos rfl, dstPos_eq]
    rfl

theorem moveEach_within {c : Ctx} {j : CopyJob} {dst : List (Nat × Nat)} {ks : List Nat} {b : Block} {was : State} (hz : j.zfill = false)
    (hbar : j.bar = none) (hs : j.src.has permSCR = true) (hd : j.dst.has permSCR = true) (hb : s.block? f.block = some b)
    (hp : b.poison = []) (hself : ∀ k ∈ ks, (was.selfRead f c j dst k).any id = false) :
    State.moveEach f c j dst was ks s = .ok (movedWithin f f.id j ks s) := by
  induction ks generalizing s b with
  | nil => rfl
  | cons k ks ih =>
    have hk : (s.selfRead f c j dst k).any id = false := by
      rw [selfRead_within hs hd, ← selfRead_within (s := was) hs hd]
      exact hself k List.mem_cons_self
    rw [State.moveEach, moveElement_within hz hbar hs hd hb hp hk, movedWithin, hb]
    refine ih (block?_updBlock (by exact fun _ => rfl) hb) ?_ fun k' h' => hself k' (List.mem_cons_of_mem _ h')
    dsimp only
    rw [hp, List.filter_nil]

theorem moveAll_within {c : Ctx} {j : CopyJob} {dst : List (Nat × Nat)} {ks : List Nat} {b : Block} (hz : j.zfill = false)
    (hbar : j.bar = none) (hs : j.src.has permSCR = true) (hd : j.dst.has permSCR = true) (hb : s.block? f.block = some b)
    (hp : b.poison = []) (hself : ∀ k ∈ ks, (s.selfRead f c j dst k).any id = false) :
    State.moveAll f c j dst ks s = .ok (movedWithin f f.id j ks s) := by
  have hone (k : Nat) (hk : k ∈ ks) := moveElement_within hz hbar hs hd hb hp (hself k hk)
  have hnone : ks.findSome? (s.moveStopped f c j dst) = none := List.findSome?_eq_none_iff.2 fun k hk => by
    rw [State.moveStopped, hone k hk]
  unfold State.moveAll
  split
  · rw [hone _ (List.mem_singleton.2 rfl), movedWithin, hb]
    rfl
  · rw [hnone, Option.getD_none, moveEach_within hz hbar hs hd hb hp hself]

theorem together_of_memory {j : CopyJob} (hd : j.dst.has permSCR = false) (k : Nat) : j.together k = [k] := by
  rw [CopyJob.together, hd, Bool.false_and, if_neg Bool.false_ne_true]

theorem moveElement_memory {c : Ctx} {j : CopyJob} {dst : List (Nat × Nat)} {k : Nat} {rs ws : Runs} {v : State} (hz : j.zfill = false)
    (hbar : j.bar = none) (hs : j.src.has permSCR = false) (hd : j.dst.has permSCR = false)
    (hr : s.range (s.engine f) c .load j.src.rights (j.src.address (elementAt j k).1) (2 ^ j.esz) = (.ok rs, u))
    (hp : u.runsPoisoned rs = false) (hself : (u.selfRead f c j dst k).any id = false)
    (hw : State.reachRange (u.engine f) c .store j.dst.rights j.privileged (unitsOf (u.readRuns rs).length)
      (j.dst.address (elementAt j k).2) (u.readRuns rs).length u = (.ok ws, v)) :
    s.moveElement f c j dst k = .ok (elementDone (v.writeRuns c.id ws (u.readRuns rs)) f.id k) := by
  refine moveElement_of_read (u := u) (bs := u.readRuns rs) hz hbar ?_ hself ?_
  · unfold State.engineRead
    rw [hs, if_neg Bool.false_ne_true, srcPos_eq, hr]
    dsimp only
    rw [hp]
  · unfold State.engineWrite
    rw [hd, if_neg Bool.false_ne_true, dstPos_eq, hw]
    rfl

/-! ### A copy that fails -/

theorem moveStopped_of_fail {c : Ctx} {j : CopyJob} {dst : List (Nat × Nat)} {k kind : Nat} {e : RangeFault}
    (h : s.moveElement f c j dst k = .fail e kind u) : s.moveStopped f c j dst k = some (.fail e kind u) := by
  rw [State.moveStopped, h]

/-- Elements move as one, so the first that cannot move stops them all. -/
theorem moveAll_of_fail {c : Ctx} {j : CopyJob} {dst : List (Nat × Nat)} {k kind : Nat} {ks : List Nat} {e : RangeFault}
    (h : s.moveElement f c j dst k = .fail e kind u) : State.moveAll f c j dst (k :: ks) s = .fail e kind u := by
  unfold State.moveAll
  split
  · next x hx => rw [← (List.cons.inj hx).1, h]
  · rw [List.findSome?_cons, moveStopped_of_fail h]
    rfl

/-- What satisfies `p` begins with `k` when `k` is the first that does. -/
theorem filter_range_of_first {p : Nat → Bool} {n k : Nat} (hk : k < n) (hp : p k = true) (hb : ∀ i, i < k → p i = false) :
    ∃ ks, (List.range n).filter p = k :: ks := by
  obtain ⟨m, rfl⟩ : ∃ m, n = k + (m + 1) := ⟨n - k - 1, by omega⟩
  rw [List.range_add, List.filter_append, List.range_succ_eq_map, List.map_cons, Nat.add_zero,
    List.filter_eq_nil_iff.2 fun i hi => by rw [hb i (List.mem_range.1 hi)]; exact Bool.false_ne_true, List.nil_append,
    List.filter_cons_of_pos hp]
  exact ⟨_, rfl⟩

theorem together_of_first {j : CopyJob} {k : Nat} (hk : k < j.total) (hnot : k ∉ j.done) (hb : ∀ i, i < k → i ∈ j.done) :
    ∃ ks, j.together k = k :: ks := by
  unfold CopyJob.together
  split
  · refine filter_range_of_first hk ?_ fun i hi => ?_
    · rw [Bool.eq_false_iff.2 fun h => hnot (List.contains_iff_mem.1 h), beq_self_eq_true]
      rfl
    · rw [List.contains_iff_mem.2 (hb i hi)]
      rfl
  · exact ⟨[], rfl⟩

theorem copyFails_of_first {j : CopyJob} {k kind : Nat} {e : RangeFault} (ht : j.token = none) (hk : k < j.total) (hnot : k ∉ j.done)
    (hb : ∀ i, i < k → i ∈ j.done) (hm : s.moveElement f (s.flightCtx f) j (s.copyDst f j) k = .fail e kind u)
    (he : e.forward = false) : s.copyFails f j = some e := by
  obtain ⟨ks, hks⟩ := together_of_first hk hnot hb
  obtain ⟨m, hm'⟩ : ∃ m, j.total = k + (m + 1) := ⟨j.total - k - 1, by omega⟩
  rw [State.copyFails, ht, if_neg (by decide)]
  dsimp only
  rw [hm', List.range_add, List.range_succ_eq_map, List.findSome?_append,
    List.findSome?_eq_none_iff.2 fun i hi => if_pos (List.contains_iff_mem.2 (hb i (List.mem_range.1 hi))), Option.none_or,
    List.map_cons, List.findSome?_cons, Nat.add_zero, if_neg fun h => hnot (List.contains_iff_mem.1 h), hks, moveAll_of_fail hm]
  dsimp only
  rw [he]
  rfl

/-! ### Slots and tiles -/

theorem completeFill_of_alone {k pitch : Nat} {win : AReg} {off : Int} {m : Memory}
    (hr : State.readPieces f (s.flightCtx f) win (slotPieces win off pitch) [] s = (.ok m, u))
    (ha : ∀ x ∈ u.flights, x.block = f.block → x.id ≠ f.id → ∀ w o p c, x.work ≠ .fill k w o p c) :
    s.completeFill f k win off pitch =
      (u.updBlock f.block fun b => b.updSlot k fun x => { x with data := m, filling := false }).dropFlight f.id := by
  unfold State.completeFill
  rw [hr]
  dsimp only
  congr 2
  funext b
  congr 1
  funext x
  congr 1
  refine List.any_eq_false.2 fun y hy hany => ?_
  rw [Bool.and_eq_true, Bool.and_eq_true, beq_iff_eq, bne_iff_ne] at hany
  obtain ⟨⟨hblock, hid⟩, hwork⟩ := hany
  split at hwork
  · next n w o p c hf => exact ha y hy hblock hid w o p c (hf.trans (by rw [beq_iff_eq.1 hwork]))
  · exact Bool.false_ne_true hwork

/-! ### Beams -/

theorem dropFlight_updFlight (g : Work → Work) : (s.updFlight n g).dropFlight n = s.dropFlight n := by
  unfold State.dropFlight State.updFlight
  dsimp only
  congr 1
  induction s.flights with
  | nil => rfl
  | cons x xs ih =>
    rw [List.map_cons, List.filter_cons, List.filter_cons, ih]
    by_cases hx : x.id = n
    · rw [if_pos (beq_iff_eq.2 hx)]
      dsimp only
      rw [if_neg (by simp [hx]), if_neg (by simp [hx])]
    · rw [if_neg (mt beq_iff_eq.1 hx)]

theorem flight?_updFlight (hf : s.flight? n = some f) (g : Work → Work) :
    (s.updFlight n g).flight? n = some { f with work := g f.work } := by
  have hid : f.id = n := beq_iff_eq.1 (List.find?_some (p := fun x : Flight => x.id == n) hf)
  unfold State.flight? State.updFlight
  dsimp only
  rw [find?_map_key (by intro x; split <;> rfl)]
  unfold State.flight? at hf
  rw [hf, Option.map_some, if_pos (beq_iff_eq.2 hid)]

theorem advanceBeam_of_done {j : BeamJob} (hp : j.pending = some []) (m : Nat) :
    s.advanceBeam f j m = s.updFlight f.id fun _ => .beam j := by
  rw [State.advanceBeam, State.resolveBeam, hp]
  dsimp only
  cases m with
  | zero => rfl
  | succ m =>
    rw [State.pushFragments, hp]

theorem endBeam_of_done {j : BeamJob} (hf : s.flight? f.id = some f) (hp : j.pending = some []) :
    (s.updFlight f.id fun _ => .beam j).endBeam f =
      finished (s.updHoist f.src fun h => h.writeS (BitVec.ofNat 8 j.d) (BitVec.ofNat 32 (j.pushed % 512 + 65536 * j.status))) f .x := by
  rw [State.endBeam, flight?_updFlight hf]
  dsimp only
  rw [if_pos hp]
  exact dropFlight_updFlight (s := (s.updHoist f.src fun h => h.writeS (BitVec.ofNat 8 j.d)
    (BitVec.ofNat 32 (j.pushed % 512 + 65536 * j.status))).dropCount f.src .x) (n := f.id) fun _ => .beam j

theorem advanceBeam_one {j : BeamJob} {x : List Byte} {xs : List (List Byte)} {q : QueueWord} (hp : j.pending = some (x :: xs))
    (hq : q = queueWord j.qcw)
    (hw : s.queuePush (.scratch f.block (j.queue.base.toNat + j.queue.cursor.toNat + q.off)) q [x] = .ok (1, u)) :
    s.advanceBeam f j 1 = u.updFlight f.id fun _ => .beam { j with pending := some xs, pushed := j.pushed + 1 } := by
  subst hq
  rw [State.advanceBeam, State.resolveBeam, hp]
  dsimp only [beamQueue]
  rw [State.pushFragments, hp]
  dsimp only
  rw [hw]
  rfl

/-! ### The pass that is granted -/

/-- A fold that keeps the better of two ends with the one that beats every other. -/
theorem foldl_best {α : Type} (r : α → α → Bool) {b : α} (xs : List α) (a : α) (hm : b = a ∨ b ∈ xs)
    (hb : ∀ x, x = a ∨ x ∈ xs → x ≠ b → r b x = true ∧ r x b = false) :
    xs.foldl (fun c y => if r y c then y else c) a = b := by
  induction xs generalizing a with
  | nil => exact (hm.resolve_right List.not_mem_nil).symm
  | cons x xs ih =>
    rw [List.foldl_cons]
    refine ih _ ?_ fun y hy hne => hb y ?_ hne
    · by_cases ha : b = a
      · subst ha
        by_cases hx : x = b
        · rw [hx, ite_self]
          exact .inl rfl
        · rw [(hb x (.inr List.mem_cons_self) hx).2, if_neg Bool.false_ne_true]
          exact .inl rfl
      · rcases List.mem_cons.1 (hm.resolve_left ha) with hx | hx
        · rw [← hx, (hb a (.inl rfl) (Ne.symm ha)).1, if_pos rfl]
          exact .inl rfl
        · exact .inr hx
    · rcases hy with hy | hy
      · split at hy
        · exact .inr (hy ▸ List.mem_cons_self)
        · exact .inl hy
      · exact .inr (List.mem_cons_of_mem _ hy)

theorem ungranted_of_pass {j : PassJob} (hw : f.work = .pass j) (hg : j.granted = false) : f.ungranted = some j := by
  rw [Flight.ungranted, hw]
  dsimp only
  rw [hg, if_neg Bool.false_ne_true]

theorem pass_of_ungranted {j : PassJob} (h : f.ungranted = some j) : f.work = .pass j := by
  unfold Flight.ungranted at h
  split at h
  · next j' hj =>
    split at h
    · exact absurd h nofun
    · rw [hj, Option.some.inj h]
  · exact absurd h nofun

/-- A pass's effective priority (15_cube.md R301). -/
def passPrio (now : Nat) (j : PassJob) : Nat := min 7 (j.prio + (now - j.post) / 512)

theorem passBefore_iff (now : Nat) (a b : Flight × PassJob) : passBefore now a b = true ↔
    passPrio now b.2 < passPrio now a.2 ∨ passPrio now a.2 = passPrio now b.2 ∧
      (a.2.post < b.2.post ∨ a.2.post = b.2.post ∧ a.1.src < b.1.src) := by
  unfold passBefore
  simp only [Bool.or_eq_true, Bool.and_eq_true, decide_eq_true_eq, beq_iff_eq, passPrio]

/-- The array has no pass granted. -/
theorem none_granted {k : Nat} {j : PassJob} (h : FirstPass s k f j) :
    ((s.flights.filter fun f => clusterOf f.src == k).any fun f => match f.work with | .pass j => j.granted | _ => false) = false := by
  obtain ⟨-, -, -, -, -, hnone, -⟩ := h
  refine List.any_eq_false.2 fun x hx hg => ?_
  rw [List.mem_filter, beq_iff_eq] at hx
  split at hg
  · next y hy => exact absurd hg (by rw [hnone x hx.1 hx.2 y hy]; exact Bool.false_ne_true)
  · exact Bool.false_ne_true hg

theorem nextGrant_of_first {k : Nat} {j : PassJob} (h : FirstPass s k f j) : s.nextGrant k = some f := by
  have hno := none_granted h
  obtain ⟨hmem, hk, hel, hw, hg, -, hbest⟩ := h
  rw [State.nextGrant]
  dsimp only
  refine (if_neg (Bool.eq_false_iff.1 hno)).trans ?_
  generalize hxs : ((s.flights.filter fun f => clusterOf f.src == k).filter s.eligible).filterMap
    (fun f => f.ungranted.map fun j => (f, j)) = xs
  have hof (x : Flight × PassJob) (hx : x ∈ xs) :
      x.1 ∈ s.flights ∧ clusterOf x.1.src = k ∧ s.eligible x.1 = true ∧ x.1.work = .pass x.2 := by
    rw [← hxs, List.mem_filterMap] at hx
    obtain ⟨a, ha, hax⟩ := hx
    obtain ⟨y, hy, rfl⟩ := Option.map_eq_some_iff.1 hax
    rw [List.mem_filter, List.mem_filter, beq_iff_eq] at ha
    exact ⟨ha.1.1, ha.1.2, ha.2, pass_of_ungranted hy⟩
  have hin : (f, j) ∈ xs := by
    rw [← hxs, List.mem_filterMap]
    refine ⟨f, List.mem_filter.2 ⟨List.mem_filter.2 ⟨hmem, beq_iff_eq.2 hk⟩, hel⟩, ?_⟩
    rw [ungranted_of_pass hw hg]
    rfl
  have hbeat (x : Flight × PassJob) (hx : x ∈ xs) (hne : x ≠ (f, j)) :
      passBefore s.clock (f, j) x = true ∧ passBefore s.clock x (f, j) = false := by
    obtain ⟨hxm, hxk, hxe, hxw⟩ := hof x hx
    have hxf : x.1 ≠ f := fun he => hne (Prod.ext he (Work.pass.inj (hxw.symm.trans (he ▸ hw))))
    have hp : passPrio s.clock x.2 < passPrio s.clock j ∨ passPrio s.clock x.2 = passPrio s.clock j ∧
        (j.post < x.2.post ∨ j.post = x.2.post ∧ f.src < x.1.src) := hbest x.1 hxm hxk hxe hxf x.2 hxw
    refine ⟨(passBefore_iff ..).2 (hp.imp_right fun hp => ⟨hp.1.symm, hp.2⟩),
      Bool.eq_false_iff.2 fun hb => ?_⟩
    rw [passBefore_iff] at hb
    dsimp only at hb
    omega
  cases xs with
  | nil => exact absurd hin List.not_mem_nil
  | cons x rest =>
    dsimp only
    rw [foldl_best (fun y b => passBefore s.clock y b) (b := (f, j)) rest x (List.mem_cons.1 hin)
      fun y hy hne => hbeat y (List.mem_cons.2 hy) hne]

theorem updFlight_congr {n : Nat} {g g' : Work → Work} (h : ∀ x ∈ s.flights, x.id = n → g x.work = g' x.work) :
    s.updFlight n g = s.updFlight n g' := by
  unfold State.updFlight
  congr 1
  refine List.map_congr_left fun x hx => ?_
  split
  · next hn => rw [h x hx (beq_iff_eq.1 hn)]
  · rfl

/-- Settles O46: `completeFlight` runs the completion of the work's kind, and each kind answers its effect. -/
theorem workEvents : Obligations.WorkEvents := by
  intro i s t hev
  cases hev with
  | load n f k t acc hr hw hc => exact congrArg _ ((completeWhen_of_ripe hr (by rw [hw]; rfl)).trans (completeFlight_load hw hc))
  | loadDies n f k d m acc bad hr hw hb hne =>
    exact congrArg _ ((completeWhen_of_ripe hr (by rw [hw]; rfl)).trans (completeFlight_load_poisoned hw hb hne))
  | perm n f d vals hr hw =>
    refine congrArg _ ((completeWhen_of_ripe hr (by rw [hw]; rfl)).trans ?_)
    rw [State.completeFlight, hw]
    rfl
  | atomic n f cas m t lanes scope ord home olds u hr hw hc hp =>
    exact congrArg _ ((completeWhen_of_ripe hr (by rw [hw]; rfl)).trans (completeFlight_atomic hw hc hp))
  | store n f ws dev b hr hw hb hrep =>
    exact congrArg _ ((completeWhen_of_ripe hr (by rw [hw])).trans (completeFlight_store hw hb hrep))
  | reduce n f cas m lanes scope ord home olds u hr hw hc hp =>
    exact congrArg _ ((completeWhen_of_ripe hr (by rw [hw])).trans (completeFlight_atomic hw hc hp))
  | copy n f j hr hw hall hd =>
    have hid := id_of_ripe hr
    have hf : s.flight? f.id = some f := by rw [hid, hr.found]
    refine congrArg _ ((completeWhen_of_ripe hr (by rw [hw])).trans ?_)
    rw [State.completeFlight, hw]
    dsimp only
    rw [moveElements_of_done hf hw _ fun k hk => hall k (List.mem_range.1 hk), endCopy_of_done hf hw hd]
  | element n f j k b hr hw hk hnot ht hbar hz hs hd hb hp hself =>
    have hid := id_of_ripe hr
    have hf : s.flight? f.id = some f := by rw [hid, hr.found]
    change execCopyByteArrival n k s = _
    rw [execCopyByteArrival]
    refine congrArg _ ?_
    rw [hr.found]
    dsimp only
    rw [hw]
    dsimp only
    rw [if_pos ⟨hk, hr.enabled⟩, moveElements_singleton hf hw ht hnot (moveAll_within hz hbar hs hd hb hp hself), hid]
  | elementMemory n f j k c rs u ws v hr hw hk hnot ht hbar hz hs hd hc hread hclean hself hwrite =>
    have hid := id_of_ripe hr
    have hf : s.flight? f.id = some f := by rw [hid, hr.found]
    subst hc
    have hm : State.moveAll f (s.flightCtx f) j (s.copyDst f j) (j.together k) s =
        .ok (elementDone (v.writeRuns (s.flightCtx f).id ws (u.readRuns rs)) f.id k) := by
      rw [together_of_memory hd]
      exact moveElement_memory hz hbar hs hd hread hclean hself hwrite
    change execCopyByteArrival n k s = _
    rw [execCopyByteArrival]
    refine congrArg _ ?_
    rw [hr.found]
    dsimp only
    rw [hw]
    dsimp only
    rw [if_pos ⟨hk, hr.enabled⟩, moveElements_singleton hf hw ht hnot hm, hid]
  | copyFail n f j k e u hr hw ht hk hnot hb hz hs hread hst hfw =>
    have hm : s.moveElement f (s.flightCtx f) j (s.copyDst f j) k = .fail e 4 u := by
      refine moveElement_of_fault hz ?_ hst
      unfold State.engineRead
      rw [hs, if_neg Bool.false_ne_true, srcPos_eq, hread]
    change execCopyFail n s = _
    rw [execCopyFail]
    refine congrArg _ ?_
    rw [hr.found]
    dsimp only
    rw [hw]
    dsimp only
    rw [copyFails_of_first ht hk hnot hb hm hfw]
    exact if_pos hr.enabled
  | release n f k hr hw =>
    refine congrArg _ ((completeWhen_of_ripe hr (by rw [hw])).trans ?_)
    rw [State.completeFlight, hw]
    rfl
  | fill n f k win off pitch pc m u hr hw hread ha =>
    refine congrArg _ ((completeWhen_of_ripe hr (by rw [hw])).trans ?_)
    rw [State.completeFlight, hw]
    exact completeFill_of_alone hread ha
  | slotStore n f k win off pitch pc b u hr hw hb hwrite =>
    refine congrArg _ ((completeWhen_of_ripe hr (by rw [hw])).trans ?_)
    rw [State.completeFlight, hw]
    dsimp only
    rw [State.completeSlotStore, hb]
    dsimp only
    rw [hwrite]
    rfl
  | pass n f j b t x hr hw hg hb hrun =>
    refine congrArg _ ((completeWhen_of_ripe hr (by rw [hw]; exact hg)).trans ?_)
    rw [State.completeFlight, hw]
    dsimp only
    rw [State.completePass, hb]
    dsimp only
    rw [hrun]
    rfl
  | promote n f k b t x hr hw hb hc hrun =>
    refine congrArg _ ((completeWhen_of_ripe hr (by rw [hw])).trans ?_)
    rw [State.completeFlight, hw]
    dsimp only
    rw [State.completePromote, hb]
    dsimp only
    rw [if_neg hc, hrun]
  | promoteEmpty n f k b hr hw hb hc =>
    refine congrArg _ ((completeWhen_of_ripe hr (by rw [hw])).trans ?_)
    rw [State.completeFlight, hw]
    dsimp only
    rw [State.completePromote, hb]
    dsimp only
    rw [if_pos hc]
  | tileRead n f k d c j0 rows b hr hw hb =>
    refine congrArg _ ((completeWhen_of_ripe hr (by rw [hw])).trans ?_)
    rw [State.completeFlight, hw]
    dsimp only
    rw [State.completeTileRead, hb]
    rfl
  | tileWrite n f k j0 r ws b hr hw hb =>
    refine congrArg _ ((completeWhen_of_ripe hr (by rw [hw])).trans ?_)
    rw [State.completeFlight, hw]
    rfl
  | trace n f d mode cull bvh rays vals u hr hw hq =>
    refine congrArg _ ((completeWhen_of_ripe hr (by rw [hw])).trans ?_)
    rw [State.completeFlight, hw]
    dsimp only
    rw [State.completeTrace, hq]
    rfl
  | hitrd n f d attr bvh nodes vals u hr hw hq =>
    refine congrArg _ ((completeWhen_of_ripe hr (by rw [hw])).trans ?_)
    rw [State.completeFlight, hw]
    dsimp only
    rw [State.completeHitrd, hq]
    rfl
  | beam n f j hr hw hp =>
    have hid := id_of_ripe hr
    have hf : s.flight? f.id = some f := by rw [hid, hr.found]
    refine congrArg _ ((completeWhen_of_ripe hr (by rw [hw])).trans ?_)
    rw [State.completeFlight, hw]
    dsimp only
    rw [advanceBeam_of_done hp, endBeam_of_done hf hp]
  | fragment n f j x xs q u hr hw hp hq hpush =>
    change execFragmentPush n s = _
    rw [execFragmentPush]
    refine congrArg _ ?_
    rw [hr.found]
    dsimp only
    rw [hw]
    dsimp only
    rw [if_pos hr.enabled, advanceBeam_one hp hq hpush]
  | grant k f j hfirst hone =>
    change execPassGrant k s = _
    rw [execPassGrant]
    refine congrArg _ ?_
    rw [nextGrant_of_first hfirst]
    refine updFlight_congr fun x hx hid => ?_
    obtain ⟨-, -, -, hw, -, -, -⟩ := hfirst
    rw [hone x hx hid, hw]
  | service k n f hq hr hone =>
    change execAtomicServiceRequest k s = _
    rw [execAtomicServiceRequest]
    refine congrArg _ ?_
    rw [hq]
    dsimp only
    rw [hr.found]
    dsimp only
    rw [hr.enabled, Bool.not_true, if_neg Bool.false_ne_true, if_neg ?_]
    rw [List.any_eq_true]
    rintro ⟨y, hy, hyk⟩
    rw [Bool.and_eq_true, beq_iff_eq, bne_iff_ne] at hyk
    exact hyk.2 (hone y hy hyk.1)
  | serviceGone k n hq hn =>
    change execAtomicServiceRequest k s = _
    rw [execAtomicServiceRequest]
    refine congrArg _ ?_
    rw [hq]
    dsimp only
    rw [hn]

end

end Sys2Proof.Proofs.WorkEvents

/-!
PROOFS. Events of the die (05_control.md R109, 07_lanes.md R158, 09_memory.md R165, 11_ordering.md R239, 15_cube.md R299,
21_reliability.md R361–R369): lines, tables, merges and the vote of replicas.
-/

namespace Sys2Proof.Proofs.DieEvents

open Sys2Proof Sys2Proof.Machine Sys2Proof.Claims Sys2Proof.Laws Sys2Proof.Proofs.TrapEntries Sys2Proof.Proofs.Waking

section
variable {s u : State}

/-! ### Lines -/

theorem any_line_iff {s : State} {line : Nat} : (s.pins.any (·.1 == line) || s.monitors.any (fun m => m.pa / 64 == line)) = true ↔
    (∃ p ∈ s.pins, p.1 = line) ∨ ∃ m ∈ s.monitors, m.pa / 64 = line := by
  simp only [Bool.or_eq_true, List.any_eq_true, beq_iff_eq]

theorem wakeWhere_of_none {p : Monitor → Bool} (h : ∀ m ∈ s.monitors, p m = false) : s.wakeWhere p = s := by
  rw [State.wakeWhere]
  rw [(List.filter_eq_nil_iff (p := p)).2 fun m hm => by rw [h m hm]; exact Bool.false_ne_true,
    List.filter_eq_self.2 fun m hm => by rw [h m hm]; rfl]
  rfl

theorem rereadLine_of_none {line : Nat} (h : ∀ m ∈ s.monitors, m.pa / 64 = line → m.holds s.mem = false) : s.rereadLine line = s := by
  refine wakeWhere_of_none fun m hm => ?_
  by_cases hl : m.pa / 64 = line
  · rw [h m hm hl, Bool.and_false, Bool.false_and]
  · rw [beq_eq_false_iff_ne.2 hl, Bool.false_and, Bool.false_and]

/-! ### Groups that merge -/

theorem regangReady_of_standing {h : Hoist} (hne : h.standing ≠ [])
    (hw : ∀ g ∈ h.regs.groups, h.groupSlices g.id ≠ [] → g.wait = .regang) : h.regangReady = true := by
  rw [Hoist.regangReady]
  rw [Bool.and_eq_true, bne_iff_ne, List.all_eq_true]
  refine ⟨fun he => hne ?_, fun g hg => ?_⟩
  · rw [Hoist.standing, he, List.map_nil]
  · obtain ⟨hmem, hs⟩ := List.mem_filter.1 hg
    exact beq_iff_eq.2 (hw g hmem (bne_iff_ne.1 hs))

/-- The least of addresses that are all the same is that address. -/
theorem foldl_least {α : Type} (f : α → VAddr) {v : VAddr} (xs : List α) (h : ∀ x ∈ xs, f x = v) :
    xs.foldl (fun (a : VAddr) g => if (f g).toNat < a.toNat then f g else a) v = v := by
  induction xs with
  | nil => rfl
  | cons x xs ih =>
    rw [List.foldl_cons, h x List.mem_cons_self, ite_self]
    exact ih fun y hy => h y (List.mem_cons_of_mem _ hy)

theorem least_of_same {gs : List (Nat × VAddr)} {v : VAddr} (hne : gs ≠ []) (h : ∀ x ∈ gs, x.2 = v) :
    gs.foldl (fun (a : VAddr) g => if g.2.toNat < a.toNat then g.2 else a) ((gs.head?.map (·.2)).getD 0) = v := by
  cases gs with
  | nil => exact absurd rfl hne
  | cons x xs =>
    rw [List.head?_cons, Option.map_some, Option.getD_some, h x List.mem_cons_self]
    exact foldl_least Prod.snd _ h

theorem regangMerge_of_same {h : Hoist} {src : Nat} (hs : s.hoist? src = some h) (hne : h.standing ≠ [])
    (hw : ∀ g ∈ h.regs.groups, h.groupSlices g.id ≠ [] → g.wait = .regang)
    (hsame : ∀ x ∈ h.standing, ∀ y ∈ h.standing, x.2 = y.2) :
    execRegangMerge src s = .next (s.mergeGroups h (h.standing.map (·.1)) h.reganged) := by
  obtain ⟨x, hx⟩ := List.exists_mem_of_ne_nil _ hne
  have hall (y) (hy : y ∈ h.standing) : y.2 = x.2 := hsame y hy x hx
  rw [execRegangMerge, hs]
  refine congrArg _ ?_
  dsimp only
  rw [regangReady_of_standing hne hw, Bool.not_true, if_neg Bool.false_ne_true, least_of_same hne hall,
    List.filter_eq_self.2 fun y hy => beq_iff_eq.2 (hall y hy), List.length_map, if_pos rfl]

/-! ### The vote of replicas -/

theorem late_of_late {x : Hoist} (h : Late s x) : s.late x = true := by
  obtain ⟨-, t, ht, hle⟩ := h
  rw [State.late, ht]
  exact decide_eq_true hle

theorem replicasAll_iff {h : Hoist} {p : Hoist → Bool} : s.replicasAll h p = true ↔
    (s.replicaHoists h).length + s.lostReplicas (s.blockOf h) = (s.blockOf h).replicas ∧ ∀ x ∈ s.replicaHoists h, p x = true := by
  rw [State.replicasAll]
  simp only [Bool.and_eq_true, beq_iff_eq, List.all_eq_true]

theorem awaited_of_offered {h : Hoist} (ho : h.standingOffer = none) (hr : (s.blockOf h).replicated = true)
    (hx : ∃ x ∈ s.replicaHoists h, x.standingOffer.isSome = true) : s.awaited h = true := by
  rw [State.awaited, ho, hr, List.any_eq_true.2 hx]
  rfl

/-- Both events that take a vote run it over the replicas. -/
theorem vote_of_due {i : Instr} {src : Nat} {h : Hoist} {ms : List Hoist} (hd : VoteDue s i src h ms) :
    Answers i s (s.vote ms) := by
  obtain ⟨hs, hms, hn, ⟨rfl, hall⟩ | ⟨rfl, hnone, hfrom, hrep, hsome, hall⟩⟩ := hd
  · change execReleaseVote src s = _
    rw [execReleaseVote, hs]
    dsimp only
    rw [if_pos (replicasAll_iff.2 ⟨hms ▸ hn, hms ▸ hall⟩), hms]
  · change execLateArrival src s = _
    rw [execLateArrival, hs]
    dsimp only
    rw [awaited_of_offered hnone hrep (hms ▸ hsome), Bool.not_true, if_neg Bool.false_ne_true,
      if_neg (by rw [Option.isNone_iff_eq_none]; exact Option.isSome_iff_ne_none.1 hfrom),
      if_pos (replicasAll_iff.2 ⟨hms ▸ hn, fun x hx => ?_⟩), hms]
    rw [Bool.or_eq_true]
    exact (hall x (hms ▸ hx)).imp id late_of_late

/-- Whether a replica's offer agrees with `o`. -/
def agreesWith (o : Offer) (y : Hoist) : Bool :=
  match y.standingOffer with | some p => o.agrees p | none => false

theorem agreeing_of_offer {c : Hoist} {o : Offer} (hc : c.standingOffer = some o) (ms : List Hoist) :
    agreeing ms c = ms.filter (agreesWith o) := by
  rw [agreeing, hc]
  rfl

theorem agreesWith_iff {o : Offer} {y : Hoist} :
    agreesWith o y = true ↔ ∃ p, y.standingOffer = some p ∧ o.word = p.word ∧ o.ssig = p.ssig := by
  unfold agreesWith
  cases hy : y.standingOffer with
  | none => exact ⟨fun h => absurd h Bool.false_ne_true, fun ⟨_, h, _⟩ => absurd h nofun⟩
  | some p =>
    dsimp only [Offer.agrees]
    rw [Bool.and_eq_true, beq_iff_eq, beq_iff_eq]
    exact ⟨fun h => ⟨p, rfl, h⟩, fun ⟨_, hp, h⟩ => Option.some.inj hp ▸ h⟩

/-- A replica that offers something else than `o` agrees with none that offers `o`. -/
theorem agreeing_of_other {c x : Hoist} {o : Offer} {ms : List Hoist} (hc : agreesWith o c = true)
    (hx : ∀ q, x.standingOffer = some q → q.word ≠ o.word ∨ q.ssig ≠ o.ssig) : c ∉ agreeing ms x := by
  obtain ⟨p, hp, hw, hs⟩ := agreesWith_iff.1 hc
  cases hq : x.standingOffer with
  | none =>
    rw [agreeing, hq]
    exact List.not_mem_nil
  | some q =>
    rw [agreeing_of_offer hq, List.mem_filter, agreesWith_iff, hp]
    rintro ⟨-, p', hp', hw', hs'⟩
    cases hp'
    exact (hx q hq).elim (· (hw'.trans hw.symm)) (· (hs'.trans hs.symm))

theorem agreeing_sublist (ms : List Hoist) (x : Hoist) : (agreeing ms x).Sublist ms := by
  unfold agreeing
  split
  · exact List.filter_sublist
  · exact List.nil_sublist _

theorem majority_cons_of_two {c : Hoist} {ms : List Hoist} (h : 2 ≤ (agreeing (c :: ms) c).length) :
    majority (c :: ms) = agreeing (c :: ms) c := by
  rw [majority, List.find?_cons_of_pos (p := fun h => decide (2 ≤ (agreeing (c :: ms) h).length)) (decide_eq_true h)]

/-! ### All agree -/

theorem majority_of_all {c : Hoist} {o : Offer} {rest : List Hoist} (hne : rest ≠ []) (hc : c.standingOffer = some o)
    (hall : ∀ x ∈ c :: rest, agreesWith o x = true) : majority (c :: rest) = c :: rest := by
  have hself : agreeing (c :: rest) c = c :: rest := by rw [agreeing_of_offer hc, List.filter_eq_self.2 hall]
  rw [majority_cons_of_two, hself]
  rw [hself, List.length_cons]
  exact Nat.succ_le_succ (List.length_pos_iff.2 hne)

theorem vote_of_majority {c : Hoist} {o : Offer} {ms ws : List Hoist} (hm : majority ms = c :: ws) (hc : c.standingOffer = some o)
    (hw : s.commitWaits c = false) : s.vote ms = s.commitVote ms (c :: ws) c o := by
  unfold State.vote
  rw [hm]
  dsimp only
  rw [hc]
  dsimp only
  rw [hw, if_neg Bool.false_ne_true]

theorem commitVote_of_all (ms : List Hoist) (c : Hoist) (o : Offer) : s.commitVote ms ms c o =
    ms.foldl (fun s x => s.updHoist x.src fun h => h.resume o (x.src == c.src)) (s.commitBuffer c) := by
  rw [State.commitVote]
  rw [List.filter_eq_nil_iff.2 fun x hx => ?_, List.foldl_nil]
  have hany : (ms.any fun y => y.src == x.src) = true := List.any_eq_true.2 ⟨x, hx, beq_self_eq_true _⟩
  rw [hany, Bool.not_true, Bool.and_false]
  exact Bool.false_ne_true

/-! ### A minority of three -/

/-- The three orders in which two replicas that agree stand with one that does not. -/
theorem majority_of_two {ms : List Hoist} {c d x : Hoist} {o : Offer} (hms : ms = [c, d, x] ∨ ms = [c, x, d] ∨ ms = [x, c, d])
    (hc : c.standingOffer = some o) (hd : agreesWith o d = true)
    (hx : ∀ q, x.standingOffer = some q → q.word ≠ o.word ∨ q.ssig ≠ o.ssig) : majority ms = [c, d] := by
  have hcc : agreesWith o c = true := agreesWith_iff.2 ⟨o, hc, rfl, rfl⟩
  have hxx : agreesWith o x = false := Bool.eq_false_iff.2 fun h => by
    obtain ⟨q, hq, hw, hs⟩ := agreesWith_iff.1 h
    exact (hx q hq).elim (· hw.symm) (· hs.symm)
  have hagree : agreeing ms c = [c, d] := by
    rw [agreeing_of_offer hc]
    rcases hms with rfl | rfl | rfl <;> simp only [List.filter_cons, hcc, hd, hxx, List.filter_nil] <;> rfl
  rcases hms with rfl | rfl | rfl
  · rw [majority_cons_of_two (by rw [hagree]; exact Nat.le_refl 2), hagree]
  · rw [majority_cons_of_two (by rw [hagree]; exact Nat.le_refl 2), hagree]
  · have hlone : (agreeing [x, c, d] x).length < 2 := by
      have hsub : (agreeing [x, c, d] x).Sublist [x] := by
        cases hq : x.standingOffer with
        | none =>
          rw [agreeing, hq]
          exact List.nil_sublist _
        | some q =>
          have hnot (y) (hy : agreesWith o y = true) (hm : y ∈ [x, c, d]) : agreesWith q y = false := Bool.eq_false_iff.2 fun h =>
            agreeing_of_other hy hx (ms := [x, c, d]) (by rw [agreeing_of_offer hq]; exact List.mem_filter.2 ⟨hm, h⟩)
          rw [agreeing_of_offer hq, List.filter_cons, List.filter_cons, List.filter_cons, List.filter_nil, hnot c hcc (by simp),
            hnot d hd (by simp), if_neg Bool.false_ne_true, if_neg Bool.false_ne_true]
          split
          · exact List.Sublist.refl _
          · exact List.nil_sublist _
      exact Nat.lt_succ_of_le hsub.length_le
    rw [majority, List.find?_cons_of_neg (by rw [decide_eq_true_eq]; omega),
      List.find?_cons_of_pos (by rw [hagree]; rfl)]
    exact hagree

theorem commitVote_of_two {ms : List Hoist} {c d x : Hoist} {o : Offer} (hms : ms = [c, d, x] ∨ ms = [c, x, d] ∨ ms = [x, c, d])
    (hc : x.src ≠ c.src) (hd : x.src ≠ d.src) (hr : x.retired = false) (hg : x.gone = false) :
    s.commitVote ms [c, d] c o = ((s.commitBuffer c |>.updHoist c.src fun h => h.resume o true).updHoist d.src fun h =>
      h.resume o (d.src == c.src)).replaceReplica c x o := by
  have hrest : (ms.filter fun y => !y.retired && !y.gone && !([c, d].any (·.src == y.src))) = [x] := by
    have hcout : (!c.retired && !c.gone && !([c, d].any (·.src == c.src))) = false := by simp
    have hdout : (!d.retired && !d.gone && !([c, d].any (·.src == d.src))) = false := by simp
    have hxin : (!x.retired && !x.gone && !([c, d].any (·.src == x.src))) = true := by simp [hr, hg, Ne.symm hc, Ne.symm hd]
    rcases hms with rfl | rfl | rfl <;> simp only [List.filter_cons, hcout, hdout, hxin, List.filter_nil] <;> rfl
  rw [State.commitVote, hrest]
  dsimp only [List.foldl_cons, List.foldl_nil]
  rw [beq_self_eq_true]

/-! ### No two agree -/

theorem majority_of_none {ms : List Hoist} (hno : NoTwoAgree ms) : majority ms = [] := by
  rw [majority, List.find?_eq_none.2]
  intro x _ hx
  have hpair := hno.sublist (agreeing_sublist ms x)
  have hmem (y) (hy : y ∈ agreeing ms x) : ∃ o, x.standingOffer = some o ∧ agreesWith o y = true := by
    cases ho : x.standingOffer with
    | none =>
      rw [agreeing, ho] at hy
      exact absurd hy List.not_mem_nil
    | some o =>
      rw [agreeing_of_offer ho] at hy
      exact ⟨o, rfl, (List.mem_filter.1 hy).2⟩
  rw [decide_eq_true_eq] at hx
  match hl : agreeing ms x, hpair, hmem, hx with
  | y :: z :: _, hpair, hmem, _ =>
    obtain ⟨o, ho, hy⟩ := hmem y List.mem_cons_self
    obtain ⟨o', ho', hz⟩ := hmem z (List.mem_cons_of_mem _ List.mem_cons_self)
    cases ho.symm.trans ho'
    obtain ⟨p, hp, hpw, hps⟩ := agreesWith_iff.1 hy
    obtain ⟨q, hq, hqw, hqs⟩ := agreesWith_iff.1 hz
    exact ((List.pairwise_cons.1 hpair).1 z List.mem_cons_self p q hp hq).elim (· (hpw.symm.trans hqw)) (· (hps.symm.trans hqs))

/-- The words of the standing offers are all the same exactly when no two replicas that have offered differ. -/
theorem words_all_iff {ms : List Hoist} (hall : ∀ x ∈ ms, x.standingOffer.isSome = true) :
    (((ms.filterMap Hoist.standingOffer).map (·.word)).all fun w =>
      some w == ((ms.filterMap Hoist.standingOffer).map (·.word)).head?) = true ↔
    ∀ x ∈ ms, ∀ y ∈ ms, x.standingOffer.map (·.word) = y.standingOffer.map (·.word) := by
  cases ms with
  | nil => exact ⟨fun _ x hx => absurd hx List.not_mem_nil, fun _ => rfl⟩
  | cons c rest =>
    obtain ⟨o, ho⟩ := Option.isSome_iff_exists.1 (hall c List.mem_cons_self)
    rw [List.filterMap_cons_some ho, List.map_cons, List.head?_cons, List.all_eq_true, ← List.map_cons (f := fun p : Offer => p.word),
      ← List.filterMap_cons_some ho]
    constructor
    · intro h
      have hto (x) (hx : x ∈ c :: rest) : x.standingOffer.map (·.word) = some o.word := by
        obtain ⟨p, hp⟩ := Option.isSome_iff_exists.1 (hall x hx)
        rw [hp, Option.map_some]
        exact beq_iff_eq.1 (h p.word (List.mem_map.2 ⟨p, List.mem_filterMap.2 ⟨x, hx, hp⟩, rfl⟩))
      exact fun x hx y hy => (hto x hx).trans (hto y hy).symm
    · intro h w hw
      obtain ⟨p, hp, rfl⟩ := List.mem_map.1 hw
      obtain ⟨x, hx, hxp⟩ := List.mem_filterMap.1 hp
      have := h x hx c List.mem_cons_self
      rw [hxp, ho] at this
      exact beq_iff_eq.2 this

theorem mismatchDetail_of_mismatch {n d : Nat} {ms : List Hoist} (h : Mismatch n ms d) : mismatchDetail n ms = d := by
  have hany : ms.any (fun h => h.standingOffer.isNone) = true ↔ ¬ ∀ x ∈ ms, x.standingOffer.isSome = true := by
    simp only [List.any_eq_true, Option.isNone_iff_eq_none, Option.isSome_iff_ne_none, Classical.not_forall, Classical.not_not,
      exists_prop]
  unfold mismatchDetail
  dsimp only [Mismatch] at h
  rcases h with ⟨hall, rfl⟩ | ⟨⟨hn, hall⟩, hsame, rfl⟩ | ⟨⟨hn, hall⟩, hsame, rfl⟩
  · exact if_pos ((Classical.not_and_iff_not_or_not.1 hall).imp Nat.lt_of_not_le hany.2)
  · rw [if_neg (not_or.2 ⟨Nat.not_lt.2 hn, fun hc => hany.1 hc hall⟩)]
    exact if_neg fun hc => hsame ((words_all_iff hall).1 hc)
  · rw [if_neg (not_or.2 ⟨Nat.not_lt.2 hn, fun hc => hany.1 hc hall⟩)]
    exact if_pos ((words_all_iff hall).2 hsame)

theorem vote_of_disagreed {m : Hoist} {rest : List Hoist} {d : Nat} {w : VAddr} (hno : NoTwoAgree (m :: rest))
    (hd : Mismatch (s.blockOf m).replicas (m :: rest) d) (hw : firstOffered (m :: rest) = some w)
    (hin : ∀ x ∈ m :: rest, x.retired = false ∧ x.gone = false) : s.vote (m :: rest) =
      (m :: rest).foldl (fun s x => s.rollBack d x) (s.logEvent 4 m.src (some (s.blockOf m).ctx) d (natLe 16 w.toNat)) := by
  obtain ⟨o, ho, rfl⟩ := Option.map_eq_some_iff.1 hw
  unfold State.vote
  rw [majority_of_none hno]
  dsimp only
  rw [mismatchDetail_of_mismatch hd, State.mismatchRecord]
  rw [mismatchDetail_of_mismatch hd, ho, List.filter_eq_self.2 fun x hx => ?_]
  obtain ⟨hr, hg⟩ := hin x hx
  rw [hr, hg]
  rfl

/-! ### The copy that a minority becomes -/

/-- The hoist that a minority becomes: the committer's registers and what its reads have forwarded. -/
def copied (c : Hoist) (o : Offer) (h : Hoist) : Hoist :=
  ({ h with regs := c.regs, flaws := c.flaws, holds := c.holds, holder := c.holder, forwarded := c.forwarded, rmis := none } :
    Hoist).resume o false

theorem replaced_of_hoist {c x h : Hoist} (o : Offer) (hx : (s.stopHoist x.src).hoist? x.src = some h) :
    ∃ k, (s.replaceReplica c x o).hoist? x.src = some k ∧ k.offer = some { o with vote := some false } ∧ k.wbuf = [] ∧
      k.rmis = none ∧
      k.regs.v = c.regs.v ∧ k.regs.s = c.regs.s ∧ k.regs.p = c.regs.p ∧ k.regs.a = c.regs.a ∧ k.regs.exec = c.regs.exec ∧
      k.regs.dead = c.regs.dead ∧ k.regs.fpx = c.regs.fpx ∧ k.regs.depth = c.regs.depth ∧
      k.regs.slices.map shapeOf = c.regs.slices.map shapeOf := by
  rw [State.replaceReplica]
  have hcopy : ((s.stopHoist x.src).updHoist x.src (copied c o)).hoist? x.src = some (copied c o h) := by
    rw [hoist?_updHoist (by exact fun _ => rfl), hx, Option.map_some]
  obtain ⟨k, hk, f, -, rfl⟩ := wakes_logEvent ((s.stopHoist x.src).updHoist x.src (copied c o)) 5 x.src _ _ _ x.src _ hcopy
  exact ⟨_, hk, rfl, rfl, rfl, rfl, rfl, rfl, rfl, rfl, rfl, rfl, rfl, rfl⟩

/-- Settles O47: each event's guard holds by the premise, the vote by the majority of the offers that stand. -/
theorem dieEvents : Obligations.DieEvents := by
  refine ⟨fun i s t hev => ?_, fun s c x h o hx => replaced_of_hoist o hx⟩
  cases hev with
  | migrate line slice hp hm hh hs hne =>
    change execLineMigrate line slice s = _
    have hno := Bool.eq_false_iff.2 fun h => (any_line_iff.1 h).elim (fun ⟨p, h, e⟩ => hp p h e) fun ⟨m, h, e⟩ => hm m h e
    rw [execLineMigrate, hno, hh, Bool.not_true, Bool.or_false, Bool.false_or, if_neg (by rw [decide_eq_true_eq]; omega)]
    dsimp only
    rw [if_neg hne]
  | migrateHome line hp hm hh hs =>
    change execLineMigrate line _ s = _
    have hno := Bool.eq_false_iff.2 fun h => (any_line_iff.1 h).elim (fun ⟨p, h, e⟩ => hp p h e) fun ⟨m, h, e⟩ => hm m h e
    rw [execLineMigrate, hno, hh, Bool.not_true, Bool.or_false, Bool.false_or, if_neg (by rw [decide_eq_true_eq]; omega)]
    dsimp only
    rw [if_pos rfl]
  | migrateNot line slice h =>
    change execLineMigrate line slice s = _
    rw [execLineMigrate, any_line_iff.2 h, Bool.true_or, Bool.true_or, if_pos rfl]
  | reread i line hi hm =>
    rcases hi with rfl | rfl
    · exact congrArg _ (rereadLine_of_none hm)
    · exact congrArg _ (rereadLine_of_none hm)
  | reload n b t hb ht hl =>
    change execCodebookReload n s = _
    rw [execCodebookReload, State.reloadTable, hb]
    dsimp only
    rw [ht, hl]
    rfl
  | reloaded n b hb h =>
    change execCodebookReload n s = _
    rw [execCodebookReload, State.reloadTable, hb]
    dsimp only
    rcases h with h | h
    · rw [h]
    · rw [h]
      cases b.table <;> rfl
  | regang src h hs hne hw hsame => exact regangMerge_of_same hs hne hw hsame
  | regroup src h g q hs hr hc =>
    change execVregrpComplete src s = _
    rw [execVregrpComplete, hs]
    dsimp only
    have hready : s.regroupReady h = true := by
      rw [State.regroupReady, hr]
      exact hc
    rw [hr, hready]
    rfl
  | lost src h hs hg =>
    change execHoistLost src s = _
    rw [execHoistLost, hs]
    dsimp only
    rw [hg, if_neg Bool.false_ne_true, State.loseHoist, hs]
    rfl
  | agreed src h c o rest hs hms hne hn hc hall hw =>
    have hagree (x) (hx : x ∈ c :: rest) : agreesWith o x = true := by
      obtain ⟨y, hy, hword, hsig⟩ := hall x hx
      exact agreesWith_iff.2 ⟨y, hy, hword.symm, hsig.symm⟩
    have hsome (x) (hx : x ∈ c :: rest) : x.standingOffer.isSome = true := by
      obtain ⟨y, hy, -, -⟩ := hall x hx
      rw [hy, Option.isSome_some]
    have := vote_of_due (i := .releaseVote src) ⟨hs, hms, hn, .inl ⟨rfl, hsome⟩⟩
    rwa [vote_of_majority (majority_of_all hne hc hagree) hc hw, commitVote_of_all] at this
  | minority i src h ms c d x o p hd hms hc hdo hword hsig hx hxc hxd hr hg hw =>
    have hm := majority_of_two hms hc (agreesWith_iff.2 ⟨p, hdo, hword.symm, hsig.symm⟩) hx
    rw [← commitVote_of_two hms hxc hxd hr hg, ← vote_of_majority hm hc hw]
    exact vote_of_due hd
  | disagreed i src h m rest d w hd hno hmis hw hin =>
    rw [← vote_of_disagreed hno hmis hw hin]
    exact vote_of_due hd
  | late src h hs ho hr hx hl =>
    change execLateArrival src s = _
    rw [execLateArrival, hs]
    dsimp only
    rw [awaited_of_offered ho hr hx, Bool.not_true, if_neg Bool.false_ne_true, hl, Option.isNone_none, if_pos rfl]

end

end Sys2Proof.Proofs.DieEvents

/-!
PROOFS. Host and power events (17_scheduling.md R304–R310, 21_reliability.md R371, 27_host.md R425–R445).
-/

namespace Sys2Proof.Proofs.HostEvents

open Sys2Proof Sys2Proof.Machine Sys2Proof.Claims Sys2Proof.Laws Sys2Proof.Proofs.StoreFrames

section
variable {s u : State}

/-! ### What a write of the die order leaves -/

/-- A field that neither a wake nor a change of memory and monitors touches stays. -/
theorem field_writePhys {α : Type} {π : State → α} (hw : ∀ s m, π (s.wakeMonitor m) = π s)
    (hm : ∀ (s : State) m p, π { s with mem := m, poison := p } = π s) (hn : ∀ (s : State) m, π { s with monitors := m } = π s)
    (s : State) (pa : Nat) (bs : List Byte) : π (s.writePhys pa bs) = π s := by
  rw [State.writePhys]
  split
  · rfl
  · rw [State.wakeWritten]
    split
    · exact hm ..
    · rw [State.wakeWhere, field_foldl_wakeMonitor hw, hn, hm]

theorem outOfReach_writePhys (a n : Nat) (s : State) (pa : Nat) (bs : List Byte) :
    (s.writePhys pa bs).outOfReach a n = s.outOfReach a n :=
  field_writePhys (π := fun s => s.outOfReach a n)
    (fun s m => by rw [State.wakeMonitor]; split <;> rfl) (fun _ _ _ => rfl) (fun _ _ => rfl) s pa bs

/-! ### The push window -/

theorem push_of_pushTo {slot : Nat} {data : List Byte} {p : QueuePlace} {q : QueueWord} {n : Nat} (h : PushTo s slot data p q)
    (hp : s.queuePush p q [data] .store = .ok (n, u)) :
    s.push slot data = if n = 0 then .full u else .appended (signalled slot u) := by
  obtain ⟨hen, c, hc, hq, hl, hz⟩ := h
  unfold State.push
  rw [hen, if_neg (by decide), hc]
  dsimp only
  rw [hq]
  dsimp only
  rw [if_neg (fun h => h.elim (fun h => h hl) fun ⟨h1, h2⟩ => hz.elim h1 h2), hp]
  cases n with
  | zero => rfl
  | succ n => rfl

theorem push_of_none {slot : Nat} (h : s.host.enable = false ∨ s.ctx? (slot / 16) = none) (data : List Byte) :
    s.push slot data = .unsupported s := by
  unfold State.push
  split
  · rfl
  · next hen => rw [h.resolve_left hen]

/-! ### The command word -/

theorem ctlBad_iff (v : Nat) : ctlBad v = false ↔ ctlGood v := by
  unfold ctlBad ctlGood bitsOf
  simp only [Bool.or_eq_false_iff, beq_eq_false_iff_ne, bne_eq_false_iff_eq, ne_eq, and_assoc] <;> omega

/-- A command that may be given now acts on the state in which it is recorded. -/
theorem command_activate {dpa v : Nat} {n : BitVec 6} (h : Commands s 0 n dpa u) :
    s.command 0 n.toNat v = (u.activate n.toNat none).getD (u.ignoreWrite v 8) := by
  obtain ⟨hen, hbusy, ht, rfl⟩ := h
  rw [State.command, if_neg (by rw [hen]; decide)]
  dsimp only
  rw [if_neg (by rw [hbusy, ht]; exact Bool.false_ne_true)]
  rfl

theorem command_refresh {dpa v : Nat} {n : BitVec 6} (h : Commands s 1 n dpa u) :
    s.command 1 n.toNat v = (u.refresh n.toNat).getD (u.ignoreWrite v 8) := by
  obtain ⟨hen, hbusy, ht, rfl⟩ := h
  rw [State.command, if_neg (by rw [hen]; decide)]
  dsimp only
  rw [if_neg (by rw [hbusy, ht]; exact Bool.false_ne_true)]
  rfl

theorem command_destroy {dpa v : Nat} {n : BitVec 6} (h : Commands s 2 n dpa u) : s.command 2 n.toNat v =
    if (u.ctx? n.toNat).isSome then { u with host := { u.host with busy := some n.toNat } }.destroy n.toNat
    else u.writePhys (u.host.ctxtab.toNat + 8 * n.toNat) (natLe 8 0) := by
  obtain ⟨hen, hbusy, ht, rfl⟩ := h
  rw [State.command, if_neg (by rw [hen]; decide)]
  dsimp only
  rw [if_neg (by rw [hbusy, ht]; exact Bool.false_ne_true)]
  rfl

theorem table_of_commands {cmd dpa : Nat} {n : BitVec 6} (h : Commands s cmd n dpa u) : u.tableEntry n.toNat = some dpa := by
  obtain ⟨-, -, ht, rfl⟩ := h
  exact ht

/-- The context that ACTIVATE makes from a descriptor. -/
def started (d : Die) (n dpa : Nat) (v : Descriptor) : Ctx :=
  { Ctx.none with
    id := n
    dpa := dpa
    prio := v.ctl % 2 ^ 3
    sbmode := v.ctl / 2 ^ 4 % 4
    scopemode := v.ctl / 2 ^ 8 % 2
    lease := v.ctl / 2 ^ 16 % 2 ^ 16
    tvec := v.tvec
    emtab := v.emtab
    coremask := v.coremask &&& BitVec.ofNat 192 (2 ^ d.cores - 1) }

theorem start_eq (d : Die) (n dpa : Nat) (v : Descriptor) : Ctx.start d n dpa v = started d n dpa v := by
  simp only [Ctx.start, started, bitsOf, Die.mask, Nat.reduceAdd, Nat.reduceSub, Nat.reducePow, Nat.pow_zero, Nat.div_one]

theorem activate_of_good {n dpa : Nat} (ht : s.tableEntry n = some dpa) (hn : s.ctx? n = none)
    (hg : ctlGood (s.descriptor dpa).ctl) : s.activate n none = some { s with
      sweep := 0
      gates := s.gates.filter (·.2 != n)
      widths := s.widths.filter (·.ctx != n)
      aside := s.aside.filter (·.block.ctx != n)
      nodes := s.nodes.filter (·.1 != n)
      ctxs := s.ctxs ++ [started s.die n dpa (s.descriptor dpa)] } := by
  rw [State.activate, ht]
  dsimp only
  rw [(ctlBad_iff _).2 hg, hn, ← start_eq]
  rfl

theorem activate_of_active {n dpa : Nat} (ht : s.tableEntry n = some dpa) (hn : (s.ctx? n).isSome = true) (m : Option Mirror) :
    s.activate n m = none := by
  rw [State.activate, ht]
  dsimp only
  rw [hn, Bool.or_true, if_pos rfl]

theorem refresh_of_good {n dpa : Nat} {c : Ctx} {v : Descriptor} (ht : s.tableEntry n = some dpa) (hn : s.ctx? n = some c)
    (hv : v = s.descriptor c.dpa) (hg : ctlGood v.ctl) : s.refresh n = some { (s.updCtx n fun c => { c with
      prio := v.ctl % 2 ^ 3
      sbmode := v.ctl / 2 ^ 4 % 4
      scopemode := v.ctl / 2 ^ 8 % 2
      lease := v.ctl / 2 ^ 16 % 2 ^ 16
      tvec := v.tvec
      emtab := v.emtab }).commitMask n (v.coremask &&& BitVec.ofNat 192 (2 ^ s.die.cores - 1)) with sweep := 0 } := by
  subst hv
  rw [State.refresh, ht, hn]
  dsimp only
  rw [(ctlBad_iff _).2 hg, if_neg Bool.false_ne_true, start_eq]
  rfl

/-! ### Expansion -/

theorem outOfReach_fresh (a n k : Nat) : State.outOfReach { s with fresh := k } a n = s.outOfReach a n := rfl

/-- Field k of an expansion command. -/
def fieldOf (x : List Byte) (k : Nat) : Nat := leNat (Sys2Proof.Machine.segment x k 8)

/-- What an expansion comes to, by the fields of its command. -/
def outcomeOf (s : State) (x : List Byte) : Nat × List Byte × Option Nat :=
  s.expansionOf (fieldOf x 0) (fieldOf x 8) (fieldOf x 16) (fieldOf x 24) (fieldOf x 32) (fieldOf x 40)

/-- The count that an expansion stores, free where it is not known. -/
def counted (s : State) : Option Nat → Nat × State
  | some n => (n, s)
  | none => (s.free.1.toNat, s.free.2)

/-- The state once an expansion has written its destination. -/
def delivered (s : State) (st : Nat) (out : List Byte) (dst bound : Nat) : State :=
  if st = 0 then s.writePhys dst out
  else if s.outOfReach dst bound then s
  else State.writePhys { s with fresh := s.fresh + bound } dst (freeBytes s.fresh bound)

/-- The state once an expansion has written its STATUS and count. -/
def reported (s : State) (st n at_ : Nat) : State :=
  (if s.outOfReach at_ 8 then s else s.writePhys at_ (natLe 4 st ++ natLe 4 n)).raiseMsi 35

/-- An expansion that comes to a STATUS, with bytes and a count. -/
def ended (s : State) (x : List Byte) (r : Nat × List Byte × Option Nat) : State :=
  reported (delivered (counted s r.2.2).2 r.1 r.2.1 (fieldOf x 32) (fieldOf x 40)) r.1 (counted s r.2.2).1 (fieldOf x 48)

theorem expand_eq (s : State) (x : List Byte) : s.expand x = ended s x (outcomeOf s x) := rfl

theorem outOfReach_counted (a n : Nat) (made : Option Nat) : (counted s made).2.outOfReach a n = s.outOfReach a n := by
  cases made <;> rfl

theorem outOfReach_delivered (a n st : Nat) (out : List Byte) (dst bound : Nat) :
    (delivered s st out dst bound).outOfReach a n = s.outOfReach a n := by
  rw [delivered]
  split
  · exact outOfReach_writePhys ..
  · split
    · rfl
    · rw [outOfReach_writePhys, outOfReach_fresh]

theorem reported_of_reach {st n at_ : Nat} (h : s.outOfReach at_ 8 = false) :
    reported s st n at_ = (s.writePhys at_ (natLe 4 st ++ natLe 4 n)).raiseMsi 35 := by
  rw [reported, h, if_neg Bool.false_ne_true]

theorem ended_of_reach {x : List Byte} {r : Nat × List Byte × Option Nat} (hr : s.outOfReach (fieldOf x 48) 8 = false) :
    ended s x r = ((delivered (counted s r.2.2).2 r.1 r.2.1 (fieldOf x 32) (fieldOf x 40)).writePhys (fieldOf x 48)
      (natLe 4 r.1 ++ natLe 4 (counted s r.2.2).1)).raiseMsi 35 := by
  rw [ended, reported_of_reach]
  rw [outOfReach_delivered, outOfReach_counted, hr]

theorem delivered_of_error {st : Nat} {out : List Byte} {dst bound : Nat} (hst : st ≠ 0) (hd : s.outOfReach dst bound = false) :
    delivered s st out dst bound = State.writePhys { s with fresh := s.fresh + bound } dst (freeBytes s.fresh bound) := by
  rw [delivered, if_neg hst, hd, if_neg Bool.false_ne_true]

theorem expand_of_whole {x data : List Byte} (he : outcomeOf s x = (0, data, some data.length))
    (hr : s.outOfReach (fieldOf x 48) 8 = false) : s.expand x =
      ((s.writePhys (fieldOf x 32) data).writePhys (fieldOf x 48) (natLe 4 0 ++ natLe 4 data.length)).raiseMsi 35 := by
  rw [expand_eq, he, ended_of_reach hr]
  rfl

theorem expand_of_count {x : List Byte} {st n : Nat} (he : outcomeOf s x = (st, [], some n)) (hst : st ≠ 0)
    (hd : s.outOfReach (fieldOf x 32) (fieldOf x 40) = false) (hr : s.outOfReach (fieldOf x 48) 8 = false) : s.expand x =
      ((State.writePhys { s with fresh := s.fresh + fieldOf x 40 } (fieldOf x 32) (freeBytes s.fresh (fieldOf x 40))).writePhys
        (fieldOf x 48) (natLe 4 st ++ natLe 4 n)).raiseMsi 35 := by
  rw [expand_eq, he, ended_of_reach hr]
  dsimp only [counted]
  rw [delivered_of_error hst hd]

theorem expand_of_free {x : List Byte} {st : Nat} (he : outcomeOf s x = (st, [], none)) (hst : st ≠ 0)
    (hd : s.outOfReach (fieldOf x 32) (fieldOf x 40) = false) (hr : s.outOfReach (fieldOf x 48) 8 = false) : s.expand x =
      ((State.writePhys { s with fresh := s.fresh + 1 + fieldOf x 40 } (fieldOf x 32)
        (freeBytes (s.fresh + 1) (fieldOf x 40))).writePhys (fieldOf x 48)
          (natLe 4 st ++ natLe 4 (Config.freeWord s.fresh).toNat)).raiseMsi 35 := by
  rw [expand_eq, he, ended_of_reach hr]
  dsimp only [counted]
  rw [delivered_of_error (s := s.free.2) hst hd]
  rfl

/-- Nothing of an expansion's operands is out of reach or poisoned. -/
structure Reaches (s : State) (src n dict m dst bound : Nat) : Prop where
  source : s.outOfReach src n = false
  dictionary : s.outOfReach dict m = false
  target : s.outOfReach dst bound = false
  clean : (n ≠ 0 → s.poisoned src n = false) ∧ (m ≠ 0 → s.poisoned dict m = false)

theorem expansionOf_of_reaches {src n dict m dst bound : Nat} (h : Reaches s src n dict m dst bound) :
    s.expansionOf src n dict m dst bound = match zstdExpand (s.readMem src n) (s.readMem dict m) with
      | .ok data => if bound < data.length then (1, [], none) else (0, data, some data.length)
      | .malformed => (2, [], none)
      | .mismatch made => if bound < made then (1, [], none) else (3, [], some made) := by
  obtain ⟨hs, hd, ht, hn, hm⟩ := h
  have clean (k a : Nat) (hk : k ≠ 0 → s.poisoned a k = false) : (k != 0 && s.poisoned a k) = false := by
    by_cases h0 : k = 0
    · rw [h0]; rfl
    · rw [hk h0, Bool.and_false]
  rw [State.expansionOf, hs, hd, ht, clean n src hn, clean m dict hm]
  exact if_neg Bool.false_ne_true

theorem expansionOf_of_refuses {src n dict m dst bound st : Nat} {made : Option Nat} (ht : s.outOfReach dst bound = false)
    (h : Refuses s src n dict m bound st made) : s.expansionOf src n dict m dst bound = (st, [], made) ∧ st ≠ 0 := by
  cases h with
  | access h =>
    refine ⟨?_, by decide⟩
    rw [State.expansionOf, ht, if_pos]
    simp only [Bool.or_eq_true, Bool.and_eq_true, bne_iff_ne]
    rcases h with h | h | h | h
    · exact .inl (.inl (.inl (.inl h)))
    · exact .inl (.inl (.inl (.inr h)))
    · exact .inl (.inr h)
    · exact .inr h
  | malformed hs hd hn hm hz =>
    refine ⟨?_, by decide⟩
    rw [expansionOf_of_reaches ⟨hs, hd, ht, hn, hm⟩, hz]
  | size data hs hd hn hm hz hb =>
    refine ⟨?_, by decide⟩
    rw [expansionOf_of_reaches ⟨hs, hd, ht, hn, hm⟩, hz]
    exact if_pos hb
  | checksum made hs hd hn hm hz hb =>
    refine ⟨?_, by decide⟩
    rw [expansionOf_of_reaches ⟨hs, hd, ht, hn, hm⟩, hz]
    exact if_neg (Nat.not_lt.2 hb)

/-! ### Registers -/

theorem setHost_of_changed {f : HostRegs → HostRegs} (h : f s.host ≠ s.host) :
    s.setHost f = { s with host := changed (f s.host) } := by
  rw [State.setHost]
  rw [if_neg h]
  rfl

/-- A write of the power cap's register. -/
theorem registerWrite_cap {data : List Byte} (hbar : s.host.barReady = true) (hw : s.windowsOff + 88 ≤ telOff) (hl : data.length = 4)
    (hlo : 150 ≤ leNat data) (hhi : leNat data ≤ 640) : s.registerWrite (telOff + 0x14) data =
      { s with power := { s.power with capW := BitVec.ofNat 32 (leNat data) } } := by
  have hin : ¬ (s.windowsOff ≤ telOff + 0x14 ∧ telOff + 0x14 + 4 ≤ s.windowsOff + 88) := by omega
  unfold State.registerWrite
  dsimp only
  rw [hl, hbar, if_neg (by decide), if_neg hin, if_neg (by decide), if_neg (by decide), if_neg (by decide),
    if_pos ⟨rfl, rfl, hlo, hhi⟩]

/-! ### Power -/

theorem throttleRecord_eq : s.throttleRecord = State.logEvent { s with fresh := s.fresh + 1 } 11
    ((Config.freeWord s.fresh).toNat % 0x8000) none s.power.causes.toNat (natLe 16 s.power.clockMHz) := rfl

theorem channelFails_of_spare {k : Nat} (hd : s.die = .tsuord) (hk : k < 80) (hn : k ∉ s.power.failing) :
    s.channelFails k =
      if 8 ≤ s.power.dropped + s.power.failing.length then
        s.ctxs.foldl (fun s c => s.faultCtx c.id .ninthChannel (0x3300 + k) []) s
      else (((State.logEvent { s with power := { s.power with failing := s.power.failing ++ [k], saving := true } } 7
        (0x3300 + k) none k []).stopAll).unreadable k).foldl (fun s n => s.poisonSector n (0x3300 + k))
          ((State.logEvent { s with power := { s.power with failing := s.power.failing ++ [k], saving := true } } 7
            (0x3300 + k) none k []).stopAll) := by
  have hnot : s.power.failing.contains k = false := Bool.eq_false_iff.2 fun h => hn (List.contains_iff_mem.1 h)
  rw [State.channelFails, hd, hnot, decide_eq_false (Nat.not_le.2 hk), if_neg (by decide)]

/-! ### The obligation -/

/-- Settles O49: each event's guard holds by its premises. -/
theorem hostEvents : Obligations.HostEvents := by
  intro i s t hev
  cases hev with
  | dmwr slot data p q k u hp hq =>
    change execPushDmwr slot data s = _
    rw [execPushDmwr, push_of_pushTo hp hq, if_neg (Nat.succ_ne_zero k)]
    rfl
  | dmwrFull slot data p q u hp hq =>
    change execPushDmwr slot data s = _
    rw [execPushDmwr, push_of_pushTo hp hq, if_pos rfl]
    rfl
  | dmwrNone slot data h =>
    change execPushDmwr slot data s = _
    rw [execPushDmwr, push_of_none h]
    rfl
  | posted slot data p q k u hp hq =>
    change execPushPosted slot data s = _
    rw [execPushPosted, State.pushPosted, push_of_pushTo hp hq, if_neg (Nat.succ_ne_zero k)]
  | postedFull slot data p q u hp hq =>
    change execPushPosted slot data s = _
    rw [execPushPosted, State.pushPosted, push_of_pushTo hp hq, if_pos rfl]
    rfl
  | activate n dpa u v hc hn hv hg =>
    subst hv
    change execActivate n s = _
    rw [execActivate, command_activate hc, activate_of_good (table_of_commands hc) hn hg]
    obtain ⟨-, -, -, rfl⟩ := hc
    rfl
  | activateBad n dpa u hc hn =>
    change execActivate n s = _
    rw [execActivate, command_activate hc, activate_of_active (table_of_commands hc) hn]
    rfl
  | refresh n dpa u c v hc hn hv hg =>
    change execRefresh n s = _
    rw [execRefresh, command_refresh hc, refresh_of_good (table_of_commands hc) hn hv hg]
    obtain ⟨-, -, -, rfl⟩ := hc
    rfl
  | destroy n dpa u c hc hn =>
    change execDestroy n s = _
    rw [execDestroy, command_destroy hc, hn, Option.isSome_some, if_pos rfl]
    rfl
  | destroyNone n dpa u hc hn =>
    change execDestroy n s = _
    rw [execDestroy, command_destroy hc, hn]
    rfl
  | discarded i n hi hen =>
    have hno (cmd v : Nat) : s.command cmd n.toNat v = s := if_pos hen
    rcases hi with rfl | rfl | rfl
    · exact congrArg _ (hno 0 _)
    · exact congrArg _ (hno 1 _)
    · exact congrArg _ (hno 2 _)
  | expansion data posted hen hl hq =>
    change execExpansionCommand data posted s = _
    rw [execExpansionCommand, State.expansion, hen, hl, if_neg (by decide), if_neg (by omega)]
    cases posted <;> rfl
  | expansionFull data hen hl hq =>
    change execExpansionCommand data false s = _
    rw [execExpansionCommand, State.expansion, hen, hl, if_neg (by decide), if_pos hq]
    rfl
  | expanded x rest src n dict m dst bound at_ u data hx hs hd ht hn hm hz hb =>
    obtain ⟨hq, rfl, rfl, rfl, rfl, rfl, rfl, rfl, rfl, hr⟩ := hx
    change execExpansionDone s = _
    rw [execExpansionDone, hq]
    refine congrArg _ (expand_of_whole ((expansionOf_of_reaches ⟨hs, hd, ht, hn, hm⟩).trans ?_) hr)
    change (match zstdExpand (s.readMem _ _) (s.readMem _ _) with | .ok data => _ | .malformed => _ | .mismatch made => _) = _
    rw [hz]
    exact if_neg (Nat.not_lt.2 hb)
  | expandedBad x rest src n dict m dst bound at_ u st hx ht href =>
    obtain ⟨hq, rfl, rfl, rfl, rfl, rfl, rfl, rfl, rfl, hr⟩ := hx
    obtain ⟨he, hst⟩ := expansionOf_of_refuses ht href
    change execExpansionDone s = _
    rw [execExpansionDone, hq]
    exact congrArg _ (expand_of_free he hst ht hr)
  | expandedWrong x rest src n dict m dst bound at_ u st made hx ht href =>
    obtain ⟨hq, rfl, rfl, rfl, rfl, rfl, rfl, rfl, rfl, hr⟩ := hx
    obtain ⟨he, hst⟩ := expansionOf_of_refuses ht href
    change execExpansionDone s = _
    rw [execExpansionDone, hq]
    exact congrArg _ (expand_of_count he hst ht hr)
  | expandedNone hq =>
    change execExpansionDone s = _
    rw [execExpansionDone, hq]
  | enable v hbar hen hv hc =>
    change execEnable v s = _
    rw [execEnable, State.writeEnable, hbar, hen, hv]
    refine congrArg _ ?_
    rw [if_neg (by decide), if_neg (by decide), if_pos rfl]
    dsimp only
    rw [hc, if_neg (by decide), setHost_of_changed fun h => Bool.false_ne_true (by rw [← hen, ← h])]
    rfl
  | enableBad v hbar hen hv hc hne =>
    change execEnable v s = _
    rw [execEnable, State.writeEnable, hbar, hen, hv]
    refine congrArg _ ?_
    rw [if_neg (by decide), if_neg (by decide), if_pos rfl]
    dsimp only
    rw [if_pos hc, setHost_of_changed fun h => hne (congrArg HostRegs.err h).symm]
  | enableAgain v hbar hen =>
    change execEnable v s = _
    rw [execEnable, State.writeEnable, hbar, hen]
    rfl
  | cap data hbar hw hl hlo hhi => exact congrArg _ (registerWrite_cap hbar hw hl hlo hhi)
  | registerNone off data hbar =>
    change execRegisterWrite off data s = _
    rw [execRegisterWrite, State.registerWrite, hbar]
    rfl
  | read pa data hbar hpa hr =>
    change execHostAccess pa false data s = _
    rw [execHostAccess, hbar, hr, if_neg (by decide), if_neg (Nat.not_le.2 hpa)]
    rfl
  | write pa data hbar hpa hr =>
    change execHostAccess pa true data s = _
    rw [execHostAccess, hbar, hr, if_neg (by decide), if_neg (Nat.not_le.2 hpa)]
    rfl
  | readNone pa data hbar hpa hr =>
    change execHostAccess pa false data s = _
    rw [execHostAccess, hbar, hr, if_neg (by decide), if_neg (Nat.not_le.2 hpa)]
    rfl
  | writeNone pa data hbar hpa hr =>
    change execHostAccess pa true data s = _
    rw [execHostAccess, hbar, hr, if_neg (by decide), if_neg (Nat.not_le.2 hpa)]
    rfl
  | configReady hp => exact congrArg _ (if_pos hp)
  | barReady hp => exact congrArg _ (if_pos hp)
  | d3hot hc => exact congrArg _ (if_pos hc)
  | d3hotNot hc => exact congrArg _ (if_neg hc)
  | gateClock k hh hg hk =>
    refine congrArg _ (if_neg ?_)
    simp only [Bool.or_eq_true, List.any_eq_true, Bool.and_eq_true, beq_iff_eq, List.contains_iff_mem, decide_eq_true_eq]
    rintro ((⟨h, hm, hr, he⟩ | h) | h)
    · exact hh h hm hr he
    · exact hg h
    · exact absurd hk (Nat.not_lt.2 h)
  | stepDown causes hc hclock hno =>
    change execClockStepDown causes s = _
    rw [execClockStepDown, if_neg hc, beq_eq_false_iff_ne.2 hclock, hno]
    rfl
  | stepDownFirst causes u hc hclock hu =>
    subst hu
    change execClockStepDown causes s = _
    rw [execClockStepDown, if_neg hc, hclock, beq_self_eq_true]
    rfl
  | stepUp hclock =>
    change execClockStepUp s = _
    rw [execClockStepUp, if_neg (Nat.ne_of_lt hclock)]
    dsimp only
    rw [ite_congr (propext (show min s.die.fullClock (s.power.clockMHz + 100) = s.die.fullClock ↔
      s.die.fullClock ≤ s.power.clockMHz + 100 by omega)) (fun _ => rfl) fun _ => rfl]
  | throttleEnd u ht hclock hsince hu =>
    subst hu
    change execThrottleEnd s = _
    have hover : s.throttleOver = true := by
      rw [State.throttleOver, ht, beq_iff_eq.2 hclock, decide_eq_true hsince, Bool.and_self, Bool.and_self]
    rw [execThrottleEnd, if_pos hover, throttleRecord_eq]
  | ninth k hd hk hn h8 =>
    change execPseudoChannelFailing k s = _
    rw [execPseudoChannelFailing, channelFails_of_spare hd hk hn, if_pos h8]
  | channel k u v hd hk hn h8 hu hv =>
    subst hu hv
    change execPseudoChannelFailing k s = _
    rw [execPseudoChannelFailing, channelFails_of_spare hd hk hn, if_neg (Nat.not_le.2 h8)]
    rfl
  | rebuild k c u hk hb hc hu =>
    subst hc hu
    change execInterleaveRebuild k s = _
    rw [execInterleaveRebuild, State.rebuild, if_neg (by rw [List.contains_iff_mem.2 hk, hb]; exact Bool.false_ne_true)]
    dsimp only [lessChannel, changed, State.signalEnsigns]

end

end Sys2Proof.Proofs.HostEvents

/-!
PROOFS. Link and checkpoint events (25_docking.md R404–R423): the model's steps are those of the bank, the home table and the marker
that the claims write out.
-/

namespace Sys2Proof.Proofs.LinkEvents

open Sys2Proof Sys2Proof.Machine Sys2Proof.Claims Sys2Proof.Laws Sys2Proof.Proofs.StoreFrames Sys2Proof.Proofs.HostEvents

section
variable {s u : State} {n : Nat} {c : Ctx} {m : Mirror}

/-! ### Contexts -/

theorem mirror_of (h : Mirrored s n c m) : (s.ctx? n).bind (·.mirror) = some m := by
  obtain ⟨hc, hm⟩ := h
  rw [hc, Option.bind_some, hm]

theorem updCtx_updCtx {f g : Ctx → Ctx} (hf : ∀ c, (f c).id = c.id) : (s.updCtx n f).updCtx n g = s.updCtx n (g ∘ f) := by
  unfold State.updCtx
  dsimp only
  rw [List.map_map]
  congr 1
  refine List.map_congr_left fun x _ => ?_
  dsimp only [Function.comp]
  by_cases h : x.id = n
  · simp only [if_pos (beq_iff_eq.2 h), if_pos (beq_iff_eq.2 ((hf x).trans h))]
  · simp only [if_neg (mt beq_iff_eq.1 h)]

theorem ctx?_updCtx {f : Ctx → Ctx} (hf : ∀ c, (f c).id = c.id) (hc : s.ctx? n = some c) : (s.updCtx n f).ctx? n = some (f c) := by
  have hid : c.id = n := beq_iff_eq.1 (List.find?_some (p := fun x : Ctx => x.id == n) hc)
  unfold State.ctx? State.updCtx
  dsimp only
  rw [TrapEntries.find?_map_key (key := Ctx.id) fun x => by split <;> simp [hf]]
  unfold State.ctx? at hc
  rw [hc, Option.map_some, if_pos (beq_iff_eq.2 hid)]

/-! ### A generation begins -/

theorem requestGeneration_of_idle (h : Mirrored s n c m) (hp : m.phase = .idle) : s.requestGeneration n = quiescing s n m := by
  rw [State.requestGeneration, mirror_of h]
  dsimp only
  rw [hp, if_neg (by decide)]
  rfl

theorem requestGeneration_of_not_idle (h : ∀ c m, Mirrored s n c m → m.phase ≠ .idle) : s.requestGeneration n = s := by
  unfold State.requestGeneration
  split
  · rfl
  · next m hm =>
    obtain ⟨c, hc, hcm⟩ := Option.bind_eq_some_iff.1 hm
    exact if_pos (bne_iff_ne.2 (h c m ⟨hc, hcm⟩))

/-- A generation begins on the mirror state as it has just become. -/
theorem requestGeneration_updMirror {f : Mirror → Mirror} (h : Mirrored s n c m) (hp : (f m).phase = .idle) :
    (s.updMirror n f).requestGeneration n = quiescing s n (f m) := by
  have hm : Mirrored (s.updMirror n f) n { c with mirror := c.mirror.map f } (f m) := by
    refine ⟨ctx?_updCtx (by exact fun _ => rfl) h.1, ?_⟩
    dsimp only
    rw [h.2, Option.map_some]
  rw [requestGeneration_of_idle hm hp, quiescing, quiescing, State.updMirror, updCtx_updCtx (by exact fun _ => rfl)]
  rfl

/-! ### Leaves and homes -/

theorem reHome_eq (leaf frame home : Nat) : reHome leaf frame home = rehomed leaf frame home := by
  unfold reHome rehomed bitsOf
  omega

theorem cleared_div (leaf : Nat) : (leaf - leaf / 2048 % 2 * 2048) / 65536 = leaf / 65536 := by omega

/-- A leaf whose dirty bit is cleared. -/
theorem clean_eq (leaf : Nat) : leaf - bitsOf leaf 11 11 * 2048 = leaf - leaf / 2 ^ 11 % 2 * 2 ^ 11 := rfl

theorem reHome_clean (leaf home : Nat) :
    reHome (leaf - leaf / 2 ^ 11 % 2 * 2 ^ 11) (bitsOf (leaf - leaf / 2 ^ 11 % 2 * 2 ^ 11) 51 16) home =
      rehomed (leaf - leaf / 2 ^ 11 % 2 * 2 ^ 11) (leaf / 2 ^ 16 % 2 ^ 36) home := by
  have hframe : bitsOf (leaf - leaf / 2 ^ 11 % 2 * 2 ^ 11) 51 16 = leaf / 2 ^ 16 % 2 ^ 36 := congrArg (· % 2 ^ 36) (cleared_div leaf)
  rw [reHome_eq, hframe]

theorem whenClear_of_clear {page : BitVec 56} (h : ∀ x, s.pageEntry c page = some x → s.reachesThrough x = false) (t : Turn)
    (k : State → State) : s.whenClear c page t k = k s := by
  unfold State.whenClear
  split
  · rfl
  · next x hx =>
    have hno := h x hx
    dsimp only
    simp only [hno, Bool.false_eq_true, if_false]

theorem copyFrame_eq (s : State) (src dst : Nat) : s.copyFrame src dst = Claims.copied s src dst := by
  rw [State.copyFrame, Claims.copied]

theorem moveHome_toTsuord {d : Dock} {page : BitVec 56} {t : State} (h : MovedToTsuord s d n page t) : s.moveHome d n page true = t := by
  obtain ⟨i, hi, rfl⟩ := h
  unfold State.moveHome homeAt
  rw [hi]
  dsimp only
  cases hl : State.pageLeaf (Claims.copied s (65536 * (s.homeField d.homeTab i 16 8 % 2 ^ 36))
    (65536 * (s.homeField d.homeTab i 8 8 % 2 ^ 36))) (d.ctx n) page with
  | none => simp only [if_true, copyFrame_eq, State.setHomeState, hl]
  | some x => simp only [if_true, reHome_eq, copyFrame_eq, State.setHomeState, hl]

theorem moveHome_back (s : State) (d : Dock) (n : Nat) (page : BitVec 56) : s.moveHome d n page false = movedBack s d n page := by
  unfold State.moveHome movedBack homeAt
  split
  · next h => rw [h]
  · next i h =>
    rw [h]
    cases hl : s.pageLeaf (d.ctx n) page with
    | none => simp only [Bool.false_eq_true, if_false, State.setHomeState, hl]
    | some x => simp only [Bool.false_eq_true, if_false, reHome_eq, State.setHomeState, hl]

/-! ### A generation is applied -/

theorem bankPages_eq (s : State) (d : Dock) (g : Nat) : s.bankPages d g = (List.range (bankField s d g 8 4)).map fun k =>
    (BitVec.ofNat 56 (leNat (s.raw (pageRecordAt s d g k) 8)), 65536 * leNat (s.raw (pageRecordAt s d g k + 8) 8),
      pageRecordAt s d g k + 64) := rfl

theorem bankWrites_eq (s : State) (d : Dock) (g : Nat) : s.bankWrites d g = (List.range (bankField s d g 12 4)).map fun k =>
    (leNat (s.raw (writeRecordAt s d g k) 8),
      s.raw (writeRecordAt s d g k + 16) (leNat (s.raw (writeRecordAt s d g k + 8) 1))) := rfl

theorem applyLogs_eq (s : State) (d : Dock) (g : Nat) : s.applyLogs d g = performed s d g := by
  rw [State.applyLogs, State.performLog, bankPages_eq, bankWrites_eq, List.foldl_map, List.foldl_map]
  rfl

theorem homesServed_eq (s : State) (d : Dock) (g : Nat) : s.homesServed d g = goHome s d g := by
  rw [State.homesServed, bankPages_eq, List.map_map]
  rfl

theorem applyBank_eq (s : State) (n g : Nat) : s.applyBank n g = appliedTo s n g := by
  rw [State.applyBank]
  simp only [applyLogs_eq, homesServed_eq, moveHome_back]
  rfl

theorem takeBack_of_backAt {t : State} (h : BackAt s n t) : s.takeBack n = t := by
  obtain ⟨u, v, rfl, rfl, rfl⟩ := h
  rfl

/-! ### A generation is written -/

theorem filterMap_if {α β : Type} {p : α → Prop} [DecidablePred p] {f : α → β} {q : β → Bool} (h : ∀ a, p a ↔ q (f a) = true)
    (l : List α) : (l.filterMap fun a => if p a then some (f a) else none) = (l.map f).filter q := by
  induction l with
  | nil => rfl
  | cons a l ih =>
    rw [List.filterMap_cons, List.map_cons, List.filter_cons, ih]
    by_cases hp : p a
    · rw [if_pos hp, if_pos ((h a).1 hp)]
    · rw [if_neg hp, if_neg (mt (h a).2 hp)]

theorem loggedPages_eq (s : State) (c : Ctx) (m : Mirror) : s.loggedPages c m = toLog s c m := by
  refine filterMap_if (f := fun i => (i, BitVec.ofNat 56 (s.homeField m.homeTab i 0 7))) (q := fun x => Logs s c m x.1 x.2)
    (fun i => ?_) _
  dsimp only
  rw [Logs, Bool.and_eq_true, beq_iff_eq]
  refine and_congr_right fun _ => ?_
  cases s.pageLeaf c (BitVec.ofNat 56 (s.homeField m.homeTab i 0 7)) with
  | none => exact Iff.rfl
  | some x => exact Iff.rfl

theorem writePage_eq (s : State) (m : Mirror) (a : Nat) (x : Nat × BitVec 56) : s.writePage m a x = pageLog s m a x := by
  rw [State.writePage, State.pageRecord, pageLog, zeros]

theorem pageLogged_eq (s : State) (c : Ctx) (m : Mirror) (x : Nat × BitVec 56) : s.pageLogged c m x = afterLog s c m x := by
  unfold State.pageLogged afterLog
  cases s.pageLeaf c x.2 with
  | none => simp only [State.setHomeState]
  | some y =>
    obtain ⟨pa, leaf⟩ := y
    simp only [State.setHomeState]
    rw [clean_eq, reHome_clean]

theorem writeBank_of_fits {at_ poff woff : Nat} {frames : List Byte} {writes : List (Nat × List Byte)}
    (hb : BankOf s c m at_ poff woff frames writes) (hfit : woff + 80 * writes.length ≤ m.bankSize) : s.writeBank c m =
      State.updMirror ((toLog s c m).foldl (fun t x => afterLog t c m x)
        ((((toLog s c m).mapIdx fun k x => (k, x)).foldl (fun t x => pageLog t m (at_ + poff + 65600 * x.1) x.2)
          (s.writePhys (at_ + 256) frames)).writePhys (at_ + woff) (writeLog writes) |>.writePhys at_ (bankHeader (m.generation + 1)
            (s.blocks.filter (·.ctx == c.id)).length (toLog s c m).length writes.length poff woff)))
        c.id fun m => { m with phase := .commit } := by
  obtain ⟨rfl, rfl, rfl, rfl, rfl⟩ := hb
  rw [State.writeBank]
  simp only [loggedPages_eq, writePage_eq, pageLogged_eq]
  exact if_neg (Nat.not_lt.2 hfit)

theorem writeBank_of_small {at_ poff woff : Nat} {frames : List Byte} {writes : List (Nat × List Byte)}
    (hb : BankOf s c m at_ poff woff frames writes) (hsmall : m.bankSize < woff + 80 * writes.length) : s.writeBank c m =
      (((s.faultCtx c.id .bankTooSmall (ensignSrc c.firstCore) (natLe 16 (m.generation + 1))).updMirror c.id fun m =>
        { m with phase := .idle, lastCommit := s.time.toNat }).issueAgain c.id).nextRequests c.id := by
  obtain ⟨rfl, rfl, rfl, rfl, rfl⟩ := hb
  rw [State.writeBank]
  simp only [loggedPages_eq]
  exact if_pos hsmall

/-! ### The marker -/

theorem time_writePhys (s : State) (pa : Nat) (bs : List Byte) : (s.writePhys pa bs).time = s.time :=
  field_writePhys (π := State.time) (fun s m => by rw [State.wakeMonitor]; split <;> rfl) (fun _ _ _ => rfl) (fun _ _ => rfl) s pa bs

/-- The marker is written, and CKMARK is sent. -/
def marked (s : State) (c : Ctx) (m : Mirror) : State :=
  sentOn (s.writePhys m.mpa (natLe 4 (m.generation + 1) ++ natLe 1 (128 + (m.generation + 1) % 2) ++ natLe 3 0)) 9
    (natLe 1 c.id ++ natLe 4 (m.generation + 1) ++ natLe 1 ((m.generation + 1) % 2))

/-- The state once a generation is committed at a time: the held host writes are released and the blocks issue. -/
def committed (s : State) (c : Ctx) (m : Mirror) (time : Nat) : State :=
  State.issueAgain (State.releaseCtx ((marked s c m).updCtx c.id fun c => { c with mirror := c.mirror.map fun x => { x with
    phase := .idle, generation := m.generation + 1, lastCommit := time, homeReqs := [], final := false } }) c.id) c.id

theorem time_marked (s : State) (c : Ctx) (m : Mirror) : (marked s c m).time = s.time := time_writePhys ..

theorem commit_eq (s : State) (c : Ctx) (m : Mirror) : s.commit c m =
    if m.final && m.held.all (fun w => decide (w.1 ≤ m.generation + 1)) then
      (committed s c m s.time.toNat).leave c.id (m.generation + 1)
    else ((committed s c m s.time.toNat).nextRequests c.id).signalEnsigns := by
  rw [← time_marked s c m]
  rfl

/-! ### The link -/

theorem linkEntry_up (hu : s.link.up = true) : s.linkEntry.head? = some 2 := by
  rw [State.linkEntry, hu]
  rfl

theorem linkEntry_down (hu : s.link.up = false) (hd : s.die = .tsuord) : s.linkEntry.head? ≠ some 2 := by
  rw [State.linkEntry, hu, hd]
  cases s.cxlMode <;> decide

theorem linkEntry_companion (hd : s.die = .companion) : s.linkEntry = natLe 1 2 ++ natLe 1 8 ++ natLe 2 128 ++ natLe 4 0 := by
  rw [State.linkEntry, hd, Bool.or_comm]
  rfl

theorem noteLink_of_change {old : State} (hd : s.die = .tsuord) (ho : old.die = .tsuord) (hu : s.link.up ≠ old.link.up) :
    s.noteLink old = { s with host := changed s.host } := by
  rw [State.noteLink, if_neg]
  · rfl
  · intro he
    cases hs : s.link.up <;> cases hl : old.link.up
    · exact hu (hs.trans hl.symm)
    · exact linkEntry_down hs hd (by rw [he]; exact linkEntry_up hl)
    · exact linkEntry_down hl ho (by rw [← he]; exact linkEntry_up hs)
    · exact hu (hs.trans hl.symm)

theorem noteLink_companion {old : State} (hd : s.die = .companion) (ho : old.die = .companion) : s.noteLink old = s := by
  rw [State.noteLink, linkEntry_companion hd, linkEntry_companion ho, if_pos rfl]

/-- The state in which the link is lost and what was outstanding on it has failed. -/
theorem unlink_eq (u : State)
    (h : u = { s with link := { s.link with up := false, difference := 0, away := [], returned := [], asked := [] } }) :
    s.unlink = { u with
      flights := s.flights.map fun f => { f with work := Work.lost u f.work }
      monitors := s.monitors.filter fun m => m.foreign.isNone || m.foreign == some 0x3210 } := by
  subst h
  rw [State.unlink]
  congr 1
  refine List.filter_congr fun x _ => ?_
  cases x.foreign with
  | none => rfl
  | some k =>
    unfold State.foreignAgent
    dsimp only
    rw [Bool.false_and, Bool.or_false, Option.isNone_some, Bool.false_or, Option.some_beq_some]

theorem lossOnTsuord_of_unmirrored (h : ∀ c ∈ s.ctxs, c.mirror = none) : s.lossOnTsuord = s := by
  rw [State.lossOnTsuord]
  generalize s.ctxs = cs at h
  induction cs with
  | nil => rfl
  | cons c cs ih =>
    rw [List.foldl_cons, h c List.mem_cons_self]
    exact ih fun c hc => h c (List.mem_cons_of_mem _ hc)

theorem die_raiseMsi (s : State) (v : Nat) : (s.raiseMsi v).die = s.die := by
  rw [State.raiseMsi]
  split
  · rfl
  · split <;> rfl

theorem link_raiseMsi (s : State) (v : Nat) : (s.raiseMsi v).link = s.link := by
  rw [State.raiseMsi]
  split
  · rfl
  · split <;> rfl

/-- The state once the link is up and this die has answered. -/
def greeted (s : State) (peer : BitVec 32) (table : Nat) (mine : List Byte) : State :=
  sentOn (sentOn { s with link := { s.link with up := true, peer := peer, dockTable := table } } 1 mine) 2 (natLe 8 s.time.toNat)

/-- A die's own HELLO: its device ID, and the companion's dock table. -/
def helloOf (d : Die) (table : Nat) : List Byte :=
  natLe 4 d.deviceId.toNat ++ (match d with | .companion => natLe 8 table | .tsuord => [])

theorem hello_of_down {peer : BitVec 32} {table : Nat} (hup : s.link.up = false) :
    execHello peer table s = .next ((greeted s peer table (helloOf s.die table)).noteLink s) := by
  rw [execHello]
  dsimp only
  rw [hup, if_neg Bool.false_ne_true]
  rfl

theorem helloOf_companion {d : Die} (hd : d = .companion) (table : Nat) :
    helloOf d table = natLe 4 d.deviceId.toNat ++ natLe 8 table := by
  subst hd
  rfl

theorem helloOf_tsuord (table : Nat) : helloOf .tsuord table = natLe 4 (Die.deviceId .tsuord).toNat := List.append_nil _

/-- What makes a MIGRATE a BADENTRY (R414). -/
def BadEntry (s : State) (n : Nat) : Prop :=
  s.host.enable = false ∨ 64 ≤ n ∨ (s.dock n).valid = false ∨ (s.dock n).ok = false ∨ (s.mirrorHead (s.dock n).mpa).valid = false ∨
    (s.mirrorHead (s.dock n).mpa).gen ≠ 0 ∨ ctlBad (s.descriptor (s.dock n).dpa).ctl = true

theorem badEntry_iff : (!s.host.enable || decide (64 ≤ n) || !(s.dock n).valid || !(s.dock n).ok ||
    !(s.mirrorHead (s.dock n).mpa).valid || (s.mirrorHead (s.dock n).mpa).gen != 0 ||
      ctlBad (s.descriptor (s.dock n).dpa).ctl) = true ↔ BadEntry s n := by
  simp only [BadEntry, Bool.or_eq_true, Bool.not_eq_true', decide_eq_true_eq, bne_iff_ne, or_assoc]

theorem migrate_of_busy (hen : s.host.enable = true) (ht : (s.tableEntry n).isSome = true) : s.migrate n = (1, s) := by
  unfold State.migrate
  rw [hen, ht]
  rfl

theorem not_busy (h : s.host.enable = false ∨ s.tableEntry n = none) : ¬ (s.host.enable && (s.tableEntry n).isSome) = true := by
  rw [Bool.and_eq_true]
  rintro ⟨hen, ht⟩
  rcases h with h | h
  · exact Bool.false_ne_true (h.symm.trans hen)
  · rw [h] at ht
    exact Bool.false_ne_true ht

theorem migrate_of_bad (h : s.host.enable = false ∨ s.tableEntry n = none) (hb : BadEntry s n) : s.migrate n = (2, s) := by
  unfold State.migrate
  dsimp only
  rw [if_neg (not_busy h), if_pos (badEntry_iff.2 hb)]

theorem migrate_of_good {t : State} (h : s.tableEntry n = none) (hb : ¬ BadEntry s n)
    (ha : (s.writePhys (s.host.ctxtab.toNat + 8 * n) (natLe 8 ((s.dock n).dpa + 1))).activate n
      (some ((s.dock n).mirror s.time.toNat)) = some t) : s.migrate n = (0, t) := by
  unfold State.migrate
  dsimp only
  rw [if_neg (not_busy (.inr h)), if_neg (mt badEntry_iff.1 hb), ha]

theorem execMigrate_eq (hup : s.link.up = true) (hd : s.die = .tsuord) :
    execMigrate n s = .next (sentOn (s.migrate n).2 4 (natLe 1 n ++ natLe 1 (s.migrate n).1)) := by
  rw [execMigrate, hup, hd]
  rfl

/-! ### CKMARK -/

theorem apply_of_applied {g : Nat} (h : g ≤ (s.mirrorHead (s.dock n).mpa).applied) (hret : ∀ x ∈ s.link.returned, x.1 ≠ n) :
    s.apply n g = sentOn s 10 (natLe 1 n ++ natLe 4 g) := by
  have hkeep : (s.link.asked.filter fun x => !(x.1 == n && ([] : List (BitVec 56)).contains x.2)) = s.link.asked :=
    List.filter_eq_self.2 fun x _ => by rw [List.contains_nil, Bool.and_false]; rfl
  have hnone : (s.link.returned.any fun x => x.1 == n && decide (x.2 ≤ g)) = false := List.any_eq_false.2 fun x hx => by
    rw [beq_eq_false_iff_ne.2 (hret x hx), Bool.false_and]
    exact Bool.false_ne_true
  unfold State.apply
  dsimp only
  simp only [decide_eq_true h, if_true, List.foldl_nil, hkeep, State.send, hnone, Bool.false_eq_true, if_false]
  rfl

theorem apply_of_later {g : Nat} (h : (s.mirrorHead (s.dock n).mpa).applied < g)
    (hu : u = (goHome s (s.dock n) g).foldl (fun t p => sentOn t 8 (natLe 1 n ++ natLe 7 p.toNat ++ natLe 1 1)) (appliedTo s n g))
    (hret : ∀ x ∈ u.link.returned, x.1 ≠ n) : s.apply n g = sentOn { u with link := { u.link with asked := u.link.asked.filter fun x =>
      !(x.1 == n && (goHome s (s.dock n) g).contains x.2) } } 10 (natLe 1 n ++ natLe 4 g) := by
  have hnone : (u.link.returned.any fun x => x.1 == n && decide (x.2 ≤ g)) = false := List.any_eq_false.2 fun x hx => by
    rw [beq_eq_false_iff_ne.2 (hret x hx), Bool.false_and]
    exact Bool.false_ne_true
  have hsend : (goHome s (s.dock n) g).foldl (fun t p => t.sendHomedone n p 1) (appliedTo s n g) = u := hu.symm
  unfold State.apply
  dsimp only
  simp only [decide_eq_false (Nat.not_le.2 h), Bool.false_eq_true, if_false, applyBank_eq, homesServed_eq, hsend, State.send, hnone]
  rfl

/-! ### QUIESCE -/

theorem due_of_period (hp : m.phase = .idle) (ht : m.lastCommit + 1200000 * m.period ≤ s.time.toNat) : s.due c m = true := by
  rw [State.due, hp, decide_eq_true ht, Bool.or_true]
  rfl

theorem due_of_last (hp : m.phase = .idle) (hf : m.final = false) (hl : s.mayLeave c m = true) : s.due c m = true := by
  rw [State.due, hp, hl, hf]
  rfl

theorem quiesce_of_due (hm : Mirrored s n c m) (hp : m.phase = .idle) (hdue : s.due c m = true)
    (hw : (s.mayLeave c m && s.parkedWaits n) = false) :
    execQuiesce n s = .next (quiescing s n { m with final := s.mayLeave c m }) := by
  rw [execQuiesce, hm.1]
  dsimp only
  rw [hm.2]
  dsimp only
  rw [hdue, if_pos rfl, hw, if_neg Bool.false_ne_true, requestGeneration_updMirror hm hp]

theorem stopped_of_still (ha : m.asked = []) (hh : ∀ i < m.homes, s.homeField m.homeTab i 24 1 % 4 ≠ 3)
    (hb : ∀ b ∈ s.blocks, b.ctx = c.id → b.residency ≠ .running ∧ s.drained b = true) : s.stopped c m = true := by
  have hno : ((List.range m.homes).any fun i => s.homeField m.homeTab i 24 1 % 4 == 3) = false :=
    List.any_eq_false.2 fun i hi h => hh i (List.mem_range.1 hi) (beq_iff_eq.1 h)
  rw [State.stopped, State.inTransit, ha, hno]
  refine List.all_eq_true.2 fun b hm => ?_
  obtain ⟨hmem, hctx⟩ := List.mem_filter.1 hm
  obtain ⟨hr, hd⟩ := hb b hmem (beq_iff_eq.1 hctx)
  rw [hd, bne_iff_ne.2 hr]
  rfl

theorem quiesce_of_stopped (hm : Mirrored s n c m) (hp : m.phase = .quiesce) (hst : s.stopped c m = true) :
    execQuiesce n s = .next (s.updMirror n fun m => { m with phase := .copy }) := by
  have hdue : s.due c m = false := by
    rw [State.due, hp]
    rfl
  rw [execQuiesce, hm.1]
  dsimp only
  rw [hm.2]
  dsimp only
  rw [hdue, if_neg Bool.false_ne_true, hp, hst]
  rfl

/-! ### COMMIT_MARKER -/

theorem commitMarker_copy (hm : Mirrored s n c m) (hp : m.phase = .copy) (hle : m.generation + 1 ≤ m.applied + 2) :
    execCommitMarker n s = .next (s.writeBank c m) := by
  rw [execCommitMarker, hm.1]
  dsimp only
  rw [hm.2]
  dsimp only
  rw [hp]
  exact congrArg _ (if_pos hle)

theorem commitMarker_commit (hm : Mirrored s n c m) (hp : m.phase = .commit) : execCommitMarker n s = .next (s.commit c m) := by
  rw [execCommitMarker, hm.1]
  dsimp only
  rw [hm.2]
  dsimp only
  rw [hp]

/-! ### The loss of the link -/

theorem lose_of_tsuord (hup : s.link.up = true) (hd : s.die = .tsuord) (hno : ∀ c ∈ s.ctxs, c.mirror = none) {u v : State}
    (hu : u = { s with link := { s.link with up := false, difference := 0, away := [], returned := [], asked := [] } })
    (hv : v = State.raiseMsi { u with
      flights := s.flights.map fun f => { f with work := Work.lost u f.work }
      monitors := s.monitors.filter fun m => m.foreign.isNone || m.foreign == some 0x3210 } 36) :
    s.lose = { v with host := changed v.host } := by
  have hloss : s.unlink.lossOnTsuord = s.unlink := lossOnTsuord_of_unmirrored hno
  rw [State.lose, hup, hd]
  dsimp only
  rw [if_neg (by decide), hloss, unlink_eq u hu, ← hv]
  refine noteLink_of_change ?_ hd ?_
  · rw [hv, die_raiseMsi, hu]
    exact hd
  · rw [hv, link_raiseMsi, hu, hup]
    exact Bool.false_ne_true

/-- Settles O50: each message's step is the claim's, the bank's records, leaves and home table written out. -/
theorem linkEvents : Obligations.LinkEvents := by
  intro i s t hev
  cases hev with
  | hello peer table u hup hd hu =>
    subst hu
    refine (hello_of_down hup).trans (congrArg _ ?_)
    rw [hd, helloOf_tsuord, ← hd]
    exact noteLink_of_change hd hd (by rw [hup]; exact Bool.false_ne_true.symm)
  | helloCompanion peer table hup hd =>
    refine (hello_of_down hup).trans (congrArg _ ?_)
    have hgreet : (greeted s peer table (helloOf s.die table)).die = .companion := hd
    rw [noteLink_companion hgreet hd, helloOf_companion hd]
    rfl
  | timesync value latency hup hd ht =>
    change execTimesync value latency s = _
    rw [execTimesync, hup, hd]
    exact congrArg _ (if_pos ht)
  | timesyncAhead value latency hup hd ht =>
    change execTimesync value latency s = _
    rw [execTimesync, hup, hd]
    exact congrArg _ (if_neg (Nat.not_lt.2 ht))
  | timesyncBehind value latency v hup hd hv ht =>
    subst hv
    change execTimesync value latency s = _
    rw [execTimesync, hup, hd]
    exact congrArg _ (if_pos ht)
  | timesyncBefore value latency v hup hd hv ht =>
    subst hv
    change execTimesync value latency s = _
    rw [execTimesync, hup, hd]
    exact congrArg _ (if_neg (Nat.not_lt.2 ht))
  | migrateBusy n hup hd hen ht =>
    change execMigrate n s = _
    rw [execMigrate_eq hup hd, migrate_of_busy hen ht]
  | migrateBad n hup hd ht hbad =>
    change execMigrate n s = _
    rw [execMigrate_eq hup hd, migrate_of_bad ht hbad]
  | migrate n d u t hup hd hen ht hn hdock hv hok hmv hg hctl hu ha =>
    subst hdock hu
    have hgood : ¬ BadEntry s n := by
      simp only [BadEntry, hen, hv, hok, hmv, hg, hctl, ne_eq, not_true_eq_false, or_false, Bool.true_eq_false, Bool.false_eq_true,
        false_or]
      omega
    change execMigrate n s = _
    rw [execMigrate_eq hup hd, migrate_of_good ht hgood ha]
  | migack n hup hd => exact congrArg _ (if_pos ⟨hup, hd, rfl⟩)
  | migackRefused n k hk => exact congrArg _ (if_neg fun h => hk h.2.2)
  | return_ n c m hup hd hm =>
    change execReturnCtx n s = _
    rw [execReturnCtx, hup, hd, mirror_of hm]
    rfl
  | retdone n g hup hd hlt =>
    change execRetdone n g s = _
    rw [execRetdone, hup, hd, if_neg (by decide), if_neg (Nat.not_le.2 hlt)]
  | retdoneApplied n g t hup hd hle hb =>
    change execRetdone n g s = _
    rw [execRetdone, hup, hd, if_neg (by decide), if_pos hle, takeBack_of_backAt hb]
  | homereq n page c m hup hd hm hst hp =>
    change execHomereq true n page s = _
    unfold execHomereq
    rw [if_neg (by rw [hup]; decide), hd]
    dsimp only
    unfold State.companionAsks
    rw [mirror_of hm]
    dsimp only
    rw [if_neg (Classical.not_not.2 hst), if_pos hp]
    rfl
  | homereqLater n page c m hup hd hm hst hp =>
    change execHomereq true n page s = _
    unfold execHomereq
    rw [if_neg (by rw [hup]; decide), hd]
    dsimp only
    unfold State.companionAsks
    rw [mirror_of hm]
    dsimp only
    rw [if_neg (Classical.not_not.2 hst), if_neg hp]
    rfl
  | homereqElsewhere n page hup hd hst =>
    change execHomereq false n page s = _
    unfold execHomereq
    rw [if_neg (by rw [hup]; decide), hd]
    dsimp only
    unfold State.tsuordAsks
    dsimp only
    rw [if_pos hst]
    rfl
  | homereqServed n page t hup hd hst hclear hmoved =>
    change execHomereq false n page s = _
    unfold execHomereq
    rw [if_neg (by rw [hup]; decide), hd]
    dsimp only
    unfold State.tsuordAsks
    dsimp only
    rw [if_neg (Classical.not_not.2 hst), whenClear_of_clear hclear, moveHome_toTsuord hmoved]
    rfl
  | homedoneMoved n page t hup hd hst hclear hmoved =>
    change execHomedone n page 2 s = _
    rw [execHomedone, hup, hd]
    dsimp only
    rw [if_neg (by decide), if_pos ⟨rfl, hst⟩, whenClear_of_clear hclear, moveHome_toTsuord hmoved]
    rfl
  | homedone n page st hup hd h2 h1 =>
    change execHomedone n page st s = _
    rw [execHomedone, hup, hd]
    dsimp only
    rw [if_neg (by decide), if_neg h2, if_neg h1]
    rfl
  | ckmark n g bank u hup hd hbank hlt hu hret => exact congrArg _ ((if_pos ⟨hup, hd, hbank⟩).trans (apply_of_later hlt hu hret))
  | ckmarkDone n g bank hup hd hbank hret hle => exact congrArg _ ((if_pos ⟨hup, hd, hbank⟩).trans (apply_of_applied hle hret))
  | applied n g hup hd =>
    change execApplied n g s = _
    rw [execApplied, hup, hd, if_neg (by decide)]
    dsimp only
    rw [applyBank_eq]
    rfl
  | reserved code payload hup hc => exact congrArg _ (if_pos ⟨hup, hc⟩)
  | ckptGo n c m hm hp => exact congrArg _ (requestGeneration_of_idle hm hp)
  | ckptNone n h => exact congrArg _ (requestGeneration_of_not_idle h)
  | period n c m hm hp ht =>
    change execCheckpointPeriod n s = _
    rw [execCheckpointPeriod, hm.1]
    dsimp only
    rw [hm.2]
    dsimp only
    rw [decide_eq_true ht, if_pos rfl, requestGeneration_of_idle hm hp]
  | quiesce n c m hm hp hr ht =>
    have hstay : s.mayLeave c m = false := by rw [State.mayLeave, hr, Bool.false_and, Bool.false_and, Bool.false_and, Bool.false_and, Bool.false_and]
    refine (quiesce_of_due hm hp (due_of_period hp ht) (by rw [hstay, Bool.false_and])).trans ?_
    rw [hstay]
  | quiesceLast n c m hm hp hf hl hw =>
    refine (quiesce_of_due hm hp (due_of_last hp hf hl) (by rw [hw, Bool.and_false])).trans ?_
    rw [hl]
  | copy n c m hm hp ha hh hb => exact quiesce_of_stopped hm hp (stopped_of_still ha hh hb)
  | copyWaits n c m hm hp hlt =>
    change execCommitMarker n s = _
    rw [execCommitMarker, hm.1]
    dsimp only
    rw [hm.2]
    dsimp only
    rw [hp]
    exact congrArg _ (if_neg (Nat.not_le.2 hlt))
  | bank n c m at_ poff woff frames writes u v w hm hp hle hb hfit hu hv hw =>
    subst hu hv hw
    exact (commitMarker_copy hm hp hle).trans (congrArg _ (writeBank_of_fits hb hfit))
  | bankSmall n c m at_ poff woff frames writes u hm hp hle hb hsmall hu =>
    subst hu
    exact (commitMarker_copy hm hp hle).trans (congrArg _ (writeBank_of_small hb hsmall))
  | commit n c m u v hm hp hstay hu hv =>
    subst hu hv
    refine (commitMarker_commit hm hp).trans (congrArg _ ?_)
    rw [commit_eq, if_neg]
    · rfl
    · rw [Bool.and_eq_true, List.all_eq_true]
      rintro ⟨hf, hall⟩
      rcases hstay with h | ⟨w, hw, hlt⟩
      · exact Bool.false_ne_true (h.symm.trans hf)
      · exact absurd (of_decide_eq_true (hall w hw)) (Nat.not_le.2 hlt)
  | commitLast n c m u v hm hp hf hall hu hv =>
    subst hu hv
    refine (commitMarker_commit hm hp).trans (congrArg _ ?_)
    rw [commit_eq, if_pos]
    · rfl
    · rw [hf, Bool.true_and, List.all_eq_true]
      exact fun w hw => decide_eq_true (hall w hw)
  | loss i u v hi hup hd hno hu hv =>
    rcases hi with rfl | rfl
    · exact congrArg _ (lose_of_tsuord hup hd hno hu hv)
    · exact congrArg _ (lose_of_tsuord hup hd hno hu hv)
  | lossNone i hi hup =>
    rcases hi with rfl | rfl
    · exact congrArg _ (if_pos (by rw [hup]; rfl))
    · exact congrArg _ (if_pos (by rw [hup]; rfl))

end

end Sys2Proof.Proofs.LinkEvents

/-!
PROOFS. What an Ensign does in a context's memory, and how it admits blocks (17_scheduling.md R306–R330, 01_machine.md R29–R35).
-/

namespace Sys2Proof.Proofs.Admission

open Sys2Proof Sys2Proof.Machine Sys2Proof.Claims Sys2Proof.Laws Sys2Proof.Proofs.HostEvents Sys2Proof.Proofs.TrapFrames

section
variable {s u t : State} {core : Nat} {c : Ctx} {va : VAddr} {n : Nat} {b : List Byte}

/-! ### Reads and writes of a context's memory -/

theorem ctxGet_of_gets {α : Type} (h : Gets s core c va n b u) (k : List Byte → State → Act α) : s.ctxGet core c va n k = k b u := by
  obtain ⟨rs, hr, hp, rfl⟩ := h
  rw [State.ctxGet, hr]
  dsimp only
  rw [hp, if_neg Bool.false_ne_true]

theorem ctxTry_of_gets {α : Type} (h : Gets s core c va n b u) (k : Option (List Byte) → State → Act α) :
    s.ctxTry core c va n k = k (some b) u := by
  rw [State.ctxTry, ctxGet_of_gets h]

theorem ctxPut_of_puts (h : Puts s core c va b t) (k : State → Acted) : s.ctxPut core c va b k = k t := by
  obtain ⟨rs, u, hr, rfl⟩ := h
  rw [State.ctxPut, hr]

theorem gridGet_of_gets {α : Type} {e : Nat} (h : Gets s core c (s.gridVa c e) 256 b u) (k : List Byte → State → Act α) :
    s.gridGet core c e k = k b u := ctxGet_of_gets h k

theorem gridPut_of_puts {e off : Nat} (h : Puts s core c (s.gridVa c e + BitVec.ofNat 72 off) b t) (k : State → Acted) :
    s.gridPut core c e off b k = k t := ctxPut_of_puts h k

theorem argBlock_of_argued {α : Type} {p : Packet} {a : List Byte} (h : Argued s core c p a u) (k : Option (List Byte) → State → Act α) :
    s.argBlock core c p k = k (some a) u := by
  unfold State.argBlock
  rcases h with ⟨h0, rfl, rfl⟩ | ⟨h0, x, v, hx, h⟩
  · rw [if_pos h0, zeros, natLe_zero]
  · rw [if_neg h0, ctxTry_of_gets hx]
    dsimp only
    rcases h with ⟨h8, rfl, rfl⟩ | ⟨h8, ha⟩
    · rw [if_pos h8]
    · rw [if_neg (Nat.not_lt.2 h8), ctxTry_of_gets ha]

theorem onEventAt_of_ok {m : Nat} {i : Instr} {act : Ctx → Acted} (hc : s.ctx? m = some c) (ha : act c = .ok t) :
    s.onEventAt core m i act = t := by
  rw [State.onEventAt, hc]
  dsimp only
  rw [ha]
  rfl

theorem onEvent_of_ok {m : Nat} {i : Instr} {act : Nat → Ctx → Acted} (hc : s.ctx? m = some c) (ha : act c.firstCore c = .ok t) :
    s.onEvent m i act = t := by
  rw [State.onEvent, hc]
  dsimp only
  rw [ha]
  rfl

/-! ### What a read of a context's memory leaves -/

/-- A change of state that leaves which die it is and which grids are ending. -/
def SameDie (s t : State) : Prop := t.die = s.die ∧ t.ends = s.ends

theorem sameDie_refl (s : State) : SameDie s s := ⟨rfl, rfl⟩

theorem sameDie_trans {s t u : State} (a : SameDie s t) (b : SameDie t u) : SameDie s u := ⟨b.1.trans a.1, b.2.trans a.2⟩

theorem sameDie_wakeMonitor (s : State) (m : Monitor) : SameDie s (s.wakeMonitor m) := by
  rw [State.wakeMonitor]
  split <;> exact ⟨rfl, rfl⟩

theorem sameDie_writePhys (s : State) (pa : Nat) (bs : List Byte) : SameDie s (s.writePhys pa bs) :=
  ⟨field_writePhys (fun s m => (sameDie_wakeMonitor s m).1) (fun _ _ _ => rfl) (fun _ _ => rfl) s pa bs,
    field_writePhys (fun s m => (sameDie_wakeMonitor s m).2) (fun _ _ _ => rfl) (fun _ _ => rfl) s pa bs⟩

theorem sameDie_translate (s : State) (core : Nat) (c : Ctx) (va : Nat) : SameDie s (s.translate core c va).2 := by
  rw [State.translate]
  split
  · exact sameDie_refl s
  · split
    · exact sameDie_refl s
    · split
      · exact sameDie_refl s
      · dsimp only
        split
        · exact ⟨rfl, rfl⟩
        · exact sameDie_trans (sameDie_writePhys s _ _) ⟨rfl, rfl⟩

theorem sameDie_askHome {s t : State} {pa : Nat} {use : PageUse} {b : Bool} (h : s.askHome c va pa use = some (b, t)) : SameDie s t := by
  unfold State.askHome at h
  dsimp only at h
  split at h
  · split at h
    · cases h
    · split at h
      · cases h
        rw [State.tsuordWants]
        dsimp only
        split
        · exact sameDie_refl s
        · split <;> exact ⟨rfl, rfl⟩
      · cases h
  · split at h
    · split at h
      · cases h
        rw [State.companionWants]
        split <;> exact ⟨rfl, rfl⟩
      · cases h
    · cases h

theorem sameDie_reach (s : State) (core : Nat) (c : Ctx) (va : VAddr) (use : PageUse) (r : Rights) :
    SameDie s (s.reach core c va use r).2 := by
  have ht := sameDie_translate s core c va.toNat
  rw [State.reach]
  split
  next heq => rw [heq] at ht; exact ht
  next heq => rw [heq] at ht; exact ht
  next u heq =>
    rw [heq] at ht
    split
    · exact ht
    · split
      next ha => exact sameDie_trans ht (sameDie_askHome ha)
      next ha => exact sameDie_trans ht (sameDie_askHome ha)
      · exact ht

theorem sameDie_markDirty (s : State) (leaf pa : Nat) : SameDie s (s.markDirty leaf pa).2 := by
  unfold State.markDirty
  split
  · exact sameDie_refl s
  · split
    · exact sameDie_refl s
    · dsimp only
      split
      · exact ⟨rfl, rfl⟩
      · dsimp only
        split
        · exact ⟨rfl, rfl⟩
        · exact sameDie_trans (sameDie_writePhys s _ _) ⟨rfl, rfl⟩

theorem sameDie_dirtied (x : Reach) (c : Ctx) (va : VAddr) (use : PageUse) (s : State) : SameDie s (x.dirtied c va use s).2 := by
  unfold Reach.dirtied
  split
  next pa leaf entry =>
    have hm := sameDie_markDirty s leaf entry
    split
    · split <;> (next heq => rw [heq] at hm; exact hm)
    · exact sameDie_refl s
  · exact sameDie_refl s

theorem sameDie_dirtyUnits (c : Ctx) (use : PageUse) (xs : List UnitReach) (s : State) : SameDie s (dirtyUnits c use xs s).2 := by
  induction xs generalizing s with
  | nil => exact sameDie_refl s
  | cons x xs ih => exact sameDie_trans (sameDie_dirtied x.reach c x.va use s) (ih _)

theorem sameDie_reachUnits (core : Nat) (c : Ctx) (use : PageUse) (r : Rights) (t : Bool) (fuel : Nat) (va : VAddr) (n : Nat)
    (s : State) : SameDie s (State.reachUnits core c use r t fuel va n s).2 := by
  induction fuel generalizing va n s with
  | zero => exact sameDie_refl s
  | succ fuel ih =>
    rw [State.reachUnits]
    split
    · exact sameDie_refl s
    · exact sameDie_trans (sameDie_reach s core c va use r) (ih _ _ _)

theorem sameDie_checkUnits (w : Who) (c : Ctx) (use : PageUse) (va : VAddr) (xs : List UnitReach) (s : State) :
    SameDie s (s.checkUnits w c use va xs).2 := by
  have hd := sameDie_dirtyUnits c use xs s
  unfold State.checkUnits
  dsimp only
  split
  · exact sameDie_refl s
  · split
    · exact sameDie_refl s
    · split
      · exact sameDie_refl s
      · split <;> exact hd

theorem sameDie_range (s : State) (w : Who) (c : Ctx) (use : PageUse) (r : Rights) (va : VAddr) (n : Nat) :
    SameDie s (s.range w c use r va n).2 := by
  have hf (s : State) := sameDie_trans (sameDie_reachUnits w.core c use r false (unitsOf n) va n s)
    (sameDie_checkUnits w c use va (State.reachUnits w.core c use r false (unitsOf n) va n s).1 _)
  unfold State.range State.reachRange State.seenBy
  split
  · exact hf s
  · exact hf { s with flights := s.ownersFor w }

theorem sameDie_of_gets (h : Gets s core c va n b u) : SameDie s u := by
  obtain ⟨rs, hr, -, -⟩ := h
  have := sameDie_range s (.agent core) c .load ⟨true, false⟩ va n
  rwa [hr] at this

theorem sameDie_of_argued {p : Packet} {a : List Byte} (h : Argued s core c p a u) : SameDie s u := by
  rcases h with ⟨-, -, rfl⟩ | ⟨-, x, v, hx, ⟨-, -, rfl⟩ | ⟨-, ha⟩⟩
  · exact sameDie_refl _
  · exact sameDie_of_gets hx
  · exact sameDie_trans (sameDie_of_gets hx) (sameDie_of_gets ha)

/-! ### Blocks that start -/

theorem foldl_setA_index (xs : List (Nat × AReg)) (h : Hoist) : (xs.foldl (fun h x => h.setA x.1 x.2) h).index = h.index := by
  induction xs generalizing h with
  | nil => rfl
  | cons x xs ih => exact ih _

theorem foldl_setS_index (xs : List (Nat × Word)) (h : Hoist) : (xs.foldl (fun h x => h.setS x.1 x.2) h).index = h.index := by
  induction xs generalizing h with
  | nil => rfl
  | cons x xs ih => exact ih _

theorem withArgs_index (h : Hoist) (a : Args) (w : Word) : (h.withArgs a w).index = h.index :=
  (foldl_setS_index (a.s.mapIdx fun i w => (i, w)) _).trans (foldl_setA_index a.a h)

theorem startBlock_eq (s : State) (b : Block) (core span : Nat) (entry : VAddr) (a : Args) (w : Word) :
    s.startBlock b core span entry a w = arrived s b core span entry a w := by
  unfold State.startBlock arrived
  dsimp only
  congr 2
  rw [List.map_map, List.mapIdx_eq_zipIdx_map, List.mapIdx_eq_zipIdx_map, List.map_map]
  refine List.map_congr_left fun x _ => ?_
  dsimp only [Function.comp]
  rw [withArgs_index]
  rfl

theorem placeClaim_of_placed {bs : List (Block × Need × Nat)} {ks : List Nat} (h : Placed s core c bs ks) :
    s.placeClaim core c bs = some ks := by
  unfold State.placeClaim
  rcases h with ⟨x, rfl, rfl, hf⟩ | ⟨hl, hp⟩
  · dsimp only
    rw [hf, if_pos rfl]
  · split
    · exact absurd rfl hl
    · exact hp

/-! ### Grids -/

theorem handle_of_gen {g : Nat} (hg : g < 2 ^ 24) (e : Nat) : g % 2 ^ 24 * 256 + e = 256 * g + e := by
  rw [Nat.mod_eq_of_lt hg, Nat.mul_comm]

theorem entryGen_lt (b : List Byte) : entryGen b < 2 ^ 24 := Nat.mod_lt _ (by decide)

theorem startOn_of_argued {p : Packet} {a : List Byte} {z : State} (h : Argued s core c p a z) (e gen : Nat) (hg : gen < 2 ^ 24)
    (bs : List (Block × Nat)) : s.startOn core c p e gen bs =
      .ok (bs.foldl (fun s y => arrived s y.1 y.2 z.nextId p.entry (argsOf a) (BitVec.ofNat 32 (256 * gen + e)))
        { z with nextId := z.nextId + 1 }) := by
  rw [State.startOn, argBlock_of_argued h]
  simp only [startBlock_eq, handle_of_gen hg]

theorem admitGrid_of_placed {e : Nat} {b a : List Byte} {p : Packet} {ks : List Nat} {v w z : State} (hp : p = packetOf (b.take 64))
    (hks : Placed s core c ((claimed s c e b 0).map (newNeed (if 1 < p.span then 2 else 0))) ks)
    (hv : Puts s core c (s.gridVa c e + 64) (natLe 8 (entryTicket b + p.span)) v)
    (hw : Puts v core c (v.gridVa c e + 80) (sjBytes 0 0 (if entryTicket b + p.span < p.blocks then 2 else 3)) w)
    (ha : Argued w core c p a z) : s.admitGrid core c e b =
      .ok (some (((List.range (p.replicas - 1)).flatMap fun r => claimed s c e b (r + 1)).foldl
        (fun s y => s.pushReady core c (s.startRecord core c y 0).bytes)
        ((List.zip (claimed s c e b 0) ks).foldl (fun s y => arrived s y.1 y.2 z.nextId p.entry (argsOf a)
          (BitVec.ofNat 32 (256 * entryGen b + e))) { z with nextId := z.nextId + 1 }))) := by
  subst hp
  have hplace := placeClaim_of_placed hks
  unfold State.admitGrid
  dsimp only
  change (match s.placeClaim core c ((claimed s c e b 0).map (newNeed (if 1 < (packetOf (b.take 64)).span then 2 else 0))) with
    | none => _ | some cores => _) = _
  rw [hplace]
  dsimp only
  rw [gridPut_of_puts hv, gridPut_of_puts (b := entrySj 0 0 _) hw, startOn_of_argued ha _ _ (entryGen_lt b)]
  rfl

theorem admitGrid_of_unfit {e : Nat} {b : List Byte}
    (h : s.placeClaim core c ((claimed s c e b 0).map (newNeed (if 1 < (packetOf (b.take 64)).span then 2 else 0))) = none) :
    s.admitGrid core c e b = .ok none := by
  unfold State.admitGrid
  dsimp only
  change (match s.placeClaim core c ((claimed s c e b 0).map (newNeed (if 1 < (packetOf (b.take 64)).span then 2 else 0))) with
    | none => _ | some cores => _) = _
  rw [h]

/-! ### Records -/

/-- A record that is well-formed in itself (R32). -/
structure GoodRecord (k : Record) : Prop where
  kind : k.kind ≤ 5
  acls : k.acls ≤ 2
  res : k.res = 0

theorem recordBad_of_saved {k : Record} (hg : GoodRecord k) (hf : k.fresh = false) {α : Type} (f : Bool → State → Act α) :
    s.recordBad core c k f = f false s := by
  obtain ⟨hk, ha, hr⟩ := hg
  unfold State.recordBad
  rw [decide_eq_false (Nat.not_lt.2 hk), decide_eq_false (Nat.not_lt.2 ha), hr, hf]
  rfl

theorem recordBad_of_fresh {k : Record} (hg : GoodRecord k) (hf : k.fresh = true) (ht : s.inTable c k = true)
    {e : Nat} (he : e = s.recordEntry c k) (hb : Gets s core c (s.gridVa c e) 256 b s) (hok : k.entryBad b = false) {α : Type}
    (f : Bool → State → Act α) :
    s.recordBad core c k f = f false s := by
  obtain ⟨hk, ha, hr⟩ := hg
  unfold State.recordBad
  rw [decide_eq_false (Nat.not_lt.2 hk), decide_eq_false (Nat.not_lt.2 ha), hr, hf, ht]
  rw [he] at hb
  rw [gridGet_of_gets hb, hok]
  rfl

/-- A record whose block has no span comes alone. -/
theorem companions_of_alone {r : Ready} {x : Incoming} (h : x.block.spanSize ≤ 1) {α : Type}
    (k : Option (List (Ready × Incoming)) → State → Act α) : s.companions core c r x k = k (some [(r, x)]) s := if_pos h

theorem firstBad_of_good {r : Ready} (h : ∀ {α : Type} (f : Bool → State → Act α), s.recordBad core c (recordOf r.2) f = f false s)
    {α : Type} (k : Option Ready → State → Act α) : State.firstBad core c [r] s k = k none s := by
  rw [State.firstBad, h]
  rfl

/-- A record that comes alone and fits: its block is brought, and the record is taken out of the ready queue. -/
theorem admitAll_of_alone {r : Ready} {x : Incoming} {v w : State}
    (hfit : s.fits x.block core x.needs.2.1 x.needs.2.2 = true)
    (hbring : State.bring { s with nextId := s.nextId + 1 } core c core s.nextId x = .ok (.ok v))
    (htake : v.takeReady core c [r] .ok = .ok w) : s.admitAll core c [(r, x)] =
      .ok (some (if x.frame.isSome then w.returnFrame core c (recordOf r.2).frameVa else w)) := by
  have hplace : s.placeClaim core c ([(r, x)].map (·.2.needs)) = some [core] :=
    placeClaim_of_placed (.inl ⟨x.needs, rfl, rfl, hfit⟩)
  rw [State.admitAll, hplace]
  dsimp only
  rw [List.zip_cons_cons, List.zip_nil_left, State.bringAll, hbring]
  dsimp only [Act.bind, State.bringAll]
  rw [List.map_cons, List.map_nil, htake]
  dsimp only
  by_cases hx : x.frame.isSome = true <;> simp [hx]

theorem admitRecord_of_alone {r : Ready} {x : Incoming} {v : State} {y : Option State}
    (hin : ∀ {α : Type} (k : Option Incoming → State → Act α), s.incoming core c (recordOf r.2) k = k (some x) v)
    (hspan : x.block.spanSize ≤ 1)
    (hgood : ∀ {α : Type} (f : Bool → State → Act α), v.recordBad core c (recordOf r.2) f = f false v)
    (hall : v.admitAll core c [(r, x)] = .ok y) : s.admitRecord core c r = .ok y := by
  rw [State.admitRecord, hin]
  dsimp only
  rw [companions_of_alone hspan]
  dsimp only
  rw [List.map_cons, List.map_nil, firstBad_of_good hgood]
  exact hall

theorem incoming_of_fresh {k : Record} {e : Nat} {y : Block} (hf : k.fresh = true) (he : e = s.recordEntry c k)
    (hb : Gets s core c (s.gridVa c e) 256 b u)
    (hy : y = { (packetOf (b.take 64)).block (u.entryWidth c e b) c.id e (k.code % 2 ^ 48) (bitsOf k.code 49 48) with id := u.nextId })
    {α : Type} (f : Option Incoming → State → Act α) : s.incoming core c k f = f (some ⟨y, k.acls, none, none⟩) u := by
  rw [State.incoming, if_pos hf, hy]
  rw [he] at hb ⊢
  exact gridGet_of_gets hb _

theorem incoming_of_saved {k : Record} {head : List Byte} {v : State} {a : Aside} (hf : k.fresh = false)
    (hhead : Gets s core c k.frameVa 2752 head u) (hmin : 2752 ≤ (frameHead head).total) (hmax : (frameHead head).total ≤ u.frameSize c)
    (hbytes : Gets u core c k.frameVa (frameHead head).total b v)
    (ha : v.aside.find? (fun y => y.frame == k.frameVa && y.block.ctx == c.id &&
      (y.mark.isNone || y.mark == some (k.source, k.kind, k.code))) = some a) {α : Type} (f : Option Incoming → State → Act α) :
    s.incoming core c k f = f (some ⟨a.block, k.acls, some b, some a⟩) v := by
  rw [State.incoming, if_neg (by rw [hf]; exact Bool.false_ne_true), State.readFrame, ctxGet_of_gets hhead]
  dsimp only
  rw [if_neg (by omega), ctxGet_of_gets hbytes, State.blockOfFrame]
  change Act.bind (match v.aside.find? (fun y => y.frame == k.frameVa && y.block.ctx == c.id &&
      (y.mark.isNone || y.mark == some (k.source, k.kind, k.code))) with
    | some x => .ok (some (x.block, some x), v)
    | none => (v.guessBlock core c k b).bind fun x => .ok (x.1.map fun b => (b, none), x.2)) _ = _
  rw [ha]
  rfl

theorem bring_of_fresh {x : Incoming} {a : List Byte} {span : Nat} {v : State} (hx : x.frame = none)
    (hb : Gets s core c (s.gridVa c x.block.entry) 256 b u) (ha : Argued u core c (packetOf (b.take 64)) a v) :
    s.bring core c core span x = .ok (.ok (arrived v x.block core span (packetOf (b.take 64)).entry (argsOf a)
      (BitVec.ofNat 32 (entryGen b * 256 + x.block.entry)))) := by
  rw [State.bring, hx]
  dsimp only
  rw [gridGet_of_gets hb, argBlock_of_argued ha]
  dsimp only
  rw [startBlock_eq]

/-! ### Candidates -/

theorem admitBlock_of_grid {x : Cand} {e : Nat} (hc : s.ctx? x.ctx = some c) (ha : s.admits core c = true) (hx : x.what = .grid e b)
    {y : Option State} (h : s.admitGrid core c e b = .ok y) : s.admitBlock core x = (y.isSome, y.getD s) := by
  rw [State.admitBlock, hc]
  dsimp only
  rw [ha, hx]
  dsimp only
  rw [h]
  cases y <;> rfl

theorem admitBlock_of_record {x : Cand} {r : Ready} (hc : s.ctx? x.ctx = some c) (ha : s.admits core c = true)
    (hx : x.what = .record r) {y : State} (h : s.admitRecord core c r = .ok (some y)) : s.admitBlock core x = (true, y) := by
  rw [State.admitBlock, hc]
  dsimp only
  rw [ha, hx]
  dsimp only
  rw [h]
  rfl

theorem admitBlock_of_unfit {x : Cand} (h : Unfit s core x) : s.admitBlock core x = (false, s) := by
  obtain ⟨c, e, b, hc, ha, hx, h⟩ := h
  exact admitBlock_of_grid hc ha hx (admitGrid_of_unfit h)

theorem admitBlock_of_admitted {x : Cand} (h : Admitted s core x t) : s.admitBlock core x = (true, t) := by
  cases h with
  | grid c e b p ks v w a z hc ha hx hp hks hv hw hz =>
    exact admitBlock_of_grid (y := some _) hc ha hx (admitGrid_of_placed hp hks hv hw hz)
  | fresh c r k e b b' y u a v _ hc ha hx hk hkind hacls hres htable he hb hbad hspan hy hfit hb' hv htake =>
    subst hk
    have hspanSize : y.spanSize = 1 := by rw [hy]; exact hspan
    have hentry : y.entry = e := by rw [hy]; rfl
    rw [← hentry] at hb' htake
    have hf : (recordOf r.2).fresh = true := by
      rw [Record.fresh]
      rcases hkind with hkind | hkind <;> rw [hkind] <;> rfl
    have hg : GoodRecord (recordOf r.2) := ⟨by omega, hacls, hres⟩
    refine admitBlock_of_record hc ha hx ?_
    refine admitRecord_of_alone (incoming_of_fresh hf he hb hy) (Nat.le_of_eq hspanSize)
      (recordBad_of_fresh hg hf htable he hb hbad) ?_
    exact admitAll_of_alone hfit (bring_of_fresh rfl hb' hv) htake
  | saved c r k head u bytes v a w t hc ha hx hk hlo hhi hacls hres hhead hmin hmax hbytes hfind hspan hfit hrestore htake =>
    subst hk
    have hf : (recordOf r.2).fresh = false := by
      rw [Record.fresh, beq_false_of_ne (by omega), beq_false_of_ne (by omega)]
      rfl
    have hg : GoodRecord (recordOf r.2) := ⟨by omega, hacls, hres⟩
    refine admitBlock_of_record hc ha hx ?_
    refine admitRecord_of_alone (incoming_of_saved hf hhead hmin hmax hbytes hfind) hspan (recordBad_of_saved hg hf) ?_
    exact admitAll_of_alone hfit (congrArg Act.ok hrestore) htake

theorem evaluateCands_of_held {xs : List Cand} {x : Cand} (hx : s.heldFor core xs = some x) (h : s.admitBlock core x = (true, t)) :
    s.evaluateCands core xs = t.noFirst core := by
  unfold State.evaluateCands
  rw [hx]
  dsimp only
  rw [h]

theorem evaluateCands_of_held_unfit {xs : List Cand} {x : Cand} (hx : s.heldFor core xs = some x)
    (h : s.admitBlock core x = (false, t)) : s.evaluateCands core xs = t.parkFor core x := by
  unfold State.evaluateCands
  rw [hx]
  dsimp only
  rw [h]

theorem evaluateCands_of_hidden {xs : List Cand} {h : Candidate} (hx : s.heldFor core xs = none) (hm : h ∈ s.candidates)
    (hc : h.core = core) (hh : s.hidden core h = true) : s.evaluateCands core xs = s := by
  unfold State.evaluateCands
  rw [hx]
  exact if_pos (List.any_eq_true.2 ⟨h, hm, by rw [hc, hh, beq_self_eq_true]; rfl⟩)

theorem any_hidden_of_free {xs : List Cand} (h : Free s core xs) :
    (s.candidates.any fun y => y.core == core && s.hidden core y) = false := by
  refine List.any_eq_false.2 fun y hy ht => ?_
  rw [Bool.and_eq_true, beq_iff_eq] at ht
  exact Bool.false_ne_true ((h.2 y hy ht.1).symm.trans ht.2)

theorem evaluateCands_of_first {x : Cand} {xs : List Cand} (hf : Free s core (x :: xs)) (h : s.admitBlock core x = (true, t)) :
    s.evaluateCands core (x :: xs) = t.noFirst core := by
  unfold State.evaluateCands
  rw [hf.1]
  dsimp only
  rw [any_hidden_of_free hf, if_neg Bool.false_ne_true, h]

theorem evaluateCands_of_unfit {x : Cand} {xs : List Cand} (hf : Free s core (x :: xs)) (h : s.admitBlock core x = (false, t)) :
    s.evaluateCands core (x :: xs) = State.admitAny core xs (State.parkFor { t with
      candidates := ⟨core, x.ctx, x.key, s.firstSince core x, false⟩ :: t.candidates.filter (·.core != core) } core x) := by
  unfold State.evaluateCands
  rw [hf.1]
  dsimp only
  rw [any_hidden_of_free hf, if_neg Bool.false_ne_true, h]

theorem admitAny_of_first {x : Cand} {xs : List Cand} (h : s.admitBlock core x = (true, t)) : State.admitAny core (x :: xs) s = t := by
  rw [State.admitAny, h]

end

end Sys2Proof.Proofs.Admission

/-!
PROOFS. The scheduling events and the order of an Ensign's candidates (17_scheduling.md R309–R331, 01_machine.md R29–R36).
-/

namespace Sys2Proof.Proofs.ScheduleEvents

open Sys2Proof Sys2Proof.Machine Sys2Proof.Claims Sys2Proof.Laws Sys2Proof.Proofs.HostEvents Sys2Proof.Proofs.TrapEntries
open Sys2Proof.Proofs.Admission

section
variable {s t u v w : State} {core : Nat} {c : Ctx} {b : List Byte}

/-! ### Records and retirement -/

theorem parkCore_of_parkedAt {frame : VAddr} (h : ParkedAt s c frame core) : s.parkCore c frame = core := by
  rw [State.parkCore]
  rcases h with ⟨x, hx, rfl⟩ | ⟨hx, rfl⟩ <;> rw [hx]

theorem joinDecrement_of_lowered {n : Nat} {frame : VAddr} (hc : s.ctx? n = some c) (hp : ParkedAt s c frame core)
    (h : s.lowerJoin core c frame = .ok t) : Answers (.joinDecrement n frame) s t := by
  change execJoinDecrement n frame s = _
  rw [execJoinDecrement, hc]
  have hl : s.lowerJoin (s.parkCore c frame) c frame = .ok t := by rw [parkCore_of_parkedAt hp, h]
  exact congrArg _ (onEventAt_of_ok (act := fun c => s.lowerJoin (s.parkCore c frame) c frame) hc hl)

theorem lowerJoin_of_more {frame : VAddr} (hg : Gets s core c frame 32 b u) (hj : 2 ≤ (recordOf b).join)
    (hp : Puts u core c frame { recordOf b with join := (recordOf b).join - 1 }.bytes t) : s.lowerJoin core c frame = .ok t := by
  rw [State.lowerJoin, ctxGet_of_gets hg]
  dsimp only
  rw [if_neg (by omega), if_neg (by omega), ctxPut_of_puts hp, if_neg (by omega)]

theorem lowerJoin_of_last {frame : VAddr} (hg : Gets s core c frame 32 b u) (hj : (recordOf b).join = 1)
    (hp : Puts u core c frame { recordOf b with join := 0, enq := u.time.toNat }.bytes t) : s.lowerJoin core c frame =
      .ok (t.pushReady core c { recordOf b with join := 0, enq := u.time.toNat }.bytes) := by
  rw [State.lowerJoin, ctxGet_of_gets hg]
  dsimp only
  rw [if_neg (by omega), if_pos hj, hj, ctxPut_of_puts hp, if_pos rfl]

/-- The state after a hoist has retired: its monitors go. -/
def withRetired (s : State) (src : Nat) (h : Hoist) : State :=
  { s.putHoist { h with retired := true, gate := false, wbuf := [], snapshot := none } with
    monitors := s.monitors.filter fun m => m.src != src || m.parked.isSome }

theorem retire_eq {src : Nat} {h : Hoist} {x : Block} (hh : s.hoist? src = some h) (hr : s.canRetire h = true)
    (hb : s.block? h.block = some x) : s.retire src =
      if (withRetired s src h).hoistsOf x.id = [] then (withRetired s src h).finish s x else withRetired s src h := by
  unfold State.retire
  rw [hh]
  change (if (!s.canRetire h) = true then s else match (withRetired s src h).block? h.block with
    | none => withRetired s src h
    | some b => if (withRetired s src h).hoistsOf b.id = [] then (withRetired s src h).finish s b else withRetired s src h) = _
  rw [hr, if_neg (by decide), show (withRetired s src h).block? h.block = some x from hb]

theorem retire_of_last {src : Nat} {x : Block} (h : LastOf s src x u) (hd : u.countDone x = .ok t) : s.retire src = t.removeBlock x.id := by
  obtain ⟨h, hh, hr, hb, hu, hlast⟩ := h
  obtain rfl : u = withRetired s src h := hu
  rw [retire_eq hh hr hb, if_pos hlast, State.finish, hd]

theorem countDone_of_lastReplica {x : Block} (hl : LastReplica u x) (hc : u.ctx? x.ctx = some c)
    (hg : Gets (counting u x) x.core c ((counting u x).gridVa c x.entry) 256 b v)
    (hp : Puts v x.core c (v.gridVa c x.entry + 72) (natLe 8 (entryDone b + 1)) t) : u.countDone x =
      if entryState b = 3 ∧ entryDone b + 1 = (packetOf (b.take 64)).blocks then
        t.endEntry x.core c x.entry (entryJoin b) (entryStatus b) .ok
      else .ok t := by
  unfold State.countDone
  dsimp only
  rw [if_neg (by rintro ⟨h1, h2⟩; rcases hl with _ | _ <;> omega)]
  change (match u.ctx? x.ctx with | none => _ | some c => _) = _
  rw [hc]
  exact (gridGet_of_gets hg _).trans (gridPut_of_puts hp _)

theorem countDone_of_replica {x : Block} (hl : ¬ LastReplica u x) :
    u.countDone x = .ok { u with retiredReplicas := (x.ctx, x.entry, x.linear) :: u.retiredReplicas } := by
  rw [LastReplica, not_or, Nat.not_le, Nat.not_le] at hl
  exact if_pos hl

theorem endEntry_of_puts {e j n : Nat} (hp : Puts s core c (s.gridVa c e + 80) (sjBytes j n 4) t) :
    s.endEntry core c e j n .ok = .ok (ending t c e core) := gridPut_of_puts (b := entrySj j n 4) hp _

/-- A hoist that retires leaves the contexts as they were. -/
theorem ctx?_of_lastOf {src : Nat} {x : Block} (h : LastOf s src x u) (n : Nat) : u.ctx? n = s.ctx? n := by
  obtain ⟨h, -, -, -, rfl, -⟩ := h
  rfl

/-! ### Kills and translation requests -/

theorem spanBlocks_beginKill {f : Flight} {x : Block} {va pc : VAddr} (h : s.spanBlocks x.span = [x]) :
    (s.beginKill f x va pc).spanBlocks x.span = [{ x with residency := .stopping 5 }] := by
  unfold State.beginKill State.spanBlocks at *
  change (s.blocks.map _).filter _ = _
  rw [List.filter_map, List.filter_congr (q := fun b : Block => b.span == x.span), h, List.map_cons, List.map_nil, if_pos (beq_self_eq_true _)]
  intro b _
  dsimp only [Function.comp]
  split <;> rfl

theorem beginKill_still {f : Flight} {x : Block} {va pc : VAddr}
    (hno : ∀ y ∈ s.flights, y.block = x.id → ∀ j, y.work ≠ .copy j) :
    (s.beginKill f x va pc).spanCopies [{ x with residency := .stopping 5 }] = false := by
  refine List.any_eq_false.2 fun y hy ht => ?_
  rw [Bool.and_eq_true] at ht
  obtain ⟨hb, hw⟩ := ht
  have hid : y.block = x.id := by
    rw [List.any_cons, List.any_nil, Bool.or_false, beq_iff_eq] at hb
    exact hb.symm
  obtain ⟨z, hz, rfl⟩ := List.mem_map.1 (List.mem_filter.1 hy).1
  split at hw
  next j hj =>
    split at hj
    · cases hj
    · next hne =>
      rw [if_neg hne] at hid
      exact hno z hz hid j hj
  · exact Bool.false_ne_true hw

theorem kill_of_begins {n : Nat} {f : Flight} {x : Block} {va pc : VAddr} (hf : s.flight? n = some f)
    (hk : s.killAddress f = some (va, pc)) (he : s.enabled f = true) (hb : s.block? f.block = some x) (hc : s.ctx? f.ctx = some c)
    (hs : s.spanBlocks x.span = [x]) (hno : ∀ y ∈ s.flights, y.block = x.id → ∀ j, y.work ≠ .copy j)
    (hu : u = (s.beginKill f x va pc).removeBlock x.id) (hv : v = u.pushReady x.core c (u.startRecord x.core c x 5).bytes) :
    s.kill n = v.logEvent 3 (0x3040 + x.core / 4) (some c.id) 0 (natLe 8 va.toNat ++ natLe 8 pc.toNat) := by
  have hstill := beginKill_still (f := f) (va := va) (pc := pc) hno
  subst hu hv
  rw [State.kill, hf]
  dsimp only
  rw [hk, hb, hc]
  dsimp only
  rw [he, if_neg (by decide), spanBlocks_beginKill hs, settle_of_none hstill, hstill, if_neg Bool.false_ne_true]
  rfl

theorem waitingOn_of_none {k : Token} (h : k.hoists = []) : s.waitingOn k = [] := by
  refine List.filter_eq_nil_iff.2 fun x _ hx => ?_
  rw [h, Bool.and_eq_true, List.any_eq_true] at hx
  obtain ⟨-, y, -, hy⟩ := hx
  exact absurd hy (by simp)

theorem translationRequest_of_none {n : Nat} {k : Token} (hk : s.tokens.find? (·.id == n) = some k) (hr : k.refused = false)
    (hh : k.hoists = []) : Answers (.translationRequest n) s (s.sendRequest k) := by
  change execTranslationRequest n s = _
  rw [execTranslationRequest, hk]
  dsimp only
  rw [hr, if_neg Bool.false_ne_true, State.parkFaulting, waitingOn_of_none hh, List.foldl_nil]

/-! ### Grids that become READY -/

theorem bitsOf_low (v hi : Nat) : bitsOf v hi 0 = v % 2 ^ (hi + 1) := by rw [bitsOf, Nat.pow_zero, Nat.div_one, Nat.sub_zero]

/-- What becomes of a launch whose packet has been read. -/
def judged (s : State) (core : Nat) (c : Ctx) (b : List Byte) (node : Bool) (native : Nat) (k : Nat → List Byte → State → Acted)
    (pkt : List Byte) (fetchBad : Bool) : Acted :=
  match (packetOf b).width native with
  | none => k 1 pkt s
  | some w =>
    if !s.die.implementsWidth w then k 1 pkt s
    else if ((packetOf b).kind == 0 || ((packetOf b).kind == 1 && (packetOf b).addr.toNat % 8 == 0 && !fetchBad)) &&
        (packetOf pkt).gridBad then k 2 pkt s
    else if (packetOf b).pwordBad w then k 3 pkt s
    else s.argBlock core c (packetOf b) fun a s =>
      match a with
      | none => k 4 pkt s
      | some a =>
        if argsBad a then k 4 pkt s
        else if (packetOf b).bad s.die w node then k 5 pkt s
        else if fetchBad then k 7 pkt s
        else k 0 pkt s

theorem launchStatus_eq (s : State) (core : Nat) (c : Ctx) (b : List Byte) (node : Bool) (native : Nat)
    (k : Nat → List Byte → State → Acted) : s.launchStatus core c b node native k =
      if node && (packetOf b).kind == 2 then k 5 b s
      else if (packetOf b).kind = 1 ∧ (packetOf b).addr.toNat % 8 = 0 then
        s.withCounts core c b (packetOf b) fun x s => judged s core c b node native k (x.getD b) x.isNone
      else judged s core c b node native k b false := rfl

theorem launchStatus_of_counts {pkt : List Byte} (h : Counts s core c b pkt v) (node : Bool) (native : Nat)
    (k : Nat → List Byte → State → Acted) :
    s.launchStatus core c b node native k = judged v core c b node native k pkt false := by
  rw [launchStatus_eq]
  rcases h with ⟨hk, rfl, rfl⟩ | ⟨hk, ha, x, hx, rfl⟩
  · rw [hk, if_neg (by cases node <;> decide), if_neg (by omega)]
  · rw [if_neg (by rw [hk]; cases node <;> decide), if_pos ⟨hk, ha⟩, State.withCounts, ctxTry_of_gets hx, Option.map_some]
    dsimp only
    rw [bitsOf_low]
    rfl

theorem counted_of_counts {pkt : List Byte} (h : Counts s core c b pkt v) :
    ((packetOf b).kind == 0 || ((packetOf b).kind == 1 && (packetOf b).addr.toNat % 8 == 0 && !false)) = true := by
  rcases h with ⟨hk, -⟩ | ⟨hk, ha, -⟩
  · rw [hk]
    rfl
  · rw [hk, ha]
    rfl

theorem not_early_of_late {a b : Bool} (h : 1 ≤ if a = true then 4 else if b = true then 5 else 0) :
    ¬ (if a = true then 4 else if b = true then 5 else 0) ≤ 3 := by
  cases a
  · cases b
    · exact absurd h (by decide)
    · decide
  · rw [if_pos rfl]
    decide

/-- A cause that does not hang on the argument block is found before that is read. -/
theorem judged_early {pkt : List Byte} (hc : Counts s core c b pkt v) {node : Bool} {native : Nat}
    (h1 : 1 ≤ causeOf v.die native node (packetOf b) pkt (List.replicate 32 0))
    (h3 : causeOf v.die native node (packetOf b) pkt (List.replicate 32 0) ≤ 3) (k : Nat → List Byte → State → Acted) :
    judged v core c b node native k pkt false = k (causeOf v.die native node (packetOf b) pkt (List.replicate 32 0)) pkt v := by
  have hcount := counted_of_counts hc
  unfold judged
  rw [hcount, Bool.true_and]
  cases hw : (packetOf b).width native with
  | none => rw [causeOf, hw]
  | some w =>
    rw [causeOf, hw] at h1 h3 ⊢
    dsimp only at h1 h3 ⊢
    by_cases hd : v.die.implementsWidth w = true
    · by_cases hg : (packetOf pkt).gridBad = true
      · simp [hd, hg]
      · by_cases hp : (packetOf b).pwordBad w = true
        · simp [hd, hg, hp]
        · simp only [hd, hg, hp, Bool.true_eq_false, Bool.false_eq_true, if_false] at h1 h3
          exact absurd h3 (not_early_of_late h1)
    · simp [hd]

/-- Otherwise the argument block is read first. -/
theorem judged_late {pkt a : List Byte} (hc : Counts s core c b pkt v) (ha : Argued v core c (packetOf b) a w) {node : Bool} {native : Nat}
    (h : causeOf v.die native node (packetOf b) pkt a = 0 ∨ 4 ≤ causeOf v.die native node (packetOf b) pkt a)
    (k : Nat → List Byte → State → Acted) :
    judged v core c b node native k pkt false = k (causeOf v.die native node (packetOf b) pkt a) pkt w := by
  have hcount := counted_of_counts hc
  unfold judged
  rw [hcount, Bool.true_and]
  cases hw : (packetOf b).width native with
  | none =>
    rw [causeOf, hw] at h
    dsimp only at h
    omega
  | some n =>
    rw [causeOf, hw] at h ⊢
    dsimp only at h ⊢
    by_cases hd : v.die.implementsWidth n = true
    · by_cases hg : (packetOf pkt).gridBad = true
      · simp [hd, hg] at h
      · by_cases hp : (packetOf b).pwordBad n = true
        · simp [hd, hg, hp] at h
        · rw [argBlock_of_argued ha]
          simp only [hd, hg, hp, Bool.not_true, Bool.true_eq_false, Bool.false_eq_true, if_false, (sameDie_of_argued ha).1]
          by_cases hb : argsBad a = true
          · rw [if_pos hb, if_pos hb]
          · rw [if_neg hb, if_neg hb]
            split <;> rfl
    · simp [hd] at h

theorem causeAt_eq (t v : State) (c : Ctx) (e : Nat) (b pkt a : List Byte) : causeAt t v c e b pkt a =
    causeOf v.die (t.nativeFor c e (entryGen b)) (bitsOf (field b 90 2) 15 15 == 1) (packetOf (b.take 64)) pkt a := rfl

/-- A waiting grid whose packet has been read: what its STATUS leads to. -/
theorem readyGrid_of_status {n e status : Nat} {pkt : List Byte} (hw : Waiting s n c e b u t) (hc : Counts t c.firstCore c (b.take 64) pkt v)
    (hj : ∀ k, judged v c.firstCore c (b.take 64) (bitsOf (field b 90 2) 15 15 == 1) (t.nativeFor c e (entryGen b)) k pkt false =
      k status pkt w) : s.readyGrid c.firstCore c e =
      if status ≠ 0 then w.endEntry c.firstCore c e 0 status .ok
      else w.gridPut c.firstCore c e 0 pkt fun s =>
        if (packetOf pkt).blocks = 0 then s.endEntry c.firstCore c e 0 0 .ok
        else s.gridPut c.firstCore c e 80 (entrySj 0 0 2) fun s => .ok s.signalEnsigns := by
  obtain ⟨-, hg, hs, hz, hp⟩ := hw
  have hkind : (packetOf (b.take 64)).kind ≠ 2 := by
    rcases hc with ⟨hk, -⟩ | ⟨hk, -⟩ <;> omega
  unfold State.readyGrid
  rw [gridGet_of_gets hg]
  dsimp only
  rw [if_neg (by omega), gridPut_of_puts hp, if_neg (by rintro ⟨hk, -⟩; exact hkind hk), launchStatus_of_counts hc, hj]

theorem gridReady_of_ready {n e : Nat} (hc : s.ctx? n = some c) (h : s.readyGrid c.firstCore c e = .ok t) :
    Answers (.gridReady n e) s t :=
  congrArg _ (onEvent_of_ok (act := fun core c => s.readyGrid core c e) hc h)

/-! ### Grids that end -/

theorem complete_of_puts {p : Packet} {n : Nat} (hd : p.donea ≠ 0) (h1 : Puts s core c (p.donea + 8) (natLe 8 n) t)
    (h2 : Puts t core c p.donea (natLe 8 p.donev) u) (k : State → Acted) : s.complete core c p n k = k u := by
  rw [State.complete, if_neg hd, ctxPut_of_puts h1, ctxPut_of_puts h2]

theorem addFree_one (hp : s.poisoned (c.dpa + 196) 4 = false) : s.addFree c 1 0 .ok =
    .ok (s.agentWrite c.id (c.dpa + 196) (natLe 4 (leNat (s.readMem (c.dpa + 196) 4) % 2 ^ 9 + 1 +
      65536 * (leNat (s.readMem (c.dpa + 196) 4) / 2 ^ 16 % 2 ^ 6)))) := by
  rw [State.addFree, State.freeCounts, hp, if_neg Bool.false_ne_true]
  dsimp only
  rw [Int.add_zero, Int.toNat_natCast, ← Int.natCast_one, ← Int.natCast_add, Int.toNat_natCast, bitsOf_low]
  rfl

theorem gridEnd_of_due {n e g : Nat} {x : Ending} {t1 t2 t3 : State} (hc : s.ctx? n = some c)
    (hx : s.ends.find? (fun y => y.ctx == c.id && y.entry == e) = some x) (hg : Gets s x.core c (s.gridVa c e) 256 b u)
    (hs : entryState b = 4) (hw : x.waits = some g) (hh : c.holdsUpTo g = false) (hd : (packetOf (b.take 64)).donea ≠ 0)
    (h1 : Puts { u with ends := u.ends.filter fun y => !(y.ctx == c.id && y.entry == e) } x.core c ((packetOf (b.take 64)).donea + 8)
      (natLe 8 (entryStatus b)) t1)
    (h2 : Puts t1 x.core c (packetOf (b.take 64)).donea (natLe 8 (packetOf (b.take 64)).donev) t2)
    (h3 : Puts t2 x.core c (t2.gridVa c e + 80) (sjBytes 0 (entryStatus b) 0) t3) (hp : t3.poisoned (c.dpa + 196) 4 = false) :
    Answers (.gridEnd n e) s (t3.agentWrite c.id (c.dpa + 196) (natLe 4 (leNat (t3.readMem (c.dpa + 196) 4) % 2 ^ 9 + 1 +
      65536 * (leNat (t3.readMem (c.dpa + 196) 4) / 2 ^ 16 % 2 ^ 6)))) := by
  have hcore : s.endCore c e = x.core := by rw [State.endCore, hx]
  have hends : (u.ends.find? fun y => y.ctx == c.id && y.entry == e) = some x := by rw [(sameDie_of_gets hg).2, hx]
  have hend : s.endGrid x.core c e = .ok (t3.agentWrite c.id (c.dpa + 196) (natLe 4 (leNat (t3.readMem (c.dpa + 196) 4) % 2 ^ 9 + 1 +
      65536 * (leNat (t3.readMem (c.dpa + 196) 4) / 2 ^ 16 % 2 ^ 6)))) := by
    rw [State.endGrid, gridGet_of_gets hg]
    dsimp only
    rw [if_neg (not_not_intro hs), hends, Option.bind_some, hw]
    dsimp only
    rw [hh, if_neg Bool.false_ne_true, State.finishGrid]
    rw [complete_of_puts hd h1 h2, gridPut_of_puts (b := entrySj 0 _ 0) h3, addFree_one hp]
  change execGridEnd n e s = _
  rw [execGridEnd, hc]
  dsimp only
  rw [hcore]
  exact congrArg _ (onEventAt_of_ok (act := fun c => s.endGrid (s.endCore c e) c e) hc (by rw [hcore, hend]))

/-! ### Evaluations -/

theorem mine_of_none (h : ∀ c ∈ s.ctxs, s.admits core c = false) : s.mine core = [] := by
  rw [State.mine, List.filter_eq_nil_iff.2 fun c hc => by rw [h c hc]; exact Bool.false_ne_true, List.map_nil]

theorem admits_of_not_masked {k : Ctx} (h : k.coremask.getLsbD core = false) : s.admits core k = false := by
  rw [State.admits, h]
  rfl

theorem nodesOf_of_none (h : ∀ c ∈ s.ctxs, s.admits core c = false) (hc : core ≠ 0) : s.nodesOf core = [] := by
  rw [State.nodesOf, List.filter_eq_nil_iff.2, List.map_nil]
  intro c hm
  rw [h c hm, admits_of_not_masked, Bool.and_false, Bool.or_false]
  · exact Bool.false_ne_true
  · simp [BitVec.getLsbD_twoPow, Ne.symm hc]

theorem foldl_startNodes_of_none (h : s.nodes = []) (ns : List Nat) :
    ns.foldl (fun t n => State.startNodes core n (t.nodes.filter (·.1 == n)) t) s = s := by
  induction ns with
  | nil => rfl
  | cons n ns ih =>
    rw [List.foldl_cons, h, List.filter_nil, State.startNodes]
    exact ih

theorem retryPushes_of_none (h : ∀ x ∈ s.pushes, x.core ≠ core) : s.retryPushes core = s := by
  have hnone : s.pushes.filter (·.core == core) = [] := List.filter_eq_nil_iff.2 fun x hx => by rw [beq_iff_eq]; exact h x hx
  have hall : s.pushes.filter (·.core != core) = s.pushes := List.filter_eq_self.2 fun x hx => by rw [bne_iff_ne]; exact h x hx
  rw [State.retryPushes, hnone, List.foldl_nil, hall]

theorem prepare_of_nothing (hadm : ∀ c ∈ s.ctxs, s.admits core c = false) (hpush : ∀ x ∈ s.pushes, x.core ≠ core)
    (hnodes : core ≠ 0 ∨ s.nodes = []) : s.prepare core = s := by
  have hfold : (s.nodesOf core).foldl (fun t n => State.startNodes core n (t.nodes.filter (·.1 == n)) t) s = s := by
    rcases hnodes with h | h
    · rw [nodesOf_of_none hadm h, List.foldl_nil]
    · exact foldl_startNodes_of_none h _
  rw [State.prepare, retryPushes_of_none hpush]
  rw [hfold, mine_of_none hadm, List.foldl_nil, mine_of_none hadm, List.foldl_nil]

theorem candidatesOf_of_nothing (hadm : ∀ c ∈ s.ctxs, s.admits core c = false) : s.candidatesOf core = ([], s) := by
  rw [State.candidatesOf, mine_of_none hadm, State.look]
  rfl

theorem heldFor_nil : s.heldFor core [] = none := by
  rw [State.heldFor]
  split
  · split <;> rfl
  · rfl

theorem hidden_of_not_holding {h : Candidate} (hh : h.holding = false ∨ s.ctx? h.ctx = none) : s.hidden core h = false := by
  rw [State.hidden]
  split
  · rfl
  next hc =>
    rcases hh with hh | hh
    · rw [hh]
      rfl
    · rw [hc] at hh
      cases hh

theorem evaluateCands_nil (hf : Free s core []) : s.evaluateCands core [] = s.noFirst core := by
  unfold State.evaluateCands
  rw [hf.1]
  dsimp only
  rw [any_hidden_of_free hf, if_neg Bool.false_ne_true]

theorem evaluation_of_candidates {xs : List Cand} (h : (s.prepare core).candidatesOf core = (xs, u)) :
    Answers (.ensignEvaluation core) s (swept s (u.evaluateCands core xs) core) := by
  have he : s.evaluate core = u.evaluateCands core xs := by rw [State.evaluate, h]
  change execEnsignEvaluation core s = _
  rw [execEnsignEvaluation, he]
  rfl

theorem evaluation_of_result {xs : List Cand} (h : (s.prepare core).candidatesOf core = (xs, u)) (hv : u.evaluateCands core xs = v) :
    Answers (.ensignEvaluation core) s (swept s v core) := hv ▸ evaluation_of_candidates h

theorem evaluation_of_nothing (hadm : ∀ c ∈ s.ctxs, s.admits core c = false) (hpush : ∀ x ∈ s.pushes, x.core ≠ core)
    (hnodes : core ≠ 0 ∨ s.nodes = []) (hc : ∀ h ∈ s.candidates, h.core = core → h.holding = false ∨ s.ctx? h.ctx = none) :
    Answers (.ensignEvaluation core) s { s with candidates := s.candidates.filter (·.core != core), sweep := core + 1 } := by
  have hx : (s.prepare core).candidatesOf core = ([], s) := by
    rw [prepare_of_nothing hadm hpush hnodes, candidatesOf_of_nothing hadm]
  have hf : Free s core [] := ⟨heldFor_nil, fun h hm hk => hidden_of_not_holding (hc h hm hk)⟩
  refine (evaluation_of_candidates hx).trans (congrArg _ ?_)
  rw [evaluateCands_nil hf, swept, if_pos (show (s.noFirst core).nextId = s.nextId from rfl)]
  rfl

theorem hidden_of_outOfSight {h : Candidate} (hh : OutOfSight s core h) : s.hidden core h = true := by
  obtain ⟨-, -, hhold, c, hc, hm, hfa, hd, hi⟩ := hh
  rw [State.hidden, hc]
  dsimp only
  rw [hhold, hm, hfa, hd, hi]
  rfl

theorem evaluateCands_of_chosen {xs : List Cand} {x : Cand} (hx : Chosen s core xs x) (ha : Admitted s core x t) :
    s.evaluateCands core xs = t.noFirst core := by
  rcases hx with hx | ⟨hf, rest, rfl⟩
  · exact evaluateCands_of_held hx (admitBlock_of_admitted ha)
  · exact evaluateCands_of_first hf (admitBlock_of_admitted ha)

/-! ### Saves, parks and masks -/

theorem mem_spanBlocks {n : Nat} {x : Block} (h : s.block? n = some x) : x ∈ s.spanBlocks x.span :=
  List.mem_filter.2 ⟨List.mem_of_find?_eq_some h, beq_self_eq_true _⟩

/-- A span of which a block does not run has no block that is to leave. -/
theorem not_all_running {x : Block} (hx : x ∈ s.spanBlocks x.span) (hr : x.residency ≠ .running) :
    ((s.spanBlocks x.span).all fun y => y.residency == .running) = false :=
  List.all_eq_false.2 ⟨x, hx, by rw [beq_iff_eq]; exact hr⟩

theorem stopLeaving_of_stopped {n : Nat} {x : Block} (hb : s.block? n = some x) (hc : s.ctx? x.ctx = some c)
    (hr : x.residency ≠ .running) : s.stopLeaving n = s := by
  have hw : s.wantsOut x = false := by
    rw [State.wantsOut]
    rw [not_all_running (mem_spanBlocks hb) hr, Bool.false_and]
  rw [State.stopLeaving, hb]
  dsimp only
  rw [hc]
  dsimp only
  rw [hw]
  rfl

theorem saveSpan_of_busy {n : Nat} {x : Block} (hb : s.block? n = some x) (hc : s.ctx? x.ctx = some c)
    (hd : ∃ y ∈ s.spanBlocks x.span, s.drained y = false) : s.saveSpan n = s := by
  obtain ⟨y, hy, hd⟩ := hd
  have hr : s.saveReady x = false := by
    rw [State.saveReady, List.all_eq_false.2 ⟨y, hy, by rw [hd, Bool.and_false]; exact Bool.false_ne_true⟩, Bool.and_false]
  rw [State.saveSpan, hb]
  dsimp only
  rw [hc]
  dsimp only
  rw [hr]
  rfl

theorem stoppingKind_of {x : Block} {k : Nat} (hr : x.residency = .stopping k) (hk : k ≤ 4) : x.stoppingKind = some k := by
  rw [Block.stoppingKind, hr]
  exact if_pos hk

theorem saveInto_of_puts {x : Block} {k frame : Nat} (hr : x.residency = .stopping k) (hk : k ≤ 4)
    (hp : Puts u x.core c (BitVec.ofNat 72 (256 * frame))
      (x.frameBytes (u.allHoists x) (u.savedRecord x k (u.joinOf x k) frame).bytes) v) :
    u.saveInto c x frame = .ok (saved v x c k (BitVec.ofNat 72 (256 * frame)) (u.savedRecord x k (u.joinOf x k) frame)) := by
  rw [State.saveInto]
  dsimp only
  rw [stoppingKind_of hr hk, Option.getD_some, ctxPut_of_puts hp]
  rfl

theorem popFrames_of_pop {p : QueuePlace} {q : QueueWord} {x : List Byte} (hq : s.ctxQueue core c 2 = some (p, q))
    (hp : s.queuePop p q 1 = .ok ([x], u)) (k : List Nat → State → Acted) : s.popFrames core c 1 k = k [leNat x] u := by
  rw [State.popFrames, State.onQueue, hq]
  dsimp only
  rw [hp]
  rfl

theorem saveSpan_of_drained {n k : Nat} {x : Block} {p : QueuePlace} {q : QueueWord} {y : List Byte} (hb : s.block? n = some x)
    (hc : s.ctx? x.ctx = some c) (hs : s.spanBlocks x.span = [x]) (hr : x.residency = .stopping k) (hk : k ≤ 4)
    (hd : s.drained x = true) (he : s.ensignRuns x.core = true)
    (hf : (x.frameBytes (s.allHoists x) (List.replicate 32 0)).length ≤ s.frameSize c) (hq : s.ctxQueue x.core c 2 = some (p, q))
    (hp : s.queuePop p q 1 = .ok ([y], u)) (hv : Puts u x.core c (BitVec.ofNat 72 (256 * leNat y))
      (x.frameBytes (u.allHoists x) (u.savedRecord x k (u.joinOf x k) (leNat y)).bytes) v) :
    s.saveSpan n = saved v x c k (BitVec.ofNat 72 (256 * leNat y)) (u.savedRecord x k (u.joinOf x k) (leNat y)) := by
  have hready : s.saveReady x = true := by
    rw [State.saveReady, hs, he, List.all_cons, List.all_nil, stoppingKind_of hr hk, hd]
    rfl
  have hsmall : [x].any (s.frameTooLarge c) = false := by
    rw [List.any_cons, List.any_nil, Bool.or_false, State.frameTooLarge, zeros, TrapFrames.natLe_zero, decide_eq_false (Nat.not_lt.2 hf)]
  rw [State.saveSpan, hb]
  dsimp only
  rw [hc]
  dsimp only
  rw [hready, if_neg (by decide), hs, hsmall, if_neg Bool.false_ne_true, List.length_singleton, popFrames_of_pop hq hp,
    List.zip_cons_cons, List.zip_nil_left, State.saveAll, saveInto_of_puts hr hk hv]
  rfl

theorem mayPark_of_stopped {x : Block} (hx : x ∈ s.spanBlocks x.span) (hr : x.residency ≠ .running) : s.mayPark x = false := by
  rw [State.mayPark, State.waitsIdle]
  rw [not_all_running hx hr, Bool.false_and, Bool.false_and, Bool.false_and]

theorem ctx?_agentWrite_coremask {n : Nat} (hc : s.ctx? n = some c) (pa : Nat) (bs : List Byte) :
    ∃ d, (s.agentWrite n pa bs).ctx? n = some d ∧ d.coremask = c.coremask := by
  rw [State.agentWrite]
  split
  · exact ⟨_, LinkEvents.ctx?_updCtx (fun _ => rfl) hc, rfl⟩
  · refine ⟨c, ?_, rfl⟩
    rw [State.ctx?, field_writePhys (π := State.ctxs) (fun s m => by rw [State.wakeMonitor]; split <;> rfl) (fun _ _ _ => rfl)
      (fun _ _ => rfl)]
    exact hc

theorem commitMask_eq {n : Nat} {mask old : BitVec 192} {d : Ctx} (hd : s.ctx? n = some d) (ho : d.coremask = old)
    (hu : u = s.updCtx n (fun c => { c with coremask := mask }))
    (hv : v = { u with gates := u.gates.filter fun g => !(g.2 == n && mask.getLsbD g.1 && !old.getLsbD g.1) }) :
    s.commitMask n mask = (v.preempt n (old &&& ~~~mask) mask).refreshPend n := by
  subst ho hu hv
  rw [State.commitMask, hd]

theorem admissionHold_eq (core : Nat) (s : State) : Answers (.admissionHold core) s { s with candidates := s.candidates.map fun x =>
    { x with holding := x.holding || (x.core == core && decide (x.since + 1200000 ≤ s.time.toNat)) } } := by
  change execAdmissionHold core s = _
  rw [execAdmissionHold]
  congr 3
  funext x
  cases (x.core == core && decide (x.since + 1200000 ≤ s.time.toNat))
  · rw [if_neg Bool.false_ne_true, Bool.or_false]
  · rw [if_pos rfl, Bool.or_true]

/-! ### Requests that the host resolves -/

/-- The state in which a request is refused. -/
def withRefused (s : State) (k : Token) : State :=
  { s with tokens := s.tokens.map fun y => if y.id == k.id then { y with refused := true } else y }

theorem filter_refused (k : Token) (ts : List Token) :
    (ts.map fun y => if y.id == k.id then { y with refused := true } else y).filter (·.id != k.id) = ts.filter (·.id != k.id) := by
  induction ts with
  | nil => rfl
  | cons y ys ih =>
    rw [List.map_cons, List.filter_cons, List.filter_cons, ih]
    by_cases h : (y.id == k.id) = true
    · rw [if_pos h, if_neg (by rw [bne, h]; decide), if_neg (by rw [bne, h]; decide)]
    · rw [if_neg h]

theorem endToken_withRefused (s : State) (k : Token) (b : Bool) : (withRefused s k).endToken k b = s.endToken k b := by
  unfold State.endToken withRefused
  dsimp only
  rw [filter_refused]

theorem markRefused_bind {xs : List (VAddr × Nat)} (h : State.markRefused core c xs s .ok = .ok u) (k : State → Acted) :
    State.markRefused core c xs s k = k u := by
  induction xs generalizing s with
  | nil =>
    cases h
    rfl
  | cons x xs ih =>
    rw [State.markRefused] at h ⊢
    cases hm : s.markOne core c x.1 x.2 with
    | ok t => rw [hm] at h; exact ih h
    | fault va => rw [hm] at h; exact ih h
    | stall => rw [hm] at h; cases h
    | ask va use => rw [hm] at h; cases h

theorem refuse_of_ended {k : Token} (hc : s.ctx? k.ctx = some c) (h : (withRefused s k).endRefused c.firstCore c k = .ok t) :
    s.refuse k = t := onEvent_of_ok (s := withRefused s k) (act := fun core c => (withRefused s k).endRefused core c k) hc h

theorem resolveWrite_of_known {n k r : Nat} {x : Token} (he : s.host.enable = true)
    (hx : s.tokens.find? (fun t => t.id == k && t.ctx == n) = some x) :
    s.resolveWrite n k r = if r = 1 then s.refuse x else s.endToken x false := by
  rw [State.resolveWrite, he, if_neg (by decide), hx]

theorem resolveWrite_of_unknown {n k r : Nat} (he : s.host.enable = true) (hx : ∀ t ∈ s.tokens, t.id ≠ k ∨ t.ctx ≠ n) :
    s.resolveWrite n k r = s.logEvent 9 0x3210 none 0 (natLe 8 (r * 2 ^ 22 + n * 65536 + k)) := by
  have hnone : s.tokens.find? (fun t => t.id == k && t.ctx == n) = none := by
    refine List.find?_eq_none.2 fun t ht h => ?_
    rw [Bool.and_eq_true, beq_iff_eq, beq_iff_eq] at h
    rcases hx t ht with hne | hne
    · exact hne h.1
    · exact hne h.2
  rw [State.resolveWrite, he, if_neg (by decide), hnone]
  rfl

/-! ### The order of candidates -/

/-- One candidate may stand before another (17_scheduling.md R323). -/
def Leads (now : Nat) (x y : Cand) : Prop :=
  effective now y.prio y.since ≤ effective now x.prio x.since ∧
    (effective now y.prio y.since = effective now x.prio x.since → x.since ≤ y.since ∧
      (x.since = y.since → (y.isGrid = false → x.isGrid = false) ∧ (x.isGrid = y.isGrid → x.ctx ≤ y.ctx)))

variable {now : Nat} {x y z : Cand}

theorem before_iff : x.before now y = true ↔ effective now y.prio y.since < effective now x.prio x.since ∨
    (effective now x.prio x.since = effective now y.prio y.since ∧ (x.since < y.since ∨ (x.since = y.since ∧
      ((x.isGrid = false ∧ y.isGrid = true) ∨ (x.isGrid = y.isGrid ∧ x.ctx < y.ctx))))) := by
  simp [Cand.before]

theorem leads_of_before (h : x.before now y = true) : Leads now x y := by
  rw [before_iff] at h
  unfold Leads
  grind

theorem leads_of_not_before (h : ¬ x.before now y = true) : Leads now y x := by
  rw [before_iff] at h
  unfold Leads
  grind

theorem leads_trans (hxy : Leads now x y) (hyz : Leads now y z) : Leads now x z := by
  obtain ⟨exy, hxy⟩ := hxy
  obtain ⟨eyz, hyz⟩ := hyz
  refine ⟨Nat.le_trans eyz exy, fun e => ?_⟩
  obtain ⟨sxy, hxy⟩ := hxy (by omega)
  obtain ⟨syz, hyz⟩ := hyz (by omega)
  refine ⟨Nat.le_trans sxy syz, fun hs => ?_⟩
  obtain ⟨gxy, cxy⟩ := hxy (by omega)
  obtain ⟨gyz, cyz⟩ := hyz (by omega)
  refine ⟨fun g => gxy (gyz g), fun g => ?_⟩
  have hy : y.isGrid = z.isGrid := by
    cases hz : z.isGrid with
    | false => exact gyz hz
    | true =>
      cases hy : y.isGrid with
      | false =>
        rw [gxy hy, hz] at g
        cases g
      | true => rfl
  exact Nat.le_trans (cxy (g.trans hy.symm)) (cyz hy)

theorem mem_insertCand {xs : List Cand} : z ∈ insertCand now x xs ↔ z = x ∨ z ∈ xs := by
  induction xs with
  | nil => rw [insertCand, List.mem_singleton, iff_self_or]; exact fun h => absurd h List.not_mem_nil
  | cons y ys ih =>
    rw [insertCand]
    split
    · rw [List.mem_cons, ih, List.mem_cons, or_left_comm]
    · rw [List.mem_cons]

theorem pairwise_insertCand {xs : List Cand} (h : xs.Pairwise (Leads now)) : (insertCand now x xs).Pairwise (Leads now) := by
  induction xs with
  | nil => exact List.pairwise_singleton _ _
  | cons y ys ih =>
    obtain ⟨hy, hys⟩ := List.pairwise_cons.1 h
    rw [insertCand]
    split
    next hb =>
      refine List.pairwise_cons.2 ⟨fun z hz => ?_, ih hys⟩
      rcases mem_insertCand.1 hz with rfl | hz
      · exact leads_of_before hb
      · exact hy z hz
    next hb =>
      have hxy := leads_of_not_before hb
      refine List.pairwise_cons.2 ⟨fun z hz => ?_, h⟩
      rcases List.mem_cons.1 hz with rfl | hz
      · exact hxy
      · exact leads_trans hxy (hy z hz)

theorem pairwise_foldl_insertCand (ys : List Cand) {xs : List Cand} (h : xs.Pairwise (Leads now)) :
    (ys.foldl (fun l x => insertCand now x l) xs).Pairwise (Leads now) := by
  induction ys generalizing xs with
  | nil => exact h
  | cons y ys ih => exact ih (pairwise_insertCand h)

theorem mem_foldl_insertCand {ys xs : List Cand} : z ∈ ys.foldl (fun l x => insertCand now x l) xs ↔ z ∈ ys ∨ z ∈ xs := by
  induction ys generalizing xs with
  | nil => rw [List.foldl_nil, iff_or_self]; exact fun h => absurd h List.not_mem_nil
  | cons y ys ih => rw [List.foldl_cons, ih, mem_insertCand, List.mem_cons, or_left_comm, or_assoc]

theorem candidatesOf_ordered {xs : List Cand} (h : s.candidatesOf core = (xs, u)) :
    xs.Pairwise (Leads u.time.toNat) ∧ ∀ x ∈ xs, core % 4 = 0 ∨ x.isSpan = false := by
  rw [State.candidatesOf] at h
  obtain ⟨rfl, rfl⟩ := Prod.mk.inj h
  refine ⟨pairwise_foldl_insertCand _ List.Pairwise.nil, fun x hx => ?_⟩
  rcases mem_foldl_insertCand.1 hx with hx | hx
  · have hp := (List.mem_filter.1 hx).2
    rw [Bool.or_eq_true, beq_iff_eq, Bool.not_eq_true'] at hp
    exact hp
  · exact absurd hx List.not_mem_nil

/-! ### The events -/

theorem retire_answers {src : Nat} {x : Block} (h : LastOf s src x u) (hd : u.countDone x = .ok t) :
    Answers (.hoistRetire src) s (t.removeBlock x.id) := congrArg _ (retire_of_last h hd)

theorem readyGrid_answers_end {n e status : Nat} {pkt : List Byte} (hw : Waiting s n c e b u t)
    (hc : Counts t c.firstCore c (b.take 64) pkt v)
    (hj : ∀ k, judged v c.firstCore c (b.take 64) (bitsOf (field b 90 2) 15 15 == 1) (t.nativeFor c e (entryGen b)) k pkt false =
      k status pkt w) (hs : status ≠ 0) {z : State} (hp : Puts w c.firstCore c (w.gridVa c e + 80) (sjBytes 0 status 4) z) :
    Answers (.gridReady n e) s (ending z c e c.firstCore) :=
  gridReady_of_ready hw.1 (by rw [readyGrid_of_status hw hc hj, if_pos hs, endEntry_of_puts hp])

theorem blockPark_eq {n : Nat} {x : Block} (hb : s.block? n = some x) :
    Answers (.blockPark n) s (if s.mayPark x then (s.stopSpan x.span 1).saveSpan n else s) := by
  change execBlockPark n s = _
  rw [execBlockPark, hb]

theorem resolve_of_known {i : Instr} {n : BitVec 6} {k : BitVec 16} {x : Token} (he : s.host.enable = true)
    (hx : s.tokens.find? (fun t => t.id == k.toNat && t.ctx == n.toNat) = some x) :
    (i = .resolveRetry n k → Answers i s (s.endToken x false)) ∧ (i = .resolveRefuse n k → Answers i s (s.refuse x)) :=
  ⟨fun h => by subst h; exact congrArg _ ((resolveWrite_of_known he hx).trans (if_neg (by decide))),
    fun h => by subst h; exact congrArg _ ((resolveWrite_of_known he hx).trans (if_pos rfl))⟩

theorem resolveRefuse_of_ended {n : BitVec 6} {k : BitVec 16} {x : Token} (he : s.host.enable = true)
    (hx : s.tokens.find? (fun t => t.id == k.toNat && t.ctx == n.toNat) = some x) (hc : s.ctx? x.ctx = some c)
    (h : (withRefused s x).endRefused c.firstCore c x = .ok t) : Answers (.resolveRefuse n k) s t := by
  rw [← refuse_of_ended hc h]
  exact (resolve_of_known he hx).2 rfl

/-- Every scheduling event answers what is stated. -/
theorem answers_of_scheduleEvent {i : Instr} (h : ScheduleEvent s i t) : Answers i s t := by
  cases h with
  | join n frame c core b u _ hc hp hg hj hput => exact joinDecrement_of_lowered hc hp (lowerJoin_of_more hg hj hput)
  | joinLast n frame c core b u _ hc hp hg hj hput => exact joinDecrement_of_lowered hc hp (lowerJoin_of_last hg hj hput)
  | retire src h b _ hh hr hb hu hlast =>
    obtain rfl : t = withRetired s src h := hu
    exact congrArg _ ((retire_eq hh hr hb).trans (if_neg hlast))
  | retireLast src b u c e v t hlast hrep hc hg hp hno =>
    refine retire_answers hlast ((countDone_of_lastReplica hrep ((ctx?_of_lastOf hlast _).trans hc) hg hp).trans (if_neg ?_))
    rintro ⟨h3, hd⟩
    rcases hno with h | h
    · exact h h3
    · exact h hd
  | retireEnds src b u c e v t w hlast hrep hc hg hp h3 hd hend =>
    refine retire_answers hlast ?_
    rw [countDone_of_lastReplica hrep ((ctx?_of_lastOf hlast _).trans hc) hg hp, if_pos ⟨h3, hd⟩, endEntry_of_puts hend]
  | retireReplica src b u hlast hrep => exact retire_answers hlast (countDone_of_replica hrep)
  | kill n f b c va pc u v hf hk he hb hc hs hno hu hv => exact congrArg _ (kill_of_begins hf hk he hb hc hs hno hu hv)
  | request n k hk hr hreq hh hroom =>
    refine (translationRequest_of_none hk hr hh).trans (congrArg _ ?_)
    rw [State.sendRequest, hreq, hroom]
    rfl
  | requestWaits n k hk hr hh hwait =>
    refine (translationRequest_of_none hk hr hh).trans (congrArg _ ?_)
    rw [State.sendRequest]
    rcases hwait with h | h
    · rw [h]
      rfl
    · rw [h, Bool.not_false, Bool.or_true]
      rfl
  | ready n e c b pkt a u t1 v w t2 t3 hw hc ha hz hp hne hp2 =>
    have hj := judged_late hc ha (node := bitsOf (field b 90 2) 15 15 == 1) (.inl hz)
    refine gridReady_of_ready hw.1 ((readyGrid_of_status hw hc hj).trans ?_)
    rw [← causeAt_eq, hz, if_neg (not_not_intro rfl), gridPut_of_puts hp, if_neg hne, gridPut_of_puts (b := entrySj 0 0 2) hp2]
    rfl
  | readyEmpty n e c b pkt a u t1 v w t2 t3 hw hc ha hz hp he hp2 =>
    have hj := judged_late hc ha (node := bitsOf (field b 90 2) 15 15 == 1) (.inl hz)
    refine gridReady_of_ready hw.1 ((readyGrid_of_status hw hc hj).trans ?_)
    rw [← causeAt_eq, hz, if_neg (not_not_intro rfl), gridPut_of_puts hp, if_pos he, endEntry_of_puts hp2]
  | readyBad n e c b pkt u t1 v t2 hw hc h1 h3 hp =>
    exact readyGrid_answers_end hw hc (judged_early hc h1 h3) (Nat.pos_iff_ne_zero.1 h1) hp
  | readyBadArgs n e c b pkt a u t1 v w t2 hw hc ha h4 hp =>
    exact readyGrid_answers_end hw hc (judged_late hc ha (.inr h4)) (Nat.pos_iff_ne_zero.1 (Nat.lt_of_lt_of_le (by decide) h4)) hp
  | gridEnd n e c b u x g t1 t2 t3 hc hx hg hs hw hh hd h1 h2 h3 hp => exact gridEnd_of_due hc hx hg hs hw hh hd h1 h2 h3 hp
  | evaluateNothing core hadm hpush hnodes hc => exact evaluation_of_nothing hadm hpush hnodes hc
  | takes core xs u x v hxs hx ha => exact evaluation_of_result hxs (evaluateCands_of_chosen hx ha)
  | heldWaits core xs u x hxs hx hun => exact evaluation_of_result hxs (evaluateCands_of_held_unfit hx (admitBlock_of_unfit hun))
  | heldUnseen core xs u h hxs hx ho =>
    exact evaluation_of_result hxs (evaluateCands_of_hidden hx ho.1 ho.2.1 (hidden_of_outOfSight ho))
  | firstWaits core x u hxs hf hun => exact evaluation_of_result hxs (evaluateCands_of_unfit hf (admitBlock_of_unfit hun))
  | takesNext core x y u t v hxs hf hun ht ha =>
    subst ht
    exact evaluation_of_result hxs
      ((evaluateCands_of_unfit hf (admitBlock_of_unfit hun)).trans (admitAny_of_first (admitBlock_of_admitted ha)))
  | save n b c k p q x u va r v hb hc hs hr hk hd he hf hq hp hva hrec hput =>
    subst hva hrec
    have hne : b.residency ≠ .running := by rw [hr]; exact Residency.noConfusion
    refine congrArg _ ((congrArg (·.saveSpan n) (stopLeaving_of_stopped hb hc hne)).trans ?_)
    exact saveSpan_of_drained hb hc hs hr hk hd he hf hq hp hput
  | saveWaits n b c hb hc hne hd =>
    exact congrArg _ ((congrArg (·.saveSpan n) (stopLeaving_of_stopped hb hc hne)).trans (saveSpan_of_busy hb hc hd))
  | park n b hb hp => exact (blockPark_eq hb).trans (by rw [hp, if_pos rfl])
  | parkNot n b hb hr hm => exact (blockPark_eq hb).trans (by rw [mayPark_of_stopped hm hr, if_neg Bool.false_ne_true])
  | coremask n c mask u v hc hu hv =>
    obtain ⟨d, hd, ho⟩ := ctx?_agentWrite_coremask hc (c.dpa + 136) (natLe 24 mask.toNat)
    change execCoremaskCommit n mask s = _
    rw [execCoremaskCommit, hc]
    exact congrArg _ (commitMask_eq hd ho hu hv)
  | hold core => exact admissionHold_eq core s
  | resolveRetry n k x he hx => exact (resolve_of_known he hx).1 rfl
  | resolveRefuse n k x he hx hr hc =>
    obtain ⟨c, hc⟩ := Option.isSome_iff_exists.1 hc
    refine resolveRefuse_of_ended he hx hc ?_
    rw [State.endRefused, hr, List.flatMap_nil, State.markRefused, endToken_withRefused]
  | resolveRefuseParked n k x c u he hx hc hm => exact resolveRefuse_of_ended he hx hc (markRefused_bind hm _)
  | resolveUnknown _ n k r hi he hx =>
    rcases hi with ⟨rfl, rfl⟩ | ⟨rfl, rfl⟩
    · exact congrArg _ (resolveWrite_of_unknown he hx)
    · exact congrArg _ (resolveWrite_of_unknown he hx)
  | resolveDisabled _ n k hi he =>
    rcases hi with rfl | rfl
    · exact congrArg _ (if_pos he)
    · exact congrArg _ (if_pos he)

end

/-- Settles O48: each event by the model's functions that make it; the candidates are in order because each is inserted where the
order puts it. -/
theorem scheduleEvents : Obligations.ScheduleEvents :=
  ⟨fun _ _ _ => answers_of_scheduleEvent, fun _ _ _ _ => candidatesOf_ordered⟩

end Sys2Proof.Proofs.ScheduleEvents

/-!
PROOFS. The form of memory and the places of known page-table entries (09_memory.md R183–R186): what every operation of a word and
every end of a word keeps.
-/

namespace Sys2Proof.Proofs.Forming

open Sys2Proof Sys2Proof.Machine Sys2Proof.Claims Sys2Proof.Laws Sys2Proof.Proofs.HostEvents Sys2Proof.Proofs.Keeping

-- One declaration after another: at once, each would wait in a thread of its own for the ones before it.
set_option Elab.async false

/-! ### What is kept -/

/-- A change of state that leaves memory in canonical form when it was, and makes known only entries at addresses of eight bytes
beside those known before. -/
def Formed (r s : State) : Prop := (Canonical r → Canonical s) ∧ KnownFrom r s

section
variable {r s t : State}

theorem formed_refl (s : State) : Formed s s := ⟨id, knownFrom_of_eq rfl rfl⟩

theorem knownFrom_trans (h : KnownFrom r s) (g : KnownFrom s t) : KnownFrom r t := by
  intro x hx e he
  rcases g x hx e he with h8 | ⟨y, hy, e', he', hpa⟩
  · exact .inl h8
  · rcases h y hy e' he' with h8 | ⟨z, hz, e'', he'', hpa'⟩
    · exact .inl (hpa ▸ h8)
    · exact .inr ⟨z, hz, e'', he'', hpa.trans hpa'⟩

theorem Formed.trans (h : Formed r s) (g : Formed s t) : Formed r t := ⟨fun c => g.1 (h.1 c), knownFrom_trans h.2 g.2⟩

theorem Formed.entriesAligned (h : Formed r s) (ha : EntriesAligned r) : EntriesAligned s := by
  intro x hx e he
  rcases h.2 x hx e he with h8 | ⟨y, hy, e', he', hpa⟩
  · exact h8
  · rw [hpa]
    exact ha y hy e' he'

/-- What neither memory nor a TLB sees. -/
theorem Formed.same (h : Formed r s) (hm : t.mem = s.mem := by rfl) (hc : t.coreTlb = s.coreTlb := by rfl)
    (hl : t.clusterTlb = s.clusterTlb := by rfl) : Formed r t :=
  h.trans ⟨fun c => by rw [Canonical, hm]; exact c, knownFrom_of_eq hc hl⟩

/-- A new memory in canonical form, with no new entry. -/
theorem Formed.memory (h : Formed r s) (hm : s.mem.wf = true → t.mem.wf = true) (hc : t.coreTlb = s.coreTlb := by rfl)
    (hl : t.clusterTlb = s.clusterTlb := by rfl) : Formed r t :=
  h.trans ⟨hm, knownFrom_of_eq hc hl⟩

theorem Formed.writePhys {pa : Nat} {bs : List Byte} (h : Formed r s) : Formed r (s.writePhys pa bs) := by
  have hw (s : State) (m : Monitor) : (s.wakeMonitor m).coreTlb = s.coreTlb ∧ (s.wakeMonitor m).clusterTlb = s.clusterTlb := by
    rw [State.wakeMonitor]
    split <;> exact ⟨rfl, rfl⟩
  exact h.memory (fun c => canonical_writePhys c)
    (field_writePhys (fun s m => (hw s m).1) (fun _ _ _ => rfl) (fun _ _ => rfl) s pa bs)
    (field_writePhys (fun s m => (hw s m).2) (fun _ _ _ => rfl) (fun _ _ => rfl) s pa bs)

/-- So the layer of settling holds of it. -/
theorem lasting : Lasting (Formed r) where
  known h hm hk _ := h.trans ⟨fun c => by rw [Canonical, hm]; exact c, hk⟩
  write _ _ h := h.writePhys
  hoist _ _ _ h := h.same
  changed _ _ h := h.same

theorem Formed.foldl {α : Type} {f : State → α → State} {xs : List α} (h : Formed r s)
    (hf : ∀ s x, Formed r s → Formed r (f s x)) :
    Formed r (xs.foldl f s) := by
  induction xs generalizing s with
  | nil => exact h
  | cons x xs ih => exact ih (hf s x h)

theorem Formed.of_snd {α : Type} {x : α × State} {y : α} (h : Formed r x.2) (hx : x = (y, t)) : Formed r t := by
  rw [hx] at h
  exact h

/-- One of two ways. -/
theorem Formed.ite {p : Prop} [Decidable p] (hs : Formed r s) (ht : Formed r t) : Formed r (if p then s else t) := by
  split
  · exact hs
  · exact ht

/-! ### Operations of the machine -/

theorem Formed.raiseMsi {v : Nat} (h : Formed r s) : Formed r (s.raiseMsi v) := lasting.raiseMsi v h

theorem Formed.logEvent {cls src aux : Nat} {ctx : Option Nat} {data : List Byte} (h : Formed r s) :
    Formed r (s.logEvent cls src ctx aux data) := lasting.logEvent cls src ctx aux data h

theorem Formed.agentWrite {ctx pa : Nat} {bs : List Byte} (h : Formed r s) : Formed r (s.agentWrite ctx pa bs) :=
  lasting.agentWrite ctx pa bs h

theorem Formed.wakeWhere {p : Monitor → Bool} (h : Formed r s) : Formed r (s.wakeWhere p) := lasting.wakeWhere p h

theorem Formed.dropHolds {p : ScopeHold → Bool} (h : Formed r s) : Formed r (s.dropHolds p) := by
  unfold State.dropHolds
  dsimp only
  split
  · exact h.same
  · exact Formed.wakeWhere h.same

theorem Formed.faultCtx {ctx src : Nat} {cause : FaultCause} {data : List Byte} (h : Formed r s) :
    Formed r (s.faultCtx ctx cause src data) :=
  (Formed.logEvent (s := s.updCtx ctx _) h.same).raiseMsi

theorem Formed.carryPoison {src dst n : Nat} (h : Formed r s) : Formed r (s.carryPoison src dst n) :=
  h.foldl fun _ _ h => lasting.poisonSector _ _ h

theorem Formed.reloadTable {n : Nat} (h : Formed r s) : Formed r (s.reloadTable n) := by
  rw [State.reloadTable]
  split
  · split
    · exact h.same
    · exact h
  · exact h

theorem Formed.openClock {src : Nat} (h : Formed r s) : Formed r (s.openClock src) := Formed.ite h h.same

/-! ### A word's issue, its trap and its end -/

variable {e : Env} {i : Instr} {old : List Saved}

theorem Formed.settle {p : Flight → Bool} (h : Formed r s) : Formed r (s.settle p) := lasting.settle p h

theorem Formed.forwardWord (h : Formed r s) : Formed r (e.forwardWord i s) := Formed.ite (s := e.forwardReads _ s) h.same h

theorem Formed.complete {taken : Bool} (h : Formed r s) : Formed r (e.complete i taken s) := (h.forwardWord (e := e) (i := i)).same

theorem Formed.stay {w : Wait} (h : Formed r s) : Formed r (e.stay w s) := Formed.ite (s := s.updHoist _ _) h.same h.same

theorem Formed.unmix (h : Formed r s) : Formed r (e.unmix i old s) := Formed.ite (t := State.updHoist _ _ _) h h.same

theorem Formed.storeRuns {src block ctx : Nat} {va : VAddr} {rs : Runs} {bs : List Byte} (h : Formed r s) :
    Formed r (State.storeRuns src block ctx va rs bs s) := by
  induction rs generalizing s va bs with
  | nil => exact h
  | cons x rs ih => exact ih (lasting.writeAccess _ _ _ _ _ h)

theorem Formed.offerRelease {n : BitVec 64} (h : Formed r s) : Formed r (e.offerRelease n s) := by
  unfold Env.offerRelease
  split
  · exact h
  · exact Formed.ite (s := Env.forward _ _ _) h.same (Formed.same h)

theorem Formed.quieted (h : Formed r e.s) : Formed r e.quieted.s := by
  rw [Env.quieted]
  split
  · exact h.settle
  · exact h

theorem Formed.shareReads {vals : List Word} (h : Formed r s) : Formed r (e.shareReads vals s) :=
  Formed.ite (s := e.forward _ _) h.same h

theorem Formed.shareTime {vals : List Word} {time : BitVec 64} (h : Formed r s) : Formed r (e.shareTime vals time s) := by
  have hs := h.shareReads (e := e) (vals := vals)
  exact Formed.same (s := if e.leads then e.forward _ (e.shareReads vals s) else e.shareReads vals s) (Formed.ite hs.same hs)

/-- Every state that the write of a frame may leave keeps the form. -/
def FrameFormed (r : State) : FrameWrite → Prop
  | .written s => Formed r s
  | .double => True
  | .wait _ s => Formed r s

theorem formed_writeFrame {tr : Trap} {vals : List Word} (h : Formed r e.s) : FrameFormed r (e.writeFrame tr vals) := by
  unfold Env.writeFrame
  extract_lets a pos time starved off e' u
  split
  · trivial
  · split
    · split
      · exact h
      · exact (lasting.writeScratch _ _ _ h).shareTime
    · split
      · split
        · exact h.quieted
        · exact h.quieted.offerRelease
      · have hu : Formed r u := h.settle
        split
        next f v hv =>
          have hv := Formed.of_snd (lasting.range _ _ _ _ _ _ hu) hv
          split
          · exact hv
          · split
            · exact lasting.tokenWait _ _ _ _ hv
            · trivial
        next rs v hv =>
          have hv := Formed.of_snd (lasting.range _ _ _ _ _ _ hu) hv
          split
          · exact hv
          · exact Formed.shareTime (Formed.same hv.storeRuns)

theorem Formed.doubleFault {tr : Trap} (h : Formed r e.s) : Formed r (e.doubleFault tr) :=
  Formed.same (lasting.loseHoist _ _ _ h)

theorem Formed.stopAgent {tr : Trap} (h : Formed r e.s) : Formed r (e.stopAgent tr) :=
  Formed.same (Formed.raiseMsi (Formed.logEvent (s := e.s.updHoist _ _) h.same))

theorem Formed.takeTrap {tr : Trap} {was : Hoist} {vals : List Word} (h : Formed r e.s) : Formed r (e.takeTrap tr was vals) := by
  have hf := formed_writeFrame (tr := tr) (vals := vals) h
  have hd : Formed r ({ e with s := e.shareReads vals e.s }.doubleFault tr) := Formed.doubleFault (e := { e with s := _ }) h.shareReads
  unfold Env.takeTrap
  split
  · exact h.stopAgent
  · split
    · exact hd
    · generalize e.writeFrame tr vals = x at hf
      cases x with
      | double => exact hd
      | wait w s => exact Formed.stay (s := s.updHoist _ _) hf.same
      | written s => exact hf.same

/-- The state in which a word's body ends. -/
def after : Res → State
  | .done s => s
  | .jump s => s
  | .trap _ s => s
  | .wait _ s => s
  | .gone s => s

theorem Formed.conclude {x : Res} (h : Formed r (after x)) : Formed r (e.conclude i old x) := by
  cases x with
  | done s => exact Formed.complete h.unmix
  | jump s => exact Formed.complete h.unmix
  | trap tr s => exact Formed.takeTrap (e := e.at _) h.unmix
  | wait w s => exact Formed.stay h.unmix
  | gone s => exact Formed.same (h.unmix (e := e) (i := i) (old := old))

theorem Formed.mixed (h : Formed r e.s) : Formed r (e.mixed i old).s := by
  unfold Env.mixed
  extract_lets xs k
  split
  · exact h
  · exact h.same

theorem Formed.orRefused {x : Res} (h : Formed r e.s) (hx : Formed r (after x)) : Formed r (after (e.orRefused x)) := by
  unfold Env.orRefused
  split
  · cases x with
    | done s => exact h
    | jump s => exact h
    | trap tr s => exact hx
    | wait w s => exact hx
    | gone s => exact hx
  · exact hx

/-- A body of a word that keeps the form. -/
def Forms (body : Env → Res) : Prop := ∀ r e, Formed r e.s → Formed r (after (body e))

variable {body : Env → Res}

theorem Formed.finish (hb : Forms body) (h : Formed r e.s) : Formed r (e.finish i old body) := by
  refine Formed.conclude (Formed.orRefused h.mixed ?_)
  rw [Env.perform]
  split
  · exact h.mixed
  · exact hb _ _ h.mixed

theorem Formed.start (hb : Forms body) (h : Formed r e.s) : Formed r (e.start i old body) := by
  rw [Env.start]
  split
  · exact Formed.same (lasting.loseHoist _ _ _ h)
  · split
    · exact h.finish hb
    · extract_lets e'
      have he : Formed r e'.s := lasting.killLanes _ _ _ h
      split
      · exact he.finish hb
      · exact he.same

theorem Formed.run (hb : Forms body) (h : Formed r e.s) : Formed r (e.run i body) := by
  have hi := lasting.issue (n := e.h.src) (g := e.g.id) i ⟨h, rfl, rfl⟩
  rw [Env.run]
  generalize e.issue i = x at hi
  cases x with
  | ready e' old => exact Formed.start hb hi.1
  | trap tr e' => exact Formed.takeTrap hi.1
  | wait e' => exact Formed.stay hi.1
  | gone s => exact hi

/-- What an instruction answers keeps the form. -/
def Answered (r : State) : Host.Outcome State Fault Refusal → Prop
  | .next s => Formed r s
  | _ => True

theorem issuer_state {w : BitVec 32} (h : issuer w s = some e) : e.s = s := Progress.issuer_state h

theorem answered_runWord (hb : Forms body) (h : Formed r s) : Answered r (runWord i body s) := by
  rw [runWord]
  split
  next e he => exact Formed.run hb ((issuer_state he).symm ▸ h)
  · trivial

theorem answered_runIllegal {w : BitVec 32} (h : Formed r s) : Answered r (runIllegal w s) := by
  rw [runIllegal]
  split
  next e he => exact Formed.takeTrap ((issuer_state he).symm ▸ h)
  · trivial

/-! ### A fetch -/

/-- Every state that a fetch may leave keeps the form. -/
def FetchFormed (r : State) : Fetch → Prop
  | .word _ s => Formed r s
  | .other s => Formed r s

theorem Formed.wordAt {va : VAddr} (h : Formed r e.s) : Formed r (e.wordAt va).2 := by
  rw [Env.wordAt]
  split
  · exact h
  · exact h.same

theorem Formed.takeRmis {d : Nat} {n : Word} (h : Formed r e.s) : Formed r (e.takeRmis d n) :=
  Formed.takeTrap (e := { e.at _ with w := _ }) h.wordAt

theorem Formed.codeLine {va : VAddr} {pa : Nat} (h : Formed r s) : Formed r (e.codeLine va pa s).2 := by
  unfold Env.codeLine
  dsimp only
  split
  · exact h
  · exact h.same

theorem formed_fetch (h : Formed r e.s) : FetchFormed r e.fetch := by
  unfold Env.fetch
  split
  · exact h.takeRmis
  · extract_lets va
    split
    · exact Formed.takeTrap (e := { e.at _ with w := _ }) h.wordAt
    · split
      next u hu => exact (Formed.of_snd (lasting.reach _ _ _ _ _ h) hu).stay
      next u hu =>
        have hu := Formed.of_snd (lasting.reach _ _ _ _ _ h) hu
        split
        · exact Formed.stay (lasting.tokenWait _ _ _ _ hu)
        · exact Formed.takeTrap (e := { e.at _ with w := _ }) hu.same
      next u hu =>
        have hu := Formed.of_snd (lasting.reach _ _ _ _ _ h) hu
        split
        · exact Formed.same (lasting.loseHoist (s := (State.free u).2) _ _ _ hu.same)
        · split
          · exact hu.stay
          · exact hu.codeLine

end

end Sys2Proof.Proofs.Forming

/-!
PROOFS. What the bodies of words keep: the pieces that they share, and those of control, address, barrier, regrouping and room words
(05_control.md R96–R131, 07_lanes.md R155–R158, 09_memory.md R196–R202, 01_machine.md R31).
-/

namespace Sys2Proof.Proofs.Forming

open Sys2Proof Sys2Proof.Machine Sys2Proof.Claims Sys2Proof.Laws Sys2Proof.Proofs.Keeping

-- One declaration after another: at once, each would wait in a thread of its own for the ones before it.
set_option Elab.async false

section
variable {r s : State} {e : Env}

/-! ### Accesses and their checks -/

theorem Formed.reachLanes {core : Nat} {c : Ctx} {use : PageUse} {rt : Rights} {a : AReg} {xs : List (Nat × Int)} (h : Formed r s) :
    Formed r (reachLanes core c use rt a xs s).2 := by
  induction xs generalizing s with
  | nil => exact h
  | cons x xs ih => exact ih (lasting.reach _ _ _ _ _ h)

theorem Formed.dirtyAll {c : Ctx} {use : PageUse} {xs : List LaneReach} (h : Formed r s) : Formed r (dirtyAll c use xs s).2 := by
  induction xs generalizing s with
  | nil => exact h
  | cons x xs ih => exact ih (lasting.dirtied _ _ _ _ h)

/-- Every state that the checks of an access may leave keeps the form. -/
def CheckFormed (r : State) : Check → Prop
  | .pass s _ => Formed r s
  | .trap _ s => Formed r s
  | .retry s => Formed r s
  | .forward _ s => Formed r s

theorem formed_check {a : AReg} {need : List Nat} {scr : Option Bool} {use : PageUse} {perLane : Bool} {align n : Nat}
    {reqs : List (Nat × Int)} (h : Formed r e.s) : CheckFormed r (e.check a need scr use perLane align n reqs) := by
  have hu := h.reachLanes (core := coreOf e.h.src) (c := e.c) (use := use) (rt := a.rights) (a := a) (xs := reqs)
  unfold Env.check
  extract_lets out
  clear_value out
  generalize reachLanes (coreOf e.h.src) e.c use a.rights a reqs e.s = x at hu
  refine iteInduction (motive := CheckFormed r) (fun _ => h) fun _ => ?_
  cases out with
  | cons => exact h
  | nil =>
    dsimp only
    split
    · exact h
    · split
      · exact h
      · split
        · exact hu
        · exact hu
        · split
          · exact hu
          · split
            · split
              · exact iteInduction (motive := CheckFormed r) (fun _ => hu) fun _ => hu
              · exact hu
            · split
              · exact hu
              · split
                · have hv := hu.dirtyAll (c := e.c) (use := use) (xs := x.1)
                  split
                  · exact hv
                  · exact hv
                  · split <;> exact hv
                · exact hu

theorem Formed.awaitToken {va : VAddr} {kind : Nat} (h : Formed r s) : Formed r (after (e.awaitToken va kind s)) :=
  lasting.tokenWait _ _ _ _ h

theorem Formed.checked {use : PageUse} {c : Check} {k : State → List Access → Res} (h : CheckFormed r c)
    (hk : ∀ s xs, Formed r s → Formed r (after (k s xs))) : Formed r (after (e.checked use c k)) := by
  cases c with
  | pass s xs => exact hk s xs h
  | trap t s => exact h
  | retry s => exact h
  | forward va s => exact Formed.awaitToken h

theorem Formed.rangeRes {f : RangeFault} {kind : Nat} (h : Formed r s) : Formed r (after (e.rangeRes f kind s)) := by
  rw [Env.rangeRes]
  split
  · exact h
  · split
    · exact h.awaitToken
    · exact h

theorem Formed.reachSpan {a : AReg} {need : List Nat} {use : PageUse} {align n : Nat} {pos : Int} {k : State → Option Runs → Res}
    (h : Formed r e.s) (hk : ∀ s rs, Formed r s → Formed r (after (k s rs))) :
    Formed r (after (e.reachSpan a need use align n pos k)) := by
  unfold Env.reachSpan
  split
  · exact h
  · split
    · exact h
    · split
      · exact hk _ _ h
      · split
        · exact h
        · split
          next hu => exact (Formed.of_snd (lasting.range _ _ _ _ _ _ h) hu).rangeRes
          next hu => exact hk _ _ (Formed.of_snd (lasting.range _ _ _ _ _ _ h) hu)

theorem Formed.writeSpan {a : AReg} {pos : Int} {rs : Option Runs} {bs : List Byte} (h : Formed r s) :
    Formed r (e.writeSpan a pos rs bs s) := by
  cases rs with
  | none => exact lasting.writeScratch _ _ _ h
  | some rs => exact Formed.same h.storeRuns

/-! ### Waits before an effect -/

theorem Formed.settleFlags (h : Formed r e.s) : Formed r e.settleFlags.s := by
  rw [Env.settleFlags]
  split
  · exact h.settle
  · exact h

theorem Formed.fpxFirst {k : Env → Res} (h : Formed r e.s) (hk : ∀ e, Formed r e.s → Formed r (after (k e))) :
    Formed r (after (e.fpxFirst k)) := by
  unfold Env.fpxFirst
  extract_lets e'
  have he : Formed r e'.s := h.settleFlags
  split
  · exact he
  · split
    · exact he
    · split
      · exact he
      · exact hk _ he

theorem Formed.reportCopies {covers : Option Nat → Bool} {k : Env → Res} (h : Formed r e.s) (hk : Formed r (after (k e))) :
    Formed r (after (e.reportCopies covers k)) := by
  unfold Env.reportCopies
  split
  · exact h.same
  · exact hk

theorem Formed.offerOrWait {n : BitVec 64} (h : Formed r e.s) : Formed r (after (e.offerOrWait n)) := by
  unfold Env.offerOrWait
  extract_lets e'
  have he : Formed r e'.s := h.quieted
  split
  · exact he
  · split
    · exact he
    · exact he.offerRelease

theorem Formed.release {n : BitVec 64} {k : Env → Bool → Res} (h : Formed r e.s) (hk : ∀ b, Formed r (after (k e b))) :
    Formed r (after (e.release n k)) := by
  unfold Env.release
  split
  · exact hk _
  · split
    · exact hk _
    · exact h.offerOrWait

theorem Formed.waitCounters {ok : Counters → Bool} (h : Formed r e.s) : Formed r (after (e.waitCounters ok)) := by
  unfold Env.waitCounters
  extract_lets e'
  have he : Formed r e'.s := h.settle
  split
  · exact h
  · split
    · exact he
    · split <;> exact he

/-- An environment that settles first where work stands in its way. -/
theorem Formed.settleIf {c : Prop} [Decidable c] {p : Flight → Bool} (h : Formed r e.s) :
    Formed r (if c then e.settle p else e).s := by
  split
  · exact h.settle
  · exact h

theorem Formed.inOrder {xs : List (Int × Int)} {k : Env → Res} (h : Formed r e.s)
    (hk : ∀ e, Formed r e.s → Formed r (after (k e))) : Formed r (after (e.inOrder xs k)) := by
  unfold Env.inOrder
  extract_lets e'
  have he : Formed r e'.s := h.settleIf
  split
  · exact he
  · split
    · exact he
    · exact hk _ he

theorem Formed.inOrderAt {xs : List Access} {k : Env → Res} (h : Formed r e.s)
    (hk : ∀ e, Formed r e.s → Formed r (after (k e))) : Formed r (after (e.inOrderAt xs k)) :=
  h.inOrder fun e he => by
    split
    · exact he
    · exact hk _ he

theorem Formed.ownLines {w : Work} {k : Env → Res} (h : Formed r e.s) (hk : ∀ e, Formed r e.s → Formed r (after (k e))) :
    Formed r (after (e.ownLines w k)) := by
  unfold Env.ownLines
  extract_lets rs p e'
  have he : Formed r e'.s := h.settleIf
  split
  · exact he
  · split
    · exact he
    · exact hk _ he

theorem Formed.inFlight {k : Counter} {w : Work} (h : Formed r s) : Formed r (e.inFlight k w s) := h.same

theorem Formed.startLoad {k : Counter} {t : Target} {acc : List Access} (h : Formed r s) :
    Formed r (after (e.startLoad k t acc s)) := by
  unfold Env.startLoad
  split
  · exact h.same
  · refine Formed.inOrderAt (e := e.at s) h fun e he => ?_
    split
    next good bad _ =>
      extract_lets u
      have hu : Formed r u := Formed.ite he he.same
      split
      · exact hu
      · split
        · exact lasting.killLanes _ _ _ hu
        · exact lasting.loseHoist _ _ _ hu

theorem Formed.withRoom {n : Nat} {k : Env → Res} (h : Formed r e.s) (hk : Formed r (after (k e))) :
    Formed r (after (e.withRoom n k)) := by
  unfold Env.withRoom
  split
  · exact hk
  · cases e.voted with
    | none => exact h.offerOrWait
    | some b => exact hk

theorem Formed.bufferStore {kind modifier : Nat} {ws : List (Access × List Byte)} (he : Formed r e.s) (h : Formed r s) :
    Formed r (after (e.bufferStore kind modifier ws s)) := by
  unfold Env.bufferStore
  refine he.withRoom (Formed.inOrder (e := e.at s) h fun e he => ?_)
  exact lasting.performWrites _ _ _ _ (Formed.same he)

theorem Formed.startStore {kind modifier : Nat} {ws : List (Access × List Byte)} (he : Formed r e.s) (h : Formed r s) :
    Formed r (after (e.startStore kind modifier ws s)) := by
  unfold Env.startStore
  split
  · exact he.bufferStore h
  · exact h.same

/-! ### Control and address words -/

theorem answered_exit (h : Formed r s) : Answered r (execExit s) := by
  refine answered_runWord (fun r e h => h.fpxFirst fun e h => h.reportCopies (h.release fun _ => ?_)) h
  exact lasting.evalBars _ (Formed.same (s := if e.exited.gone then e.s.closeBatch e.h.src e.h.regs.batch.toNat else e.s)
    (Formed.ite h.same h))

theorem forms_branchSlices {p : BitVec 8} {o : BitVec 16} {all : Bool} : Forms fun e => e.branchSlices p o all := by
  intro r e h
  unfold Env.branchSlices
  dsimp only
  split
  · exact h
  · split <;> exact h.same

theorem forms_jumpVia {a : BitVec 8} {k : BitVec 2} {link : Bool} : Forms fun e => e.jumpVia a k link := by
  intro r e h
  unfold Env.jumpVia
  dsimp only
  split <;> exact h.same

theorem answered_isync (h : Formed r s) : Answered r (execIsync s) := by
  refine answered_runWord (fun r e h => ?_) h
  have hw := h.waitCounters (ok := fun c => c.w == 0)
  generalize e.waitCounters (fun c => c.w == 0) = x at hw
  cases x with
  | done s => exact Formed.same hw
  | _ => exact hw

theorem answered_ext {i : BitVec 24} (h : Formed r s) : Answered r (execExt i s) := by
  rw [execExt]
  split
  · trivial
  next e he =>
    have hs : Formed r e.s := (issuer_state he).symm ▸ h
    split
    · exact hs.takeTrap
    · exact hs.same

/-! ### Barriers -/

theorem Formed.register {m : Monitor} (h : Formed r s) : Formed r (s.register m) := by
  unfold State.register
  dsimp only
  split
  · split
    · exact lasting.wakeMonitor _ h.same
    · exact h.same
  · exact h.same

theorem Formed.watch {agent pa size : Nat} {c : Condition} (h : Formed r s) : Formed r (s.watch agent pa size c) := by
  unfold State.watch
  dsimp only
  split
  · exact h.register
  · exact h

theorem Formed.monitor {ms : List Monitor} (h : Formed r s) : Formed r (after (e.monitor ms s)) :=
  Formed.foldl (s := s.unregister e.h.src e.g.id) h.same fun _ _ h => h.register

theorem Formed.arrive {n : Nat} {t : Word} (h : Formed r s) : Formed r (e.arrive n t s) :=
  lasting.evalBars (s := s.updBlock _ _) _ h.same

theorem answered_bara {d a b : BitVec 8} (h : Formed r s) : Answered r (execBara d a b s) := by
  refine answered_runWord (fun r e h => ?_) h
  dsimp only
  split
  · exact h
  · refine h.fpxFirst fun e h => h.reportCopies (h.release fun _ => h.inOrder fun e h => ?_)
    split
    · exact h
    · split
      · split
        · exact h
        · exact Formed.arrive (s := e.s.putHoist _) h.same
      · exact Formed.arrive (s := e.s.putHoist _) h.same

theorem answered_barw {a : BitVec 8} (h : Formed r s) : Answered r (execBarw a s) := by
  refine answered_runWord (fun r e h => ?_) h
  dsimp only
  split
  · exact h
  · refine h.fpxFirst fun e h => h.reportCopies ?_
    split <;> exact h

theorem Formed.armBar {a : AReg} {pos : Int} {rs : Option Runs} {n : Nat} {bs : List Byte} (h : Formed r s) :
    Formed r (e.armBar a pos rs n bs s) := by
  unfold Env.armBar
  split
  · exact h.same
  · exact h.writeSpan

theorem answered_bcarr {d a b : BitVec 8} (h : Formed r s) : Answered r (execBcarr d a b s) := by
  refine answered_runWord (fun r e h => h.inOrder fun e h => h.reachSpan fun s rs hs => ?_) h
  split
  · exact lasting.loseHoist _ _ _ hs
  · dsimp only
    split
    · exact hs
    · exact h.withRoom (Formed.same (hs.armBar (e := e)))

theorem answered_bcwait {a b : BitVec 8} (h : Formed r s) : Answered r (execBcwait a b s) := by
  refine answered_runWord (fun r e h => h.inOrder fun e h => h.reachSpan fun s rs hs => ?_) h
  refine Formed.reportCopies (e := e.at s) hs ?_
  split
  · exact lasting.loseHoist _ _ _ hs
  · split
    · exact hs.same
    · split
      · exact hs.monitor
      · exact hs

/-! ### Regrouping and room -/

theorem Formed.regroup {n : Nat} {x : Regroup} (h : Formed r s) : Formed r (s.regroup n x) := h.foldl fun _ _ h => h.same

theorem Formed.regroupFinish {n : Nat} {hs : List Hoist} (h : Formed r s) : Formed r (State.regroupFinish n hs s) := by
  induction hs generalizing s with
  | nil => exact h
  | cons x hs ih =>
    rw [State.regroupFinish]
    refine ih ?_
    split
    · split
      · exact h
      · split
        next e he => exact Formed.same (h.complete (e := e) (taken := false))
        · exact h
    · exact h

theorem Formed.regroupRefuse {hs : List Hoist} (h : Formed r s) : Formed r (State.regroupRefuse hs s) := by
  induction hs generalizing s with
  | nil => exact h
  | cons x hs ih =>
    rw [State.regroupRefuse]
    refine ih ?_
    split
    · split
      next e he =>
        have hs : Formed r e.s := (issuer_state he).symm ▸ Formed.same h
        exact Formed.same (s := (e.at (e.s.owe x.src _)).takeTrap { cls := .illop }) (Formed.takeTrap (Formed.same hs))
      · exact h
    · exact h

theorem answered_vregrp {d : BitVec 8} {x : BitVec 1} {c : BitVec 6} {b : BitVec 8} (h : Formed r s) :
    Answered r (execVregrp d x c b s) := by
  refine answered_runWord (fun r e h => ?_) h
  extract_lets q e' foes w u hs v
  have he : Formed r e'.s := by
    change Formed r (if _ then e else e.settle _).s
    split
    · exact h
    · exact h.settle
  split
  · exact h
  · split
    · exact he
    · split
      · exact he
      · split
        · exact Formed.regroupRefuse (s := e'.s.owe _ _) he.same
        · split
          · exact Formed.same (Formed.regroupFinish (Formed.regroup (s := u) he.same))
          · exact he

theorem Formed.shrink {x : Block} {k n : Nat} (h : Formed r s) : Formed r (s.shrink x k n) := by
  unfold State.shrink
  split <;> exact h.same

theorem Formed.grantFull {n : Nat} (h : Formed r s) : Formed r (s.grantFull n) := by
  unfold State.grantFull
  split
  · exact h
  · exact h.same

theorem answered_rela {x : BitVec 8} {a : BitVec 8} (h : Formed r s) : Answered r (execRela x a s) := by
  refine answered_runWord (fun r e h => ?_) h
  extract_lets v n cur p e'
  have he : Formed r e'.s := h.settleIf
  split
  · exact h
  · split
    · exact he
    · split
      · exact he
      · exact Formed.same (he.shrink (x := e'.b))

end

end Sys2Proof.Proofs.Forming

/-!
PROOFS. What the Ensigns' actions keep in a context's memory: queues, frames, grids and graphs (17_scheduling.md R309–R322,
R326–R330).
-/

namespace Sys2Proof.Proofs.Forming

open Sys2Proof Sys2Proof.Machine Sys2Proof.Claims Sys2Proof.Laws Sys2Proof.Proofs.Keeping

-- One declaration after another: at once, each would wait in a thread of its own for the ones before it.
set_option Elab.async false

/-! ### Actions -/

/-- What an action answers has a property, when it answers. -/
inductive OkOf {α : Type} (p : α → Prop) : Act α → Prop
  | ok {a} (h : p a) : OkOf p (.ok a)
  | stall : OkOf p .stall
  | ask (va use) : OkOf p (.ask va use)
  | fault (va) : OkOf p (.fault va)

section
variable {r s : State} {core : Nat} {c : Ctx} {α β : Type} {p : α → Prop}

theorem okOf_bind {x : Act β} {q : β → Prop} {f : β → Act α} (hx : OkOf q x) (hf : ∀ a, q a → OkOf p (f a)) :
    OkOf p (x.bind f) := by
  cases hx with
  | ok h => exact hf _ h
  | stall => exact .stall
  | ask va use => exact .ask va use
  | fault va => exact .fault va

theorem okOf_actFault {f : RangeFault} {use : PageUse} : OkOf p (actFault (α := α) f use) := by
  rw [actFault]
  split
  · exact .ask _ _
  · exact .fault _

theorem okOf_ite {c : Prop} [Decidable c] {x y : Act α} (hx : OkOf p x) (hy : OkOf p y) : OkOf p (if c then x else y) := by
  split
  · exact hx
  · exact hy

theorem Formed.ctxGet {va : VAddr} {n : Nat} {k : List Byte → State → Act α} (h : Formed r s)
    (hk : ∀ b s, Formed r s → OkOf p (k b s)) : OkOf p (s.ctxGet core c va n k) := by
  rw [State.ctxGet]
  split
  · exact okOf_actFault
  next hu =>
    split
    · exact .fault _
    · exact hk _ _ (Formed.of_snd (lasting.range _ _ _ _ _ _ h) hu)

theorem Formed.ctxTry {va : VAddr} {n : Nat} {k : Option (List Byte) → State → Act α} (h : Formed r s)
    (hk : ∀ b s, Formed r s → OkOf p (k b s)) : OkOf p (s.ctxTry core c va n k) := by
  have hx : OkOf (fun x : List Byte × State => Formed r x.2) (s.ctxGet core c va n fun b s => .ok (b, s)) := h.ctxGet fun _ _ h => .ok h
  rw [State.ctxTry]
  generalize (s.ctxGet core c va n fun b s => .ok (b, s)) = x at hx
  cases hx with
  | ok hx => exact hk _ _ hx
  | fault va => exact hk _ _ h
  | ask va use => exact .ask va use
  | stall => exact .stall

theorem Formed.ctxPut {q : State → Prop} {va : VAddr} {bs : List Byte} {k : State → Acted} (h : Formed r s)
    (hk : ∀ s, Formed r s → OkOf q (k s)) : OkOf q (s.ctxPut core c va bs k) := by
  rw [State.ctxPut]
  split
  · exact okOf_actFault
  next hu => exact hk _ (lasting.writeRuns _ _ _ (Formed.of_snd (lasting.range _ _ _ _ _ _ h) hu))

theorem Formed.acted {ctx : Nat} {a : Acted} (h : Formed r s) (ha : OkOf (Formed r) a) : Formed r (s.acted core ctx a) := by
  cases ha with
  | ok ht => exact ht
  | stall => exact h
  | ask va use =>
    rw [State.acted]
    split
    · exact lasting.reach _ _ _ _ _ h
    · exact h
  | fault va => exact h.faultCtx

theorem Formed.actedEvent {ctx : Nat} {i : Instr} {a : Acted} (h : Formed r s) (ha : OkOf (Formed r) a) :
    Formed r (s.actedEvent core ctx i a) := by
  have ht := h.acted (core := core) (ctx := ctx) ha
  cases ha with
  | ok _ => exact ht
  | fault va => exact ht
  | stall => exact ht.same
  | ask va use => exact ht.same

theorem Formed.onEventAt {ctx : Nat} {i : Instr} {act : Ctx → Acted} (h : Formed r s) (ha : ∀ c, OkOf (Formed r) (act c)) :
    Formed r (s.onEventAt core ctx i act) := by
  rw [State.onEventAt]
  split
  · exact h.actedEvent (ha _)
  · exact h

theorem Formed.onEvent {ctx : Nat} {i : Instr} {act : Nat → Ctx → Acted} (h : Formed r s) (ha : ∀ n c, OkOf (Formed r) (act n c)) :
    Formed r (s.onEvent ctx i act) := by
  rw [State.onEvent]
  split
  · exact h.actedEvent (ha _ _)
  · exact h

/-! ### Queues of a context -/

theorem okOf_onQueue {q : Nat} {k : QueuePlace → QueueWord → Act α} (hk : ∀ x w, OkOf p (k x w)) : OkOf p (s.onQueue core c q k) := by
  rw [State.onQueue]
  split
  · exact .fault _
  · exact hk _ _

theorem Formed.pushNow {q : Nat} {data : List Byte} (h : Formed r s) : OkOf (Formed r) (s.pushNow core c q data) := by
  rw [State.pushNow]
  refine okOf_onQueue fun x w => ?_
  split
  · exact okOf_actFault
  · exact .stall
  next hu => exact .ok (Formed.same (lasting.queuePush hu h))

theorem Formed.pushOn {q : Nat} {data : List Byte} (h : Formed r s) : Formed r (s.pushOn core c q data) := by
  unfold State.pushOn
  extract_lets wait a t
  have ha : OkOf (Formed r) a := h.pushNow
  have ht : Formed r t := h.acted ha
  clear_value t a
  split
  · exact h.same
  · cases ha with
    | ok _ => exact ht
    | fault va => exact ht
    | stall => exact ht.same
    | ask va use => exact ht.same

theorem Formed.pushReady {data : List Byte} (h : Formed r s) : Formed r (s.pushReady core c data) := h.pushOn

theorem Formed.returnFrame {va : VAddr} (h : Formed r s) : Formed r (s.returnFrame core c va) := h.pushOn

theorem Formed.retryPushes (h : Formed r s) : Formed r (s.retryPushes core) := by
  refine Formed.foldl (s := { s with pushes := _ }) h.same fun s x h => ?_
  split
  · exact h.pushOn
  · exact h

/-! ### Blocks that leave -/

theorem Formed.endDestroy {ctx : Nat} (h : Formed r s) : Formed r (s.endDestroy ctx) := by
  unfold State.endDestroy
  split
  · exact h
  · split
    · exact h
    · refine Formed.trans (h.writePhys (pa := s.host.ctxtab.toNat + 8 * ctx) (bs := natLe 8 0)) ⟨id, ?_⟩
      exact knownFrom_map (f := fun es => es.filter (·.ctx != ctx)) (fun _ e he => ⟨e, (List.mem_filter.1 he).1, rfl⟩) rfl rfl

theorem Formed.removeBlock {n : Nat} (h : Formed r s) : Formed r (s.removeBlock n) := by
  unfold State.removeBlock
  split
  · exact h
  · extract_lets srcs last u v
    have hv : Formed r v := Formed.dropHolds (s := u) h.same
    exact Formed.endDestroy hv.same

theorem Formed.stopEnsign {ctx cls : Nat} (h : Formed r s) : Formed r (s.stopEnsign core ctx cls) :=
  Formed.raiseMsi (Formed.logEvent (s := { s.updHoist _ _ with fresh := _ }) h.same)

theorem Formed.parkWaits {b : Block} {k : Nat} {va : VAddr} (h : Formed r s) : Formed r (s.parkWaits b k va) := by
  unfold State.parkWaits
  dsimp only
  split
  · exact h.same
  · exact h.same
  · exact h

theorem Formed.saveInto {b : Block} {n : Nat} (h : Formed r s) : OkOf (Formed r) (s.saveInto c b n) := by
  unfold State.saveInto
  refine h.ctxPut fun s h => .ok (Formed.ite (Formed.pushReady ?_) ?_)
  all_goals exact Formed.removeBlock (Formed.same h.parkWaits)

theorem Formed.saveAll {xs : List (Block × Nat)} (h : Formed r s) : OkOf (Formed r) (State.saveAll c xs s) := by
  induction xs generalizing s with
  | nil => exact .ok h
  | cons x xs ih =>
    have hx := h.saveInto (c := c) (b := x.1) (n := x.2)
    rw [State.saveAll]
    generalize s.saveInto c x.1 x.2 = a at hx
    cases hx with
    | ok hx => exact ih hx
    | stall => exact .stall
    | ask va use => exact .ask va use
    | fault va => exact .fault va

theorem Formed.popFrames {q : State → Prop} {n : Nat} {k : List Nat → State → Acted} (h : Formed r s)
    (hk : ∀ xs s, Formed r s → OkOf q (k xs s)) : OkOf q (s.popFrames core c n k) := by
  rw [State.popFrames]
  refine okOf_onQueue fun x w => ?_
  split
  · exact okOf_actFault
  next hu =>
    split
    · exact hk _ _ (lasting.queuePop hu h)
    · exact .stall

theorem Formed.saveSpan {n : Nat} (h : Formed r s) : Formed r (s.saveSpan n) := by
  unfold State.saveSpan
  split
  · exact h
  next b _ =>
    split
    · exact h
    next c _ =>
      extract_lets bs
      have hp : OkOf (Formed r) (s.popFrames b.core c bs.length fun frames t =>
          match State.saveAll c (List.zip bs frames) t with
          | .fault _ => .ok (s.stopEnsign b.core c.id 5)
          | a => a) := by
        refine h.popFrames fun xs t ht => ?_
        have hx := ht.saveAll (c := c) (xs := List.zip bs xs)
        split
        · exact .ok h.stopEnsign
        · exact hx
      split
      · exact h
      · split
        · exact Formed.faultCtx (s := s.runOn _) h.same
        · generalize hx : (s.popFrames b.core c bs.length fun frames t =>
            match State.saveAll c (List.zip bs frames) t with
            | .fault _ => .ok (s.stopEnsign b.core c.id 5)
            | a => a) = x at hp ⊢
          cases hp with
          | stall => exact h.same
          | fault va => exact Formed.acted (s := s.runOn _) h.same (.fault va)
          | ok ht => exact ht
          | ask va use => exact h.acted (.ask va use)

theorem Formed.lookPool {bs : List Block} (h : Formed r s) : Formed r (s.lookPool core c bs) := by
  rw [State.lookPool]
  split
  · exact h
  · exact h
  · exact h.acted (.ask _ _)
  · split
    · exact h
    · exact h.acted (.fault _)

theorem Formed.stopLeaving {n : Nat} (h : Formed r s) : Formed r (s.stopLeaving n) := by
  rw [State.stopLeaving]
  split
  · exact h
  · split
    · exact h
    · split
      · exact h
      · split
        · exact h.same
        · exact h.lookPool

theorem Formed.preempt {ctx : Nat} {removed mask : BitVec 192} (h : Formed r s) : Formed r (s.preempt ctx removed mask) :=
  Formed.foldl (s := { s with gates := _, blocks := _ }) h.same fun _ _ h => h.stopLeaving

theorem Formed.commitMask {ctx : Nat} {mask : BitVec 192} (h : Formed r s) : Formed r (s.commitMask ctx mask) :=
  Formed.same (Formed.preempt (s := { s.updCtx _ _ with gates := _ }) h.same)

theorem Formed.requestGeneration {ctx : Nat} (h : Formed r s) : Formed r (s.requestGeneration ctx) := by
  unfold State.requestGeneration
  split
  · exact h
  · split
    · exact h
    · exact h.same

theorem answered_acq (h : Formed r s) : Answered r (execAcq s) := by
  refine answered_runWord (fun r e h => ?_) h
  extract_lets others u
  split
  · exact h
  · split
    · exact h.grantFull
    · split
      · exact h.same
      · exact h.lookPool

/-! ### Grids -/

theorem Formed.argBlock {x : Packet} {k : Option (List Byte) → State → Act α} (h : Formed r s)
    (hk : ∀ b s, Formed r s → OkOf p (k b s)) : OkOf p (s.argBlock core c x k) := by
  rw [State.argBlock]
  split
  · exact hk _ _ h
  · refine h.ctxTry fun b s h => ?_
    split
    · exact hk _ _ h
    · split
      · exact hk _ _ h
      · exact h.ctxTry hk

theorem Formed.gridGet {e : Nat} {k : List Byte → State → Act α} (h : Formed r s) (hk : ∀ b s, Formed r s → OkOf p (k b s)) :
    OkOf p (s.gridGet core c e k) := h.ctxGet hk

theorem Formed.gridPut {q : State → Prop} {e off : Nat} {bs : List Byte} {k : State → Acted} (h : Formed r s)
    (hk : ∀ s, Formed r s → OkOf q (k s)) : OkOf q (s.gridPut core c e off bs k) := h.ctxPut hk

theorem Formed.gridsIn {f : Nat → Bool} {es : List Nat} {xs : List (Nat × List Byte)} {k : List (Nat × List Byte) → State → Act α}
    (h : Formed r s) (hk : ∀ xs s, Formed r s → OkOf p (k xs s)) : OkOf p (State.gridsIn core c f es xs s k) := by
  induction es generalizing s xs with
  | nil => exact hk _ _ h
  | cons e es ih =>
    rw [State.gridsIn]
    refine h.ctxGet fun b s h => ?_
    split
    · exact h.gridGet fun b s h => ih h
    · exact ih h

theorem Formed.freeCounts {k : Nat → Nat → State → Act α} (h : Formed r s) (hk : ∀ n m s, Formed r s → OkOf p (k n m s)) :
    OkOf p (s.freeCounts c k) := by
  rw [State.freeCounts]
  split
  · exact .fault _
  · exact hk _ _ _ h

variable {q : State → Prop}

theorem Formed.addFree {n m : Int} {k : State → Acted} (h : Formed r s) (hk : ∀ s, Formed r s → OkOf q (k s)) :
    OkOf q (s.addFree c n m k) := by
  rw [State.addFree]
  exact h.freeCounts fun _ _ _ h => hk _ h.agentWrite

theorem Formed.freeEntry {es : List Nat} {k : Nat → State → Acted} (h : Formed r s) (hk : ∀ n s, Formed r s → OkOf q (k n s)) :
    OkOf q (State.freeEntry core c es s k) := by
  induction es generalizing s with
  | nil => exact .stall
  | cons e es ih =>
    rw [State.freeEntry]
    refine h.ctxGet fun b s h => ?_
    split
    · exact hk _ _ h
    · exact ih h

theorem Formed.fillEntry {e join parent node inst : Nat} {pkt : List Byte} {link : Bool} {k : State → Acted} (h : Formed r s)
    (hk : ∀ s, Formed r s → OkOf q (k s)) : OkOf q (s.fillEntry core c e pkt join parent link node inst k) := by
  unfold State.fillEntry
  exact h.gridGet fun _ _ h => h.gridPut fun s h => hk _ (Formed.ite (s := { s with widths := _, agenda := _ }) h.same h.same)

theorem Formed.endEntry {e join status : Nat} {k : State → Acted} (h : Formed r s) (hk : ∀ s, Formed r s → OkOf q (k s)) :
    OkOf q (s.endEntry core c e join status k) := by
  rw [State.endEntry]
  exact h.gridPut fun _ h => hk _ h.same

theorem Formed.completion {x : Packet} {status : Nat} {k : State → Acted} (h : Formed r s) (hk : ∀ s, Formed r s → OkOf q (k s)) :
    OkOf q (s.complete core c x status k) := by
  rw [State.complete]
  split
  · exact hk _ h
  · exact h.ctxPut fun _ h => h.ctxPut hk

theorem Formed.nodeAt {va : VAddr} {n : Nat} {k : Option (Nat × Nat × List Nat) → State → Acted} (h : Formed r s)
    (hk : ∀ x s, Formed r s → OkOf q (k x s)) : OkOf q (s.nodeAt core c va n k) := by
  unfold State.nodeAt
  refine h.ctxTry fun b s h => ?_
  split
  · exact hk _ _ h
  · dsimp only
    split
    · exact hk _ _ h
    · refine h.ctxTry fun b s h => ?_
      split <;> exact hk _ _ h

theorem Formed.graphNodes {va : VAddr} {count : Nat} {ns preds : List Nat} {k : Option (List Nat) → State → Acted} (h : Formed r s)
    (hk : ∀ x s, Formed r s → OkOf q (k x s)) : OkOf q (State.graphNodes core c va count ns preds s k) := by
  induction ns generalizing s preds with
  | nil => exact hk _ _ h
  | cons n ns ih =>
    rw [State.graphNodes]
    refine h.nodeAt fun x s h => ?_
    split
    · exact hk _ _ h
    · split
      · exact ih h
      · exact hk _ _ h

theorem Formed.graphOf {va : VAddr} {k : Option (List Nat) → State → Acted} (h : Formed r s)
    (hk : ∀ x s, Formed r s → OkOf q (k x s)) : OkOf q (s.graphOf core c va k) := by
  unfold State.graphOf
  refine h.ctxTry fun b s h => ?_
  split
  · exact hk _ _ h
  · dsimp only
    split
    · exact hk _ _ h
    · exact h.graphNodes hk

theorem Formed.freeInstance {is : List Nat} {k : Nat → State → Acted} (h : Formed r s) (hk : ∀ n s, Formed r s → OkOf q (k n s)) :
    OkOf q (State.freeInstance core c is s k) := by
  induction is generalizing s with
  | nil => exact .stall
  | cons i is ih =>
    rw [State.freeInstance]
    refine h.ctxGet fun b s h => ?_
    split
    · exact hk _ _ h
    · exact ih h

theorem Formed.createInstance {i : Nat} {pkt : List Byte} {preds : List Nat} (h : Formed r s) :
    OkOf (Formed r) (s.createInstance core c i pkt preds) := by
  unfold State.createInstance
  exact h.ctxPut fun _ h => h.ctxPut fun _ h => .ok h.same

theorem Formed.startNode {i n : Nat} (h : Formed r s) : OkOf (Formed r) (s.startNode core c i n) := by
  unfold State.startNode
  refine h.freeCounts fun _ _ s h => ?_
  split
  · exact .stall
  · refine h.freeEntry fun e s h => h.ctxGet fun b s h => h.addFree fun s h => ?_
    refine Formed.nodeAt (s := { s with nodes := _ }) h.same fun x s h => ?_
    have hfail (s : State) (h : Formed r s) : OkOf (Formed r) (s.fillEntry core c e (zeros 64) 1 0 false (32768 + n) i fun s =>
      s.endEntry core c e 0 7 .ok) := h.fillEntry fun s h => h.endEntry fun s h => .ok h
    split
    · exact hfail _ h
    · refine h.ctxTry fun b s h => ?_
      split
      · exact hfail _ h
      · exact h.fillEntry fun _ h => .ok h

theorem Formed.accept {e i : Nat} {pkt : List Byte} (h : Formed r s) : OkOf (Formed r) (s.accept core c e i pkt) := by
  unfold State.accept
  extract_lets x reject
  have hrej (n : Nat) (s : State) (h : Formed r s) : OkOf (Formed r) (reject n s) :=
    h.addFree fun s h => h.fillEntry fun s h => h.endEntry fun s h => .ok h
  split
  · split
    · exact hrej _ _ h
    · refine h.graphOf fun g s h => ?_
      split
      · exact hrej _ _ h
      · exact h.fillEntry fun _ h => h.createInstance
  · split
    · exact h.gridGet fun b s h => h.fillEntry fun _ h => .ok h
    · exact h.fillEntry fun _ h => .ok h

theorem Formed.acceptLaunch (h : Formed r s) : OkOf (Formed r) (s.acceptLaunch core c) := by
  unfold State.acceptLaunch
  refine okOf_onQueue fun x w => ?_
  split
  · exact okOf_actFault
  next head tail u hu =>
    have hu := Formed.of_snd (lasting.queueEnds _ h) hu
    split
    · exact .stall
    · split
      · exact okOf_actFault
      next pkt v hv =>
        have hv := Formed.of_snd (lasting.queueRead _ _ _ _ hu) hv
        extract_lets graph
        refine hv.freeCounts fun _ _ s h => ?_
        split
        · exact .stall
        · refine h.freeEntry fun e s h => ?_
          extract_lets take
          have htake (i : Nat) (s : State) (h : Formed r s) : OkOf (Formed r) (take i s) := by
            dsimp only [take]
            split
            · exact okOf_actFault
            next ht => exact (lasting.queuePop ht h).addFree fun _ h => h.accept
          split
          · exact h.freeInstance htake
          · exact htake _ _ h

theorem Formed.withCounts {b : List Byte} {x : Packet} {k : Option (List Byte) → State → Acted} (h : Formed r s)
    (hk : ∀ b s, Formed r s → OkOf q (k b s)) : OkOf q (s.withCounts core c b x k) := by
  rw [State.withCounts]
  exact h.ctxTry fun _ _ h => hk _ _ h

theorem Formed.judged {b pkt : List Byte} {node bad : Bool} {native : Nat} {k : Nat → List Byte → State → Acted} (h : Formed r s)
    (hk : ∀ n b s, Formed r s → OkOf q (k n b s)) : OkOf q (ScheduleEvents.judged s core c b node native k pkt bad) := by
  unfold ScheduleEvents.judged
  split
  · exact hk _ _ _ h
  · refine okOf_ite (hk _ _ _ h) (okOf_ite (hk _ _ _ h) (okOf_ite (hk _ _ _ h) (h.argBlock fun a s h => ?_)))
    split
    · exact hk _ _ _ h
    · exact okOf_ite (hk _ _ _ h) (okOf_ite (hk _ _ _ h) (okOf_ite (hk _ _ _ h) (hk _ _ _ h)))

theorem Formed.launchStatus {b : List Byte} {node : Bool} {native : Nat} {k : Nat → List Byte → State → Acted} (h : Formed r s)
    (hk : ∀ n b s, Formed r s → OkOf q (k n b s)) : OkOf q (s.launchStatus core c b node native k) := by
  rw [ScheduleEvents.launchStatus_eq]
  split
  · exact hk _ _ _ h
  · split
    · exact h.withCounts fun _ _ h => h.judged hk
    · exact h.judged hk

theorem Formed.readyGrid {e : Nat} (h : Formed r s) : OkOf (Formed r) (s.readyGrid core c e) := by
  unfold State.readyGrid
  refine h.gridGet fun b s h => ?_
  extract_lets node
  split
  · exact .ok h
  · refine h.gridPut fun s h => ?_
    split
    · exact h.gridPut fun _ h => .ok h
    · refine h.launchStatus fun status pkt s h => ?_
      split
      · exact h.endEntry fun _ h => .ok h
      · refine h.gridPut fun s h => ?_
        split
        · exact h.endEntry fun _ h => .ok h
        · exact h.gridPut fun _ h => .ok h.same

theorem Formed.freeChildren {e : Nat} {ns : List Nat} {k : State → Acted} (h : Formed r s) (hk : ∀ s, Formed r s → OkOf q (k s)) :
    OkOf q (State.freeChildren core c e ns s k) := by
  induction ns generalizing s with
  | nil => exact hk _ h
  | cons n ns ih =>
    rw [State.freeChildren]
    refine h.gridGet fun b s h => ?_
    split
    · exact h.gridPut fun s h => h.gridPut fun s h => ih (Formed.ite h.same h)
    · exact ih h

theorem Formed.advanceNodes {i : Nat} {ns : List Nat} {k : State → Acted} (h : Formed r s) (hk : ∀ s, Formed r s → OkOf q (k s)) :
    OkOf q (State.advanceNodes core c i ns s k) := by
  induction ns generalizing s with
  | nil => exact hk _ h
  | cons n ns ih =>
    rw [State.advanceNodes]
    exact h.ctxGet fun b s h => h.ctxPut fun s h => ih (Formed.ite h.same h)

theorem Formed.graphEntry {i : Nat} {es : List Nat} {k : Option (Nat × Nat) → State → Acted} (h : Formed r s)
    (hk : ∀ x s, Formed r s → OkOf q (k x s)) : OkOf q (State.graphEntry core c i es s k) := by
  induction es generalizing s with
  | nil => exact hk _ _ h
  | cons e es ih =>
    rw [State.graphEntry]
    refine h.gridGet fun b s h => ?_
    split
    · exact hk _ _ h
    · exact ih h

theorem Formed.endGraph {i : Nat} {pkt : List Byte} {k : State → Acted} (h : Formed r s) (hk : ∀ s, Formed r s → OkOf q (k s)) :
    OkOf q (s.endGraph core c i pkt k) := by
  unfold State.endGraph
  refine h.addFree fun s h => h.graphEntry fun x s h => ?_
  split
  · exact h.endEntry hk
  · exact h.completion hk

theorem Formed.endNode {i n : Nat} {k : State → Acted} (h : Formed r s) (hk : ∀ s, Formed r s → OkOf q (k s)) :
    OkOf q (s.endNode core c i n k) := by
  unfold State.endNode
  refine h.ctxGet fun b s h => h.nodeAt fun x s h => ?_
  split
  · exact .fault _
  · refine h.advanceNodes fun s h => h.ctxPut fun s h => ?_
    split
    · exact h.endGraph hk
    · exact hk _ h

theorem Formed.finishGrid {e : Nat} {b : List Byte} (h : Formed r s) : OkOf (Formed r) (s.finishGrid core c e b) := by
  unfold State.finishGrid
  exact Formed.completion (s := { s with ends := _ }) h.same fun s h => h.gridPut fun s h => h.addFree fun s h => .ok h

theorem Formed.endGrid {e : Nat} (h : Formed r s) : OkOf (Formed r) (s.endGrid core c e) := by
  unfold State.endGrid
  refine h.gridGet fun b s h => ?_
  split
  · exact .ok h
  · split
    · split
      · exact .ok h
      · exact h.finishGrid
    · refine h.freeChildren fun s h => ?_
      extract_lets node g
      have hend (s : State) (h : Formed r s) : OkOf (Formed r) (if c.holdsUpTo g then
          .ok { s with ends := ⟨c.id, e, core, some g⟩ :: s.ends.filter fun x => !(x.ctx == c.id && x.entry == e) }
        else s.finishGrid core c e b) := okOf_ite (.ok h.same) h.finishGrid
      dsimp only [node]
      split
      · exact h.endNode hend
      · exact hend _ h

end

end Sys2Proof.Proofs.Forming

/-!
PROOFS. What an Ensign's evaluation, the ends of blocks and the host's answers to requests keep (17_scheduling.md R323–R331,
15_cube.md R302, 19_faults.md R347, R348).
-/

namespace Sys2Proof.Proofs.Forming

open Sys2Proof Sys2Proof.Machine Sys2Proof.Claims Sys2Proof.Laws Sys2Proof.Proofs.Keeping

-- One declaration after another: at once, each would wait in a thread of its own for the ones before it.
set_option Elab.async false

section
variable {r s : State} {core : Nat} {c : Ctx} {α : Type} {p : α → Prop} {q : State → Prop}

/-! ### Ready records -/

theorem Formed.ringGet {va : VAddr} {w : QueueWord} {n i : Nat} {xs : List Ready} {k : List Ready → State → Act α} (h : Formed r s)
    (hk : ∀ xs s, Formed r s → OkOf p (k xs s)) : OkOf p (State.ringGet core c va w n i xs s k) := by
  induction n generalizing s i xs with
  | zero => exact hk _ _ h
  | succ n ih =>
    rw [State.ringGet]
    exact h.ctxGet fun _ _ h => ih h

theorem Formed.readyList {n : Nat} {k : List Ready → State → Act α} (h : Formed r s) (hk : ∀ xs s, Formed r s → OkOf p (k xs s)) :
    OkOf p (s.readyList core c n k) := by
  rw [State.readyList]
  exact okOf_onQueue fun _ _ => h.ctxGet fun _ _ h => h.ringGet hk

theorem Formed.takeReady {xs : List Ready} {k : State → Acted} (h : Formed r s) (hk : ∀ s, Formed r s → OkOf q (k s)) :
    OkOf q (s.takeReady core c xs k) := by
  unfold State.takeReady
  refine h.readyList fun first s h => okOf_onQueue fun x w => ?_
  extract_lets pop
  have hpop (s : State) (n : Nat) (k : State → Acted) (h : Formed r s) (hk : ∀ s, Formed r s → OkOf q (k s)) : OkOf q (pop s n k) := by
    dsimp only [pop]
    split
    · exact okOf_actFault
    next hu => exact hk _ (lasting.queuePop hu h)
  split
  · exact hpop _ _ _ h hk
  · refine h.readyList fun all s h => hpop _ _ _ h fun s h => ?_
    split
    · exact okOf_actFault
    next hu => exact hk _ (lasting.queuePush hu h)

theorem Formed.recordBad {x : Record} {k : Bool → State → Act α} (h : Formed r s) (hk : ∀ b s, Formed r s → OkOf p (k b s)) :
    OkOf p (s.recordBad core c x k) := by
  rw [State.recordBad]
  split
  · exact hk _ _ h
  · split
    · exact h.gridGet fun _ _ h => hk _ _ h
    · exact hk _ _ h

theorem Formed.firstBad {xs : List Ready} {k : Option Ready → State → Act α} (h : Formed r s)
    (hk : ∀ b s, Formed r s → OkOf p (k b s)) : OkOf p (State.firstBad core c xs s k) := by
  induction xs generalizing s with
  | nil => exact hk _ _ h
  | cons x xs ih =>
    rw [State.firstBad]
    exact h.recordBad fun _ _ h => okOf_ite (hk _ _ h) (ih h)

theorem Formed.dropRecord {x : Ready} (h : Formed r s) : OkOf (Formed r) (s.dropRecord core c x) := by
  rw [State.dropRecord]
  exact h.takeReady fun _ h => .ok h.faultCtx

theorem Formed.dropFrame {x : Ready} (h : Formed r s) : OkOf (Formed r) (s.dropFrame core c x) := by
  rw [State.dropFrame]
  exact h.takeReady fun _ h => .ok h.faultCtx

theorem Formed.offers (h : Formed r s) : OkOf (fun x => Formed r x.2) (s.offers core c) := by
  rw [State.offers]
  exact h.readyList fun _ _ h => h.gridsIn fun _ _ h => .ok h

theorem Formed.look {ns : List Nat} (h : Formed r s) : Formed r (State.look core ns s).2 := by
  induction ns generalizing s with
  | nil => exact h
  | cons n ns ih =>
    rw [State.look]
    split
    · exact ih h
    next c _ =>
      have ho := h.offers (core := core) (c := c)
      generalize s.offers core c = x at ho
      cases ho with
      | ok ho => exact ih ho
      | stall => exact ih h
      | ask va use => exact ih (h.acted (.ask va use))
      | fault va => exact ih (h.acted (.fault va))

theorem Formed.candidatesOf (h : Formed r s) : Formed r (s.candidatesOf core).2 := by
  rw [State.candidatesOf]
  exact h.look

/-! ### Blocks that come -/

theorem Formed.startOn {x : Packet} {e g : Nat} {bs : List (Block × Nat)} (h : Formed r s) :
    OkOf (Formed r) (s.startOn core c x e g bs) := by
  rw [State.startOn]
  refine h.argBlock fun a s h => ?_
  split
  · exact .fault _
  · exact .ok (Formed.foldl (s := { s with nextId := _ }) h.same fun _ _ h => h.same)

/-- A state, where there is one, keeps the form. -/
def SomeFormed (r : State) (x : Option State) : Prop := ∀ t, x = some t → Formed r t

theorem someFormed_some (h : Formed r s) : SomeFormed r (some s) := fun t ht => by
  cases ht
  exact h

theorem someFormed_none : SomeFormed r none := fun _ ht => nomatch ht

theorem formed_of_some {a : Act (Option State)} {t : State} (ha : OkOf (SomeFormed r) a) (ht : a = .ok (some t)) : Formed r t := by
  subst ht
  cases ha with
  | ok h => exact h t rfl

theorem okOf_none : OkOf (SomeFormed r) (.ok none) := .ok someFormed_none

theorem okOf_some {x : Acted} (h : OkOf (Formed r) x) : OkOf (SomeFormed r) (x.bind fun s => .ok (some s)) :=
  okOf_bind h fun _ h => .ok (someFormed_some h)

theorem Formed.admitGrid {e : Nat} {b : List Byte} (h : Formed r s) : OkOf (SomeFormed r) (s.admitGrid core c e b) := by
  unfold State.admitGrid
  extract_lets x t blocks
  split
  · exact okOf_none
  · refine okOf_bind (q := Formed r) (h.gridPut fun _ h => h.gridPut fun _ h => h.startOn) fun s h => .ok (someFormed_some ?_)
    exact h.foldl fun _ _ h => h.pushReady

theorem Formed.guessBlock {x : Record} {b : List Byte} (h : Formed r s) : OkOf (fun y => Formed r y.2) (s.guessBlock core c x b) := by
  unfold State.guessBlock
  refine h.gridGet fun b s h => ?_
  split
  · exact .ok (Formed.same h)
  · refine h.gridsIn fun gs s h => ?_
    dsimp only
    split
    · exact .ok h
    · exact .ok (Formed.same h)

theorem Formed.blockOfFrame {va : VAddr} {x : Record} {b : List Byte} (h : Formed r s) :
    OkOf (fun y => Formed r y.2) (s.blockOfFrame core c va x b) := by
  rw [State.blockOfFrame]
  split
  · exact .ok h
  · exact okOf_bind h.guessBlock fun _ h => .ok h

theorem Formed.readFrame {va : VAddr} {k : List Byte → State → Act α} (h : Formed r s) (hk : ∀ b s, Formed r s → OkOf p (k b s)) :
    OkOf p (s.readFrame core c va k) := by
  rw [State.readFrame]
  exact h.ctxGet fun _ _ h => okOf_ite (hk _ _ h) (h.ctxGet hk)

theorem Formed.incoming {x : Record} {k : Option Incoming → State → Act α} (h : Formed r s)
    (hk : ∀ b s, Formed r s → OkOf p (k b s)) :
    OkOf p (s.incoming core c x k) := by
  unfold State.incoming
  split
  · exact h.gridGet fun _ _ h => hk _ _ h
  · exact h.readFrame fun _ _ h => okOf_bind h.blockOfFrame fun _ h => hk _ _ h

/-- A block that has been restored leaves the form. -/
def RestoredFormed (r : State) : Restored → Prop
  | .ok s => Formed r s
  | _ => True

theorem Formed.restoreBlock {b : Block} {a : Option Aside} {acls span : Nat} {bs : List Byte} (h : Formed r s) :
    RestoredFormed r (s.restoreBlock core b a acls span bs) := by
  unfold State.restoreBlock
  extract_lets f dummy
  split
  · trivial
  · split
    · trivial
    · split
      · trivial
      · exact h.same

theorem Formed.bring {n span : Nat} {x : Incoming} (h : Formed r s) : OkOf (RestoredFormed r) (s.bring core c n span x) := by
  rw [State.bring]
  split
  · exact .ok h.restoreBlock
  · refine h.gridGet fun b s h => h.argBlock fun a s h => ?_
    split
    · exact .fault _
    · exact .ok (Formed.same h)

/-- Blocks that have been brought leave the form. -/
def BroughtFormed (r : State) : Brought → Prop
  | .ok s => Formed r s
  | _ => True

theorem Formed.bringAll {span : Nat} {xs : List ((Ready × Incoming) × Nat)} (h : Formed r s) :
    OkOf (BroughtFormed r) (State.bringAll core c span xs s) := by
  induction xs generalizing s with
  | nil => exact .ok h
  | cons x xs ih =>
    rw [State.bringAll]
    refine okOf_bind h.bring fun y hy => ?_
    cases y with
    | ok t => exact ih hy
    | noRoom => exact .ok trivial
    | malformed => exact .ok trivial

theorem Formed.kin {x : Incoming} {ys : List Ready} {zs : List (Ready × Incoming)} {k : List (Ready × Incoming) → State → Act α}
    (h : Formed r s) (hk : ∀ xs s, Formed r s → OkOf p (k xs s)) : OkOf p (State.kin core c x ys zs s k) := by
  induction ys generalizing s zs with
  | nil => exact hk _ _ h
  | cons y ys ih =>
    unfold State.kin
    extract_lets w
    refine okOf_ite (ih h) (h.incoming fun z s h => ?_)
    split <;> exact ih h

theorem Formed.companions {y : Ready} {x : Incoming} {k : Option (List (Ready × Incoming)) → State → Act α} (h : Formed r s)
    (hk : ∀ xs s, Formed r s → OkOf p (k xs s)) : OkOf p (s.companions core c y x k) := by
  rw [State.companions]
  exact okOf_ite (hk _ _ h) (h.readyList fun _ _ h => h.kin fun _ _ h => hk _ _ h)

theorem Formed.admitAll {ys : List (Ready × Incoming)} (h : Formed r s) : OkOf (SomeFormed r) (s.admitAll core c ys) := by
  rw [State.admitAll]
  split
  · exact okOf_none
  · refine okOf_bind (Formed.bringAll (s := { s with nextId := _ }) h.same) fun y hy => ?_
    cases y with
    | noRoom => exact okOf_none
    | malformed x => exact okOf_some h.dropFrame
    | ok t =>
      refine okOf_bind (q := Formed r) (Formed.takeReady hy fun _ h => .ok h) fun u hu => .ok (someFormed_some ?_)
      exact hu.foldl fun _ _ h => h.returnFrame

theorem Formed.admitRecord {y : Ready} (h : Formed r s) : OkOf (SomeFormed r) (s.admitRecord core c y) := by
  rw [State.admitRecord]
  refine h.incoming fun x s h => ?_
  split
  · exact okOf_some h.dropFrame
  · refine h.companions fun ys s h => ?_
    split
    · exact okOf_none
    · refine h.firstBad fun bad s h => ?_
      split
      · exact okOf_some h.dropRecord
      · exact h.admitAll

theorem Formed.admitBlock {x : Cand} (h : Formed r s) : Formed r (s.admitBlock core x).2 := by
  rw [State.admitBlock]
  split
  · exact h
  next c _ =>
    split
    · exact h
    · have hx : OkOf (SomeFormed r) (match x.what with | .grid e b => s.admitGrid core c e b | .record b => s.admitRecord core c b) := by
        cases x.what with
        | grid e b => exact h.admitGrid
        | record b => exact h.admitRecord
      split
      next t ht => exact formed_of_some hx ht
      · exact h
      · exact h
      · exact h.acted (.ask _ _)
      · exact h.acted (.fault _)

theorem Formed.admitAny {xs : List Cand} (h : Formed r s) : Formed r (State.admitAny core xs s) := by
  induction xs generalizing s with
  | nil => exact h
  | cons x xs ih =>
    rw [State.admitAny]
    split
    next hu => exact Formed.of_snd h.admitBlock hu
    next hu => exact ih (Formed.of_snd h.admitBlock hu)

/-! ### An evaluation -/

theorem Formed.acceptAll {n m : Nat} (h : Formed r s) : Formed r (State.acceptAll core n m s) := by
  induction m generalizing s with
  | zero => exact h
  | succ m ih =>
    rw [State.acceptAll]
    split
    · exact h
    next c _ =>
      have ha := h.acceptLaunch (core := core) (c := c)
      generalize s.acceptLaunch core c = x at ha
      cases ha with
      | ok ha => exact ih ha
      | stall => exact h.acted .stall
      | ask va use => exact h.acted (.ask va use)
      | fault va => exact h.acted (.fault va)

theorem Formed.startNodes {n : Nat} {xs : List (Nat × Nat × Nat)} (h : Formed r s) : Formed r (State.startNodes core n xs s) := by
  induction xs generalizing s with
  | nil => exact h
  | cons x xs ih =>
    rw [State.startNodes]
    split
    · exact h
    · exact ih (h.acted h.startNode)

theorem Formed.dropBadHead (h : Formed r s) : OkOf (Formed r) (s.dropBadHead core c) := by
  rw [State.dropBadHead]
  refine h.readyList fun xs s h => h.firstBad fun bad s h => ?_
  split
  · exact h.dropRecord
  · exact .ok h

theorem Formed.parkFor {x : Cand} (h : Formed r s) : Formed r (s.parkFor core x) := by
  unfold State.parkFor
  extract_lets n cores idle
  split
  · exact h
  · split
    · exact h.same
    · refine h.foldl fun s b h => ?_
      split
      · exact h.lookPool
      · exact h

theorem Formed.evaluateCands {xs : List Cand} (h : Formed r s) : Formed r (s.evaluateCands core xs) := by
  unfold State.evaluateCands
  split
  · split
    next hu => exact Formed.same (Formed.of_snd h.admitBlock hu)
    next hu => exact Formed.parkFor (Formed.of_snd h.admitBlock hu)
  · split
    · exact h
    · split
      · exact h.same
      · split
        next hu => exact Formed.same (Formed.of_snd h.admitBlock hu)
        next hu =>
          have hu := Formed.of_snd h.admitBlock hu
          exact Formed.admitAny (Formed.parkFor hu.same)

theorem Formed.prepare (h : Formed r s) : Formed r (s.prepare core) := by
  unfold State.prepare
  extract_lets s1 s2 s3
  have h1 : Formed r s1 := h.retryPushes
  have h2 : Formed r s2 := h1.foldl fun _ _ h => h.startNodes
  have h3 : Formed r s3 := h2.foldl fun _ _ h => h.acceptAll
  refine h3.foldl fun s n h => ?_
  split
  · exact h.acted h.dropBadHead
  · exact h

theorem Formed.evaluate (h : Formed r s) : Formed r (s.evaluate core) := by
  have hc := (h.prepare (core := core)).candidatesOf (core := core)
  rw [State.evaluate]
  generalize (s.prepare core).candidatesOf core = x at hc
  exact hc.evaluateCands

/-! ### Blocks that end -/

theorem Formed.countDone {b : Block} (h : Formed r s) : OkOf (Formed r) (s.countDone b) := by
  unfold State.countDone
  extract_lets key u
  have hu : Formed r u := h.same
  split
  · exact .ok h.same
  · split
    · exact .ok hu
    · refine hu.gridGet fun e s h => h.gridPut fun s h => ?_
      exact okOf_ite (h.endEntry fun _ h => .ok h) (.ok h)

theorem Formed.finishBlock {u : State} {b : Block} (h : Formed r s) (hu : Formed r u) : Formed r (s.finish u b) := by
  have hd := h.countDone (b := b)
  rw [State.finish]
  generalize s.countDone b = x at hd
  cases hd with
  | ok ht => exact ht.removeBlock
  | fault va => exact Formed.removeBlock (h.acted (.fault va))
  | stall => exact hu.acted .stall
  | ask va use => exact hu.acted (.ask va use)

theorem Formed.retire {src : Nat} (h : Formed r s) : Formed r (s.retire src) := by
  unfold State.retire
  split
  · exact h
  · split
    · exact h
    · extract_lets t u
      have hu : Formed r u := h.same
      split
      · exact hu
      · split
        · exact hu.finishBlock h
        · exact hu

theorem Formed.kill {n : Nat} (h : Formed r s) : Formed r (s.kill n) := by
  unfold State.kill
  split
  · exact h
  · split
    · split
      · exact h
      · extract_lets u bs v
        have hv : Formed r v := Formed.settle (s := u) h.same
        split
        · exact hv
        · exact hv.foldl fun _ _ h => Formed.logEvent (Formed.pushReady h.removeBlock)
    · exact h

/-! ### Waits and requests -/

theorem Formed.lowerJoin {va : VAddr} (h : Formed r s) : OkOf (Formed r) (s.lowerJoin core c va) := by
  rw [State.lowerJoin]
  refine h.ctxGet fun b s h => ?_
  dsimp only
  exact okOf_ite (.ok h) (h.ctxPut fun _ h => .ok (Formed.ite h.pushReady h))

theorem Formed.sendRequest {t : Token} (h : Formed r s) : Formed r (s.sendRequest t) := by
  unfold State.sendRequest
  dsimp only
  split
  · exact h
  · exact Formed.same (Formed.raiseMsi (lasting.ringAppend _ _ _ h))

theorem Formed.parkFaulting {t : Token} (h : Formed r s) : Formed r (s.parkFaulting t) := by
  refine h.foldl fun s b h => ?_
  split
  · dsimp only
    split
    · exact Formed.saveSpan (s := s.stopSpan _ _) h.same
    · exact h.lookPool
  · exact h

theorem Formed.markOne {va : VAddr} {n : Nat} (h : Formed r s) : OkOf (Formed r) (s.markOne core c va n) := by
  rw [State.markOne]
  exact h.ctxGet fun _ _ h => h.ctxGet fun _ _ h => h.ctxPut fun _ h => .ok h

theorem Formed.markRefused {xs : List (VAddr × Nat)} {k : State → Acted} (h : Formed r s)
    (hk : ∀ s, Formed r s → OkOf (Formed r) (k s)) : OkOf (Formed r) (State.markRefused core c xs s k) := by
  induction xs generalizing s with
  | nil => exact hk _ h
  | cons x xs ih =>
    have hm := h.markOne (core := core) (c := c) (va := x.1) (n := x.2)
    rw [State.markRefused]
    generalize s.markOne core c x.1 x.2 = a at hm
    cases hm with
    | ok hm => exact ih hm
    | fault va => exact ih (h.acted (.fault va))
    | stall => exact .stall
    | ask va use => exact .ask va use

theorem Formed.endToken {t : Token} {refuse : Bool} (h : Formed r s) : Formed r (s.endToken t refuse) := by
  unfold State.endToken
  extract_lets s1 s2 s3 s4
  have h2 : Formed r s2 := Formed.foldl (s := s1) h.same fun _ _ h => h.same
  have h4 : Formed r s4 := Formed.foldl (s := s3) h2.same fun s x h => by
    split
    · split
      · split
        · exact lasting.failCopy _ _ _ h
        · exact h.same
      · exact h
    · exact h
  exact h4.same

theorem Formed.endRefused {t : Token} (h : Formed r s) : OkOf (Formed r) (s.endRefused core c t) := by
  rw [State.endRefused]
  exact h.markRefused fun _ h => .ok h.endToken

theorem Formed.refuse {t : Token} (h : Formed r s) : Formed r (s.refuse t) :=
  Formed.onEvent (s := { s with tokens := _ }) h.same fun _ _ => Formed.endRefused h.same

theorem Formed.ignoreWrite {v n : Nat} (h : Formed r s) : Formed r (s.ignoreWrite v n) := h.logEvent

theorem Formed.resolveWrite {ctx token outcome : Nat} (h : Formed r s) : Formed r (s.resolveWrite ctx token outcome) := by
  rw [State.resolveWrite]
  split
  · exact h
  · split
    · split
      · exact h.refuse
      · exact h.endToken
    · exact h.ignoreWrite

theorem Formed.completeWhen {n : Nat} {kind : Work → Bool} (h : Formed r s) : Formed r (s.completeWhen n kind) := by
  rw [State.completeWhen]
  split
  · split
    · exact lasting.completeFlight _ h
    · exact h
  · exact h

end

end Sys2Proof.Proofs.Forming

/-!
PROOFS. What loads, stores, pins, SPILL and FILL keep (09_memory.md R181–R195, 05_control.md R132–R137).
-/

namespace Sys2Proof.Proofs.Forming

open Sys2Proof Sys2Proof.Machine Sys2Proof.Claims Sys2Proof.Laws Sys2Proof.Proofs.Keeping

-- One declaration after another: at once, each would wait in a thread of its own for the ones before it.
set_option Elab.async false

section
variable {r s : State} {e : Env} {a : AReg}

theorem formed_after_ite {p : Prop} [Decidable p] {x y : Res} (hx : Formed r (after x)) (hy : Formed r (after y)) :
    Formed r (after (if p then x else y)) := by
  split
  · exact hx
  · exact hy

/-! ### Loads and stores -/

theorem Formed.volatileLoad {i : Instr} {t : Target} {m : Nat} {acc : List Access} (h : Formed r s) :
    Formed r (after (e.volatileLoad i t m acc s)) := by
  unfold Env.volatileLoad
  split
  · split
    · exact h
    · refine Formed.inOrderAt (e := e.at s) h fun e he => ?_
      extract_lets v
      split
      next good bad _ =>
        extract_lets data mine u
        have hu : Formed r u := he.same
        split
        · exact hu
        · split
          · exact lasting.killLanes _ _ _ hu
          · exact lasting.loseHoist _ _ _ hu
  · split
    · exact h
    · exact h.same

theorem Formed.load {i : Instr} {k : Counter} {t : Target} {scr : Option Bool} {m : BitVec 4} {reqs : List (Nat × Int)}
    (h : Formed r e.s) : Formed r (after (e.load i k t a scr m reqs)) := by
  unfold Env.load
  exact Formed.checked (formed_check h) fun s xs h => formed_after_ite h.volatileLoad h.startLoad

theorem Formed.store {scr : Option Bool} {perLane : Bool} {m : BitVec 4} {reqs : List (Nat × Int)} {data : Nat → List Byte}
    (h : Formed r e.s) : Formed r (after (e.store a scr perLane m reqs data)) := by
  unfold Env.store
  exact Formed.checked (formed_check h) fun s xs hs => h.startStore hs

theorem Formed.windowPerm {pos : Int} (h : Formed r e.s) : Formed r (after (e.windowPerm a pos)) := by
  exact h

theorem forms_pref {o : BitVec 8} {n m : BitVec 4} : Forms fun e =>
    let a := e.h.areg n.toNat
    if !a.has permR || a.has permSCR then .done e.s
    else
      let reqs := (e.laneOffsets (dispOnly m) o.toNat a).filter fun r => a.accessOk e.b.segSize 1 1 r.2
      .done (Sys2Proof.Machine.reachLanes (coreOf e.h.src) e.c .load a.rights a reqs e.s).2 := by
  intro r e h
  dsimp only
  split
  · exact h
  · exact h.reachLanes

theorem Formed.named1 {o : BitVec 8} {n m : BitVec 4} {k : State → List Access → Res} (h : Formed r e.s)
    (hk : ∀ s xs, Formed r s → Formed r (after (k s xs))) : Formed r (after (e.named1 o n m k)) := by
  unfold Env.named1
  exact Formed.checked (formed_check h) hk

theorem Formed.pinLine {core : Nat} {c : Ctx} {x : Access} (h : Formed r s) : Formed r (s.pinLine core c x) := by
  unfold State.pinLine
  exact Formed.ite h h.same

/-! ### SPILL and FILL -/

theorem Formed.spillOne {n : Nat} {acc : List Access} (h : Formed r s) : Formed r (e.spillOne n acc s) :=
  lasting.performWrites (s := s.updHoist _ _) _ _ _ _ h.same

theorem Formed.fillOne {n : Nat} {acc : List Access} (h : Formed r s) : Formed r (e.fillOne n acc s) := by
  unfold Env.fillOne
  split
  extract_lets vals u
  exact Formed.ite h.same (lasting.killLanes (s := u) _ _ _ h.same)

/-- Every state that a run of SPILL or FILL may leave keeps the form. -/
def SpillFormed (r : State) : SpillEnd → Prop
  | .through s => Formed r s
  | .stopped _ c => CheckFormed r c

theorem formed_spillRegs {f : Nat} {store : Bool} {n i : Nat} (h : Formed r e.s) : SpillFormed r (spillRegs a f store n i e) := by
  induction n generalizing i e with
  | zero => exact h
  | succ n ih =>
    rw [spillRegs]
    dsimp only
    generalize hx : Env.check _ _ _ _ _ _ _ _ _ = x
    have hc : CheckFormed r x := hx ▸ formed_check h
    cases x with
    | pass s acc =>
      refine iteInduction (motive := SpillFormed r) (fun _ => hc) fun _ => ih ?_
      exact Formed.same (Formed.ite (hc.spillOne (e := e) (n := f + i) (acc := acc)) (hc.fillOne (e := e) (n := f + i) (acc := acc)))
    | trap t s => exact hc
    | retry s => exact hc
    | forward va s => exact hc

theorem Formed.scrambleFill {f n i : Nat} (h : Formed r s) : Formed r (e.scrambleFill f n i s) := by
  induction n generalizing i s with
  | zero => exact h
  | succ n ih => exact ih h.same

theorem Formed.scrambleSpill {n i : Nat} (h : Formed r s) : Formed r (e.scrambleSpill a n i s) := by
  induction n generalizing i s with
  | zero => exact h
  | succ n ih => exact ih (lasting.performWrites (s := { s with fresh := _ }) _ _ _ _ h.same)

theorem Formed.spillStopped {f c i : Nat} {store : Bool} {x : Check} (h : CheckFormed r x) :
    Formed r (after (e.spillStopped a f c i store x)) := by
  cases x with
  | pass s acc => exact h
  | trap t s =>
    exact Formed.same (Formed.ite (Formed.scrambleSpill (e := e) (a := a) (n := c - i) (i := i) h)
      (Formed.scrambleFill (e := e) (f := f) (n := c - i) (i := i) h))
  | retry s => exact Formed.same h
  | forward va s => exact Formed.awaitToken (Formed.same h)

/-- The runs of SPILL and FILL, and what follows where they stop. -/
theorem Formed.spillGo {f c n i : Nat} {store : Bool} (h : Formed r e.s) :
    Formed r (after (match spillRegs a f store n i e with
      | .through s => .done (s.updHoist e.h.src fun h => h.setXprog 0)
      | .stopped i x => e.spillStopped a f c i store x)) := by
  have hg := formed_spillRegs (a := a) (f := f) (store := store) (n := n) (i := i) h
  generalize spillRegs a f store n i e = x at hg
  cases x with
  | through s => exact Formed.same hg
  | stopped i x => exact Formed.spillStopped hg

theorem Formed.spillFill {f c : Nat} {n : BitVec 4} {store : Bool} (h : Formed r e.s) :
    Formed r (after (e.spillFill f c n store)) := by
  unfold Env.spillFill
  extract_lets a bytes lo range ranges e' start go
  have he : Formed r e'.s := h.settle
  have hg : Formed r (after (go e')) := by
    dsimp only [go]
    exact Formed.spillGo he
  refine formed_after_ite h (formed_after_ite h.windowPerm (formed_after_ite h (formed_after_ite he (formed_after_ite he ?_))))
  exact formed_after_ite (formed_after_ite he (he.withRoom hg)) hg

theorem okOf_ok {α : Type} {p : α → Prop} {x : Act α} {y : α} (h : OkOf p x) (hx : x = .ok y) : p y := by
  cases h with
  | ok h =>
    cases hx
    exact h
  | _ => cases hx

/-! ### CTXSV and CTXRS -/

theorem answered_ctxsv {d : BitVec 8} {n : BitVec 4} {b : BitVec 8} (h : Formed r s) : Answered r (execCtxsv d n b s) := by
  refine answered_runWord (fun r e h => ?_) h
  extract_lets v a pos
  refine formed_after_ite h (formed_after_ite h.windowPerm (formed_after_ite h ?_))
  split
  · exact h.same
  next blk _ =>
    extract_lets e' e''
    have he : Formed r e''.s := Formed.settleIf (e := e') h.same
    clear_value e''
    split
    · exact he.same
    next blk _ =>
      refine formed_after_ite he ?_
      extract_lets bytes total
      refine formed_after_ite ?_ (formed_after_ite he.same ?_)
      · exact Formed.same (Formed.faultCtx (s := e''.s.resumeBlock blk.id) he.same)
      · split
        next hu =>
          have hu := Formed.of_snd (lasting.range _ _ _ _ _ _ he) hu
          exact Formed.rangeRes (Formed.ite hu hu.same)
        next rs v hv =>
          have hv := Formed.of_snd (lasting.range _ _ _ _ _ _ he) hv
          extract_lets w x
          have hx : Formed r x := Formed.same (lasting.writeRuns _ _ _ hv)
          exact Formed.same (s := x.removeBlock blk.id) hx.removeBlock

theorem Formed.frameAt {pos : Int} {k : State → List Byte → Res} (h : Formed r e.s)
    (hk : ∀ s bs, Formed r s → Formed r (after (k s bs))) : Formed r (after (e.frameAt a pos k)) := by
  unfold Env.frameAt
  refine h.reachSpan fun s rs hs => ?_
  split
  · exact lasting.loseHoist _ _ _ hs
  · dsimp only
    refine formed_after_ite (hk _ _ hs) (formed_after_ite hs (Formed.reachSpan (e := e.at s) hs fun s rs hs => ?_))
    split
    · exact lasting.loseHoist _ _ _ hs
    · exact hk _ _ hs

theorem answered_ctxrs {d : BitVec 8} {n : BitVec 4} (h : Formed r s) : Answered r (execCtxrs d n s) := by
  refine answered_runWord (fun r e h => ?_) h
  extract_lets a pos status
  refine h.inOrder fun e h => h.frameAt fun s bs h => ?_
  extract_lets x core
  split
  · exact h.same
  next c _ =>
    refine formed_after_ite h ?_
    extract_lets bad
    have hbad {s : State} (h : Formed r s) : Formed r (after (bad s)) := Formed.same (h.faultCtx (ctx := c.id))
    have hb := h.blockOfFrame (core := core) (c := c) (va := a.address pos) (x := x) (b := bs)
    split
    next hs => exact hbad (okOf_ok (p := fun y => Formed r y.2) hb hs)
    next b y s hs =>
      have hs : Formed r s := okOf_ok (p := fun y => Formed r y.2) hb hs
      have hr := hs.restoreBlock (core := core) (b := b) (a := y) (acls := x.acls) (span := b.span) (bs := bs)
      split
      next ht =>
        rw [ht] at hr
        exact Formed.same hr
      · exact hs.same
      · exact hbad hs
    · exact hbad h
    · exact lasting.reach _ _ _ _ _ h
    · exact h

/-! ### Copies -/

theorem Formed.startCopy {j : CopyJob} (h : Formed r e.s) : Formed r (after (e.startCopy j)) := by
  unfold Env.startCopy
  refine formed_after_ite h.windowPerm (formed_after_ite h.windowPerm ?_)
  split
  · exact h.windowPerm
  · refine formed_after_ite h ?_
    split
    · exact h
    · extract_lets e'
      have he : Formed r e'.s := h.settleIf
      exact formed_after_ite he (formed_after_ite he (he.ownLines fun _ h => h.same))

theorem answered_cpy {d src c q : BitVec 4} {b : BitVec 8} (h : Formed r s) : Answered r (execCpy d src c q b s) := by
  refine answered_runWord (fun r e h => ?_) h
  extract_lets a pos
  refine formed_after_ite h (h.inOrder fun e h => h.reachSpan fun s rs hs => ?_)
  split
  · exact lasting.loseHoist _ _ _ hs
  · exact formed_after_ite hs (formed_after_ite hs (Formed.startCopy (e := e.at s) hs))

theorem answered_cpys {d src : BitVec 4} {a b : BitVec 8} (h : Formed r s) : Answered r (execCpys d src a b s) :=
  answered_runWord (fun _ _ h => formed_after_ite h h.startCopy) h

theorem answered_waitb {a : BitVec 8} (h : Formed r s) : Answered r (execWaitb a s) := by
  refine answered_runWord (fun r e h => h.reportCopies ?_) h
  extract_lets p e'
  have he : Formed r e'.s := h.settleIf
  exact formed_after_ite he (he.reportCopies (formed_after_ite he he))

end

end Sys2Proof.Proofs.Forming

/-!
PROOFS. What cube words and queue words keep (15_cube.md R276–R299, 09_memory.md R203–R212).
-/

namespace Sys2Proof.Proofs.Forming

open Sys2Proof Sys2Proof.Machine Sys2Proof.Claims Sys2Proof.Laws Sys2Proof.Proofs.Keeping

-- One declaration after another: at once, each would wait in a thread of its own for the ones before it.
set_option Elab.async false

section
variable {r s : State} {e : Env} {a : AReg}

/-! ### The cube -/

theorem answered_slcl {d a : BitVec 8} (h : Formed r s) : Answered r (execSlcl d a s) := by
  refine answered_runWord (fun r e h => ?_) h
  split
  · exact h
  next n _ =>
    extract_lets e'
    have he : Formed r e'.s := h.settleIf
    refine formed_after_ite he (formed_after_ite he (formed_after_ite he.same ?_))
    split <;> exact he.same

theorem answered_slrl {a : BitVec 8} (h : Formed r s) : Answered r (execSlrl a s) := by
  refine answered_runWord (fun r e h => ?_) h
  split
  · exact h
  · exact formed_after_ite h (formed_after_ite h.same h.same)

theorem answered_slz {a : BitVec 8} (h : Formed r s) : Answered r (execSlz a s) := by
  refine answered_runWord (fun r e h => ?_) h
  split
  · exact h
  next n _ =>
    extract_lets e'
    have he : Formed r e'.s := h.settleIf
    exact formed_after_ite h (formed_after_ite he (formed_after_ite he he.same))

theorem Formed.slotMove {sl : BitVec 8} {n : BitVec 4} {b : BitVec 8} {need : Nat} {k : Nat → Nat → Int → Res} (h : Formed r e.s)
    (hk : ∀ n m i, Formed r (after (k n m i))) : Formed r (after (e.slotMove sl n b need k)) := by
  unfold Env.slotMove
  dsimp only
  split
  · exact h
  · exact formed_after_ite h (formed_after_ite h.windowPerm (formed_after_ite h (hk _ _ _)))

theorem answered_slld {sl : BitVec 8} {n : BitVec 4} {b : BitVec 8} (h : Formed r s) : Answered r (execSlld sl n b s) :=
  answered_runWord (fun _ _ h => h.slotMove fun _ _ _ => h.same) h

theorem answered_slst {sl : BitVec 8} {n : BitVec 4} {b : BitVec 8} (h : Formed r s) : Answered r (execSlst sl n b s) :=
  answered_runWord (fun _ _ h => formed_after_ite h (h.slotMove fun _ _ _ => h.ownLines fun _ h => h.inFlight)) h

theorem answered_mxc {t p f : BitVec 8} (h : Formed r s) : Answered r (execMxc t p f s) := by
  refine answered_runWord (fun r e h => ?_) h
  dsimp only
  refine formed_after_ite h (formed_after_ite h (h.inOrder fun e h => ?_))
  refine formed_after_ite (lasting.loseHoist _ _ _ h) (formed_after_ite h (formed_after_ite h (formed_after_ite h ?_)))
  exact h.reloadTable.inFlight

theorem Formed.tileMove {d a b : BitVec 8} {k : Nat → Nat → Nat → List (Nat × Nat) → Res} (h : Formed r e.s)
    (hk : ∀ n m i xs, Formed r (after (k n m i xs))) : Formed r (after (e.tileMove d a b k)) := by
  unfold Env.tileMove
  exact formed_after_ite h (formed_after_ite h (hk _ _ _ _))

theorem answered_mxrd {d a b : BitVec 8} (h : Formed r s) : Answered r (execMxrd d a b s) :=
  answered_runWord (fun _ _ h => h.tileMove fun _ _ _ _ => h.inFlight) h

theorem answered_mxwr {d a b : BitVec 8} (h : Formed r s) : Answered r (execMxwr d a b s) :=
  answered_runWord (fun _ _ h => h.tileMove fun _ _ _ _ => h.same) h

theorem answered_cbld {n : BitVec 4} {b : BitVec 8} (h : Formed r s) : Answered r (execCbld n b s) := by
  refine answered_runWord (fun r e h => ?_) h
  extract_lets a pos
  refine h.inOrder fun e h => h.reachSpan fun s rs hs => ?_
  split
  · exact lasting.loseHoist _ _ _ hs
  · exact hs.same

/-! ### Queues -/

theorem Formed.queueFault {f : RangeFault} {kind : Nat} (h : Formed r s) : Formed r (after (e.queueFault f kind s)) := by
  unfold Env.queueFault
  exact formed_after_ite (lasting.loseHoist _ _ _ h) h.rangeRes

theorem Formed.queueParts {p : QueuePlace} {wants : Nat → Nat → List (Nat × Nat)} (h : Formed r s) :
    Formed r (s.queueParts p wants).2 := by
  unfold State.queueParts
  split
  next hu => exact Formed.of_snd (lasting.queueEnds _ h) hu
  next hu => exact Formed.of_snd (lasting.queueEnds _ h) hu

theorem Formed.queueReached {p : QueuePlace} {use : PageUse} {wants : Nat → Nat → List (Nat × Nat)} (h : Formed r e.s) :
    Formed r (e.queueReached p use wants).2 := by
  unfold Env.queueReached
  split
  next hu => exact Formed.of_snd h.queueParts hu
  next hu => exact lasting.queueReach _ _ _ (Formed.of_snd h.queueParts hu)

theorem Formed.queueChecks {w : BitVec 64} {regs : QueueWord → Bool} {need : Bool → List Nat} {use : PageUse}
    {wants : QueueWord → Nat → Nat → List (Nat × Nat)} {k : Env → QueueUse → Res} (h : Formed r e.s)
    (hk : ∀ e u, Formed r e.s → Formed r (after (k e u))) : Formed r (after (e.queueChecks a w regs need use wants k)) := by
  unfold Env.queueChecks
  dsimp only
  refine formed_after_ite h (formed_after_ite h.windowPerm (formed_after_ite h (h.inOrder fun e h => formed_after_ite (hk _ _ h) ?_)))
  split
  next hu => exact formed_after_ite h (Formed.of_snd h.queueReached hu).queueFault
  next hu =>
    have hu := Formed.of_snd h.queueReached hu
    exact formed_after_ite h (hk _ _ hu)

theorem Formed.queueWait {u : QueueUse} (h : Formed r s) : Formed r (after (e.queueWait u s)) := by
  unfold Env.queueWait
  split
  · exact h.monitor
  · exact h

theorem Formed.queueDo {u : QueueUse} {park : Bool} {push : Option (List (List Byte))} {lanes : List Nat} {f : Nat} {share : Bool}
    {ssig : BitVec 64} (h : Formed r e.s) : Formed r (after (e.queueDo u park push lanes f share ssig)) := by
  unfold Env.queueDo
  extract_lets n finish
  have hf (k : Nat) (elems : List (List Word)) {s : State} (h : Formed r s) : Formed r (after (finish k elems s)) := by
    refine formed_after_ite h.queueWait ?_
    extract_lets s1 s2 bad s3
    have h3 : Formed r s3 := Formed.same (s := s2) (Formed.ite (s := e.forward _ s1) h.same h.same)
    refine formed_after_ite h3 ?_
    have hk : Formed r (s3.killLanes e.h.src (bad.map fun l => (l, u.header.toNat)) e.namedData) := lasting.killLanes _ _ _ h3
    exact formed_after_ite hk hk
  split
  · split
    next ht => exact hf _ _ (lasting.queuePush ht h)
    · exact h.queueFault
  · split
    next ht => exact hf _ _ (lasting.queuePop ht h)
    · exact h.queueFault

theorem Formed.queueTake {u : QueueUse} {i : Instr} {lanes : List Nat} {f : Nat} {ssig : BitVec 64} (h : Formed r e.s) :
    Formed r (after (e.queueTake u i lanes f ssig)) := by
  unfold Env.queueTake
  split
  · exact h
  · exact h.same

theorem Formed.queueOp {i : Instr} {f : Nat} {park : Bool} {w : BitVec 64} {isPush : Bool} (h : Formed r e.s) :
    Formed r (after (e.queueOp i f park a w isPush)) := by
  unfold Env.queueOp
  refine h.queueChecks fun e u h => ?_
  dsimp only
  exact formed_after_ite h.queueDo (h.release fun _ => formed_after_ite (formed_after_ite h.queueDo h) h.queueTake)

theorem answered_qcfg {a b : BitVec 8} (h : Formed r s) : Answered r (execQcfg a b s) := by
  refine answered_runWord (fun r e h => h.queueChecks fun e u h => h.withRoom (h.reachSpan fun s rs hs => ?_)) h
  exact hs.writeSpan

end

end Sys2Proof.Proofs.Forming

/-!
PROOFS. What atomics, releases, acquires, fences and MWAIT keep (11_ordering.md R213–R247).
-/

namespace Sys2Proof.Proofs.Forming

open Sys2Proof Sys2Proof.Machine Sys2Proof.Claims Sys2Proof.Laws Sys2Proof.Proofs.Keeping

-- One declaration after another: at once, each would wait in a thread of its own for the ones before it.
set_option Elab.async false

section
variable {r s : State} {e : Env} {a : AReg}

/-! ### Holds and releases -/

theorem Formed.endHolds {b : Block} {scope : Nat} (h : Formed r s) : Formed r (s.endHolds b scope) := h.dropHolds

theorem Formed.releaseAt {scope : Nat} {k : Env → Res} {w : Wait} (h : Formed r e.s)
    (hk : ∀ e, Formed r e.s → Formed r (after (k e))) : Formed r (after (e.releaseAt scope k w)) := by
  unfold Env.releaseAt
  exact formed_after_ite (h.inOrder fun e h => formed_after_ite h (hk (e.at _) h.endHolds)) (hk (e.at _) h.endHolds)

theorem Formed.performRelease {scope : Nat} {acc : List Access} {k : Env → Res} (h : Formed r e.s)
    (hk : ∀ e, Formed r e.s → Formed r (after (k e))) : Formed r (after (e.performRelease scope acc k)) := by
  unfold Env.performRelease
  exact formed_after_ite (h.releaseAt hk) (hk _ h)

theorem Formed.scopeLine {scope : Nat} {x : Access} (h : Formed r e.s) : Formed r (e.scopeLine scope x).s := by
  unfold Env.scopeLine
  dsimp only
  split
  · exact h
  · split
    · exact h.dropHolds
    · split
      · exact h.same
      · exact h

theorem Formed.scopeAll {scope : Nat} {xs : List Access} (h : Formed r e.s) :
    Formed r (xs.foldl (fun e x => e.scopeLine scope x) e).s := by
  induction xs generalizing e with
  | nil => exact h
  | cons x xs ih => exact ih h.scopeLine

theorem Formed.scopeLines {scope : Nat} {acc : List Access} {k : Env → Res} (h : Formed r e.s)
    (hk : ∀ e, Formed r e.s → Formed r (after (k e))) : Formed r (after (e.scopeLines scope acc k)) := by
  unfold Env.scopeLines
  extract_lets new p e'
  have he : Formed r e'.s := h.settleIf
  exact formed_after_ite he (formed_after_ite he (hk _ he.scopeAll))

/-! ### Atomics -/

theorem Formed.startAtomic {u : AtomUse} {home : Nat} {lanes : List AtomLane} (h : Formed r e.s) :
    Formed r (after (e.startAtomic u home lanes)) := by
  unfold Env.startAtomic
  extract_lets e1 cs e2 bad go
  have h2 : Formed r e2.s := Formed.settleIf (Formed.settleIf h)
  have hgo (e : Env) (xs : List AtomLane) (h : Formed r e.s) : Formed r (go e xs) := Formed.ite h h.same
  refine formed_after_ite h2 (formed_after_ite h2 (formed_after_ite (hgo _ _ h2) (h2.inOrderAt fun e h => ?_)))
  exact formed_after_ite (hgo _ _ h) (formed_after_ite (lasting.loseHoist _ _ _ (hgo _ _ h)) (lasting.killLanes _ _ _ (hgo _ _ h)))

theorem Formed.commitAtomic {u : AtomUse} {lanes : List AtomLane} {ssig : BitVec 64} (h : Formed r e.s) :
    Formed r (after (e.commitAtomic u lanes ssig)) := by
  unfold Env.commitAtomic
  refine formed_after_ite h ?_
  extract_lets good bad
  split
  next olds v hv =>
    have hv : Formed r v := Formed.of_snd (lasting.performAtomic _ _ _ _ _ h) hv
    extract_lets old v1 v2
    have h2 : Formed r v2 := by
      dsimp only [v2]
      split <;> exact hv.same
    exact formed_after_ite h2 (formed_after_ite (lasting.loseHoist _ _ _ h2) (lasting.killLanes _ _ _ h2))

theorem Formed.takeAtomic {i : Instr} {u : AtomUse} {lanes : List AtomLane} {ssig : BitVec 64} (h : Formed r e.s) :
    Formed r (after (e.takeAtomic i u lanes ssig)) := by
  unfold Env.takeAtomic
  split
  · exact h.same
  · split
    · exact h
    · exact h.same

theorem Formed.atomic {i : Instr} {u : AtomUse} {perLane : Bool} {reqs : List (Nat × Int)} {compare operand : Nat → Nat}
    (h : Formed r e.s) : Formed r (after (e.atomic i u a perLane reqs compare operand)) := by
  unfold Env.atomic
  refine formed_after_ite h (Formed.checked (formed_check h) fun s acc hs => ?_)
  extract_lets e' lanes go
  have hgo {e : Env} {k : Env → Res} (h : Formed r e.s) (hk : ∀ e, Formed r e.s → Formed r (after (k e))) :
      Formed r (after (go e k)) := h.releaseAt fun _ h => h.scopeLines hk
  refine formed_after_ite ?_ (hgo hs fun _ h => h.startAtomic)
  exact Formed.release hs fun _ =>
    formed_after_ite (hgo hs fun _ h => h.inOrderAt fun _ h => h.performRelease fun _ h => h.commitAtomic) (Formed.takeAtomic hs)

/-! ### STREL, LDACQ, FENCE and MWAIT -/

theorem answered_strel {sc : BitVec 2} {d : BitVec 6} {x : BitVec 1} {o : BitVec 6} {n m : BitVec 4} (h : Formed r s) :
    Answered r (execStrel sc d x o n m s) := by
  refine answered_runWord (fun r e h => ?_) h
  extract_lets a k data
  refine Formed.checked (formed_check h) fun s acc hs => ?_
  extract_lets e' ws go
  have hgo {e : Env} {k : Env → Res} (h : Formed r e.s) (hk : ∀ e, Formed r e.s → Formed r (after (k e))) :
      Formed r (after (go e k)) := h.releaseAt fun _ h => h.scopeLines hk
  have he : Formed r e'.s := hs
  refine formed_after_ite ?_ (hgo he fun _ h => h.inFlight)
  refine he.release fun leads => ?_
  cases leads with
  | true =>
    refine hgo he fun e h => h.inOrderAt fun e h => ?_
    rw [if_pos rfl]
    refine h.performRelease fun e h => ?_
    exact Formed.same (lasting.unpoison _ (Formed.foldl (h.foldl fun _ _ h => lasting.writeScratch _ _ _ h)
      fun _ _ h => lasting.writeShared _ _ _ _ h))
  | false => exact he.inOrderAt fun e h => Formed.same (h.foldl fun _ _ h => lasting.writeScratch _ _ _ h)

theorem answered_ldacq {sc : BitVec 2} {d : BitVec 6} {x : BitVec 1} {o : BitVec 6} {n m : BitVec 4} (h : Formed r s) :
    Answered r (execLdacq sc d x o n m s) :=
  answered_runWord (fun _ _ h => Formed.checked (formed_check h) fun s _ hs => Formed.scopeLines (e := Env.at _ s) hs fun _ h =>
    h.startLoad) h

theorem answered_fence {k sc : BitVec 2} (h : Formed r s) : Answered r (execFence k sc s) :=
  answered_runWord (fun _ _ h => h.fpxFirst fun _ h => formed_after_ite h (h.release fun _ => h.inOrder fun _ h =>
    h.releaseAt fun _ h => h)) h

theorem Formed.mwaitDone {t : Target} {vals : List (Nat × List Byte)} (h : Formed r s) : Formed r (e.mwaitDone t vals s) := h.same

theorem Formed.mwaitEval {t : Target} {cc n : Nat} {share : Bool} {acc : List Access} (h : Formed r e.s) :
    Formed r (after (e.mwaitEval t cc n share acc)) := by
  unfold Env.mwaitEval
  split
  next good bad _ =>
    extract_lets u e' d want got fails vals v
    have he : Formed r e'.s := by
      dsimp only [e', u]
      split
      · exact h
      · exact lasting.killLanes _ _ _ h
    have hv : Formed r v := Formed.ite he.same he
    exact formed_after_ite he (formed_after_ite (formed_after_ite he hv.mwaitDone) (formed_after_ite he he.monitor))

theorem answered_mwait {sc : BitVec 2} {d : BitVec 6} {x : BitVec 1} {o : BitVec 6} {n : BitVec 4} {z : BitVec 1} {c : BitVec 3}
    (h : Formed r s) : Answered r (execMwait sc d x o n z c s) := by
  refine answered_runWord (fun r e h => ?_) h
  extract_lets a k t
  refine Formed.checked (formed_check h) fun s acc hs => Formed.inOrderAt (e := e.at s) hs fun e h => ?_
  have hbody {e : Env} (h : Formed r e.s) : Formed r (after (
      if e.follows && !a.has permSCR then
        match e.received (.mwait sc d x o n z c) with
        | none => .wait .retry e.s
        | some ws =>
          .done ((e.s.updHoist e.h.src fun h => h.deliver t (unflatten t.count (acc.map (·.lane)) ws)).updHoist e.h.src fun h =>
            h.consume (.mwait sc d x o n z c))
      else e.mwaitEval t c.toNat k (e.leads && !a.has permSCR) acc)) := by
    refine formed_after_ite ?_ h.mwaitEval
    split
    · exact h
    · exact h.same
  split
  · exact hbody h
  · exact h.scopeLines fun _ h => hbody h

end

end Sys2Proof.Proofs.Forming

/-!
PROOFS. What system words keep (17_scheduling.md R305–R313, 19_faults.md R339, 09_memory.md R187, 27_host.md R432, 25_docking.md R416,
03_encoding.md R79).
-/

namespace Sys2Proof.Proofs.Forming

open Sys2Proof Sys2Proof.Machine Sys2Proof.Claims Sys2Proof.Laws Sys2Proof.Proofs.Keeping

-- One declaration after another: at once, each would wait in a thread of its own for the ones before it.
set_option Elab.async false

section
variable {r s t : State} {e : Env} {c : Ctx}

/-- TLBs that lose entries. -/
theorem Formed.filterTlbs {p : TlbEntry → Bool} (h : Formed r s) (hm : t.mem = s.mem := by rfl)
    (hc : t.coreTlb = s.coreTlb.map fun x => (x.1, x.2.filter p) := by rfl)
    (hl : t.clusterTlb = s.clusterTlb.map fun x => (x.1, x.2.filter p) := by rfl) : Formed r t :=
  h.trans ⟨fun w => by rw [Canonical, hm]; exact w,
    knownFrom_map (f := fun es => es.filter p) (fun _ e he => ⟨e, (List.mem_filter.1 he).1, rfl⟩) hc hl⟩

theorem Formed.invalidateAll {u : TlbiUse} {es : List TlbEntry} (h : Formed r s) : Formed r (s.invalidateAll u es) := by
  unfold State.invalidateAll
  exact (Formed.dropHolds (Formed.filterTlbs h)).wakeWhere

theorem Formed.invalidate {u : TlbiUse} (h : Formed r s) : Formed r (s.invalidate u) := h.invalidateAll

/-! ### Control registers -/

theorem answered_srd {d : BitVec 8} {n : BitVec 16} (h : Formed r s) : Answered r (execSrd d n s) := by
  refine answered_runWord (fun r e h => ?_) h
  split
  next free u hu =>
    have hu := Formed.of_snd (x := if (e.reaches || n == 0x20) = true then (0, e.s) else e.s.free)
      (by
        split
        · exact h
        · exact h.same) hu
    exact hu.same

theorem Formed.putDesc {off : Nat} {bs : List Byte} (h : Formed r s) : Formed r (s.putDesc c off bs) := h.agentWrite

theorem Formed.putCtl {lo n v : Nat} (h : Formed r s) : Formed r (s.putCtl c lo n v) := by
  unfold State.putCtl
  exact h.putDesc

theorem Formed.putTable {off : Nat} {va : VAddr} (h : Formed r s) : Formed r (s.putTable c off va) := h.putDesc

theorem Formed.writeMask {m : BitVec 192} (h : Formed r s) : Formed r (s.writeMask c m) := h.putDesc.commitMask

theorem Formed.crWrite {n : Nat} {v : Word} (h : Formed r e.s) : Formed r (e.crWrite n v) := by
  unfold Env.crWrite
  dsimp only
  refine Formed.ite h.same (Formed.ite h.same (Formed.ite h ?_))
  split
  · exact h.putCtl.same
  · exact h.putCtl.same
  · exact h.putCtl.same
  · exact h.putCtl.same
  · exact h.putTable.same
  · exact h.putTable.same
  · exact h.putTable.same
  · exact h.putTable.same
  · exact h.writeMask
  · exact Formed.ite h.requestGeneration h
  · exact h

theorem answered_swr {a : BitVec 8} {n : BitVec 16} (h : Formed r s) : Answered r (execSwr a n s) :=
  answered_runWord (fun _ _ h => formed_after_ite h h.crWrite) h

/-! ### Returns, checkpoints and TLBI -/

theorem answered_tret (h : Formed r s) : Answered r (execTret s) := by
  refine answered_runWord (fun r e h => ?_) h
  extract_lets a pos
  refine h.inOrder fun e h => h.reachSpan fun s rs hs => ?_
  split
  · exact lasting.loseHoist _ _ _ hs
  · exact formed_after_ite hs.same hs

theorem answered_ckpt (h : Formed r s) : Answered r (execCkpt s) := by
  refine answered_runWord (fun r e h => h.release fun leads => formed_after_ite h ?_) h
  split
  · exact h
  · exact formed_after_ite h.requestGeneration h

theorem answered_tlbi {x : BitVec 1} {m : BitVec 3} {a b : BitVec 8} (h : Formed r s) : Answered r (execTlbi x m a b s) := by
  refine answered_runWord (fun r e h => ?_) h
  extract_lets n u p e'
  have he : Formed r e'.s := h.settleIf
  refine formed_after_ite h ?_
  exact formed_after_ite he (formed_after_ite he he.invalidate)

/-! ### Signals and emulated opcodes -/

theorem Formed.signal {src ctx vector : Nat} {payload : Word} (h : Formed r s) : Formed r (s.signal src ctx vector payload) := by
  unfold State.signal
  exact Formed.raiseMsi (Formed.ite h (lasting.ringAppend _ _ _ h))

theorem answered_hostsig {a b : BitVec 8} (h : Formed r s) : Answered r (execHostsig a b s) := by
  refine answered_runWord (fun r e h => ?_) h
  extract_lets v payload
  refine formed_after_ite h (h.release fun leads => h.releaseAt fun e h => ?_)
  exact formed_after_ite h (formed_after_ite (formed_after_ite h.same h) (formed_after_ite h.signal h))

theorem Formed.emulate {o : Nat} (h : Formed r e.s) : Formed r (after (e.emulate o)) := by
  unfold Env.emulate
  extract_lets va
  refine formed_after_ite h ?_
  split
  next hu => exact (Formed.of_snd (lasting.range _ _ _ _ _ _ h) hu).rangeRes
  next hu =>
    have hu := Formed.of_snd (lasting.range _ _ _ _ _ _ h) hu
    exact formed_after_ite (lasting.loseHoist _ _ _ hu) (formed_after_ite hu hu)

theorem answered_emul {o : BitVec 3} {x : BitVec 24} (h : Formed r s) : Answered r (execEmul o x s) :=
  answered_runWord (fun _ _ h => h.inOrder fun _ h => h.emulate) h

end

end Sys2Proof.Proofs.Forming

/-!
PROOFS. What layer words and beam words keep (23_rendering.md R388–R409).
-/

namespace Sys2Proof.Proofs.Forming

open Sys2Proof Sys2Proof.Machine Sys2Proof.Claims Sys2Proof.Laws Sys2Proof.Proofs.Keeping

-- One declaration after another: at once, each would wait in a thread of its own for the ones before it.
set_option Elab.async false

section
variable {r s t : State} {e : Env} {a : AReg} {use : PageUse} {rt : Rights} {va : VAddr} {n m : Nat} {b bs : List Byte} {u : Target3}

/-! ### Reads and writes of a step -/

theorem Formed.vget (h : Formed r s) (ht : e.vget use rt va n s = .ok (b, t)) : Formed r t := by
  unfold Env.vget at ht
  split at ht
  next hu =>
    split at ht
    · cases ht
    · cases ht
      exact Formed.of_snd (lasting.range _ _ _ _ _ _ h) hu
  · cases ht

theorem Formed.vput (h : Formed r s) (ht : e.vput use rt va bs s = .ok t) : Formed r t := by
  unfold Env.vput at ht
  split at ht
  next hu =>
    cases ht
    exact (Formed.of_snd (lasting.range _ _ _ _ _ _ h) hu).storeRuns
  · cases ht

theorem Formed.asks (h : Formed r s) : Formed r (e.asks va s) := by
  unfold Env.asks
  split
  next hu => exact Formed.of_snd (lasting.reach _ _ _ _ _ h) hu
  next hu => exact lasting.reach _ _ _ _ _ (Formed.of_snd (lasting.reach _ _ _ _ _ h) hu)

theorem Formed.structFault {f : RangeFault} {lanes : Mask} (h : Formed r s) : Formed r (after (e.structFault f lanes s)) := by
  unfold Env.structFault
  exact formed_after_ite (lasting.loseHoist _ _ _ h) (formed_after_ite h.asks
    (formed_after_ite h.awaitToken (formed_after_ite h h)))

theorem Formed.layerNodeAddr (h : Formed r s) (ht : e.nodeAddr u n s = .ok (va, t)) : Formed r t := by
  unfold Env.nodeAddr at ht
  split at ht
  next hu =>
    cases ht
    exact h.vget hu
  · cases ht

theorem Formed.getNode (h : Formed r s) (ht : e.getNode use u n s = .ok (b, t)) : Formed r t := by
  unfold Env.getNode at ht
  split at ht
  next hu => exact (h.layerNodeAddr hu).vget ht
  · cases ht

theorem Formed.nodeWrites {xs : List (Nat × List Byte)} {ws : List StepWrite} (h : Formed r s)
    (ht : e.nodeWrites u xs s = .ok (ws, t)) : Formed r t := by
  induction xs generalizing s t ws with
  | nil =>
    cases ht
    exact h
  | cons x xs ih =>
    rw [Env.nodeWrites] at ht
    split at ht
    · cases ht
    next hu =>
      split at ht
      · cases ht
      next hv =>
        cases ht
        exact ih (h.layerNodeAddr hu) hv

theorem Formed.reachWrites {ws : List StepWrite} (h : Formed r s) (ht : e.reachWrites ws s = .ok t) : Formed r t := by
  induction ws generalizing s with
  | nil =>
    cases ht
    exact h
  | cons w ws ih =>
    rw [Env.reachWrites] at ht
    split at ht
    next hu => exact ih (Formed.of_snd (lasting.range _ _ _ _ _ _ h) hu) ht
    · cases ht

theorem Formed.doWrites {ws : List StepWrite} (h : Formed r s) (ht : e.doWrites ws s = .ok t) : Formed r t := by
  induction ws generalizing s with
  | nil =>
    cases ht
    exact h
  | cons w ws ih =>
    rw [Env.doWrites] at ht
    split at ht
    next hu => exact ih (h.vput hu) ht
    · cases ht

theorem Formed.commitStep {ws : List StepWrite} (h : Formed r s) (ht : e.commitStep ws s = .ok t) : Formed r t := by
  unfold Env.commitStep at ht
  split at ht
  next hu => exact (h.reachWrites hu).doWrites ht
  · cases ht

theorem Formed.freeWrites {xs : List (Nat × List Byte)} {ws : List StepWrite} (h : Formed r s)
    (ht : e.freeWrites u xs s = .ok (ws, t)) : Formed r t := by
  unfold Env.freeWrites at ht
  split at ht
  · cases ht
    exact h
  · split at ht
    · cases ht
    next hu =>
      dsimp only at ht
      split at ht
      · cases ht
      next hv =>
        cases ht
        exact Formed.nodeWrites (h.vget hu) hv

theorem Formed.getNodes {ns : List Nat} {xs : List (Nat × List Byte)} (h : Formed r s) (ht : e.getNodes u ns s = .ok (xs, t)) :
    Formed r t := by
  induction ns generalizing s t xs with
  | nil =>
    cases ht
    exact h
  | cons n ns ih =>
    rw [Env.getNodes] at ht
    split at ht
    · cases ht
    next hu =>
      split at ht
      · cases ht
      next hv =>
        cases ht
        exact ih (h.getNode hu) hv

theorem Formed.returnNodes {ns : List Nat} (h : Formed r s) : Formed r (e.returnNodes u ns s) := by
  unfold Env.returnNodes
  split
  · exact h
  next hu =>
    split
    · exact h
    next hv =>
      split
      next ht => exact ((h.getNodes hu).freeWrites hv).commitStep ht
      · exact h

theorem Formed.freeList {ns : List Nat} {k : Nat} (h : Formed r s) (ht : e.freeList u m n s = .ok (ns, k, t)) : Formed r t := by
  induction m generalizing s t n ns k with
  | zero =>
    cases ht
    exact h
  | succ m ih =>
    rw [Env.freeList] at ht
    split at ht
    · cases ht
    next hu =>
      split at ht
      · cases ht
      next hv =>
        cases ht
        exact ih (h.getNode hu) hv

theorem Formed.pixelList {xs : List (Nat × List Byte)} (h : Formed r s) (ht : e.pixelList u m n s = .ok (xs, t)) : Formed r t := by
  induction m generalizing s t n xs with
  | zero =>
    cases ht
    exact h
  | succ m ih =>
    rw [Env.pixelList] at ht
    split at ht
    · cases ht
      exact h
    · split at ht
      · cases ht
      next hu =>
        split at ht
        · cases ht
        next hv =>
          cases ht
          exact ih (h.getNode hu) hv

theorem Formed.getPixel {x y : Nat} {full : Bool} {xs : List (Nat × List Byte)} (h : Formed r s)
    (ht : e.getPixel u x y s = .ok (full, xs, t)) : Formed r t := by
  unfold Env.getPixel at ht
  split at ht
  · cases ht
  next hu =>
    dsimp only at ht
    split at ht
    · cases ht
    next hv =>
      cases ht
      exact (h.vget hu).pixelList hv

theorem Formed.finsStep {x y : Nat} {new : Nat × List Byte} (h : Formed r s) (ht : e.finsStep u x y new s = .ok t) : Formed r t := by
  unfold Env.finsStep at ht
  split at ht
  · cases ht
  next hu =>
    dsimp only at ht
    split at ht
    · cases ht
    next hv =>
      split at ht
      · cases ht
      next hw => exact (((h.getPixel hu).nodeWrites hv).freeWrites hw).commitStep ht

theorem Formed.clearPixel {x y : Nat} {xs : List (Nat × List Byte)} {first : List StepWrite} (h : Formed r s)
    (ht : e.clearPixel u x y xs first s = .ok t) : Formed r t := by
  unfold Env.clearPixel at ht
  split at ht
  · cases ht
  next hu => exact (h.freeWrites hu).commitStep ht

theorem Formed.fclrStep {x y : Nat} (h : Formed r s) (ht : e.fclrStep u x y s = .ok t) : Formed r t := by
  unfold Env.fclrStep at ht
  split at ht
  · cases ht
  next hu => exact (h.getPixel hu).clearPixel ht

theorem Formed.fresStep {x y : Nat} (h : Formed r s) (ht : e.fresStep u va rt x y b s = .ok t) : Formed r t := by
  unfold Env.fresStep at ht
  split at ht
  · cases ht
  next hu => exact (h.getPixel hu).clearPixel ht

theorem Formed.runSteps {f : Nat → State → Except RangeFault State} {ls : List Nat} {i : Nat}
    (hf : ∀ l s t, Formed r s → f l s = .ok t → Formed r t) (h : Formed r s) : Formed r (runSteps f ls i s).2 := by
  induction ls generalizing s i with
  | nil => exact h
  | cons l ls ih =>
    rw [Machine.runSteps]
    split
    next hu => exact ih (hf _ _ _ h hu)
    · exact h

end

end Sys2Proof.Proofs.Forming

/-!
PROOFS. What FINS, FRES, FCLR, FCFG, BEAM and GATE keep (23_rendering.md R388–R409, 17_scheduling.md R313).
-/

namespace Sys2Proof.Proofs.Forming

open Sys2Proof Sys2Proof.Machine Sys2Proof.Claims Sys2Proof.Laws Sys2Proof.Proofs.Keeping

-- One declaration after another: at once, each would wait in a thread of its own for the ones before it.
set_option Elab.async false

section
variable {r s t : State} {e : Env} {a : AReg} {u : Target3}

/-! ### The checks of a layer word -/

theorem Formed.readTarget {pos : Int} {k : State → Option Runs → Res} (h : Formed r e.s)
    (hk : ∀ s rs, Formed r s → Formed r (after (k s rs))) : Formed r (after (e.readTarget a pos k)) := by
  have hs : Formed r (after ({ e with g := { e.g with refused := false } }.reachSpan a [permR] .load 256 64 pos k)) :=
    Formed.reachSpan (e := { e with g := _ }) h hk
  unfold Env.readTarget
  split
  · exact formed_after_ite h hs
  · exact hs

theorem Formed.layered {v : Nat} {out : Option AReg} {k : Env → Target3 → List Byte → Res} (h : Formed r e.s)
    (hk : ∀ e u b, Formed r e.s → Formed r (after (k e u b))) : Formed r (after (e.layered v a out k)) := by
  unfold Env.layered
  extract_lets pos barred
  clear_value barred
  cases barred with
  | some w => exact h.windowPerm
  | none =>
    refine formed_after_ite h (h.inOrder fun e h => h.readTarget fun s rs hs => ?_)
    split
    · exact lasting.loseHoist _ _ _ hs
    · extract_lets e' pool poolBytes t outside xs
      refine formed_after_ite hs (formed_after_ite hs (formed_after_ite hs ?_))
      split
      · exact Formed.awaitToken hs
      · exact hs
      · have hp (b : List Byte) (s : State) (hp : pool = .ok (b, s)) : Formed r s := Formed.vget hs hp
        clear_value pool
        split
        · exact Formed.asks hs
        · exact Formed.structFault hs
        next hu =>
          have hs := hp _ _ rfl
          split
          · exact hs
          · exact hk (e'.at _) _ _ hs

/-! ### Steps -/

theorem Formed.progress {i : Nat} (h : Formed r s) : Formed r (e.progress i s) := h.same

theorem Formed.endSteps {lanes : List Nat} {x : Option (Nat × RangeFault)} {outs : List VAddr} (h : Formed r s) :
    Formed r (after (e.endSteps lanes x s outs)) := by
  unfold Env.endSteps
  split
  · exact h.progress
  · exact formed_after_ite (Formed.structFault h.same) h.progress.structFault

theorem Formed.finsSteps {v i : Nat} {ls ns : List Nat} (h : Formed r s) : Formed r (e.finsSteps v u ls i ns s).2.2 := by
  induction ls generalizing s i ns with
  | nil => exact h
  | cons l ls ih =>
    rw [Env.finsSteps]
    split
    · exact ih h
    · dsimp only
      split
      next hu => exact ih (h.finsStep hu)
      · exact h

theorem answered_fins {v : BitVec 8} {n : BitVec 4} (h : Formed r s) : Answered r (execFins v n s) := by
  refine answered_runWord (fun r e h => h.layered fun e u b h => ?_) h
  extract_lets lanes k left m
  split
  refine formed_after_ite h.progress ?_
  extract_lets reserve
  have hr (ns : List Nat) (s : State) (hs : reserve = .ok (ns, s)) : Formed r s := by
    dsimp only [reserve] at hs
    split at hs
    · cases hs
    next hu =>
      split at hs
      · cases hs
      next hv =>
        cases hs
        exact (h.freeList hu).commitStep hv
  clear_value reserve
  split
  · exact h.endSteps
  next ns s =>
    have hf := (hr ns s rfl).finsSteps (e := e) (u := u) (v := v.toNat) (i := k) (ls := left) (ns := ns)
    split
    next hu =>
      rw [hu] at hf
      exact Formed.endSteps hf
    next hu =>
      rw [hu] at hf
      exact Formed.endSteps (Formed.returnNodes hf)

theorem Formed.disown (h : Formed r e.s) : Formed r e.disown.s := by
  unfold Env.disown
  split
  · exact h
  · exact h.same

theorem answered_fres {v : BitVec 8} {o n : BitVec 4} (h : Formed r s) : Answered r (execFres v o n s) := by
  refine answered_runWord (fun r e h => Formed.layered h.disown fun e u b h => ?_) h
  extract_lets lanes out outs
  refine h.inOrder fun e h => ?_
  extract_lets k runs
  refine formed_after_ite h ?_
  exact Formed.endSteps (h.runSteps fun l s t h ht => h.fresStep ht)

theorem answered_fclr {v : BitVec 8} {n : BitVec 4} (h : Formed r s) : Answered r (execFclr v n s) :=
  answered_runWord (fun _ _ h => h.layered fun _ _ _ h => Formed.endSteps (Formed.runSteps (fun _ _ _ h ht => h.fclrStep ht) h)) h

/-! ### FCFG -/

theorem Formed.vputAll {ws : List (Rights × VAddr × List Byte)} (h : Formed r s) : Formed r (after (e.vputAll ws s)) := by
  unfold Env.vputAll
  split
  · exact h.structFault
  · refine h.foldl fun s w h => ?_
    split
    next hu => exact Formed.same (h.vput hu)
    · exact h

theorem Formed.configure {ws : List (Rights × VAddr × List Byte)} (h : Formed r e.s) : Formed r (after (e.configure ws)) := by
  unfold Env.configure
  exact formed_after_ite h (h.withRoom h.vputAll)

theorem Formed.descriptor {va : VAddr} {k : Env → List Byte → Res} (h : Formed r e.s)
    (hk : ∀ e b, Formed r e.s → Formed r (after (k e b))) : Formed r (after (e.descriptor va k)) := by
  unfold Env.descriptor
  split
  next hu => exact Formed.of_snd (lasting.translate _ _ _ h) hu
  next hu =>
    have hu := Formed.of_snd (lasting.translate _ _ _ h) hu
    exact formed_after_ite hu hu.structFault
  next hu =>
    have hu := Formed.of_snd (lasting.translate _ _ _ h) hu
    split
    · exact formed_after_ite hu hu
    · exact formed_after_ite hu (formed_after_ite (lasting.loseHoist _ _ _ hu) (hk (e.at _) _ hu))

/-- The descriptor of an FCFG, which the first form has none of. -/
theorem Formed.ownDescriptor {p : Prop} [Decidable p] {va : VAddr} {k : Env → List Byte → Res} (h : Formed r e.s)
    (hk : ∀ e b, Formed r e.s → Formed r (after (k e b))) :
    Formed r (after ((if p then fun k => k e [] else e.descriptor va) k)) := by
  split
  · exact hk _ _ h
  · exact h.descriptor hk

theorem Formed.rangeUnits {xs : List (PageUse × Rights × VAddr × Nat)} (h : Formed r e.s) : Formed r (e.rangeUnits xs).2 := by
  unfold Env.rangeUnits
  suffices hg : ∀ y : List UnitReach × State, Formed r y.2 → Formed r (xs.foldl (fun (y : List UnitReach × State) x =>
      let (us, s) := State.reachUnits (coreOf e.h.src) e.c x.1 x.2.1 false (unitsOf x.2.2.2) x.2.2.1 x.2.2.2 y.2
      (y.1 ++ us, s)) y).2 from hg _ h
  induction xs with
  | nil => exact fun _ h => h
  | cons x xs ih => exact fun y h => ih _ (lasting.reachUnits _ _ _ _ _ _ _ _ h)

theorem Formed.ranges {xs : List (PageUse × Rights × VAddr × Nat)} {k : Env → Res} (h : Formed r e.s)
    (hk : ∀ e, Formed r e.s → Formed r (after (k e))) : Formed r (after (e.ranges xs k)) := by
  unfold Env.ranges
  split
  next hu =>
    have hu := Formed.of_snd h.rangeUnits hu
    refine formed_after_ite hu ?_
    split
    · exact hu.structFault
    · exact hk (e.at _) hu

theorem answered_fcfg {m : BitVec 8} {second first : BitVec 4} (h : Formed r s) : Answered r (execFcfg m second first s) := by
  refine answered_runWord (fun r e h => ?_) h
  extract_lets a b plain here room rt own
  refine formed_after_ite h.windowPerm (formed_after_ite h.windowPerm (formed_after_ite h (h.inOrder fun e h => ?_)))
  refine h.ownDescriptor fun e b h => ?_
  split
  · exact h.ranges fun e h => h.configure
  · refine h.ranges fun e h => formed_after_ite h ?_
    split
    exact h.configure
  · exact h.ranges fun e h => h.descriptor fun e b h => formed_after_ite h h.configure

/-! ### TRACE, HITRD, BEAM and GATE -/

theorem answered_trace {d a b : BitVec 8} (h : Formed r s) : Answered r (execTrace d a b s) :=
  answered_runWord (fun _ _ h => formed_after_ite h (formed_after_ite h.windowPerm h.inFlight)) h

theorem answered_hitrd {d a b : BitVec 8} (h : Formed r s) : Answered r (execHitrd d a b s) :=
  answered_runWord (fun _ _ h => formed_after_ite h (formed_after_ite h.windowPerm h.inFlight)) h

theorem Formed.startBeam {job : BeamJob} (h : Formed r e.s) : Formed r (after (e.startBeam job)) := by
  unfold Env.startBeam
  exact formed_after_ite h.same (Formed.inFlight (Formed.ite h h.same))

theorem answered_beam {d a b : BitVec 8} (h : Formed r s) : Answered r (execBeam d a b s) := by
  refine answered_runWord (fun r e h => ?_) h
  split
  · exact h.startBeam
  · refine formed_after_ite h (formed_after_ite h.windowPerm (formed_after_ite h.windowPerm (formed_after_ite h.windowPerm
      (formed_after_ite h (formed_after_ite h (h.inOrder fun e h => ?_))))))
    split
    · exact lasting.loseHoist _ _ _ h
    · exact formed_after_ite h h.startBeam

theorem answered_gate {d m : BitVec 8} (h : Formed r s) : Answered r (execGate d m s) := by
  refine answered_runWord (fun r e h => ?_) h
  extract_lets core u
  have hu : Formed r u := by
    dsimp only [u]
    split
    · exact h
    · exact h.same
    · exact h.same
  exact hu.same

end

end Sys2Proof.Proofs.Forming

/-!
PROOFS. What every instruction that has a word keeps.
-/

namespace Sys2Proof.Proofs.Forming

open Sys2Proof Sys2Proof.Machine Sys2Proof.Claims Sys2Proof.Laws Sys2Proof.Proofs.Keeping

-- One declaration after another: at once, each would wait in a thread of its own for the ones before it.
set_option Elab.async false

section
variable {r s : State} {e : Env}

theorem Formed.drawn (h : Formed r e.s) : Formed r e.drawn.s := by
  rw [Env.drawn]
  split
  · exact h
  · exact h.same

/-- Every instruction that has a word keeps the form. -/
theorem answered_word {i : Instr} (hw : (encode i).isSome) (h : Formed r s) : Answered r (exec i s) := by
  cases i with
  | nop | hintS | hintH | bra | call | pad | trap | yield | msave | mrest | sadd | ssub | smul | smulh | smad | sand | sor
  | sxor | sshl | sshr | ssra | smin | smax | sminn | smaxn | saddi | smovi | smovhi | scmp | ssel | spop | sclz | sbfe
  | smov | aget | amov | vadd | vsub | vmul | vmulh | vmulhn | vmad | vand | vor | vxor | vshl | vshr | vsra | vmin |
  vmax | vminn | vmaxn | vabs | vpop | vclz | vbfe | vbfi | vaddc | vmov | vmovi | vbcast | viota | vaddi | vshli |
  vcmpEq | vcmpNe | vcmpLt | vcmpLe | vcmpGt | vcmpGe | vcmpLtn | vcmpGen | vfcmpEq | vfcmpNe | vfcmpLt | vfcmpLe |
  vfcmpGt | vfcmpGe | vfcmpOrd | vfcmpUno | vcmov | pand | por | pxor | pnot | pfroms | vfadd | vfsub | vfmul | vfma |
  vfmin | vfmax | vfabs | vfclass | vhadd | vhmul | vhfma | vbadd | vbmul | vbfma | vhdot | vbdot | vdadd | vdmul |
  vdfma | vdmin | vdmax | vunpk | vrcp | vrsq | vsqrt | vexp2 | vlog2 | vsin | vcos | vtanh | vred | vote | vballot |
  vmatch | vbroad | batch =>
    exact answered_runWord (fun _ _ h => h.same) h
  | brz | brnz | mark | mset | mpop | aset | aadv | arestr | vqnt | vdqnt | vcvt | vf2i | vi2f | vrnd | vreord | mxp | regang |
  vperm | vpack =>
    exact answered_runWord (fun _ _ h => formed_after_ite h.same h.same) h
  | join | chk | tcfg =>
    exact answered_runWord (fun _ _ h => formed_after_ite h.same (formed_after_ite h.same h.same)) h
  | vshfl | vscan => exact answered_runWord (fun _ _ h => by dsimp only; exact h.same) h
  | brany | brall => exact answered_runWord forms_branchSlices h
  | calli | jmpi | ret => exact answered_runWord forms_jumpVia h
  | vld | vlds | sld => exact answered_runWord (fun _ _ h => h.load) h
  | vst | vsts | sst => exact answered_runWord (fun _ _ h => h.store) h
  | pref => exact answered_runWord forms_pref h
  | pin => exact answered_runWord (fun _ _ h => h.named1 fun _ _ h => Formed.same (h.foldl fun _ _ h => h.pinLine)) h
  | unpin => exact answered_runWord (fun _ _ h => h.named1 fun _ _ h => h.same) h
  | cflush =>
    exact answered_runWord (fun _ _ h => h.named1 fun s _ h => Formed.inOrderAt (e := Env.at _ s) h fun _ h =>
      formed_after_ite h.same h) h
  | spill | fill => exact answered_runWord (fun _ _ h => h.spillFill) h
  | qpush | qpop => exact answered_runWord (fun _ _ h => h.queueOp) h
  | atom | red | acas | satom => exact answered_runWord (fun _ _ h => h.atomic) h
  | waitc => exact answered_runWord (fun _ _ h => h.waitCounters) h
  | ald => exact answered_runWord (fun _ _ h => Formed.checked (formed_check h) fun _ _ h => h.startLoad) h
  | ast => exact answered_runWord (fun _ _ h => Formed.checked (formed_check h) fun _ _ hs => h.startStore hs) h
  | ptos => exact answered_runWord (fun _ _ h => Formed.same h.drawn) h
  | vcbdec => exact answered_runWord (fun _ _ h => formed_after_ite h (Formed.same h.reloadTable)) h
  | reservedOpcode => exact answered_runIllegal h
  | ext => exact answered_ext h
  | exit => exact answered_exit h
  | isync => exact answered_isync h
  | vregrp => exact answered_vregrp h
  | cpy => exact answered_cpy h
  | cpys => exact answered_cpys h
  | waitb => exact answered_waitb h
  | bara => exact answered_bara h
  | barw => exact answered_barw h
  | bcarr => exact answered_bcarr h
  | bcwait => exact answered_bcwait h
  | qcfg => exact answered_qcfg h
  | acq => exact answered_acq h
  | mwait => exact answered_mwait h
  | fence => exact answered_fence h
  | strel => exact answered_strel h
  | ldacq => exact answered_ldacq h
  | rela => exact answered_rela h
  | slcl => exact answered_slcl h
  | slrl => exact answered_slrl h
  | slld => exact answered_slld h
  | slz => exact answered_slz h
  | mxc => exact answered_mxc h
  | mxrd => exact answered_mxrd h
  | mxwr => exact answered_mxwr h
  | cbld => exact answered_cbld h
  | slst => exact answered_slst h
  | trace => exact answered_trace h
  | beam => exact answered_beam h
  | hitrd => exact answered_hitrd h
  | fins => exact answered_fins h
  | fres => exact answered_fres h
  | fclr => exact answered_fclr h
  | fcfg => exact answered_fcfg h
  | gate => exact answered_gate h
  | srd => exact answered_srd h
  | swr => exact answered_swr h
  | tret => exact answered_tret h
  | ctxsv => exact answered_ctxsv h
  | ctxrs => exact answered_ctxrs h
  | ckpt => exact answered_ckpt h
  | tlbi => exact answered_tlbi h
  | hostsig => exact answered_hostsig h
  | emul => exact answered_emul h
  | _ => exact nomatch hw

end

end Sys2Proof.Proofs.Forming

/-!
PROOFS. What the events of the die keep: copies, beams, grants, service hoists, re-read lines, merges and votes (09_memory.md,
11_ordering.md, 07_lanes.md R158, 05_control.md R115, 21_reliability.md R361–R370).
-/

namespace Sys2Proof.Proofs.Forming

open Sys2Proof Sys2Proof.Machine Sys2Proof.Claims Sys2Proof.Laws Sys2Proof.Proofs.Keeping

-- One declaration after another: at once, each would wait in a thread of its own for the ones before it.
set_option Elab.async false

section
variable {r s : State} {e : Env}

/-! ### Work in flight -/

theorem answered_copyByteArrival {flight element : Nat} (h : Formed r s) : Answered r (execCopyByteArrival flight element s) := by
  change Formed r _
  split
  · split
    · split
      · exact lasting.moveElements _ _ _ h
      · exact h
    · exact h
  · exact h

theorem answered_copyFail {flight : Nat} (h : Formed r s) : Answered r (execCopyFail flight s) := by
  change Formed r _
  split
  · split
    · split
      · exact Formed.ite (lasting.failCopy _ _ _ h) h
      · exact h
    · exact h
  · exact h

theorem answered_fragmentPush {flight : Nat} (h : Formed r s) : Answered r (execFragmentPush flight s) := by
  change Formed r _
  split
  · split
    · exact Formed.ite (lasting.advanceBeam _ _ _ h) h
    · exact h
  · exact h

theorem answered_passGrant {cluster : Nat} (h : Formed r s) : Answered r (execPassGrant cluster s) := by
  change Formed r _
  split
  · exact h.same
  · exact h

theorem answered_atomicServiceRequest {cluster : Nat} (h : Formed r s) : Answered r (execAtomicServiceRequest cluster s) := by
  change Formed r _
  split
  · exact h
  · split
    · exact h.same
    · exact Formed.ite h (Formed.ite h.same (lasting.completeFlight _ h))

/-! ### Lines -/

theorem answered_lineMigrate {line slice : Nat} (h : Formed r s) : Answered r (execLineMigrate line slice s) :=
  Formed.ite h h.same

theorem Formed.rereadLine {line : Nat} (h : Formed r s) : Formed r (s.rereadLine line) := h.wakeWhere

theorem Formed.rereadHost (h : Formed r s) : Formed r s.rereadHost := Formed.ite h h.wakeWhere

/-! ### Merges -/

theorem Formed.mergeGroups {x : Hoist} {ids : List Nat} {f : Slice → Slice} (h : Formed r s) : Formed r (s.mergeGroups x ids f) := h.same

theorem answered_regangMerge {src : Nat} (h : Formed r s) : Answered r (execRegangMerge src s) := by
  change Formed r _
  split
  · exact h
  · refine Formed.ite h ?_
    extract_lets gs low ids u dest
    have hu : Formed r u := h.mergeGroups
    refine Formed.ite h.mergeGroups ?_
    clear_value u dest
    split
    next e he =>
      have hs : Formed r e.s := (issuer_state he).symm ▸ hu.same
      exact Formed.same (s := e.takeTrap { cls := .illop }) hs.takeTrap
    · exact hu

theorem answered_vregrpComplete {src : Nat} (h : Formed r s) : Answered r (execVregrpComplete src s) := by
  change Formed r _
  split
  · exact h
  · split
    · exact Formed.ite h.regroup.regroupFinish h
    · exact h

theorem answered_hoistLost {src : Nat} (h : Formed r s) : Answered r (execHoistLost src s) := by
  change Formed r _
  split
  · exact h
  · exact Formed.ite h (lasting.loseHoist _ _ _ h)

/-! ### Replicas -/

theorem Formed.stopHoist {src : Nat} (h : Formed r s) : Formed r (s.stopHoist src) := by
  unfold State.stopHoist
  exact Formed.same (s := s.settleHoist src) (Formed.settle h)

theorem Formed.replaceReplica {c x : Hoist} {o : Offer} (h : Formed r s) : Formed r (s.replaceReplica c x o) := by
  unfold State.replaceReplica
  exact Formed.logEvent (Formed.same h.stopHoist)

theorem Formed.commitBuffer {c : Hoist} (h : Formed r s) : Formed r (s.commitBuffer c) := by
  unfold State.commitBuffer
  exact Formed.foldl (h.foldl fun _ _ h => lasting.writeShared _ _ _ _ h) fun _ _ h => lasting.unpoison _ h

theorem Formed.commitVote {ms winners : List Hoist} {c : Hoist} {o : Offer} (h : Formed r s) :
    Formed r (s.commitVote ms winners c o) := by
  unfold State.commitVote
  exact Formed.foldl (h.commitBuffer.foldl fun _ _ h => h.same) fun _ _ h => h.replaceReplica

theorem Formed.rollBack {detail : Nat} {x : Hoist} (h : Formed r s) : Formed r (s.rollBack detail x) := by
  unfold State.rollBack
  exact Formed.same (s := s.stopHoist x.src) h.stopHoist

theorem Formed.mismatchRecord {ms : List Hoist} (h : Formed r s) : Formed r (s.mismatchRecord ms) := by
  unfold State.mismatchRecord
  split
  · exact h
  · exact h.logEvent

theorem Formed.vote {ms : List Hoist} (h : Formed r s) : Formed r (s.vote ms) := by
  unfold State.vote
  dsimp only
  split
  · split
    · exact Formed.ite h h.commitVote
    · exact h
  · exact h.mismatchRecord.foldl fun _ _ h => h.rollBack

theorem answered_releaseVote {src : Nat} (h : Formed r s) : Answered r (execReleaseVote src s) := by
  change Formed r _
  split
  · exact h
  · exact Formed.ite h.vote h

theorem answered_lateArrival {src : Nat} (h : Formed r s) : Answered r (execLateArrival src s) := by
  change Formed r _
  split
  · exact h
  · exact Formed.ite h (Formed.ite h.same (Formed.ite h.vote h))

end

end Sys2Proof.Proofs.Forming

/-!
PROOFS. What host and power events keep (27_host.md R428–R445, 21_reliability.md R355–R360).
-/

namespace Sys2Proof.Proofs.Forming

open Sys2Proof Sys2Proof.Machine Sys2Proof.Claims Sys2Proof.Laws Sys2Proof.Proofs.Keeping

-- One declaration after another: at once, each would wait in a thread of its own for the ones before it.
set_option Elab.async false

section
variable {r s t : State}

/-! ### Contexts -/

theorem Formed.activate {n : Nat} {m : Option Mirror} (h : Formed r s) (ht : s.activate n m = some t) : Formed r t := by
  unfold State.activate at ht
  split at ht
  · cases ht
  · dsimp only at ht
    split at ht
    · cases ht
    · cases ht
      exact Formed.same (Formed.ite h (t := s.freshCtx n) h.same)

theorem Formed.refresh {n : Nat} (h : Formed r s) (ht : s.refresh n = some t) : Formed r t := by
  unfold State.refresh at ht
  split at ht
  next c _ _ =>
    dsimp only at ht
    split at ht
    · cases ht
    · cases ht
      exact Formed.same (Formed.commitMask (s := s.updCtx n _) h.same)
  · cases ht

theorem Formed.destroy {n : Nat} (h : Formed r s) : Formed r (s.destroy n) :=
  Formed.endDestroy (Formed.commitMask (s := s.updCtx n _) h.same)

/-- The state that a command makes, or else the one that it leaves. -/
theorem Formed.getD {x : Option State} (hx : ∀ t, x = some t → Formed r t) (h : Formed r s) : Formed r (x.getD s) := by
  cases x with
  | none => exact h
  | some t => exact hx t rfl

theorem Formed.command {cmd ctx value : Nat} (h : Formed r s) : Formed r (s.command cmd ctx value) := by
  unfold State.command
  extract_lets regs t
  have ht : Formed r t := h.same
  refine Formed.ite h (Formed.ite ht.ignoreWrite ?_)
  split
  · exact Formed.getD (fun _ hu => ht.activate hu) ht.ignoreWrite
  · exact Formed.getD (fun _ hu => ht.refresh hu) ht.ignoreWrite
  · exact Formed.ite (Formed.destroy (s := { t with host := _ }) ht.same) ht.writePhys
  · exact ht.ignoreWrite

/-! ### Pushes and expansion -/

/-- Every state that a push may leave keeps the form. -/
def PushFormed (r : State) : Pushed → Prop
  | .appended s => Formed r s
  | .full s => Formed r s
  | .unsupported s => Formed r s
  | .waits s => Formed r s

theorem formed_push {slot : Nat} {data : List Byte} (h : Formed r s) : PushFormed r (s.push slot data) := by
  unfold State.push
  refine iteInduction (motive := PushFormed r) (fun _ => h) fun _ => ?_
  split
  · exact h
  · split
    · exact h
    · refine iteInduction (motive := PushFormed r) (fun _ => h) fun _ => ?_
      split
      · split
        · exact lasting.reach _ _ _ _ _ h
        · exact h.faultCtx
      next hu => exact lasting.queuePush hu h
      next hu =>
        have hu := lasting.queuePush hu h
        exact Formed.ite hu.same hu

theorem answered_pushDmwr {slot : Nat} {data : List Byte} (h : Formed r s) : Answered r (execPushDmwr slot data s) := by
  have hp := formed_push (slot := slot) (data := data) h
  change Formed r _
  split <;> next hx => rw [hx] at hp; exact Formed.same hp

theorem Formed.pushPosted {slot : Nat} {data : List Byte} (h : Formed r s) : Formed r (s.pushPosted slot data) := by
  have hp := formed_push (slot := slot) (data := data) h
  unfold State.pushPosted
  split <;> next hx => rw [hx] at hp; exact Formed.same hp

theorem Formed.expansion {data : List Byte} {posted : Bool} (h : Formed r s) : Formed r (s.expansion data posted) := by
  unfold State.expansion
  exact Formed.ite (Formed.ite h h.same) (Formed.ite (Formed.ite h.same h.same) (Formed.ite h.same h.same))

theorem Formed.expand {x : List Byte} (h : Formed r s) : Formed r (s.expand x) := by
  unfold State.expand
  extract_lets f
  split
  next status out made _ =>
    split
    next produced u hu =>
      have hu : Formed r u := by
        refine Formed.of_snd ?_ hu
        split
        · exact h
        · exact h.same
      extract_lets u1 u2
      have h1 : Formed r u1 := by
        dsimp only [u1]
        split
        · exact hu.writePhys
        · split
          · exact hu
          · exact Formed.writePhys (s := { u with fresh := _ }) hu.same
      exact Formed.raiseMsi (Formed.ite h1 h1.writePhys)

/-! ### Registers -/

theorem Formed.writeEnable {v : Word} (h : Formed r s) : Formed r (s.writeEnable v) := by
  unfold State.writeEnable
  exact Formed.ite h (Formed.ite h.ignoreWrite (Formed.ite (Formed.ite h.same h.same) h))

theorem Formed.writeWindows {off : Nat} {data : List Byte} (h : Formed r s) : Formed r (s.writeWindows off data) := by
  unfold State.writeWindows
  have hs : Formed r (s.setHost fun h => h.write off data) := h.same
  exact Formed.ite h.ignoreWrite (Formed.ite h.writeEnable (Formed.ite hs.writeEnable hs))

theorem Formed.writeMsixWord {off : Nat} {data : List Byte} (h : Formed r s) : Formed r (s.writeMsixWord off data) := by
  unfold State.writeMsixWord State.unmask
  exact Formed.ite h.same (Formed.ite h.same (Formed.ite h.same h.same))

theorem Formed.writeMsix {off : Nat} {data : List Byte} (h : Formed r s) : Formed r (s.writeMsix off data) := by
  unfold State.writeMsix
  exact Formed.ite h.writeMsixWord.writeMsixWord h.writeMsixWord

theorem Formed.registerWrite {off : Nat} {data : List Byte} (h : Formed r s) : Formed r (s.registerWrite off data) := by
  unfold State.registerWrite
  exact Formed.ite h (Formed.ite h.writeWindows (Formed.ite h.pushPosted (Formed.ite h.command (Formed.ite
    (Formed.ite h.ignoreWrite h.resolveWrite) (Formed.ite h.same (Formed.ite h.writeMsix (Formed.ite h.expansion h.ignoreWrite)))))))

theorem Formed.resizeBar {n : Nat} (h : Formed r s) : Formed r (s.resizeBar n) := Formed.ite h h.same

theorem answered_hostAccess {pa : Nat} {write : Bool} {data : List Byte} (h : Formed r s) :
    Answered r (execHostAccess pa write data s) :=
  Formed.ite h (Formed.ite (Formed.ite h.registerWrite h.same) (Formed.ite (Formed.ite h h.same) (Formed.ite h.writePhys h.same)))

/-! ### Failing memory -/

theorem Formed.stopAll (h : Formed r s) : Formed r s.stopAll := h.foldl fun _ _ h => h.stopLeaving

theorem Formed.channelFails {ch : Nat} (h : Formed r s) : Formed r (s.channelFails ch) := by
  unfold State.channelFails
  refine Formed.ite h (Formed.ite (h.foldl fun _ _ h => h.faultCtx) ?_)
  exact Formed.foldl (Formed.stopAll (Formed.logEvent (s := { s with power := _ }) h.same)) fun _ _ h => lasting.poisonSector _ _ h

theorem Formed.uncorrectable {sector source : Nat} (h : Formed r s) : Formed r (s.uncorrectable sector source) := by
  have hp : Formed r (s.poisonSector sector source) := lasting.poisonSector _ _ h
  unfold State.uncorrectable
  exact Formed.ite hp (Formed.ite (Formed.channelFails hp.same) hp.same)

theorem Formed.upset {x : Upset} (h : Formed r s) : Formed r (s.upset x) := by
  cases x with
  | sector k src => exact h.uncorrectable
  | bytes k data src =>
    have hw : Formed r { s with mem := s.mem.writeBytes (32 * k) (data.take 32) } := h.memory wf_writeBytes
    exact Formed.ite hw hw.uncorrectable
  | _ => exact h.same

theorem Formed.hostStore {pa : Nat} {data : List Byte} (h : Formed r s) : Formed r (s.hostStore pa data) :=
  Formed.ite (h.memory wf_writeBytes) h

theorem Formed.rebuild {ch : Nat} (h : Formed r s) : Formed r (s.rebuild ch) := by
  unfold State.rebuild
  refine Formed.ite h ?_
  extract_lets c rest power regs u
  have hu : Formed r u := h.memory (wf_filter _)
  exact Formed.same (s := u.logEvent 7 (0x3300 + ch) none ch (natLe 16 c)) hu.logEvent

/-! ### Resets and power -/

/-- A machine of empty TLBs. -/
theorem Formed.cleared (h : Formed r s) (hm : s.mem.wf = true → t.mem.wf = true) (hc : t.coreTlb = [] := by rfl)
    (hl : t.clusterTlb = [] := by rfl) : Formed r t :=
  h.trans ⟨hm, fun x hx => by rw [hc, hl] at hx; cases hx⟩

theorem Formed.functionReset (h : Formed r s) : Formed r s.functionReset := h.cleared id

theorem Formed.cold {powered : Bool} (h : Formed r s) : Formed r (s.cold powered) := h.cleared (wf_filter _)

theorem Formed.throttleRecord (h : Formed r s) : Formed r s.throttleRecord := by
  unfold State.throttleRecord
  exact Formed.logEvent (s := s.free.2) h.same

theorem answered_clockStepDown {causes : BitVec 2} (h : Formed r s) : Answered r (execClockStepDown causes s) :=
  Formed.ite h (Formed.ite (Formed.raiseMsi (Formed.throttleRecord h.same)) h.same)

theorem Formed.relieve {causes : BitVec 2} (h : Formed r s) : Formed r (s.relieve causes) := h.same

theorem answered_throttleEnd (h : Formed r s) : Answered r (execThrottleEnd s) :=
  Formed.ite (Formed.throttleRecord (s := { s with power := _ }) h.same) h

end

end Sys2Proof.Proofs.Forming

/-!
PROOFS. What link and checkpoint events keep (25_docking.md R410–R425).
-/

namespace Sys2Proof.Proofs.Forming

open Sys2Proof Sys2Proof.Machine Sys2Proof.Claims Sys2Proof.Laws Sys2Proof.Proofs.Keeping

-- One declaration after another: at once, each would wait in a thread of its own for the ones before it.
set_option Elab.async false

section
variable {r s t : State} {c : Ctx} {m : Mirror} {d : Dock} {page : BitVec 56} {n ctx : Nat}

theorem Formed.updCtx {f : Ctx → Ctx} (h : Formed r s) : Formed r (s.updCtx n f) := h.same

theorem Formed.updMirror {f : Mirror → Mirror} (h : Formed r s) : Formed r (s.updMirror n f) := h.updCtx

theorem Formed.send {code : Nat} {payload : List Byte} (h : Formed r s) : Formed r (s.send code payload) := h.same

theorem Formed.sendHomedone {st : Nat} (h : Formed r s) : Formed r (s.sendHomedone ctx page st) := h.send

theorem Formed.homeMoved (h : Formed r s) : Formed r (s.homeMoved ctx page) := h.updMirror

/-! ### Pages that move home -/

theorem Formed.setHomeState {tab i st : Nat} (h : Formed r s) : Formed r (s.setHomeState tab i st) := h.writePhys

theorem Formed.whenClear {u : Turn} {k : State → State} (h : Formed r s) (hk : ∀ s, Formed r s → Formed r (k s)) :
    Formed r (s.whenClear c page u k) := by
  unfold State.whenClear
  split
  · exact hk _ h
  · extract_lets v
    have hv : Formed r v := Formed.ite h.settle h
    exact Formed.ite hv.same (hk _ hv)

theorem Formed.copyFrame {src dst : Nat} (h : Formed r s) : Formed r (s.copyFrame src dst) := h.writePhys.carryPoison

theorem Formed.moveHome {b : Bool} (h : Formed r s) : Formed r (s.moveHome d n page b) := by
  unfold State.moveHome
  split
  · exact h
  · extract_lets tpa mpa old u v
    have hu : Formed r u := Formed.ite h.copyFrame h
    have hv : Formed r v := by
      dsimp only [v]
      split
      · exact hu.writePhys
      · exact hu
    clear_value v
    exact hv.setHomeState.invalidateAll

/-! ### Banks -/

theorem Formed.writePage {a : Nat} {x : Nat × BitVec 56} (h : Formed r s) : Formed r (s.writePage m a x) := h.writePhys.carryPoison

theorem Formed.dropPage (h : Formed r s) : Formed r (s.dropPage ctx page) := h.filterTlbs

theorem Formed.pageLogged {x : Nat × BitVec 56} (h : Formed r s) : Formed r (s.pageLogged c m x) := by
  unfold State.pageLogged
  extract_lets moves u
  have hu : Formed r u := by
    dsimp only [u]
    split
    · exact h.writePhys
    · exact h
  exact Formed.dropPage (Formed.ite hu.setHomeState hu)

theorem Formed.nextRequests (h : Formed r s) : Formed r (s.nextRequests ctx) := by
  unfold State.nextRequests
  split
  · extract_lets u
    have hu : Formed r u := Formed.foldl (s := s.updMirror ctx _) h.same fun _ _ h => h.same
    exact Formed.ite hu hu.requestGeneration
  · exact h

theorem Formed.writeBank (h : Formed r s) : Formed r (s.writeBank c m) := by
  unfold State.writeBank
  extract_lets g bs frames pages writes poff woff a s1 s2 s3 s4 s5
  refine Formed.ite (Formed.nextRequests (Formed.same (s := s.faultCtx c.id _ _ _) h.faultCtx)) ?_
  have h2 : Formed r s2 := h.writePhys.foldl fun _ _ h => h.writePage
  have h5 : Formed r s5 := h2.writePhys.writePhys.foldl fun _ _ h => h.pageLogged
  exact h5.same

/-! ### What a commit releases -/

theorem Formed.acknowledge (h : Formed r s) : Formed r (s.acknowledge ctx) := by
  unfold State.acknowledge
  split
  · exact h
  · exact h.same

theorem Formed.releaseOne {w : HeldWrite} (h : Formed r s) (ht : s.releaseOne ctx w = some t) : Formed r t := by
  cases w with
  | companion =>
    cases ht
    exact h
  | host pa bs =>
    cases ht
    exact h.writePhys
  | signal src v p =>
    rw [State.releaseOne] at ht
    split at ht
    · cases ht
      exact h.signal
    · cases ht

theorem Formed.releaseHeld {kept ws : List (Nat × HeldWrite)} (h : Formed r s) : Formed r (State.releaseHeld ctx n kept ws s).2 := by
  induction ws generalizing kept s with
  | nil => exact h
  | cons w ws ih =>
    rw [State.releaseHeld]
    split
    · exact h
    · split
      · exact ih h
      · split
        next hu => exact ih (h.releaseOne hu)
        · exact h

theorem Formed.releaseEgress {ws : List (Nat × HeldWrite)} (h : Formed r s) : Formed r (State.releaseEgress ws s) := by
  induction ws generalizing s with
  | nil => exact h.same
  | cons w ws ih =>
    rw [State.releaseEgress]
    split
    next hu => exact ih (h.releaseOne hu)
    · exact h.same

theorem Formed.releaseCtx (h : Formed r s) : Formed r (s.releaseCtx ctx) := by
  unfold State.releaseCtx
  extract_lets u
  have hu : Formed r u := h.releaseEgress
  clear_value u
  split
  · exact hu
  · split
    next hv => exact Formed.acknowledge (Formed.same (Formed.of_snd hu.releaseHeld hv))

theorem Formed.clearAway (h : Formed r s) : Formed r (s.clearAway ctx) := by
  unfold State.clearAway
  exact Formed.same (s := State.endDestroy _ ctx) (Formed.endDestroy (s := s.updCtx ctx _) h.same)

theorem Formed.leave {g : Nat} (h : Formed r s) : Formed r (s.leave ctx g) := h.clearAway.same

theorem Formed.commit (h : Formed r s) : Formed r (s.commit c m) := by
  unfold State.commit
  extract_lets g s1 link s2 s3 s4
  have h3 : Formed r s3 := Formed.same (s := s1) h.writePhys
  have h4 : Formed r s4 := Formed.same (s := s3.releaseCtx c.id) h3.releaseCtx
  exact Formed.ite h4.leave (Formed.same (s := s4.nextRequests c.id) h4.nextRequests)

theorem answered_commitMarker (h : Formed r s) : Answered r (execCommitMarker ctx s) := by
  change Formed r _
  split
  · exact h
  · split
    · exact h
    · split
      · exact Formed.ite h.writeBank h
      · exact h.commit
      · exact h

theorem answered_quiesce (h : Formed r s) : Answered r (execQuiesce ctx s) := by
  change Formed r _
  split
  · exact h
  · split
    · exact h
    · exact Formed.ite (Formed.ite (h.wakeWhere.foldl fun _ _ h => h.endToken) (Formed.requestGeneration (s := s.updMirror ctx _) h.same))
        (Formed.ite h.same h)

/-! ### Banks that are applied -/

theorem Formed.performLog {xs : List (Nat × List Byte)} (h : Formed r s) : Formed r (State.performLog xs s) :=
  h.foldl fun _ _ h => h.writePhys

theorem Formed.applyLogs {g : Nat} (h : Formed r s) : Formed r (s.applyLogs d g) := by
  unfold State.applyLogs
  exact (h.foldl fun _ _ h => h.copyFrame).performLog

theorem Formed.applyBank {g : Nat} (h : Formed r s) : Formed r (s.applyBank n g) := by
  unfold State.applyBank
  exact (h.applyLogs.foldl fun _ _ h => h.moveHome).writePhys

theorem Formed.noteLink {old : State} (h : Formed r s) : Formed r (s.noteLink old) := Formed.ite h h.same

theorem answered_hello {peer : BitVec 32} {table : Nat} (h : Formed r s) : Answered r (execHello peer table s) :=
  Formed.ite (s := { s with link := _ }) h.same (Formed.noteLink h.same)

theorem answered_timesync {v : BitVec 64} {latency : Nat} (h : Formed r s) : Answered r (execTimesync v latency s) := by
  change Formed r _
  refine Formed.ite h ?_
  split
  · exact Formed.ite h.same h
  · exact Formed.ite h.same h.same

theorem Formed.migrate (h : Formed r s) : Formed r (s.migrate n).2 := by
  unfold State.migrate
  extract_lets d m t
  split
  · exact h
  · split
    · exact h
    · split
      next ht => exact Formed.activate (s := t) h.writePhys ht
      · exact h

theorem answered_migrate (h : Formed r s) : Answered r (execMigrate ctx s) :=
  Formed.ite h (h.migrate (n := ctx)).same

theorem answered_returnCtx (h : Formed r s) : Answered r (execReturnCtx ctx s) :=
  Formed.ite h (Formed.commitMask (s := s.updMirror ctx _) h.same)

theorem Formed.takeBack (h : Formed r s) : Formed r (s.takeBack n) := by
  unfold State.takeBack
  extract_lets d mask s1 s2 core ending
  have h1 : Formed r s1 := h.writePhys.commitMask.updCtx
  have h2 : Formed r s2 := h1.writePhys
  exact h2.same

theorem Formed.apply {g : Nat} (h : Formed r s) : Formed r (s.apply n g) := by
  unfold State.apply
  extract_lets d done homes s1 link s2
  have h1 : Formed r s1 := Formed.foldl (Formed.ite h h.applyBank) fun _ _ h => h.sendHomedone
  have h2 : Formed r s2 := h1.same
  exact Formed.ite h2.takeBack h2

theorem answered_retdone {g : BitVec 32} (h : Formed r s) : Answered r (execRetdone ctx g s) :=
  Formed.ite h (Formed.ite h.takeBack h.same)

/-! ### Home requests -/

theorem Formed.companionAsks (h : Formed r s) : Formed r (s.companionAsks ctx page) := by
  unfold State.companionAsks
  split
  · exact h
  · exact Formed.ite h (Formed.ite (Formed.requestGeneration (s := s.updMirror ctx _) h.same) h.same)

theorem Formed.tsuordAsks (h : Formed r s) : Formed r (s.tsuordAsks ctx page) := by
  unfold State.tsuordAsks
  exact Formed.ite h.sendHomedone (h.whenClear fun _ h => h.moveHome.sendHomedone)

theorem answered_homereq {b : Bool} (h : Formed r s) : Answered r (execHomereq b ctx page s) := by
  change Formed r _
  refine Formed.ite h ?_
  split
  · exact h.companionAsks
  · exact h.tsuordAsks
  · exact h

theorem Formed.performOnce (h : Formed r s) : Formed r (s.performOnce d ctx) := by
  unfold State.performOnce
  dsimp only
  split
  · exact Formed.ite h h.applyLogs
  · exact h.applyLogs

theorem answered_homedone {st : Nat} (h : Formed r s) : Answered r (execHomedone ctx page st s) :=
  Formed.ite h (Formed.ite (h.whenClear fun _ h => h.moveHome.homeMoved) (Formed.ite h.performOnce.moveHome.homeMoved h.homeMoved))

theorem answered_applied {g : BitVec 32} (h : Formed r s) : Answered r (execApplied ctx g s) :=
  Formed.ite h (Formed.acknowledge (Formed.same (s := s.applyBank ctx g.toNat) h.applyBank))

theorem answered_checkpointPeriod (h : Formed r s) : Answered r (execCheckpointPeriod ctx s) := by
  change Formed r _
  split
  · exact h
  · split
    · exact h
    · exact Formed.ite h.requestGeneration h

/-! ### The loss of the link -/

theorem Formed.loseCtx (h : Formed r s) : Formed r (s.loseCtx c m) := by
  unfold State.loseCtx
  exact Formed.same (s := State.clearAway _ c.id) (Formed.clearAway (h.logEvent.foldl fun _ _ h => h.removeBlock))

theorem Formed.lossOnTsuord (h : Formed r s) : Formed r s.lossOnTsuord :=
  h.foldl fun s c h => by
    split
    · exact h.releaseCtx.loseCtx
    · exact h

theorem Formed.recoverFrame {bs : List Byte} (h : Formed r s) : OkOf (Formed r) (s.recoverFrame c bs) := by
  unfold State.recoverFrame
  exact h.popFrames fun _ _ h => h.ctxPut fun _ h => .ok h.pushReady

theorem Formed.recoverFrames {fs : List (List Byte)} (h : Formed r s) : Formed r (State.recoverFrames n fs s).2 := by
  induction fs generalizing s with
  | nil => exact h
  | cons f fs ih =>
    rw [State.recoverFrames]
    split
    · exact h
    next c _ =>
      extract_lets a t
      have ha : OkOf (Formed r) a := h.recoverFrame
      have ht : Formed r t := h.acted ha
      clear_value t a
      split
      · exact ih ht
      · exact ih ht
      · exact ht

theorem Formed.recoverStep (h : Formed r s) : Formed r (s.recoverStep n) := by
  unfold State.recoverStep
  split
  · exact h
  · split
    next rest u hu =>
      have hu := Formed.of_snd h.recoverFrames hu
      exact Formed.ite (Formed.logEvent (Formed.takeBack (s := { u with link := _ }) hu.same)) hu.same

theorem Formed.recoverCtx (h : Formed r s) : Formed r (s.recoverCtx n) := by
  unfold State.recoverCtx
  extract_lets d head s1 pages s2 s3 bank frames
  have h1 : Formed r s1 := Formed.ite h.applyBank h
  have h3 : Formed r s3 := (h1.foldl fun _ _ h => h.moveHome).invalidate
  clear_value s3
  exact Formed.ite h (Formed.recoverStep h3.same)

theorem Formed.lose (h : Formed r s) : Formed r s.lose := by
  unfold State.lose
  extract_lets old u
  have hu : Formed r u := by
    dsimp only [u]
    have hs : Formed r s.unlink := h.same
    split
    · exact hs.lossOnTsuord
    · exact hs.foldl fun _ _ h => h.recoverCtx
  exact Formed.ite h hu.raiseMsi.noteLink

end

end Sys2Proof.Proofs.Forming

/-!
PROOFS. Every step keeps memory in canonical form and known page-table entries at addresses of eight bytes (log 1, 09_memory.md
R183–R186).
-/

namespace Sys2Proof.Proofs.Forming

open Sys2Proof Sys2Proof.Machine Sys2Proof.Claims Sys2Proof.Laws Sys2Proof.Proofs.Keeping

-- One declaration after another: at once, each would wait in a thread of its own for the ones before it.
set_option Elab.async false

section
variable {r s t : State}

/-! ### Events -/

theorem answered_joinDecrement {ctx : Nat} {va : VAddr} (h : Formed r s) : Answered r (execJoinDecrement ctx va s) := by
  change Formed r _
  split
  · exact h.onEventAt fun _ => h.lowerJoin
  · exact h

theorem answered_translationRequest {token : Nat} (h : Formed r s) : Answered r (execTranslationRequest token s) := by
  change Formed r _
  split
  · exact Formed.ite h.refuse h.sendRequest.parkFaulting
  · exact h

theorem answered_gridEnd {ctx entry : Nat} (h : Formed r s) : Answered r (execGridEnd ctx entry s) := by
  change Formed r _
  split
  · exact h.onEventAt fun _ => h.endGrid
  · exact h

theorem answered_ensignEvaluation {core : Nat} (h : Formed r s) : Answered r (execEnsignEvaluation core s) := by
  have ht := h.evaluate (core := core)
  unfold execEnsignEvaluation
  generalize s.evaluate core = t at ht
  exact ht.same

theorem answered_blockPark {n : Nat} (h : Formed r s) : Answered r (execBlockPark n s) := by
  change Formed r _
  split
  next b _ => exact Formed.ite (Formed.saveSpan (s := s.stopSpan b.span 1) h.same) h
  · exact h

theorem answered_coremaskCommit {ctx : Nat} {mask : BitVec 192} (h : Formed r s) : Answered r (execCoremaskCommit ctx mask s) := by
  change Formed r _
  split
  · exact h.agentWrite.commitMask
  · exact h

theorem answered_expansionDone (h : Formed r s) : Answered r (execExpansionDone s) := by
  change Formed r _
  split
  · exact Formed.expand (s := { s with host := _ }) h.same
  · exact h

/-- Every event keeps the form. -/
theorem answered_event {i : Instr} (hi : encode i = none) (h : Formed r s) : Answered r (exec i s) := by
  cases i with
  | loadDataReturn | writePerformed | copyComplete | slotRelease | slotFillComplete | passComplete | slotStoreComplete
  | traceComplete | beamComplete | hitrdComplete | tileOrderOperation => exact Formed.completeWhen h
  | joinDecrement => exact answered_joinDecrement h
  | hoistRetire => exact Formed.retire h
  | regangMerge => exact answered_regangMerge h
  | vregrpComplete => exact answered_vregrpComplete h
  | blockKill => exact Formed.kill h
  | translationRequest => exact answered_translationRequest h
  | gridReady => exact Formed.onEvent h fun _ _ => h.readyGrid
  | gridEnd => exact answered_gridEnd h
  | releaseVote => exact answered_releaseVote h
  | ensignEvaluation => exact answered_ensignEvaluation h
  | preemptSave => exact Formed.saveSpan h.stopLeaving
  | quiesce => exact answered_quiesce h
  | commitMarker => exact answered_commitMarker h
  | blockPark => exact answered_blockPark h
  | copyFail => exact answered_copyFail h
  | passGrant => exact answered_passGrant h
  | fragmentPush => exact answered_fragmentPush h
  | atomicServiceRequest => exact answered_atomicServiceRequest h
  | lineMigrate => exact answered_lineMigrate h
  | copyByteArrival => exact answered_copyByteArrival h
  | hostLineReread | hostSnoop => exact Formed.rereadLine h
  | codebookReload => exact Formed.reloadTable h
  | coremaskCommit => exact answered_coremaskCommit h
  | hoistLost => exact answered_hoistLost h
  | admissionHold => exact Formed.same h
  | lateArrival => exact answered_lateArrival h
  | pseudoChannelFailing => exact Formed.channelFails h
  | interleaveRebuild => exact Formed.rebuild h
  | pushDmwr => exact answered_pushDmwr h
  | pushPosted => exact Formed.pushPosted h
  | activate | refresh | destroy => exact Formed.command h
  | resolveRetry | resolveRefuse => exact Formed.resolveWrite h
  | expansionCommand => exact Formed.expansion h
  | expansionDone => exact answered_expansionDone h
  | enable => exact Formed.writeEnable h
  | registerWrite => exact Formed.registerWrite h
  | hostAccess => exact answered_hostAccess h
  | ckptGo => exact Formed.requestGeneration h
  | perstDeassert | d3coldEntry | thermtrip => exact Formed.cold h
  | configSpaceReady | bar0Ready | d3hotEntry => exact Formed.ite h.same h
  | functionLevelReset | hotReset | upstreamLinkDown => exact Formed.functionReset h
  | clusterClockGate | clockStepUp => exact Formed.ite h h.same
  | clockStepDown => exact answered_clockStepDown h
  | throttleEnd => exact answered_throttleEnd h
  | hello => exact answered_hello h
  | timesync => exact answered_timesync h
  | migrate => exact answered_migrate h
  | migack => exact Formed.ite h.same h
  | returnCtx => exact answered_returnCtx h
  | retdone => exact answered_retdone h
  | homereq => exact answered_homereq h
  | homedone => exact answered_homedone h
  | ckmark => exact Formed.ite h.apply h
  | applied => exact answered_applied h
  | halyardReservedMessage => exact Formed.ite h.logEvent h
  | checkpointPeriod => exact answered_checkpointPeriod h
  | flitTimeout | linkLoss => exact Formed.lose h
  | _ => exact nomatch hi

theorem answered_exec {i : Instr} (h : Formed r s) : Answered r (exec i s) := by
  cases hi : encode i with
  | none => exact answered_event hi h
  | some w => exact answered_word (by rw [hi]; rfl) h

/-! ### Turns -/

theorem answered_stepWord {src g : Nat} (h : Formed r s) : Answered r (stepWord src g s) := by
  unfold stepWord
  split
  · exact h
  next e he =>
    have hs : Formed r e.s := by
      rw [issuer_state he]
      exact Formed.same (s := s.openClock src) h.openClock
    have hf := formed_fetch hs
    split
    next hx =>
      rw [hx] at hf
      exact hf
    next hx =>
      rw [hx] at hf
      split
      · exact answered_exec hf
      · exact answered_runIllegal hf

theorem answered_stepEvent {i : Instr} (h : Formed r s) : Answered r (stepEvent i s) := by
  unfold stepEvent
  split
  · exact answered_exec h
  · exact h

theorem answered_stepTurn {x : Turn} (h : Formed r s) : Answered r (stepTurn x s) := by
  cases x with
  | event => exact answered_stepEvent h
  | push slot data posted =>
    cases posted with
    | true => exact Formed.pushPosted h
    | false => exact answered_pushDmwr h
  | homereq => exact answered_homereq h
  | homedone => exact answered_homedone h
  | word src g =>
    rw [stepTurn]
    split
    · exact answered_stepWord h
    · exact h
  | tick n => exact Formed.same (s := s.rereadHost) h.rereadHost
  | upset => exact Formed.upset h
  | hostStore => exact Formed.hostStore h
  | resizeBar => exact Formed.resizeBar h
  | watch => exact Formed.watch h
  | relieve => exact Formed.relieve h

theorem answered_stepDue {d : Due} (h : Formed r s) : Answered r (stepDue d s) := by
  cases d with
  | turn => exact answered_stepTurn h
  | passGrant => exact answered_passGrant h
  | reread => exact Formed.rereadLine h
  | lateArrival => exact answered_lateArrival h
  | admissionHold => exact Formed.same h
  | rebuild => exact Formed.rebuild h
  | release => exact Formed.releaseCtx h
  | apply => exact Formed.apply h
  | recover => exact Formed.recoverStep h
  | expansionDone => exact answered_expansionDone h
  | throttleEnd => exact answered_throttleEnd h

/-- What a step answers keeps the form that its state has. -/
theorem answered_step (s : State) : Answered s (step s) := by
  have h := formed_refl s
  unfold step
  split
  · exact answered_stepWord h
  · split
    · exact answered_stepTurn h.same
    · exact answered_stepDue h.same

theorem formed_step (ht : step s = .next t) : Formed s t := by
  have h := answered_step s
  rw [ht] at h
  exact h

theorem entriesAligned_reset : EntriesAligned State.reset := fun _ hx => nomatch hx

end

/-- Settles O57: every operation of the machine, traced down to its writes of the die order and its fills of the TLBs, keeps memory in
canonical form and makes known only entries at addresses of eight bytes beside those known before. -/
theorem memoryKeepsForm : Obligations.MemoryKeepsForm := by
  unfold Obligations.MemoryKeepsForm
  exact ⟨fun _ _ hc ht => (formed_step ht).1 hc, entriesAligned_reset, fun _ _ ha ht => (formed_step ht).entriesAligned ha⟩

end Sys2Proof.Proofs.Forming
